-- ==== Sys2Proof/Word.lean ====
section
/-! DEFINITION. The word types of the module and their plainest arithmetic (00 R3-R5). -/

namespace Sys2Proof

/-- A 64-bit register value, address or command word. -/
abbrev Word := BitVec 64

/-- A byte of any memory. -/
abbrev Byte := BitVec 8

/-- A 512-bit vector register (02 R36). -/
abbrev VWord := BitVec 512

/-- A 96-bit instruction word (02 R27). -/
abbrev IWord := BitVec 96

/-- The division that rounds up; `⌈a / b⌉` of the manual's formulas. -/
def ceilDiv (a b : Nat) : Nat := (a + b - 1) / b

end Sys2Proof
end

