-- ==== Sys2Proof/Syntax/Names.lean ====
section
/-! DEFINITION. The names an instruction can hold: places, registers, types, conditions, operand forms (01 R16, 02 R27-R32). -/

namespace Sys2Proof

/-- A core of the module (01 R16): stack 0-5, x 0-63, y 0-31. -/
structure CoreId where
  stack : Fin 6
  x : Fin 64
  y : Fin 32
  deriving DecidableEq, Repr, Inhabited

/-- A slot of a core of this module (01 R16). -/
structure Who where
  core : CoreId
  slot : Fin 16
  deriving DecidableEq, Repr, Inhabited

/-- A slot of any module of the domain. -/
structure Agent where
  mod : Fin 4096
  who : Who
  deriving DecidableEq, Repr, Inhabited

/-- A cluster, and the matrix engine below it (01 R16, R17). -/
structure ClusterId where
  stack : Fin 6
  num : Fin 256
  deriving DecidableEq, Repr, Inhabited

abbrev SReg := Fin 32
abbrev FReg := Fin 32
abbrev VReg := Fin 16
abbrev KReg := Fin 8
abbrev YReg := Fin 4
abbrev MbIdx := Fin 64

/-- An s register, or the class-111 immediate 0-31 (02 R28). -/
inductive SI | s (r : SReg) | imm (n : Fin 32)
  deriving DecidableEq, Repr, Inhabited

/-- The s or k destination of a comparison (09 R188). -/
inductive SK | s (r : SReg) | k (r : KReg)
  deriving DecidableEq, Repr, Inhabited

/-- An s or f register (04 R86). -/
inductive SF | s (r : SReg) | f (r : FReg)
  deriving DecidableEq, Repr, Inhabited

/-- An s, f or v register (08 R179). -/
inductive SFV | s (r : SReg) | f (r : FReg) | v (r : VReg)
  deriving DecidableEq, Repr, Inhabited

/-- A v register, or an f register broadcast to every lane (10 R206). -/
inductive VF | v (r : VReg) | f (r : FReg)
  deriving DecidableEq, Repr, Inhabited

/-- A v register, or an s register broadcast to every lane (10 R206). -/
inductive VS | v (r : VReg) | s (r : SReg)
  deriving DecidableEq, Repr, Inhabited

/-- The scopes of 02 R32 and 14 R292. -/
inductive Scope | slot | core | cluster | stack | mdl | fabric
  deriving DecidableEq, Repr, Inhabited

/-- The access widths of 02 R32. -/
inductive Width | b | h | w | d | v | vv
  deriving DecidableEq, Repr, Inhabited

/-- The element types of 03 R47. -/
inductive ETy | fp32 | bf16 | t8 | t6 | i32 | i16 | i8 | fp64
  deriving DecidableEq, Repr, Inhabited

/-- The rounding direction named by an instruction; `dyn` takes it from `rmode` (02 R43, 03 R57). -/
inductive Rnd | rne | rz | rp | rm | dyn
  deriving DecidableEq, Repr, Inhabited

/-- The integer conditions of 09 R188. -/
inductive Cond | eq | ne | lt | ge | ltu | geu | le | gt | leu | gtu
  deriving DecidableEq, Repr, Inhabited

/-- The floating conditions of 09 R197. -/
inductive FCond | eq | ne | lt | le | gt | ge | un
  deriving DecidableEq, Repr, Inhabited

/-- The atomic operations of 04 R88. -/
inductive AmoOp | add | and | or | xor | min | max | umin | umax | swap | fadd
  deriving DecidableEq, Repr, Inhabited

/-- The integer destinations of `fcvti` (09 R200). -/
inductive IDst | int64 | nat64 | int32 | nat32
  deriving DecidableEq, Repr, Inhabited

/-- The three timelines a program can name (02 R28). -/
inductive Tl | c | m | x
  deriving DecidableEq, Repr, Inhabited

/-- The sign choices of `fsgnj` (09 R196). -/
inductive SgnMode | cp | neg | xor
  deriving DecidableEq, Repr, Inhabited

/-- The guard and the hints every word carries (02 R27, R30, R31). -/
structure Hdr where
  /-- guard negate, bit [83] -/
  neg : Bool
  /-- guard predicate, bits [82:80] -/
  pred : KReg
  /-- branch hint, bits [79:78]: 0 none, 1 likely, 2 unlikely -/
  bh : Fin 3
  /-- eviction priority, bits [77:76] -/
  ev : Fin 4
  /-- roam hint, bit [75] -/
  roam : Bool
  /-- repeat hint, bit [74] -/
  rep : Bool
  deriving DecidableEq, Repr, Inhabited

/-- The unguarded header without hints. -/
def Hdr.plain : Hdr := ⟨false, 0, 0, 0, false, false⟩

/-- The extension of a memory access (02 R32): scope, width, signed bit, 41-bit offset. -/
structure MemArgs where
  scope : Scope
  width : Width
  sg : Bool
  off : BitVec 41
  deriving DecidableEq, Repr, Inhabited

/-- The extension of an atomic (04 R88): scope, width, 37-bit offset. -/
structure AmoArgs where
  scope : Scope
  width : Width
  off : BitVec 37
  deriving DecidableEq, Repr, Inhabited

/-- The extension of a tile instruction (02 R32, 05 R114): scratchpad address, size code, count, version operand. -/
structure TileArgs where
  addr : BitVec 18
  c : Fin 16
  cnt : BitVec 8
  b : Option SReg
  imm : BitVec 18
  deriving DecidableEq, Repr, Inhabited

/-- The type, rounding and mask of a vector instruction (10 R205, R207); the mask names v8 + n. -/
structure VMod where
  t : ETy
  rm : Rnd
  mask : Option (Fin 4)
  deriving DecidableEq, Repr, Inhabited

/-- The extension of `mdrain` (11 R240). -/
structure DrainArgs where
  bank : Fin 4
  ty : Fin 16
  tr : Bool
  clr : Bool
  tf : Fin 4
  sync : Bool
  deriving DecidableEq, Repr, Inhabited

/-- Floating lane operations of two sources (10 R212). -/
inductive VFBin | add | sub | mul | div | min | max
  deriving DecidableEq, Repr, Inhabited

/-- Fused lane operations (10 R212). -/
inductive VFma | ma | ms | nma
  deriving DecidableEq, Repr, Inhabited

/-- Floating lane operations of one source (10 R212, R213). -/
inductive VFUn | abs | neg | sqrt | exp2 | log2 | rcp | rsq
  deriving DecidableEq, Repr, Inhabited

/-- Integer lane operations of two sources (10 R214). -/
inductive VIBin | add | sub | mul | mulh | min | max | and | or | xor | shl | shr | sra | div | rem
  deriving DecidableEq, Repr, Inhabited

/-- The floating reductions (10 R220). -/
inductive VRed | add | max | min
  deriving DecidableEq, Repr, Inhabited

/-- One vector operation with its operands, as a repetition executes it (10 R209). -/
inductive VOp
  | fbin (o : VFBin) (m : VMod) (d a : VReg) (b : VF)
  | fma (o : VFma) (m : VMod) (d a : VReg) (b c : VF)
  | fun1 (o : VFUn) (m : VMod) (d a : VReg)
  | ibin (o : VIBin) (u : Bool) (m : VMod) (d a : VReg) (b : VS)
  | iabs (m : VMod) (d a : VReg)
  | ipopc (m : VMod) (d a : VReg)
  | cmp (c : Cond) (m : VMod) (d a : VReg) (b : VS)
  | fcmp (c : FCond) (m : VMod) (d a : VReg) (b : VF)
  | sel (t : ETy) (d a b c : VReg)
  | cvt (src : ETy) (m : VMod) (d a : VReg) (p : Fin 32)
  | cvts (dst src : ETy) (d a : VReg)
  | red (o : VRed) (m : VMod) (d : FReg) (a : VReg)
  | redi (m : VMod) (d : SReg) (a : VReg)
  | compress (t : ETy) (d a b : VReg)
  | expand (t : ETy) (d a b : VReg)
  | slideup (t : ETy) (d a : VReg) (n : SI)
  | slidedn (t : ETy) (d a : VReg) (n : SI)
  | perm (t : ETy) (d a b : VReg)
  | bcastS (t : ETy) (d : VReg) (a : SF)
  | bcastL (t : ETy) (d a : VReg) (n : SI)
  | movLane (t : ETy) (sg : Bool) (d : SF) (a : VReg) (n : SI)
  | movCnt (t : ETy) (d : SReg) (a : VReg)
  | movBits (t : ETy) (d : SReg) (a : VReg)
  | ins (t : ETy) (d : VReg) (a : SF) (n : SI)
  | zord (x2 hi : Bool) (d a b : VReg) (c : Option VReg)
  | gath (m : MemArgs) (d : VReg) (a : SReg) (b : VReg)
  | scat (m : MemArgs) (d : VReg) (a : SReg) (b : VReg)
  deriving DecidableEq, Repr, Inhabited

end Sys2Proof
end

