-- ==== Sys2Proof/Syntax/Packets.lean ====
section
/-! DEFINITION. What travels between the units of the module and over Erg: packets, flits, tasks, messages, guests
(06 R128-R130, 12 R248, 16 R340, 17 R373). -/

namespace Sys2Proof

/-- The traffic classes of 06 R130 and 12 R248. -/
inductive TClass | request | reply | notice | bulk | collective
  deriving DecidableEq, Repr, Inhabited

/-- A task descriptor's content (16 R340). -/
structure Task where
  entry : Word
  arg0 : Word
  arg1 : Word
  prio : Fin 4
  pinned : Bool
  gated : Bool
  gname : Word
  gver : BitVec 32
  deriving DecidableEq, Repr, Inhabited

/-- A queued task: the bits its start puts into s3 (16 R342), and the pushing slot of this module with the number
of the first store it had not issued, which the start carries and a thief waits for (14 R419, 16 R343). -/
structure QEntry where
  task : Task
  fallback : Bool
  stolen : Bool
  wasGated : Bool
  /-- the stores a task of the pushing core carries: those of each slot below a number (14 R419) -/
  pusher : List (Who × Nat)
  deriving DecidableEq, Repr, Inhabited

/-- A short message's entry (17 R373). -/
structure Msg where
  src : BitVec 32
  slot : Fin 16
  kind : Fin 4
  tag : BitVec 16
  payload : Word
  deriving DecidableEq, Repr, Inhabited

/-- What a roaming thread carries (12 R261); `roamed` says that it moved by the roam hint, for the access it is to perform next. -/
structure Guest where
  home : Agent
  job : BitVec 32
  pc : Word
  s : Vector Word 32
  k : Vector Bool 8
  flags : BitVec 5
  fen : BitVec 5
  rmode : BitVec 2
  roamed : Bool
  deriving DecidableEq, Repr

/-- Why a guest comes home (12 R261): its own choice or a reclaim, a trap, or an enabled floating-point exception. -/
inductive HomeWhy
  | plain
  | trap (cls sub : Nat) (tval : Word)
  | fp (raised : BitVec 5)
  deriving DecidableEq, Repr, Inhabited

/-- What a remote request does at the target (12 R254-R257). -/
inductive ROp
  | ld (w : Width)
  | st (w : Width) (data : List Byte)
  | amo (op : AmoOp) (w : Width) (x : Word)
  | cas (w : Width) (cmp new : Word)
  deriving DecidableEq, Repr, Inhabited

/-- The answer to a remote load or atomic (12 R256): the bytes, or the class 0x09 sub-cause with the cause a posted request combined with
this one would report (12 R252, R258). -/
inductive RRes
  | ok (data : List Byte)
  | fail (sub cause : Nat)
  deriving DecidableEq, Repr, Inhabited

/-- The failure of a posted write as the error queue reports it (12 R258). -/
structure WFail where
  cause : Nat
  peer : Fin 4096
  members : Nat
  deriving DecidableEq, Repr, Inhabited

/-- A request at the home slice of a tile name (05 R115-R123, R107). -/
inductive TileOp
  | new (c : Nat) (floor : BitVec 32) (limit : Nat)
  | claim (v : BitVec 32) (c refs : Nat) (ev : Fin 4) (addr : Nat)
  /-- a load; `now` is a `tloadt` with a timeout of 0, which registers nothing (05 R117) -/
  | load (v : BitVec 32) (c j addr : Nat) (now : Bool)
  | poll (v : BitVec 32)
  | drop (v : BitVec 32) (j : Nat)
  | ref (v : BitVec 32) (j : Nat)
  | info
  | floor (v : BitVec 32)
  | limit (n : Nat)
  | del
  /-- withdraws the requester's earlier request of a number -/
  | cancel (v : BitVec 32) (of : Nat)
  | gate (v : BitVec 32) (core : CoreId) (gid : Nat)
  deriving DecidableEq, Repr, Inhabited

/-- A tile request with its requester, which numbers it, and the requester's job. -/
structure TileReq where
  src : Agent
  job : BitVec 32
  name : Word
  id : Nat
  op : TileOp
  deriving DecidableEq, Repr, Inhabited

/-- The slice's answer: a value for s[D], a trap of class 0x05, a granted claim, a removed waiter or claim, a waiter refused for
want of room (05 R107), or a request that waits at the slice with a parking reason's code. -/
inductive TRes
  | val (x : Word)
  | trap (sub : Nat)
  | granted
  | cancelled
  | refused
  | waits (code : Nat)
  deriving DecidableEq, Repr, Inhabited

/-- The parameters the members of one collective must share (13 R265, R284). -/
structure CollParams where
  repart : Bool
  kind : Nat
  op : Nat
  ty : Nat
  count : Nat
  root : Nat
  policy : Nat
  size : Nat
  mode : Nat
  keyOff : Nat
  h : Nat
  weighted : Bool
  weightOff : Nat
  deriving DecidableEq, Repr, Inhabited

/-- The payload of a collective-class message (13 R265, R269, R272, R276, R286, R287). -/
inductive CollBody
  | issue (rank : Nat) (p : CollParams) (empty : Bool)
  | part (lo hi : Nat) (data : List (BitVec 32))
  | final (data : List (BitVec 32))
  /-- a final result of an earlier view, forwarded by a survivor that held it (13 R270) -/
  | forward (data : List (BitVec 32))
  | ack (rank : Nat)
  | release
  | fault (mod : Nat)
  | hist (rank : Nat) (g : List Word)
  /-- split[1] … split[c − 1], then W -/
  | splits (keys : List Word)
  | counts (rank : Nat) (n : Nat)
  | grant (rank : Nat) (n : Nat)
  | recs (rank : Nat) (r : List (List Byte))
  deriving DecidableEq, Repr, Inhabited

/-- The tag every collective message carries (13 R272). -/
structure CollTag where
  job : BitVec 32
  chan : Fin 16
  seq : Nat
  view : BitVec 32
  deriving DecidableEq, Repr, Inhabited

/-- A message of view agreement (13 R269, R271). -/
inductive ViewMsg
  | heartbeat (src : Fin 4096)
  | propose (leader : Fin 4096) (num : BitVec 32) (bitmap : BitVec 4096) (join : Bool) (modes : BitVec 2)
  | accept (src : Fin 4096) (num : BitVec 32) (finals : List (Fin 16 × Nat))
  | commit (num : BitVec 32) (bitmap : BitVec 4096) (join : Bool) (modes : BitVec 2)
      (finals : List (Fin 16 × Nat × Fin 4096))
  | abandon (num : BitVec 32)
  | join (src : Fin 4096)
  | fatal (src : Fin 4096)
  deriving DecidableEq, Repr, Inhabited

/-- The content of a packet. -/
inductive Body
  /-- a mailbox increment; `ack` names the sender that counts it as outstanding, with its job (12 R257, R260) -/
  | mbInc (core : CoreId) (idx : MbIdx) (amt : BitVec 32) (ack : Option (Agent × Nat × BitVec 32))
  | msg (core : CoreId) (m : Msg)
  /-- a remote access; `posted` says that it is answered by an acknowledgement (12 R256, R257) -/
  | rreq (src : Agent) (id : Nat) (job : BitVec 32) (va : Word) (op : ROp) (posted : Bool)
  | rrep (dst : Agent) (id : Nat) (r : RRes)
  | rack (dst : Agent) (id : Nat) (r : Option WFail)
  /-- an error-queue entry of a guest on its way home (12 R258) -/
  | eqEntry (dst : Agent) (addr info : Word)
  | treq (r : TileReq)
  | trep (dst : Agent) (name : Word) (id : Nat) (r : TRes)
  /-- up to 512 of the tile's bytes, from an offset, of a granted claim from another module, or word that they are lost (05 R116, 06 R128) -/
  | tfill (name : Word) (v : BitVec 32) (id off : Nat) (data : List Byte)
  | fillLost (name : Word) (v : BitVec 32)
  /-- tile data bound for a scratchpad, marking words full (05 R110) -/
  | tdata (dst : Agent) (addr : Nat) (data : List Byte)
  | notice (dst : Agent) (did : Nat) (home : Fin 4096) (val : Word) (name : Word) (id : Nat)
  | tack (did : Nat) (ok : Bool)
  /-- a gate's notice, or its refusal (05 R107) -/
  | gate (core : CoreId) (gid : Nat) (refused : Bool)
  | task (src : Agent) (num : Word) (job : BitVec 32) (core : CoreId) (q : QEntry)
  /-- a `spawnd` that its target module routes (16 R349, R350); `rel` holds the stores it releases where that is its own module -/
  | spawnd (src : Agent) (num : Word) (job : BitVec 32) (page : Bool) (at_ : Word) (t : Task) (rel : List (Who × Nat))
  | tacc (dst : Agent) (num : Word) (ok : Bool)
  | join (src : Agent) (id : Nat) (job : BitVec 32) (core : CoreId) (addr : Nat) (posted : Bool)
  | roam (core : CoreId) (g : Guest)
  /-- a thread sent to another module for an address there (12 R262) -/
  | roamTo (va : Word) (g : Guest)
  | home (g : Guest) (why : HomeWhy)
  /-- the thread a module had on its way is lost, as its home learns (12 R263) -/
  | lostGuest (home : Agent)
  /-- the thread has gone on to a further module, as its home learns (12 R262, R263, log entry 52) -/
  | guestAt (home : Agent) (mod : Fin 4096)
  /-- one line of a drain, bound for a scratchpad (11 R235) -/
  | dline (eng : ClusterId) (core : CoreId) (addr : Nat) (data : List Byte) (full : Bool)
  /-- a drain's closing increment (11 R235) -/
  | dinc (eng : ClusterId) (core : CoreId) (idx : MbIdx) (amt : BitVec 32)
  | coll (t : CollTag) (b : CollBody)
  | view (job : BitVec 32) (m : ViewMsg)
  deriving DecidableEq, Repr

/-- Where a packet comes from (06 R128, 12 R248). -/
inductive Src
  | slot (a : Agent)
  | drain (c : ClusterId)
  | copy (c : ClusterId)
  | slice (stack : Fin 6) (n : Fin 32)
  | core (c : CoreId)
  | io
  | mdl (m : Fin 4096)
  /-- an agent of another module that is no slot -/
  | far (m : Fin 4096) (x : Src)
  deriving DecidableEq, Repr, Inhabited

/-- Where a packet goes. -/
inductive Dst
  | core (c : CoreId)
  | slice (stack : Fin 6) (n : Fin 32)
  | io
  | mdl (m : Fin 4096)
  | group (g : Nat)
  deriving DecidableEq, Repr, Inhabited

/-- The agent a packet is for, where its destination names more than one: the slot it answers, delivers to or brings home, a core, or the slice
that homes a name, by its stack and slice fields (06 R128, 12 R248). -/
inductive Party
  | dst
  | slot (a : Agent)
  | core (c : CoreId)
  | slice (n : Fin 256)
  deriving DecidableEq, Repr, Inhabited

/-- The slice fields of a tile name (05 R98). -/
def Party.ofName (name : Word) : Party := .slice (Fin.ofNat 256 (name.toNat / 2 ^ 44))

def Body.party : Body → Party
  | .mbInc c _ _ _ => .core c
  | .msg c _ => .core c
  | .rreq _ _ _ _ _ _ => .dst
  | .rrep d _ _ => .slot d
  | .rack d _ _ => .slot d
  | .eqEntry d _ _ => .slot d
  | .treq r => .ofName r.name
  | .trep d _ _ _ => .slot d
  | .tfill n _ _ _ _ => .ofName n
  | .fillLost n _ => .ofName n
  | .tdata d _ _ => .slot d
  | .notice d _ _ _ _ _ => .slot d
  | .tack _ _ => .dst
  | .gate c _ _ => .core c
  | .task _ _ _ c _ => .core c
  | .spawnd _ _ _ _ _ _ _ => .dst
  | .tacc d _ _ => .slot d
  | .join _ _ _ c _ _ => .core c
  | .roam c _ => .core c
  | .roamTo _ _ => .dst
  | .home g _ => .slot g.home
  | .lostGuest h => .slot h
  | .guestAt h _ => .slot h
  | .dline _ c _ _ _ => .core c
  | .dinc _ c _ _ => .core c
  | .coll _ _ => .dst
  | .view _ _ => .dst

/-- A packet; a flow is its source, its destination with the agent there, and its class (06 R128). -/
structure Packet where
  src : Src
  dst : Dst
  cls : TClass
  body : Body
  deriving DecidableEq, Repr

/-- Two packets of one flow (06 R128, 12 R248). -/
def Packet.sameFlow (p q : Packet) : Bool :=
  decide (p.src = q.src) && decide (p.dst = q.dst) && decide (p.body.party = q.body.party) && decide (p.cls = q.cls)

/-- An Erg flit's fields (12 R249); its check is a fact about the received bytes, given with its arrival. The payload stands for the packets
whose last byte it carries, each with its source module. -/
structure Flit where
  seq : Fin 4096
  ack : Fin 4096
  nak : Option (Fin 4096)
  ty : Fin 8
  payload : List (Fin 4096 × Packet)
  deriving DecidableEq, Repr

/-- A die: the six stacks 0-5 and the I/O die 6. -/
abbrev DieId := Fin 7

/-- A UCIe link: stack s to its successor, or stack s to the I/O die (06 R137). -/
inductive LinkId | nb (s : Fin 6) | io (s : Fin 6)
  deriving DecidableEq, Repr, Inhabited

/-- A buffer of a router: die, row, column, input port, class, normal or escape channel (06 R126, R130). -/
structure BufId where
  die : Fin 6
  row : Fin 8
  col : Fin 10
  port : Fin 32
  cls : TClass
  esc : Bool
  deriving DecidableEq, Repr, Inhabited

/-- A channel whose head ages: of a router's buffer, or of a Barchan switch's input (06 R134, R135, 12 R248). A switch is numbered
plane × 96 + stage × 32 + its number in the stage (12 R247). -/
inductive ChanId
  | router (b : BufId)
  | switch (n input : Nat) (cls : TClass)
  deriving DecidableEq, Repr, Inhabited

/-- A request at its home slice: one in the network, one held there, or the claims of a name that wait behind its live limit (05 R102, R106,
R109). -/
inductive TileAt
  | net (k : Nat)
  | held (k : Nat)
  | parked (name : Word)
  deriving DecidableEq, Repr, Inhabited

/-- The end at which the failure of a delivery is reported: the slice that numbered it, or the requester's slot (05 R111). -/
inductive DelivEnd
  | home (did : Nat)
  | requester (w : Who)
  deriving DecidableEq, Repr, Inhabited

/-- Which access `globalAccessAtSlice` performs at a home slice (04 R78). -/
inductive SliceAct
  /-- part `part` of entry `k` of the slot's store queue -/
  | store (w : Who) (k part : Nat)
  /-- part `part` of the access the slot is parked for -/
  | load (w : Who) (part : Nat)
  /-- the slice evicts the line at a physical address -/
  | evict (line : Nat)
  /-- the core's read-only cache drops its copy of a line -/
  | roDrop (c : CoreId) (line : Nat)
  deriving DecidableEq, Repr, Inhabited

/-- What the patrol scrub found in a word (04 R71, R72). -/
inductive Scrub | clean | corrected | uncorrectable
  deriving DecidableEq, Repr, Inhabited

/-- The six functions with a mode bit (18 R386). -/
inductive ModeFn | pageCommit | tableSpill | viewAgree | splitters | fpException | errDrain
  deriving DecidableEq, Repr, Inhabited

end Sys2Proof
end

