-- ==== Sys2Proof/Config.lean ====
section
/-! DEFINITION. What firmware fixes at module reset (18 R386, R387), the sizes of the module's tables, and the free values: constants
with no body, for what the manual leaves open. -/

namespace Sys2Proof

/-- The settings of 18 R387. Sizes the manual leaves to firmware without a number stand here too (entry 5). -/
structure Settings where
  /-- interleaved region, in units of 12 GiB (04 R69) -/
  ilv : Nat
  /-- tile pool of a slice, in units of 512 KiB (05 R108) -/
  tilePool : Nat
  waiterOvf : Nat
  versionOvf : Nat
  /-- tile frames of a home stack, in bytes; the manual gives no number (05 R108) -/
  tileFrames : Nat
  noccfg : Vector Word 6
  /-- the watchdog interval of each vector-scalar die, in rotations (17 R375) -/
  watchdog : Vector Nat 6
  suspect : Nat
  agree : Nat
  isolate : Nat
  /-- collective staging in MiB -/
  staging : Nat
  /-- the Barchan switches' thresholds (12 R248) -/
  barchanAge : Nat
  barchanDlk : Nat
  /-- the switches' group tables: switch, group, outputs (12 R253) -/
  groups : List (Nat × Nat × List Nat)
  /-- the guest core firmware assigns to each slice group of each stack (12 R262) -/
  guestCore : Vector CoreId 48
  deriving DecidableEq, Repr, Inhabited

/-- The reset value of `noccfg` (06 R133): agethr 256, dlkthr 4,096, weights bulk 8, notice 2, reply 4, request 2. -/
def noccfgReset : Word := 0x1001000008020402#64

/-- The settings lie in the ranges of 18 R387 and 06 R133; the reserved field of `noccfg` is ignored (00 R9). -/
def Settings.ok (c : Settings) : Bool :=
  let word (x : Word) : Bool :=
    let f (lo n : Nat) : Nat := x.toNat / 2 ^ lo % 2 ^ n
    decide (16 ≤ f 52 12) && decide (1024 ≤ f 36 16) &&
      [0, 8, 16, 24].all fun i => decide (1 ≤ f i 8) && decide (f i 8 ≤ 32)
  decide (c.ilv ≤ 48) && decide (c.tilePool ≤ 6) && c.watchdog.toList.all (decide <| · < 2 ^ 32) && c.noccfg.toList.all word

/-- The settings as they stand: the reserved field of `noccfg` holds zero (00 R9, 06 R133). -/
def Settings.plain (c : Settings) : Settings := { c with noccfg := c.noccfg.map (· &&& 0xFFFFFFF0FFFFFFFF#64) }

/-- The settings after module reset (18 R387). -/
def Settings.reset : Settings where
  ilv := 8
  tilePool := 2
  waiterOvf := 65536
  versionOvf := 131072
  tileFrames := 2 ^ 30
  noccfg := Vector.replicate 6 noccfgReset
  watchdog := Vector.replicate 6 16777216
  suspect := 1700000
  agree := 170000
  isolate := 3400000
  staging := 256
  barchanAge := 256
  barchanDlk := 4096
  groups := []
  guestCore := Vector.replicate 48 ⟨0, 0, 0⟩

/-- The mode bit of each function of 00 R2; true is host-assisted (18 R386). -/
structure Modes where
  pageCommit : Bool
  tableSpill : Bool
  viewAgree : Bool
  splitters : Bool
  fpException : Bool
  errDrain : Bool
  deriving DecidableEq, Repr

/-- Every function resets to its hardware mode (18 R386). -/
def Modes.reset : Modes := ⟨false, false, false, false, false, false⟩

/-- The free values: `freeNat n` is the n-th choice the manual leaves open (log entries 1 and 6); nothing is known of it. -/
opaque Config.freeNat : Nat → Nat

/-- The n-th free 64-bit value. -/
opaque Config.freeWord : Nat → Word

/-- The public keys under which firmware images verify (18 R388), and the device identity keys: the P-384 private number, and the identifier and
seed of the LMS key (18 R389). The manual gives no key (entry 28). -/
opaque Config.imageEcdsa : Nat × Nat
opaque Config.imageLms : List Byte
opaque Config.deviceEcdsa : Nat
opaque Config.deviceLms : List Byte × List Byte

/-- Whether a module has lost all sixteen of its ports, by module and cycle: what the fabric tells a leader of it is not given (13 R268, entry
10). -/
opaque Config.portsLost : Nat → Nat → Bool

/-- The settings a firmware image, named by its digest, fixes at module reset (18 R387); an image's contents are not given (entry 29). -/
opaque Config.firmwareSettings : BitVec 384 → Settings

/-- A correctly rounded result the interval evaluation of Machine/Transcendental.lean did not separate (entry 7). -/
opaque Config.freeRound : Nat → Bool → Nat → Int → BitVec 32

/-- The credits of a class at a port, and at a link of a Barchan switch; the manual gives no numbers (12 R248). -/
opaque Config.portCredits : Nat → TClass → Nat
opaque Config.linkCredits : Nat → Nat → TClass → Nat

/-- Where the host's event queue has its entries, and how an entry's fields lie in its 32 bytes: kind, source die, count, detail, cycle
(18 R391, entry 38). -/
opaque Config.eventAddr : Nat → Nat
opaque Config.eventEntry : Nat → Nat → Nat → List Nat → Nat → List Byte

/-- The acknowledgement and the NAK a Jormal frame of the host carries, and whether it is idle; a frame's layout is not given
(18 R383, entry 54). -/
opaque Config.jormalHeader : List Byte → Fin 4096 × Option (Fin 4096) × Bool

/-- Which management command a management block stands for; its layout is not given (18 R384, entry 8):
the command code and its operand words. -/
opaque Config.mgmtBlock : List Byte → Nat × List Word

end Sys2Proof
end

