-- ==== Sys2Proof/Syntax.lean ====
section
/-! DEFINITION. One constructor for each row of spec/opcode_table.json: the instruction forms of 02 R35 with their operands, then
the events of the machine (95_what_each_step_holds.md). -/

namespace Sys2Proof

/-- An instruction with its operands, or an event of a unit of the module. `h` is the guard and the hints (02 R27).
An event names the slot, unit or packet it is about; what the outside world alone decides stands in its arguments. -/
inductive Instr
  -- 0x01, 09 R185
  | add (h : Hdr) (d a b : SReg)
  | sub (h : Hdr) (d a b : SReg)
  | mul (h : Hdr) (d a b : SReg)
  | mulh (h : Hdr) (d a b : SReg)
  | umulh (h : Hdr) (d a b : SReg)
  | div (h : Hdr) (d a b : SReg)
  | udiv (h : Hdr) (d a b : SReg)
  | rem (h : Hdr) (d a b : SReg)
  | urem (h : Hdr) (d a b : SReg)
  | min (h : Hdr) (d a b : SReg)
  | max (h : Hdr) (d a b : SReg)
  | umin (h : Hdr) (d a b : SReg)
  | umax (h : Hdr) (d a b : SReg)
  | madd (h : Hdr) (d a b c : SReg)
  | msub (h : Hdr) (d a b c : SReg)
  -- 0x02, 09 R187, R188
  | and (h : Hdr) (d a b : SReg)
  | or (h : Hdr) (d a b : SReg)
  | xor (h : Hdr) (d a b : SReg)
  | andn (h : Hdr) (d a b : SReg)
  | orn (h : Hdr) (d a b : SReg)
  | shl (h : Hdr) (d a b : SReg)
  | shr (h : Hdr) (d a b : SReg)
  | sra (h : Hdr) (d a b : SReg)
  | rol (h : Hdr) (d a b : SReg)
  | ror (h : Hdr) (d a b : SReg)
  | clz (h : Hdr) (d a : SReg)
  | ctz (h : Hdr) (d a : SReg)
  | popc (h : Hdr) (d a : SReg)
  | bswap (h : Hdr) (d a : SReg)
  | sel (h : Hdr) (d a b : SReg) (c : KReg)
  | cmp (h : Hdr) (c : Cond) (d : SK) (a b : SReg)
  -- 0x03, 09 R189-R191
  | addi (h : Hdr) (d a : SReg) (imm : BitVec 48)
  | andi (h : Hdr) (d a : SReg) (imm : BitVec 48)
  | ori (h : Hdr) (d a : SReg) (imm : BitVec 48)
  | xori (h : Hdr) (d a : SReg) (imm : BitVec 48)
  | shli (h : Hdr) (d a : SReg) (n : BitVec 6)
  | shri (h : Hdr) (d a : SReg) (n : BitVec 6)
  | srai (h : Hdr) (d a : SReg) (n : BitVec 6)
  | li (h : Hdr) (d : SReg) (imm : BitVec 48)
  | lih (h : Hdr) (d a : SReg) (imm : BitVec 16)
  | lea (h : Hdr) (d a : SReg) (b : Option SReg) (sh : BitVec 3) (disp : BitVec 45)
  | cmpi (h : Hdr) (c : Cond) (d : SK) (a : SReg) (imm : BitVec 44)
  | ext (h : Hdr) (sg : Bool) (d a : SReg) (pos len1 : BitVec 6)
  | ins (h : Hdr) (d a : SReg) (pos len1 : BitVec 6)
  -- 0x04, 09 R192
  | pand (h : Hdr) (d a b : KReg)
  | por (h : Hdr) (d a b : KReg)
  | pxor (h : Hdr) (d a b : KReg)
  | pandn (h : Hdr) (d a b : KReg)
  | psetb (h : Hdr) (d : KReg) (a : SReg) (bit : BitVec 6)
  | psetbAll (h : Hdr) (a : SReg)
  | pgetb (h : Hdr) (d : SReg) (a : KReg)
  | pgetbAll (h : Hdr) (d : SReg)
  -- 0x20, 09 R194-R198
  | fadd (h : Hdr) (t : ETy) (rm : Rnd) (d a b : FReg)
  | fsub (h : Hdr) (t : ETy) (rm : Rnd) (d a b : FReg)
  | fmul (h : Hdr) (t : ETy) (rm : Rnd) (d a b : FReg)
  | fdiv (h : Hdr) (t : ETy) (rm : Rnd) (d a b : FReg)
  | fsqrt (h : Hdr) (t : ETy) (rm : Rnd) (d a : FReg)
  | fmin (h : Hdr) (t : ETy) (d a b : FReg)
  | fmax (h : Hdr) (t : ETy) (d a b : FReg)
  | ffma (h : Hdr) (t : ETy) (rm : Rnd) (d a b c : FReg)
  | ffms (h : Hdr) (t : ETy) (rm : Rnd) (d a b c : FReg)
  | fnma (h : Hdr) (t : ETy) (rm : Rnd) (d a b c : FReg)
  | fabs (h : Hdr) (t : ETy) (d a : FReg)
  | fneg (h : Hdr) (t : ETy) (d a : FReg)
  | fsgnj (h : Hdr) (t : ETy) (m : SgnMode) (d a b : FReg)
  | fcmp (h : Hdr) (t : ETy) (c : FCond) (d : SK) (a b : FReg)
  | fclass (h : Hdr) (t : ETy) (d : SReg) (a : FReg)
  | fsel (h : Hdr) (d a b : FReg) (c : KReg)
  -- 0x21, 09 R199-R203
  | fcvt (h : Hdr) (dst src : ETy) (rm : Rnd) (d a : FReg)
  | fcvti (h : Hdr) (src : ETy) (dst : IDst) (rm : Rnd) (d : SReg) (a : FReg)
  | ficvt (h : Hdr) (dst : ETy) (nat : Bool) (rm : Rnd) (d : FReg) (a : SReg)
  | fmvs (h : Hdr) (d : SReg) (a : FReg)
  | fmvf (h : Hdr) (d : FReg) (a : SReg)
  | fliFp32 (h : Hdr) (d : FReg) (imm : BitVec 32)
  | fliFp64 (h : Hdr) (d : FReg) (imm : BitVec 47)
  | fflg (h : Hdr) (d a : SReg)
  | fenw (h : Hdr) (d a : SReg)
  -- 0x30, 08 R178-R181
  | ldl (h : Hdr) (d : SF) (a : SReg) (m : MemArgs)
  | stl (h : Hdr) (b : SF) (a : SReg) (m : MemArgs)
  | ldlv (h : Hdr) (d : VReg) (a : SReg) (m : MemArgs)
  | stlv (h : Hdr) (b : VReg) (a : SReg) (m : MemArgs)
  | ldlp (h : Hdr) (d a : SReg) (m : MemArgs)
  | ldf (h : Hdr) (d : SFV) (a : SReg) (m : MemArgs)
  | ldfe (h : Hdr) (d : SFV) (a : SReg) (m : MemArgs)
  | stwe (h : Hdr) (b : SFV) (a : SReg) (m : MemArgs)
  | sete (h : Hdr) (a : SReg) (m : MemArgs)
  | setf (h : Hdr) (a : SReg) (m : MemArgs)
  | tagrd (h : Hdr) (d a : SReg) (m : MemArgs)
  | lamo (h : Hdr) (op : AmoOp) (d a b : SReg) (m : AmoArgs)
  | lamox (h : Hdr) (op : AmoOp) (a b : SReg) (m : AmoArgs)
  | lamocas (h : Hdr) (d a b : SReg) (m : AmoArgs)
  -- 0x40, 0x41, 04 R86-R97, 06 R142, R143
  | ldg (h : Hdr) (d : SF) (a : SReg) (m : MemArgs)
  | stg (h : Hdr) (b : SF) (a : SReg) (m : MemArgs)
  | ldgv (h : Hdr) (d : VReg) (a : SReg) (m : MemArgs)
  | stgv (h : Hdr) (b : VReg) (a : SReg) (m : MemArgs)
  | amo (h : Hdr) (op : AmoOp) (d a b : SReg) (m : AmoArgs)
  | amox (h : Hdr) (op : AmoOp) (a b : SReg) (m : AmoArgs)
  | amocas (h : Hdr) (d a b : SReg) (m : AmoArgs)
  | pref (h : Hdr) (ro : Bool) (a : SReg) (off : BitVec 41)
  | fence (h : Hdr) (sc : Scope)
  | ldres (h : Hdr) (d : SFV) (a : SReg) (m : MemArgs)
  | cmstore (h : Hdr) (sc : Scope) (d a b : SReg) (off : BitVec 41)
  | commit (h : Hdr) (d a b : SReg) (off : BitVec 41)
  | decommit (h : Hdr) (d a : SReg) (off : BitVec 41)
  | palloc (h : Hdr) (d a : SReg)
  | pfree (h : Hdr) (d a : SReg)
  | xlat (h : Hdr) (d a : SReg) (off : BitVec 41)
  | tlbinv (h : Hdr) (all mdl : Bool) (a : SReg) (off : BitVec 41)
  | wback (h : Hdr) (page : Bool) (a : SReg) (off : BitVec 41)
  -- 0x50, 05 R114
  | tnew (h : Hdr) (d a : SReg) (t : TileArgs)
  | tstore (h : Hdr) (a : SReg) (t : TileArgs)
  | tload (h : Hdr) (d a : SReg) (t : TileArgs)
  | tloadt (h : Hdr) (d a : SReg) (t : TileArgs)
  | tpoll (h : Hdr) (d a : SReg) (b : Option SReg) (imm : BitVec 18)
  | tdrop (h : Hdr) (d a : SReg) (b : Option SReg) (imm : BitVec 18) (j : BitVec 8)
  | tref (h : Hdr) (d a : SReg) (b : Option SReg) (imm : BitVec 18) (j : BitVec 8)
  | tinfo (h : Hdr) (d a : SReg)
  | tfloor (h : Hdr) (d a : SReg) (b : Option SReg) (imm : BitVec 18)
  | tlimit (h : Hdr) (d a : SReg) (n : BitVec 8)
  | tdel (h : Hdr) (d a : SReg)
  -- 0x58, 07 R147, R154, R160-R169
  | cpy (h : Hdr) (sync : Bool) (d a b : SReg)
  | cpyt (h : Hdr) (sync : Bool) (d a b : SReg)
  | cpyf (h : Hdr) (mode : Fin 4) (sync : Bool) (d a b : SReg)
  | qdual (h : Hdr) (sync : Bool) (d a b : SReg)
  | bfmt (h : Hdr) (d : SReg) (a : SI) (b : SReg)
  | bfmtr (h : Hdr) (d : SReg) (a : SI)
  | bload (h : Hdr) (sp : Bool) (t : ETy) (sc sync : Bool) (d a b : SReg)
  | sstream (h : Hdr) (v : Fin 4) (wr gl sync : Bool) (d a b : SReg)
  | sstop (h : Hdr) (v : Fin 4)
  | spos (h : Hdr) (d : SReg) (v : Fin 4)
  | tlwait (h : Hdr) (t : Tl) (b : SReg)
  | tlwaitAbort (h : Hdr) (t : Tl) (b : SReg)
  | tlrd (h : Hdr) (f : Fin 4) (d : SReg) (t : Tl)
  -- 0x60, 10 R212, R213
  | vfadd (h : Hdr) (m : VMod) (d a : VReg) (b : VF)
  | vfsub (h : Hdr) (m : VMod) (d a : VReg) (b : VF)
  | vfmul (h : Hdr) (m : VMod) (d a : VReg) (b : VF)
  | vfdiv (h : Hdr) (m : VMod) (d a : VReg) (b : VF)
  | vfma (h : Hdr) (m : VMod) (d a : VReg) (b c : VF)
  | vfms (h : Hdr) (m : VMod) (d a : VReg) (b c : VF)
  | vfnma (h : Hdr) (m : VMod) (d a : VReg) (b c : VF)
  | vfmin (h : Hdr) (m : VMod) (d a : VReg) (b : VF)
  | vfmax (h : Hdr) (m : VMod) (d a : VReg) (b : VF)
  | vfabs (h : Hdr) (m : VMod) (d a : VReg)
  | vfneg (h : Hdr) (m : VMod) (d a : VReg)
  | vfsqrt (h : Hdr) (m : VMod) (d a : VReg)
  | vexp2 (h : Hdr) (m : VMod) (d a : VReg)
  | vlog2 (h : Hdr) (m : VMod) (d a : VReg)
  | vrcp (h : Hdr) (m : VMod) (d a : VReg)
  | vrsq (h : Hdr) (m : VMod) (d a : VReg)
  -- 0x61, 10 R214, R215
  | vadd (h : Hdr) (m : VMod) (d a : VReg) (b : VS)
  | vsub (h : Hdr) (m : VMod) (d a : VReg) (b : VS)
  | vmul (h : Hdr) (m : VMod) (d a : VReg) (b : VS)
  | vmulh (h : Hdr) (u : Bool) (m : VMod) (d a : VReg) (b : VS)
  | vmin (h : Hdr) (u : Bool) (m : VMod) (d a : VReg) (b : VS)
  | vmax (h : Hdr) (u : Bool) (m : VMod) (d a : VReg) (b : VS)
  | vand (h : Hdr) (m : VMod) (d a : VReg) (b : VS)
  | vor (h : Hdr) (m : VMod) (d a : VReg) (b : VS)
  | vxor (h : Hdr) (m : VMod) (d a : VReg) (b : VS)
  | vshl (h : Hdr) (m : VMod) (d a : VReg) (b : VS)
  | vshr (h : Hdr) (m : VMod) (d a : VReg) (b : VS)
  | vsra (h : Hdr) (m : VMod) (d a : VReg) (b : VS)
  | vabs (h : Hdr) (m : VMod) (d a : VReg)
  | vdiv (h : Hdr) (u : Bool) (m : VMod) (d a : VReg) (b : VS)
  | vrem (h : Hdr) (u : Bool) (m : VMod) (d a : VReg) (b : VS)
  | vpopc (h : Hdr) (m : VMod) (d a : VReg)
  -- 0x62, 10 R216-R220
  | vcmp (h : Hdr) (c : Cond) (m : VMod) (d a : VReg) (b : VS)
  | vfcmp (h : Hdr) (c : FCond) (m : VMod) (d a : VReg) (b : VF)
  | vsel (h : Hdr) (t : ETy) (d a b c : VReg)
  | vcvt (h : Hdr) (src : ETy) (m : VMod) (d a : VReg) (p : Fin 32)
  | vcvts (h : Hdr) (dst src : ETy) (d a : VReg)
  | vredadd (h : Hdr) (m : VMod) (d : FReg) (a : VReg)
  | vredmax (h : Hdr) (m : VMod) (d : FReg) (a : VReg)
  | vredmin (h : Hdr) (m : VMod) (d : FReg) (a : VReg)
  | vrediadd (h : Hdr) (m : VMod) (d : SReg) (a : VReg)
  -- 0x63, 10 R221-R223
  | vcompress (h : Hdr) (t : ETy) (d a b : VReg)
  | vexpand (h : Hdr) (t : ETy) (d a b : VReg)
  | vslideup (h : Hdr) (t : ETy) (d a : VReg) (n : SI)
  | vslidedn (h : Hdr) (t : ETy) (d a : VReg) (n : SI)
  | vperm (h : Hdr) (t : ETy) (d a b : VReg)
  | vbcastScalar (h : Hdr) (t : ETy) (d : VReg) (a : SF)
  | vbcastLane (h : Hdr) (t : ETy) (d a : VReg) (n : SI)
  | vmovsLane (h : Hdr) (t : ETy) (sg : Bool) (d : SF) (a : VReg) (n : SI)
  | vmovsCnt (h : Hdr) (t : ETy) (d : SReg) (a : VReg)
  | vmovsBits (h : Hdr) (t : ETy) (d : SReg) (a : VReg)
  | vins (h : Hdr) (t : ETy) (d : VReg) (a : SF) (n : SI)
  | vzord (h : Hdr) (x2 hi : Bool) (d a b : VReg) (c : Option VReg)
  | vgath (h : Hdr) (m : MemArgs) (d : VReg) (a : SReg) (b : VReg)
  | vscat (h : Hdr) (m : MemArgs) (d : VReg) (a : SReg) (b : VReg)
  -- 0x80, 11 R239-R243
  | mjob (h : Hdr) (bank : Fin 4) (z sync : Bool) (d a b : SReg)
  | mma (h : Hdr) (bank : Fin 4) (z sync : Bool) (d a b : SReg)
  | mdrain (h : Hdr) (m : DrainArgs) (d a b : SReg)
  | mwait (h : Hdr) (d a : SReg)
  | mcfg (h : Hdr) (sync : Bool) (d a : SReg)
  | mcfgr (h : Hdr) (d : SReg)
  | mclr (h : Hdr) (bank : Fin 4) (sync : Bool) (d : SReg)
  | mabort (h : Hdr) (sync : Bool) (d : SReg)
  -- 0x88, 12 R256-R262, 16 R357, 13 R280-R283
  | rld (h : Hdr) (d : SFV) (a : SReg) (m : MemArgs)
  | rst (h : Hdr) (b : SFV) (a : SReg) (m : MemArgs)
  | ramo (h : Hdr) (op : AmoOp) (d a b : SReg) (m : AmoArgs)
  | ramoPosted (h : Hdr) (op : AmoOp) (a b : SReg) (m : AmoArgs)
  | ramocas (h : Hdr) (d a b : SReg) (m : AmoArgs)
  | roam (h : Hdr) (a : SReg)
  | home (h : Hdr)
  | eqrd (h : Hdr) (info : Bool) (d : SReg)
  | eqpop (h : Hdr) (d : SReg)
  | mbincLocal (h : Hdr) (n : MbIdx) (b : SI)
  | mbincRemote (h : Hdr) (a : SReg) (b : SI)
  | mbwait (h : Hdr) (n : MbIdx) (b : SI)
  | mbrd (h : Hdr) (d : SReg) (n : MbIdx)
  | barArr (h : Hdr) (d : SReg) (a : SI)
  | barSig (h : Hdr) (d : SReg) (a : SI)
  | barCfg (h : Hdr) (d : SReg) (a : SI) (b : SReg)
  | barRd (h : Hdr) (d : SReg) (a : SI)
  | coll (h : Hdr) (sync : Bool) (d a b : SReg)
  | repart (h : Hdr) (sync : Bool) (d a : SReg)
  | viewrd (h : Hdr) (part : Fin 8) (d : SReg) (a : Option SReg)
  | viewack (h : Hdr) (d a : SReg)
  -- 0x98, 0x99, 15 R317, 08 R182
  | br (h : Hdr) (off : BitVec 40)
  | jal (h : Hdr) (off : BitVec 40)
  | jr (h : Hdr) (a : SReg)
  | jalr (h : Hdr) (a : SReg)
  | brx (h : Hdr) (a b : SReg)
  | loop (h : Hdr) (d : SReg) (off : BitVec 40)
  | bcast (h : Hdr) (a : SReg) (len1 : Fin 8) (off : BitVec 40)
  | fetchb (h : Hdr) (q : Fin 2) (len1 : Fin 8) (off : BitVec 40)
  | lkput (h : Hdr) (d : YReg) (a : SReg)
  | lkget (h : Hdr) (d : SReg) (a : SI) (b : YReg)
  | stop (h : Hdr)
  | nop (h : Hdr)
  | slgo (h : Hdr) (d a b : SReg)
  | slhalt (h : Hdr) (d a : SReg)
  | slwait (h : Hdr) (d a : SReg)
  | slpoll (h : Hdr) (part : Fin 4) (d a : SReg)
  | slpool (h : Hdr) (d : SReg)
  | pause (h : Hdr) (a : SI)
  -- 0xA0, 16 R348-R355
  | spawn (h : Hdr) (sync : Bool) (d a b : SReg)
  | spawndPage (h : Hdr) (sync : Bool) (d a b : SReg)
  | spawndTile (h : Hdr) (sync : Bool) (d a b : SReg)
  | fork (h : Hdr) (prio : Fin 4) (pin : Bool) (d : KReg) (a b : SReg) (off : BitVec 40)
  | join (h : Hdr) (d a : SReg) (b : Option SReg) (off : BitVec 41)
  | tqpush (h : Hdr) (sync : Bool) (d a b : SReg)
  | tqpop (h : Hdr) (nw : Bool) (mask : BitVec 4) (d a : SReg)
  | tqctl (h : Hdr) (d a : SReg)
  | tqrd (h : Hdr) (part : Fin 4) (d : SReg)
  -- 0xA8, 17 R364-R371
  | trap (h : Hdr) (n : BitVec 32)
  | eret (h : Hdr)
  | ctlr (h : Hdr) (d : SReg) (c : Fin 18)
  | ctlw (h : Hdr) (c : Fin 18) (a : SReg)
  | ctlx (h : Hdr) (d : SReg) (c : Fin 18) (b : SReg)
  /-- a write to tmr by `ctlw` (`d` none) or `ctlx` (17 R367, R368) -/
  | tmrWrite (h : Hdr) (d : Option SReg) (a : SReg)
  | spill (h : Hdr) (d a : SReg)
  | unspill (h : Hdr) (d a : SReg) (b : Option SReg)
  | smsgMsg (h : Hdr) (a b : SReg) (tag : BitVec 16)
  | smsgRes (h : Hdr) (a b : SReg)
  | smsgTrp (h : Hdr) (a b : SReg)
  | tmrset (h : Hdr) (d : SReg) (a : Option SReg) (n : BitVec 32)
  | tmrclr (h : Hdr) (d : SReg)
  | icinv (h : Hdr)
  | rcinv (h : Hdr)
  | brk (h : Hdr) (n : BitVec 32)
  | sleep (h : Hdr) (d : SReg) (mask : BitVec 4)
  -- events of a slot
  | illegalInstruction (sub : Fin 10)
  | instructionFetchFault (sub : Fin 10) (addr : Word)
  | fetchFill (w : Who) (pc : Word)
  | repetition (h : Hdr) (op : VOp)
  | parkReasonMet (w : Who)
  | translationWalk (w : Who)
  | pendingCommitRetry (w : Who)
  -- events of the slices
  | globalAccessAtSlice (a : SliceAct)
  | fenceProbe (w : Who) (g : Fin 48)
  | fenceEcho (w : Who) (g : Fin 48)
  | patrolScrub (pa : Nat) (r : Scrub)
  | eventBufferDrain (die : DieId)
  | versionClaim (a : TileAt)
  | fillComplete (name : Word) (v : BitVec 32)
  | fillFail (name : Word) (v : BitVec 32)
  | versionLoadRequest (a : TileAt)
  | arrivalNotice (k : Nat)
  | deliveryAck (k : Nat)
  | deliveryFail (e : DelivEnd)
  | waiterRetry (w : Who)
  | tloadtTimeout (w : Who)
  | tloadCancel (k : Nat)
  | sharedPortWrite (k : Nat)
  | tagWaitPerform (w : Who)
  | mailboxIncrement (k : Nat)
  -- events of the network
  | packetPromotion (c : ChanId)
  | deadlockEscape (c : ChanId)
  | ucieReplay (l : LinkId)
  | ucieRetrain (l : LinkId)
  | ucieLinkLost (l : LinkId)
  -- events of the copy and stream units
  | copySector (w : Who) (num : Word) (ahead : Option Nat)
  | denialFault (w : Who)
  | streamRefill (w : Who) (v : Fin 4)
  | streamDrain (w : Who) (v : Fin 4)
  -- events of the matrix engine
  | matrixAccept (c : ClusterId)
  | matrixJobStart (c : ClusterId) (drain : Bool)
  | matrixJobComplete (c : ClusterId)
  | drainComplete (c : ClusterId)
  | drainFail (c : ClusterId)
  -- events of the fabric
  | remoteRequestAtTarget (k : Nat)
  | remoteReply (k : Nat)
  | remoteWriteAck (k : Nat)
  | remoteWriteFail (k : Nat)
  | switchCombine (sw : Nat) (i j : Nat)
  | combinedReply (sw : Nat) (k : Nat)
  | multicastForward (sw : Nat) (k : Nat)
  | ergFlitReceive (p : Fin 16) (f : Flit) (good : Bool)
  | ergNak (p : Fin 16) (seq : Fin 4096)
  | ergGapRenak (p : Fin 16) (seq : Fin 4096)
  | ergPortRetrain (p : Fin 16)
  | ergPortLost (p : Fin 16)
  | roamArrival (c : CoreId)
  | guestReturn (k : Nat)
  | guestLost (w : Who)
  -- events of views and collectives
  | heartbeat (job : BitVec 32)
  | suspectIntervalExpiry (job : BitVec 32) (m : Fin 4096)
  | propose (job : BitVec 32) (m : ViewMsg)
  | accept (job : BitVec 32) (m : ViewMsg)
  | agreementTimeout (job : BitVec 32)
  | isolation (job : BitVec 32)
  | joinRequest (job : BitVec 32) (m : ViewMsg)
  | abandon (job : BitVec 32) (num : BitVec 32)
  | collMatch (w : Who) (num : Word)
  | collCombine (t : CollTag) (i j : Nat)
  | collFinal (w : Who) (num : Word)
  | collRelease (w : Who) (num : Word)
  | collWriteDone (w : Who) (num : Word)
  | splitterCompute (w : Who) (num : Word)
  | repartCounts (w : Who) (num : Word)
  | repartRecords (w : Who) (num : Word)
  -- events of tasks, blocks, traps
  | taskAccept (k : Nat)
  | taskStart (c : CoreId)
  | taskSteal (c : ClusterId)
  | gateNotice (k : Nat)
  | joinStep (k : Nat)
  | blockStart (c : CoreId)
  | halt (w : Who)
  | preemption (w : Who)
  | watchdog (w : Who)
  | timerExpiry (w : Who)
  | timerTrap (w : Who)
  | copyFaultTrap (w : Who)
  | membershipChangeTrap (w : Who)
  | spawnFailureTrap (w : Who)
  | pauseExpiry (w : Who)
  | messageArrival (k : Nat)
  | messageBufferAccept (c : CoreId)
  -- launches and the host
  | launchEnd (id : Nat)
  | doorbell (q : Fin 64) (tail : BitVec 16)
  | launch (q : Fin 64) (tag : BitVec 32) (desc : List Byte)
  | commitOrDenyAPage (job : BitVec 32) (page frame : Word)
  | moveOrReclaimVersionEntries (stack : Fin 6) (slice : Fin 32) (entries : List (Word × BitVec 32)) (reclaim : Bool)
  | installView (job num : BitVec 32) (bitmap : BitVec 4096)
  | supplySplitters (job : BitVec 32) (chan : Fin 16) (seq : Nat) (keys : List Word)
  | answerAnException (w : Who) (trp : Bool)
  | markModuleReady (m : Fin 4096)
  | spillOrResumeASlot (w : Who) (resume : Bool)
  | resetADie (d : DieId)
  | dieDrainTimeout (d : DieId)
  | readCollectiveStaging (job : BitVec 32) (chan : Fin 16) (seq : Nat) (host : Nat) (len : Nat)
  | completionRecord (q : Fin 64)
  | jormalFrame (seq : Nat) (data : List Byte) (good : Bool)
  | attestationReport (nonce : BitVec 256)
  | firmwareImage (body : List Byte) (version : Nat) (ecdsa lms : List Byte)
  | modeChange (f : ModeFn) (hostAssisted : Bool)
  | moduleReset
  | thermalThrottle (celsius : Nat)
  | thermalShutdown (celsius : Nat)
  | viewCommit (job : BitVec 32) (m : ViewMsg)
  | fatalFaultReport (job : BitVec 32) (m : Fin 4096)
  | hostFailureReport (job : BitVec 32) (m : Fin 4096)
  | ucieLinkRestored (l : LinkId)
  | ergPortRestored (p : Fin 16)
  | markDieReady (d : DieId)
  deriving DecidableEq, Repr

end Sys2Proof
end

