-- ==== Sys2Proof/WellFormed.lean ====
section
/-! DEFINITION. What a word can say: the subfield rules of each form, for an instruction already taken apart (02 R29-R34). A term that
fails a check here has no word, and a word that would say it is illegal. -/

namespace Sys2Proof

/-- The guard is not "not k0" (02 R30), and only hints the form allows are present: branch, eviction, roam, repeat (02 R31). -/
def Hdr.ok (h : Hdr) (br ev roam rep : Bool) : Bool :=
  !(h.neg && h.pred == 0) && (br || h.bh == 0) && (ev || h.ev == 0) && (roam || !h.roam) && (rep || !h.rep)

/-! ## Element types and rounding (02 R32, 09 R193, R199, 10 R205) -/

def ETy.isScalar (t : ETy) : Bool := t == .fp32 || t == .fp64

/-- The floating types of a conversion (09 R199). -/
def ETy.isFloat : ETy → Bool
  | .fp32 => true | .bf16 => true | .t8 => true | .t6 => true | .fp64 => true
  | .i32 => false | .i16 => false | .i8 => false

/-- A t8 or t6 destination takes nearest even and no `.dyn` (09 R199, R201, 10 R218). -/
def ETy.t8ok (t : ETy) (m : Rnd) : Bool := !(t == .t8 || t == .t6) || m == .rne

/-- Lanes of a vector register (10 R205); fp64 has none. -/
def ETy.lanes : ETy → Nat
  | .fp32 => 16 | .i32 => 16 | .bf16 => 32 | .i16 => 32 | .t8 => 64 | .t6 => 64 | .i8 => 64 | .fp64 => 0

/-- The number of parts of a `vcvt` (10 R218). -/
def partRatio (dst src : ETy) : Nat := max dst.lanes src.lanes / min dst.lanes src.lanes

/-- The type, rounding and mask of a vector form: one of `ts`, and no rounding where the form does not round (10 R205, R207). -/
def VMod.ok (m : VMod) (ts : List ETy) (rounds : Bool) : Bool := decide (m.t ∈ ts) && (rounds || m.rm == .rne)

/-- The pair of a block conversion: even and at most v10 (10 R219). -/
def pairReg (r : VReg) : Bool := decide (r.val % 2 = 0) && decide (r.val ≤ 10)

/-- The type pairs of `vcvts` (10 R219). -/
def blockPair (dst src : ETy) (d a : VReg) : Bool :=
  if dst == .t8 || dst == .t6 then (src == .fp32 && pairReg a) || src == .bf16
  else (src == .t8 || src == .t6) && ((dst == .fp32 && pairReg d) || dst == .bf16)

/-! ## Memory forms (04 R86-R88, 06 R142, 08 R178-R181, 10 R223) -/

def Scope.isIn (s : Scope) (l : List Scope) : Bool := decide (s ∈ l)

def SF.sfv : SF → SFV
  | .s r => .s r
  | .f r => .f r

def SF.isS : SF → Bool
  | .s _ => true
  | .f _ => false

/-- A register and a width that go together (04 R86). -/
def SFV.fits (d : SFV) (w : Width) : Bool :=
  match d with
  | .s _ => w == .b || w == .h || w == .w || w == .d
  | .f _ => w == .w || w == .d
  | .v r => w == .v || (w == .vv && decide (r.val % 2 = 0))

/-- The signed bit is legal on an s load of widths 0 to 2 (04 R86). -/
def signOk (d : SFV) (w : Width) : Bool :=
  match d with
  | .s _ => w == .b || w == .h || w == .w
  | _ => false

def MemArgs.loadOk (m : MemArgs) (sc : List Scope) (d : SFV) : Bool :=
  m.scope.isIn sc && d.fits m.width && (!m.sg || signOk d m.width)

def MemArgs.storeOk (m : MemArgs) (sc : List Scope) (b : SFV) : Bool := m.scope.isIn sc && b.fits m.width && !m.sg

/-- `ldlp`: an even destination, widths 2 and 3, signed on width 2 only (08 R178). -/
def MemArgs.pairOk (m : MemArgs) (d : SReg) : Bool :=
  m.scope.isIn [.slot, .core] && decide (d.val % 2 = 0) && (m.width == .w || (m.width == .d && !m.sg))

/-- `ldres`: s with widths 2 and 3, v with 4 and 5, scopes 0 to 4 (06 R142). -/
def MemArgs.resOk (m : MemArgs) (d : SFV) : Bool :=
  m.scope != .fabric && d.fits m.width && (!m.sg || signOk d m.width) &&
    (match d with | .s _ => m.width == .w || m.width == .d | .f _ => false | .v _ => true)

/-- `vgath` and `vscat` (10 R223). -/
def MemArgs.gatherOk (m : MemArgs) : Bool :=
  m.scope.isIn [.slot, .core] && (m.width == .b || m.width == .h || m.width == .w) && !m.sg

def AmoArgs.ok (m : AmoArgs) (sc : List Scope) : Bool := m.scope.isIn sc && (m.width == .w || m.width == .d)

/-! ## Other subfields -/

/-- An immediate below a bound, or a register (07 R147, 08 R182, 16 R357). -/
def SI.below (a : SI) (n : Nat) : Bool :=
  match a with
  | .s _ => true
  | .imm k => decide (k.val < n)

/-- A version register leaves the version immediate zero (02 R32). -/
def TileArgs.verOk (t : TileArgs) : Bool := t.b.isNone || t.imm == 0

/-- A tile's place in the scratchpad (05 R114). -/
def TileArgs.placeOk (t : TileArgs) : Bool :=
  decide (t.c.val < 10) && decide (t.addr.toNat % 128 = 0) && decide (t.addr.toNat + 128 * 2 ^ t.c.val ≤ 0x30000)

/-- The instruction has a word; an event has none and is well formed as it stands. -/
def Instr.wf : Instr → Bool
  | .add h _ _ _ => h.ok false false false false
  | .sub h _ _ _ => h.ok false false false false
  | .mul h _ _ _ => h.ok false false false false
  | .mulh h _ _ _ => h.ok false false false false
  | .umulh h _ _ _ => h.ok false false false false
  | .div h _ _ _ => h.ok false false false false
  | .udiv h _ _ _ => h.ok false false false false
  | .rem h _ _ _ => h.ok false false false false
  | .urem h _ _ _ => h.ok false false false false
  | .min h _ _ _ => h.ok false false false false
  | .max h _ _ _ => h.ok false false false false
  | .umin h _ _ _ => h.ok false false false false
  | .umax h _ _ _ => h.ok false false false false
  | .madd h _ _ _ _ => h.ok false false false false
  | .msub h _ _ _ _ => h.ok false false false false
  | .and h _ _ _ => h.ok false false false false
  | .or h _ _ _ => h.ok false false false false
  | .xor h _ _ _ => h.ok false false false false
  | .andn h _ _ _ => h.ok false false false false
  | .orn h _ _ _ => h.ok false false false false
  | .shl h _ _ _ => h.ok false false false false
  | .shr h _ _ _ => h.ok false false false false
  | .sra h _ _ _ => h.ok false false false false
  | .rol h _ _ _ => h.ok false false false false
  | .ror h _ _ _ => h.ok false false false false
  | .clz h _ _ => h.ok false false false false
  | .ctz h _ _ => h.ok false false false false
  | .popc h _ _ => h.ok false false false false
  | .bswap h _ _ => h.ok false false false false
  | .sel h _ _ _ _ => h.ok false false false false
  | .cmp h _ _ _ _ => h.ok false false false false
  | .addi h _ _ _ => h.ok false false false false
  | .andi h _ _ _ => h.ok false false false false
  | .ori h _ _ _ => h.ok false false false false
  | .xori h _ _ _ => h.ok false false false false
  | .shli h _ _ _ => h.ok false false false false
  | .shri h _ _ _ => h.ok false false false false
  | .srai h _ _ _ => h.ok false false false false
  | .li h _ _ => h.ok false false false false
  | .lih h _ _ _ => h.ok false false false false
  | .lea h _ _ b sh _ => h.ok false false false false && (b.isSome || sh == 0)
  | .cmpi h _ _ _ _ => h.ok false false false false
  | .ext h _ _ _ pos len1 => h.ok false false false false && decide (pos.toNat + len1.toNat < 64)
  | .ins h _ _ pos len1 => h.ok false false false false && decide (pos.toNat + len1.toNat < 64)
  | .pand h _ _ _ => h.ok false false false false
  | .por h _ _ _ => h.ok false false false false
  | .pxor h _ _ _ => h.ok false false false false
  | .pandn h _ _ _ => h.ok false false false false
  | .psetb h _ _ _ => h.ok false false false false
  | .psetbAll h _ => h.ok false false false false
  | .pgetb h _ _ => h.ok false false false false
  | .pgetbAll h _ => h.ok false false false false
  | .fadd h t _ _ _ _ => h.ok false false false false && t.isScalar
  | .fsub h t _ _ _ _ => h.ok false false false false && t.isScalar
  | .fmul h t _ _ _ _ => h.ok false false false false && t.isScalar
  | .fdiv h t _ _ _ _ => h.ok false false false false && t.isScalar
  | .fsqrt h t _ _ _ => h.ok false false false false && t.isScalar
  | .fmin h t _ _ _ => h.ok false false false false && t.isScalar
  | .fmax h t _ _ _ => h.ok false false false false && t.isScalar
  | .ffma h t _ _ _ _ _ => h.ok false false false false && t.isScalar
  | .ffms h t _ _ _ _ _ => h.ok false false false false && t.isScalar
  | .fnma h t _ _ _ _ _ => h.ok false false false false && t.isScalar
  | .fabs h t _ _ => h.ok false false false false && t.isScalar
  | .fneg h t _ _ => h.ok false false false false && t.isScalar
  | .fsgnj h t _ _ _ _ => h.ok false false false false && t.isScalar
  | .fcmp h t _ _ _ _ => h.ok false false false false && t.isScalar
  | .fclass h t _ _ => h.ok false false false false && (t.isScalar || t == .bf16)
  | .fsel h _ _ _ _ => h.ok false false false false
  | .fcvt h dst src rm _ _ => h.ok false false false false && (dst.isFloat && src.isFloat && dst.t8ok rm)
  | .fcvti h src _ _ _ _ => h.ok false false false false && src.isFloat
  | .ficvt h dst _ rm _ _ => h.ok false false false false && (dst.isFloat && dst.t8ok rm)
  | .fmvs h _ _ => h.ok false false false false
  | .fmvf h _ _ => h.ok false false false false
  | .fliFp32 h _ _ => h.ok false false false false
  | .fliFp64 h _ _ => h.ok false false false false
  | .fflg h _ _ => h.ok false false false false
  | .fenw h _ _ => h.ok false false false false
  | .ldl h d _ m => h.ok false false false false && m.loadOk [.slot, .core] d.sfv
  | .stl h b _ m => h.ok false false false false && m.storeOk [.slot, .core] b.sfv
  | .ldlv h d _ m => h.ok false false false false && m.loadOk [.slot, .core] (.v d)
  | .stlv h b _ m => h.ok false false false false && m.storeOk [.slot, .core] (.v b)
  | .ldlp h d _ m => h.ok false false false false && m.pairOk d
  | .ldf h d _ m => h.ok false false false false && m.loadOk [.slot, .core] d
  | .ldfe h d _ m => h.ok false false false false && m.loadOk [.slot, .core] d
  | .stwe h b _ m => h.ok false false false false && m.storeOk [.slot, .core] b
  | .sete h _ m => h.ok false false false false && (m.scope.isIn [.slot, .core] && !m.sg)
  | .setf h _ m => h.ok false false false false && (m.scope.isIn [.slot, .core] && !m.sg)
  | .tagrd h _ _ m => h.ok false false false false && (m.scope.isIn [.slot, .core] && m.width == .b && !m.sg)
  | .lamo h _ _ _ _ m => h.ok false false false false && m.ok [.slot, .core]
  | .lamox h _ _ _ m => h.ok false false false false && m.ok [.slot, .core]
  | .lamocas h _ _ _ m => h.ok false false false false && m.ok [.slot, .core]
  | .ldg h d _ m => h.ok false true false false && m.loadOk [.slot, .core, .cluster, .stack, .mdl, .fabric] d.sfv
  | .stg h b _ m => h.ok false true false false && m.storeOk [.slot, .core, .cluster, .stack, .mdl, .fabric] b.sfv
  | .ldgv h d _ m => h.ok false true false false && m.loadOk [.slot, .core, .cluster, .stack, .mdl, .fabric] (.v d)
  | .stgv h b _ m => h.ok false true false false && m.storeOk [.slot, .core, .cluster, .stack, .mdl, .fabric] (.v b)
  | .amo h _ _ _ _ m => h.ok false true false false && m.ok [.slot, .core, .cluster, .stack, .mdl, .fabric]
  | .amox h _ _ _ m => h.ok false true false false && m.ok [.slot, .core, .cluster, .stack, .mdl, .fabric]
  | .amocas h _ _ _ m => h.ok false true false false && m.ok [.slot, .core, .cluster, .stack, .mdl, .fabric]
  | .pref h _ _ _ => h.ok false true false false
  | .fence h _ => h.ok false true false false
  | .ldres h d _ m => h.ok false true false false && m.resOk d
  | .cmstore h sc _ _ _ _ => h.ok false true false false && (sc != .fabric)
  | .commit h _ _ _ _ => h.ok false true false false
  | .decommit h _ _ _ => h.ok false true false false
  | .palloc h _ _ => h.ok false true false false
  | .pfree h _ _ => h.ok false true false false
  | .xlat h _ _ _ => h.ok false true false false
  | .tlbinv h _ _ _ _ => h.ok false true false false
  | .wback h _ _ _ => h.ok false true false false
  | .tnew h _ _ t => h.ok false true false false && (t.verOk && decide (t.c.val < 10) && t.addr == 0 && t.cnt != 0)
  | .tstore h _ t => h.ok false true false false && (t.verOk && t.placeOk)
  | .tload h _ _ t => h.ok false true false false && (t.verOk && t.placeOk)
  | .tloadt h _ _ t => h.ok false true false false && (t.verOk && t.placeOk)
  | .tpoll h _ _ b imm => h.ok false true false false && (b.isNone || imm == 0)
  | .tdrop h _ _ b imm _ => h.ok false true false false && (b.isNone || imm == 0)
  | .tref h _ _ b imm j => h.ok false true false false && ((b.isNone || imm == 0) && j != 0)
  | .tinfo h _ _ => h.ok false true false false
  | .tfloor h _ _ b imm => h.ok false true false false && (b.isNone || imm == 0)
  | .tlimit h _ _ n => h.ok false true false false && (n != 0)
  | .tdel h _ _ => h.ok false true false false
  | .cpy h _ _ _ _ => h.ok false true false false
  | .cpyt h _ _ _ _ => h.ok false true false false
  | .cpyf h _ _ _ _ _ => h.ok false true false false
  | .qdual h _ _ _ _ => h.ok false true false false
  | .bfmt h _ a _ => h.ok false true false false && a.below 12
  | .bfmtr h _ a => h.ok false true false false && a.below 12
  | .bload h _ t sc _ _ _ _ => h.ok false true false false && (t == .bf16 && !sc || t == .t8 || t == .t6)
  | .sstream h _ _ _ _ _ _ _ => h.ok false true false false
  | .sstop h _ => h.ok false true false false
  | .spos h _ _ => h.ok false true false false
  | .tlwait h _ _ => h.ok false true false false
  | .tlwaitAbort h _ _ => h.ok false true false false
  | .tlrd h _ _ _ => h.ok false true false false
  | .vfadd h m _ _ _ => h.ok false false false true && m.ok [.fp32, .bf16] true
  | .vfsub h m _ _ _ => h.ok false false false true && m.ok [.fp32, .bf16] true
  | .vfmul h m _ _ _ => h.ok false false false true && m.ok [.fp32, .bf16] true
  | .vfdiv h m _ _ _ => h.ok false false false true && m.ok [.fp32, .bf16] true
  | .vfma h m _ _ _ _ => h.ok false false false true && m.ok [.fp32, .bf16] true
  | .vfms h m _ _ _ _ => h.ok false false false true && m.ok [.fp32, .bf16] true
  | .vfnma h m _ _ _ _ => h.ok false false false true && m.ok [.fp32, .bf16] true
  | .vfmin h m _ _ _ => h.ok false false false true && m.ok [.fp32, .bf16] false
  | .vfmax h m _ _ _ => h.ok false false false true && m.ok [.fp32, .bf16] false
  | .vfabs h m _ _ => h.ok false false false true && m.ok [.fp32, .bf16] false
  | .vfneg h m _ _ => h.ok false false false true && m.ok [.fp32, .bf16] false
  | .vfsqrt h m _ _ => h.ok false false false true && m.ok [.fp32, .bf16] true
  | .vexp2 h m _ _ => h.ok false false false true && m.ok [.fp32, .bf16] true
  | .vlog2 h m _ _ => h.ok false false false true && m.ok [.fp32, .bf16] true
  | .vrcp h m _ _ => h.ok false false false true && m.ok [.fp32, .bf16] true
  | .vrsq h m _ _ => h.ok false false false true && m.ok [.fp32, .bf16] true
  | .vadd h m _ _ _ => h.ok false false false true && m.ok [.i32, .i16, .i8] false
  | .vsub h m _ _ _ => h.ok false false false true && m.ok [.i32, .i16, .i8] false
  | .vmul h m _ _ _ => h.ok false false false true && m.ok [.i32, .i16, .i8] false
  | .vmulh h _ m _ _ _ => h.ok false false false true && m.ok [.i32, .i16, .i8] false
  | .vmin h _ m _ _ _ => h.ok false false false true && m.ok [.i32, .i16, .i8] false
  | .vmax h _ m _ _ _ => h.ok false false false true && m.ok [.i32, .i16, .i8] false
  | .vand h m _ _ _ => h.ok false false false true && m.ok [.i32, .i16, .i8] false
  | .vor h m _ _ _ => h.ok false false false true && m.ok [.i32, .i16, .i8] false
  | .vxor h m _ _ _ => h.ok false false false true && m.ok [.i32, .i16, .i8] false
  | .vshl h m _ _ _ => h.ok false false false true && m.ok [.i32, .i16, .i8] false
  | .vshr h m _ _ _ => h.ok false false false true && m.ok [.i32, .i16, .i8] false
  | .vsra h m _ _ _ => h.ok false false false true && m.ok [.i32, .i16, .i8] false
  | .vabs h m _ _ => h.ok false false false true && m.ok [.i32, .i16, .i8] false
  | .vdiv h _ m _ _ _ => h.ok false false false true && m.ok [.i32, .i16, .i8] false
  | .vrem h _ m _ _ _ => h.ok false false false true && m.ok [.i32, .i16, .i8] false
  | .vpopc h m _ _ => h.ok false false false true && m.ok [.i32, .i16, .i8] false
  | .vcmp h _ m _ _ _ => h.ok false false false true && m.ok [.i32, .i16, .i8] false
  | .vfcmp h _ m _ _ _ => h.ok false false false true && m.ok [.fp32, .bf16] false
  | .vsel h t _ _ _ _ => h.ok false false false true && (t != .fp64)
  | .vcvt h src m _ _ p => h.ok false false false true && (m.ok [.fp32, .bf16, .t8, .t6, .i32, .i16, .i8] true && src != .fp64 && m.t.t8ok m.rm && decide (p.val < partRatio m.t src))
  | .vcvts h dst src d a => h.ok false false false true && blockPair dst src d a
  | .vredadd h m _ _ => h.ok false false false true && m.ok [.fp32, .bf16] true
  | .vredmax h m _ _ => h.ok false false false true && m.ok [.fp32, .bf16] false
  | .vredmin h m _ _ => h.ok false false false true && m.ok [.fp32, .bf16] false
  | .vrediadd h m _ _ => h.ok false false false true && m.ok [.i32, .i16, .i8] false
  | .vcompress h t _ _ _ => h.ok false false false true && (t != .fp64)
  | .vexpand h t _ _ _ => h.ok false false false true && (t != .fp64)
  | .vslideup h t _ _ _ => h.ok false false false true && (t != .fp64)
  | .vslidedn h t _ _ _ => h.ok false false false true && (t != .fp64)
  | .vperm h t _ _ _ => h.ok false false false true && (t != .fp64)
  | .vbcastScalar h t _ _ => h.ok false false false true && (t != .fp64)
  | .vbcastLane h t _ _ _ => h.ok false false false true && (t != .fp64)
  | .vmovsLane h t sg d _ _ => h.ok false false false true && (t != .fp64 && (!sg || d.isS))
  | .vmovsCnt h t _ _ => h.ok false false false true && (t != .fp64)
  | .vmovsBits h t _ _ => h.ok false false false true && (t != .fp64)
  | .vins h t _ _ _ => h.ok false false false true && (t != .fp64)
  | .vzord h x2 _ _ _ _ c => h.ok false false false true && (x2 != c.isSome)
  | .vgath h m _ _ _ => h.ok false false false true && m.gatherOk
  | .vscat h m _ _ _ => h.ok false false false true && m.gatherOk
  | .mjob h _ _ _ _ _ _ => h.ok false false false false
  | .mma h _ _ _ _ _ _ => h.ok false false false false
  | .mdrain h m _ _ _ => h.ok false false false false && (decide (m.ty.val < 4) && decide (m.tf.val < 2))
  | .mwait h _ _ => h.ok false false false false
  | .mcfg h _ _ _ => h.ok false false false false
  | .mcfgr h _ => h.ok false false false false
  | .mclr h _ _ _ => h.ok false false false false
  | .mabort h _ _ => h.ok false false false false
  | .rld h d _ m => h.ok false true true false && m.loadOk [.fabric] d
  | .rst h b _ m => h.ok false true true false && m.storeOk [.fabric] b
  | .ramo h _ _ _ _ m => h.ok false true true false && m.ok [.fabric]
  | .ramoPosted h _ _ _ m => h.ok false true true false && m.ok [.fabric]
  | .ramocas h _ _ _ m => h.ok false true true false && m.ok [.fabric]
  | .roam h _ => h.ok false false false false
  | .home h => h.ok false false false false
  | .eqrd h _ _ => h.ok false false false false
  | .eqpop h _ => h.ok false false false false
  | .mbincLocal h _ _ => h.ok false false false false
  | .mbincRemote h _ _ => h.ok false false false false
  | .mbwait h _ _ => h.ok false false false false
  | .mbrd h _ _ => h.ok false false false false
  | .barArr h _ a => h.ok false false false false && a.below 16
  | .barSig h _ a => h.ok false false false false && a.below 16
  | .barCfg h _ a _ => h.ok false false false false && a.below 16
  | .barRd h _ a => h.ok false false false false && a.below 16
  | .coll h _ _ _ _ => h.ok false false false false
  | .repart h _ _ _ => h.ok false false false false
  | .viewrd h part _ a => h.ok false false false false && (decide (part.val < 5) && (part == 3) == a.isSome)
  | .viewack h _ _ => h.ok false false false false
  | .br h _ => h.ok true false false false
  | .jal h _ => h.ok true false false false
  | .jr h _ => h.ok true false false false
  | .jalr h _ => h.ok true false false false
  | .brx h _ _ => h.ok true false false false
  | .loop h d _ => h.ok true false false false && (d != 0)
  | .bcast h _ _ _ => h.ok false false false false
  | .fetchb h _ _ _ => h.ok false false false false
  | .lkput h _ _ => h.ok false false false false
  | .lkget h _ a _ => h.ok false false false false && a.below 16
  | .stop h => h.ok false false false false
  | .nop h => h.ok false false false false
  | .slgo h _ _ _ => h.ok false false false false
  | .slhalt h _ _ => h.ok false false false false
  | .slwait h _ _ => h.ok false false false false
  | .slpoll h part _ _ => h.ok false false false false && (part != 3)
  | .slpool h _ => h.ok false false false false
  | .pause h _ => h.ok false false false false
  | .spawn h _ _ _ _ => h.ok false false false false
  | .spawndPage h _ _ _ _ => h.ok false false false false
  | .spawndTile h _ _ _ _ => h.ok false false false false
  | .fork h _ _ _ _ _ _ => h.ok false false false false
  | .join h _ _ _ _ => h.ok false false false false
  | .tqpush h _ _ _ _ => h.ok false false false false
  | .tqpop h _ _ _ _ => h.ok false false false false
  | .tqctl h _ _ => h.ok false false false false
  | .tqrd h _ _ => h.ok false false false false
  | .trap h _ => h.ok false false false false
  | .eret h => h.ok false false false false
  | .ctlr h _ _ => h.ok false false false false
  | .ctlw h c _ => h.ok false false false false && (c != 8)
  | .ctlx h _ c _ => h.ok false false false false && (c != 8)
  | .tmrWrite h _ _ => h.ok false false false false
  | .spill h _ _ => h.ok false false false false
  | .unspill h _ _ _ => h.ok false false false false
  | .smsgMsg h _ _ _ => h.ok false false false false
  | .smsgRes h _ _ => h.ok false false false false
  | .smsgTrp h _ _ => h.ok false false false false
  | .tmrset h _ a n => h.ok false false false false && (a.isNone || n == 0)
  | .tmrclr h _ => h.ok false false false false
  | .icinv h => h.ok false false false false
  | .rcinv h => h.ok false false false false
  | .brk h _ => h.ok false false false false
  | .sleep h _ _ => h.ok false false false false
  | .illegalInstruction _ => true
  | .instructionFetchFault _ _ => true
  | .fetchFill _ _ => true
  | .repetition _ _ => true
  | .parkReasonMet _ => true
  | .translationWalk _ => true
  | .pendingCommitRetry _ => true
  | .globalAccessAtSlice _ => true
  | .fenceProbe _ _ => true
  | .fenceEcho _ _ => true
  | .patrolScrub _ _ => true
  | .eventBufferDrain _ => true
  | .versionClaim _ => true
  | .fillComplete _ _ => true
  | .fillFail _ _ => true
  | .versionLoadRequest _ => true
  | .arrivalNotice _ => true
  | .deliveryAck _ => true
  | .deliveryFail _ => true
  | .waiterRetry _ => true
  | .tloadtTimeout _ => true
  | .tloadCancel _ => true
  | .sharedPortWrite _ => true
  | .tagWaitPerform _ => true
  | .mailboxIncrement _ => true
  | .packetPromotion _ => true
  | .deadlockEscape _ => true
  | .ucieReplay _ => true
  | .ucieRetrain _ => true
  | .ucieLinkLost _ => true
  | .copySector _ _ _ => true
  | .denialFault _ => true
  | .streamRefill _ _ => true
  | .streamDrain _ _ => true
  | .matrixAccept _ => true
  | .matrixJobStart _ _ => true
  | .matrixJobComplete _ => true
  | .drainComplete _ => true
  | .drainFail _ => true
  | .remoteRequestAtTarget _ => true
  | .remoteReply _ => true
  | .remoteWriteAck _ => true
  | .remoteWriteFail _ => true
  | .switchCombine _ _ _ => true
  | .combinedReply _ _ => true
  | .multicastForward _ _ => true
  | .ergFlitReceive _ _ _ => true
  | .ergNak _ _ => true
  | .ergGapRenak _ _ => true
  | .ergPortRetrain _ => true
  | .ergPortLost _ => true
  | .roamArrival _ => true
  | .guestReturn _ => true
  | .guestLost _ => true
  | .heartbeat _ => true
  | .suspectIntervalExpiry _ _ => true
  | .propose _ _ => true
  | .accept _ _ => true
  | .agreementTimeout _ => true
  | .isolation _ => true
  | .joinRequest _ _ => true
  | .abandon _ _ => true
  | .collMatch _ _ => true
  | .collCombine _ _ _ => true
  | .collFinal _ _ => true
  | .collRelease _ _ => true
  | .collWriteDone _ _ => true
  | .splitterCompute _ _ => true
  | .repartCounts _ _ => true
  | .repartRecords _ _ => true
  | .taskAccept _ => true
  | .taskStart _ => true
  | .taskSteal _ => true
  | .gateNotice _ => true
  | .joinStep _ => true
  | .blockStart _ => true
  | .halt _ => true
  | .preemption _ => true
  | .watchdog _ => true
  | .timerExpiry _ => true
  | .timerTrap _ => true
  | .copyFaultTrap _ => true
  | .membershipChangeTrap _ => true
  | .spawnFailureTrap _ => true
  | .pauseExpiry _ => true
  | .messageArrival _ => true
  | .messageBufferAccept _ => true
  | .launchEnd _ => true
  | .doorbell _ _ => true
  | .launch _ _ _ => true
  | .commitOrDenyAPage _ _ _ => true
  | .moveOrReclaimVersionEntries _ _ _ _ => true
  | .installView _ _ _ => true
  | .supplySplitters _ _ _ _ => true
  | .answerAnException _ _ => true
  | .markModuleReady _ => true
  | .spillOrResumeASlot _ _ => true
  | .resetADie _ => true
  | .dieDrainTimeout _ => true
  | .readCollectiveStaging _ _ _ _ _ => true
  | .completionRecord _ => true
  | .jormalFrame _ _ _ => true
  | .attestationReport _ => true
  | .firmwareImage _ _ _ _ => true
  | .modeChange _ _ => true
  | .moduleReset => true
  | .thermalThrottle _ => true
  | .thermalShutdown _ => true
  | .viewCommit _ _ => true
  | .fatalFaultReport _ _ => true
  | .hostFailureReport _ _ => true
  | .ucieLinkRestored _ => true
  | .ergPortRestored _ => true
  | .markDieReady _ => true

end Sys2Proof
end

