-- ==== Sys2Proof/Decode.lean ====
section
/-! DEFINITION. The decoder and the encoder: 96-bit words and instructions (02 R27-R35, and each chapter's own rules of illegal values). -/

namespace Sys2Proof

/-! ## The word's fields (02 R27, R28) -/

/-- A word taken apart. -/
structure Raw where
  major : BitVec 8
  minor : BitVec 4
  neg : Bool
  pred : BitVec 3
  bh : BitVec 2
  ev : BitVec 2
  roam : Bool
  rep : Bool
  rsv : BitVec 2
  d : BitVec 8
  a : BitVec 8
  b : BitVec 8
  ext : BitVec 48
  deriving DecidableEq, Repr

def Raw.ofWord (w : IWord) : Raw where
  major := w.extractLsb' 88 8
  minor := w.extractLsb' 84 4
  neg := w.getLsbD 83
  pred := w.extractLsb' 80 3
  bh := w.extractLsb' 78 2
  ev := w.extractLsb' 76 2
  roam := w.getLsbD 75
  rep := w.getLsbD 74
  rsv := w.extractLsb' 72 2
  d := w.extractLsb' 64 8
  a := w.extractLsb' 56 8
  b := w.extractLsb' 48 8
  ext := w.extractLsb' 0 48

def Raw.word (r : Raw) : IWord :=
  r.major ++ r.minor ++ BitVec.ofBool r.neg ++ r.pred ++ r.bh ++ r.ev ++ BitVec.ofBool r.roam ++ BitVec.ofBool r.rep ++ r.rsv ++
    r.d ++ r.a ++ r.b ++ r.ext

def Raw.hdr (r : Raw) : Hdr := ⟨r.neg, r.pred.toFin, Fin.ofNat 3 r.bh.toNat, r.ev.toFin, r.roam, r.rep⟩

/-- The operand class and number (02 R28). -/
def cls (x : BitVec 8) : BitVec 3 := x.extractLsb' 5 3
def num (x : BitVec 8) : BitVec 5 := x.extractLsb' 0 5

/-- The field of an operand that is not there. -/
def noOp : BitVec 8 := 0xE0#8

/-! ## Codes of the subfields -/

def ETy.ofCode (n : Nat) : ETy := [ETy.fp32, .bf16, .t8, .t6, .i32, .i16, .i8, .fp64].getD n .fp32

def ETy.code : ETy → Nat
  | .fp32 => 0 | .bf16 => 1 | .t8 => 2 | .t6 => 3 | .i32 => 4 | .i16 => 5 | .i8 => 6 | .fp64 => 7

def Scope.ofCode (n : Nat) : Scope := [Scope.slot, .core, .cluster, .stack, .mdl, .fabric].getD n .slot

def Scope.code : Scope → Nat
  | .slot => 0 | .core => 1 | .cluster => 2 | .stack => 3 | .mdl => 4 | .fabric => 5

def Width.ofCode (n : Nat) : Width := [Width.b, .h, .w, .d, .v, .vv].getD n .b

def Width.code : Width → Nat
  | .b => 0 | .h => 1 | .w => 2 | .d => 3 | .v => 4 | .vv => 5

/-- The conditions of 09 R188. -/
def Cond.ofCode (n : Nat) : Cond := [Cond.eq, .ne, .lt, .ge, .ltu, .geu, .le, .gt, .leu, .gtu].getD n .eq

def Cond.code : Cond → Nat
  | .eq => 0 | .ne => 1 | .lt => 2 | .ge => 3 | .ltu => 4 | .geu => 5 | .le => 6 | .gt => 7 | .leu => 8 | .gtu => 9

/-- The conditions of 09 R197. -/
def FCond.ofCode (n : Nat) : FCond := [FCond.eq, .ne, .lt, .le, .gt, .ge, .un].getD n .eq

def FCond.code : FCond → Nat
  | .eq => 0 | .ne => 1 | .lt => 2 | .le => 3 | .gt => 4 | .ge => 5 | .un => 6

/-- The operations of 04 R88. -/
def AmoOp.ofCode (n : Nat) : AmoOp := [AmoOp.add, .and, .or, .xor, .min, .max, .umin, .umax, .swap, .fadd].getD n .add

def AmoOp.code : AmoOp → Nat
  | .add => 0 | .and => 1 | .or => 2 | .xor => 3 | .min => 4 | .max => 5 | .umin => 6 | .umax => 7 | .swap => 8 | .fadd => 9

def IDst.ofCode (n : Nat) : IDst := [IDst.int64, .nat64, .int32, .nat32].getD n .int64

def IDst.code : IDst → Nat
  | .int64 => 0 | .nat64 => 1 | .int32 => 2 | .nat32 => 3

def SgnMode.ofCode (n : Nat) : SgnMode := [SgnMode.cp, .neg, .xor].getD n .cp

def SgnMode.code : SgnMode → Nat
  | .cp => 0 | .neg => 1 | .xor => 2

/-- The rounding subfield; `.dyn` is function bit [39] with rounding 000 (02 R43). -/
def Rnd.bits : Rnd → BitVec 3
  | .rne => 0 | .rz => 1 | .rp => 2 | .rm => 3 | .dyn => 0

def Rnd.dynBit : Rnd → BitVec 8
  | .dyn => 0x80 | _ => 0x00

def Rnd.ofCode (n : Nat) (dyn : Bool) : Rnd := if dyn then .dyn else [Rnd.rne, .rz, .rp, .rm].getD n .rne

/-- An 8-bit field with bit 0 alone. -/
def bit8 (b : Bool) : BitVec 8 := if b then 1 else 0

/-! ## Operands read from their fields -/

def regS (x : BitVec 8) : SReg := (num x).toFin
def regV (x : BitVec 8) : VReg := (x.extractLsb' 0 4).toFin
def regK (x : BitVec 8) : KReg := (x.extractLsb' 0 3).toFin
def regY (x : BitVec 8) : YReg := (x.extractLsb' 0 2).toFin
def ctlOf (x : BitVec 8) : Fin 18 := Fin.ofNat 18 (num x).toNat
def tlOf (x : BitVec 8) : Tl := [Tl.c, .m, .x].getD ((num x).toNat - 8) .c
/-- A mailbox index: the number and the mh bit (02 R28, R29). -/
def mbOf (mh : Bool) (x : BitVec 8) : MbIdx := (BitVec.ofBool mh ++ num x).toFin
def optS (x : BitVec 8) : Option SReg := if x = noOp then none else some (regS x)
def siOf (x : BitVec 8) : SI := if cls x = 7 then .imm (num x).toFin else .s (regS x)
def skOf (x : BitVec 8) : SK := if cls x = 3 then .k (regK x) else .s (regS x)
def sfOf (x : BitVec 8) : SF := if cls x = 1 then .f (regS x) else .s (regS x)
def sfvOf (x : BitVec 8) : SFV := if cls x = 2 then .v (regV x) else if cls x = 1 then .f (regS x) else .s (regS x)
def vfOf (x : BitVec 8) : VF := if cls x = 1 then .f (regS x) else .v (regV x)
def vsOf (x : BitVec 8) : VS := if cls x = 0 then .s (regS x) else .v (regV x)

/-! ## Operands written into fields -/

/-- Small numbers as fields. -/
def fin1 (n : Fin 2) : BitVec 1 := BitVec.ofFin n
def fin2 (n : Fin 4) : BitVec 2 := BitVec.ofFin n
def fin3 (n : Fin 8) : BitVec 3 := BitVec.ofFin n

def opS (r : SReg) : BitVec 8 := 0#3 ++ (BitVec.ofFin r : BitVec 5)
def opF (r : FReg) : BitVec 8 := 1#3 ++ (BitVec.ofFin r : BitVec 5)
def opV (r : VReg) : BitVec 8 := 2#3 ++ 0#1 ++ (BitVec.ofFin r : BitVec 4)
def opK (r : KReg) : BitVec 8 := 3#3 ++ 0#2 ++ (BitVec.ofFin r : BitVec 3)
def opCtl (c : Fin 18) : BitVec 8 := 4#3 ++ BitVec.ofNat 5 c.val
def mbHigh (i : MbIdx) : Bool := decide (32 ≤ i.val)
def opMb (i : MbIdx) : BitVec 8 := 5#3 ++ BitVec.ofNat 5 i.val
def opY (r : YReg) : BitVec 8 := 6#3 ++ 0#3 ++ (BitVec.ofFin r : BitVec 2)
def opTl : Tl → BitVec 8
  | .c => 0xC8 | .m => 0xC9 | .x => 0xCA
def opImm (n : Fin 32) : BitVec 8 := 7#3 ++ (BitVec.ofFin n : BitVec 5)
def opOptS : Option SReg → BitVec 8
  | none => noOp
  | some r => opS r
def opOptV : Option VReg → BitVec 8
  | none => noOp
  | some r => opV r
def opSI : SI → BitVec 8
  | .s r => opS r
  | .imm n => opImm n
def opSK : SK → BitVec 8
  | .s r => opS r
  | .k r => opK r
def opSF : SF → BitVec 8
  | .s r => opS r
  | .f r => opF r
def opSFV : SFV → BitVec 8
  | .s r => opS r
  | .f r => opF r
  | .v r => opV r
def opVF : VF → BitVec 8
  | .v r => opV r
  | .f r => opF r
def opVS : VS → BitVec 8
  | .v r => opV r
  | .s r => opS r

/-- The stream registers v12 to v15 by their number (07 R163). -/
def streamReg (v : Fin 4) : VReg := Fin.ofNat 16 (12 + v.val)

/-! ## The extension's layouts (02 R32) -/

def Raw.mh (r : Raw) : Bool := r.ext.getLsbD 47
def Raw.rnd (r : Raw) : BitVec 3 := r.ext.extractLsb' 44 3
def Raw.tyCode (r : Raw) : BitVec 4 := r.ext.extractLsb' 40 4
def Raw.ty (r : Raw) : ETy := ETy.ofCode r.tyCode.toNat
def Raw.fn (r : Raw) : BitVec 8 := r.ext.extractLsb' 32 8
def Raw.low (r : Raw) : BitVec 4 := r.fn.extractLsb' 0 4
def Raw.part (r : Raw) : BitVec 2 := r.fn.extractLsb' 0 2
def Raw.c (r : Raw) : BitVec 8 := r.ext.extractLsb' 24 8
def Raw.rm (r : Raw) : Rnd := Rnd.ofCode r.rnd.toNat (r.fn.getLsbD 7)
def Raw.vmod (r : Raw) : VMod := ⟨r.ty, r.rm, if r.fn.getLsbD 6 then some (r.fn.extractLsb' 4 2).toFin else none⟩
def Raw.scope (r : Raw) : Scope := Scope.ofCode (r.ext.extractLsb' 45 3).toNat
def Raw.width (r : Raw) : Width := Width.ofCode (r.ext.extractLsb' 42 3).toNat
def Raw.off (r : Raw) : BitVec 41 := r.ext.extractLsb' 0 41
def Raw.mem (r : Raw) : MemArgs := ⟨r.scope, r.width, r.ext.getLsbD 41, r.off⟩
def Raw.amoOp (r : Raw) : BitVec 4 := r.ext.extractLsb' 37 4
def Raw.amo (r : Raw) : AmoArgs := ⟨r.scope, r.width, r.ext.extractLsb' 0 37⟩
def Raw.brFn (r : Raw) : BitVec 8 := r.ext.extractLsb' 40 8
def Raw.brOff (r : Raw) : BitVec 40 := r.ext.extractLsb' 0 40
def Raw.tCnt (r : Raw) : BitVec 8 := r.ext.extractLsb' 18 8
def Raw.tImm (r : Raw) : BitVec 18 := r.ext.extractLsb' 0 18
def Raw.tile (r : Raw) : TileArgs :=
  ⟨r.ext.extractLsb' 30 18, (r.ext.extractLsb' 26 4).toFin, r.tCnt, optS r.b, r.tImm⟩
def Raw.sync (r : Raw) : Bool := r.ext.getLsbD 46
def Raw.md (r : Raw) : BitVec 14 := r.ext.extractLsb' 32 14
def Raw.bank (r : Raw) : Fin 4 := (r.md.extractLsb' 12 2).toFin
def Raw.drain (r : Raw) : DrainArgs :=
  ⟨r.bank, (r.md.extractLsb' 8 4).toFin, r.md.getLsbD 7, r.md.getLsbD 6, (r.md.extractLsb' 4 2).toFin, r.sync⟩
def Raw.code (r : Raw) : BitVec 15 := r.ext.extractLsb' 32 15
def Raw.imm32 (r : Raw) : BitVec 32 := r.ext.extractLsb' 0 32

def extReg (mh : Bool) (rnd : BitVec 3) (ty : BitVec 4) (fn c : BitVec 8) : BitVec 48 :=
  BitVec.ofBool mh ++ rnd ++ ty ++ fn ++ c ++ 0#24

/-- The function byte of a vector form (10 R207). -/
def VMod.fn (m : VMod) (low : BitVec 4) : BitVec 8 :=
  BitVec.ofBool (m.rm == .dyn) ++ BitVec.ofBool m.mask.isSome ++
    (match m.mask with | none => 0#2 | some n => (BitVec.ofFin n : BitVec 2)) ++ low

def VMod.ext (m : VMod) (low : BitVec 4) (c : BitVec 8) : BitVec 48 :=
  extReg false m.rm.bits (BitVec.ofNat 4 m.t.code) (m.fn low) c

def MemArgs.ext (m : MemArgs) : BitVec 48 :=
  BitVec.ofNat 3 m.scope.code ++ BitVec.ofNat 3 m.width.code ++ BitVec.ofBool m.sg ++ m.off

def AmoArgs.ext (m : AmoArgs) (op : Nat) : BitVec 48 :=
  BitVec.ofNat 3 m.scope.code ++ BitVec.ofNat 3 m.width.code ++ 0#1 ++ BitVec.ofNat 4 op ++ m.off

def extTile (addr : BitVec 18) (c : BitVec 4) (cnt : BitVec 8) (imm : BitVec 18) : BitVec 48 := addr ++ c ++ cnt ++ imm

def TileArgs.ext (t : TileArgs) : BitVec 48 := extTile t.addr (BitVec.ofFin t.c) t.cnt t.imm

def extEng (sync : Bool) (md : BitVec 14) : BitVec 48 := 0#1 ++ BitVec.ofBool sync ++ md ++ 0#32

def DrainArgs.ext (m : DrainArgs) : BitVec 48 :=
  extEng m.sync ((BitVec.ofFin m.bank : BitVec 2) ++ (BitVec.ofFin m.ty : BitVec 4) ++ BitVec.ofBool m.tr ++ BitVec.ofBool m.clr ++
    (BitVec.ofFin m.tf : BitVec 2) ++ 0#4)

def extSys (code : BitVec 15) (imm : BitVec 32) : BitVec 48 := 0#1 ++ code ++ imm

/-! ## The checks (02 R34) -/

/-- Why a word is no instruction: sub-causes 0x01 to 0x07 of 02 R34. The last two sub-causes depend on the slot and on the register written
and are found by the instruction's meaning. -/
inductive Illegal | unassigned | reserved | notK0 | hint | cls | range | subfield
  deriving DecidableEq, Repr

def Illegal.sub : Illegal → Fin 10
  | .unassigned => 1 | .reserved => 2 | .notK0 => 3 | .hint => 4 | .cls => 5 | .range => 6 | .subfield => 7

/-- A failed check. -/
def flag (b : Bool) (e : Illegal) : List Illegal := if b then [e] else []

/-- The first failed check in the order of 02 R34. -/
def firstFail : List Illegal → Option Illegal
  | [] => none
  | e :: r => match firstFail r with
    | none => some e
    | some f => some (if f.sub < e.sub then f else e)

/-- The operand classes of 02 R28 that a position accepts; `none` is an empty position. -/
inductive Cls | s | f | v | k | ctl | mb | y | tl | imm | none
  deriving DecidableEq, Repr

/-- The class bits. -/
def Cls.bits : Cls → BitVec 3
  | .s => 0 | .f => 1 | .v => 2 | .k => 3 | .ctl => 4 | .mb => 5 | .y => 6 | .tl => 6 | .imm => 7 | .none => 7

/-- The legal numbers of a class (02 R28, R38). -/
def Cls.has (c : Cls) (n : Nat) : Bool :=
  match c with
  | .v => decide (n < 16) | .k => decide (n < 8) | .ctl => decide (n < 18) | .y => decide (n < 4)
  | .tl => decide (8 ≤ n) && decide (n < 11) | .none => n == 0
  | .s => true | .f => true | .mb => true | .imm => true

/-- An operand field against the classes its position accepts (02 R28, R29, R34); a position that lists none is checked by its form. -/
def operand (cs : List Cls) (x : BitVec 8) : List Illegal :=
  if x = noOp && decide (Cls.none ∈ cs) || cs.isEmpty then []
  else if cs = [.none] then [.reserved]
  else match cs.find? fun c => decide (c ≠ .none) && decide (c.bits = Sys2Proof.cls x) with
    | some c => flag (!c.has (num x).toNat) .range
    | none => [.cls]

/-- An operand field whose wrong class is an illegal value of its form, by the form's own rule (06 R142, R143). -/
def operandValue (cs : List Cls) (x : BitVec 8) : List Illegal :=
  (operand cs x).map fun e => if e = .cls then .subfield else e

/-- The hints a form allows (02 R31): branch, eviction priority, roam, repeat. -/
structure Hints where
  br : Bool
  ev : Bool
  roam : Bool
  rep : Bool

def hNone : Hints := ⟨false, false, false, false⟩
def hBranch : Hints := ⟨true, false, false, false⟩
def hEvict : Hints := ⟨false, true, false, false⟩
def hRemote : Hints := ⟨false, true, true, false⟩
def hRepeat : Hints := ⟨false, false, false, true⟩

/-- The hints of a word against those its form allows (02 R31, R34). -/
def hintX (w : Hints) (r : Raw) : List Illegal :=
  flag (decide (r.bh = 3) || (!w.br && decide (r.bh ≠ 0)) || (!w.ev && decide (r.ev ≠ 0)) || (!w.roam && r.roam) ||
    (!w.rep && r.rep)) .hint

/-- The reg format but for mh: a form that rounds, one that takes a type, its function bits (02 R32, R43, 09 R184). -/
def regBase (rounds typed : Bool) (fmask : BitVec 8) (r : Raw) : List Illegal :=
  flag (decide (r.ext.extractLsb' 0 24 ≠ 0)) .reserved ++
    flag (decide (3 < r.rnd.toNat) || (!rounds && decide (r.rnd ≠ 0)) || (r.fn.getLsbD 7 && rounds && decide (r.rnd ≠ 0)) ||
      decide (7 < r.tyCode.toNat) || (!typed && decide (r.tyCode ≠ 0)) || decide (r.fn &&& ~~~fmask ≠ 0)) .subfield

def regX (rounds typed : Bool) (fmask : BitVec 8) (r : Raw) : List Illegal :=
  regBase rounds typed fmask r ++ flag r.mh .subfield

/-- A reg form outside the scalar and vector majors, which neither rounds nor takes a type: a function bit that the form does not define is
an unused extension bit (02 R34, 15 R317; log entry 51). -/
def regU (fmask : BitVec 8) (r : Raw) : List Illegal :=
  flag (decide (r.ext.extractLsb' 0 24 ≠ 0) || decide (r.fn &&& ~~~fmask ≠ 0)) .reserved ++
    flag (decide (r.rnd ≠ 0) || decide (r.tyCode ≠ 0)) .subfield

/-- Such a form with no mailbox operand (02 R29; log entry 33). -/
def regN (fmask : BitVec 8) (r : Raw) : List Illegal := regU fmask r ++ flag r.mh .subfield

/-- A reg form with a mailbox operand, where `mb` holds (02 R29). -/
def regMb (mb : Bool) (r : Raw) : List Illegal := regU 0 r ++ flag (r.mh && !mb) .subfield

/-- The reg forms of major 0xA0: every bit not defined is reserved (16 R347). -/
def regT (fmask : BitVec 8) (r : Raw) : List Illegal :=
  flag (decide (r.ext.extractLsb' 0 24 ≠ 0) || decide (r.ext.extractLsb' 40 8 ≠ 0) || decide (r.fn &&& ~~~fmask ≠ 0)) .reserved

/-- The mask register is 0 where no mask is taken (10 R207). -/
def maskX (r : Raw) : List Illegal := flag (!r.fn.getLsbD 6 && decide (r.fn.extractLsb' 4 2 ≠ 0)) .subfield

/-- Scope and width codes within their tables (02 R32). -/
def memX (r : Raw) : List Illegal :=
  flag (decide (5 < (r.ext.extractLsb' 45 3).toNat) || decide (5 < (r.ext.extractLsb' 42 3).toNat)) .subfield

/-- An atomic: the signed bit is 0 and the operation is in its table (04 R88). -/
def amoX (r : Raw) : List Illegal := memX r ++ flag (r.ext.getLsbD 41 || decide (9 < r.amoOp.toNat)) .subfield

/-- A compare and swap: the operation bits are 0 (04 R88). -/
def casX (r : Raw) : List Illegal := memX r ++ flag (r.ext.getLsbD 41 || decide (r.amoOp ≠ 0)) .subfield

/-- A mem form without scope, width and sign. -/
def bareX (e : Illegal) (r : Raw) : List Illegal := flag (decide (r.ext.extractLsb' 41 7 ≠ 0)) e

/-- The fields a tile form does not use are 0: address, size, count, version (05 R114). -/
def tileX (addr size cnt ver : Bool) (r : Raw) : List Illegal :=
  flag ((!addr && decide (r.ext.extractLsb' 30 18 ≠ 0)) || (!size && decide (r.ext.extractLsb' 26 4 ≠ 0)) ||
    (!cnt && decide (r.tCnt ≠ 0)) || ((!ver || decide (r.b ≠ noOp)) && decide (r.tImm ≠ 0))) .reserved

/-- The eng format: mh, undefined modifier bits and [31:0] are 0 (02 R32, 07 R154, 11 R239, 16 R347). -/
def engX (mask : BitVec 14) (r : Raw) : List Illegal :=
  flag (r.mh || decide (r.imm32 ≠ 0) || decide (r.md &&& ~~~mask ≠ 0)) .reserved

/-- The sys format: mh and undefined bits are 0 (02 R32, 17 R364). -/
def sysX (code : BitVec 15) (imm : BitVec 32) (r : Raw) : List Illegal :=
  flag (r.mh || decide (r.code &&& ~~~code ≠ 0) || decide (r.imm32 &&& ~~~imm ≠ 0)) .reserved

/-- The brn format: undefined function bits are 0 (15 R317). -/
def brnX (mask : BitVec 8) (r : Raw) : List Illegal := flag (decide (r.brFn &&& ~~~mask ≠ 0)) .reserved

/-! ## The opcode map (02 R35) -/

/-- A form: the classes of D, A, B and in the reg format C, the hints it allows, its further checks, and the
instruction its word stands for. -/
structure Row where
  d : List Cls
  a : List Cls
  b : List Cls
  c : Option (List Cls)
  hints : Hints
  more : Raw → List Illegal
  build : Raw → Instr

/-- Major 0x01 (02 R35). -/
noncomputable def rows01 : List Row :=
  [⟨[.s], [.s], [.s], some [.none], hNone, regX false false 0x00, fun r => .add r.hdr (regS r.d) (regS r.a) (regS r.b)⟩,
   ⟨[.s], [.s], [.s], some [.none], hNone, regX false false 0x00, fun r => .sub r.hdr (regS r.d) (regS r.a) (regS r.b)⟩,
   ⟨[.s], [.s], [.s], some [.none], hNone, regX false false 0x00, fun r => .mul r.hdr (regS r.d) (regS r.a) (regS r.b)⟩,
   ⟨[.s], [.s], [.s], some [.none], hNone, regX false false 0x00, fun r => .mulh r.hdr (regS r.d) (regS r.a) (regS r.b)⟩,
   ⟨[.s], [.s], [.s], some [.none], hNone, regX false false 0x00, fun r => .umulh r.hdr (regS r.d) (regS r.a) (regS r.b)⟩,
   ⟨[.s], [.s], [.s], some [.none], hNone, regX false false 0x00, fun r => .div r.hdr (regS r.d) (regS r.a) (regS r.b)⟩,
   ⟨[.s], [.s], [.s], some [.none], hNone, regX false false 0x00, fun r => .udiv r.hdr (regS r.d) (regS r.a) (regS r.b)⟩,
   ⟨[.s], [.s], [.s], some [.none], hNone, regX false false 0x00, fun r => .rem r.hdr (regS r.d) (regS r.a) (regS r.b)⟩,
   ⟨[.s], [.s], [.s], some [.none], hNone, regX false false 0x00, fun r => .urem r.hdr (regS r.d) (regS r.a) (regS r.b)⟩,
   ⟨[.s], [.s], [.s], some [.none], hNone, regX false false 0x00, fun r => .min r.hdr (regS r.d) (regS r.a) (regS r.b)⟩,
   ⟨[.s], [.s], [.s], some [.none], hNone, regX false false 0x00, fun r => .max r.hdr (regS r.d) (regS r.a) (regS r.b)⟩,
   ⟨[.s], [.s], [.s], some [.none], hNone, regX false false 0x00, fun r => .umin r.hdr (regS r.d) (regS r.a) (regS r.b)⟩,
   ⟨[.s], [.s], [.s], some [.none], hNone, regX false false 0x00, fun r => .umax r.hdr (regS r.d) (regS r.a) (regS r.b)⟩,
   ⟨[.s], [.s], [.s], some [.s], hNone, regX false false 0x00, fun r => .madd r.hdr (regS r.d) (regS r.a) (regS r.b) (regS r.c)⟩,
   ⟨[.s], [.s], [.s], some [.s], hNone, regX false false 0x00, fun r => .msub r.hdr (regS r.d) (regS r.a) (regS r.b) (regS r.c)⟩]

/-- Major 0x02 (02 R35). -/
noncomputable def rows02 : List Row :=
  [⟨[.s], [.s], [.s], some [.none], hNone, regX false false 0x00, fun r => .and r.hdr (regS r.d) (regS r.a) (regS r.b)⟩,
   ⟨[.s], [.s], [.s], some [.none], hNone, regX false false 0x00, fun r => .or r.hdr (regS r.d) (regS r.a) (regS r.b)⟩,
   ⟨[.s], [.s], [.s], some [.none], hNone, regX false false 0x00, fun r => .xor r.hdr (regS r.d) (regS r.a) (regS r.b)⟩,
   ⟨[.s], [.s], [.s], some [.none], hNone, regX false false 0x00, fun r => .andn r.hdr (regS r.d) (regS r.a) (regS r.b)⟩,
   ⟨[.s], [.s], [.s], some [.none], hNone, regX false false 0x00, fun r => .orn r.hdr (regS r.d) (regS r.a) (regS r.b)⟩,
   ⟨[.s], [.s], [.s], some [.none], hNone, regX false false 0x00, fun r => .shl r.hdr (regS r.d) (regS r.a) (regS r.b)⟩,
   ⟨[.s], [.s], [.s], some [.none], hNone, regX false false 0x00, fun r => .shr r.hdr (regS r.d) (regS r.a) (regS r.b)⟩,
   ⟨[.s], [.s], [.s], some [.none], hNone, regX false false 0x00, fun r => .sra r.hdr (regS r.d) (regS r.a) (regS r.b)⟩,
   ⟨[.s], [.s], [.s], some [.none], hNone, regX false false 0x00, fun r => .rol r.hdr (regS r.d) (regS r.a) (regS r.b)⟩,
   ⟨[.s], [.s], [.s], some [.none], hNone, regX false false 0x00, fun r => .ror r.hdr (regS r.d) (regS r.a) (regS r.b)⟩,
   ⟨[.s], [.s], [.none], some [.none], hNone, regX false false 0x00, fun r => .clz r.hdr (regS r.d) (regS r.a)⟩,
   ⟨[.s], [.s], [.none], some [.none], hNone, regX false false 0x00, fun r => .ctz r.hdr (regS r.d) (regS r.a)⟩,
   ⟨[.s], [.s], [.none], some [.none], hNone, regX false false 0x00, fun r => .popc r.hdr (regS r.d) (regS r.a)⟩,
   ⟨[.s], [.s], [.none], some [.none], hNone, regX false false 0x00, fun r => .bswap r.hdr (regS r.d) (regS r.a)⟩,
   ⟨[.s], [.s], [.s], some [.k], hNone, regX false false 0x00, fun r => .sel r.hdr (regS r.d) (regS r.a) (regS r.b) (regK r.c)⟩,
   ⟨[.s, .k], [.s], [.s], some [.none], hNone, fun r => regX false false 0xFF r ++ flag (decide (9 < r.fn.toNat)) .subfield,
    fun r => .cmp r.hdr (Cond.ofCode r.fn.toNat) (skOf r.d) (regS r.a) (regS r.b)⟩]

/-- Major 0x03 (02 R35). -/
noncomputable def rows03 : List Row :=
  [⟨[.s], [.s], [.none], none, hNone, fun _ => [], fun r => .addi r.hdr (regS r.d) (regS r.a) r.ext⟩,
   ⟨[.s], [.s], [.none], none, hNone, fun _ => [], fun r => .andi r.hdr (regS r.d) (regS r.a) r.ext⟩,
   ⟨[.s], [.s], [.none], none, hNone, fun _ => [], fun r => .ori r.hdr (regS r.d) (regS r.a) r.ext⟩,
   ⟨[.s], [.s], [.none], none, hNone, fun _ => [], fun r => .xori r.hdr (regS r.d) (regS r.a) r.ext⟩,
   ⟨[.s], [.s], [.none], none, hNone, fun r => flag (decide (r.ext.extractLsb' 6 42 ≠ 0)) .subfield,
    fun r => .shli r.hdr (regS r.d) (regS r.a) (r.ext.extractLsb' 0 6)⟩,
   ⟨[.s], [.s], [.none], none, hNone, fun r => flag (decide (r.ext.extractLsb' 6 42 ≠ 0)) .subfield,
    fun r => .shri r.hdr (regS r.d) (regS r.a) (r.ext.extractLsb' 0 6)⟩,
   ⟨[.s], [.s], [.none], none, hNone, fun r => flag (decide (r.ext.extractLsb' 6 42 ≠ 0)) .subfield,
    fun r => .srai r.hdr (regS r.d) (regS r.a) (r.ext.extractLsb' 0 6)⟩,
   ⟨[.s], [.none], [.none], none, hNone, fun _ => [], fun r => .li r.hdr (regS r.d) r.ext⟩,
   ⟨[.s], [.s], [.none], none, hNone, fun r => flag (decide (r.ext.extractLsb' 16 32 ≠ 0)) .subfield,
    fun r => .lih r.hdr (regS r.d) (regS r.a) (r.ext.extractLsb' 0 16)⟩,
   ⟨[.s], [.s], [.s, .none], none, hNone, fun _ => [],
    fun r => .lea r.hdr (regS r.d) (regS r.a) (optS r.b) (r.ext.extractLsb' 45 3) (r.ext.extractLsb' 0 45)⟩,
   ⟨[.s, .k], [.s], [.none], none, hNone, fun r => flag (decide (9 < (r.ext.extractLsb' 44 4).toNat)) .subfield,
    fun r => .cmpi r.hdr (Cond.ofCode (r.ext.extractLsb' 44 4).toNat) (skOf r.d) (regS r.a) (r.ext.extractLsb' 0 44)⟩,
   ⟨[.s], [.s], [.none], none, hNone, fun r => flag (decide (r.ext.extractLsb' 12 35 ≠ 0)) .subfield,
    fun r => .ext r.hdr (r.ext.getLsbD 47) (regS r.d) (regS r.a) (r.ext.extractLsb' 0 6) (r.ext.extractLsb' 6 6)⟩,
   ⟨[.s], [.s], [.none], none, hNone, fun r => flag (decide (r.ext.extractLsb' 12 36 ≠ 0)) .subfield,
    fun r => .ins r.hdr (regS r.d) (regS r.a) (r.ext.extractLsb' 0 6) (r.ext.extractLsb' 6 6)⟩]

/-- Major 0x04 (02 R35). -/
noncomputable def rows04 : List Row :=
  [⟨[.k], [.k], [.k], some [.none], hNone, regX false false 0x00, fun r => .pand r.hdr (regK r.d) (regK r.a) (regK r.b)⟩,
   ⟨[.k], [.k], [.k], some [.none], hNone, regX false false 0x00, fun r => .por r.hdr (regK r.d) (regK r.a) (regK r.b)⟩,
   ⟨[.k], [.k], [.k], some [.none], hNone, regX false false 0x00, fun r => .pxor r.hdr (regK r.d) (regK r.a) (regK r.b)⟩,
   ⟨[.k], [.k], [.k], some [.none], hNone, regX false false 0x00, fun r => .pandn r.hdr (regK r.d) (regK r.a) (regK r.b)⟩,
   ⟨[.k, .none], [.s], [.none], some [.none], hNone, fun r => regX false false 0x7F r ++ (if r.fn.getLsbD 6 then flag (decide (r.d ≠ noOp)) .reserved ++ flag (decide (r.fn.extractLsb' 0 6 ≠ 0)) .subfield else flag (decide (r.d = noOp)) .cls),
    fun r => if r.fn.getLsbD 6 then .psetbAll r.hdr (regS r.a) else .psetb r.hdr (regK r.d) (regS r.a) (r.fn.extractLsb' 0 6)⟩,
   ⟨[.s], [.k, .none], [.none], some [.none], hNone, fun r => regX false false 0x01 r ++ (if r.fn.getLsbD 0 then flag (decide (r.a ≠ noOp)) .reserved else flag (decide (r.a = noOp)) .cls),
    fun r => if r.fn.getLsbD 0 then .pgetbAll r.hdr (regS r.d) else .pgetb r.hdr (regS r.d) (regK r.a)⟩]

/-- Major 0x20 (02 R35). -/
noncomputable def rows20 : List Row :=
  [⟨[.f], [.f], [.f], some [.none], hNone, regX true true 0x80, fun r => .fadd r.hdr r.ty r.rm (regS r.d) (regS r.a) (regS r.b)⟩,
   ⟨[.f], [.f], [.f], some [.none], hNone, regX true true 0x80, fun r => .fsub r.hdr r.ty r.rm (regS r.d) (regS r.a) (regS r.b)⟩,
   ⟨[.f], [.f], [.f], some [.none], hNone, regX true true 0x80, fun r => .fmul r.hdr r.ty r.rm (regS r.d) (regS r.a) (regS r.b)⟩,
   ⟨[.f], [.f], [.f], some [.none], hNone, regX true true 0x80, fun r => .fdiv r.hdr r.ty r.rm (regS r.d) (regS r.a) (regS r.b)⟩,
   ⟨[.f], [.f], [.none], some [.none], hNone, regX true true 0x80, fun r => .fsqrt r.hdr r.ty r.rm (regS r.d) (regS r.a)⟩,
   ⟨[.f], [.f], [.f], some [.none], hNone, regX false true 0x00, fun r => .fmin r.hdr r.ty (regS r.d) (regS r.a) (regS r.b)⟩,
   ⟨[.f], [.f], [.f], some [.none], hNone, regX false true 0x00, fun r => .fmax r.hdr r.ty (regS r.d) (regS r.a) (regS r.b)⟩,
   ⟨[.f], [.f], [.f], some [.f], hNone, regX true true 0x80,
    fun r => .ffma r.hdr r.ty r.rm (regS r.d) (regS r.a) (regS r.b) (regS r.c)⟩,
   ⟨[.f], [.f], [.f], some [.f], hNone, regX true true 0x80,
    fun r => .ffms r.hdr r.ty r.rm (regS r.d) (regS r.a) (regS r.b) (regS r.c)⟩,
   ⟨[.f], [.f], [.f], some [.f], hNone, regX true true 0x80,
    fun r => .fnma r.hdr r.ty r.rm (regS r.d) (regS r.a) (regS r.b) (regS r.c)⟩,
   ⟨[.f], [.f], [.none], some [.none], hNone, regX false true 0x00, fun r => .fabs r.hdr r.ty (regS r.d) (regS r.a)⟩,
   ⟨[.f], [.f], [.none], some [.none], hNone, regX false true 0x00, fun r => .fneg r.hdr r.ty (regS r.d) (regS r.a)⟩,
   ⟨[.f], [.f], [.f], some [.none], hNone, fun r => regX false true 0x03 r ++ flag (decide (2 < r.fn.toNat)) .subfield,
    fun r => .fsgnj r.hdr r.ty (SgnMode.ofCode r.fn.toNat) (regS r.d) (regS r.a) (regS r.b)⟩,
   ⟨[.s, .k], [.f], [.f], some [.none], hNone, fun r => regX false true 0x07 r ++ flag (decide (6 < r.fn.toNat)) .subfield,
    fun r => .fcmp r.hdr r.ty (FCond.ofCode r.fn.toNat) (skOf r.d) (regS r.a) (regS r.b)⟩,
   ⟨[.s], [.f], [.none], some [.none], hNone, regX false true 0x00, fun r => .fclass r.hdr r.ty (regS r.d) (regS r.a)⟩,
   ⟨[.f], [.f], [.f], some [.k], hNone, regX false false 0x00, fun r => .fsel r.hdr (regS r.d) (regS r.a) (regS r.b) (regK r.c)⟩]

/-- Major 0x21 (02 R35). Bits [46:32] of `fli.fp32` are unused extension bits (log entry 51). -/
noncomputable def rows21 : List Row :=
  [⟨[.f], [.f], [.none], some [.none], hNone, fun r => regX true true 0x8F r ++ flag (decide (7 < (r.fn.extractLsb' 0 4).toNat)) .subfield,
    fun r => let src := ETy.ofCode (r.fn.extractLsb' 0 4).toNat
    .fcvt r.hdr r.ty src r.rm (regS r.d) (regS r.a)⟩,
   ⟨[.s], [.f], [.none], some [.none], hNone, fun r => regX true true 0x87 r ++ flag (decide (3 < (r.fn.extractLsb' 0 3).toNat)) .subfield,
    fun r => .fcvti r.hdr r.ty (IDst.ofCode (r.fn.extractLsb' 0 3).toNat) r.rm (regS r.d) (regS r.a)⟩,
   ⟨[.f], [.s], [.none], some [.none], hNone, regX true true 0x81,
    fun r => .ficvt r.hdr r.ty (r.fn.getLsbD 0) r.rm (regS r.d) (regS r.a)⟩,
   ⟨[.s], [.f], [.none], some [.none], hNone, regX false false 0x00, fun r => .fmvs r.hdr (regS r.d) (regS r.a)⟩,
   ⟨[.f], [.s], [.none], some [.none], hNone, regX false false 0x00, fun r => .fmvf r.hdr (regS r.d) (regS r.a)⟩,
   ⟨[.f], [.none], [.none], none, hNone, fun r => flag (!r.ext.getLsbD 47 && decide (r.ext.extractLsb' 32 15 ≠ 0)) .reserved,
    fun r => if r.ext.getLsbD 47 then .fliFp64 r.hdr (regS r.d) (r.ext.extractLsb' 0 47) else .fliFp32 r.hdr (regS r.d) (r.ext.extractLsb' 0 32)⟩,
   ⟨[.s], [.s], [.none], some [.none], hNone, regX false false 0x00, fun r => .fflg r.hdr (regS r.d) (regS r.a)⟩,
   ⟨[.s], [.s], [.none], some [.none], hNone, regX false false 0x00, fun r => .fenw r.hdr (regS r.d) (regS r.a)⟩]

/-- Major 0x30 (02 R35). -/
noncomputable def rows30 : List Row :=
  [⟨[.s, .f], [.s], [.none], none, hNone, memX, fun r => .ldl r.hdr (sfOf r.d) (regS r.a) r.mem⟩,
   ⟨[.none], [.s], [.s, .f], none, hNone, memX, fun r => .stl r.hdr (sfOf r.b) (regS r.a) r.mem⟩,
   ⟨[.v], [.s], [.none], none, hNone, memX, fun r => .ldlv r.hdr (regV r.d) (regS r.a) r.mem⟩,
   ⟨[.none], [.s], [.v], none, hNone, memX, fun r => .stlv r.hdr (regV r.b) (regS r.a) r.mem⟩,
   ⟨[.s], [.s], [.none], none, hNone, memX, fun r => .ldlp r.hdr (regS r.d) (regS r.a) r.mem⟩,
   ⟨[.s, .f, .v], [.s], [.none], none, hNone, memX, fun r => .ldf r.hdr (sfvOf r.d) (regS r.a) r.mem⟩,
   ⟨[.s, .f, .v], [.s], [.none], none, hNone, memX, fun r => .ldfe r.hdr (sfvOf r.d) (regS r.a) r.mem⟩,
   ⟨[.none], [.s], [.s, .f, .v], none, hNone, memX, fun r => .stwe r.hdr (sfvOf r.b) (regS r.a) r.mem⟩,
   ⟨[.none], [.s], [.none], none, hNone, memX, fun r => .sete r.hdr (regS r.a) r.mem⟩,
   ⟨[.none], [.s], [.none], none, hNone, memX, fun r => .setf r.hdr (regS r.a) r.mem⟩,
   ⟨[.s], [.s], [.none], none, hNone, memX, fun r => .tagrd r.hdr (regS r.d) (regS r.a) r.mem⟩,
   ⟨[.s], [.s], [.s], none, hNone, amoX, fun r => .lamo r.hdr (AmoOp.ofCode r.amoOp.toNat) (regS r.d) (regS r.a) (regS r.b) r.amo⟩,
   ⟨[.none], [.s], [.s], none, hNone, amoX, fun r => .lamox r.hdr (AmoOp.ofCode r.amoOp.toNat) (regS r.a) (regS r.b) r.amo⟩,
   ⟨[.s], [.s], [.s], none, hNone, casX, fun r => .lamocas r.hdr (regS r.d) (regS r.a) (regS r.b) r.amo⟩]

/-- Major 0x40 (02 R35). A `ldg` or `stg` word whose data operand is of a class outside the form's table gives 0x05, that of `ldres` or
`cmstore` 0x07 (04 R86, 06 R142, R143; log entry 51). -/
noncomputable def rows40 : List Row :=
  [⟨[.s, .f], [.s], [.none], none, hEvict, memX, fun r => .ldg r.hdr (sfOf r.d) (regS r.a) r.mem⟩,
   ⟨[.none], [.s], [.s, .f], none, hEvict, memX, fun r => .stg r.hdr (sfOf r.b) (regS r.a) r.mem⟩,
   ⟨[.v], [.s], [.none], none, hEvict, memX, fun r => .ldgv r.hdr (regV r.d) (regS r.a) r.mem⟩,
   ⟨[.none], [.s], [.v], none, hEvict, memX, fun r => .stgv r.hdr (regV r.b) (regS r.a) r.mem⟩,
   ⟨[.s], [.s], [.s], none, hEvict, amoX, fun r => .amo r.hdr (AmoOp.ofCode r.amoOp.toNat) (regS r.d) (regS r.a) (regS r.b) r.amo⟩,
   ⟨[.none], [.s], [.s], none, hEvict, amoX, fun r => .amox r.hdr (AmoOp.ofCode r.amoOp.toNat) (regS r.a) (regS r.b) r.amo⟩,
   ⟨[.s], [.s], [.s], none, hEvict, casX, fun r => .amocas r.hdr (regS r.d) (regS r.a) (regS r.b) r.amo⟩,
   ⟨[.none], [.s], [.none], none, hEvict, fun r => flag (decide (r.ext.extractLsb' 45 3 ≠ 0) || decide (1 < (r.ext.extractLsb' 42 3).toNat) || r.ext.getLsbD 41) .subfield,
    fun r => .pref r.hdr (r.ext.getLsbD 42) (regS r.a) r.off⟩,
   ⟨[.none], [.none], [.none], none, hEvict, fun r => sysX 0x7 0 r ++ flag (decide (5 < r.code.toNat)) .subfield,
    fun r => .fence r.hdr (Scope.ofCode r.code.toNat)⟩,
   ⟨[], [.s], [.none], none, hEvict, fun r => memX r ++ operandValue [.s, .v] r.d, fun r => .ldres r.hdr (sfvOf r.d) (regS r.a) r.mem⟩,
   ⟨[], [], [], none, hEvict, fun r => memX r ++ flag (decide (r.ext.extractLsb' 41 4 ≠ 0)) .subfield ++
      operandValue [.s] r.d ++ operandValue [.s] r.a ++ operandValue [.s] r.b,
    fun r => .cmstore r.hdr r.scope (regS r.d) (regS r.a) (regS r.b) r.off⟩,
   ⟨[.s], [.s], [.s], none, hEvict, bareX .subfield, fun r => .commit r.hdr (regS r.d) (regS r.a) (regS r.b) r.off⟩,
   ⟨[.s], [.s], [.none], none, hEvict, bareX .subfield, fun r => .decommit r.hdr (regS r.d) (regS r.a) r.off⟩,
   ⟨[.s], [.s], [.none], some [.none], hEvict, regN 0x00, fun r => .palloc r.hdr (regS r.d) (regS r.a)⟩,
   ⟨[.s], [.s], [.none], some [.none], hEvict, regN 0x00, fun r => .pfree r.hdr (regS r.d) (regS r.a)⟩,
   ⟨[.s], [.s], [.none], none, hEvict, bareX .subfield, fun r => .xlat r.hdr (regS r.d) (regS r.a) r.off⟩]

/-- Major 0x41 (02 R35). -/
noncomputable def rows41 : List Row :=
  [⟨[.none], [.s], [.none], none, hEvict, fun r => memX r ++ flag (!r.scope.isIn [.core, .mdl] || decide (r.ext.extractLsb' 42 3 ≠ 0)) .subfield,
    fun r => .tlbinv r.hdr (r.ext.getLsbD 41) (r.scope == .mdl) (regS r.a) r.off⟩,
   ⟨[.none], [.s], [.none], none, hEvict, fun r => flag (decide (r.ext.extractLsb' 42 6 ≠ 0)) .subfield,
    fun r => .wback r.hdr (r.ext.getLsbD 41) (regS r.a) r.off⟩]

/-- Major 0x50 (02 R35). -/
noncomputable def rows50 : List Row :=
  [⟨[.s], [.s], [.s, .none], none, hEvict, tileX false true true true, fun r => .tnew r.hdr (regS r.d) (regS r.a) r.tile⟩,
   ⟨[.none], [.s], [.s, .none], none, hEvict, tileX true true true true, fun r => .tstore r.hdr (regS r.a) r.tile⟩,
   ⟨[.s], [.s], [.s, .none], none, hEvict, tileX true true true true, fun r => .tload r.hdr (regS r.d) (regS r.a) r.tile⟩,
   ⟨[.s], [.s], [.s, .none], none, hEvict, tileX true true true true, fun r => .tloadt r.hdr (regS r.d) (regS r.a) r.tile⟩,
   ⟨[.s], [.s], [.s, .none], none, hEvict, tileX false false false true,
    fun r => .tpoll r.hdr (regS r.d) (regS r.a) (optS r.b) r.tImm⟩,
   ⟨[.s], [.s], [.s, .none], none, hEvict, tileX false false true true,
    fun r => .tdrop r.hdr (regS r.d) (regS r.a) (optS r.b) r.tImm r.tCnt⟩,
   ⟨[.s], [.s], [.s, .none], none, hEvict, tileX false false true true,
    fun r => .tref r.hdr (regS r.d) (regS r.a) (optS r.b) r.tImm r.tCnt⟩,
   ⟨[.s], [.s], [.none], none, hEvict, tileX false false false false, fun r => .tinfo r.hdr (regS r.d) (regS r.a)⟩,
   ⟨[.s], [.s], [.s, .none], none, hEvict, tileX false false false true,
    fun r => .tfloor r.hdr (regS r.d) (regS r.a) (optS r.b) r.tImm⟩,
   ⟨[.s], [.s], [.none], none, hEvict, tileX false false true false, fun r => .tlimit r.hdr (regS r.d) (regS r.a) r.tCnt⟩,
   ⟨[.s], [.s], [.none], none, hEvict, tileX false false false false, fun r => .tdel r.hdr (regS r.d) (regS r.a)⟩]

/-- Major 0x58 (02 R35). -/
noncomputable def rows58 : List Row :=
  [⟨[.s], [.s], [.s], none, hEvict, engX 0, fun r => .cpy r.hdr r.sync (regS r.d) (regS r.a) (regS r.b)⟩,
   ⟨[.s], [.s], [.s], none, hEvict, engX 0, fun r => .cpyt r.hdr r.sync (regS r.d) (regS r.a) (regS r.b)⟩,
   ⟨[.s], [.s], [.s], none, hEvict, engX 0x3,
    fun r => .cpyf r.hdr (r.md.extractLsb' 0 2).toFin r.sync (regS r.d) (regS r.a) (regS r.b)⟩,
   ⟨[.s], [.s], [.s], none, hEvict, engX 0, fun r => .qdual r.hdr r.sync (regS r.d) (regS r.a) (regS r.b)⟩,
   ⟨[.s], [.s, .imm], [.s], some [.none], hEvict, regN 0x00, fun r => .bfmt r.hdr (regS r.d) (siOf r.a) (regS r.b)⟩,
   ⟨[.s], [.s, .imm], [.none], some [.none], hEvict, regN 0x00, fun r => .bfmtr r.hdr (regS r.d) (siOf r.a)⟩,
   ⟨[.s], [.s], [.s], none, hEvict, fun r => engX 0x3F80 r ++ flag (r.md.getLsbD 13 || decide (7 < (r.md.extractLsb' 8 4).toNat)) .subfield,
    fun r => .bload r.hdr (r.md.getLsbD 12) (ETy.ofCode (r.md.extractLsb' 8 4).toNat) (r.md.getLsbD 7) r.sync (regS r.d) (regS r.a) (regS r.b)⟩,
   ⟨[.s], [.s], [.s], none, hEvict, engX 0x3C00,
    fun r => .sstream r.hdr (r.md.extractLsb' 12 2).toFin (r.md.getLsbD 11) (r.md.getLsbD 10) r.sync (regS r.d) (regS r.a) (regS r.b)⟩,
   ⟨[.v], [.none], [.none], some [.none], hEvict, fun r => regN 0 r ++ flag (decide ((num r.d).toNat < 12)) .range,
    fun r => let n : Fin 4 := (r.d.extractLsb' 0 2).toFin
    .sstop r.hdr n⟩,
   ⟨[.s], [.v], [.none], some [.none], hEvict, fun r => regN 0 r ++ flag (decide ((num r.a).toNat < 12)) .range,
    fun r => .spos r.hdr (regS r.d) (r.a.extractLsb' 0 2).toFin⟩,
   ⟨[.none], [.tl], [.s], some [.none], hEvict, regX false false 0x01,
    fun r => if r.fn.getLsbD 0 then .tlwaitAbort r.hdr (tlOf r.a) (regS r.b) else .tlwait r.hdr (tlOf r.a) (regS r.b)⟩,
   ⟨[.s], [.tl], [.none], some [.none], hEvict, regX false false 0x03,
    fun r => .tlrd r.hdr (r.fn.extractLsb' 0 2).toFin (regS r.d) (tlOf r.a)⟩]

/-- Major 0x60 (02 R35). -/
noncomputable def rows60 : List Row :=
  [⟨[.v], [.v], [.v, .f], some [.none], hRepeat, fun r => regX true true 0xF0 r ++ maskX r,
    fun r => .vfadd r.hdr r.vmod (regV r.d) (regV r.a) (vfOf r.b)⟩,
   ⟨[.v], [.v], [.v, .f], some [.none], hRepeat, fun r => regX true true 0xF0 r ++ maskX r,
    fun r => .vfsub r.hdr r.vmod (regV r.d) (regV r.a) (vfOf r.b)⟩,
   ⟨[.v], [.v], [.v, .f], some [.none], hRepeat, fun r => regX true true 0xF0 r ++ maskX r,
    fun r => .vfmul r.hdr r.vmod (regV r.d) (regV r.a) (vfOf r.b)⟩,
   ⟨[.v], [.v], [.v, .f], some [.none], hRepeat, fun r => regX true true 0xF0 r ++ maskX r,
    fun r => .vfdiv r.hdr r.vmod (regV r.d) (regV r.a) (vfOf r.b)⟩,
   ⟨[.v], [.v], [.v, .f], some [.v, .f], hRepeat, fun r => regX true true 0xF0 r ++ maskX r,
    fun r => .vfma r.hdr r.vmod (regV r.d) (regV r.a) (vfOf r.b) (vfOf r.c)⟩,
   ⟨[.v], [.v], [.v, .f], some [.v, .f], hRepeat, fun r => regX true true 0xF0 r ++ maskX r,
    fun r => .vfms r.hdr r.vmod (regV r.d) (regV r.a) (vfOf r.b) (vfOf r.c)⟩,
   ⟨[.v], [.v], [.v, .f], some [.v, .f], hRepeat, fun r => regX true true 0xF0 r ++ maskX r,
    fun r => .vfnma r.hdr r.vmod (regV r.d) (regV r.a) (vfOf r.b) (vfOf r.c)⟩,
   ⟨[.v], [.v], [.v, .f], some [.none], hRepeat, fun r => regX false true 0x70 r ++ maskX r,
    fun r => .vfmin r.hdr r.vmod (regV r.d) (regV r.a) (vfOf r.b)⟩,
   ⟨[.v], [.v], [.v, .f], some [.none], hRepeat, fun r => regX false true 0x70 r ++ maskX r,
    fun r => .vfmax r.hdr r.vmod (regV r.d) (regV r.a) (vfOf r.b)⟩,
   ⟨[.v], [.v], [.none], some [.none], hRepeat, fun r => regX false true 0x70 r ++ maskX r,
    fun r => .vfabs r.hdr r.vmod (regV r.d) (regV r.a)⟩,
   ⟨[.v], [.v], [.none], some [.none], hRepeat, fun r => regX false true 0x70 r ++ maskX r,
    fun r => .vfneg r.hdr r.vmod (regV r.d) (regV r.a)⟩,
   ⟨[.v], [.v], [.none], some [.none], hRepeat, fun r => regX true true 0xF0 r ++ maskX r,
    fun r => .vfsqrt r.hdr r.vmod (regV r.d) (regV r.a)⟩,
   ⟨[.v], [.v], [.none], some [.none], hRepeat, fun r => regX true true 0xF0 r ++ maskX r,
    fun r => .vexp2 r.hdr r.vmod (regV r.d) (regV r.a)⟩,
   ⟨[.v], [.v], [.none], some [.none], hRepeat, fun r => regX true true 0xF0 r ++ maskX r,
    fun r => .vlog2 r.hdr r.vmod (regV r.d) (regV r.a)⟩,
   ⟨[.v], [.v], [.none], some [.none], hRepeat, fun r => regX true true 0xF0 r ++ maskX r,
    fun r => .vrcp r.hdr r.vmod (regV r.d) (regV r.a)⟩,
   ⟨[.v], [.v], [.none], some [.none], hRepeat, fun r => regX true true 0xF0 r ++ maskX r,
    fun r => .vrsq r.hdr r.vmod (regV r.d) (regV r.a)⟩]

/-- Major 0x61 (02 R35). -/
noncomputable def rows61 : List Row :=
  [⟨[.v], [.v], [.v, .s], some [.none], hRepeat, fun r => regX false true 0x70 r ++ maskX r,
    fun r => .vadd r.hdr r.vmod (regV r.d) (regV r.a) (vsOf r.b)⟩,
   ⟨[.v], [.v], [.v, .s], some [.none], hRepeat, fun r => regX false true 0x70 r ++ maskX r,
    fun r => .vsub r.hdr r.vmod (regV r.d) (regV r.a) (vsOf r.b)⟩,
   ⟨[.v], [.v], [.v, .s], some [.none], hRepeat, fun r => regX false true 0x70 r ++ maskX r,
    fun r => .vmul r.hdr r.vmod (regV r.d) (regV r.a) (vsOf r.b)⟩,
   ⟨[.v], [.v], [.v, .s], some [.none], hRepeat, fun r => regX false true 0x71 r ++ maskX r,
    fun r => .vmulh r.hdr (r.fn.getLsbD 0) r.vmod (regV r.d) (regV r.a) (vsOf r.b)⟩,
   ⟨[.v], [.v], [.v, .s], some [.none], hRepeat, fun r => regX false true 0x71 r ++ maskX r,
    fun r => .vmin r.hdr (r.fn.getLsbD 0) r.vmod (regV r.d) (regV r.a) (vsOf r.b)⟩,
   ⟨[.v], [.v], [.v, .s], some [.none], hRepeat, fun r => regX false true 0x71 r ++ maskX r,
    fun r => .vmax r.hdr (r.fn.getLsbD 0) r.vmod (regV r.d) (regV r.a) (vsOf r.b)⟩,
   ⟨[.v], [.v], [.v, .s], some [.none], hRepeat, fun r => regX false true 0x70 r ++ maskX r,
    fun r => .vand r.hdr r.vmod (regV r.d) (regV r.a) (vsOf r.b)⟩,
   ⟨[.v], [.v], [.v, .s], some [.none], hRepeat, fun r => regX false true 0x70 r ++ maskX r,
    fun r => .vor r.hdr r.vmod (regV r.d) (regV r.a) (vsOf r.b)⟩,
   ⟨[.v], [.v], [.v, .s], some [.none], hRepeat, fun r => regX false true 0x70 r ++ maskX r,
    fun r => .vxor r.hdr r.vmod (regV r.d) (regV r.a) (vsOf r.b)⟩,
   ⟨[.v], [.v], [.v, .s], some [.none], hRepeat, fun r => regX false true 0x70 r ++ maskX r,
    fun r => .vshl r.hdr r.vmod (regV r.d) (regV r.a) (vsOf r.b)⟩,
   ⟨[.v], [.v], [.v, .s], some [.none], hRepeat, fun r => regX false true 0x70 r ++ maskX r,
    fun r => .vshr r.hdr r.vmod (regV r.d) (regV r.a) (vsOf r.b)⟩,
   ⟨[.v], [.v], [.v, .s], some [.none], hRepeat, fun r => regX false true 0x70 r ++ maskX r,
    fun r => .vsra r.hdr r.vmod (regV r.d) (regV r.a) (vsOf r.b)⟩,
   ⟨[.v], [.v], [.none], some [.none], hRepeat, fun r => regX false true 0x70 r ++ maskX r,
    fun r => .vabs r.hdr r.vmod (regV r.d) (regV r.a)⟩,
   ⟨[.v], [.v], [.v, .s], some [.none], hRepeat, fun r => regX false true 0x71 r ++ maskX r,
    fun r => .vdiv r.hdr (r.fn.getLsbD 0) r.vmod (regV r.d) (regV r.a) (vsOf r.b)⟩,
   ⟨[.v], [.v], [.v, .s], some [.none], hRepeat, fun r => regX false true 0x71 r ++ maskX r,
    fun r => .vrem r.hdr (r.fn.getLsbD 0) r.vmod (regV r.d) (regV r.a) (vsOf r.b)⟩,
   ⟨[.v], [.v], [.none], some [.none], hRepeat, fun r => regX false true 0x70 r ++ maskX r,
    fun r => .vpopc r.hdr r.vmod (regV r.d) (regV r.a)⟩]

/-- Major 0x62 (02 R35). -/
noncomputable def rows62 : List Row :=
  [⟨[.v], [.v], [.v, .s], some [.none], hRepeat, fun r => regX false true 0x7F r ++ maskX r ++ flag (decide (9 < r.low.toNat)) .subfield,
    fun r => .vcmp r.hdr (Cond.ofCode r.low.toNat) r.vmod (regV r.d) (regV r.a) (vsOf r.b)⟩,
   ⟨[.v], [.v], [.v, .f], some [.none], hRepeat, fun r => regX false true 0x7F r ++ maskX r ++ flag (decide (6 < r.low.toNat)) .subfield,
    fun r => .vfcmp r.hdr (FCond.ofCode r.low.toNat) r.vmod (regV r.d) (regV r.a) (vfOf r.b)⟩,
   ⟨[.v], [.v], [.v], some [.v], hRepeat, regX false true 0x00,
    fun r => .vsel r.hdr r.ty (regV r.d) (regV r.a) (regV r.b) (regV r.c)⟩,
   ⟨[.v], [.v], [.imm], some [.none], hRepeat, fun r => regX true true 0xFF r ++ maskX r ++ flag (decide (7 < r.low.toNat)) .subfield,
    fun r => .vcvt r.hdr (ETy.ofCode r.low.toNat) r.vmod (regV r.d) (regV r.a) (num r.b).toFin⟩,
   ⟨[.v], [.v], [.none], some [.none], hRepeat, fun r => regX false true 0x0F r ++ flag (decide (7 < r.low.toNat)) .subfield,
    fun r => .vcvts r.hdr r.ty (ETy.ofCode r.low.toNat) (regV r.d) (regV r.a)⟩,
   ⟨[.f], [.v], [.none], some [.none], hRepeat, fun r => regX true true 0xF0 r ++ maskX r,
    fun r => .vredadd r.hdr r.vmod (regS r.d) (regV r.a)⟩,
   ⟨[.f], [.v], [.none], some [.none], hRepeat, fun r => regX false true 0x70 r ++ maskX r,
    fun r => .vredmax r.hdr r.vmod (regS r.d) (regV r.a)⟩,
   ⟨[.f], [.v], [.none], some [.none], hRepeat, fun r => regX false true 0x70 r ++ maskX r,
    fun r => .vredmin r.hdr r.vmod (regS r.d) (regV r.a)⟩,
   ⟨[.s], [.v], [.none], some [.none], hRepeat, fun r => regX false true 0x70 r ++ maskX r,
    fun r => .vrediadd r.hdr r.vmod (regS r.d) (regV r.a)⟩]

/-- Major 0x63 (02 R35). -/
noncomputable def rows63 : List Row :=
  [⟨[.v], [.v], [.v], some [.none], hRepeat, regX false true 0x00,
    fun r => .vcompress r.hdr r.ty (regV r.d) (regV r.a) (regV r.b)⟩,
   ⟨[.v], [.v], [.v], some [.none], hRepeat, regX false true 0x00, fun r => .vexpand r.hdr r.ty (regV r.d) (regV r.a) (regV r.b)⟩,
   ⟨[.v], [.v], [.s, .imm], some [.none], hRepeat, regX false true 0x00,
    fun r => .vslideup r.hdr r.ty (regV r.d) (regV r.a) (siOf r.b)⟩,
   ⟨[.v], [.v], [.s, .imm], some [.none], hRepeat, regX false true 0x00,
    fun r => .vslidedn r.hdr r.ty (regV r.d) (regV r.a) (siOf r.b)⟩,
   ⟨[.v], [.v], [.v], some [.none], hRepeat, regX false true 0x00, fun r => .vperm r.hdr r.ty (regV r.d) (regV r.a) (regV r.b)⟩,
   ⟨[.v], [.s, .f, .v], [.s, .imm, .none], some [.none], hRepeat, fun r => regX false true 0 r ++ flag (decide (cls r.a ≠ 2) && decide (r.b ≠ noOp)) .reserved,
    fun r => if cls r.a = 2 then .vbcastLane r.hdr r.ty (regV r.d) (regV r.a) (siOf r.b) else .vbcastScalar r.hdr r.ty (regV r.d) (sfOf r.a)⟩,
   ⟨[.s, .f], [.v], [.s, .imm, .none], some [.none], hRepeat, fun r => regX false true 0x07 r ++
      (if r.part = 3 then [.subfield]
      else if r.part = 0 then flag (r.fn.getLsbD 2 && decide (cls r.d ≠ 0)) .subfield
      else flag (decide (r.b ≠ noOp)) .reserved ++ flag (decide (cls r.d ≠ 0)) .cls ++ flag (r.fn.getLsbD 2) .subfield),
    fun r => if r.part = 0 then .vmovsLane r.hdr r.ty (r.fn.getLsbD 2) (sfOf r.d) (regV r.a) (siOf r.b)
    else if r.part = 1 then .vmovsCnt r.hdr r.ty (regS r.d) (regV r.a)
    else .vmovsBits r.hdr r.ty (regS r.d) (regV r.a)⟩,
   ⟨[.v], [.s, .f], [.s, .imm], some [.none], hRepeat, regX false true 0x00,
    fun r => .vins r.hdr r.ty (regV r.d) (sfOf r.a) (siOf r.b)⟩,
   ⟨[.v], [.v], [.v], some [.v, .none], hRepeat, fun r => regX false true 0x03 r ++ flag (decide (r.ty ≠ .i32)) .subfield ++
      (if r.fn.getLsbD 1 then flag (decide (r.c ≠ noOp)) .reserved else flag (decide (r.c = noOp)) .cls),
    fun r => let x2 := r.fn.getLsbD 1
    .vzord r.hdr x2 (r.fn.getLsbD 0) (regV r.d) (regV r.a) (regV r.b) (if x2 then none else some (regV r.c))⟩,
   ⟨[.v], [.s], [.v], none, hRepeat, memX, fun r => .vgath r.hdr r.mem (regV r.d) (regS r.a) (regV r.b)⟩,
   ⟨[.v], [.s], [.v], none, hRepeat, memX, fun r => .vscat r.hdr r.mem (regV r.d) (regS r.a) (regV r.b)⟩]

/-- Major 0x80 (02 R35). -/
noncomputable def rows80 : List Row :=
  [⟨[.s], [.s], [.s], none, hNone, engX 0x3800,
    fun r => .mjob r.hdr r.bank (r.md.getLsbD 11) r.sync (regS r.d) (regS r.a) (regS r.b)⟩,
   ⟨[.s], [.s], [.s], none, hNone, engX 0x3800,
    fun r => .mma r.hdr r.bank (r.md.getLsbD 11) r.sync (regS r.d) (regS r.a) (regS r.b)⟩,
   ⟨[.s], [.s], [.s], none, hNone, engX 0x3FF0, fun r => .mdrain r.hdr r.drain (regS r.d) (regS r.a) (regS r.b)⟩,
   ⟨[.s], [.s], [.none], some [.none], hNone, regN 0x00, fun r => .mwait r.hdr (regS r.d) (regS r.a)⟩,
   ⟨[.s], [.s], [.s], none, hNone, fun r => engX 0 r ++ flag (decide (regS r.b ≠ 0)) .subfield,
    fun r => .mcfg r.hdr r.sync (regS r.d) (regS r.a)⟩,
   ⟨[.s], [.none], [.none], some [.none], hNone, regN 0x00, fun r => .mcfgr r.hdr (regS r.d)⟩,
   ⟨[.s], [.s], [.s], none, hNone, fun r => engX 0x3000 r ++ flag (decide (regS r.a ≠ 0) || decide (regS r.b ≠ 0)) .subfield,
    fun r => .mclr r.hdr r.bank r.sync (regS r.d)⟩,
   ⟨[.s], [.s], [.s], none, hNone, fun r => engX 0 r ++ flag (decide (regS r.a ≠ 0) || decide (regS r.b ≠ 0)) .subfield,
    fun r => .mabort r.hdr r.sync (regS r.d)⟩]

/-- Major 0x88 (02 R35). -/
noncomputable def rows88 : List Row :=
  [⟨[.s, .f, .v], [.s], [.none], none, hRemote, memX, fun r => .rld r.hdr (sfvOf r.d) (regS r.a) r.mem⟩,
   ⟨[.none], [.s], [.s, .f, .v], none, hRemote, memX, fun r => .rst r.hdr (sfvOf r.b) (regS r.a) r.mem⟩,
   ⟨[.s, .none], [.s], [.s], none, hRemote, amoX,
    fun r => if r.d = noOp then .ramoPosted r.hdr (AmoOp.ofCode r.amoOp.toNat) (regS r.a) (regS r.b) r.amo
    else .ramo r.hdr (AmoOp.ofCode r.amoOp.toNat) (regS r.d) (regS r.a) (regS r.b) r.amo⟩,
   ⟨[.s], [.s], [.s], none, hRemote, casX, fun r => .ramocas r.hdr (regS r.d) (regS r.a) (regS r.b) r.amo⟩,
   ⟨[.none], [.s], [.none], none, hNone, sysX 0 0, fun r => .roam r.hdr (regS r.a)⟩,
   ⟨[.none], [.none], [.none], none, hNone, sysX 0 0, fun r => .home r.hdr⟩,
   ⟨[.s], [.none], [.none], none, hNone, sysX 1 0, fun r => .eqrd r.hdr (r.code.getLsbD 0) (regS r.d)⟩,
   ⟨[.s], [.none], [.none], none, hNone, sysX 0 0, fun r => .eqpop r.hdr (regS r.d)⟩,
   ⟨[.mb, .none], [.s, .none], [.s, .imm], some [.none], hNone, fun r => regMb (decide (cls r.d = 5)) r ++ (if r.d = noOp then flag (decide (r.a = noOp)) .cls else flag (decide (r.a ≠ noOp)) .reserved),
    fun r => if r.d = noOp then .mbincRemote r.hdr (regS r.a) (siOf r.b) else .mbincLocal r.hdr (mbOf r.mh r.d) (siOf r.b)⟩,
   ⟨[.mb], [.none], [.s, .imm], some [.none], hNone, regMb true, fun r => .mbwait r.hdr (mbOf r.mh r.d) (siOf r.b)⟩,
   ⟨[.s], [.mb], [.none], some [.none], hNone, regMb true, fun r => .mbrd r.hdr (regS r.d) (mbOf r.mh r.a)⟩,
   ⟨[.s], [.s, .imm], [.s, .none], some [.none], hNone, fun r => regN 0x03 r ++ (if r.part = 2 then flag (decide (r.b = noOp)) .cls else flag (decide (r.b ≠ noOp)) .reserved),
    fun r => if r.part = 0 then .barArr r.hdr (regS r.d) (siOf r.a)
    else if r.part = 1 then .barSig r.hdr (regS r.d) (siOf r.a)
    else if r.part = 2 then .barCfg r.hdr (regS r.d) (siOf r.a) (regS r.b)
    else .barRd r.hdr (regS r.d) (siOf r.a)⟩,
   ⟨[.s], [.s], [.s], none, hNone, engX 0, fun r => .coll r.hdr r.sync (regS r.d) (regS r.a) (regS r.b)⟩,
   ⟨[.s], [.s], [.s], none, hNone, fun r => engX 0 r ++ flag (decide (regS r.b ≠ 0)) .subfield,
    fun r => .repart r.hdr r.sync (regS r.d) (regS r.a)⟩,
   ⟨[.s], [.s, .none], [.none], none, hNone, fun r => sysX 0x7 0 r ++ flag (decide (4 < r.code.toNat)) .subfield ++
      (if r.code = 3 then flag (decide (r.a = noOp)) .cls else flag (decide (r.a ≠ noOp)) .reserved),
    fun r => let p : Fin 8 := (r.code.extractLsb' 0 3).toFin
    .viewrd r.hdr p (regS r.d) (optS r.a)⟩,
   ⟨[.s], [.s], [.none], none, hNone, sysX 0 0, fun r => .viewack r.hdr (regS r.d) (regS r.a)⟩]

/-- Major 0x98 (02 R35). -/
noncomputable def rows98 : List Row :=
  [⟨[.none], [.none], [.none], none, hBranch, brnX 0, fun r => .br r.hdr r.brOff⟩,
   ⟨[.none], [.none], [.none], none, hBranch, brnX 0, fun r => .jal r.hdr r.brOff⟩,
   ⟨[.none], [.s], [.none], some [.none], hBranch, regN 0x00, fun r => .jr r.hdr (regS r.a)⟩,
   ⟨[.none], [.s], [.none], some [.none], hBranch, regN 0x00, fun r => .jalr r.hdr (regS r.a)⟩,
   ⟨[.none], [.s], [.s], some [.none], hBranch, regN 0x00, fun r => .brx r.hdr (regS r.a) (regS r.b)⟩,
   ⟨[.s], [.none], [.none], none, hBranch, brnX 0, fun r => .loop r.hdr (regS r.d) r.brOff⟩,
   ⟨[.none], [.s], [.none], none, hNone, brnX 0x07, fun r => .bcast r.hdr (regS r.a) (r.brFn.extractLsb' 0 3).toFin r.brOff⟩,
   ⟨[.none], [.none], [.none], none, hNone, brnX 0x0F,
    fun r => .fetchb r.hdr (r.brFn.extractLsb' 3 1).toFin (r.brFn.extractLsb' 0 3).toFin r.brOff⟩,
   ⟨[.y], [.s], [.none], some [.none], hNone, regN 0x00, fun r => .lkput r.hdr (regY r.d) (regS r.a)⟩,
   ⟨[.s], [.s, .imm], [.y], some [.none], hNone, regN 0x00, fun r => .lkget r.hdr (regS r.d) (siOf r.a) (regY r.b)⟩,
   ⟨[.none], [.none], [.none], none, hNone, sysX 0 0, fun r => .stop r.hdr⟩,
   ⟨[.none], [.none], [.none], none, hNone, sysX 0 0, fun r => .nop r.hdr⟩,
   ⟨[.s], [.s], [.s], some [.none], hNone, regN 0x00, fun r => .slgo r.hdr (regS r.d) (regS r.a) (regS r.b)⟩,
   ⟨[.s], [.s], [.none], some [.none], hNone, regN 0x00, fun r => .slhalt r.hdr (regS r.d) (regS r.a)⟩,
   ⟨[.s], [.s], [.none], some [.none], hNone, regN 0x00, fun r => .slwait r.hdr (regS r.d) (regS r.a)⟩,
   ⟨[.s], [.s], [.none], some [.none], hNone, regN 0x03, fun r => .slpoll r.hdr r.part.toFin (regS r.d) (regS r.a)⟩]

/-- Major 0x99 (02 R35). -/
noncomputable def rows99 : List Row :=
  [⟨[.s], [.none], [.none], some [.none], hNone, regN 0x00, fun r => .slpool r.hdr (regS r.d)⟩,
   ⟨[.none], [.s, .imm], [.none], some [.none], hNone, regN 0x00, fun r => .pause r.hdr (siOf r.a)⟩]

/-- Major 0xA0 (02 R35). -/
noncomputable def rowsA0 : List Row :=
  [⟨[.s], [.s], [.s], none, hNone, engX 0, fun r => .spawn r.hdr r.sync (regS r.d) (regS r.a) (regS r.b)⟩,
   ⟨[.s], [.s], [.s], none, hNone, engX 0x1,
    fun r => if r.md.getLsbD 0 then .spawndTile r.hdr r.sync (regS r.d) (regS r.a) (regS r.b) else .spawndPage r.hdr r.sync (regS r.d) (regS r.a) (regS r.b)⟩,
   ⟨[.k], [.s], [.s], none, hNone, brnX 0x07,
    fun r => let p : Fin 4 := (r.brFn.extractLsb' 0 2).toFin
    .fork r.hdr p (r.brFn.getLsbD 2) (regK r.d) (regS r.a) (regS r.b) r.brOff⟩,
   ⟨[.s], [.s], [.s, .none], none, hNone, bareX .reserved, fun r => .join r.hdr (regS r.d) (regS r.a) (optS r.b) r.off⟩,
   ⟨[.s], [.s], [.s], none, hNone, engX 0, fun r => .tqpush r.hdr r.sync (regS r.d) (regS r.a) (regS r.b)⟩,
   ⟨[.s], [.s], [.none], some [.none], hNone, regT 0x1F,
    fun r => .tqpop r.hdr (r.fn.getLsbD 0) (r.fn.extractLsb' 1 4) (regS r.d) (regS r.a)⟩,
   ⟨[.s], [.s], [.none], some [.none], hNone, regT 0x00, fun r => .tqctl r.hdr (regS r.d) (regS r.a)⟩,
   ⟨[.s], [.none], [.none], some [.none], hNone, regT 0x03, fun r => .tqrd r.hdr r.part.toFin (regS r.d)⟩]

/-- Major 0xA8 (02 R35). -/
noncomputable def rowsA8 : List Row :=
  [⟨[.none], [.none], [.none], none, hNone, sysX 0 0xFFFFFFFF, fun r => .trap r.hdr r.imm32⟩,
   ⟨[.none], [.none], [.none], none, hNone, sysX 0 0, fun r => .eret r.hdr⟩,
   ⟨[.s], [.ctl], [.none], none, hNone, sysX 0 0, fun r => .ctlr r.hdr (regS r.d) (ctlOf r.a)⟩,
   ⟨[.ctl], [.s], [.none], none, hNone, sysX 0 0,
    fun r => if ctlOf r.d = 8 then .tmrWrite r.hdr none (regS r.a) else .ctlw r.hdr (ctlOf r.d) (regS r.a)⟩,
   ⟨[.s], [.ctl], [.s], none, hNone, sysX 0 0,
    fun r => if ctlOf r.a = 8 then .tmrWrite r.hdr (some (regS r.d)) (regS r.b) else .ctlx r.hdr (regS r.d) (ctlOf r.a) (regS r.b)⟩,
   ⟨[.s], [.s], [.none], none, hNone, sysX 0 0, fun r => .spill r.hdr (regS r.d) (regS r.a)⟩,
   ⟨[.s], [.s], [.s, .none], none, hNone, sysX 0 0, fun r => .unspill r.hdr (regS r.d) (regS r.a) (optS r.b)⟩,
   ⟨[.none], [.s], [.s], none, hNone, fun r => sysX 0x3 0xFFFF r ++ flag (decide (r.code = 3)) .subfield ++
      flag (decide (r.code ≠ 0) && decide (r.imm32 ≠ 0)) .reserved,
    fun r => if r.code = 0 then .smsgMsg r.hdr (regS r.a) (regS r.b) (r.imm32.extractLsb' 0 16)
    else if r.code = 1 then .smsgRes r.hdr (regS r.a) (regS r.b) else .smsgTrp r.hdr (regS r.a) (regS r.b)⟩,
   ⟨[.s], [.s, .none], [.none], none, hNone, fun r => sysX 0 0xFFFFFFFF r ++ flag (decide (r.a ≠ noOp) && decide (r.imm32 ≠ 0)) .reserved,
    fun r => .tmrset r.hdr (regS r.d) (optS r.a) r.imm32⟩,
   ⟨[.s], [.none], [.none], none, hNone, sysX 0 0, fun r => .tmrclr r.hdr (regS r.d)⟩,
   ⟨[.none], [.none], [.none], none, hNone, sysX 0 0, fun r => .icinv r.hdr⟩,
   ⟨[.none], [.none], [.none], none, hNone, sysX 0 0, fun r => .rcinv r.hdr⟩,
   ⟨[.none], [.none], [.none], none, hNone, sysX 0 0xFFFFFFFF, fun r => .brk r.hdr r.imm32⟩,
   ⟨[.s], [.none], [.none], none, hNone, sysX 0 0xF,
    fun r => let k : BitVec 4 := r.imm32.extractLsb' 0 4
    .sleep r.hdr (regS r.d) k⟩]

/-- The rows of a major, in the order of their minors (02 R35). -/
noncomputable def rowsOf (major : Nat) : List Row :=
  if major = 0x1 then rows01
  else if major = 0x2 then rows02
  else if major = 0x3 then rows03
  else if major = 0x4 then rows04
  else if major = 0x20 then rows20
  else if major = 0x21 then rows21
  else if major = 0x30 then rows30
  else if major = 0x40 then rows40
  else if major = 0x41 then rows41
  else if major = 0x50 then rows50
  else if major = 0x58 then rows58
  else if major = 0x60 then rows60
  else if major = 0x61 then rows61
  else if major = 0x62 then rows62
  else if major = 0x63 then rows63
  else if major = 0x80 then rows80
  else if major = 0x88 then rows88
  else if major = 0x98 then rows98
  else if major = 0x99 then rows99
  else if major = 0xa0 then rowsA0
  else if major = 0xa8 then rowsA8
  else []

/-- Every check of a form that does not look at the built instruction. -/
def Row.fails (w : Row) (r : Raw) : List Illegal :=
  flag (decide (r.rsv ≠ 0)) .reserved ++ flag (r.neg && decide (r.pred = 0)) .notK0 ++ hintX w.hints r ++
    operand w.d r.d ++ operand w.a r.a ++ operand w.b r.b ++
    (match w.c with | none => [] | some cs => operand cs r.c) ++ w.more r

/-- The instruction a taken-apart word stands for, or the first check it fails. -/
noncomputable def decodeRaw (r : Raw) : Except Illegal Instr :=
  match (rowsOf r.major.toNat)[r.minor.toNat]? with
  | none => .error .unassigned
  | some w => match firstFail (w.fails r) with
    | some e => .error e
    | none => if (w.build r).wf then .ok (w.build r) else .error .subfield

/-- The instruction of a word, or why it is illegal (02 R34). -/
noncomputable def decode (w : IWord) : Except Illegal Instr := decodeRaw (Raw.ofWord w)

/-! ## The encoder -/

/-- A word's fields from the guard, the hints, the operands and the extension. -/
def Hdr.form (h : Hdr) (major : BitVec 8) (minor : BitVec 4) (d a b : BitVec 8) (ext : BitVec 48) : Raw :=
  ⟨major, minor, h.neg, BitVec.ofFin h.pred, BitVec.ofNat 2 h.bh.val, BitVec.ofFin h.ev, h.roam, h.rep, 0, d, a, b, ext⟩

/-- The fields of an instruction's word; an event has none. -/
def Instr.raw : Instr → Option Raw
  | .add h d a b => some (h.form 0x1 0x0 (opS d) (opS a) (opS b) (extReg false 0 0 0 noOp))
  | .sub h d a b => some (h.form 0x1 0x1 (opS d) (opS a) (opS b) (extReg false 0 0 0 noOp))
  | .mul h d a b => some (h.form 0x1 0x2 (opS d) (opS a) (opS b) (extReg false 0 0 0 noOp))
  | .mulh h d a b => some (h.form 0x1 0x3 (opS d) (opS a) (opS b) (extReg false 0 0 0 noOp))
  | .umulh h d a b => some (h.form 0x1 0x4 (opS d) (opS a) (opS b) (extReg false 0 0 0 noOp))
  | .div h d a b => some (h.form 0x1 0x5 (opS d) (opS a) (opS b) (extReg false 0 0 0 noOp))
  | .udiv h d a b => some (h.form 0x1 0x6 (opS d) (opS a) (opS b) (extReg false 0 0 0 noOp))
  | .rem h d a b => some (h.form 0x1 0x7 (opS d) (opS a) (opS b) (extReg false 0 0 0 noOp))
  | .urem h d a b => some (h.form 0x1 0x8 (opS d) (opS a) (opS b) (extReg false 0 0 0 noOp))
  | .min h d a b => some (h.form 0x1 0x9 (opS d) (opS a) (opS b) (extReg false 0 0 0 noOp))
  | .max h d a b => some (h.form 0x1 0xa (opS d) (opS a) (opS b) (extReg false 0 0 0 noOp))
  | .umin h d a b => some (h.form 0x1 0xb (opS d) (opS a) (opS b) (extReg false 0 0 0 noOp))
  | .umax h d a b => some (h.form 0x1 0xc (opS d) (opS a) (opS b) (extReg false 0 0 0 noOp))
  | .madd h d a b c => some (h.form 0x1 0xd (opS d) (opS a) (opS b) (extReg false 0 0 0 (opS c)))
  | .msub h d a b c => some (h.form 0x1 0xe (opS d) (opS a) (opS b) (extReg false 0 0 0 (opS c)))
  | .and h d a b => some (h.form 0x2 0x0 (opS d) (opS a) (opS b) (extReg false 0 0 0 noOp))
  | .or h d a b => some (h.form 0x2 0x1 (opS d) (opS a) (opS b) (extReg false 0 0 0 noOp))
  | .xor h d a b => some (h.form 0x2 0x2 (opS d) (opS a) (opS b) (extReg false 0 0 0 noOp))
  | .andn h d a b => some (h.form 0x2 0x3 (opS d) (opS a) (opS b) (extReg false 0 0 0 noOp))
  | .orn h d a b => some (h.form 0x2 0x4 (opS d) (opS a) (opS b) (extReg false 0 0 0 noOp))
  | .shl h d a b => some (h.form 0x2 0x5 (opS d) (opS a) (opS b) (extReg false 0 0 0 noOp))
  | .shr h d a b => some (h.form 0x2 0x6 (opS d) (opS a) (opS b) (extReg false 0 0 0 noOp))
  | .sra h d a b => some (h.form 0x2 0x7 (opS d) (opS a) (opS b) (extReg false 0 0 0 noOp))
  | .rol h d a b => some (h.form 0x2 0x8 (opS d) (opS a) (opS b) (extReg false 0 0 0 noOp))
  | .ror h d a b => some (h.form 0x2 0x9 (opS d) (opS a) (opS b) (extReg false 0 0 0 noOp))
  | .clz h d a => some (h.form 0x2 0xa (opS d) (opS a) noOp (extReg false 0 0 0 noOp))
  | .ctz h d a => some (h.form 0x2 0xb (opS d) (opS a) noOp (extReg false 0 0 0 noOp))
  | .popc h d a => some (h.form 0x2 0xc (opS d) (opS a) noOp (extReg false 0 0 0 noOp))
  | .bswap h d a => some (h.form 0x2 0xd (opS d) (opS a) noOp (extReg false 0 0 0 noOp))
  | .sel h d a b c => some (h.form 0x2 0xe (opS d) (opS a) (opS b) (extReg false 0 0 0 (opK c)))
  | .cmp h c d a b => some (h.form 0x2 0xf (opSK d) (opS a) (opS b) (extReg false 0 0 (BitVec.ofNat 8 c.code) noOp))
  | .addi h d a imm => some (h.form 0x3 0x0 (opS d) (opS a) noOp imm)
  | .andi h d a imm => some (h.form 0x3 0x1 (opS d) (opS a) noOp imm)
  | .ori h d a imm => some (h.form 0x3 0x2 (opS d) (opS a) noOp imm)
  | .xori h d a imm => some (h.form 0x3 0x3 (opS d) (opS a) noOp imm)
  | .shli h d a n => some (h.form 0x3 0x4 (opS d) (opS a) noOp (0#42 ++ n))
  | .shri h d a n => some (h.form 0x3 0x5 (opS d) (opS a) noOp (0#42 ++ n))
  | .srai h d a n => some (h.form 0x3 0x6 (opS d) (opS a) noOp (0#42 ++ n))
  | .li h d imm => some (h.form 0x3 0x7 (opS d) noOp noOp imm)
  | .lih h d a imm => some (h.form 0x3 0x8 (opS d) (opS a) noOp (0#32 ++ imm))
  | .lea h d a b sh disp => some (h.form 0x3 0x9 (opS d) (opS a) (opOptS b) (sh ++ disp))
  | .cmpi h c d a imm => some (h.form 0x3 0xa (opSK d) (opS a) noOp (BitVec.ofNat 4 c.code ++ imm))
  | .ext h sg d a pos len1 => some (h.form 0x3 0xb (opS d) (opS a) noOp (BitVec.ofBool sg ++ 0#35 ++ len1 ++ pos))
  | .ins h d a pos len1 => some (h.form 0x3 0xc (opS d) (opS a) noOp (0#36 ++ len1 ++ pos))
  | .pand h d a b => some (h.form 0x4 0x0 (opK d) (opK a) (opK b) (extReg false 0 0 0 noOp))
  | .por h d a b => some (h.form 0x4 0x1 (opK d) (opK a) (opK b) (extReg false 0 0 0 noOp))
  | .pxor h d a b => some (h.form 0x4 0x2 (opK d) (opK a) (opK b) (extReg false 0 0 0 noOp))
  | .pandn h d a b => some (h.form 0x4 0x3 (opK d) (opK a) (opK b) (extReg false 0 0 0 noOp))
  | .psetb h d a bit => some (h.form 0x4 0x4 (opK d) (opS a) noOp (extReg false 0 0 (0#2 ++ bit) noOp))
  | .psetbAll h a => some (h.form 0x4 0x4 noOp (opS a) noOp (extReg false 0 0 0x40 noOp))
  | .pgetb h d a => some (h.form 0x4 0x5 (opS d) (opK a) noOp (extReg false 0 0 0 noOp))
  | .pgetbAll h d => some (h.form 0x4 0x5 (opS d) noOp noOp (extReg false 0 0 0x01 noOp))
  | .fadd h t rm d a b => some (h.form 0x20 0x0 (opF d) (opF a) (opF b) (extReg false rm.bits (BitVec.ofNat 4 t.code) rm.dynBit noOp))
  | .fsub h t rm d a b => some (h.form 0x20 0x1 (opF d) (opF a) (opF b) (extReg false rm.bits (BitVec.ofNat 4 t.code) rm.dynBit noOp))
  | .fmul h t rm d a b => some (h.form 0x20 0x2 (opF d) (opF a) (opF b) (extReg false rm.bits (BitVec.ofNat 4 t.code) rm.dynBit noOp))
  | .fdiv h t rm d a b => some (h.form 0x20 0x3 (opF d) (opF a) (opF b) (extReg false rm.bits (BitVec.ofNat 4 t.code) rm.dynBit noOp))
  | .fsqrt h t rm d a => some (h.form 0x20 0x4 (opF d) (opF a) noOp (extReg false rm.bits (BitVec.ofNat 4 t.code) rm.dynBit noOp))
  | .fmin h t d a b => some (h.form 0x20 0x5 (opF d) (opF a) (opF b) (extReg false 0 (BitVec.ofNat 4 t.code) 0 noOp))
  | .fmax h t d a b => some (h.form 0x20 0x6 (opF d) (opF a) (opF b) (extReg false 0 (BitVec.ofNat 4 t.code) 0 noOp))
  | .ffma h t rm d a b c => some (h.form 0x20 0x7 (opF d) (opF a) (opF b) (extReg false rm.bits (BitVec.ofNat 4 t.code) rm.dynBit (opF c)))
  | .ffms h t rm d a b c => some (h.form 0x20 0x8 (opF d) (opF a) (opF b) (extReg false rm.bits (BitVec.ofNat 4 t.code) rm.dynBit (opF c)))
  | .fnma h t rm d a b c => some (h.form 0x20 0x9 (opF d) (opF a) (opF b) (extReg false rm.bits (BitVec.ofNat 4 t.code) rm.dynBit (opF c)))
  | .fabs h t d a => some (h.form 0x20 0xa (opF d) (opF a) noOp (extReg false 0 (BitVec.ofNat 4 t.code) 0 noOp))
  | .fneg h t d a => some (h.form 0x20 0xb (opF d) (opF a) noOp (extReg false 0 (BitVec.ofNat 4 t.code) 0 noOp))
  | .fsgnj h t m d a b => some (h.form 0x20 0xc (opF d) (opF a) (opF b) (extReg false 0 (BitVec.ofNat 4 t.code) (BitVec.ofNat 8 m.code) noOp))
  | .fcmp h t c d a b => some (h.form 0x20 0xd (opSK d) (opF a) (opF b) (extReg false 0 (BitVec.ofNat 4 t.code) (BitVec.ofNat 8 c.code) noOp))
  | .fclass h t d a => some (h.form 0x20 0xe (opS d) (opF a) noOp (extReg false 0 (BitVec.ofNat 4 t.code) 0 noOp))
  | .fsel h d a b c => some (h.form 0x20 0xf (opF d) (opF a) (opF b) (extReg false 0 0 0 (opK c)))
  | .fcvt h dst src rm d a => some (h.form 0x21 0x0 (opF d) (opF a) noOp (extReg false rm.bits (BitVec.ofNat 4 dst.code) (rm.dynBit ||| BitVec.ofNat 8 src.code) noOp))
  | .fcvti h src dst rm d a => some (h.form 0x21 0x1 (opS d) (opF a) noOp (extReg false rm.bits (BitVec.ofNat 4 src.code) (rm.dynBit ||| BitVec.ofNat 8 dst.code) noOp))
  | .ficvt h dst nat rm d a => some (h.form 0x21 0x2 (opF d) (opS a) noOp (extReg false rm.bits (BitVec.ofNat 4 dst.code) (rm.dynBit ||| bit8 nat) noOp))
  | .fmvs h d a => some (h.form 0x21 0x3 (opS d) (opF a) noOp (extReg false 0 0 0 noOp))
  | .fmvf h d a => some (h.form 0x21 0x4 (opF d) (opS a) noOp (extReg false 0 0 0 noOp))
  | .fliFp32 h d imm => some (h.form 0x21 0x5 (opF d) noOp noOp (0#16 ++ imm))
  | .fliFp64 h d imm => some (h.form 0x21 0x5 (opF d) noOp noOp (1#1 ++ imm))
  | .fflg h d a => some (h.form 0x21 0x6 (opS d) (opS a) noOp (extReg false 0 0 0 noOp))
  | .fenw h d a => some (h.form 0x21 0x7 (opS d) (opS a) noOp (extReg false 0 0 0 noOp))
  | .ldl h d a m => some (h.form 0x30 0x0 (opSF d) (opS a) noOp m.ext)
  | .stl h b a m => some (h.form 0x30 0x1 noOp (opS a) (opSF b) m.ext)
  | .ldlv h d a m => some (h.form 0x30 0x2 (opV d) (opS a) noOp m.ext)
  | .stlv h b a m => some (h.form 0x30 0x3 noOp (opS a) (opV b) m.ext)
  | .ldlp h d a m => some (h.form 0x30 0x4 (opS d) (opS a) noOp m.ext)
  | .ldf h d a m => some (h.form 0x30 0x5 (opSFV d) (opS a) noOp m.ext)
  | .ldfe h d a m => some (h.form 0x30 0x6 (opSFV d) (opS a) noOp m.ext)
  | .stwe h b a m => some (h.form 0x30 0x7 noOp (opS a) (opSFV b) m.ext)
  | .sete h a m => some (h.form 0x30 0x8 noOp (opS a) noOp m.ext)
  | .setf h a m => some (h.form 0x30 0x9 noOp (opS a) noOp m.ext)
  | .tagrd h d a m => some (h.form 0x30 0xa (opS d) (opS a) noOp m.ext)
  | .lamo h op d a b m => some (h.form 0x30 0xb (opS d) (opS a) (opS b) (m.ext op.code))
  | .lamox h op a b m => some (h.form 0x30 0xc noOp (opS a) (opS b) (m.ext op.code))
  | .lamocas h d a b m => some (h.form 0x30 0xd (opS d) (opS a) (opS b) (m.ext 0))
  | .ldg h d a m => some (h.form 0x40 0x0 (opSF d) (opS a) noOp m.ext)
  | .stg h b a m => some (h.form 0x40 0x1 noOp (opS a) (opSF b) m.ext)
  | .ldgv h d a m => some (h.form 0x40 0x2 (opV d) (opS a) noOp m.ext)
  | .stgv h b a m => some (h.form 0x40 0x3 noOp (opS a) (opV b) m.ext)
  | .amo h op d a b m => some (h.form 0x40 0x4 (opS d) (opS a) (opS b) (m.ext op.code))
  | .amox h op a b m => some (h.form 0x40 0x5 noOp (opS a) (opS b) (m.ext op.code))
  | .amocas h d a b m => some (h.form 0x40 0x6 (opS d) (opS a) (opS b) (m.ext 0))
  | .pref h ro a off => some (h.form 0x40 0x7 noOp (opS a) noOp (0#5 ++ BitVec.ofBool ro ++ 0#1 ++ off))
  | .fence h sc => some (h.form 0x40 0x8 noOp noOp noOp (extSys (BitVec.ofNat 15 sc.code) 0))
  | .ldres h d a m => some (h.form 0x40 0x9 (opSFV d) (opS a) noOp m.ext)
  | .cmstore h sc d a b off => some (h.form 0x40 0xa (opS d) (opS a) (opS b) (BitVec.ofNat 3 sc.code ++ 0#4 ++ off))
  | .commit h d a b off => some (h.form 0x40 0xb (opS d) (opS a) (opS b) (0#7 ++ off))
  | .decommit h d a off => some (h.form 0x40 0xc (opS d) (opS a) noOp (0#7 ++ off))
  | .palloc h d a => some (h.form 0x40 0xd (opS d) (opS a) noOp (extReg false 0 0 0 noOp))
  | .pfree h d a => some (h.form 0x40 0xe (opS d) (opS a) noOp (extReg false 0 0 0 noOp))
  | .xlat h d a off => some (h.form 0x40 0xf (opS d) (opS a) noOp (0#7 ++ off))
  | .tlbinv h all mdl a off => some (h.form 0x41 0x0 noOp (opS a) noOp ((if mdl then 4#3 else 1#3) ++ 0#3 ++ BitVec.ofBool all ++ off))
  | .wback h page a off => some (h.form 0x41 0x1 noOp (opS a) noOp (0#6 ++ BitVec.ofBool page ++ off))
  | .tnew h d a t => some (h.form 0x50 0x0 (opS d) (opS a) (opOptS t.b) t.ext)
  | .tstore h a t => some (h.form 0x50 0x1 noOp (opS a) (opOptS t.b) t.ext)
  | .tload h d a t => some (h.form 0x50 0x2 (opS d) (opS a) (opOptS t.b) t.ext)
  | .tloadt h d a t => some (h.form 0x50 0x3 (opS d) (opS a) (opOptS t.b) t.ext)
  | .tpoll h d a b imm => some (h.form 0x50 0x4 (opS d) (opS a) (opOptS b) (extTile 0 0 0 imm))
  | .tdrop h d a b imm j => some (h.form 0x50 0x5 (opS d) (opS a) (opOptS b) (extTile 0 0 j imm))
  | .tref h d a b imm j => some (h.form 0x50 0x6 (opS d) (opS a) (opOptS b) (extTile 0 0 j imm))
  | .tinfo h d a => some (h.form 0x50 0x7 (opS d) (opS a) noOp 0)
  | .tfloor h d a b imm => some (h.form 0x50 0x8 (opS d) (opS a) (opOptS b) (extTile 0 0 0 imm))
  | .tlimit h d a n => some (h.form 0x50 0x9 (opS d) (opS a) noOp (extTile 0 0 n 0))
  | .tdel h d a => some (h.form 0x50 0xa (opS d) (opS a) noOp 0)
  | .cpy h sync d a b => some (h.form 0x58 0x0 (opS d) (opS a) (opS b) (extEng sync 0))
  | .cpyt h sync d a b => some (h.form 0x58 0x1 (opS d) (opS a) (opS b) (extEng sync 0))
  | .cpyf h mode sync d a b => some (h.form 0x58 0x2 (opS d) (opS a) (opS b) (extEng sync (0#12 ++ fin2 mode)))
  | .qdual h sync d a b => some (h.form 0x58 0x3 (opS d) (opS a) (opS b) (extEng sync 0))
  | .bfmt h d a b => some (h.form 0x58 0x4 (opS d) (opSI a) (opS b) (extReg false 0 0 0 noOp))
  | .bfmtr h d a => some (h.form 0x58 0x5 (opS d) (opSI a) noOp (extReg false 0 0 0 noOp))
  | .bload h sp t sc sync d a b => some (h.form 0x58 0x6 (opS d) (opS a) (opS b) (extEng sync (0#1 ++ BitVec.ofBool sp ++ BitVec.ofNat 4 t.code ++ BitVec.ofBool sc ++ 0#7)))
  | .sstream h v wr gl sync d a b => some (h.form 0x58 0x7 (opS d) (opS a) (opS b) (extEng sync (fin2 v ++ BitVec.ofBool wr ++ BitVec.ofBool gl ++ 0#10)))
  | .sstop h v => some (h.form 0x58 0x8 (opV (streamReg v)) noOp noOp (extReg false 0 0 0 noOp))
  | .spos h d v => some (h.form 0x58 0x9 (opS d) (opV (streamReg v)) noOp (extReg false 0 0 0 noOp))
  | .tlwait h t b => some (h.form 0x58 0xa noOp (opTl t) (opS b) (extReg false 0 0 0 noOp))
  | .tlwaitAbort h t b => some (h.form 0x58 0xa noOp (opTl t) (opS b) (extReg false 0 0 0x01 noOp))
  | .tlrd h f d t => some (h.form 0x58 0xb (opS d) (opTl t) noOp (extReg false 0 0 (0#6 ++ fin2 f) noOp))
  | .vfadd h m d a b => some (h.form 0x60 0x0 (opV d) (opV a) (opVF b) (m.ext 0 noOp))
  | .vfsub h m d a b => some (h.form 0x60 0x1 (opV d) (opV a) (opVF b) (m.ext 0 noOp))
  | .vfmul h m d a b => some (h.form 0x60 0x2 (opV d) (opV a) (opVF b) (m.ext 0 noOp))
  | .vfdiv h m d a b => some (h.form 0x60 0x3 (opV d) (opV a) (opVF b) (m.ext 0 noOp))
  | .vfma h m d a b c => some (h.form 0x60 0x4 (opV d) (opV a) (opVF b) (m.ext 0 (opVF c)))
  | .vfms h m d a b c => some (h.form 0x60 0x5 (opV d) (opV a) (opVF b) (m.ext 0 (opVF c)))
  | .vfnma h m d a b c => some (h.form 0x60 0x6 (opV d) (opV a) (opVF b) (m.ext 0 (opVF c)))
  | .vfmin h m d a b => some (h.form 0x60 0x7 (opV d) (opV a) (opVF b) (m.ext 0 noOp))
  | .vfmax h m d a b => some (h.form 0x60 0x8 (opV d) (opV a) (opVF b) (m.ext 0 noOp))
  | .vfabs h m d a => some (h.form 0x60 0x9 (opV d) (opV a) noOp (m.ext 0 noOp))
  | .vfneg h m d a => some (h.form 0x60 0xa (opV d) (opV a) noOp (m.ext 0 noOp))
  | .vfsqrt h m d a => some (h.form 0x60 0xb (opV d) (opV a) noOp (m.ext 0 noOp))
  | .vexp2 h m d a => some (h.form 0x60 0xc (opV d) (opV a) noOp (m.ext 0 noOp))
  | .vlog2 h m d a => some (h.form 0x60 0xd (opV d) (opV a) noOp (m.ext 0 noOp))
  | .vrcp h m d a => some (h.form 0x60 0xe (opV d) (opV a) noOp (m.ext 0 noOp))
  | .vrsq h m d a => some (h.form 0x60 0xf (opV d) (opV a) noOp (m.ext 0 noOp))
  | .vadd h m d a b => some (h.form 0x61 0x0 (opV d) (opV a) (opVS b) (m.ext 0 noOp))
  | .vsub h m d a b => some (h.form 0x61 0x1 (opV d) (opV a) (opVS b) (m.ext 0 noOp))
  | .vmul h m d a b => some (h.form 0x61 0x2 (opV d) (opV a) (opVS b) (m.ext 0 noOp))
  | .vmulh h u m d a b => some (h.form 0x61 0x3 (opV d) (opV a) (opVS b) (m.ext (0#3 ++ BitVec.ofBool u) noOp))
  | .vmin h u m d a b => some (h.form 0x61 0x4 (opV d) (opV a) (opVS b) (m.ext (0#3 ++ BitVec.ofBool u) noOp))
  | .vmax h u m d a b => some (h.form 0x61 0x5 (opV d) (opV a) (opVS b) (m.ext (0#3 ++ BitVec.ofBool u) noOp))
  | .vand h m d a b => some (h.form 0x61 0x6 (opV d) (opV a) (opVS b) (m.ext 0 noOp))
  | .vor h m d a b => some (h.form 0x61 0x7 (opV d) (opV a) (opVS b) (m.ext 0 noOp))
  | .vxor h m d a b => some (h.form 0x61 0x8 (opV d) (opV a) (opVS b) (m.ext 0 noOp))
  | .vshl h m d a b => some (h.form 0x61 0x9 (opV d) (opV a) (opVS b) (m.ext 0 noOp))
  | .vshr h m d a b => some (h.form 0x61 0xa (opV d) (opV a) (opVS b) (m.ext 0 noOp))
  | .vsra h m d a b => some (h.form 0x61 0xb (opV d) (opV a) (opVS b) (m.ext 0 noOp))
  | .vabs h m d a => some (h.form 0x61 0xc (opV d) (opV a) noOp (m.ext 0 noOp))
  | .vdiv h u m d a b => some (h.form 0x61 0xd (opV d) (opV a) (opVS b) (m.ext (0#3 ++ BitVec.ofBool u) noOp))
  | .vrem h u m d a b => some (h.form 0x61 0xe (opV d) (opV a) (opVS b) (m.ext (0#3 ++ BitVec.ofBool u) noOp))
  | .vpopc h m d a => some (h.form 0x61 0xf (opV d) (opV a) noOp (m.ext 0 noOp))
  | .vcmp h c m d a b => some (h.form 0x62 0x0 (opV d) (opV a) (opVS b) (m.ext (BitVec.ofNat 4 c.code) noOp))
  | .vfcmp h c m d a b => some (h.form 0x62 0x1 (opV d) (opV a) (opVF b) (m.ext (BitVec.ofNat 4 c.code) noOp))
  | .vsel h t d a b c => some (h.form 0x62 0x2 (opV d) (opV a) (opV b) (extReg false 0 (BitVec.ofNat 4 t.code) 0 (opV c)))
  | .vcvt h src m d a p => some (h.form 0x62 0x3 (opV d) (opV a) (opImm p) (m.ext (BitVec.ofNat 4 src.code) noOp))
  | .vcvts h dst src d a => some (h.form 0x62 0x4 (opV d) (opV a) noOp (extReg false 0 (BitVec.ofNat 4 dst.code) (BitVec.ofNat 8 src.code) noOp))
  | .vredadd h m d a => some (h.form 0x62 0x5 (opF d) (opV a) noOp (m.ext 0 noOp))
  | .vredmax h m d a => some (h.form 0x62 0x6 (opF d) (opV a) noOp (m.ext 0 noOp))
  | .vredmin h m d a => some (h.form 0x62 0x7 (opF d) (opV a) noOp (m.ext 0 noOp))
  | .vrediadd h m d a => some (h.form 0x62 0x8 (opS d) (opV a) noOp (m.ext 0 noOp))
  | .vcompress h t d a b => some (h.form 0x63 0x0 (opV d) (opV a) (opV b) (extReg false 0 (BitVec.ofNat 4 t.code) 0 noOp))
  | .vexpand h t d a b => some (h.form 0x63 0x1 (opV d) (opV a) (opV b) (extReg false 0 (BitVec.ofNat 4 t.code) 0 noOp))
  | .vslideup h t d a n => some (h.form 0x63 0x2 (opV d) (opV a) (opSI n) (extReg false 0 (BitVec.ofNat 4 t.code) 0 noOp))
  | .vslidedn h t d a n => some (h.form 0x63 0x3 (opV d) (opV a) (opSI n) (extReg false 0 (BitVec.ofNat 4 t.code) 0 noOp))
  | .vperm h t d a b => some (h.form 0x63 0x4 (opV d) (opV a) (opV b) (extReg false 0 (BitVec.ofNat 4 t.code) 0 noOp))
  | .vbcastScalar h t d a => some (h.form 0x63 0x5 (opV d) (opSF a) noOp (extReg false 0 (BitVec.ofNat 4 t.code) 0 noOp))
  | .vbcastLane h t d a n => some (h.form 0x63 0x5 (opV d) (opV a) (opSI n) (extReg false 0 (BitVec.ofNat 4 t.code) 0 noOp))
  | .vmovsLane h t sg d a n => some (h.form 0x63 0x6 (opSF d) (opV a) (opSI n) (extReg false 0 (BitVec.ofNat 4 t.code) (0#5 ++ BitVec.ofBool sg ++ 0#2) noOp))
  | .vmovsCnt h t d a => some (h.form 0x63 0x6 (opS d) (opV a) noOp (extReg false 0 (BitVec.ofNat 4 t.code) 0x01 noOp))
  | .vmovsBits h t d a => some (h.form 0x63 0x6 (opS d) (opV a) noOp (extReg false 0 (BitVec.ofNat 4 t.code) 0x02 noOp))
  | .vins h t d a n => some (h.form 0x63 0x7 (opV d) (opSF a) (opSI n) (extReg false 0 (BitVec.ofNat 4 t.code) 0 noOp))
  | .vzord h x2 hi d a b c => some (h.form 0x63 0x8 (opV d) (opV a) (opV b) (extReg false 0 4 (0#6 ++ BitVec.ofBool x2 ++ BitVec.ofBool hi) (opOptV c)))
  | .vgath h m d a b => some (h.form 0x63 0x9 (opV d) (opS a) (opV b) m.ext)
  | .vscat h m d a b => some (h.form 0x63 0xa (opV d) (opS a) (opV b) m.ext)
  | .mjob h bank z sync d a b => some (h.form 0x80 0x0 (opS d) (opS a) (opS b) (extEng sync (fin2 bank ++ BitVec.ofBool z ++ 0#11)))
  | .mma h bank z sync d a b => some (h.form 0x80 0x1 (opS d) (opS a) (opS b) (extEng sync (fin2 bank ++ BitVec.ofBool z ++ 0#11)))
  | .mdrain h m d a b => some (h.form 0x80 0x2 (opS d) (opS a) (opS b) m.ext)
  | .mwait h d a => some (h.form 0x80 0x3 (opS d) (opS a) noOp (extReg false 0 0 0 noOp))
  | .mcfg h sync d a => some (h.form 0x80 0x4 (opS d) (opS a) (opS 0) (extEng sync 0))
  | .mcfgr h d => some (h.form 0x80 0x5 (opS d) noOp noOp (extReg false 0 0 0 noOp))
  | .mclr h bank sync d => some (h.form 0x80 0x6 (opS d) (opS 0) (opS 0) (extEng sync (fin2 bank ++ 0#12)))
  | .mabort h sync d => some (h.form 0x80 0x7 (opS d) (opS 0) (opS 0) (extEng sync 0))
  | .rld h d a m => some (h.form 0x88 0x0 (opSFV d) (opS a) noOp m.ext)
  | .rst h b a m => some (h.form 0x88 0x1 noOp (opS a) (opSFV b) m.ext)
  | .ramo h op d a b m => some (h.form 0x88 0x2 (opS d) (opS a) (opS b) (m.ext op.code))
  | .ramoPosted h op a b m => some (h.form 0x88 0x2 noOp (opS a) (opS b) (m.ext op.code))
  | .ramocas h d a b m => some (h.form 0x88 0x3 (opS d) (opS a) (opS b) (m.ext 0))
  | .roam h a => some (h.form 0x88 0x4 noOp (opS a) noOp 0)
  | .home h => some (h.form 0x88 0x5 noOp noOp noOp 0)
  | .eqrd h info d => some (h.form 0x88 0x6 (opS d) noOp noOp (extSys (0#14 ++ BitVec.ofBool info) 0))
  | .eqpop h d => some (h.form 0x88 0x7 (opS d) noOp noOp 0)
  | .mbincLocal h n b => some (h.form 0x88 0x8 (opMb n) noOp (opSI b) (extReg (mbHigh n) 0 0 0 noOp))
  | .mbincRemote h a b => some (h.form 0x88 0x8 noOp (opS a) (opSI b) (extReg false 0 0 0 noOp))
  | .mbwait h n b => some (h.form 0x88 0x9 (opMb n) noOp (opSI b) (extReg (mbHigh n) 0 0 0 noOp))
  | .mbrd h d n => some (h.form 0x88 0xa (opS d) (opMb n) noOp (extReg (mbHigh n) 0 0 0 noOp))
  | .barArr h d a => some (h.form 0x88 0xb (opS d) (opSI a) noOp (extReg false 0 0 0 noOp))
  | .barSig h d a => some (h.form 0x88 0xb (opS d) (opSI a) noOp (extReg false 0 0 0x01 noOp))
  | .barCfg h d a b => some (h.form 0x88 0xb (opS d) (opSI a) (opS b) (extReg false 0 0 0x02 noOp))
  | .barRd h d a => some (h.form 0x88 0xb (opS d) (opSI a) noOp (extReg false 0 0 0x03 noOp))
  | .coll h sync d a b => some (h.form 0x88 0xc (opS d) (opS a) (opS b) (extEng sync 0))
  | .repart h sync d a => some (h.form 0x88 0xd (opS d) (opS a) (opS 0) (extEng sync 0))
  | .viewrd h part d a => some (h.form 0x88 0xe (opS d) (opOptS a) noOp (extSys (0#12 ++ fin3 part) 0))
  | .viewack h d a => some (h.form 0x88 0xf (opS d) (opS a) noOp 0)
  | .br h off => some (h.form 0x98 0x0 noOp noOp noOp (0#8 ++ off))
  | .jal h off => some (h.form 0x98 0x1 noOp noOp noOp (0#8 ++ off))
  | .jr h a => some (h.form 0x98 0x2 noOp (opS a) noOp (extReg false 0 0 0 noOp))
  | .jalr h a => some (h.form 0x98 0x3 noOp (opS a) noOp (extReg false 0 0 0 noOp))
  | .brx h a b => some (h.form 0x98 0x4 noOp (opS a) (opS b) (extReg false 0 0 0 noOp))
  | .loop h d off => some (h.form 0x98 0x5 (opS d) noOp noOp (0#8 ++ off))
  | .bcast h a len1 off => some (h.form 0x98 0x6 noOp (opS a) noOp (0#5 ++ fin3 len1 ++ off))
  | .fetchb h q len1 off => some (h.form 0x98 0x7 noOp noOp noOp (0#4 ++ fin1 q ++ fin3 len1 ++ off))
  | .lkput h d a => some (h.form 0x98 0x8 (opY d) (opS a) noOp (extReg false 0 0 0 noOp))
  | .lkget h d a b => some (h.form 0x98 0x9 (opS d) (opSI a) (opY b) (extReg false 0 0 0 noOp))
  | .stop h => some (h.form 0x98 0xa noOp noOp noOp 0)
  | .nop h => some (h.form 0x98 0xb noOp noOp noOp 0)
  | .slgo h d a b => some (h.form 0x98 0xc (opS d) (opS a) (opS b) (extReg false 0 0 0 noOp))
  | .slhalt h d a => some (h.form 0x98 0xd (opS d) (opS a) noOp (extReg false 0 0 0 noOp))
  | .slwait h d a => some (h.form 0x98 0xe (opS d) (opS a) noOp (extReg false 0 0 0 noOp))
  | .slpoll h part d a => some (h.form 0x98 0xf (opS d) (opS a) noOp (extReg false 0 0 (0#6 ++ fin2 part) noOp))
  | .slpool h d => some (h.form 0x99 0x0 (opS d) noOp noOp (extReg false 0 0 0 noOp))
  | .pause h a => some (h.form 0x99 0x1 noOp (opSI a) noOp (extReg false 0 0 0 noOp))
  | .spawn h sync d a b => some (h.form 0xa0 0x0 (opS d) (opS a) (opS b) (extEng sync 0))
  | .spawndPage h sync d a b => some (h.form 0xa0 0x1 (opS d) (opS a) (opS b) (extEng sync 0))
  | .spawndTile h sync d a b => some (h.form 0xa0 0x1 (opS d) (opS a) (opS b) (extEng sync 1))
  | .fork h prio pin d a b off => some (h.form 0xa0 0x2 (opK d) (opS a) (opS b) (0#5 ++ BitVec.ofBool pin ++ fin2 prio ++ off))
  | .join h d a b off => some (h.form 0xa0 0x3 (opS d) (opS a) (opOptS b) (0#7 ++ off))
  | .tqpush h sync d a b => some (h.form 0xa0 0x4 (opS d) (opS a) (opS b) (extEng sync 0))
  | .tqpop h nw mask d a => some (h.form 0xa0 0x5 (opS d) (opS a) noOp (extReg false 0 0 (0#3 ++ mask ++ BitVec.ofBool nw) noOp))
  | .tqctl h d a => some (h.form 0xa0 0x6 (opS d) (opS a) noOp (extReg false 0 0 0 noOp))
  | .tqrd h part d => some (h.form 0xa0 0x7 (opS d) noOp noOp (extReg false 0 0 (0#6 ++ fin2 part) noOp))
  | .trap h n => some (h.form 0xa8 0x0 noOp noOp noOp (extSys 0 n))
  | .eret h => some (h.form 0xa8 0x1 noOp noOp noOp 0)
  | .ctlr h d c => some (h.form 0xa8 0x2 (opS d) (opCtl c) noOp 0)
  | .ctlw h c a => some (h.form 0xa8 0x3 (opCtl c) (opS a) noOp 0)
  | .ctlx h d c b => some (h.form 0xa8 0x4 (opS d) (opCtl c) (opS b) 0)
  | .tmrWrite h none a => some (h.form 0xa8 0x3 (opCtl 8) (opS a) noOp 0)
  | .tmrWrite h (some d) a => some (h.form 0xa8 0x4 (opS d) (opCtl 8) (opS a) 0)
  | .spill h d a => some (h.form 0xa8 0x5 (opS d) (opS a) noOp 0)
  | .unspill h d a b => some (h.form 0xa8 0x6 (opS d) (opS a) (opOptS b) 0)
  | .smsgMsg h a b tag => some (h.form 0xa8 0x7 noOp (opS a) (opS b) (extSys 0 (0#16 ++ tag)))
  | .smsgRes h a b => some (h.form 0xa8 0x7 noOp (opS a) (opS b) (extSys 1 0))
  | .smsgTrp h a b => some (h.form 0xa8 0x7 noOp (opS a) (opS b) (extSys 2 0))
  | .tmrset h d a n => some (h.form 0xa8 0x8 (opS d) (opOptS a) noOp (extSys 0 n))
  | .tmrclr h d => some (h.form 0xa8 0x9 (opS d) noOp noOp 0)
  | .icinv h => some (h.form 0xa8 0xa noOp noOp noOp 0)
  | .rcinv h => some (h.form 0xa8 0xb noOp noOp noOp 0)
  | .brk h n => some (h.form 0xa8 0xc noOp noOp noOp (extSys 0 n))
  | .sleep h d mask => some (h.form 0xa8 0xd (opS d) noOp noOp (extSys 0 (0#28 ++ mask)))
  | .illegalInstruction _ => none
  | .instructionFetchFault _ _ => none
  | .fetchFill _ _ => none
  | .repetition _ _ => none
  | .parkReasonMet _ => none
  | .translationWalk _ => none
  | .pendingCommitRetry _ => none
  | .globalAccessAtSlice _ => none
  | .fenceProbe _ _ => none
  | .fenceEcho _ _ => none
  | .patrolScrub _ _ => none
  | .eventBufferDrain _ => none
  | .versionClaim _ => none
  | .fillComplete _ _ => none
  | .fillFail _ _ => none
  | .versionLoadRequest _ => none
  | .arrivalNotice _ => none
  | .deliveryAck _ => none
  | .deliveryFail _ => none
  | .waiterRetry _ => none
  | .tloadtTimeout _ => none
  | .tloadCancel _ => none
  | .sharedPortWrite _ => none
  | .tagWaitPerform _ => none
  | .mailboxIncrement _ => none
  | .packetPromotion _ => none
  | .deadlockEscape _ => none
  | .ucieReplay _ => none
  | .ucieRetrain _ => none
  | .ucieLinkLost _ => none
  | .copySector _ _ _ => none
  | .denialFault _ => none
  | .streamRefill _ _ => none
  | .streamDrain _ _ => none
  | .matrixAccept _ => none
  | .matrixJobStart _ _ => none
  | .matrixJobComplete _ => none
  | .drainComplete _ => none
  | .drainFail _ => none
  | .remoteRequestAtTarget _ => none
  | .remoteReply _ => none
  | .remoteWriteAck _ => none
  | .remoteWriteFail _ => none
  | .switchCombine _ _ _ => none
  | .combinedReply _ _ => none
  | .multicastForward _ _ => none
  | .ergFlitReceive _ _ _ => none
  | .ergNak _ _ => none
  | .ergGapRenak _ _ => none
  | .ergPortRetrain _ => none
  | .ergPortLost _ => none
  | .roamArrival _ => none
  | .guestReturn _ => none
  | .guestLost _ => none
  | .heartbeat _ => none
  | .suspectIntervalExpiry _ _ => none
  | .propose _ _ => none
  | .accept _ _ => none
  | .agreementTimeout _ => none
  | .isolation _ => none
  | .joinRequest _ _ => none
  | .abandon _ _ => none
  | .collMatch _ _ => none
  | .collCombine _ _ _ => none
  | .collFinal _ _ => none
  | .collRelease _ _ => none
  | .collWriteDone _ _ => none
  | .splitterCompute _ _ => none
  | .repartCounts _ _ => none
  | .repartRecords _ _ => none
  | .taskAccept _ => none
  | .taskStart _ => none
  | .taskSteal _ => none
  | .gateNotice _ => none
  | .joinStep _ => none
  | .blockStart _ => none
  | .halt _ => none
  | .preemption _ => none
  | .watchdog _ => none
  | .timerExpiry _ => none
  | .timerTrap _ => none
  | .copyFaultTrap _ => none
  | .membershipChangeTrap _ => none
  | .spawnFailureTrap _ => none
  | .pauseExpiry _ => none
  | .messageArrival _ => none
  | .messageBufferAccept _ => none
  | .launchEnd _ => none
  | .doorbell _ _ => none
  | .launch _ _ _ => none
  | .commitOrDenyAPage _ _ _ => none
  | .moveOrReclaimVersionEntries _ _ _ _ => none
  | .installView _ _ _ => none
  | .supplySplitters _ _ _ _ => none
  | .answerAnException _ _ => none
  | .markModuleReady _ => none
  | .spillOrResumeASlot _ _ => none
  | .resetADie _ => none
  | .dieDrainTimeout _ => none
  | .readCollectiveStaging _ _ _ _ _ => none
  | .completionRecord _ => none
  | .jormalFrame _ _ _ => none
  | .attestationReport _ => none
  | .firmwareImage _ _ _ _ => none
  | .modeChange _ _ => none
  | .moduleReset => none
  | .thermalThrottle _ => none
  | .thermalShutdown _ => none
  | .viewCommit _ _ => none
  | .fatalFaultReport _ _ => none
  | .hostFailureReport _ _ => none
  | .ucieLinkRestored _ => none
  | .ergPortRestored _ => none
  | .markDieReady _ => none

/-- The word of an instruction. -/
def encode (i : Instr) : Option IWord := i.raw.map Raw.word

/-- The instruction the decoder reads from a word given as a number; its three 32-bit units stand from the lowest (02 R27). -/
noncomputable def decodeTableWord (_nbits w : Nat) : Option Instr := (decode (BitVec.ofNat 96 w)).toOption

end Sys2Proof
end

