-- ==== Sys2Proof/Machine/Parts/Memory.lean ====
section
/-! DEFINITION. A memory as plain data: the listed bytes in rising address order, every other byte zero (log entry 2). -/

namespace Sys2Proof.Machine

/-- A memory: (address, byte) pairs in strictly rising address order, no listed byte zero. -/
abbrev Memory := List Host.Cell

/-- Every address of `m` is above `lo`, they rise strictly, and no listed byte is zero. -/
def Memory.wfFrom : Nat → Memory → Bool
  | _, [] => true
  | lo, (a, b) :: r => decide (lo ≤ a) && decide (b ≠ 0) && Memory.wfFrom (a + 1) r

/-- The canonical form of a memory. -/
def Memory.wf (m : Memory) : Bool := Memory.wfFrom 0 m

end Sys2Proof.Machine
end

