-- ==== Sys2Proof/Machine/Parts/Slot.lean ====
section
/-! DEFINITION. The state of one slot (02 R36-R38, 15 R310-R313) and of its four engine contexts. -/

namespace Sys2Proof.Machine

/-- The slot states of 15 R310. -/
inductive SlotState | pool | block | running | parked | handler | spilled | guest | exit
  deriving DecidableEq, Repr, Inhabited

/-- The parking reasons of 15 R313. -/
inductive Reason
  | none | globalLoad | translate | storeQueue | pageCommit | fence | versionWait | versionLimit | versionStore
  | versionTable | tileSpace | tag | timeline | engineQueue | stream | mailbox | remoteLoad | remoteQueue | roam
  | view | fpException | slotPool | slotWait | fetch | pause | exit | barrier | taskQueue | sleep | taskFull
  deriving DecidableEq, Repr, Inhabited

/-- A global access the slot is parked for (04 R86-R88, 06 R142). -/
inductive GOp
  | ld (dst : SFV) (w : Width) (sg : Bool) (sc : Scope) (res : Bool)
  | amo (op : AmoOp) (d : SReg) (w : Width) (x : Word) (sc : Scope)
  | cas (d : SReg) (w : Width) (cmp new : Word) (sc : Scope)
  deriving DecidableEq, Repr, Inhabited

/-- The parts of a global access still to be performed, as (offset, physical address, length, through), and the bytes taken
so far (14 R302: one part per 256-byte unit). `ro` lets the read-only cache keep what is read (04 R80); `bad` is the lowest offset
found poisoned, which the trap reports once every part has been read (04 R82). -/
structure GReq where
  op : GOp
  va : Word
  ro : Bool
  parts : List (Nat × Nat × Nat × Bool)
  got : List (Nat × List Byte)
  bad : Option Nat
  deriving DecidableEq, Repr, Inhabited

/-- A line of a `cmstore` (06 R143): physical line, mask, data, and whether HBM4 takes them at once (04 R79). -/
structure CmLine where
  line : Nat
  mask : BitVec 16
  data : List Byte
  through : Bool
  deriving DecidableEq, Repr, Inhabited

/-- The accesses in flight when a translation was dropped (04 R92, R96): stores by slot and number, loads and `cmstore`s by slot and
the rotation they parked in, remote accesses under way by requester and number, and sectors by slot, operation and number. -/
structure InFlight where
  stores : List (Who × Nat)
  loads : List (Who × Nat)
  remote : List (Agent × Nat)
  /-- sectors of copies being written -/
  copies : List (Who × Word × Nat)
  deriving DecidableEq, Repr, Inhabited

/-- An instruction that is performed once every earlier store of the slot is (04 R91, R92, R94, R96, R97, 06 R143). -/
inductive SysOp
  | commit (d : SReg) (va frame : Word)
  | decommit (d : SReg) (frame : Nat) (fl : InFlight)
  | palloc (d : SReg) (pool : Fin 8)
  | pfree (d : SReg) (frame : Word)
  | tlbinv (fl : InFlight)
  | wback (lo n : Nat)
  | cmstore (d : SReg) (lines : List CmLine) (sc : Scope)
  | unspill (d : SReg) (a : Word) (area : Option Word)
  | join (d : SReg) (addr : Nat)
  deriving DecidableEq, Repr, Inhabited

/-- What a tile instruction still has to do when its answer comes (05 R115-R123). -/
inductive TileWait
  | new (d : SReg)
  | store (v : BitVec 32) (addr c : Nat)
  | load (d : SReg) (v : BitVec 32) (c j addr : Nat) (timed : Bool)
  | read (d : SReg)
  | change (d : SReg)
  deriving DecidableEq, Repr, Inhabited

/-- Which scratchpad access waits for tags (08 R179). -/
inductive TagAcc
  | ldf (d : SFV) (w : Width) (sg : Bool)
  | ldfe (d : SFV) (w : Width) (sg : Bool)
  | stwe (b : SFV) (w : Width)
  deriving DecidableEq, Repr, Inhabited

/-- What kind of timeline wait (07 R169, 11 R241, 02 R32); `synced` is a wait of the sync bit kept by a spill, whose pc already
stands after the instruction (17 R378). -/
inductive TlWait | wait | mwait (d : SReg) | sync | synced
  deriving DecidableEq, Repr, Inhabited

/-- The timeline a wait is on: one of the three registers, or the accepted count of the task context (16 R348). -/
inductive TlName | c | m | x | t
  deriving DecidableEq, Repr, Inhabited

/-- The kinds of access `check` knows (02 R45, 17 R373). -/
inductive AccKind | load | store | atomic | copy | fetch
  deriving DecidableEq, Repr, Inhabited

/-- When a parked instruction that had no effect is issued again from its start. Pages are virtual addresses
divided by 32 KiB. -/
inductive Again
  /-- the walks of an access: address, bytes, kind, alignment (04 R76) -/
  | walk (va : Word) (n : Nat) (kind : AccKind) (align : Nat)
  /-- uncommitted pages, with the access's address and kind (04 R83) -/
  | page (va : Word) (pages : List Nat) (kind : AccKind)
  /-- a posted release of the slot not yet performed (14 R293) -/
  | release
  | stores (ids : List Nat)
  | queue
  | carry
  /-- every store performed and every remote write acknowledged (12 R262) -/
  | clean
  | engine (t : TlName)
  | remoteQ
  /-- the slot's remote writes of these numbers acknowledged (12 R256) -/
  | writes (ids : List Nat)
  | tasks (prio : Fin 4)
  /-- the gate list full, for a gated task (16 R341, R353) -/
  | gates
  | inbound
  | stream (v : Fin 4)
  | block (b : Word) (len : Nat) (q : Option (Fin 2))
  deriving DecidableEq, Repr, Inhabited

/-- The outcome of a completed walk, kept for the instruction that waited for it (04 R76): a usable leaf, an
uncommitted sparse leaf, or a fault of R81. -/
inductive Walk
  | leaf (w : Word) (size : Nat)
  | sparse (w : Word)
  | fault (sub : Nat)
  deriving DecidableEq, Repr, Inhabited

/-- What a parked slot waits for, with what the instruction still has to write. -/
inductive Wait
  | none
  /-- once the condition holds the instruction issues again from its start: it had no effect -/
  | again (c : Again)
  | glob (r : GReq)
  | sys (op : SysOp)
  | fence (sc : Scope) (unprobed probed : List (Fin 48))
  | tile (k : TileWait) (name : Word)
  | tag (a : TagAcc) (addr size : Nat)
  /-- a tag wait that has been performed; the slot resumes after a cycle (08 R171, R174) -/
  | tagged (until_ : Nat)
  | timeline (t : TlName) (n : Word) (k : TlWait)
  | mailbox (i : MbIdx) (n : BitVec 32)
  | remote (id : Nat) (k : GOp)
  | rjoin (id : Nat) (d : SReg) (mod : Fin 4096)
  | view (part : Fin 8) (d : SReg) (i : Nat)
  | fpEx (raised : BitVec 5) (pc : Word)
  /-- the block of a `bcast` (15 R322) -/
  | bcast (mask : BitVec 16) (b : Word) (len : Nat)
  | slotWait (mask : BitVec 16) (d : SReg)
  | fetch (pc : Word)
  | pause (until_ : Nat)
  | exit
  | barRel (arr : Bool) (d : SReg) (i : Fin 16)
  | barrier (i : Fin 16) (gen : BitVec 32)
  | tqpop (mask : BitVec 4) (d : SReg) (addr : Nat)
  | sleep (mask seen : BitVec 4) (d : SReg)
  | roam
  deriving DecidableEq, Repr, Inhabited

/-- The answer to a parked request, taken by the slot when it returns to rotation. -/
inductive Reply
  | ok
  | val (x : Word)
  | data (b : List Byte)
  | trap (cls sub : Nat) (tval : Word)
  | fp (trp : Bool)
  deriving DecidableEq, Repr, Inhabited

/-- A part of a queued store: its physical address, its bytes, and whether HBM4 takes them at once: a write-through page or
cache level 10 (04 R79). -/
structure StorePart where
  pa : Nat
  data : List Byte
  through : Bool
  deriving DecidableEq, Repr, Inhabited

/-- A posted store or atomic of the store queue (04 R86, R88): its parts not yet performed. -/
structure StoreEntry where
  id : Nat
  op : Option (AmoOp × Word)
  parts : List StorePart
  /-- a release: performed after every earlier entry, and before any later access (14 R293, R296) -/
  rel : Bool
  /-- remote writes to be acknowledged and local increments to be performed first (14 R293, R296) -/
  acks : List Nat
  deriving DecidableEq, Repr, Inhabited

/-- An entry of a reservation set (06 R141). -/
structure Resv where
  line : Nat
  serial : Nat
  stamp : BitVec 16
  deriving DecidableEq, Repr, Inhabited

/-- A posted remote write not yet acknowledged (12 R257): its kind as 12 R258 codes it, its address, its bytes' length, for a guest's the
home of its thread, its target modules, those of them that have not answered, and the failures so far, as (module, cause). -/
structure Outst where
  id : Nat
  kind : Nat
  addr : Word
  len : Nat
  home : Option Agent
  targets : List (Fin 4096)
  left : List (Fin 4096)
  fails : List (Fin 4096 × Nat)
  deriving DecidableEq, Repr, Inhabited

/-- An error-queue entry, with the cycle of its arrival (12 R258, R259). -/
structure ErrEntry where
  addr : Word
  info : Word
  at_ : Nat
  deriving DecidableEq, Repr, Inhabited

/-- A strip in a stream buffer: its lanes, how many elements are valid, and a fault found at its refill (07 R164, R165). -/
structure Strip where
  data : VWord
  n : Nat
  /-- (R81 sub-cause, address); sub-cause 0 stands for an uncommitted page -/
  fault : Option (Nat × Word)
  /-- active bytes of a write strip, bit i for byte i -/
  mask : BitVec 64
  deriving DecidableEq, Repr, Inhabited

/-- A register in stream mode (07 R163, R165). -/
structure Stream where
  num : Word
  wr : Bool
  gl : Bool
  /-- base with command word 1 added -/
  base : Word
  width : Fin 4
  tags : Fin 4
  n : Vector Nat 4
  st : Vector Int 4
  /-- elements popped or pushed so far -/
  pos : Nat
  /-- elements refilled or drained so far -/
  moved : Nat
  buf : List Strip
  deriving DecidableEq, Repr, Inhabited

/-- The state of a copy-unit operation (07 R158). -/
inductive CopySt | queued | running | commitWait | faulted | done | complete
  deriving DecidableEq, Repr, Inhabited

/-- Which copy-unit operation (07 R154, R160, R161, R163). -/
inductive CopyKind
  | cpy | cpyt
  | cpyf (mode : Fin 4)
  | qdual
  | bload (sp : Bool) (t : ETy) (sc : Bool)
  | stream (v : Fin 4)
  deriving DecidableEq, Repr, Inhabited

/-- Where an element lies: the issuing core's scratchpad, global memory, or the cluster's B-store. -/
inductive Space | sp | glob | bst
  deriving DecidableEq, Repr, Inhabited

/-- A byte an operation has still to write: its place, in global memory a physical address, and whether HBM4 takes it at once
(04 R79). -/
structure OutByte where
  space : Space
  addr : Nat
  byte : Byte
  through : Bool
  deriving DecidableEq, Repr, Inhabited

/-- A copy-unit operation (07 R148-R161): its command words, descriptor bytes and the formats recorded at issue. -/
structure CopyOp where
  num : Word
  kind : CopyKind
  w0 : Word
  w1 : Word
  desc : List Byte
  fmts : Vector Word 12
  st : CopySt
  /-- the stores released to it: those of each slot below a number (02 R33, 14 R303) -/
  rel : List (Who × Nat)
  sector : Nat
  /-- faulting address and R81 sub-cause -/
  fault : Option (Word × Nat)
  /-- its copy-fault trap has been taken (07 R157) -/
  trapped : Bool
  /-- in commit-wait: the lowest byte of its sector in each page it waits for -/
  waits : List Word
  /-- a denial recorded while another operation is faulted (07 R158) -/
  denied : Option Word
  /-- source elements read before their sector is written (07 R155, 14 R303), 4 bytes each -/
  ahead : List (Nat × List Byte)
  /-- what the current sector has still to write -/
  out : List OutByte
  deriving DecidableEq, Repr

/-- An operation just issued. -/
def CopyOp.fresh (num : Word) (k : CopyKind) (w0 w1 : Word) (desc : List Byte) (fmts : Vector Word 12) (rel : List (Who × Nat)) : CopyOp :=
  ⟨num, k, w0, w1, desc, fmts, .queued, rel, 0, none, false, [], none, [], []⟩

/-- A slot's copy context (07 R148, R149). -/
structure CopyCtx where
  last : Word
  tl : Word
  ops : List CopyOp
  deriving DecidableEq, Repr

/-- A matrix job's fields (11 R239). -/
structure JobF where
  bank : Fin 4
  z : Bool
  a0 : Nat
  a1 : Nat
  astride : Nat
  split : Bool
  scaled : Bool
  bty : Nat
  m : Nat
  n : Nat
  k : Nat
  boff : Nat
  soff : Nat
  deriving DecidableEq, Repr, Inhabited

/-- A drain's fields (11 R240). -/
structure DrainF where
  bank : Fin 4
  ty : Nat
  tr : Bool
  clr : Bool
  full : Bool
  cols : Nat
  rows : Nat
  col0 : Nat
  row0 : Nat
  stride : Nat
  dest : Nat
  target : CoreId
  countBytes : Bool
  notify : Bool
  idx : MbIdx
  deriving DecidableEq, Repr, Inhabited

/-- The kinds of matrix operation (11 R231). -/
inductive MatKind
  | job (f : JobF)
  | drain (f : DrainF)
  | clr (bank : Fin 4)
  | cfg (mask : BitVec 4)
  | abort
  deriving DecidableEq, Repr, Inhabited

/-- The states of a matrix operation (11 R244). A `complete` one stays in its context only until the timeline has passed it; its status word
lives on. -/
inductive MatSt | issued | accepted | running | done | complete
  deriving DecidableEq, Repr, Inhabited

/-- The status a matrix operation has gathered (11 R233). -/
structure MatStatus where
  error : Bool
  cause : Fin 8
  nan : Bool
  inf : Bool
  sat : Bool
  flushed : Bool
  deriving DecidableEq, Repr, Inhabited

/-- A matrix operation the timeline has not passed. -/
structure MatOp where
  num : Word
  kind : MatKind
  fmts : Vector Word 12
  st : MatSt
  rel : List (Who × Nat)
  status : MatStatus
  /-- a job's operands as far as the engine has read them: A by column of k, B by column of the array (11 R234) -/
  read : Option (List (BitVec 32) × List (BitVec 32))
  deriving DecidableEq, Repr

/-- A slot's matrix context (11 R225, R233): operations the timeline has not passed, and the status words of the 16 latest. -/
structure MatCtx where
  last : Word
  tl : Word
  ops : List MatOp
  hist : List (Word × Word)
  deriving DecidableEq, Repr

/-- Operations issued and not complete (02 R33, 11 R244). -/
def MatCtx.outstanding (c : MatCtx) : Nat := (c.ops.filter fun o => o.st != .complete).length

/-- The states of a collective operation (13 R276). -/
inductive CollSt | queued | matching | running | final | writing | done
  deriving DecidableEq, Repr, Inhabited

/-- A collective operation not yet complete (13 R264, R276, R284). -/
structure CollOp where
  num : Word
  p : CollParams
  chan : Fin 16
  input : Word
  output : Word
  record : Word
  splitAddr : Word
  cap : Nat
  empty : Bool
  notify : Option MbIdx
  st : CollSt
  rel : List (Who × Nat)
  seq : Nat
  issueView : BitVec 32
  view : BitVec 32
  members : Nat
  /-- this module's rank in that view -/
  rank : Nat
  status : Nat
  reruns : Nat
  peer : Nat
  /-- the final result, or for a `repart` the records received -/
  result : List (BitVec 32)
  /-- the keys split[0] … split[c] and the total weight of a `repart` (13 R286) -/
  split : List Word
  weight : Word
  /-- what each rank was granted, records taken from each rank, and own records not accepted by anyone (13 R287) -/
  quota : List Nat
  recsIn : List (Nat × List (List Byte))
  refused : List (List Byte)
  sent : Nat
  contributors : Nat
  /-- own records of a `repart`, and the grants seen (13 R284, R287) -/
  n : Nat
  grants : Nat
  /-- the input as the unit has read it so far, its elements at times of their own (13 R289, 14 R303) -/
  seen : List Byte
  /-- an uncommitted page the unit waits for, and whether it was denied (04 R83) -/
  page : Option (Nat × Bool)
  deriving DecidableEq, Repr, Inhabited

/-- A slot's collective context (13 R264, R279): `report` is the output-fault report of 13 R276. -/
structure CollCtx where
  last : Word
  tl : Word
  ops : List CollOp
  stale : Bool
  report : Option Nat
  deriving DecidableEq, Repr

/-- Operations issued and not complete (02 R33): one with its status is complete, though the timeline has not passed it (13 R276). -/
def CollCtx.outstanding (c : CollCtx) : Nat := (c.ops.filter fun o => o.st != .done).length

/-- An operation of a task context: its number, its copies not yet accepted or failed, and the module they were sent to (16 R345). -/
structure TaskOp where
  num : Word
  left : Nat
  mod : Fin 4096
  deriving DecidableEq, Repr

/-- A slot's task context (16 R345, R355): the operations after the accepted count. -/
structure TaskCtx where
  last : Word
  acc : Word
  ops : List TaskOp
  deriving DecidableEq, Repr

/-- Progress of a broadcast block (15 R322): the buffer it runs from, its start, length, next instruction, and words. -/
structure BlockPos where
  q : Fin 2
  b : Word
  len : Nat
  j : Nat
  words : List IWord
  deriving DecidableEq, Repr, Inhabited

/-- What a hosting slot keeps beside the guest: the thread's home, and the slot's own registers (12 R261, R262). -/
structure Hosting where
  home : Agent
  job : BitVec 32
  own : Guest
  deriving DecidableEq, Repr

/-- One slot of a core. -/
structure Slot where
  s : Vector Word 32
  f : Vector Word 32
  v : Vector VWord 16
  k : Vector Bool 8
  y : Vector Word 4
  pc : Word
  state : SlotState
  reason : Reason
  wait : Wait
  reply : Option Reply
  /-- the word last issued, and the walks made for it (04 R76) -/
  word : IWord
  walks : List (Nat × Walk)
  /-- the load it issues again waited for a queued store: it is performed at its home slices (14 R294) -/
  atHome : Bool
  /-- rotation in which the slot parked -/
  parkedAt : Nat
  /-- `tloadt`: rotation at which the timeout runs out (05 R117); `sleep`: the waking cycle (17 R370) -/
  deadline : Option Nat
  /-- a refused waiter: rotation of the retry (05 R107) -/
  retryAt : Option Nat
  flags : BitVec 5
  fen : BitVec 5
  rmode : BitVec 2
  tbm : BitVec 49
  tmr : BitVec 32
  tvec : Word
  tcause : BitVec 16
  tval : Word
  epc : Word
  tsave : Word
  sup : BitVec 32
  errq : List ErrEntry
  storeQ : List StoreEntry
  nextStore : Nat
  resv : List Resv
  outst : List Outst
  nextId : Nat
  /-- numbers of the local `mbinc`s not yet performed (12 R260, 14 R293) -/
  incs : List Nat
  streams : Vector (Option Stream) 4
  /-- write streams ended by `sstop` or `stop`, still draining (07 R167) -/
  draining : List Stream
  repCont : Bool
  repPc : Word
  cctx : CopyCtx
  mctx : MatCtx
  xctx : CollCtx
  tctx : TaskCtx
  /-- pending asynchronous traps with their tval (17 R363) -/
  pendCopy : Option Word
  pendMember : Option Word
  pendSpawn : Option Word
  pendTimer : Bool
  /-- a halt request; `haltNow` says that it is acted on in a handler too, since it came while the slot was in none, or the slot was spilled
  with it (15 R327) -/
  haltReq : Bool
  haltNow : Bool
  /-- a cancel sent to the slice for the parked tile request: 0 none, 1 timeout, 2 pre-emption or pending trap,
  3 watchdog (05 R117, R125, 17 R375) -/
  cancel : Fin 4
  /-- the number of the slot's tile request (05 R102, R117) -/
  tileId : Nat
  /-- a guest that came by the roam hint performs the access it came for here (12 R256, R262) -/
  roamed : Bool
  /-- rotation in which `tmr` was written (17 R368) -/
  tmrAt : Nat
  reserved : Bool
  /-- the cycle in which the slot was last halted, counted from 1: it is not used for a start in that cycle (16 R358) -/
  haltedAt : Nat
  block : Option BlockPos
  bubble : Bool
  fetchFault : Option (Word × Nat × Word)
  /-- the address the access of a parked instruction or the watchdog reports (17 R375) -/
  object : Word
  /-- stores of another slot that this slot's accesses wait for (14 R419) -/
  carry : List (Who × Nat)
  hosting : Option Hosting
  /-- a home slot whose thread is away: what it carried at departure (12 R263) -/
  away : Option Guest
  /-- the module the thread is at, or on its way to (12 R262, R263, log entry 52) -/
  awayAt : Fin 4096
  /-- the state a spilled slot resumes in, and the kept wait (17 R379) -/
  spilledAs : SlotState
  /-- tl.m and tl.x as the spill saved them: software may edit them in the save area (17 R380) -/
  spillTl : Word × Word
  deriving DecidableEq, Repr

/-- A copy context that has issued nothing. -/
def CopyCtx.reset : CopyCtx := ⟨0, 0, []⟩
def MatCtx.reset : MatCtx := ⟨0, 0, [], []⟩
def CollCtx.reset : CollCtx := ⟨0, 0, [], false, none⟩
def TaskCtx.reset : TaskCtx := ⟨0, 0, []⟩

/-- The predicates at launch: k0 true, the others false (02 R36). -/
def kReset : Vector Bool 8 := #v[true, false, false, false, false, false, false, false]

/-- A slot before any launch has started it, in the given state (02 R36-R38; log entries 3 and 4). -/
def Slot.reset (st : SlotState) : Slot where
  s := Vector.replicate 32 0
  f := Vector.replicate 32 0
  v := Vector.replicate 16 0
  k := kReset
  y := Vector.replicate 4 0
  pc := 0
  state := st
  reason := if st = .exit then .exit else .none
  wait := if st = .exit then .exit else .none
  reply := none
  word := 0
  walks := []
  atHome := false
  parkedAt := 0
  deadline := none
  retryAt := none
  flags := 0
  fen := 0
  rmode := 0
  tbm := 0
  tmr := 0
  tvec := 0
  tcause := 0
  tval := 0
  epc := 0
  tsave := 0
  sup := 0
  errq := []
  storeQ := []
  nextStore := 0
  resv := []
  outst := []
  nextId := 0
  incs := []
  streams := Vector.replicate 4 none
  draining := []
  repCont := false
  repPc := 0
  cctx := .reset
  mctx := .reset
  xctx := .reset
  tctx := .reset
  pendCopy := none
  pendMember := none
  pendSpawn := none
  pendTimer := false
  haltReq := false
  haltNow := false
  cancel := 0
  tileId := 0
  roamed := false
  tmrAt := 0
  reserved := false
  haltedAt := 0
  block := none
  bubble := false
  fetchFault := none
  object := 0
  carry := []
  hosting := none
  away := none
  awayAt := 0
  spilledAs := .running
  spillTl := (0, 0)

end Sys2Proof.Machine
end

