-- ==== Sys2Proof/Machine/Parts/Core.lean ====
section
/-! DEFINITION. One core, one cluster and one launch (08 R170-R177, 15 R310-R330, 16 R332-R357). -/

namespace Sys2Proof.Machine

/-- A translation cache entry (04 R76): the page's first virtual address divided by 32 KiB, its size in such pages,
the leaf, and the table root it was walked from. -/
structure TlbEntry where
  page : Nat
  size : Nat
  leaf : Word
  root : Word
  deriving DecidableEq, Repr, Inhabited

/-- A request of the spill engine (17 R376, R380): the slot, whether it resumes, and what to notify. -/
structure SpillReq where
  slot : Fin 16
  resume : Bool
  area : Option Word
  notify : Option MbIdx
  asker : Option Who
  deriving DecidableEq, Repr, Inhabited

/-- A gated task (16 R344): its number at the slice, and for a refused gate the rotation of its retry (05 R107). -/
structure GateEntry where
  gid : Nat
  q : QEntry
  retry : Option Nat
  deriving DecidableEq, Repr, Inhabited

/-- A packet held at the inbound buffer: its task, sender and number. -/
structure InTask where
  q : QEntry
  src : Option (Agent × Word)
  deriving DecidableEq, Repr, Inhabited

/-- A block buffer (15 R321). -/
structure BlockBuf where
  b : Word
  len : Nat
  words : List IWord
  deriving DecidableEq, Repr, Inhabited

/-- A core. -/
structure Core where
  slots : Vector Slot 16
  sp : Memory
  /-- indices of the empty words, rising; every other word is full (08 R170) -/
  empties : List Nat
  mb : Vector (BitVec 32) 64
  fmt : Vector Word 12
  launch : Option Nat
  /-- the job of the launch the core last ran: what its registers show stays when that launch has ended (02 R38, 22 R413) -/
  job : BitVec 32
  taskCtl : Word
  /-- the four queues, top first, bottom last -/
  queues : Vector (List QEntry) 4
  /-- entries moved to the overflow area, topmost first (16 R341) -/
  overflow : Vector (List QEntry) 4
  gates : List GateEntry
  nextGate : Nat
  /-- packets at the inbound buffer of 16 -/
  inbound : List InTask
  /-- the cycle in which the core last started tasks of its own, counted from 1 (16 R343) -/
  startedAt : Nat
  icache : List (Word × IWord)
  blockBuf : Vector (Option BlockBuf) 2
  ro : List (Nat × Word)
  tlb : List TlbEntry
  msgIn : List Msg
  arrivals : List Guest
  spillQ : List SpillReq
  deriving DecidableEq, Repr

/-- The reset value of a format register: type 8, every other field 0 (07 R145). -/
def fmtRaw : Word := 8

/-- A core that no launch has started (log entries 3 and 4). -/
def Core.reset : Core where
  slots := #v[.reset .exit, .reset .pool, .reset .pool, .reset .pool, .reset .pool, .reset .pool, .reset .pool,
    .reset .pool, .reset .pool, .reset .pool, .reset .pool, .reset .pool, .reset .pool, .reset .pool, .reset .pool,
    .reset .pool]
  sp := []
  empties := []
  mb := Vector.replicate 64 0
  fmt := Vector.replicate 12 fmtRaw
  launch := none
  job := 0
  taskCtl := 0xC0F7
  queues := #v[[], [], [], []]
  overflow := #v[[], [], [], []]
  gates := []
  nextGate := 0
  inbound := []
  startedAt := 0
  icache := []
  blockBuf := #v[none, none]
  ro := []
  tlb := []
  msgIn := []
  arrivals := []
  spillQ := []

/-- A cluster barrier (16 R356). -/
structure Barrier where
  owner : Option Nat
  count : BitVec 16
  arrived : BitVec 16
  gen : BitVec 32
  deriving DecidableEq, Repr, Inhabited

def Barrier.reset : Barrier := ⟨none, 0, 0, 0⟩

/-- A running launch (16 R332-R339). `sent` and `accepted` are the job's counts of task packets for it. -/
structure Launch where
  id : Nat
  q : Fin 64
  tag : BitVec 32
  job : BitVec 32
  stack : Fin 6
  rx : Nat
  ry : Nat
  lw : Nat
  lh : Nat
  root : Word
  tsave : Word
  sup : BitVec 32
  sent : Nat
  accepted : Nat
  deriving DecidableEq, Repr, Inhabited

/-- What one step leaves for the next to perform: a slot issues its word again (15 R313), or an event the step caused. -/
inductive Todo
  | issue (w : Who)
  | deliveryFail (did : Nat)
  | fillFail (name : Word) (v : BitVec 32)
  | guestLost (w : Who)
  /-- an answer made on this module to a packet that failed (12 R251) -/
  | answer (p : Packet)
  deriving DecidableEq, Repr

/-- The core lies in the launch's rectangle (16 R332). -/
def Launch.has (l : Launch) (c : CoreId) : Bool :=
  decide (c.stack = l.stack) && decide (l.rx ≤ c.x.val) && decide (c.x.val < l.rx + 2 ^ l.lw) &&
    decide (l.ry ≤ c.y.val) && decide (c.y.val < l.ry + 2 ^ l.lh)

/-- The core's rank within its launch (16 R332). -/
def Launch.rank (l : Launch) (c : CoreId) : Nat := (c.y.val - l.ry) * 2 ^ l.lw + (c.x.val - l.rx)

/-- The cluster of a core (01 R17). -/
def clusterOf (c : CoreId) : ClusterId :=
  ⟨c.stack, Fin.ofNat 256 (c.y.val / 2 * 16 + c.x.val / 4)⟩

/-- A core's index within its cluster (16 R343). -/
def clusterIdx (c : CoreId) : Nat := c.y.val % 2 * 4 + c.x.val % 4

/-- The eight cores of a cluster, in cluster order (01 R17, 16 R343). -/
def coresOf (c : ClusterId) : List CoreId :=
  (List.range 8).map fun i =>
    ⟨c.stack, Fin.ofNat 64 (c.num.val % 16 * 4 + i % 4), Fin.ofNat 32 (c.num.val / 16 * 2 + i / 4)⟩

/-- The layout of the control register `core` (02 R38). -/
def coreWord (m : Fin 4096) (c : CoreId) : BitVec 32 :=
  BitVec.ofNat 32 (m.val * 65536 + c.stack.val * 4096 + c.x.val * 32 + c.y.val)

/-- A value in the layout of `core`: no bit outside its fields, and a stack of 0 to 5 (02 R38, 01 R16). -/
def coreOf (w : BitVec 32) : Option (Fin 4096 × CoreId) :=
  if w &&& 0xF0008800#32 = 0 then
    let st := w.toNat / 4096 % 8
    if h : st < 6 then
      some (Fin.ofNat 4096 (w.toNat / 65536), ⟨⟨st, h⟩, Fin.ofNat 64 (w.toNat / 32), Fin.ofNat 32 w.toNat⟩)
    else none
  else none

end Sys2Proof.Machine
end

