-- ==== Sys2Proof/Machine/Parts/Engine.lean ====
section
/-! DEFINITION. A cluster's matrix engine, B-store, barriers and copy-unit translation cache (11 R225-R236, 07 R161, 16 R356). -/

namespace Sys2Proof.Machine

/-- An accumulator bank: (row × 64 + column, element) in rising order; an unlisted element is −0.0, a listed one is not. -/
abbrev AccBank := List (Nat × BitVec 32)

/-- The running job or clear. -/
structure RunJob where
  who : Who
  num : Word
  deriving DecidableEq, Repr

/-- The running drain: its packets not yet performed are those of its flow in the network (11 R235). -/
structure RunDrain where
  who : Who
  num : Word
  sent : Nat
  performed : Nat
  deriving DecidableEq, Repr, Inhabited

/-- A cluster: its engine and what its cores share. -/
structure Engine where
  banks : Vector AccBank 4
  claims : Vector (Option Who) 4
  queue : List (Who × Word)
  /-- the context served last, as core index × 16 + slot -/
  rr : Nat
  job : Option RunJob
  drain : Option RunDrain
  bstore : Memory
  barriers : Vector Barrier 16
  /-- the core index of the last served thief (16 R343) -/
  thief : Nat
  ctlb : List TlbEntry
  /-- the context the copy unit served last, as core index × 16 + slot (07 R148) -/
  crr : Nat
  deriving DecidableEq, Repr

/-- An engine after module reset (11 R225; log entries 2 and 4). -/
def Engine.reset : Engine where
  banks := #v[[], [], [], []]
  claims := Vector.replicate 4 none
  queue := []
  rr := 127
  job := none
  drain := none
  bstore := []
  barriers := Vector.replicate 16 .reset
  thief := 7
  ctlb := []
  crr := 127

end Sys2Proof.Machine
end

