-- ==== Sys2Proof/Machine/Parts/Fabric.lean ====
section
/-! DEFINITION. Packets in flight, links, Erg ports and switches (06 R128-R139, 12 R246-R253). -/

namespace Sys2Proof.Machine

/-- What a posted release of a slot, or an access behind one, waits for: stores of slots below a number, the slot's own and those it
carries, and the slot's remote writes and local increments (12 R260, 14 R293, R299, R419). -/
structure Hold where
  who : Who
  stores : List (Who × Nat)
  acks : List Nat
  deriving DecidableEq, Repr, Inhabited

/-- A place on a packet's way: a router of a vector-scalar die, or a module of a UCIe link (06 R126, R127, R137). -/
inductive Hop
  | router (die : Fin 6) (row : Fin 8) (col : Fin 10)
  | link (l : LinkId) (m : Fin 8)
  deriving DecidableEq, Repr, Inhabited

/-- A remote access under way at its target: its parts still to be performed, as (offset, physical address, length, through), and what the
others gave (12 R254, 14 R302). `bad` notes a poisoned word. -/
structure Work where
  parts : List (Nat × Nat × Nat × Bool)
  got : List (Nat × List Byte)
  bad : Bool
  deriving DecidableEq, Repr, Inhabited

/-- A packet in flight on the module, with its sequence number in its flow and its route (06 R128, R129). -/
structure Flight where
  pkt : Packet
  seq : BitVec 8
  route : List Hop
  /-- the router buffer it was injected into; none for one that starts and ends at the I/O die -/
  buf : Option BufId
  /-- the cycle in which it came to the head of that buffer's channel (06 R134, R135) -/
  headAt : Option Nat
  /-- promoted (06 R134), or on the escape channel (06 R135) -/
  promoted : Bool
  esc : Bool
  hold : Option Hold
  /-- a remote request held on an uncommitted page (12 R254) -/
  waits : Bool
  work : Option Work
  deriving DecidableEq, Repr

/-- A flow: source, destination with the agent there, class (06 R128, 12 R248). -/
abbrev Flow := Src × Dst × Party × TClass

/-- The state of a link or port (06 R139, 12 R251): retraining since a cycle. -/
inductive LinkSt | up | retrain (since : Nat) | lost
  deriving DecidableEq, Repr, Inhabited

/-- A UCIe link: consecutive failed replays of the flit at the head (06 R139). -/
structure Ucie where
  st : LinkSt
  replays : Nat
  deriving DecidableEq, Repr, Inhabited

def Ucie.reset : Ucie := ⟨.up, 0⟩

/-- An Erg port (12 R249-R251). -/
structure Port where
  st : LinkSt
  /-- number of the next new flit -/
  seq : Fin 4096
  /-- the replay buffer: flits sent and not acknowledged, oldest first -/
  unacked : List Flit
  /-- packets still to be sent, and the bytes of the first that earlier flits carry -/
  waiting : List Packet
  offset : Nat
  /-- next number to deliver -/
  expect : Fin 4096
  /-- missing numbers, each with the cycle of its last NAK and how many NAKs were sent -/
  gaps : List (Fin 4096 × Nat × Nat)
  /-- flits held for reordering, with their numbers -/
  held : List (Fin 4096 × List (Fin 4096 × Packet))
  /-- NAKs received of flits in the replay buffer, with their counts -/
  naks : List (Fin 4096 × Nat)
  /-- NAKs to send, and NAKed flits to send again -/
  toNak : List (Fin 4096)
  resend : List (Fin 4096)
  discarded : Nat
  /-- the flit on the link towards the switch -/
  line : Option Flit
  deriving DecidableEq, Repr

/-- A port after reset (log entry 4). -/
def Port.reset : Port := ⟨.up, 0, [], [], 0, 0, [], [], [], [], [], 0, none⟩

/-- A combined request in a wait buffer (12 R252): the request that went on with both addends, the request it carries, and its own addend. -/
structure Combined where
  a : Packet
  b : Packet
  addA : Word
  deriving DecidableEq, Repr

/-- A packet in a Barchan switch (12 R247, R248, R253). -/
structure SwPacket where
  /-- its source module -/
  mod : Fin 4096
  pkt : Packet
  input : Nat
  /-- the output it waits for; none for a multicast, whose outputs its group's mask gives -/
  out : Option Nat
  /-- the middle-stage link its flow took -/
  lane : Nat
  /-- outputs it has reserved and not yet passed -/
  reserved : List Nat
  headAt : Option Nat
  promoted : Bool
  esc : Bool
  deriving DecidableEq, Repr

/-- A Barchan switch of a plane: its queues, its wait buffer, combined replies it still has to split, its group table (group and outputs), and
what left by each output of the last stage for another module (12 R252, R253). -/
structure Switch where
  queue : List SwPacket
  wait : List Combined
  replies : List Packet
  groups : List (Nat × List Nat)
  out : List (Nat × Packet)
  deriving DecidableEq, Repr

def Switch.reset : Switch := ⟨[], [], [], [], []⟩

end Sys2Proof.Machine
end

