-- ==== Sys2Proof/Machine/Parts/Host.lean ====
section
/-! DEFINITION. The host's queue pairs, event queue and firmware state (18 R383-R392). -/

namespace Sys2Proof.Machine

/-- An accepted submission of a queue pair: its tag, the launch it started if any, the cycle of its start, and its
completion record once ready: status, reason, failed items, cycles (18 R385). -/
structure Pending where
  tag : BitVec 32
  launch : Option Nat
  start : Nat
  failed : Nat
  done : Option (Nat × Nat × Nat × Nat)
  deriving DecidableEq, Repr, Inhabited

/-- A queue pair (18 R384): rings of `2 ^ n` entries at host addresses, the submission head, the completion tail, and how
many completion entries the host has free. -/
structure QueuePair where
  n : Nat
  sub : Nat
  cpl : Nat
  head : Nat
  cplTail : Nat
  cplFree : Nat
  pending : List Pending
  deriving DecidableEq, Repr, Inhabited

/-- The kinds of event the manual names; their codes are not given (18 R391). -/
inductive EventKind
  | poison | spillFail | pageCommit | versionTable | suspicion | splitterRequest | fpException | errEntry | portLost
  deriving DecidableEq, Repr, Inhabited

/-- An event entry (18 R391). -/
structure Event where
  kind : EventKind
  die : DieId
  count : Nat
  detail : List Nat
  cycle : Nat
  deriving DecidableEq, Repr, Inhabited

/-- The state of a die for reset (18 R390): draining since a cycle. -/
inductive DieSt | up | draining (since : Nat) | fenced
  deriving DecidableEq, Repr, Inhabited

/-- What a frame to the host carries: bytes for an address in its memory. -/
structure HostWrite where
  addr : Nat
  data : List Byte
  deriving DecidableEq, Repr, Inhabited

/-- A Jormal frame from the device: its number, the acknowledgement, a NAK, and what it carries, nothing where it is idle (18 R383, 12 R249). -/
structure Frame where
  seq : Fin 4096
  ack : Fin 4096
  nak : Option (Fin 4096)
  load : Option HostWrite
  deriving DecidableEq, Repr, Inhabited

/-- The Jormal link of the device (18 R383, 12 R250): the number of the next new frame, the replay buffer, what is still to be sent, NAKed frames
to send again; the next number to deliver, held frames, missing numbers with the cycle of their last NAK, NAKs to send, frames delivered, and
the frame on the link. -/
structure Jormal where
  seq : Fin 4096
  unacked : List (Fin 4096 × HostWrite)
  waiting : List HostWrite
  resend : List (Fin 4096)
  expect : Fin 4096
  held : List (Fin 4096 × List Byte)
  gaps : List (Fin 4096 × Nat)
  toNak : List (Fin 4096)
  delivered : List (List Byte)
  line : Option Frame
  deriving DecidableEq, Repr

/-- A link that has carried nothing (log entry 4). -/
def Jormal.reset : Jormal := ⟨0, [], [], [], 0, [], [], [], [], none⟩

/-- The security processor's state (18 R388, R389): digests of the running images, the fuse value, the identity,
the last report, the next leaf of the LMS identity key. -/
structure Firmware where
  images : List (BitVec 384)
  fuse : Nat
  part : List Byte
  serial : List Byte
  report : Option (List Byte × List Byte × List Byte)
  leaf : Nat
  deriving DecidableEq, Repr

/-- A launch's request for splitters that waits for the host (13 R286). -/
structure SplitReq where
  job : BitVec 32
  chan : Fin 16
  seq : Nat
  g : List Word
  w : Word
  deriving DecidableEq, Repr, Inhabited

end Sys2Proof.Machine
end

