-- ==== Sys2Proof/Machine/Parts/Tiles.lean ====
section
/-! DEFINITION. The version tables of the slices (05 R98-R111). -/

namespace Sys2Proof.Machine

/-- The states of a version entry (05 R102). -/
inductive VState | absent | filling | present | dead
  deriving DecidableEq, Repr, Inhabited

/-- A waiter record (05 R107): a load with its destination and references, or a gate of a core's task unit. -/
inductive Waiter
  | load (src : Agent) (job : BitVec 32) (id addr j : Nat)
  | gate (mod : Fin 4096) (core : CoreId) (gid : Nat)
  deriving DecidableEq, Repr, Inhabited

/-- Where a version's bytes stand (05 R108). -/
inductive Storage | none | pool | frame
  deriving DecidableEq, Repr, Inhabited

/-- A version entry (05 R101). A filling entry also holds what its claim gave. -/
structure VerEntry where
  v : BitVec 32
  st : VState
  persistent : Bool
  count : Nat
  outst : Nat
  storage : Storage
  ev : Fin 4
  data : List Byte
  waiters : List Waiter
  producer : Agent
  /-- the producer's job, and the number of its request -/
  pjob : BitVec 32
  pid : Nat
  addr : Nat
  refs : Nat
  /-- moved to the overflow table (05 R109) -/
  spilled : Bool
  /-- the cycles in which it was last touched (05 R109) and last loaded (05 R108) -/
  touched : Nat
  loaded : Nat
  deriving DecidableEq, Repr

/-- A claim parked on the live limit (05 R106), with its number among the slices' requests. `lacks` is what it waits for now: a parking
reason's code. -/
structure Claim where
  src : Agent
  job : BitVec 32
  id : Nat
  arr : Nat
  lacks : Nat
  v : BitVec 32
  c : Nat
  refs : Nat
  ev : Fin 4
  addr : Nat
  deriving DecidableEq, Repr, Inhabited

/-- A name record (05 R101) with the `tfloor` or `tdel` that waits for its fills (05 R120, R123). -/
structure NameRec where
  name : Word
  c : Nat
  floor : BitVec 32
  limit : Nat
  exhausted : Bool
  vers : List VerEntry
  parked : List Claim
  pend : List (Agent × Nat × Option (BitVec 32))
  deriving DecidableEq, Repr

/-- A delivery sent and not yet closed (05 R110, R111), with the requester's job: `noticed` once its arrival notice has been performed. -/
structure Delivery where
  did : Nat
  name : Word
  v : BitVec 32
  j : Nat
  dst : Agent
  job : BitVec 32
  /-- the number of the requester's request -/
  id : Nat
  noticed : Bool
  deriving DecidableEq, Repr, Inhabited

/-- A request held at its slice, with its number among the slices' requests, for want of an entry (code 9) or of tile space (code 10), or for
a delivery to end (code 6) (05 R101, R108, R109). -/
structure HeldTile where
  req : TileReq
  arr : Nat
  code : Nat
  deriving DecidableEq, Repr

end Sys2Proof.Machine
end

