-- ==== Sys2Proof/Machine/Parts/Slices.lean ====
section
/-! DEFINITION. What the slices and the stacks hold beside the data: reservation tables, pending commits, frame pools
(04 R83, R85, 06 R140). -/

namespace Sys2Proof.Machine

/-- A line of a reservation table (06 R140). -/
structure ResLine where
  line : Nat
  serial : Nat
  stamp : BitVec 16
  deriving DecidableEq, Repr, Inhabited

/-- The reservation table of one slice, oldest reservation first, with the slice's serial count (06 R140). -/
structure ResTab where
  lines : List ResLine
  serial : Nat
  deriving DecidableEq, Repr, Inhabited

/-- A page of a pending-commit table (04 R83): the table root and the page's number (virtual address divided by 32 KiB). -/
structure PendPage where
  root : Word
  page : Nat
  deriving DecidableEq, Repr, Inhabited

end Sys2Proof.Machine
end

