-- ==== Sys2Proof/Machine/Parts/Views.lean ====
section
/-! DEFINITION. Membership views and the collective messages a module holds (13 R264-R272). -/

namespace Sys2Proof.Machine

/-- A module's standing in a job (13 R267). -/
inductive Standing | outside | member | changing | isolated | joining
  deriving DecidableEq, Repr, Inhabited

/-- An installed view (13 R266); number 0 with an empty bitmap where none was ever installed. -/
structure View where
  num : BitVec 32
  bitmap : BitVec 4096
  deriving DecidableEq, Repr, Inhabited

/-- A proposal: its leader, number, bitmap, and whether it admits a joiner (13 R269, R271). -/
structure Proposal where
  leader : Fin 4096
  num : BitVec 32
  bitmap : BitVec 4096
  join : Bool
  deriving DecidableEq, Repr, Inhabited

/-- A leader's own proposal with the ACCEPTs gathered (13 R269). -/
structure Campaign where
  prop : Proposal
  at_ : Nat
  accepts : List (Fin 4096 × List (Fin 16 × Nat))
  deriving DecidableEq, Repr, Inhabited

/-- One job's view at this module. -/
structure JobView where
  job : BitVec 32
  standing : Standing
  view : View
  /-- the accepted proposal, and the cycle at which it was accepted -/
  accepted : Option Proposal
  acceptedAt : Nat
  /-- the highest number ever accepted, with its leader (13 R269) -/
  best : Option (BitVec 32 × Fin 4096)
  campaign : Option Campaign
  suspects : List (Fin 4096)
  joiners : List (Fin 4096)
  /-- cycle at which the last packet of each module arrived -/
  heard : List (Fin 4096 × Nat)
  lastBeat : Nat
  /-- view agreement and splitter choice host-assisted, as the first leader fixed them (18 R386) -/
  modes : Option (BitVec 2)
  chans : Vector Nat 16
  inbox : List (CollTag × CollBody)
  deriving DecidableEq, Repr

/-- A job of which no view was ever installed here (13 R282). -/
def JobView.fresh (job : BitVec 32) : JobView :=
  ⟨job, .outside, ⟨0, 0⟩, none, 0, none, none, [], [], [], 0, none, Vector.replicate 16 0, []⟩

/-- The module belongs to the job's view (13 R267). -/
def JobView.inside (v : JobView) : Bool := decide (v.standing = .member) || decide (v.standing = .changing)

/-- The module is in the bitmap. -/
def View.has (v : View) (m : Fin 4096) : Bool := v.bitmap.getLsbD m.val

/-- The members, lowest first (13 R266). -/
def View.members (v : View) : List (Fin 4096) := (List.finRange 4096).filter v.has

/-- The member count (13 R266). -/
def View.count (v : View) : Nat := v.members.length

/-- A module's rank: the number of members with a lower module number (13 R266). -/
def View.rank (v : View) (m : Fin 4096) : Nat := (v.members.filter (· < m)).length

end Sys2Proof.Machine
end

