-- ==== Sys2Proof/Machine/State.lean ====
section
/-! DEFINITION. The state of one module: everything the manual gives it (INVENTORY.md, State), as plain data. -/

namespace Sys2Proof.Machine

/-- Why a run stops. -/
inductive Fault
  /-- raised by `step` alone, when the module has powered down (18 R392) and no event from outside is waiting.
  Safe: the manual gives a powered-down module nothing to do. -/
  | poweredOff
  deriving DecidableEq, Repr

/-- Why an instruction has no meaning here. -/
inductive Refusal
  /-- raised by an arm of `exec` whose instruction is not modelled. Safe: nothing can be proved of it. -/
  | notModelled (mnemonic : String)
  deriving DecidableEq, Repr

/-- The module. The fields of the model's own are `agenda`, `todo`, `cur`, `turn` and `fresh` (log entry 1). -/
structure State where
  modId : Fin 4096
  domainMax : Fin 4096
  cores : List (CoreId × Core)
  engines : List (ClusterId × Engine)
  launches : List Launch
  nextLaunch : Nat
  /-- cycles since module reset (02 R38) -/
  cycle : Nat
  mem : Memory
  /-- words whose HBM4 copy is older, with that copy, by rising word index (04 R78, R92) -/
  stale : List (Nat × Word)
  poison : List Nat
  resTabs : Vector ResTab 192
  pools : Vector (List Nat) 7
  pend : Vector (List PendPage) 6
  names : List NameRec
  deliveries : List Delivery
  nextDid : Nat
  /-- the requests held at the slices, in arrival order (05 R109), and the number of the next request to be held or parked -/
  tileHeld : List HeldTile
  tileSeq : Nat
  net : List Flight
  pins : List Flow
  /-- the next sequence number of each flow that has sent a packet (06 R128) -/
  flowSeq : List (Flow × BitVec 8)
  ucieNb : Vector Ucie 6
  ucieIo : Vector Ucie 6
  ports : Vector Port 16
  switches : List (Nat × Switch)
  views : List JobView
  splitReqs : List SplitReq
  qpairs : Vector QueuePair 64
  events : List Event
  /-- entries the host's event queue has free -/
  eventRoom : Nat
  dieBuf : Vector (List Event) 7
  /-- events a unit holds while its die's buffer is full -/
  dieHeld : Vector (List Event) 7
  dies : Vector DieSt 7
  hostMem : Memory
  jormal : Jormal
  firmware : Firmware
  settings : Settings
  modes : Modes
  clock : Nat
  celsius : Nat
  /-- 105 °C has been reached: every die is being fenced, then the module powers down (18 R392) -/
  hot : Bool
  powered : Bool
  /-- management counters: corrected errors (04 R71), discarded `smsg` answers (17 R371) -/
  corrected : Nat
  discards : Nat
  /-- events from outside, each with the cycle it comes in -/
  agenda : List (Nat × Instr)
  todo : List Todo
  cur : Who
  turn : Nat
  fresh : Nat
  deriving DecidableEq, Repr

/-- The slot named where no instruction is being issued. -/
def whoReset : Who := ⟨⟨0, 0, 0⟩, 0⟩

/-- The part number FRN-EVK4-LQ (00 R1, 18 R389), in ASCII (log entry 28). -/
def partNumber : List Byte := [70, 82, 78, 45, 69, 86, 75, 52, 45, 76, 81]

/-- The module right after reset (02 R36-R38, 18 R387; log entries 2 to 5). -/
def State.reset : State where
  modId := 0
  domainMax := 4095
  cores := []
  engines := []
  launches := []
  nextLaunch := 0
  cycle := 0
  mem := []
  stale := []
  poison := []
  resTabs := Vector.replicate 192 ⟨[], 0⟩
  pools := Vector.replicate 7 []
  pend := Vector.replicate 6 []
  names := []
  deliveries := []
  nextDid := 0
  tileHeld := []
  tileSeq := 0
  net := []
  pins := []
  flowSeq := []
  ucieNb := Vector.replicate 6 .reset
  ucieIo := Vector.replicate 6 .reset
  ports := Vector.replicate 16 .reset
  switches := []
  views := []
  splitReqs := []
  qpairs := Vector.replicate 64 ⟨4, 0, 0, 0, 0, 16, []⟩
  events := []
  eventRoom := 0
  dieBuf := Vector.replicate 7 []
  dieHeld := Vector.replicate 7 []
  dies := Vector.replicate 7 .up
  hostMem := []
  jormal := .reset
  firmware := ⟨[], 0, partNumber, [], none, 0⟩
  settings := .reset
  modes := .reset
  clock := 1700
  celsius := 0
  hot := false
  powered := true
  corrected := 0
  discards := 0
  agenda := []
  todo := []
  cur := whoReset
  turn := 0
  fresh := 0

end Sys2Proof.Machine
end

