-- ==== Sys2Proof/Machine/Mem.lean ====
section
/-! DEFINITION. Byte strings, sparse memories and association lists. -/

namespace Sys2Proof.Machine

/-- The number little-endian bytes stand for (00 R4). -/
def leNat : List Byte → Nat
  | [] => 0
  | b :: r => b.toNat + 256 * leNat r

/-- The low `n` bytes of a number, little-endian (00 R4). -/
def leBytes : Nat → Nat → List Byte
  | 0, _ => []
  | n + 1, x => BitVec.ofNat 8 x :: leBytes n (x / 256)

/-- A byte of a memory. -/
def Memory.get : Memory → Nat → Byte
  | [], _ => 0
  | (k, b) :: r, a => if k = a then b else Memory.get r a

/-- A memory with one byte changed, in canonical form. -/
def Memory.put : Memory → Nat → Byte → Memory
  | [], a, x => if x = 0 then [] else [(a, x)]
  | (k, b) :: r, a, x =>
    if a < k then (if x = 0 then (k, b) :: r else (a, x) :: (k, b) :: r)
    else if a = k then (if x = 0 then r else (a, x) :: r)
    else (k, b) :: Memory.put r a x

/-- `n` bytes from an address. -/
def Memory.read (m : Memory) : Nat → Nat → List Byte
  | _, 0 => []
  | a, n + 1 => m.get a :: Memory.read m (a + 1) n

/-- Bytes written from an address on. -/
def Memory.write (m : Memory) : Nat → List Byte → Memory
  | _, [] => m
  | a, b :: r => Memory.write (m.put a b) (a + 1) r

/-- `n` bytes from an address, as a little-endian number. -/
def Memory.num (m : Memory) (a n : Nat) : Nat := leNat (m.read a n)

/-- The 8-byte word at an address. -/
def Memory.word (m : Memory) (a : Nat) : Word := BitVec.ofNat 64 (m.num a 8)

/-- A number written as `n` little-endian bytes. -/
def Memory.setNum (m : Memory) (a n x : Nat) : Memory := m.write a (leBytes n x)

/-- The value of a key, or a default. -/
def assocD {κ ν : Type} [DecidableEq κ] : List (κ × ν) → κ → ν → ν
  | [], _, d => d
  | (k, v) :: r, a, d => if k = a then v else assocD r a d

/-- A key set to a value. -/
def assocSet {κ ν : Type} [DecidableEq κ] : List (κ × ν) → κ → ν → List (κ × ν)
  | [], a, x => [(a, x)]
  | (k, v) :: r, a, x => if k = a then (k, x) :: r else (k, v) :: assocSet r a x

/-- An element put into a rising list, after its equals. -/
def insertBy {α : Type} (f : α → Nat) (x : α) : List α → List α
  | [] => [x]
  | y :: r => if f y ≤ f x then y :: insertBy f x r else x :: y :: r

/-- A list by a rising number; equals keep their order. -/
def sortBy {α : Type} (f : α → Nat) (l : List α) : List α := l.foldl (fun r x => insertBy f x r) []

/-- A vector mapped, through its list. -/
def mapV {α β : Type} {n : Nat} (f : α → β) (v : Vector α n) : Vector β n := ⟨⟨v.toList.map f⟩, by simp⟩

/-- A rising list of numbers with one added. -/
def insertNat : List Nat → Nat → List Nat
  | [], a => [a]
  | k :: r, a => if a < k then a :: k :: r else if a = k then k :: r else k :: insertNat r a

/-- A rising list of numbers without one. -/
def eraseNat : List Nat → Nat → List Nat
  | [], _ => []
  | k :: r, a => if a = k then r else k :: eraseNat r a

/-- The indices of the 8-byte words that hold a byte of the access (08 R179). -/
def wordsOf (a n : Nat) : List Nat := (List.range ((a + n + 7) / 8 - a / 8)).map (a / 8 + ·)

/-- The bytes of a vector register, lanes in address order (08 R178). -/
def vBytes (v : VWord) : List Byte := leBytes 64 v.toNat

/-- A vector register from its bytes. -/
def vOf (bs : List Byte) : VWord := BitVec.ofNat 512 (leNat bs)

/-- Sign-extension of the low `n` bits to 64 (02 R45). -/
def sext (x : Nat) (n : Nat) : Word := BitVec.ofInt 64 ((BitVec.ofNat n x).toInt)

end Sys2Proof.Machine
end

