-- ==== Sys2Proof/Machine/Crypto.lean ====
section
/-! DEFINITION. The digests and signatures 18 R388 and R389 name: SHA-256 and SHA-384 (FIPS 180-4), ECDSA over P-384 (FIPS 186-5), and LMS with
LMS_SHA256_M32_H20 and LMOTS_SHA256_N32_W8 (RFC 8554). The manual names them and leaves their text to those standards (log entry 28). -/

namespace Sys2Proof.Machine

/-! ## SHA-2 -/

/-- The round constants of the 64-bit functions; those of the 32-bit ones are their upper halves. -/
def shaK : List Nat :=
  [0x428a2f98d728ae22, 0x7137449123ef65cd, 0xb5c0fbcfec4d3b2f, 0xe9b5dba58189dbbc] ++
  [0x3956c25bf348b538, 0x59f111f1b605d019, 0x923f82a4af194f9b, 0xab1c5ed5da6d8118] ++
  [0xd807aa98a3030242, 0x12835b0145706fbe, 0x243185be4ee4b28c, 0x550c7dc3d5ffb4e2] ++
  [0x72be5d74f27b896f, 0x80deb1fe3b1696b1, 0x9bdc06a725c71235, 0xc19bf174cf692694] ++
  [0xe49b69c19ef14ad2, 0xefbe4786384f25e3, 0x0fc19dc68b8cd5b5, 0x240ca1cc77ac9c65] ++
  [0x2de92c6f592b0275, 0x4a7484aa6ea6e483, 0x5cb0a9dcbd41fbd4, 0x76f988da831153b5] ++
  [0x983e5152ee66dfab, 0xa831c66d2db43210, 0xb00327c898fb213f, 0xbf597fc7beef0ee4] ++
  [0xc6e00bf33da88fc2, 0xd5a79147930aa725, 0x06ca6351e003826f, 0x142929670a0e6e70] ++
  [0x27b70a8546d22ffc, 0x2e1b21385c26c926, 0x4d2c6dfc5ac42aed, 0x53380d139d95b3df] ++
  [0x650a73548baf63de, 0x766a0abb3c77b2a8, 0x81c2c92e47edaee6, 0x92722c851482353b] ++
  [0xa2bfe8a14cf10364, 0xa81a664bbc423001, 0xc24b8b70d0f89791, 0xc76c51a30654be30] ++
  [0xd192e819d6ef5218, 0xd69906245565a910, 0xf40e35855771202a, 0x106aa07032bbd1b8] ++
  [0x19a4c116b8d2d0c8, 0x1e376c085141ab53, 0x2748774cdf8eeb99, 0x34b0bcb5e19b48a8] ++
  [0x391c0cb3c5c95a63, 0x4ed8aa4ae3418acb, 0x5b9cca4f7763e373, 0x682e6ff3d6b2b8a3] ++
  [0x748f82ee5defb2fc, 0x78a5636f43172f60, 0x84c87814a1f0ab72, 0x8cc702081a6439ec] ++
  [0x90befffa23631e28, 0xa4506cebde82bde9, 0xbef9a3f7b2c67915, 0xc67178f2e372532b] ++
  [0xca273eceea26619c, 0xd186b8c721c0c207, 0xeada7dd6cde0eb1e, 0xf57d4f7fee6ed178] ++
  [0x06f067aa72176fba, 0x0a637dc5a2c898a6, 0x113f9804bef90dae, 0x1b710b35131c471b] ++
  [0x28db77f523047d84, 0x32caab7b40c72493, 0x3c9ebe0a15c9bebc, 0x431d67c49c100d4c] ++
  [0x4cc5d4becb3e42b6, 0x597f299cfc657e2a, 0x5fcb6fab3ad6faec, 0x6c44198c4a475817]

/-- The square roots of the first sixteen primes: the start values of SHA-512 and, from the ninth, of SHA-384. SHA-256 starts from the upper
halves of the first eight. -/
def shaH : List Nat :=
  [0x6a09e667f3bcc908, 0xbb67ae8584caa73b, 0x3c6ef372fe94f82b, 0xa54ff53a5f1d36f1] ++
  [0x510e527fade682d1, 0x9b05688c2b3e6c1f, 0x1f83d9abfb41bd6b, 0x5be0cd19137e2179] ++
  [0xcbbb9d5dc1059ed8, 0x629a292a367cd507, 0x9159015a3070dd17, 0x152fecd8f70e5939] ++
  [0x67332667ffc00b31, 0x8eb44a8768581511, 0xdb0c2e0d64f98fa7, 0x47b5481dbefa4fa4]

/-- What tells the functions apart: rounds, the rotations of the two sums, and rotations and shift of the two schedule functions. -/
structure ShaKind where
  rounds : Nat
  a : Nat × Nat × Nat
  e : Nat × Nat × Nat
  s0 : Nat × Nat × Nat
  s1 : Nat × Nat × Nat

def sha32 : ShaKind := ⟨64, (2, 13, 22), (6, 11, 25), (7, 18, 3), (17, 19, 10)⟩
def sha64 : ShaKind := ⟨80, (28, 34, 39), (14, 18, 41), (1, 8, 7), (19, 61, 6)⟩

/-- A number from bytes, the first the most significant. -/
def beNat (l : List Byte) : Nat := l.foldl (fun n b => n * 256 + b.toNat) 0

/-- The bytes of a number, most significant first. -/
def beBytes (n x : Nat) : List Byte := (leBytes n x).reverse

def rot3 {w : Nat} (r : Nat × Nat × Nat) (x : BitVec w) : BitVec w := x.rotateRight r.1 ^^^ x.rotateRight r.2.1 ^^^ x.rotateRight r.2.2
def rotShift {w : Nat} (r : Nat × Nat × Nat) (x : BitVec w) : BitVec w := x.rotateRight r.1 ^^^ x.rotateRight r.2.1 ^^^ x >>> r.2.2

/-- One round: the eight working values and the next sixteen words of the schedule. -/
def shaRound {w : Nat} (t : ShaKind) (st : List (BitVec w) × List (BitVec w)) (k : Nat) : List (BitVec w) × List (BitVec w) :=
  match st.1, st.2 with
  | [a, b, c, d, e, f, g, h], m :: ms =>
    let x := h + rot3 t.e e + ((e &&& f) ^^^ (~~~e &&& g)) + BitVec.ofNat w k + m
    let y := rot3 t.a a + ((a &&& b) ^^^ (a &&& c) ^^^ (b &&& c))
    let at_ (i : Nat) : BitVec w := (m :: ms).getD i 0
    ([x + y, a, b, c, d + x, e, f, g], ms ++ [rotShift t.s1 (at_ 14) + at_ 9 + rotShift t.s0 (at_ 1) + m])
  | _, _ => st

/-- One block of sixteen words. -/
def shaBlock {w : Nat} (t : ShaKind) (ks : List Nat) (h : List (BitVec w)) (m : List (BitVec w)) : List (BitVec w) :=
  (h.zip ((ks.take t.rounds).foldl (shaRound t) (h, m)).1).map fun x => x.1 + x.2

/-- The words of a block. -/
def shaWords (w : Nat) (l : List Byte) : List (BitVec w) :=
  (List.range 16).map fun i => BitVec.ofNat w (beNat ((l.drop (w / 8 * i)).take (w / 8)))

/-- The message with a one bit, zeros to a whole block, and its length in bits. -/
def shaPad (w : Nat) (l : List Byte) : List Byte :=
  let b := 2 * w
  let z := (b - (l.length + 1 + w / 4) % b) % b
  l ++ [0x80] ++ List.replicate z 0 ++ beBytes (w / 4) (8 * l.length)

/-- The blocks, in order. -/
def shaBlocks {w : Nat} (t : ShaKind) (ks : List Nat) : Nat → List (BitVec w) → List Byte → List (BitVec w)
  | 0, h, _ => h
  | n + 1, h, l => shaBlocks t ks n (shaBlock t ks h (shaWords w l)) (l.drop (2 * w))

/-- A digest's bytes. -/
def sha (w : Nat) (t : ShaKind) (ks : List Nat) (h : List Nat) (l : List Byte) : List Byte :=
  let p := shaPad w l
  ((shaBlocks t ks (p.length / (2 * w)) (h.map (BitVec.ofNat w)) p).map fun x => beBytes (w / 8) x.toNat).flatten

def sha256 (l : List Byte) : List Byte := sha 32 sha32 (shaK.map (· / 2 ^ 32)) ((shaH.take 8).map (· / 2 ^ 32)) l
def sha384 (l : List Byte) : List Byte := (sha 64 sha64 shaK (shaH.drop 8) l).take 48

/-! ## ECDSA over P-384 -/

def p384P : Nat := 2 ^ 384 - 2 ^ 128 - 2 ^ 96 + 2 ^ 32 - 1
def p384B : Nat := 0xb3312fa7e23ee7e4988e056be3f82d19181d9c6efe8141120314088f5013875ac656398d8a2ed19d2a85c8edd3ec2aef
def p384N : Nat := 0xffffffffffffffffffffffffffffffffffffffffffffffffc7634d81f4372ddf581a0db248b0a77aecec196accc52973
def p384Gx : Nat := 0xaa87ca22be8b05378eb1c71ef320ad746e1d3b628ba79b9859f741e082542a385502f25dbf55296c3a545e3872760ab7
def p384Gy : Nat := 0x3617de4a96262c6f5d9e98bf9292dc29f8f41dbd289a147ce9da3113b5f0b8c00a60b1ce1d7e819d7a431d7c90ea0e5f

/-- A power modulo `m`, over `n` bits of the exponent. -/
def powMod (m b : Nat) : Nat → Nat → Nat
  | 0, _ => 1 % m
  | n + 1, e =>
    let r := powMod m b n (e / 2)
    let r := r * r % m
    if e % 2 = 1 then r * b % m else r

/-- The inverse modulo a prime. -/
def invMod (m x : Nat) : Nat := powMod m x 384 (m - 2)

/-- A difference modulo `m`. -/
def subMod (m a b : Nat) : Nat := (a + (m - b % m)) % m

/-- A point in Jacobian coordinates; the third is 0 at infinity. -/
structure Jac where
  x : Nat
  y : Nat
  z : Nat
  deriving DecidableEq, Repr

def Jac.inf : Jac := ⟨1, 1, 0⟩

def Jac.double (a : Jac) : Jac :=
  let p := p384P
  if a.z = 0 ∨ a.y = 0 then .inf
  else
    let y2 := a.y * a.y % p
    let s := 4 * a.x * y2 % p
    let z2 := a.z * a.z % p
    let m := 3 * subMod p a.x z2 * (a.x + z2) % p
    let x := subMod p (m * m) (2 * s)
    ⟨x, subMod p (m * subMod p s x) (8 * y2 * y2), 2 * a.y * a.z % p⟩

def Jac.add (a b : Jac) : Jac :=
  let p := p384P
  if a.z = 0 then b
  else if b.z = 0 then a
  else
    let za := a.z * a.z % p
    let zb := b.z * b.z % p
    let u := a.x * zb % p
    let v := b.x * za % p
    let s := a.y * zb * b.z % p
    let t := b.y * za * a.z % p
    if u = v then (if s = t then a.double else .inf)
    else
      let h := subMod p v u
      let r := subMod p t s
      let h2 := h * h % p
      let uh := u * h2 % p
      let x := subMod p (subMod p (r * r) (h2 * h)) (2 * uh)
      ⟨x, subMod p (r * subMod p uh x) (s * (h2 * h % p)), h * a.z * b.z % p⟩

/-- A multiple of a point, over `n` bits of the factor. -/
def Jac.mul (a : Jac) : Nat → Nat → Jac
  | 0, _ => .inf
  | n + 1, k =>
    let q := (a.mul n (k / 2)).double
    if k % 2 = 1 then q.add a else q

/-- The affine coordinates of a point that is not at infinity. -/
def Jac.affine (a : Jac) : Option (Nat × Nat) :=
  if a.z = 0 then none
  else
    let i := invMod p384P a.z
    let i2 := i * i % p384P
    some (a.x * i2 % p384P, a.y * i2 * i % p384P)

def p384G : Jac := ⟨p384Gx, p384Gy, 1⟩

/-- The public key of a private one. -/
def ecdsaPublic (d : Nat) : Nat × Nat := ((p384G.mul 384 d).affine).getD (0, 0)

/-- The point lies on the curve. -/
def onCurve (q : Nat × Nat) : Bool :=
  decide (q.1 < p384P) && decide (q.2 < p384P) && q.2 * q.2 % p384P == (subMod p384P (q.1 * q.1 * q.1) (3 * q.1) + p384B) % p384P

/-- The signature of a digest: r then s, 48 bytes each, for a per-signature number `k`. -/
def ecdsaSign (d k : Nat) (digest : List Byte) : List Byte :=
  let r := (ecdsaPublic k).1 % p384N
  let s := invMod p384N k * (beNat digest + r * d) % p384N
  beBytes 48 r ++ beBytes 48 s

/-- A signature of a digest verifies under a public key. -/
def ecdsaOk (q : Nat × Nat) (digest sig : List Byte) : Bool :=
  let r := beNat (sig.take 48)
  let s := beNat (sig.drop 48)
  let w := invMod p384N s
  let x := (p384G.mul 384 (beNat digest * w % p384N)).add (Jac.mul ⟨q.1, q.2, 1⟩ 384 (r * w % p384N))
  decide (sig.length = 96) && decide (digest.length = 48) && onCurve q && decide (0 < r) && decide (r < p384N) && decide (0 < s) && decide (s < p384N) &&
    (x.affine.any fun a => a.1 % p384N == r)

/-! ## LMS with LMS_SHA256_M32_H20 and LMOTS_SHA256_N32_W8 -/

/-- A hash of the key pair's identifier, a number, a tag and data. -/
def lmsHash (i : List Byte) (q tag : Nat) (d : List Byte) : List Byte := sha256 (i ++ beBytes 4 q ++ beBytes 2 tag ++ d)

/-- A chain of `n` steps from step `j`. -/
def lmsChain (i : List Byte) (q k : Nat) : Nat → Nat → List Byte → List Byte
  | 0, _, x => x
  | n + 1, j, x => lmsChain i q k n (j + 1) (lmsHash i q k (beBytes 1 j ++ x))

/-- The 34 digits of a message's hash with its checksum. -/
def lmsDigits (i : List Byte) (q : Nat) (c msg : List Byte) : List Nat :=
  let d := (lmsHash i q 0x8181 (c ++ msg)).map (·.toNat)
  d ++ (beBytes 2 ((d.map fun x => 255 - x).sum)).map (·.toNat)

/-- Piece `k` of 32 bytes. -/
def piece32 (l : List Byte) (k : Nat) : List Byte := (l.drop (32 * k)).take 32

/-- The public hash of a one-time key from the ends of its chains. -/
def lmsEnds (i : List Byte) (q : Nat) (zs : List (List Byte)) : List Byte := lmsHash i q 0x8080 zs.flatten

/-- The root a leaf's path leads to, from node `r` over `n` levels. -/
def lmsClimb (i path : List Byte) : Nat → Nat → Nat → List Byte → List Byte
  | 0, _, _, x => x
  | n + 1, k, r, x =>
    let y := piece32 path k
    lmsClimb i path n (k + 1) (r / 2) (lmsHash i (r / 2) 0x8383 (if r % 2 = 1 then y ++ x else x ++ y))

/-- A signature verifies under a public key: type 8, one-time type 4, identifier, root. The signature holds the leaf's number, the one-time
signature, the type and the path. -/
def lmsOk (key msg sig : List Byte) : Bool :=
  let i := (key.drop 8).take 16
  let q := beNat (sig.take 4)
  let c := (sig.drop 8).take 32
  let y := (sig.drop 40).take 1088
  let zs := ((lmsDigits i q c msg).zipIdx).map fun x => lmsChain i q x.2 (255 - x.1) x.1 (piece32 y x.2)
  decide (key.length = 56) && decide (beNat (key.take 4) = 8) && decide (beNat ((key.drop 4).take 4) = 4) && decide (sig.length = 1772) &&
    decide (q < 2 ^ 20) && decide (beNat ((sig.drop 4).take 4) = 4) && decide (beNat ((sig.drop 1128).take 4) = 8) &&
    decide (lmsClimb i (sig.drop 1132) 20 0 (2 ^ 20 + q) (lmsHash i (2 ^ 20 + q) 0x8282 (lmsEnds i q zs)) = key.drop 24)

/-- A private key: the identifier, and the seed of all its one-time keys (RFC 8554, appendix A). -/
structure LmsKey where
  id : List Byte
  seed : List Byte
  deriving DecidableEq, Repr

/-- The start of chain `k` of leaf `q`. -/
def LmsKey.start (key : LmsKey) (q k : Nat) : List Byte := lmsHash key.id q k (0xFF :: key.seed)

/-- A node of the tree, `n` levels above the leaves. -/
def LmsKey.node (key : LmsKey) : Nat → Nat → List Byte
  | 0, r =>
    let q := r - 2 ^ 20
    lmsHash key.id r 0x8282 (lmsEnds key.id q ((List.range 34).map fun k => lmsChain key.id q k 255 0 (key.start q k)))
  | n + 1, r => lmsHash key.id r 0x8383 (key.node n (2 * r) ++ key.node n (2 * r + 1))

/-- The public key. -/
def LmsKey.public (key : LmsKey) : List Byte := beBytes 4 8 ++ beBytes 4 4 ++ key.id ++ key.node 20 1

/-- A signature by leaf `q` with the randomizer `c`. -/
def LmsKey.sign (key : LmsKey) (q : Nat) (c msg : List Byte) : List Byte :=
  let ys := ((lmsDigits key.id q c msg).zipIdx).map fun x => lmsChain key.id q x.2 x.1 0 (key.start q x.2)
  let path := (List.range 20).map fun k => key.node k (((2 ^ 20 + q) / 2 ^ k) ^^^ 1)
  beBytes 4 q ++ beBytes 4 4 ++ c ++ ys.flatten ++ beBytes 4 8 ++ path.flatten

end Sys2Proof.Machine
end

