-- ==== Sys2Proof/Machine/Flags.lean ====
section
/-! DEFINITION. The floating-point flags and rounding directions (02 R38, 03 R57, R58). -/

namespace Sys2Proof.Machine

/-- A set of flags, in the order of the control register `flags` (02 R38). -/
abbrev FFlags := BitVec 5

def fInvalid : FFlags := 16
def fDivZero : FFlags := 8
def fOverflow : FFlags := 4
def fUnderflow : FFlags := 2
def fInexact : FFlags := 1

/-- A flag where a condition holds. -/
def flagIf (b : Bool) (f : FFlags) : FFlags := if b then f else 0

/-- The rounding directions (03 R57). -/
inductive Dir | rne | rz | rp | rm
  deriving DecidableEq, Repr, Inhabited

/-- The direction `rmode` holds. -/
def dirOf (m : BitVec 2) : Dir := if m = 0 then .rne else if m = 1 then .rz else if m = 2 then .rp else .rm

/-- The direction of an instruction; `.dyn` takes `rmode` as it stands at the issue (02 R43, 03 R57). -/
def rndDir (r : Rnd) (rmode : BitVec 2) : Dir :=
  match r with
  | .rne => .rne | .rz => .rz | .rp => .rp | .rm => .rm | .dyn => dirOf rmode

end Sys2Proof.Machine
end

