-- ==== Sys2Proof/Machine/Fp.lean ====
section
/-! DEFINITION. Floating values, their encodings, and arithmetic computed exactly and rounded once (03 R48-R66). -/

namespace Sys2Proof.Machine

/-- A decoded value; a finite one is `± m * 2 ^ e`, and `m = 0` is a signed zero. -/
inductive Fv
  | nan (sig : Bool)
  | inf (neg : Bool)
  | fin (neg : Bool) (m : Nat) (e : Int)
  deriving DecidableEq, Repr, Inhabited

/-- A result before rounding, with the flags its operation raises. A result that is no dyadic number is given by one between the
same two neighbours of every format narrow enough, so that it rounds alike. -/
abbrev FRes := Fv × FFlags

/-- A binary format: the bits of the significand with the hidden one, and of the exponent (03 R48, R50). -/
structure Fmt where
  prec : Nat
  ebits : Nat
  deriving DecidableEq, Repr

def fp32 : Fmt := ⟨24, 8⟩
def bf16 : Fmt := ⟨8, 8⟩
def fp64 : Fmt := ⟨53, 11⟩

/-- The exponent of the least subnormal. -/
def Fmt.emin (f : Fmt) : Int := 3 - 2 ^ (f.ebits - 1) - f.prec

/-- The encoding of +∞. -/
def Fmt.infBits (f : Fmt) : Nat := (2 ^ f.ebits - 1) * 2 ^ (f.prec - 1)

def Fmt.signBit (f : Fmt) : Nat := 2 ^ (f.prec + f.ebits - 1)

/-- The canonical NaN (03 R49). -/
def Fmt.qnan (f : Fmt) : Nat := f.infBits + 2 ^ (f.prec - 2)

/-- The value an encoding stands for. -/
def Fmt.decode (f : Fmt) (x : Nat) : Fv :=
  let frac := x % 2 ^ (f.prec - 1)
  let ex := x / 2 ^ (f.prec - 1) % 2 ^ f.ebits
  let neg := decide (x / f.signBit % 2 = 1)
  if ex = 2 ^ f.ebits - 1 then (if frac = 0 then .inf neg else .nan (decide (frac < 2 ^ (f.prec - 2))))
  else if ex = 0 then .fin neg frac f.emin
  else .fin neg (2 ^ (f.prec - 1) + frac) (f.emin + ex - 1)

/-- `m / 2 ^ k` rounded to an integer (03 R57). -/
def roundAt (d : Dir) (neg : Bool) (m k : Nat) : Nat :=
  let q := m / 2 ^ k
  let r := m % 2 ^ k
  let up := match d with
    | .rne => decide (2 ^ k < 2 * r) || (decide (2 * r = 2 ^ k) && decide (q % 2 = 1))
    | .rz => false
    | .rp => !neg && decide (r ≠ 0)
    | .rm => neg && decide (r ≠ 0)
  if up then q + 1 else q

/-- `m * 2 ^ e` as a multiple of `2 ^ q`, rounded. -/
def roundTo (d : Dir) (neg : Bool) (m : Nat) (e q : Int) : Nat :=
  if e ≤ q then roundAt d neg m (q - e).toNat else m * 2 ^ (e - q).toNat

/-- What a finite overflow delivers (03 R50). -/
def overflowBits (f : Fmt) (d : Dir) (neg : Bool) : Nat :=
  match d, neg with
  | .rne, _ => f.infBits
  | .rz, _ => f.infBits - 1
  | .rp, true => f.infBits - 1
  | .rp, false => f.infBits
  | .rm, true => f.infBits
  | .rm, false => f.infBits - 1

/-- A value rounded into a format, with its flags (03 R48, R50, R58); tininess is judged after rounding. -/
def Fmt.encode (f : Fmt) (d : Dir) (v : Fv) : Nat × FFlags :=
  let sg (neg : Bool) : Nat := if neg then f.signBit else 0
  match v with
  | .nan _ => (f.qnan, 0)
  | .inf neg => (sg neg + f.infBits, 0)
  | .fin neg m e =>
    if m = 0 then (sg neg, 0)
    else
      let top : Int := e + Nat.log2 m
      let q := max f.emin (top - (f.prec - 1))
      let bits := roundTo d neg m e q + (q - f.emin).toNat * 2 ^ (f.prec - 1)
      let inexact := decide (e < q) && decide (m % 2 ^ (q - e).toNat ≠ 0)
      if f.infBits ≤ bits then (sg neg + overflowBits f d neg, fOverflow ||| fInexact)
      else
        let least := f.emin + (f.prec - 1)
        let tiny := decide (top < least) &&
          !(decide (top = least - 1) && decide (roundTo d neg m e (top - (f.prec - 1)) = 2 ^ f.prec))
        (sg neg + bits, flagIf inexact fInexact ||| flagIf (inexact && tiny) fUnderflow)

/-! ## The tapered formats (03 R51-R55) -/

/-- How many consecutive bits of `mag` equal `b`, from bit `n - 1` down. -/
def runLen (mag : Nat) (b : Bool) : Nat → Nat
  | 0 => 0
  | n + 1 => if mag.testBit n = b then runLen mag b n + 1 else 0

/-- `tdec` (03 R51). -/
def tdec (n es x : Nat) : Fv :=
  let neg := x.testBit n
  let mag := x % 2 ^ n
  if mag = 0 then (if neg then .nan false else .fin false 0 0)
  else
    let b := mag.testBit (n - 1)
    let m := runLen mag b n
    let k : Int := if b then (m : Int) - 1 else -(m : Int)
    let rest := n - m - 1
    let eb := min es rest
    let nf := rest - eb
    let ex := mag / 2 ^ nf % 2 ^ eb * 2 ^ (es - eb)
    .fin neg (2 ^ nf + mag % 2 ^ nf) (k * 2 ^ es + ex - nf)

/-- The magnitude of a finite value in units of `2 ^ u`, which must not lie above its exponent. -/
def Fv.units (u : Int) : Fv → Nat
  | .fin _ m e => m * 2 ^ (e - u).toNat
  | _ => 0

/-- The nearest magnitude code: how many codes lie at or below the value, a midpoint going to the even one (03 R55). -/
def tnear (n es m : Nat) (e : Int) : Nat :=
  let u := min e (-20)
  let x := m * 2 ^ (e - u).toNat
  ((List.range (2 ^ n - 1)).filter fun c =>
    let mid := (tdec n es c).units u + (tdec n es (c + 1)).units u
    decide (mid < 2 * x) || (decide (mid = 2 * x) && decide (c % 2 = 1))).length

/-- Encoding into a tapered format (03 R55). -/
def tenc (n es : Nat) (v : Fv) : Nat × FFlags :=
  let top := 2 ^ n - 1
  match v with
  | .nan _ => (2 ^ n, fInvalid)
  | .inf neg => ((if neg then 2 ^ n else 0) + top, fOverflow ||| fInexact)
  | .fin neg m e =>
    if m = 0 then (0, 0)
    else
      let sg := if neg then 2 ^ n else 0
      let u := min e (-20)
      let x := m * 2 ^ (e - u).toNat
      if (tdec n es top).units u < x then (sg + top, fOverflow ||| fInexact)
      else
        let c := tnear n es m e
        if c = 0 then (0, fUnderflow ||| fInexact)
        else (sg + c, flagIf (decide ((tdec n es c).units u ≠ x)) fInexact)

/-! ## Element types -/

/-- The bits of an element type (03 R47). -/
def tyBits : ETy → Nat
  | .fp32 => 32 | .bf16 => 16 | .t8 => 8 | .t6 => 6 | .i32 => 32 | .i16 => 16 | .i8 => 8 | .fp64 => 64

/-- The bits of a lane of the type (03 R47, R53). -/
def laneBits : ETy → Nat
  | .fp32 => 32 | .bf16 => 16 | .t8 => 8 | .t6 => 8 | .i32 => 32 | .i16 => 16 | .i8 => 8 | .fp64 => 64

def isInt : ETy → Bool
  | .i32 => true | .i16 => true | .i8 => true
  | .fp32 => false | .bf16 => false | .t8 => false | .t6 => false | .fp64 => false

/-- The two's-complement value of the low `n` bits. -/
def toSigned (n x : Nat) : Int := (BitVec.ofNat n x).toInt

/-- The value of an integer. -/
def Fv.ofInt (x : Int) : Fv := .fin (decide (x < 0)) x.natAbs 0

/-- The value of an element's bits; integers are signed (03 R47, R51). -/
def tyDecode (t : ETy) (x : Nat) : Fv :=
  match t with
  | .fp32 => fp32.decode x
  | .bf16 => bf16.decode x
  | .fp64 => fp64.decode x
  | .t8 => tdec 7 1 (x % 256)
  | .t6 => tdec 5 0 (x % 64)
  | .i32 => .ofInt (toSigned 32 x)
  | .i16 => .ofInt (toSigned 16 x)
  | .i8 => .ofInt (toSigned 8 x)

/-- A finite value rounded to an integer. -/
def roundInt (d : Dir) (neg : Bool) (m : Nat) (e : Int) : Int :=
  let r := roundTo d neg m e 0
  if neg then -(r : Int) else r

/-- The value is no integer. -/
def fractional (m : Nat) (e : Int) : Bool := decide (e < 0) && decide (m % 2 ^ (-e).toNat ≠ 0)

/-- Conversion to an integer of the range `lo` to `hi` (03 R56). -/
def toInt (d : Dir) (lo hi : Int) (v : Fv) : Int × FFlags :=
  match v with
  | .nan _ => (0, fInvalid)
  | .inf neg => (if neg then lo else hi, fInvalid)
  | .fin neg m e =>
    let x := roundInt d neg m e
    if x < lo then (lo, fInvalid) else if hi < x then (hi, fInvalid) else (x, flagIf (fractional m e) fInexact)

/-- The bits of a result in an element type (03 R48, R50, R55, R56). -/
def tyEncode (t : ETy) (d : Dir) (v : Fv) : Nat × FFlags :=
  let int (n : Nat) : Nat × FFlags :=
    let (x, f) := toInt d (-(2 ^ (n - 1) : Int)) (2 ^ (n - 1) - 1) v
    ((BitVec.ofInt n x).toNat, f)
  match t with
  | .fp32 => fp32.encode d v
  | .bf16 => bf16.encode d v
  | .fp64 => fp64.encode d v
  | .t8 => tenc 7 1 v
  | .t6 => tenc 5 0 v
  | .i32 => int 32
  | .i16 => int 16
  | .i8 => int 8

def Fv.isSig : Fv → Bool
  | .nan s => s
  | _ => false

def Fv.isNan : Fv → Bool
  | .nan _ => true
  | _ => false

/-- Invalid where an operand is a signalling NaN (03 R49). -/
def sigFlag (vs : List Fv) : FFlags := flagIf (vs.any Fv.isSig) fInvalid

/-- A result rounded into a type, with all its flags. -/
def finish (t : ETy) (d : Dir) (r : FRes) : Nat × FFlags :=
  let (x, f) := tyEncode t d r.1
  (x, f ||| r.2)

/-- A conversion between types (03 R55, R56, 09 R199, 10 R218): between integers the low bits, sign-extended where widening. -/
def convert (dst src : ETy) (d : Dir) (x : Nat) : Nat × FFlags :=
  if isInt dst && isInt src then ((BitVec.ofInt (tyBits dst) (toSigned (tyBits src) x)).toNat, 0)
  else
    let v := tyDecode src x
    finish dst d (v, sigFlag [v])

/-! ## Arithmetic (03 R48, 09 R194) -/

def Fv.neg : Fv → Fv
  | .nan s => .nan s
  | .inf n => .inf (!n)
  | .fin n m e => .fin (!n) m e

/-- A finite value as a signed multiple of `2 ^ u`. -/
def signedAt (u : Int) (neg : Bool) (m : Nat) (e : Int) : Int :=
  let x : Int := (m * 2 ^ (e - u).toNat : Nat)
  if neg then -x else x

/-- The exact sum of two finite values; an exact zero is signed as 09 R194 says. -/
def addFin (d : Dir) (n1 : Bool) (m1 : Nat) (e1 : Int) (n2 : Bool) (m2 : Nat) (e2 : Int) : Fv :=
  let u := min e1 e2
  let x := signedAt u n1 m1 e1 + signedAt u n2 m2 e2
  if x = 0 then .fin (if m1 = 0 ∧ m2 = 0 ∧ n1 = n2 then n1 else decide (d = .rm)) 0 0
  else .fin (decide (x < 0)) x.natAbs u

def fAdd (d : Dir) (a b : Fv) : FRes :=
  match a, b with
  | .fin n1 m1 e1, .fin n2 m2 e2 => (addFin d n1 m1 e1 n2 m2 e2, 0)
  | .nan _, _ => (.nan false, sigFlag [a, b])
  | _, .nan _ => (.nan false, sigFlag [a, b])
  | .inf n1, .inf n2 => if n1 = n2 then (.inf n1, 0) else (.nan false, fInvalid)
  | .inf n, .fin _ _ _ => (.inf n, 0)
  | .fin _ _ _, .inf n => (.inf n, 0)

def fSub (d : Dir) (a b : Fv) : FRes := fAdd d a b.neg

/-- The exact product. -/
def fMul (a b : Fv) : FRes :=
  match a, b with
  | .fin n1 m1 e1, .fin n2 m2 e2 => (.fin (n1 != n2) (m1 * m2) (e1 + e2), 0)
  | .nan _, _ => (.nan false, sigFlag [a, b])
  | _, .nan _ => (.nan false, sigFlag [a, b])
  | .inf n1, .inf n2 => (.inf (n1 != n2), 0)
  | .inf n1, .fin n2 m _ => if m = 0 then (.nan false, fInvalid) else (.inf (n1 != n2), 0)
  | .fin n1 m _, .inf n2 => if m = 0 then (.nan false, fInvalid) else (.inf (n1 != n2), 0)

/-- `m1 / m2` with `n` bits at least, its exponent, and a last bit that says whether it is cut off. -/
def quotient (n m1 m2 : Nat) : Nat × Int :=
  let k := n + Nat.log2 m2
  let x := m1 * 2 ^ k
  (2 * (x / m2) + (if x % m2 = 0 then 0 else 1), -(k : Int) - 1)

def fDiv (a b : Fv) : FRes :=
  match a, b with
  | .fin n1 m1 e1, .fin n2 m2 e2 =>
    if m2 = 0 then (if m1 = 0 then (.nan false, fInvalid) else (.inf (n1 != n2), fDivZero))
    else
      let (q, e) := quotient 60 m1 m2
      (.fin (n1 != n2) q (e + e1 - e2), 0)
  | .nan _, _ => (.nan false, sigFlag [a, b])
  | _, .nan _ => (.nan false, sigFlag [a, b])
  | .inf _, .inf _ => (.nan false, fInvalid)
  | .inf n1, .fin n2 _ _ => (.inf (n1 != n2), 0)
  | .fin n1 _ _, .inf n2 => (.fin (n1 != n2) 0 0, 0)

/-- The integer square root, bit by bit from bit `n - 1`. -/
def isqrtFrom (x : Nat) : Nat → Nat → Nat
  | 0, r => r
  | n + 1, r => if (r + 2 ^ n) * (r + 2 ^ n) ≤ x then isqrtFrom x n (r + 2 ^ n) else isqrtFrom x n r

def isqrt (x : Nat) : Nat := isqrtFrom x (Nat.log2 x / 2 + 1) 0

def fSqrt (a : Fv) : FRes :=
  match a with
  | .nan _ => (.nan false, sigFlag [a])
  | .inf neg => if neg then (.nan false, fInvalid) else (.inf false, 0)
  | .fin neg m e =>
    if m = 0 then (.fin neg 0 0, 0)
    else if neg then (.nan false, fInvalid)
    else
      let k : Nat := if e % 2 = 0 then 120 else 121
      let x := m * 2 ^ k
      let r := isqrt x
      (.fin false (2 * r + (if r * r = x then 0 else 1)) ((e - k) / 2 - 1), 0)

/-- `a * b + c` with the product negated or not, rounded once (09 R194). -/
def fFma (d : Dir) (negProd negC : Bool) (a b c : Fv) : FRes :=
  let (p, f) := fMul a b
  let (r, g) := fAdd d (if negProd then p.neg else p) (if negC then c.neg else c)
  (r, f ||| g)

/-- The order of two values; none where one is NaN. -/
def fOrd (a b : Fv) : Option Ordering :=
  match a, b with
  | .nan _, _ => none
  | _, .nan _ => none
  | .inf n1, .inf n2 => some (if n1 = n2 then .eq else if n1 then .lt else .gt)
  | .inf n, .fin _ _ _ => some (if n then .lt else .gt)
  | .fin _ _ _, .inf n => some (if n then .gt else .lt)
  | .fin n1 m1 e1, .fin n2 m2 e2 =>
    let u := min e1 e2
    some (compare (signedAt u n1 m1 e1) (signedAt u n2 m2 e2))

def Fv.isNeg : Fv → Bool
  | .nan _ => false
  | .inf n => n
  | .fin n _ _ => n

/-- `fmin` and `fmax` on encodings: an operand's bits, or the canonical NaN (09 R195). -/
def fMinMax (f : Fmt) (mx : Bool) (x y : Nat) : Nat × FFlags :=
  let a := f.decode x
  let b := f.decode y
  let fl := sigFlag [a, b]
  match fOrd a b with
  | none => (if a.isNan && b.isNan then f.qnan else if a.isNan then y else x, fl)
  | some .lt => (if mx then y else x, fl)
  | some .gt => (if mx then x else y, fl)
  | some .eq => (if a.isNeg = mx then y else x, fl)

/-- The floating conditions and the NaNs they raise invalid on (09 R197). -/
def fCmp (c : FCond) (a b : Fv) : Bool × FFlags :=
  let o := fOrd a b
  let quiet := sigFlag [a, b]
  let loud := flagIf o.isNone fInvalid
  match c with
  | .eq => (o == some .eq, quiet)
  | .ne => (o != some .eq, quiet)
  | .lt => (o == some .lt, loud)
  | .le => (o == some .lt || o == some .eq, loud)
  | .gt => (o == some .gt, loud)
  | .ge => (o == some .gt || o == some .eq, loud)
  | .un => (o.isNone, quiet)

/-- The class of a value in its format, as the bit `fclass` sets (09 R198). -/
def fClass (f : Fmt) (v : Fv) : Nat :=
  match v with
  | .nan s => if s then 8 else 9
  | .inf n => if n then 0 else 7
  | .fin n m _ =>
    if m = 0 then (if n then 3 else 4)
    else if m < 2 ^ (f.prec - 1) then (if n then 2 else 5)
    else if n then 1 else 6

/-! ## Operations on FP32 encodings, to nearest even, without flags (03 R59, R64, R66) -/

def add32 (x y : BitVec 32) : BitVec 32 :=
  BitVec.ofNat 32 (fp32.encode .rne (fAdd .rne (fp32.decode x.toNat) (fp32.decode y.toNat)).1).1

def sub32 (x y : BitVec 32) : BitVec 32 :=
  BitVec.ofNat 32 (fp32.encode .rne (fSub .rne (fp32.decode x.toNat) (fp32.decode y.toNat)).1).1

def mul32 (x y : BitVec 32) : BitVec 32 :=
  BitVec.ofNat 32 (fp32.encode .rne (fMul (fp32.decode x.toNat) (fp32.decode y.toNat)).1).1

def minMax32 (mx : Bool) (x y : BitVec 32) : BitVec 32 := BitVec.ofNat 32 (fMinMax fp32 mx x.toNat y.toNat).1

def add64 (x y : BitVec 64) : BitVec 64 :=
  BitVec.ofNat 64 (fp64.encode .rne (fAdd .rne (fp64.decode x.toNat) (fp64.decode y.toNat)).1).1

/-- The product of an array cell: exact, infinite above the largest FP32 value, rounded below the normal range (03 R64). -/
def cellProduct (x y : BitVec 32) : Fv :=
  match (fMul (fp32.decode x.toNat) (fp32.decode y.toNat)).1 with
  | .fin neg m e =>
    if m = 0 then .fin neg 0 0
    else if (2 ^ 24 - 1) * 2 ^ (104 - e).toNat < m * 2 ^ (e - 104).toNat then .inf neg
    else if e + Nat.log2 m < -126 then fp32.decode (fp32.encode .rne (.fin neg m e)).1
    else .fin neg m e
  | v => v

/-- One step of an array cell: `acc := rne(acc + a * b)` (03 R64). -/
def cellStep (acc x y : BitVec 32) : BitVec 32 :=
  BitVec.ofNat 32 (fp32.encode .rne (fAdd .rne (fp32.decode acc.toNat) (cellProduct x y)).1).1

/-! ## Block scales (03 R60-R63) -/

/-- A scaled element at operand fetch, in FP32 (03 R60, R62). -/
def scaled32 (v : Fv) (s : Nat) : BitVec 32 :=
  if s = 255 then 0x7FC00000
  else match v with
    | .fin n m e => BitVec.ofNat 32 (fp32.encode .rne (.fin n m (e + s - 127))).1
    | v => BitVec.ofNat 32 (fp32.encode .rne v).1

/-- The exponent of a block's scale: the smallest with `amax / 2 ^ e ≤ 2 ^ t`, clamped (03 R63). -/
def scaleExp (t : Int) (vs : List Fv) : Int :=
  let need (v : Fv) : Int := match v with
    | .nan _ => -127
    | .inf _ => 127
    | .fin _ m e => if m = 0 then -127 else e + Nat.log2 m + (if m = 2 ^ Nat.log2 m then 0 else 1) - t
  min 127 (vs.foldl (fun x v => max x (need v)) (-127))

/-- The magnitude bits and exponent bits of a tapered type, and the exponent of its maximum. -/
def taper (t : ETy) : Nat × Nat × Int := if t = .t6 then (5, 0, 4) else (7, 1, 12)

/-- A block quantised: its scale code, and each element's code with its flags (03 R63, 10 R219). -/
def quantBlock (t : ETy) (vs : List Fv) : Nat × List (Nat × FFlags) :=
  let (n, es, top) := taper t
  if vs.any Fv.isNan then (255, vs.map fun _ => (2 ^ n, fInvalid))
  else if vs.all (fun v => match v with | .fin _ m _ => m == 0 | _ => false) then (127, vs.map fun _ => (0, 0))
  else
    let e := scaleExp top vs
    ((e + 127).toNat, vs.map fun v => tenc n es (match v with | .fin s m x => .fin s m (x - e) | w => w))

/-- A block quantised: its scale code, its element codes, and the flags of all. -/
def quantise (t : ETy) (vs : List Fv) : Nat × List Nat × FFlags :=
  let (sc, l) := quantBlock t vs
  (sc, l.map (·.1), l.foldl (fun f c => f ||| c.2) 0)

end Sys2Proof.Machine
end

