-- ==== Sys2Proof/Machine/Net.lean ====
section
/-! DEFINITION. Free choices, sending a packet on the module or through an Erg port, taking one, and the failure of a packet
(06 R128-R137, 12 R246-R251). -/

namespace Sys2Proof.Machine

def State.core (s : State) (c : CoreId) : Core := assocD s.cores c .reset

def State.slot (s : State) (w : Who) : Slot := (s.core w.core).slots[w.slot]

def State.modCore (s : State) (c : CoreId) (f : Core → Core) : State :=
  { s with cores := assocSet s.cores c (f (s.core c)) }

def State.modSlot (s : State) (w : Who) (f : Slot → Slot) : State :=
  s.modCore w.core fun c => { c with slots := c.slots.set w.slot (f c.slots[w.slot]) }

/-- A choice below `n` that the manual leaves open; none is drawn where there is only one (log entry 1). -/
def State.pick (s : State) (n : Nat) : Nat × State :=
  if n ≤ 1 then (0, s) else (Config.freeNat s.fresh % n, { s with fresh := s.fresh + 1 })

/-- A fresh free word (log entry 6). -/
def State.freeWord (s : State) : Word × State := (Config.freeWord s.fresh, { s with fresh := s.fresh + 1 })

/-- An event of the machine's own that the next step performs. -/
def State.soon (s : State) (t : Todo) : State := { s with todo := s.todo ++ [t] }

/-- The flow of a packet. -/
def flowOf (p : Packet) : Flow := (p.src, p.dst, p.body.party, p.cls)

/-- The stack that homes a tile name (05 R98): name bits [51:49], and its module, bits [63:52]. -/
def tileMod (name : Word) : Fin 4096 := Fin.ofNat 4096 (name.toNat / 2 ^ 52)
def tileStack (name : Word) : Nat := name.toNat / 2 ^ 49 % 8

/-! ## Ways on the module (06 R126-R137) -/

/-- A link's state: of stack `s` to its successor, or to the I/O die. -/
def State.link (s : State) : LinkId → Ucie
  | .nb i => s.ucieNb[i]
  | .io i => s.ucieIo[i]

def State.setLink (s : State) (l : LinkId) (u : Ucie) : State :=
  match l with
  | .nb i => { s with ucieNb := s.ucieNb.set i u }
  | .io i => { s with ucieIo := s.ucieIo.set i u }

/-- A flit has crossed a link: its count of consecutive failed replays ends (06 R139). -/
def State.linkWorks (s : State) (l : LinkId) : State :=
  let u := s.link l
  if u.replays = 0 then s else s.setLink l { u with replays := 0 }

/-- The router that serves a core, a slice and a cluster (06 R126). -/
def coreRouter (c : CoreId) : Fin 6 × Fin 8 × Fin 10 := (c.stack, Fin.ofNat 8 (c.y.val / 4), Fin.ofNat 10 (c.x.val / 8 + 1))
def sliceRouter (st : Fin 6) (n : Fin 32) : Fin 6 × Fin 8 × Fin 10 :=
  (st, Fin.ofNat 8 (n.val / 4), if n.val % 4 < 2 then 0 else 9)
def clusterRouter (c : ClusterId) : Fin 6 × Fin 8 × Fin 10 :=
  (c.stack, Fin.ofNat 8 (c.num.val / 32), Fin.ofNat 10 (c.num.val % 16 / 2 + 1))

/-- The router a packet starts from; none where it comes from the I/O die or from another module (06 R137). -/
def srcRouter (me : Fin 4096) : Src → Option (Fin 6 × Fin 8 × Fin 10)
  | .slot a => if a.mod = me then some (coreRouter a.who.core) else none
  | .drain c => some (clusterRouter c)
  | .copy c => some (clusterRouter c)
  | .slice st n => some (sliceRouter st n)
  | .core c => some (coreRouter c)
  | .io => none
  | .mdl _ => none
  | .far _ _ => none

/-- The router it is bound for; none where that is the I/O die or beyond. -/
def dstRouter : Dst → Option (Fin 6 × Fin 8 × Fin 10)
  | .core c => some (coreRouter c)
  | .slice st n => some (sliceRouter st n)
  | _ => none

/-- The links between two dies, no stack standing for the I/O die (06 R137, R139): the neighbour link where it is not lost, else the two
links to the I/O die. -/
def State.linksBetween (s : State) (a b : Option (Fin 6)) : List LinkId :=
  match a, b with
  | some a, some b =>
    if a = b then []
    else if b = a + 1 ∧ s.ucieNb[a].st ≠ .lost then [.nb a]
    else if a = b + 1 ∧ s.ucieNb[b].st ≠ .lost then [.nb b]
    else [.io a, .io b]
  | some a, none => [.io a]
  | none, some b => [.io b]
  | none, none => []

/-- The routers between two routers of a die: one hop where they share a row or a column, else two (06 R127). -/
def routersOn (die : Fin 6) (a b : Fin 8 × Fin 10) (rowFirst : Bool) : List Hop :=
  if a = b then [.router die a.1 a.2]
  else if a.1 = b.1 ∨ a.2 = b.2 then [.router die a.1 a.2, .router die b.1 b.2]
  else if rowFirst then [.router die a.1 a.2, .router die a.1 b.2, .router die b.1 b.2]
  else [.router die a.1 a.2, .router die b.1 a.2, .router die b.1 b.2]

/-- The gateway column of a link at a stack: 8 towards the successor, 1 towards the predecessor, 4 towards the I/O die (06 R137). -/
def gateCol (st : Fin 6) : LinkId → Fin 10
  | .nb i => if i = st then 8 else 1
  | .io _ => 4

/-- A packet's way: over its own die to the gateway of link module `m`, over the links by that module, and from the far gateway in row `m`
to its router (06 R137). -/
def pathOf (a b : Option (Fin 6 × Fin 8 × Fin 10)) (ls : List LinkId) (m : Fin 8) (rowFirst : Bool) : List Hop :=
  match a, b, ls.head?, ls.getLast? with
  | some a, some b, some l, some r =>
    routersOn a.1 a.2 (m, gateCol a.1 l) rowFirst ++ ls.map (.link · m) ++ routersOn b.1 (m, gateCol b.1 r) b.2 rowFirst
  | some a, some b, _, _ => routersOn a.1 a.2 b.2 rowFirst
  | some a, none, some l, _ => routersOn a.1 a.2 (m, gateCol a.1 l) rowFirst ++ ls.map (.link · m)
  | none, some b, _, some r => ls.map (.link · m) ++ routersOn b.1 (m, gateCol b.1 r) b.2 rowFirst
  | _, _, _, _ => []

/-- The way of a packet by a link module (06 R137). -/
def State.wayBy (s : State) (p : Packet) (m : Fin 8) (rowFirst : Bool) : List Hop :=
  let a := srcRouter s.modId p.src
  let b := dstRouter p.dst
  pathOf a b (s.linksBetween (a.map (·.1)) (b.map (·.1))) m rowFirst

/-- The link module of a route, if it crosses a link. -/
def moduleOf (r : List Hop) : Fin 8 :=
  ((r.filterMap fun h => match h with | .link _ m => some m | .router _ _ _ => none).head?).getD 0

/-- The same way on the escape path, column-first (06 R136). -/
def State.escapeWay (s : State) (p : Packet) (r : List Hop) : List Hop := s.wayBy p (moduleOf r) false

/-- The route of a packet (06 R129, R136, R137): that of its flow while a packet of the flow is in flight; else the link module of its source's
row, for one from the I/O die any module, and row-first or column-first, of which the credits decide (log entry 39). A pinned flow takes the
escape path. -/
def State.routeFor (s : State) (p : Packet) : List Hop × State :=
  match s.net.find? fun f => f.pkt.sameFlow p with
  | some f => (if flowOf p ∈ s.pins then s.escapeWay p f.route else f.route, s)
  | none =>
    let (m, s) := match srcRouter s.modId p.src with
      | some r => (r.2.1.val, s)
      | none => s.pick 8
    let (rf, s) := if flowOf p ∈ s.pins then (1, s) else s.pick 2
    (s.wayBy p (Fin.ofNat 8 m) (rf == 0), s)

/-- The router buffer a packet is injected into: that of its agent's port at its first router, for one from the I/O die the gateway's
(06 R126, R137). -/
def bufOf (me : Fin 4096) (src : Src) (cls : TClass) (route : List Hop) : Option BufId :=
  match route.find? fun h => match h with | .router _ _ _ => true | _ => false with
  | some (.router st row col) =>
    let port : Nat := match src with
      | .slot a => if a.mod = me then 16 + a.who.core.y.val / 2 % 2 * 2 + a.who.core.x.val / 4 % 2 else 20
      | .core c => 16 + c.y.val / 2 % 2 * 2 + c.x.val / 4 % 2
      | .drain c => 16 + c.num.val / 16 % 2 * 2 + c.num.val % 2
      | .copy c => 16 + c.num.val / 16 % 2 * 2 + c.num.val % 2
      | .slice _ n => 16 + n.val % 2
      | _ => 20
    some ⟨st, row, col, Fin.ofNat 32 port, cls, false⟩
  | _ => none

/-- The data bytes of a collective message: elements of 4 bytes, histogram words and keys of 8, records (13 R265, R286, R287; log entry 47). -/
def collBytes : CollBody → Nat
  | .part _ _ d => 4 * d.length
  | .final d => 4 * d.length
  | .forward d => 4 * d.length
  | .hist _ g => 8 * g.length
  | .splits ks => 8 * ks.length
  | .recs _ r => (r.map List.length).sum
  | _ => 0

/-- The data bytes a packet carries behind its head. -/
def bodyBytes : Body → Nat
  | .rreq _ _ _ _ (.st _ d) _ => d.length
  | .rrep _ _ (.ok d) => d.length
  | .tfill _ _ _ _ d => d.length
  | .tdata _ _ d => d.length
  | .dline _ _ _ d _ => d.length
  | .home _ _ => 288
  | .roam _ _ => 288
  | .roamTo _ _ => 288
  | .task _ _ _ _ _ => 64
  | .spawnd _ _ _ _ _ _ _ => 64
  | .coll _ b => collBytes b
  | .view _ (.propose _ _ _ _ _) => 512
  | .view _ (.accept _ _ fs) => 8 * fs.length
  | .view _ (.commit _ _ _ _ fs) => 512 + 8 * fs.length
  | _ => 0

/-- The flits of a packet: its head, which carries up to 16 bytes inline, and one for each 64 bytes of data (06 R128). -/
def packetFlits (p : Packet) : Nat := if bodyBytes p.body ≤ 16 then 1 else 1 + ceilDiv (bodyBytes p.body) 64

/-- The virtual channel of a class, normal or escape (06 R130); the fabric's collective class is the fifth (12 R248). -/
def classVc (c : TClass) (esc : Bool) : Nat :=
  (match c with | .request => 0 | .reply => 1 | .notice => 2 | .bulk => 3 | .collective => 8) + (if esc then 4 else 0)

/-- The heads of the buffers' channels: one that has just come forward starts its counters (06 R134, R135). -/
def stampHeads (cycle : Nat) : List (BufId × Bool) → List Flight → List Flight
  | _, [] => []
  | seen, f :: r =>
    match f.buf with
    | none => f :: stampHeads cycle seen r
    | some b =>
      if (b, f.esc) ∈ seen then f :: stampHeads cycle seen r
      else { f with headAt := some (f.headAt.getD cycle) } :: stampHeads cycle ((b, f.esc) :: seen) r

/-- A packet of the flow is on the escape path, in a buffer or in a switch. -/
def State.escaping (s : State) (fl : Flow) : Bool :=
  s.net.any (fun g => g.esc && decide (flowOf g.pkt = fl)) || s.switches.any fun x => x.2.queue.any fun y => y.esc && decide (flowOf y.pkt = fl)

/-- The pins of flows whose last escape packet has gone are lifted (06 R135). -/
def State.livePins (s : State) : State := { s with pins := s.pins.filter s.escaping }

/-- The packets in flight replaced; new buffer heads start their counters, and a pin goes with its flow's last escape packet. -/
def State.setNet (s : State) (net : List Flight) : State := State.livePins { s with net := stampHeads s.cycle [] net }

/-- A packet put in flight on a route with the next number of its flow; a pinned flow goes on the escape path (06 R128, R135). -/
def State.launchPacket (s : State) (p : Packet) (h : Option Hold) (route : List Hop) : State :=
  let fl := flowOf p
  let seq := assocD s.flowSeq fl 0
  let s := { s with flowSeq := assocSet s.flowSeq fl (seq + 1) }
  s.setNet (s.net ++ [⟨p, seq, route, bufOf s.modId p.src p.cls route, none, false, decide (fl ∈ s.pins), h, false, none⟩])

/-! ## Planes, ports and switches (12 R246-R248) -/

/-- The ports that are not lost. -/
def State.planes (s : State) : List (Fin 16) :=
  (List.finRange 16).filter fun i => decide (s.ports[i].st ≠ .lost)

/-- A Barchan switch by its number: plane × 96 + stage × 32 + its number in the stage (12 R247). -/
def State.switch (s : State) (n : Nat) : Switch := assocD s.switches n .reset

/-- The switch and input a link leads to from an output of a switch of stage 0 or 1 (12 R247). -/
def nextSwitch (n o : Nat) : Nat × Nat := (n / 96 * 96 + (n / 32 % 3 + 1) * 32 + o / 4, n % 32 * 4 + o % 4)

/-- The input switch of a module on a plane. -/
def inSwitch (plane : Nat) (m : Fin 4096) : Nat := plane * 96 + m.val / 128

/-- The outputs a switch's table gives a group (12 R253). -/
def State.mask (s : State) (n g : Nat) : List Nat := (((s.switch n).groups.find? (·.1 == g)).map (·.2)).getD []

/-- The modules a multicast reaches from a switch by a list of its outputs (12 R247, R253). -/
def State.fanOut (s : State) (g : Nat) : Nat → Nat → List Nat → List (Fin 4096)
  | 0, _, _ => []
  | d + 1, n, outs =>
    if n / 32 % 3 = 2 then outs.map fun o => Fin.ofNat 4096 (n % 32 * 128 + o)
    else (outs.map fun o => let x := (nextSwitch n o).1; s.fanOut g d x (s.mask x g)).flatten

/-- The members of a group, as the tables of a plane give them to this module's packets; the planes' tables agree (12 R253, log entry 47). -/
def State.members (s : State) (g : Nat) : List (Fin 4096) :=
  match (List.range 16).find? fun p => (s.switch (inSwitch p s.modId)).groups.any (·.1 == g) with
  | some p => let n := inSwitch p s.modId; (s.fanOut g 3 n (s.mask n g)).eraseDups
  | none => []

/-! ## Failures on the way (12 R251, R255-R258, 05 R111, R116, 16 R345, 12 R263) -/

/-- The slot parked for a tile answer takes it. -/
def Slot.tileAnswer (sl : Slot) (name : Word) (r : Reply) : Slot :=
  match sl.wait with
  | .tile _ n => if n = name ∧ sl.reply = none then { sl with reply := some r } else sl
  | _ => sl

/-- The module a packet comes from. -/
def srcMod : Src → Option (Fin 4096)
  | .slot a => some a.mod
  | .mdl m => some m
  | .far m _ => some m
  | _ => none

/-- A packet made here for an agent here: it takes no link. -/
def State.replace (s : State) (p : Packet) : State := s.launchPacket p none []

/-- A packet sent again on the module by the ways that are left; with none it is kept back (05 R111, 12 R251). -/
def State.reroute (s : State) (p : Packet) : State :=
  let (r, s) := s.routeFor p
  s.launchPacket p none r

/-- An answer made here to what failed: to an agent of this module, or to another module over a plane that is left. -/
def State.tell (s : State) (a : Agent) (b : Body) : State :=
  if a.mod = s.modId then
    (match b with
    | .rrep _ _ _ => s.replace ⟨.mdl s.modId, .core a.who.core, .reply, b⟩
    | .rack _ _ _ => s.replace ⟨.mdl s.modId, .core a.who.core, .reply, b⟩
    | .eqEntry _ _ _ => s.replace ⟨.mdl s.modId, .core a.who.core, .reply, b⟩
    | .trep _ _ _ _ => s.replace ⟨.mdl s.modId, .core a.who.core, .reply, b⟩
    | _ => s.soon (.answer ⟨.mdl s.modId, .core a.who.core, .reply, b⟩))
  else if s.planes.isEmpty then s
  else s.soon (.answer ⟨.mdl s.modId, .mdl a.mod, .reply, b⟩)

/-- A packet sent once more: on the module by a way that is left, or by a plane that is left (05 R111, 12 R251). -/
def State.again (s : State) (p : Packet) : State :=
  match p.dst with
  | .mdl m => if m = s.modId then s.reroute p else if s.planes.isEmpty then s else s.soon (.answer p)
  | .group _ => s
  | _ => s.reroute p

/-- The version that a claim of a slot, by its number, fills. -/
def State.claimed (s : State) (a : Agent) (name : Word) (id : Nat) : Option (BitVec 32) :=
  (s.names.find? fun r => decide (r.name = name)).bind fun r =>
    (r.vers.find? fun e => e.st == .filling && decide (e.producer = a) && e.pid == id).map (·.v)

/-- The version a slot's `tstore` names. -/
def Slot.storing (sl : Slot) : Option (BitVec 32) :=
  match sl.wait with
  | .tile (.store v _ _) _ => some v
  | _ => none

/-- The grant of a claim is lost: the fill fails at its slice, and the producer traps (05 R102, R116). -/
def State.loseGrant (s : State) (a : Agent) (name : Word) (id : Nat) : State :=
  if tileMod name = s.modId then
    (match s.claimed a name id with
      | some v => s.soon (.fillFail name v)
      | none => s)
  else match (if a.mod = s.modId then Slot.storing (s.slot a.who) else none) with
    | some v => s.again ⟨.slot a, .mdl (tileMod name), .request, .fillLost name v⟩
    | none => s

/-- A thread on its way is lost: its home slot traps, or its home module is told (12 R263). -/
def State.dropGuest (s : State) (home : Agent) : State :=
  if home.mod = s.modId then s.soon (.guestLost home.who) else s.tell home (.lostGuest home)

/-- Task packets are counted as sent to, or accepted by, a core's launch (16 R339). -/
def State.countTask (s : State) (c : CoreId) (sent accepted : Nat) : State :=
  { s with launches := s.launches.map fun l =>
      if (s.core c).launch = some l.id then { l with sent := l.sent + sent, accepted := l.accepted + accepted } else l }

/-- A task packet of this module that fails is no longer counted as sent (16 R339, R345). -/
def State.uncountTask (s : State) (c : CoreId) (src : Agent) : State :=
  if src.mod ≠ s.modId then s
  else { s with launches := s.launches.map fun l => if (s.core c).launch = some l.id then { l with sent := l.sent - 1 } else l }

/-- A packet fails: those who depend on it are told (12 R251). `cause` is the error-queue cause of a write, `sub` the sub-cause of a request. -/
def State.failPacket (s : State) (cause sub : Nat) (p : Packet) : State :=
  let me := s.modId
  let peers : List (Fin 4096) := match p.dst with
    | .mdl m => [m]
    | .group g => s.members g
    | _ => [me]
  let failed (a : Agent) (id : Nat) (posted : Bool) : State :=
    if posted then peers.foldl (fun (s : State) m => s.tell a (.rack a id (some ⟨cause, m, 1⟩))) s else s.tell a (.rrep a id (.fail sub cause))
  match p.body with
  | .rreq src id _ _ _ posted => failed src id posted
  | .mbInc _ _ _ (some (a, id, _)) => failed a id true
  | .mbInc _ _ _ none => s
  | .join src id _ _ _ posted => failed src id posted
  | .rrep d id _ => s.tell d (.rrep d id (.fail sub cause))
  | .rack d id _ => s.tell d (.rack d id (some ⟨cause, (srcMod p.src).getD me, 1⟩))
  | .eqEntry d _ _ => s.tell d p.body
  | .treq r => match r.op with
    | .gate _ core gid =>
      if r.src.mod = me then s.replace ⟨.io, .core core, .notice, .gate core gid false⟩ else s.tell r.src (.gate core gid false)
    | _ => s.tell r.src (.trep r.src r.name r.id (.trap 5))
  | .trep d n id r => (if r = .granted then s.loseGrant d n id else s).tell d (.trep d n id (.trap 5))
  | .tfill name v id _ _ =>
    let s := match p.src with
      | .slot a => s.tell a (.trep a name id (.trap 5))
      | _ => s
    if tileMod name = me then s.soon (.fillFail name v) else s.again { p with body := .fillLost name v }
  | .fillLost _ _ => s.again p
  | .tdata _ _ _ => s
  | .notice d did home _ name id =>
    let s := if home = me then s.soon (.deliveryFail did) else s.again ⟨.mdl me, .mdl home, .notice, .tack did false⟩
    if home = me ∧ d.mod = me then s else s.tell d (.trep d name id (.trap 5))
  | .tack _ _ => s.again p
  | .gate _ _ _ => s.again p
  | .task src num _ c _ => (match p.dst with | .core _ => s.uncountTask c src | _ => s).tell src (.tacc src num false)
  | .spawnd src num _ _ _ _ _ => s.tell src (.tacc src num false)
  | .tacc d num _ => s.tell d (.tacc d num false)
  | .roam _ g => s.dropGuest g.home
  | .roamTo _ g => s.dropGuest g.home
  | .home g _ => s.dropGuest g.home
  | .lostGuest _ => s.again p
  | .guestAt _ _ => s.again p
  | .msg _ _ => s.again p
  | .dline _ _ _ _ _ => s
  | .dinc _ _ _ _ => s
  | .coll _ _ => s.again p
  | .view _ _ => s.again p

/-- A link of the route is lost (06 R139). -/
def State.routeLost (s : State) (r : List Hop) : Bool :=
  r.any fun h => match h with
    | .link l _ => (s.link l).st == .lost
    | .router _ _ _ => false

/-- The die of a packet's destination on this module. -/
def dieOfDst : Dst → DieId
  | .core c => Fin.castLE (by omega) c.stack
  | .slice st _ => Fin.castLE (by omega) st
  | _ => 6

/-- The die of a packet's source on this module. -/
def dieOfSrc (me : Fin 4096) (p : Src) : DieId :=
  match srcRouter me p with
  | some r => Fin.castLE (by omega) r.1
  | none => 6

/-- A way between two dies, no stack standing for the I/O die, leads into a die that takes nothing from its neighbours: the far one, or the I/O
die between them (18 R390, 06 R137, R139). -/
def State.closed (s : State) (a b : Option (Fin 6)) : Bool :=
  let no (d : DieId) : Bool := s.dies[d] != .up
  decide (a ≠ b) && ((match b with | some x => no (Fin.castLE (by omega) x) | none => no 6) ||
    (a.isSome && (s.linksBetween a b).length == 2 && no 6))

/-- A packet is bound for a die that takes none from its neighbours, or its way leads through one (18 R390). -/
def State.shut (s : State) (p : Packet) : Bool :=
  s.closed ((srcRouter s.modId p.src).map (·.1)) ((dstRouter p.dst).map (·.1))

/-- A packet routed and put in flight; one for a fenced die, or for which no way is left, fails at once (18 R390, 06 R139, log entry 45). -/
def State.route (s : State) (p : Packet) (h : Option Hold) : State :=
  let (r, t) := s.routeFor p
  if s.shut p then s.failPacket 0x22 3 p else if s.routeLost r then s.failPacket 0x21 3 p else t.launchPacket p h r

/-- A packet injected on the module. -/
def State.inject (s : State) (p : Packet) : State := s.route p none

/-- A packet injected that is performed or sent on only once a release it waits for holds (12 R260, 14 R419). -/
def State.injectHeld (s : State) (p : Packet) (h : Hold) : State := s.route p (some h)

/-- A remote write that is a release: a posted `ramo` or an `mbinc` (14 R296). -/
def Outst.isRelease (o : Outst) : Bool := decide (o.kind ∈ [1, 2, 4])

/-- The numbers of the slot's posted releases outside its store queue that are not yet performed. -/
def Slot.relIds (sl : Slot) : List Nat := (sl.outst.filter Outst.isRelease).map (·.id) ++ sl.incs

/-- The numbers of all its remote writes not yet acknowledged and increments not yet performed. -/
def Slot.postedIds (sl : Slot) : List Nat := sl.outst.map (·.id) ++ sl.incs

/-- None of the numbers is outstanding any more. -/
def Slot.idsDone (sl : Slot) (l : List Nat) : Bool := l.all fun i => !sl.outst.any (·.id == i) && decide (i ∉ sl.incs)

/-- A posted release of the slot is not yet performed: no later access is performed before it (14 R293). -/
def Slot.releasing (sl : Slot) : Bool := sl.storeQ.any (·.rel) || !sl.relIds.isEmpty

/-- Those of the writes that are remote-form increments to a counter of this module, and the local increments (12 R260). -/
def Slot.nearIds (me : Fin 4096) (sl : Slot) : List Nat :=
  ((sl.outst.filter fun o => decide (o.kind = 2) && decide (tileMod o.addr = me)).map (·.id)) ++ sl.incs

/-- The slot's stores below a number are performed, for each entry of a list. -/
def State.storesDone (s : State) (l : List (Who × Nat)) : Bool := l.all fun x => (s.slot x.1).storeQ.all fun e => decide (x.2 ≤ e.id)

/-- The stores a release by the slot covers: its own, and those its start carries and that are not yet performed (14 R296, R299, R419). -/
def State.release (s : State) (w : Who) : List (Who × Nat) :=
  (w, (s.slot w).nextStore) :: (s.slot w).carry.filter fun x => !s.storesDone [x]

/-- What a release by the slot waits for: those stores and everything else it has posted (14 R296, R299). -/
def State.holdOf (s : State) (w : Who) : Hold := ⟨w, s.release w, (s.slot w).postedIds⟩

/-- What a release of a scope up to module waits for: those stores, and the increments to counters of the module (14 R296, 12 R260). -/
def State.holdNear (s : State) (w : Who) : Hold := ⟨w, s.release w, (s.slot w).nearIds s.modId⟩

/-- What a posted access that is no release waits for: the slot's earlier releases (14 R293). -/
def State.holdAfter (s : State) (w : Who) : Hold :=
  let sl := s.slot w
  ⟨w, ((sl.storeQ.filter (·.rel)).getLast?.map fun e => (w, e.id + 1)).toList, sl.relIds⟩

/-- What a packet waits for holds. -/
def State.released (s : State) (h : Hold) : Bool :=
  s.storesDone h.stores && (s.slot h.who).idsDone h.acks

/-- A release of the slot of a scope up to module has nothing left to wait for. -/
def State.clean (s : State) (w : Who) : Bool := s.released (s.holdNear w)

/-- The bytes of a packet on a fabric link: its head of 16 bytes, then its data (log entry 47). -/
def ergBytes (p : Packet) : Nat := 16 + bodyBytes p.body

/-- A flit's payload filled from waiting packets, back to back: the packets that end in it, those left, and how much of the first of them it
carries (12 R249). -/
def fillFlit : Nat → Nat → List Packet → List Packet × List Packet × Nat
  | _, _, [] => ([], [], 0)
  | room, off, p :: r =>
    let left := ergBytes p - off
    if left ≤ room then
      let (d, w, o) := fillFlit (room - left) 0 r
      (p :: d, w, o)
    else ([], p :: r, off + room)

/-- The packet is of one flow with one a port still holds. -/
def Port.carries (p : Port) (pk : Packet) : Bool :=
  p.waiting.any pk.sameFlow || p.unacked.any fun f => f.payload.any fun x => pk.sameFlow x.2

/-- The switches of a plane that hold something. -/
def State.planeSwitches (s : State) (plane : Nat) : List (Nat × Switch) := s.switches.filter fun x => x.1 / 96 == plane

/-- A packet of the flow is in flight on the plane (12 R248). -/
def State.onPlane (s : State) (i : Fin 16) (p : Packet) : Bool :=
  s.ports[i].carries p || (s.planeSwitches i.val).any fun x => x.2.queue.any fun q => decide (q.mod = s.modId) && p.sameFlow q.pkt

/-- The first of a list with the most of something. -/
def mostOf {α : Type} (f : α → Nat) : List α → Option α
  | [] => none
  | x :: r => match mostOf f r with
    | some y => if f x < f y then some y else some x
    | none => some x

/-- A port's free credits in a class: what it has, less what its waiting and unacknowledged packets take (12 R248). -/
def State.freeCredits (s : State) (i : Fin 16) (c : TClass) : Nat :=
  let p := s.ports[i]
  let held := p.waiting ++ (p.unacked.map fun f => f.payload.map (·.2)).flatten
  Config.portCredits i.val c - ((held.filter fun q => decide (q.cls = c)).map packetFlits).sum

/-- A packet leaves by an Erg port: the plane its flow is on, else the one with the most free credits in its class, the lowest of equals
(12 R248). -/
def State.ergSend (s : State) (p : Packet) : State :=
  let ps := s.planes
  let on := match ps.find? fun i => s.onPlane i p with
    | some i => some i
    | none => mostOf (fun i => s.freeCredits i p.cls) ps
  match on with
  | none => s.failPacket 0x21 3 p
  | some i => { s with ports := s.ports.set i { s.ports[i] with waiting := s.ports[i].waiting ++ [p] } }

/-- The packet leaves the module. -/
def State.outbound (s : State) (p : Packet) : Bool :=
  match p.dst with
  | .mdl m => m != s.modId
  | .group _ => true
  | _ => false

/-- A packet is sent: to an agent of the module, or to another module or a group, first over its stack's link to the I/O die (06 R137,
12 R254). -/
def State.send (s : State) (p : Packet) : State :=
  if s.outbound p && (srcRouter s.modId p.src).isNone then s.ergSend p else s.inject p

/-- A packet of a slot is sent, or kept back on the module until what it waits for holds (14 R293). -/
def State.post (s : State) (p : Packet) (h : Hold) : State := if s.released h then s.send p else s.injectHeld p h

def State.sendAll (s : State) (ps : List Packet) : State := ps.foldl State.send s

/-- Every link of a route is up: one that retrains holds its traffic back (06 R139). -/
def State.routeOpen (s : State) (r : List Hop) : Bool :=
  r.all fun h => match h with
    | .router _ _ _ => true
    | .link l _ => (s.link l).st == .up

/-- The packet starts a task on the core of the slot that sent it: nothing kept back delays it (14 R419). -/
def ownStart (me : Fin 4096) (p : Packet) : Bool :=
  match p.body with
  | .task src _ _ c _ => decide (src.mod = me) && decide (src.who.core = c)
  | .spawnd src _ _ _ _ _ _ => decide (src.mod = me)
  | _ => false

/-- No earlier packet of the flow is in flight before index `k` (06 R129), its links hold nothing back, and a release it waits for holds. A
start on the sender's own core does not stand behind packets that are kept back (14 R419). -/
def State.ready (s : State) (k : Nat) : Bool :=
  match s.net[k]? with
  | none => false
  | some f => (!(s.net.take k).any fun g => g.pkt.sameFlow f.pkt && !(ownStart s.modId f.pkt && !g.hold.all s.released)) &&
      s.routeOpen f.route && (f.hold.all s.released)

/-- The deliverable packet at index `k`, taken from the network; the pin of a flow is lifted with the last packet
of it on the escape path (06 R135, R136). -/
def State.take (s : State) (k : Nat) : Option (Packet × State) :=
  match s.net[k]? with
  | none => none
  | some f =>
    if s.ready k then
      let s := f.route.foldl (fun (s : State) (h : Hop) => match h with | .link l _ => s.linkWorks l | _ => s) s
      some (f.pkt, s.setNet (s.net.eraseIdx k))
    else none

/-- What has come to the I/O die for another module goes to its port, at the I/O die's own time (06 R137, 12 R248). -/
def State.gateOut (s : State) : State :=
  (List.range s.net.length).reverse.foldl (fun (s : State) k =>
    if s.ready k && (s.net[k]?).any fun f => s.outbound f.pkt then
      let (c, s) := s.pick 2
      match (if c = 0 then none else s.take k) with
      | some (p, s) => s.ergSend p
      | none => s
    else s) s

/-- A packet whose source or destination lies outside the module's own agents comes or goes by this module number. -/
def agentDst (me : Fin 4096) (a : Agent) : Dst := if a.mod = me then .core a.who.core else .mdl a.mod

end Sys2Proof.Machine
end

