-- ==== Sys2Proof/Machine/Ops.lean ====
section
/-! DEFINITION. Slots and cores as the meanings see them: registers, completion, traps and their return, parking, messages. -/

namespace Sys2Proof.Machine

/-- The result of a step. -/
abbrev Out := Host.Outcome State Fault Refusal

/-! ## Places -/

/-- The slot whose instruction is executed. -/
def State.me (s : State) : Slot := s.slot s.cur

def State.mod (s : State) (f : Slot → Slot) : State := s.modSlot s.cur f

def State.myCore (s : State) : Core := s.core s.cur.core

def State.modMyCore (s : State) (f : Core → Core) : State := s.modCore s.cur.core f

def State.engine (s : State) (c : ClusterId) : Engine := assocD s.engines c .reset

def State.modEngine (s : State) (c : ClusterId) (f : Engine → Engine) : State :=
  { s with engines := assocSet s.engines c (f (s.engine c)) }

/-- A packet of the cluster's running drain has been performed (11 R235). -/
def State.drainStep (s : State) (c : ClusterId) : State :=
  s.modEngine c fun e => { e with drain := e.drain.map fun d => { d with performed := d.performed + 1 } }

/-- The rotation the module is in (01 R25). -/
def State.rot (s : State) : Nat := s.cycle / 16

/-- The slot as an agent of the domain. -/
def State.agent (s : State) (w : Who) : Agent := ⟨s.modId, w⟩

/-- The launch a core belongs to. -/
def State.launchOf (s : State) (c : CoreId) : Option Launch :=
  match (s.core c).launch with
  | none => none
  | some id => s.launches.find? fun l => l.id == id

/-- Items of the core's launch are reported failed (17 R381, 18 R385). -/
def State.failItems (s : State) (c : CoreId) (n : Nat) : State :=
  match (s.core c).launch with
  | none => s
  | some id =>
    let note (p : Pending) : Pending := if p.launch = some id then { p with failed := p.failed + n } else p
    { s with qpairs := mapV (fun (q : QueuePair) => { q with pending := q.pending.map note }) s.qpairs }

/-- The job of a slot: that of the launch its core last ran, or of the thread it hosts. -/
def State.jobOf (s : State) (w : Who) : BitVec 32 :=
  match (s.slot w).hosting with
  | some h => h.job
  | none => (s.core w.core).job

/-- The launches of a job on the module, lowest stack first. -/
def State.jobLaunches (s : State) (job : BitVec 32) : List Launch :=
  ((List.finRange 6).map fun st => s.launches.filter fun l => l.job == job && decide (l.stack = st)).flatten

/-! ## Registers (02 R36) -/

def Slot.rs (sl : Slot) (r : SReg) : Word := if r = 0 then 0 else sl.s[r]
def Slot.ws (sl : Slot) (r : SReg) (x : Word) : Slot := if r = 0 then sl else { sl with s := sl.s.set r x }
def Slot.rf (sl : Slot) (r : FReg) : Word := sl.f[r]
def Slot.wf (sl : Slot) (r : FReg) (x : Word) : Slot := { sl with f := sl.f.set r x }
def Slot.rv (sl : Slot) (r : VReg) : VWord := sl.v[r]
def Slot.wv (sl : Slot) (r : VReg) (x : VWord) : Slot := { sl with v := sl.v.set r x }
def Slot.rk (sl : Slot) (r : KReg) : Bool := if r = 0 then true else sl.k[r]
def Slot.wk (sl : Slot) (r : KReg) (x : Bool) : Slot := if r = 0 then sl else { sl with k := sl.k.set r x }

/-- An s register or a 5-bit immediate (02 R28). -/
def Slot.rsi (sl : Slot) : SI → Word
  | .s r => sl.rs r
  | .imm n => BitVec.ofNat 64 n.val

/-- The guard (02 R30). -/
def holds (h : Hdr) (sl : Slot) : Bool := xor (sl.rk h.pred) h.neg

/-! ## Completion and branches (15 R318, R323) -/

/-- The instruction completes: `pc + 1`, and the next instruction of a block from its buffer. -/
def Slot.next (sl : Slot) : Slot :=
  match sl.block with
  | none => { sl with pc := sl.pc + 1, walks := [], atHome := false, roamed := false }
  | some b =>
    if b.j + 1 < b.len then { sl with pc := sl.pc + 1, walks := [], atHome := false, roamed := false, block := some { b with j := b.j + 1 } }
    else { sl with pc := sl.pc + 1, walks := [], atHome := false, roamed := false, block := none, state := .running }

/-- A taken branch: out of the block, with a fetch bubble where the prediction was wrong (15 R320). -/
def Slot.jump (sl : Slot) (t : Word) (bubble : Bool) : Slot :=
  { sl with
    pc := t, walks := [], bubble := bubble, block := none
    state := if sl.state = .block then .running else sl.state }

/-- The running slot completes with an effect on its own registers. -/
def retire (s : State) (f : Slot → Slot) : Out := .next (s.mod fun sl => (f sl).next)

/-- A guarded instruction any slot may issue (02 R30). -/
def guarded (h : Hdr) (s : State) (k : Out) : Out := if holds h s.me then k else .next (s.mod Slot.next)

/-! ## Ends of a slot's activity -/

/-- The slot's streams end: reads are dropped, writes drain on (02 R37, 07 R167, R168). -/
def Slot.endStreams (sl : Slot) : Slot :=
  let old := sl.streams.toList.filterMap id
  let reads := (old.filter fun st => !st.wr).map (·.num)
  { sl with
    streams := #v[none, none, none, none]
    draining := sl.draining ++ old.filter (·.wr)
    cctx := { sl.cctx with ops := sl.cctx.ops.map fun o => if o.num ∈ reads then { o with st := .done } else o } }

/-- The copy operations of a slot that leaves its handler otherwise than by `eret`: no later `eret` resumes a faulted one (17 R366). -/
def CopyCtx.forget (c : CopyCtx) : CopyCtx := { c with ops := c.ops.map fun o => { o with trapped := false } }

/-- To pool, or for the steward to exit, keeping the registers (15 R324, R326, 02 R37, 06 R141). -/
def Slot.toPool (sl : Slot) (steward : Bool) : Slot :=
  { sl.endStreams with
    cctx := sl.endStreams.cctx.forget
    state := if steward then .exit else .pool
    reason := if steward then .exit else .none
    wait := if steward then .exit else .none
    reply := none, walks := [], atHome := false, resv := [], block := none, bubble := false, haltReq := false, haltNow := false
    fetchFault := none, repCont := false }

/-- The operation is over: done, or aborted and without notification (07 R149, R157). -/
def CopyOp.over (o : CopyOp) : Bool := decide (o.st = .done) || decide (o.st = .complete)

/-- The operations issued and not complete (02 R33): an aborted one is complete at once (07 R158). -/
def CopyCtx.outstanding (c : CopyCtx) : Nat := (c.ops.filter fun o => decide (o.st ≠ .complete)).length

/-- The timeline takes the number of the last operation before the first that is not over (07 R149). -/
def CopyCtx.settle (c : CopyCtx) : CopyCtx :=
  let k := (c.ops.takeWhile CopyOp.over).length
  match (c.ops.take k).getLast? with
  | none => c
  | some o => { c with tl := o.num, ops := c.ops.drop k }

/-! ## Messages (17 R371-R373) -/

/-- A packet from a core to a core value, in the notice class; a malformed value names no core and nothing is sent. -/
def State.message (s : State) (src : CoreId) (rcv : BitVec 32) (m : Msg) : State :=
  match coreOf rcv with
  | none => s
  | some (md, c) => s.send ⟨.core src, if md = s.modId then .core c else .mdl md, .notice, .msg c m⟩

/-! ## Parking (15 R311, R313) -/

def Slot.park (sl : Slot) (r : Reason) (w : Wait) (rot : Nat) : Slot :=
  { sl with
    reason := r, wait := w, reply := none, parkedAt := rot, block := none
    state := if sl.state = .handler then .handler else .parked }

/-- Back in rotation. -/
def Slot.unpark (sl : Slot) : Slot :=
  { sl with
    reason := .none, wait := .none, reply := none, deadline := none, retryAt := none, cancel := 0
    state := if sl.state = .parked then .running else sl.state }

/-- The running slot parks. -/
def State.park (s : State) (r : Reason) (w : Wait) : State := s.mod (·.park r w s.rot)

/-- The running slot parks without having had any effect; it issues the instruction again once `c` holds. -/
def parkAgain (s : State) (r : Reason) (c : Again) : Out := .next (s.park r (.again c))

/-! ## Sleepers (17 R370) -/

/-- A sleeping slot whose mask has the bit notes the event; the events of the first such cycle count (17 R370). -/
def sawEvent (cycle : Nat) (bit : Fin 4) (sl : Slot) : Slot :=
  match sl.wait with
  | .sleep m seen d =>
    if m.getLsbD bit.val && (seen == 0 || sl.deadline == some cycle) then
      { sl with wait := .sleep m (seen ||| (1#4 <<< bit.val)) d, deadline := some cycle }
    else sl
  | _ => sl

/-- The sleeping slots of a core note an event (17 R370). -/
def State.wakeSleepers (s : State) (c : CoreId) (bit : Fin 4) : State :=
  s.modCore c fun k => { k with slots := mapV (sawEvent s.cycle bit) k.slots }

/-- A slot that is in pool afterwards wakes the core's sleepers (17 R370). -/
def State.poolEvent (s : State) (w : Who) : State :=
  if (s.slot w).state = .pool then s.wakeSleepers w.core 2 else s

/-! ## Guests (12 R261, R262) -/

/-- The thread a slot runs, as it migrates; `roamed` by the roam hint (12 R256). -/
def Slot.pack (sl : Slot) (home : Agent) (job : BitVec 32) (pc : Word) (roamed : Bool := false) : Guest :=
  ⟨home, job, pc, sl.s, sl.k, sl.flags, sl.fen, sl.rmode, roamed⟩

/-- A thread's state put into a slot. -/
def Slot.unpack (sl : Slot) (g : Guest) : Slot :=
  { sl with pc := g.pc, s := g.s, k := g.k, flags := g.flags, fen := g.fen, rmode := g.rmode, roamed := g.roamed }

/-- The slot that holds a slot's error queue: a guest's is its thread's home, none where that is on another module (12 R258). -/
def State.errHome (s : State) (w : Who) : Option Who :=
  match (s.slot w).hosting with
  | none => some w
  | some h => if h.home.mod = s.modId then some h.home.who else none

/-- The slot's error queue is empty; of one on another module it is not known here (log entry 47). -/
def State.errClear (s : State) (w : Who) : Bool × State :=
  match s.errHome w with
  | some x => ((s.slot x).errq.isEmpty, s)
  | none => let (c, s) := s.pick 2; (c == 0, s)

/-- A hosting slot sends its thread home, once its stores are performed and its remote writes acknowledged (12 R262), and goes to
pool with its own registers. -/
def State.sendHome (s : State) (w : Who) (why : HomeWhy) (pc : Word) (roamed : Bool := false) : State :=
  let sl := s.slot w
  match sl.hosting with
  | none => s
  | some h =>
    let g := sl.pack h.home h.job pc roamed
    let hold := s.holdOf w
    let s := s.modSlot w fun sl =>
      { (sl.unpack h.own).toPool false with hosting := none, tbm := 0 }
    (s.injectHeld ⟨.slot (s.agent w), agentDst s.modId h.home, .notice, .home g why⟩ hold).poolEvent w

/-! ## Traps (17 R359-R366) -/

/-- The trap taken by a slot not in handler state (17 R360). -/
def Slot.takeTrap (sl : Slot) (cls sub : Nat) (tval epc : Word) : Slot :=
  { sl with
    epc := epc, tcause := BitVec.ofNat 16 (cls * 256 + sub), tval := tval, state := .handler, resv := [], pc := sl.tvec
    reason := .none, wait := .none, reply := none, walks := [], atHome := false, roamed := false, block := none, bubble := false, fetchFault := none
    deadline := none, retryAt := none, cancel := 0 }

/-- The state of a slot after a double trap (17 R362). -/
def Slot.doubleTrap (sl : Slot) (cls : Nat) (tval : Word) (steward : Bool) : Slot :=
  { sl.toPool steward with tcause := BitVec.ofNat 16 (0x0F00 + cls), tval := tval }

/-- A slot takes a trap: in handler state a double trap, in a guest after its return home (17 R360, R362, 12 R261). -/
def State.trapAt (s : State) (w : Who) (cls sub : Nat) (tval epc : Word) : State :=
  let sl := s.slot w
  if sl.hosting.isSome then s.sendHome w (.trap cls sub tval) epc
  else if sl.state = .handler then
    let s := s.modSlot w (·.doubleTrap cls tval (w.slot == 0))
    (s.message w.core sl.sup ⟨coreWord s.modId w.core, w.slot, 3, BitVec.ofNat 16 (0x0F00 + cls), sl.pc⟩).poolEvent w
  else s.modSlot w (·.takeTrap cls sub tval epc)

/-- A synchronous trap of the running instruction: precise, with `epc` at it. -/
def trap (s : State) (cls sub : Nat) (tval : Word) : Out := .next (s.trapAt s.cur cls sub tval s.me.pc)

/-- The return from a handler (17 R366, 15 R327): running at `epc`, or to pool where a halt is requested. A copy fault whose trap was
taken and that has not been aborted resumes its operation (07 R157); the repeat-continuation bit is kept only for the instruction
that set it (10 R210). -/
def Slot.eret (sl : Slot) (steward : Bool) : Slot :=
  let ops := sl.cctx.ops.map fun o =>
    if o.st = .faulted ∧ o.trapped then { o with st := .running, fault := none, trapped := false } else o
  let sl := { sl with
    pc := sl.epc, state := .running, cctx := { sl.cctx with ops := ops }, walks := []
    repCont := sl.repCont && decide (sl.epc = sl.repPc) }
  if sl.haltReq then sl.toPool steward else sl

/-- An instruction only a slot on its own core may issue; a guest traps (12 R261, 11 R226). -/
def homeOnly (h : Hdr) (s : State) (k : Out) (cls : Nat := 9) (sub : Nat := 4) : Out :=
  guarded h s (if s.me.hosting.isSome then trap s cls sub 0 else k)

/-- A steward's instruction: illegal in slots 1 to 15, whatever the guard (02 R34, 15 R314). -/
def stewardOnly (h : Hdr) (s : State) (k : Out) : Out :=
  if s.cur.slot = 0 then homeOnly h s k else trap s 1 8 0

/-- A mask of slots, bits [15:1] of a register (15 R314). -/
def maskSlots (m : BitVec 16) : List (Fin 16) :=
  (List.finRange 16).filter fun i => decide (i ≠ 0) && m.getLsbD i.val

/-- Free, unreserved slots that may be given work in a cycle, highest first: not the steward, and none halted in that cycle (15 R316, 16 R358). -/
def Core.poolSlots (c : Core) (cycle : Nat) : List (Fin 16) :=
  ((List.finRange 16).filter fun i => decide (0 < i.val) && decide (c.slots[i].state = .pool) && !c.slots[i].reserved &&
    decide (c.slots[i].haltedAt ≠ cycle + 1)).reverse

/-- The pool mask of a core, bits [15:1] (15 R329). -/
def Core.poolMask (c : Core) : Word :=
  (List.finRange 16).foldl (fun (x : Word) (i : Fin 16) => if i ≠ 0 ∧ c.slots[i].state = .pool then x ||| (1#64 <<< i.val) else x) 0

/-- The code of a slot state (15 R310). -/
def SlotState.code : SlotState → Nat
  | .pool => 0 | .block => 1 | .running => 2 | .parked => 3 | .handler => 4 | .spilled => 5 | .guest => 6 | .exit => 7

/-- The code of a parking reason (15 R313). -/
def Reason.code : Reason → Nat
  | .none => 0 | .globalLoad => 1 | .translate => 2 | .storeQueue => 3 | .pageCommit => 4 | .fence => 5
  | .versionWait => 6 | .versionLimit => 7 | .versionStore => 8 | .versionTable => 9 | .tileSpace => 10 | .tag => 11
  | .timeline => 12 | .engineQueue => 13 | .stream => 14 | .mailbox => 15 | .remoteLoad => 16 | .remoteQueue => 17
  | .roam => 18 | .view => 19 | .fpException => 20 | .slotPool => 21 | .slotWait => 22 | .fetch => 23 | .pause => 24
  | .exit => 25 | .barrier => 26 | .taskQueue => 27 | .sleep => 28 | .taskFull => 29

/-! ## The scratchpad of a core (08 R170-R181) -/

/-- Bytes written into a core's scratchpad, tags unchanged. -/
def Core.spWrite (c : Core) (a : Nat) (bs : List Byte) : Core := { c with sp := c.sp.write a bs }

/-- The words are marked full, or empty. -/
def Core.setTags (c : Core) (full : Bool) (ws : List Nat) : Core :=
  { c with empties := ws.foldl (fun e w => if full then eraseNat e w else insertNat e w) c.empties }

/-- The word's tag reads full. -/
def Core.isFull (c : Core) (w : Nat) : Bool := !decide (w ∈ c.empties)

/-- A counter of the core incremented (08 R176). -/
def Core.mbAdd (c : Core) (i : MbIdx) (n : BitVec 32) : Core := { c with mb := c.mb.set i (c.mb[i] + n) }

/-- A posted increment performed at its counter (08 R176); one of 0 changes nothing that wakes a sleeper (17 R370). -/
def State.mbAdd (s : State) (c : CoreId) (i : MbIdx) (n : BitVec 32) : State :=
  if n = 0 then s else (s.modCore c (·.mbAdd i n)).wakeSleepers c 3

/-! ## Events of the dies (18 R391) -/

/-- The code of a kind of event, in the order of the kinds (log entry 38). -/
def EventKind.code : EventKind → Nat
  | .poison => 0 | .spillFail => 1 | .pageCommit => 2 | .versionTable => 3 | .suspicion => 4 | .splitterRequest => 5
  | .fpException => 6 | .errEntry => 7 | .portLost => 8

/-- The 32 bytes of an event entry; how its fields lie in them is not given (log entry 38). -/
def Event.bytes (e : Event) : List Byte :=
  let b := Config.eventEntry e.kind.code e.die.val e.count e.detail e.cycle
  b.take 32 ++ List.replicate (32 - b.length) 0

/-- The pieces of a write to host memory that frames carry, up to 128 bytes each (log entry 54). -/
def hostPieces : Nat → Nat → List Byte → List HostWrite
  | 0, _, _ => []
  | n + 1, a, d => if d.isEmpty then [] else ⟨a, d.take 128⟩ :: hostPieces n (a + 128) (d.drop 128)

/-- The device writes host memory: the bytes stand there, and their frames are to be sent (18 R383, log entry 54). -/
def State.hostWrite (s : State) (addr : Nat) (d : List Byte) : State :=
  { s with
    hostMem := s.hostMem.write addr d, jormal := { s.jormal with waiting := s.jormal.waiting ++ hostPieces d.length addr d } }

/-- Events enter the host's queue, which lies in its own memory. -/
def State.queueEvents (s : State) (es : List Event) : State :=
  es.foldl (fun (s : State) e =>
    State.hostWrite { s with events := s.events ++ [e], eventRoom := s.eventRoom - 1 } (Config.eventAddr s.events.length) e.bytes) s

/-- A buffered entry counts an event of its kind, source and detail. -/
def Event.matches (e x : Event) : Bool := decide (x.kind = e.kind) && decide (x.die = e.die) && decide (x.detail = e.detail)

/-- An event reaches its die's buffer: it is counted by an entry it matches, or takes an entry; none where the buffer is full. -/
def bufferEvent (b : List Event) (e : Event) : Option (List Event) :=
  if b.any e.matches then some (b.map fun x => if e.matches x then { x with count := min 65535 (x.count + 1) } else x)
  else if b.length < 64 then some (b ++ [e])
  else none

/-- What the units of a die hold, oldest first, goes into the buffer as it has room; a unit, that is a kind of event of the die, that still
holds one raises nothing further (log entry 38). -/
def drainHeld : List Event → List Event → List Event → List Event × List Event
  | b, kept, [] => (b, kept)
  | b, kept, e :: r =>
    if kept.any fun x => decide (x.kind = e.kind) then drainHeld b (kept ++ [e]) r
    else match bufferEvent b e with
      | some b => drainHeld b kept r
      | none => drainHeld b (kept ++ [e]) r

/-- An event goes to the queue, into the die's buffer, or is held by its unit. -/
def State.raise (s : State) (k : EventKind) (die : DieId) (detail : List Nat) : State :=
  let e : Event := ⟨k, die, 1, detail, s.cycle⟩
  if s.dieBuf[die].isEmpty && decide (0 < s.eventRoom) then s.queueEvents [e]
  else
    let (b, h) := drainHeld s.dieBuf[die] [] (s.dieHeld[die] ++ [e])
    { s with dieBuf := s.dieBuf.set die b, dieHeld := s.dieHeld.set die h }

/-- A stack's die. -/
def stackDie (st : Fin 6) : DieId := Fin.castLE (by omega) st

end Sys2Proof.Machine
end

