-- ==== Sys2Proof/Machine/Translate.lean ====
section
/-! DEFINITION. The physical map, the page walk, the checks before an access, and the data at the home slices
(04 R68-R85, 06 R140, 08 R177). -/

namespace Sys2Proof.Machine

/-! ## The physical map (04 R69, R70) -/

/-- The end of the HBM4 regions: 576 GiB. -/
def hbmTop : Nat := 0x9000000000

/-- The mailbox window. -/
def mbBase : Nat := 0xE0000000000
def mbTop : Nat := 0xE0000400000

/-- The end of the interleaved region. -/
def State.ilvTop (s : State) : Nat := s.settings.ilv * 12 * 2 ^ 30

def inHbm (pa : Nat) : Bool := decide (pa < hbmTop)
def inWindow (pa : Nat) : Bool := decide (mbBase ≤ pa) && decide (pa < mbTop)

/-- The compute stack that owns a byte of HBM4 (04 R70). -/
def State.stackOf (s : State) (pa : Nat) : Fin 6 :=
  if pa < s.ilvTop then Fin.ofNat 6 (pa / 256 % 12 / 2)
  else Fin.ofNat 6 ((pa - s.ilvTop) / ((hbmTop - s.ilvTop) / 6))

/-- The home slice within the stack (04 R70). -/
def sliceOf (pa : Nat) : Fin 32 := Fin.ofNat 32 (Nat.xor (pa / 256 % 32) (pa / 8192 % 32))

/-- A place of performance of a physical address: a home slice of the module, or the core of a mailbox counter. -/
inductive Home | slice (n : Fin 192) | counter (c : CoreId)
  deriving DecidableEq, Repr, Inhabited

/-- The counter at an address of the window; none where its stack field is 6 or 7 (08 R177). -/
def counterAt (pa : Nat) : Option (CoreId × MbIdx) :=
  let o := pa - mbBase
  if h : o / 2 ^ 19 < 6 then
    some (⟨⟨o / 2 ^ 19, h⟩, Fin.ofNat 64 (o / 2 ^ 13), Fin.ofNat 32 (o / 2 ^ 8)⟩, Fin.ofNat 64 (o / 4))
  else none

def State.home (s : State) (pa : Nat) : Home :=
  if inWindow pa then (match counterAt pa with | some (c, _) => .counter c | none => .slice 0)
  else .slice (Fin.ofNat 192 ((s.stackOf pa).val * 32 + (sliceOf pa).val))

/-- The stack that holds an address's place of performance. -/
def State.homeStack (s : State) (pa : Nat) : Fin 6 :=
  if inWindow pa then (match counterAt pa with | some (c, _) => c.stack | none => 0) else s.stackOf pa

/-- The way of an access to its place of performance: open, held back by a link that retrains, or lost with a link or a die that takes
no requests (06 R139, 18 R390; log entry 45). -/
inductive Way | clear | held | lost
  deriving DecidableEq, Repr, Inhabited

/-- The way from a stack, none standing for the I/O die, to an address. -/
def State.way (s : State) (st : Option (Fin 6)) (pa : Nat) : Way :=
  let h := s.homeStack pa
  let ls := (s.linksBetween st (some h)).map fun l => (s.link l).st
  if ls.any (· == .lost) || (decide (st ≠ some h) && s.dies[stackDie h] != .up) then .lost
  else if ls.all (· == .up) then .clear else .held

/-- A flit has crossed the links between two dies: their counts of failed replays end (06 R139). -/
def State.crossed (s : State) (st : Option (Fin 6)) (pa : Nat) : State :=
  (s.linksBetween st (some (s.homeStack pa))).foldl State.linkWorks s

/-- The slice group of an address, as `tbm` numbers them (02 R38, 08 R177). -/
def State.group (s : State) (pa : Nat) : Fin 48 :=
  match s.home pa with
  | .slice n => Fin.ofNat 48 (n.val / 32 * 8 + n.val % 32 / 4)
  | .counter c => Fin.ofNat 48 (c.stack.val * 8 + c.y.val / 4)

/-! ## Data at the home slices -/

/-- The line's entry takes its next stamp, or is removed at a rollover (06 R140). -/
def ResTab.bump (t : ResTab) (line : Nat) : ResTab :=
  { t with lines := t.lines.filterMap fun e =>
      if e.line = line then (if e.stamp = 0xFFFF then none else some { e with stamp := e.stamp + 1 }) else some e }

/-- Every line of a set takes its next stamp (06 R140). -/
def ResTab.bumpAll (t : ResTab) (f : Nat → Bool) : ResTab :=
  (t.lines.filter fun e => f e.line).foldl (fun t e => t.bump e.line) t

/-- The reservation table of the slice that homes an address. -/
def State.resIdx (s : State) (pa : Nat) : Fin 192 :=
  Fin.ofNat 192 ((s.stackOf pa).val * 32 + (sliceOf pa).val)

def State.bumpLine (s : State) (line : Nat) : State :=
  let i := s.resIdx line
  { s with resTabs := s.resTabs.set i (s.resTabs[i].bump line) }

/-- A poisoned word lies in the access (04 R72). -/
def State.poisoned (s : State) (pa n : Nat) : Bool := (wordsOf pa n).any fun w => decide (w ∈ s.poison)

/-- The bytes of one 8-byte word written at its home slice. `through` writes HBM4 too (04 R79). A narrow store to a
poisoned word is discarded with a fault event; a whole word clears the poison (04 R72). -/
def State.writeWord (s : State) (pa : Nat) (bs : List Byte) (through : Bool) : State :=
  let w := pa / 8
  if decide (w ∈ s.poison) && decide (bs.length < 8) then s.raise .poison (stackDie (s.stackOf pa)) [pa]
  else
    let old := s.mem.word (w * 8)
    { s with
      mem := s.mem.write pa bs
      poison := eraseNat s.poison w
      stale :=
        if through then s.stale.filter (·.1 ≠ w)
        else if s.stale.any (·.1 == w) then s.stale else s.stale ++ [(w, old)] }

/-- The parts of a write that lie in one 8-byte word each, with their addresses. -/
def wordParts (pa : Nat) (bs : List Byte) : List (Nat × List Byte) :=
  (wordsOf pa bs.length).map fun w =>
    let lo := max pa (w * 8)
    let hi := min (pa + bs.length) (w * 8 + 8)
    (lo, (bs.drop (lo - pa)).take (hi - lo))

/-- A part narrower than a word that meets a poisoned word is discarded (04 R72). -/
def State.refuses (s : State) (p : Nat × List Byte) : Bool := decide (p.1 / 8 ∈ s.poison) && decide (p.2.length < 8)

/-- Bytes written at their home slices, word by word; the stamp of each line whose data changes rises once (06 R140). -/
def State.gwrite (s : State) (pa : Nat) (bs : List Byte) (through : Bool) : State :=
  let ps := wordParts pa bs
  let lines := ((ps.filter fun p => !s.refuses p).map fun p => p.1 / 128).eraseDups
  lines.foldl (fun s l => s.bumpLine (l * 128)) (ps.foldl (fun s p => s.writeWord p.1 p.2 through) s)

/-- Bytes read at their home slices. -/
def State.gread (s : State) (pa n : Nat) : List Byte := s.mem.read pa n

/-- A core's read-only cache takes the new bytes of a line it holds (04 R80, 14 R295). -/
def Core.roUpdate (c : Core) (pa : Nat) (bs : List Byte) : Core :=
  { c with ro := c.ro.map fun (w, x) =>
      let bytes := (List.range 8).map fun i =>
        if pa ≤ w * 8 + i ∧ w * 8 + i < pa + bs.length then bs.getD (w * 8 + i - pa) 0 else (leBytes 8 x.toNat).getD i 0
      (w, BitVec.ofNat 64 (leNat bytes)) }

/-- The frame reads as zero at its home slices (04 R83, R91). -/
def State.zeroFrame (s : State) (frame : Nat) : State :=
  let inF (a : Nat) : Bool := decide (frame ≤ a) && decide (a < frame + 32768)
  let ws := ((s.mem.filter fun c => inF c.1).map fun c => c.1 / 8).eraseDups
  let s := { s with
    stale := s.stale ++ (ws.filter fun w => !s.stale.any (·.1 == w)).map fun w => (w, s.mem.word (w * 8))
    mem := s.mem.filter fun c => !inF c.1
    poison := s.poison.filter fun w => !inF (w * 8) }
  { s with resTabs := mapV (fun t => t.bumpAll inF) s.resTabs }

/-! ## The page walk (04 R73-R76) -/

/-- A level of the walk: the lowest bit it indexes, its entries, its table's alignment, the 32 KiB pages a leaf maps. -/
structure Level where
  shift : Nat
  entries : Nat
  align : Nat
  pages : Nat

def levels : List Level := [⟨37, 2048, 16384, 0⟩, ⟨26, 2048, 16384, 2048⟩, ⟨21, 32, 256, 64⟩, ⟨15, 64, 512, 1⟩]

/-- The frame a leaf names. -/
def frameOf (e : Word) : Nat := (e.extractLsb' 0 36).toNat * 256

def cacheLevel (e : Word) : Nat := (e.extractLsb' 57 2).toNat

/-- The checks of a valid leaf (04 R75). -/
def State.leafCheck (s : State) (pages : Nat) (e : Word) : Walk :=
  let f := frameOf e
  if pages = 0 ∨ cacheLevel e = 3 then .fault 5
  else if e.getLsbD 61 ∧ pages ≠ 1 then .fault 5
  else if e.getLsbD 61 ∧ ¬ e.getLsbD 60 then .sparse e
  else if f % (pages * 32768) ≠ 0 then .fault 5
  else if inHbm f ∧ e.getLsbD 52 ≠ decide (f < s.ilvTop) then .fault 5
  else if inWindow f ∧ cacheLevel e ≠ 2 then .fault 5
  else .leaf e pages

/-- The walk from a table on: its outcome and the physical address of the last entry read. -/
def State.walkFrom (s : State) (va : Nat) : List Level → Nat → Walk × Nat
  | [], a => (.fault 5, a)
  | l :: r, base =>
    let ea := base + va / 2 ^ l.shift % l.entries * 8
    let e := s.mem.word ea
    if base % l.align ≠ 0 ∨ hbmTop ≤ base then (.fault 5, base)
    else if s.poisoned ea 8 then (.fault 6, ea)
    else if ¬ e.getLsbD 63 then (.fault 2, ea)
    else if e.getLsbD 62 then (s.leafCheck l.pages e, ea)
    else if r.isEmpty ∨ (e.extractLsb' 36 26) ≠ 0 then (.fault 5, ea)
    else s.walkFrom va r (frameOf e)

def State.walk (s : State) (root : Word) (va : Nat) : Walk × Nat := s.walkFrom va levels root.toNat

/-- The translation cache's entry for a page. -/
def tlbFind (tlb : List TlbEntry) (root : Word) (page : Nat) : Option TlbEntry :=
  tlb.find? fun t => decide (t.root = root) && decide (t.page ≤ page) && decide (page < t.page + t.size)

/-- A translation cache with a leaf added, holding `cap` entries (04 R76). Which entry a full one gives up is the model's choice: the
one added longest ago (log entry 43). -/
def tlbAdd (tlb : List TlbEntry) (cap : Nat) (t : TlbEntry) : List TlbEntry :=
  let l := tlb.filter (· ≠ t) ++ [t]
  l.drop (l.length - cap)

/-- The table root the slot's global accesses use (04 R68, 12 R254). -/
def State.rootOf (s : State) (w : Who) : Word :=
  match (s.slot w).hosting with
  | some h => (((s.jobLaunches h.job).head?).map (·.root)).getD 0
  | none => ((s.launchOf w.core).map (·.root)).getD 0

/-! ## The checks before an access (04 R81-R83, 02 R45) -/

/-- A part of an access within one 256-byte unit, with the leaf that maps it and its page's size in 32 KiB (14 R302). -/
structure Seg where
  off : Nat
  pa : Nat
  len : Nat
  leaf : Word
  size : Nat
  deriving DecidableEq, Repr, Inhabited

/-- What `check` answers. -/
inductive Chk
  | ok (segs : List Seg)
  | trap (sub : Nat) (va : Word)
  | miss
  | sparse (pages : List Nat)
  deriving DecidableEq, Repr, Inhabited

/-- The 32 KiB pages an access touches. -/
def pagesOf (a n : Nat) : List Nat := (List.range ((a + n - 1) / 32768 - a / 32768 + 1)).map (a / 32768 + ·)

/-- The pieces of an access between 256-byte boundaries: offset and length. -/
def pieces (a n : Nat) : List (Nat × Nat) :=
  (List.range ((a + n - 1) / 256 - a / 256 + 1)).map fun i =>
    let lo := max a ((a / 256 + i) * 256)
    let hi := min (a + n) ((a / 256 + i + 1) * 256)
    (lo - a, hi - lo)

/-- The physical address of a byte under a leaf. -/
def paOf (e : Word) (size va : Nat) : Nat := frameOf e + va % (size * 32768)

/-- An address the access may not touch: in no range, or in the window where `win` refuses it (04 R69, 08 R177). -/
def badPa (win : Bool) (pa : Nat) : Bool :=
  if inWindow pa then !win || (counterAt pa).isNone else !inHbm pa

/-- The conditions of 04 R81 in their order over the pages' walks, each with the lowest byte that meets it (04 R82). A malformed leaf
meets 0x05 alone: what its writable bit says is not looked at (log entry 36). -/
def checkWith (a n : Nat) (kind : AccKind) (align : Nat) (win : Bool) (rs : List (Nat × Walk)) : Chk :=
  let at_ (p : Nat) : Word := BitVec.ofNat 64 (max a (p * 32768))
  let bad (f : Walk → Bool) : Option Word := (rs.find? fun r => f r.2).map fun r => at_ r.1
  let ro : Walk → Bool
    | .leaf e _ => !e.getLsbD 59
    | .sparse e => !e.getLsbD 59
    | _ => false
  let badAt := rs.find? fun (p, r) => match r with
    | .leaf e size => badPa win (paOf e size (max a (p * 32768)))
    | _ => false
  let wr := decide (kind = .store) || decide (kind = .atomic)
  match bad (fun r => decide (r = .fault 2)), (if wr then bad ro else none), bad (fun r => decide (r = .fault 5)),
      bad (fun r => decide (r = .fault 6)), badAt with
  | some v, _, _, _, _ => .trap 2 v
  | none, some v, _, _, _ => .trap 3 v
  | none, none, f5, f6, f9 =>
    if a % align ≠ 0 then .trap 4 (BitVec.ofNat 64 a)
    else match f5, f6, f9 with
    | some v, _, _ => .trap 5 v
    | none, some v, _ => .trap 6 v
    | none, none, some (p, _) => .trap 9 (at_ p)
    | none, none, none =>
      let un := (rs.filter fun r => match r.2 with | .sparse _ => true | _ => false).map (·.1)
      if !un.isEmpty then .sparse un
      else .ok ((pieces a n).filterMap fun (o, l) =>
        match assocD rs ((a + o) / 32768) (.fault 2) with
        | .leaf e size => some ⟨o, paOf e size (a + o), l, e, size⟩
        | _ => none)

/-- `check` for a slot: walks made for the instruction, then the core's translation cache. A cached entry that the table
no longer agrees with may be used or not (04 R77). -/
def State.check (s : State) (w : Who) (va : Word) (n : Nat) (kind : AccKind) (align : Nat) (win : Bool) : State × Chk :=
  let a := va.toNat
  if 2 ^ 48 ≤ a then (s, .trap 1 va)
  else if 2 ^ 48 < a + n then (s, .trap 1 (BitVec.ofNat 64 (2 ^ 48)))
  else
    let root := s.rootOf w
    let sl := s.slot w
    let tlb := (s.core w.core).tlb
    let look (new : Bool) (p : Nat) : Option Walk :=
      match sl.walks.find? fun r => r.1 == p with
      | some r => some r.2
      | none => match tlbFind tlb root p with
        | some t => if new then some (s.walk root (p * 32768)).1 else some (.leaf t.leaf t.size)
        | none => none
    let ps := pagesOf a n
    let differ := ps.any fun (p : Nat) => look false p != look true p
    let (c, s) := if differ then s.pick 2 else (0, s)
    let rs : List (Nat × Option Walk) := ps.map fun p => (p, look (c == 1) p)
    if rs.any fun r => r.2.isNone then (s, .miss)
    else (s, checkWith a n kind align win (rs.filterMap fun r => r.2.map fun x => (r.1, x)))

/-! ## Frame pools and sparse pages (04 R83-R85) -/

/-- A free frame of a pool: which one is open (log entry 1). -/
def State.takeFrame (s : State) (p : Fin 7) : Option (Nat × State) :=
  let l := s.pools[p]
  if l.isEmpty then none
  else
    let (k, s) := s.pick l.length
    some (l.getD k 0, { s with pools := s.pools.set p (l.eraseIdx k) })

/-- The pool of a sparse leaf for an agent on a stack (04 R85). -/
def poolFor (e : Word) (st : Fin 6) : Fin 7 := if e.getLsbD 52 then 6 else Fin.castLE (by omega) st

/-- A sparse leaf's entry committed to a frame. -/
def State.setCommit (s : State) (ea : Nat) (frame : Nat) : State :=
  let e := s.mem.word ea
  let e' := (e &&& 0xEFFFFFF000000000#64) ||| 0x1000000000000000#64 ||| BitVec.ofNat 64 (frame / 256)
  s.gwrite ea (leBytes 8 e'.toNat) false

/-- A page leaves the pending-commit tables (04 R83, R91). -/
def State.dropPend (s : State) (root : Word) (page : Nat) : State :=
  { s with pend := mapV (fun l => l.filter fun q => !(decide (q.root = root) && q.page == page)) s.pend }

/-- The walker commits a zero-filled pool frame where the page's auto bit is 1 (04 R83). -/
def State.autoCommit (s : State) (root : Word) (page : Nat) (st : Fin 6) : State :=
  match s.walk root (page * 32768) with
  | (.sparse e, ea) =>
    if e.getLsbD 36 then
      match s.takeFrame (poolFor e st) with
      | some (f, s) => ((s.zeroFrame f).setCommit ea f).dropPend root page
      | none => s
    else s
  | _ => s

/-- The access kinds as a page-commit message codes them (17 R373); a fetch reads (15 R321). -/
def AccKind.code : AccKind → Nat
  | .load => 0 | .store => 1 | .atomic => 2 | .copy => 3 | .fetch => 0

/-- The page stands in a stack's pending-commit table. -/
def State.pending (s : State) (st : Fin 6) (root : Word) (page : Nat) : Bool := decide ((⟨root, page⟩ : PendPage) ∈ s.pend[st])

/-- The stack's table has room for a page that is not in it yet. -/
def State.mayPend (s : State) (st : Fin 6) (root : Word) (page : Nat) : Bool :=
  !s.pending st root page && decide ((s.pend[st]).length < 64)

/-- A page enters the pending-commit table of a stack, with one message to `sup` or one event; a page already in that table
sends none; a full table takes nothing (04 R83). -/
def State.addPend (s : State) (st : Fin 6) (root : Word) (page : Nat) (sup : BitVec 32) (src : BitVec 32) (slot : Fin 16)
    (from_ : CoreId) (kind : AccKind) : State :=
  if !s.mayPend st root page then s
  else
    let s := { s with pend := s.pend.set st (s.pend[st] ++ [(⟨root, page⟩ : PendPage)]) }
    if s.modes.pageCommit then s.raise .pageCommit (stackDie st) [page, kind.code, src.toNat, slot.val]
    else s.message from_ sup ⟨src, slot, 1, BitVec.ofNat 16 kind.code, BitVec.ofNat 64 (page * 32768)⟩

/-- A slot's access puts its uncommitted pages into its stack's table, those for which there is room (04 R83). -/
def State.pendPages (s : State) (w : Who) (pages : List Nat) (kind : AccKind) : State :=
  pages.foldl (fun s p =>
    s.addPend w.core.stack (s.rootOf w) p (s.slot w).sup (coreWord s.modId w.core) w.slot w.core kind) s

/-- The slot parks on uncommitted pages (04 R83). -/
def State.parkPage (s : State) (w : Who) (pages : List Nat) (kind : AccKind) (wait : Wait) : State :=
  (s.modSlot w (·.park .pageCommit wait s.rot)).pendPages w pages kind

/-! ## Walks (04 R76) -/

/-- What a walk of each page of a list finds. -/
def State.walks (s : State) (root : Word) (ps : List Nat) : List (Nat × Walk) := ps.map fun p => (p, (s.walk root (p * 32768)).1)

/-- The pages of a list that a walk finds uncommitted. -/
def State.uncommitted (s : State) (w : Who) (ps : List Nat) : List Nat :=
  ps.filter fun p => match (s.walk (s.rootOf w) (p * 32768)).1 with
    | .sparse _ => true
    | _ => false

/-- The core's translation cache takes the leaves a walk found (04 R76). -/
def Core.fillTlb (c : Core) (root : Word) (rs : List (Nat × Walk)) : Core :=
  { c with tlb := rs.foldl (fun t r => match r.2 with
      | .leaf e size => tlbAdd t 64 ⟨r.1 / size * size, size, e, root⟩
      | _ => t) c.tlb }

/-- A slot takes the outcomes of walks of its pages. -/
def State.takeWalks (s : State) (w : Who) (rs : List (Nat × Walk)) : State :=
  (s.modCore w.core (·.fillTlb (s.rootOf w) rs)).modSlot w fun sl =>
    { sl with walks := rs ++ sl.walks.filter fun x => !rs.any (·.1 == x.1) }

/-- The auto pages of a list are committed for a slot's access (04 R83). -/
def State.autoCommits (s : State) (w : Who) (ps : List Nat) : State :=
  ps.foldl (fun (s : State) p => s.autoCommit (s.rootOf w) p w.core.stack) s

/-- The slots of the cores. -/
def State.allSlots (s : State) : List Who :=
  (s.cores.map fun c => (List.finRange 16).map fun i => (⟨c.1, i⟩ : Who)).flatten

/-- The pages a slot parked with reason translate still waits for. -/
def Slot.missing (sl : Slot) : List Nat :=
  match sl.wait with
  | .again (.walk va n _ _) => (pagesOf va.toNat n).filter fun p => !sl.walks.any (·.1 == p)
  | _ => []

/-- Walks made on a stack under a table end: every slot of the stack that misses one of the pages takes the outcome, since its miss is merged
into the walk, whichever agent the walk was for (04 R76). -/
def State.shareWalks (s : State) (st : Fin 6) (root : Word) (rs : List (Nat × Walk)) : State :=
  (s.allSlots.filter fun v => decide (v.core.stack = st) && decide (s.rootOf v = root)).foldl (fun s v =>
    let ps := (s.slot v).missing.filter fun p => rs.any (·.1 == p)
    if ps.isEmpty then s else s.takeWalks v (rs.filter fun r => decide (r.1 ∈ ps))) s

/-- The lowest byte of an access in a poisoned word of a mapped page (04 R72, R82). -/
def State.poisonedAt (s : State) (a n : Nat) (rs : List (Nat × Walk)) : Option Word :=
  ((List.range n).find? fun i => match assocD rs ((a + i) / 32768) (.fault 2) with
    | .leaf e size => !inWindow (paOf e size (a + i)) && s.poisoned (paOf e size (a + i)) 1
    | _ => false).map fun i => BitVec.ofNat 64 (a + i)

/-- The handling of uncommitted pages begins only when no byte of a read is poisoned either (04 R82). -/
def State.poisonFirst (s : State) (a n : Nat) (kind : AccKind) (rs : List (Nat × Walk)) (c : Chk) : Chk :=
  match c with
  | .sparse _ => if kind = .store then c else match s.poisonedAt a n rs with
    | some v => .trap 6 v
    | none => c
  | _ => c

/-- `check`, and for an access that passes it over uncommitted pages the walkers' service: its auto pages are committed, and the access
goes on with them (04 R82, R83). -/
def State.access (s : State) (w : Who) (va : Word) (n : Nat) (kind : AccKind) (align : Nat) (win : Bool) : State × Chk :=
  match s.check w va n kind align win with
  | (s, .sparse ps) => match s.poisonFirst va.toNat n kind (s.walks (s.rootOf w) (pagesOf va.toNat n)) (.sparse ps) with
    | .trap sub v => (s, .trap sub v)
    | _ =>
      let t := s.autoCommits w ps
      (t.takeWalks w (t.walks (t.rootOf w) ps)).check w va n kind align win
  | r => r

end Sys2Proof.Machine
end

