-- ==== Sys2Proof/Machine/Operands.lean ====
section
/-! DEFINITION. Operand forms: addresses, widths, load results, store data, and registers in stream mode
(02 R28, R32, 04 R86, 08 R178, 07 R163-R166). -/

namespace Sys2Proof

/-- The bytes of a width (02 R45). -/
def Width.bytes : Width → Nat
  | .b => 1 | .h => 2 | .w => 4 | .d => 8 | .v => 64 | .vv => 128

/-- The alignment of a global or local access (04 R87, 08 R173). -/
def Width.align : Width → Nat
  | .b => 1 | .h => 2 | .w => 4 | .d => 8 | .v => 4 | .vv => 4

def SF.toSFV : SF → SFV
  | .s r => .s r
  | .f r => .f r

def SF.isF : SF → Bool
  | .f _ => true
  | .s _ => false

/-- The bytes of a remote operation. -/
def ROp.bytes : ROp → Nat
  | .ld w => w.bytes
  | .st _ d => d.length
  | .amo _ w _ => w.bytes
  | .cas w _ _ => w.bytes

/-- The scopes that empty the read-only cache on acquire (14 R297). -/
def Scope.wide : Scope → Bool
  | .slot => false | .core => false | .cluster => true | .stack => true | .mdl => true | .fabric => true

/-- The v registers an operand names at a width. -/
def SFV.vs (d : SFV) (w : Width) : List VReg :=
  match d with
  | .v r => if w = .vv then [r, r + 1] else [r]
  | _ => []

end Sys2Proof

namespace Sys2Proof.Machine

/-- The address of a memory form (02 R32). -/
def memAddr (sl : Slot) (a : SReg) (m : MemArgs) : Word := sl.rs a + m.off.signExtend 64

/-- The address of an atomic form (04 R88). -/
def amoAddr (sl : Slot) (a : SReg) (m : AmoArgs) : Word := sl.rs a + m.off.signExtend 64

/-! ## Registers in stream mode (07 R163-R166) -/

/-- v12 to v15 by their stream number. -/
def streamIdx (r : VReg) : Option (Fin 4) := if 12 ≤ r.val then some (Fin.ofNat 4 (r.val - 12)) else none

/-- The register's stream, where it is in stream mode. -/
def Slot.stream (sl : Slot) (r : VReg) : Option Stream :=
  match streamIdx r with
  | some i => sl.streams[i]
  | none => none

/-- The elements of the whole pattern. -/
def Stream.total (st : Stream) : Nat := st.n.toList.foldl (· * ·) 1

/-- The elements of a strip (07 R163). -/
def Stream.lanes (st : Stream) : Nat := if st.width = 0 then 16 else if st.width = 1 then 32 else 64

/-- The bits of a lane. -/
def Stream.laneBits (st : Stream) : Nat := 512 / st.lanes

/-- A source register: the strip at the head of a read stream, else the register (07 R164). -/
def Slot.rvS (sl : Slot) (r : VReg) : VWord :=
  match sl.stream r with
  | some st => match st.buf with
    | p :: _ => if st.wr then sl.rv r else p.data
    | [] => sl.rv r
  | none => sl.rv r

def Slot.setStream (sl : Slot) (r : VReg) (st : Option Stream) : Slot :=
  match streamIdx r with
  | some i => { sl with streams := sl.streams.set i st }
  | none => sl

/-- One strip popped from a read stream: the register keeps its contents (07 R164). -/
def Slot.pop (sl : Slot) (r : VReg) : Slot :=
  match sl.stream r with
  | some st =>
    match st.buf with
    | p :: rest => if st.wr then sl else (sl.wv r p.data).setStream r (some { st with buf := rest, pos := st.pos + p.n })
    | [] => sl
  | none => sl

/-- Each read-streaming source popped once (07 R164). -/
def Slot.pops (sl : Slot) (rs : List VReg) : Slot := rs.eraseDups.foldl Slot.pop sl

/-- The elements of the next strip. -/
def Stream.stripLen (st : Stream) : Nat := min st.lanes (st.total - st.pos)

/-- A strip pushed, with the bytes that hold elements of the pattern and are active in `mask` (07 R164, 10 R208). -/
def Stream.push (st : Stream) (x : VWord) (mask : BitVec 64) : Stream :=
  let n := st.stripLen
  { st with buf := st.buf ++ [⟨x, n, none, mask &&& (BitVec.ofNat 64 (2 ^ (n * (st.laneBits / 8)) - 1))⟩], pos := st.pos + n }

/-- A destination register written, with the bytes that are active: a write stream takes a strip (07 R164). -/
def Slot.wvM (sl : Slot) (r : VReg) (x : VWord) (mask : BitVec 64) : Slot :=
  match sl.stream r with
  | some st => if st.wr then (sl.wv r x).setStream r (some (st.push x mask)) else sl.wv r x
  | none => sl.wv r x

def Slot.wvS (sl : Slot) (r : VReg) (x : VWord) : Slot := sl.wvM r x (BitVec.allOnes 64)

/-- What a source or destination in stream mode does to an instruction before any effect: nothing, a trap of class 6 or 4,
or a park (07 R165, R166). No rule gives `tval` of the class 6 traps: 0 (log entry 48). -/
inductive Gate
  | go
  | trap (cls sub : Nat) (va : Word)
  | wait (v : Fin 4)
  | page (va : Word)
  deriving DecidableEq, Repr

def gateRead (sl : Slot) (r : VReg) : Gate :=
  match sl.stream r, streamIdx r with
  | some st, some i =>
    if st.wr then .trap 6 2 0
    else if st.total ≤ st.pos then .trap 6 1 0
    else match st.buf with
    | [] => .wait i
    | p :: _ => match p.fault with
      | none => .go
      | some (0, va) => .page va
      | some (sub, va) => .trap 4 sub va
  | _, _ => .go

def gateWrite (sl : Slot) (r : VReg) : Gate :=
  match sl.stream r, streamIdx r with
  | some st, some i =>
    if !st.wr then .trap 6 2 0
    else if st.total ≤ st.pos then .trap 6 1 0
    else if 4 ≤ st.buf.length then .wait i
    else .go
  | _, _ => .go

/-- The gates of the operands in order; traps come before parks. -/
def gates (sl : Slot) (reads writes : List VReg) : Gate :=
  let gs := reads.map (gateRead sl) ++ writes.map (gateWrite sl)
  match gs.find? fun g => match g with | .trap _ _ _ => true | _ => false with
  | some g => g
  | none => (gs.find? fun g => g != .go).getD .go

/-- The strips found faulty are dropped, so that they are refilled after the trap or the park (07 R165). -/
def Stream.dropBad (st : Stream) : Stream :=
  let buf := st.buf.takeWhile fun p => p.fault.isNone
  { st with buf := buf, moved := if st.wr then st.moved else st.pos + (buf.map (·.n)).sum }

def Slot.dropBad (sl : Slot) : Slot := { sl with streams := mapV (fun x => x.map Stream.dropBad) sl.streams }

/-- An instruction goes on once its stream operands allow it. The message for an uncommitted page that a pop meets names a load (log entry 48). -/
def streamGate (s : State) (reads writes : List VReg) (k : Out) : Out :=
  match gates s.me reads writes with
  | .go => k
  | .trap c sub va => trap (s.mod Slot.dropBad) c sub va
  | .wait v => parkAgain s .stream (.stream v)
  | .page va => .next ((s.mod Slot.dropBad).parkPage s.cur [va.toNat / 32768] .load (.again (.page va [va.toNat / 32768] .load)))

/-- Loaded bytes written to their destination (04 R86, 08 R178); a write stream takes them as a strip (07 R164). -/
def Slot.wLoad (sl : Slot) (d : SFV) (sg : Bool) (bs : List Byte) : Slot :=
  let x := leNat bs
  match d with
  | .s r => sl.ws r (if sg then sext x (8 * bs.length) else BitVec.ofNat 64 x)
  | .f r => sl.wf r (BitVec.ofNat 64 x)
  | .v r => if bs.length ≤ 64 then sl.wvS r (vOf bs) else (sl.wvS r (vOf (bs.take 64))).wvS (r + 1) (vOf (bs.drop 64))

/-- The bytes a store writes. -/
def Slot.rStore (sl : Slot) (b : SFV) (w : Width) : List Byte :=
  match b with
  | .s r => leBytes w.bytes (sl.rs r).toNat
  | .f r => leBytes w.bytes (sl.rf r).toNat
  | .v r => if w = .vv then vBytes (sl.rvS r) ++ vBytes (sl.rvS (r + 1)) else vBytes (sl.rvS r)

end Sys2Proof.Machine
end

