-- ==== Sys2Proof/Machine/Global.lean ====
section
/-! DEFINITION. Global memory: loads, stores, atomics, fences, reservations, page commits, pools and translation control
(04 R86-R97, 06 R140-R144), and their performance at the home slices (14 R293-R296). -/

namespace Sys2Proof.Machine

/-! ## Shared operations -/

/-- The new value of an atomic on a word of `w` bytes (04 R88). -/
def amoNew (op : AmoOp) (w : Width) (old src : Nat) : Nat :=
  let n := 8 * w.bytes
  let o := BitVec.ofNat n old
  let x := BitVec.ofNat n src
  match op with
  | .add => (o + x).toNat
  | .and => (o &&& x).toNat
  | .or => (o ||| x).toNat
  | .xor => (o ^^^ x).toNat
  | .min => (if o.toInt ≤ x.toInt then o else x).toNat
  | .max => (if o.toInt ≤ x.toInt then x else o).toNat
  | .umin => min o.toNat x.toNat
  | .umax => max o.toNat x.toNat
  | .swap => x.toNat
  | .fadd => if w = .w then (add32 (BitVec.ofNat 32 old) (BitVec.ofNat 32 src)).toNat
      else (add64 (BitVec.ofNat 64 old) (BitVec.ofNat 64 src)).toNat

/-- The store may be performed after all of the slot's stores that it carries (14 R419). -/
def State.carried (s : State) (sl : Slot) : Bool :=
  sl.carry.any fun (w, n) => (s.slot w).storeQ.any fun e => decide (e.id < n)

/-- An access that nothing can hold back once it has issued waits while a posted release of the slot is not yet performed
(14 R293; log entry 44). -/
def afterRelease (s : State) (k : Out) : Out := if s.me.releasing then parkAgain s .storeQueue .release else k

/-- An access that passes `check` goes on; otherwise it traps or parks before any effect (04 R81-R84, 14 R419). -/
def withCheck (s : State) (va : Word) (n : Nat) (kind : AccKind) (align : Nat) (win : Bool)
    (k : State → List Seg → Out) : Out :=
  match s.access s.cur va n kind align win with
  | (s, .ok segs) => if s.carried s.me then parkAgain s .storeQueue .carry else k s segs
  | (s, .trap sub v) => trap s 4 sub v
  | (s, .miss) => parkAgain s .translate (.walk va n kind align)
  | (s, .sparse ps) => .next (s.parkPage s.cur ps kind (.again (.page va ps kind)))

/-- HBM4 holds what is stored at once (04 R79). -/
def Seg.through (g : Seg) : Bool := g.leaf.getLsbD 56 || cacheLevel g.leaf == 2

/-- Whether any byte lies in a queued store's parts. -/
def StoreEntry.touches (e : StoreEntry) (segs : List Seg) : Bool :=
  e.parts.any fun p => segs.any fun g => decide (p.pa < g.pa + g.len) && decide (g.pa < p.pa + p.data.length)

/-- The queued stores and atomics that overlap an access. -/
def Slot.overlapping (sl : Slot) (segs : List Seg) : List Nat := (sl.storeQ.filter (·.touches segs)).map (·.id)

/-- The newest queued value of a byte, where a plain store holds it (14 R294). -/
def Slot.queued (sl : Slot) (pa : Nat) : Option Byte :=
  sl.storeQ.foldl (fun acc e => e.parts.foldl (fun acc p =>
    if p.pa ≤ pa ∧ pa < p.pa + p.data.length then (if e.op.isNone then p.data[pa - p.pa]? else none) else acc) acc) none

/-- All bytes of an access forwarded from the store queue (14 R294). -/
def Slot.forward (sl : Slot) (segs : List Seg) : Option (List Byte) :=
  let bs := (segs.map fun g => (List.range g.len).map fun i => sl.queued (g.pa + i)).flatten
  if bs.all (·.isSome) then some (bs.filterMap id) else none

/-- The touched-bank bits of an access's home slices (04 R86). -/
def State.tbmOf (s : State) (segs : List Seg) : BitVec 49 :=
  segs.foldl (fun m g => m ||| (1#49 <<< (s.group g.pa).val)) 0

/-- A posted store or atomic enters the store queue, or parks while it is full (04 R86, R88). -/
def postStore (s : State) (segs : List Seg) (bs : List Byte) (op : Option (AmoOp × Word)) (rel fabric : Bool)
    (pops : List VReg) : Out :=
  let sl := s.me
  if 16 ≤ sl.storeQ.length then parkAgain s .storeQueue .queue
  else
    let parts := segs.map fun g => ⟨g.pa, (bs.drop g.off).take g.len, g.through⟩
    let e : StoreEntry := ⟨sl.nextStore, op, parts, rel, if fabric then sl.postedIds else sl.relIds⟩
    let m := s.tbmOf segs
    retire s fun sl => { sl.pops pops with storeQ := sl.storeQ ++ [e], nextStore := sl.nextStore + 1, tbm := sl.tbm ||| m }

/-- A load is answered from the store queue, the read-only cache or its home slices; one that waited for a queued store is performed at its
home slices (04 R80, R86, 14 R294, R295). -/
def globalLoad (s : State) (d : SFV) (w : Width) (sg : Bool) (sc : Scope) (va : Word) (segs : List Seg) : Out :=
  let sl := s.me
  let ids := sl.overlapping segs
  match sl.forward segs with
  | some bs => retire s fun sl => sl.wLoad d sg bs
  | none =>
    if !ids.isEmpty then .next ((s.park .storeQueue (.again (.stores ids))).mod fun sl => { sl with atHome := true })
    else
      let ro := (sc = .slot ∨ sc = .core) ∧ (∀ g ∈ segs, cacheLevel g.leaf = 0) ∧ ¬ sl.atHome
      let words := (segs.map fun g => wordsOf g.pa g.len).flatten
      let cache := s.myCore.ro
      let hit := decide ro && words.all fun w => cache.any (·.1 == w)
      let (c, s) := if hit then s.pick 2 else (0, s)
      if c = 1 then
        let byte (pa : Nat) : Byte := (leBytes 8 (assocD cache (pa / 8) 0).toNat).getD (pa % 8) 0
        let bs := (segs.map fun g => (List.range g.len).map fun i => byte (g.pa + i)).flatten
        retire s fun sl => sl.wLoad d sg bs
      else
        let parts := segs.map fun g => (g.off, g.pa, g.len, g.through)
        .next (s.park .globalLoad (.glob ⟨.ld d w sg sc false, va, decide ro, parts, [], none⟩))

/-- A plain load (04 R86). -/
def doLoad (h : Hdr) (s : State) (d : SFV) (a : SReg) (m : MemArgs) : Out :=
  guarded h s (
    streamGate s [] (d.vs m.width) (
    let va := memAddr s.me a m
    withCheck s va m.width.bytes .load m.width.align (m.width = .w) fun s segs =>
      globalLoad s d m.width m.sg m.scope va segs))

/-- A plain store (04 R86). -/
def doStore (h : Hdr) (s : State) (b : SFV) (a : SReg) (m : MemArgs) : Out :=
  guarded h s (
    streamGate s (b.vs m.width) [] (
    let va := memAddr s.me a m
    withCheck s va m.width.bytes .store m.width.align (m.width = .w) fun s segs =>
      postStore s segs (s.me.rStore b m.width) none false false (b.vs m.width)))

/-- An f or v register is no operand of a guest (12 R261). -/
def guestF (s : State) (isF : Bool) (k : Out) (tval : Word := 0) : Out := if isF && s.me.hosting.isSome then trap s 9 4 tval else k

/-! ## Loads and stores (04 R86) -/

def execLdg (h : Hdr) (d : SF) (a : SReg) (m : MemArgs) (s : State) : Out :=
  guarded h s (guestF s d.isF (doLoad Hdr.plain s d.toSFV a m))
def execStg (h : Hdr) (b : SF) (a : SReg) (m : MemArgs) (s : State) : Out :=
  guarded h s (guestF s b.isF (doStore Hdr.plain s b.toSFV a m))
def execLdgv (h : Hdr) (d : VReg) (a : SReg) (m : MemArgs) (s : State) : Out :=
  guarded h s (guestF s true (doLoad Hdr.plain s (.v d) a m))
def execStgv (h : Hdr) (b : VReg) (a : SReg) (m : MemArgs) (s : State) : Out :=
  guarded h s (guestF s true (doStore Hdr.plain s (.v b) a m))

/-! ## Atomics (04 R88) -/

/-- An atomic of the window names one of the operations of 08 R177. -/
def winAmo (op : Option AmoOp) (w : Width) (posted : Bool) : Bool :=
  decide (w = .w) && (match op with
    | none => true
    | some .add => true
    | some .swap => !posted
    | _ => false)

/-- An atomic that returns a value parks until its home slice has executed it. -/
def doAmo (s : State) (g : GOp) (op : Option AmoOp) (a : SReg) (m : AmoArgs) : Out :=
  let va := amoAddr s.me a m
  withCheck s va m.width.bytes .atomic m.width.bytes (winAmo op m.width false) fun s segs =>
    let ids := s.me.overlapping segs
    if !ids.isEmpty then parkAgain s .storeQueue (.stores ids)
    else .next (s.park .globalLoad (.glob ⟨g, va, false, segs.map fun g => (g.off, g.pa, g.len, g.through), [], none⟩))

def execAmo (h : Hdr) (op : AmoOp) (d a b : SReg) (m : AmoArgs) (s : State) : Out :=
  guarded h s (doAmo s (.amo op d m.width (s.me.rs b) m.scope) (some op) a m)

def execAmocas (h : Hdr) (d a b : SReg) (m : AmoArgs) (s : State) : Out :=
  guarded h s (doAmo s (.cas d m.width (s.me.rs d) (s.me.rs b) m.scope) none a m)

def execAmox (h : Hdr) (op : AmoOp) (a b : SReg) (m : AmoArgs) (s : State) : Out :=
  guarded h s (
    let va := amoAddr s.me a m
    withCheck s va m.width.bytes .atomic m.width.bytes (winAmo (some op) m.width true) fun s segs =>
      let ids := s.me.overlapping segs
      if !ids.isEmpty then parkAgain s .storeQueue (.stores ids)
      else postStore s segs (leBytes m.width.bytes (s.me.rs b).toNat) (some (op, s.me.rs b)) (m.scope != .slot)
        (m.scope == .fabric) [])

/-! ## Prefetch and fence (04 R89, R90) -/

/-- Words of a line kept by the read-only cache of 1,024 words (01 R19). -/
def Core.roKeep (c : Core) (ws : List (Nat × Word)) : Core :=
  let l := c.ro.filter (fun x => !ws.any (·.1 == x.1)) ++ ws
  { c with ro := l.drop (l.length - 1024) }

def execPref (h : Hdr) (ro : Bool) (a : SReg) (off : BitVec 41) (s : State) : Out :=
  guarded h s (
    let va := (s.me.rs a + off.signExtend 64).toNat
    let root := s.rootOf s.cur
    let line : Option Nat :=
      if ro ∧ va < 2 ^ 48 then
        match tlbFind s.myCore.tlb root (va / 32768) with
        | some t =>
          let pa := paOf t.leaf t.size va / 128 * 128
          if cacheLevel t.leaf = 0 ∧ inHbm pa ∧ ¬ s.poisoned pa 128 then some pa else none
        | none => none
      else none
    let s := match line with
      | some pa => s.modMyCore (·.roKeep ((List.range 16).map fun i => (pa / 8 + i, s.mem.word (pa + 8 * i))))
      | none => s
    retire s id)

/-- A core's read-only cache drops its copies of the words that an operation of one of its slots has changed (04 R80, 14 R295). -/
def State.roFresh (s : State) (c : CoreId) (old : Memory) : State :=
  s.modCore c fun k => { k with ro := k.ro.filter fun x => decide (s.mem.word (x.1 * 8) = old.word (x.1 * 8)) }

/-- An acquire of the scope by a slot of the core (14 R297). -/
def State.acquire (s : State) (c : CoreId) (sc : Scope) : State :=
  if sc.wide then s.modCore c fun k => { k with ro := [] } else s

/-- The slice groups whose bit is set. -/
def groupsOf (m : BitVec 49) : List (Fin 48) := (List.finRange 48).filter fun g => m.getLsbD g.val

def execFence (h : Hdr) (sc : Scope) (s : State) : Out :=
  guarded h s (
    if sc = .slot then retire s id
    else
      let m := s.me.tbm
      .next ((s.park .fence (.fence sc (groupsOf m) [])).mod fun sl => { sl with object := m.setWidth 64 }))

/-! ## Reservation (06 R140-R143) -/

def execLdres (h : Hdr) (d : SFV) (a : SReg) (m : MemArgs) (s : State) : Out :=
  guarded h s (guestF s (match d with | .s _ => false | _ => true) (
    streamGate s [] (d.vs m.width) (
    let va := memAddr s.me a m
    withCheck s va m.width.bytes .load m.width.bytes (m.width = .w) fun s segs =>
      let ids := s.me.overlapping segs
      if !ids.isEmpty then parkAgain s .storeQueue (.stores ids)
      else .next (s.park .globalLoad
        (.glob ⟨.ld d m.width m.sg m.scope true, va, false, segs.map fun g => (g.off, g.pa, g.len, g.through), [], none⟩)))))

/-- The reservation of a line recorded at the slice and in the slot (06 R140, R142). -/
def State.reserve (s : State) (w : Who) (pa : Nat) : State :=
  if inWindow pa then s
  else
    let line := pa / 128 * 128
    let i := s.resIdx line
    let t := s.resTabs[i]
    let e : ResLine := match t.lines.find? (·.line == line) with
      | some e => e
      | none => ⟨line, t.serial, 0⟩
    let isNew := !t.lines.any (·.line == line)
    let ls := t.lines.filter (·.line ≠ line) ++ [e]
    let t' : ResTab := ⟨ls.drop (ls.length - 1024), if isNew then t.serial + 1 else t.serial⟩
    let s := { s with resTabs := s.resTabs.set i t' }
    s.modSlot w fun sl =>
      let r : Resv := ⟨line, e.serial, e.stamp⟩
      if sl.resv.any (·.line == line) then
        { sl with resv := sl.resv.map fun x => if x.line = line then r else x }
      else { sl with resv := sl.resv.drop (sl.resv.length - 3) ++ [r] }

/-- The entries of a `cmstore` descriptor: line, mask, reserved bytes, data. -/
def cmEntries (c : Core) (d n : Nat) : List (Word × BitVec 16 × Nat × List Byte) :=
  (List.range n).map fun i =>
    let e := d + 144 * i
    (c.sp.word e, BitVec.ofNat 16 (c.sp.num (e + 8) 2), c.sp.num (e + 10) 6, c.sp.read (e + 16) 128)

/-- An entry is checked as a store, one that writes nothing as a load (06 R143). -/
def cmKind (mask : BitVec 16) : AccKind := if mask = 0 then .load else .store

/-- The checks of every entry: its address, its kind and what its check answers. -/
def State.cmScan (s : State) (es : List (Word × BitVec 16 × Nat × List Byte)) : State × List (Word × AccKind × Chk) :=
  es.foldl (fun (r : State × List (Word × AccKind × Chk)) e =>
    let (s, c) := r.1.check r.1.cur e.1 128 (cmKind e.2.1) 1 false
    (s, r.2 ++ [(e.1, cmKind e.2.1, c)])) (s, [])

/-- The first condition in the order of 04 R81 that any entry meets, with the lowest byte that meets it (04 R82). -/
def firstFault : List (Word × AccKind × Chk) → Option (Nat × Word)
  | [] => none
  | (_, _, .trap sub v) :: r => match firstFault r with
    | some (u, x) => if u < sub ∨ (u = sub ∧ x.toNat < v.toNat) then some (u, x) else some (sub, v)
    | none => some (sub, v)
  | _ :: r => firstFault r

/-- The uncommitted pages of the entries. -/
def cmSparse (l : List (Word × AccKind × Chk)) : List Nat :=
  ((l.map fun x => match x.2.2 with | .sparse ps => ps | _ => []).flatten).eraseDups

/-- The checks of the entries, all of them before anything is committed (06 R143, 04 R82, R83): the lines they name, or a trap or a park. -/
def cmChecks (s : State) (es : List (Word × BitVec 16 × Nat × List Byte)) (k : State → List CmLine → Out) : Out :=
  let (s, l) := s.cmScan es
  match l.find? fun x => decide (x.2.2 = .miss) with
  | some (va, kind, _) => parkAgain s .translate (.walk va 128 kind 1)
  | none => match firstFault l with
    | some (sub, v) => trap s 4 sub v
    | none =>
      let (s, l) := if (cmSparse l).isEmpty then (s, l)
        else
          let t := s.autoCommits s.cur (cmSparse l)
          (t.takeWalks s.cur (t.walks (t.rootOf s.cur) (cmSparse l))).cmScan es
      match l.find? fun x => match x.2.2 with | .sparse _ => true | _ => false with
      | some (va, kind, _) => .next (s.parkPage s.cur (cmSparse l) kind (.again (.page va (cmSparse l) kind)))
      | none =>
        if s.carried s.me then parkAgain s .storeQueue .carry
        else k s ((es.zip l).filterMap fun x => match x.2.2.2 with
          | .ok (g :: _) => some ⟨g.pa, x.1.2.1, x.1.2.2.2, g.through⟩
          | _ => none)

/-- A `cmstore` that ends with a code before reaching a slice: the reservation set is cleared all the same. -/
def cmCode (s : State) (d : SReg) (code : Nat) : Out :=
  retire s fun sl => { sl with resv := [] }.ws d (BitVec.ofNat 64 code)

def execCmstore (h : Hdr) (sc : Scope) (d a b : SReg) (off : BitVec 41) (s : State) : Out :=
  guarded h s (afterRelease s (
    let addr := (s.me.rs a + off.signExtend 64).toNat
    let n := (s.me.rs b).toNat
    if n < 1 ∨ 4 < n ∨ addr % 16 ≠ 0 ∨ 0x30000 < addr + 144 * n then cmCode s d 4
    else
      let es := cmEntries s.myCore addr n
      if es.any fun e => decide (e.2.2.1 ≠ 0) || decide (e.1 &&& 0x7F ≠ 0) then cmCode s d 4
      else cmChecks s es fun s ls =>
        match ls with
        | [] => cmCode s d 4
        | l :: r =>
          if r.any fun x => s.resIdx x.line != s.resIdx l.line then cmCode s d 3
          else .next (s.park .globalLoad (.sys (.cmstore d ls sc)))))

/-- The indivisible step at the home slice (06 R143): the code and the state. -/
def State.cmPerform (s : State) (w : Who) (ls : List CmLine) : Nat × State :=
  let sl := s.slot w
  let live (l : CmLine) : Option Bool := (sl.resv.find? (·.line == l.line)).map fun r =>
    s.resTabs[s.resIdx l.line].lines.any fun e => e.line == l.line && e.serial == r.serial && decide (e.stamp = r.stamp)
  if ls.any fun l => (live l).isNone then (2, s)
  else if ls.any fun l => live l != some true then (1, s)
  else
    let put (s : State) (l : CmLine) : State := (List.range 16).foldl (fun s i =>
      if l.mask.getLsbD i then s.writeWord (l.line + 8 * i) ((l.data.drop (8 * i)).take 8) l.through else s) s
    let s1 := ls.foldl put s
    let lines := ((ls.filter fun l => l.mask ≠ 0).map (·.line)).eraseDups
    let s2 := lines.foldl State.bumpLine s1
    let c := ls.foldl (fun (c : Core) l => (List.range 16).foldl (fun c i =>
      if l.mask.getLsbD i then c.roUpdate (l.line + 8 * i) ((l.data.drop (8 * i)).take 8) else c) c) (s2.core w.core)
    (0, s2.modCore w.core fun _ => c)

/-! ## Commit, decommit, pools (04 R91-R94) -/

def execCommit (h : Hdr) (d a b : SReg) (off : BitVec 41) (s : State) : Out :=
  homeOnly h s (.next (s.park .globalLoad (.sys (.commit d (s.me.rs a + off.signExtend 64) (s.me.rs b)))))

/-- The byte a denial of a page reports for an operation that waits for it (07 R158). -/
def CopyOp.deniedAt (o : CopyOp) (page : Nat) : Option Word :=
  if o.st = .commitWait then o.waits.find? fun va => va.toNat / 32768 == page else none

/-- A page is denied: an operation of the context that waits for it faults, where the context holds no faulted one; every other one records
the denial (07 R158). -/
def CopyCtx.deny (c : CopyCtx) (page : Nat) : CopyCtx × Option Word :=
  let first := if c.ops.any fun o => decide (o.st = .faulted) then none else c.ops.find? fun o => (o.deniedAt page).isSome
  let op (o : CopyOp) : CopyOp := match o.deniedAt page with
    | none => o
    | some va =>
      if (first.map (·.num)) = some o.num then
        { o with st := .faulted, fault := some (va, 7), trapped := false, waits := [], denied := none, ahead := [] }
      else { o with denied := some (o.denied.getD va) }
  ({ c with ops := c.ops.map op }, first.bind (·.deniedAt page))

/-- A collective operation that waits for the page notes the denial. -/
def CollCtx.deny (c : CollCtx) (page : Nat) : CollCtx :=
  { c with ops := c.ops.map fun o => if o.page = some (page, false) then { o with page := some (page, true) } else o }

/-- A page is denied: a slot parked on it traps, and its copies and collectives that wait for it are told (04 R91, 07 R158). -/
def Slot.denyPage (sl : Slot) (page : Nat) : Slot :=
  let (c, f) := sl.cctx.deny page
  let sl := { sl with cctx := c, xctx := sl.xctx.deny page, pendCopy := if f.isSome then f else sl.pendCopy }
  match sl.wait with
  | .again (.page va ps kind) =>
    if page ∈ ps then { sl with reply := some (if kind = .fetch then .trap 2 7 va
      else .trap 4 7 (BitVec.ofNat 64 (max va.toNat (page * 32768)))) } else sl
  | .fetch pc => if (pc * 12).toNat / 32768 = page ∨ (pc * 12 + 11).toNat / 32768 = page then
      { sl with reply := some (.trap 2 7 (pc * 12)) } else sl
  | _ => sl

/-- The answer a denied remote request gets (12 R254). -/
def denyRemote (me : Fin 4096) (p : Packet) : Option Packet :=
  match p.body with
  | .rreq src id _ _ _ true => some ⟨.io, agentDst me src, .reply, .rack src id (some ⟨7, me, 1⟩)⟩
  | .rreq src id _ _ _ false => some ⟨.io, agentDst me src, .reply, .rrep src id (.fail 0x17 7)⟩
  | _ => none

def State.denyPage (s : State) (root : Word) (page : Nat) : State :=
  let s := s.dropPend root page
  let s := s.allSlots.foldl (fun s w => if s.rootOf w = root then s.modSlot w (·.denyPage page) else s) s
  let on (f : Flight) : Bool := f.waits && (match f.pkt.body with
    | .rreq _ _ job va op _ => decide (page ∈ pagesOf (va.toNat % 2 ^ 48) op.bytes) &&
        (s.jobLaunches job).any fun l => decide (l.root = root)
    | _ => false)
  let hit := s.net.filter on
  let s := s.setNet (s.net.filter fun x => !on x)
  s.sendAll (hit.filterMap fun (x : Flight) => denyRemote s.modId x.pkt)

/-- `commit` performed at the page's entry (04 R91): the code and the state. An address above 48 bits and a walk that ends in a malformed
or poisoned entry give code 2, as every walk without such a leaf (log entry 46). -/
def State.commitPage (s : State) (root va frame : Word) (st : Fin 6) : Nat × State :=
  let page := va.toNat / 32768
  if 2 ^ 48 ≤ va.toNat then (2, s)
  else match s.walk root va.toNat with
  | (.leaf e 1, _) => if e.getLsbD 61 then (1, s) else (2, s)
  | (.sparse e, ea) =>
    if frame = 0xFFFFFFFFFFFFFFFF then (5, s.denyPage root page)
    else if frame = 0 then
      match s.takeFrame (poolFor e st) with
      | none => (3, s)
      | some (f, s) => (0, ((s.zeroFrame f).setCommit ea f).dropPend root page)
    else
      let f := frame.toNat
      if f % 32768 != 0 || !inHbm f || e.getLsbD 52 != decide (f < s.ilvTop) then (4, s)
      else (0, (s.setCommit ea f).dropPend root page)
  | _ => (2, s)

/-- The slot is parked on an access that has been translated. -/
def Wait.translated : Wait → Bool
  | .glob _ => true
  | .sys (.cmstore _ _ _) => true
  | .sys (.wback _ _) => true
  | _ => false

/-- The accesses in flight on the module. -/
def State.inFlight (s : State) : InFlight where
  stores := s.allSlots.map fun w => (w, (s.slot w).nextStore)
  loads := (s.allSlots.filter fun w => (s.slot w).wait.translated).map fun w => (w, (s.slot w).parkedAt)
  remote := s.net.filterMap fun f => match f.pkt.body with
    | .rreq src id _ _ _ _ => if f.work.isSome then some (src, id) else none
    | _ => none
  copies := (s.allSlots.map fun w => ((s.slot w).cctx.ops.filter fun o => !o.out.isEmpty).map fun o => (w, o.num, o.sector)).flatten

/-- None of them is in flight any more. -/
def State.landed (s : State) (f : InFlight) : Bool :=
  (f.stores.all fun (w, n) => (s.slot w).storeQ.all fun e => decide (n ≤ e.id)) &&
  (f.loads.all fun (w, r) => !(s.slot w).wait.translated || (s.slot w).parkedAt != r || (s.slot w).reply.isSome) &&
  (f.remote.all fun (a, id) => s.net.all fun g => match g.pkt.body with
    | .rreq src i _ _ _ _ => !(decide (src = a) && i == id)
    | _ => true) &&
  (f.copies.all fun (w, n, k) => (s.slot w).cctx.ops.all fun o => !(decide (o.num = n) && o.sector == k && !o.out.isEmpty))

/-- A slot drops what walks have found for it, of a page or of all. -/
def Slot.dropWalks (sl : Slot) (page : Option Nat) : Slot :=
  { sl with walks := sl.walks.filter fun r => page.any (· != r.1) }

/-- The translations of a page dropped from every cache and walker of the module, or from one core's (04 R92, R96): an access that has not
gone beyond its walk walks again. -/
def State.dropTlb (s : State) (only : Option CoreId) (root : Word) (page : Option Nat) : State :=
  let keep (t : TlbEntry) : Bool :=
    !(decide (t.root = root) && (match page with
      | none => true
      | some p => decide (t.page ≤ p) && decide (p < t.page + t.size)))
  let hit (c : CoreId) : Bool := only.isNone || decide (only = some c)
  let s := { s with
    cores := s.cores.map fun (x : CoreId × Core) => if hit x.1 then (x.1, { x.2 with tlb := x.2.tlb.filter keep }) else x }
  let s := s.allSlots.foldl (fun (s : State) (w : Who) =>
    if hit w.core && decide (s.rootOf w = root) then s.modSlot w (·.dropWalks page) else s) s
  if only.isSome then s
  else { s with engines := s.engines.map fun (x : ClusterId × Engine) => (x.1, { x.2 with ctlb := x.2.ctlb.filter keep }) }

/-- A frame's lines dropped from their slices: the words HBM4 holds older take that value (04 R92). -/
def State.dropFrame (s : State) (frame : Nat) : State :=
  let inF (w : Nat) : Bool := decide (frame ≤ w * 8) && decide (w * 8 < frame + 32768)
  let old := s.stale.filter fun x => inF x.1
  let s := { s with
    mem := old.foldl (fun m (x : Nat × Word) => Memory.setNum m (x.1 * 8) 8 x.2.toNat) s.mem
    stale := s.stale.filter fun x => !inF x.1 }
  { s with resTabs := mapV (fun t => ResTab.bumpAll t fun a => inF (a / 8)) s.resTabs }

def execDecommit (h : Hdr) (d a : SReg) (off : BitVec 41) (s : State) : Out :=
  homeOnly h s (
    let va := (s.me.rs a + off.signExtend 64).toNat
    let root := s.rootOf s.cur
    let found : Option (Word × Nat) := if 2 ^ 48 ≤ va then none else
      match s.walk root va with
      | (.leaf e 1, ea) => if e.getLsbD 61 then some (e, ea) else none
      | _ => none
    match found with
    | none => .next (s.park .fence (.sys (.decommit d 0 ⟨[], [], [], []⟩)))
    | some (e, ea) =>
      let s := (s.gwrite ea (leBytes 8 (e &&& 0xEFFFFFFFFFFFFFFF#64).toNat) false).roFresh s.cur.core s.mem
      let s := s.dropTlb none root (some (va / 32768))
      .next (s.park .fence (.sys (.decommit d (frameOf e) s.inFlight))))

def execPalloc (h : Hdr) (d a : SReg) (s : State) : Out :=
  homeOnly h s (.next (s.park .globalLoad (.sys (.palloc d (Fin.ofNat 8 (s.me.rs a).toNat)))))

def execPfree (h : Hdr) (d a : SReg) (s : State) : Out :=
  homeOnly h s (.next (s.park .globalLoad (.sys (.pfree d (s.me.rs a)))))

/-- The pool an address determines (04 R85, R94). -/
def State.poolOf (s : State) (pa : Nat) : Fin 7 := if pa < s.ilvTop then 6 else Fin.castLE (by omega) (s.stackOf pa)

/-- A frame returned to a pool, unless it is free there already (04 R94). -/
def State.addFrame (s : State) (p : Fin 7) (f : Nat) : Nat × State :=
  if f ∈ s.pools[p] then (1, s) else (0, { s with pools := s.pools.set p (s.pools[p] ++ [f]) })

/-- `pfree` at the pool (04 R94). -/
def State.freeFrame (s : State) (frame : Word) : Nat × State :=
  let f := frame.toNat
  if f % 32768 != 0 || !inHbm f || f == 0 then (2, s)
  else s.addFrame (s.poolOf f) f

/-! ## Translation and line control (04 R95-R97) -/

/-- What `xlat` writes (04 R95). -/
def xlatWord (va : Nat) (r : Walk) (win : Nat → Bool) : Word :=
  let fault (sub : Nat) : Word := 0x2000000000000000#64 ||| (BitVec.ofNat 64 sub <<< 53)
  if 0x1000000000000 ≤ va then fault 1
  else match r with
  | .fault sub => fault sub
  | .sparse _ => 0x4000000000000000#64
  | .leaf e size =>
    let pa := paOf e size va
    if win pa then fault 9
    else 0x8000000000000000#64 ||| ((e.extractLsb' 52 9).setWidth 64 <<< 44) ||| BitVec.ofNat 64 pa

/-- `xlat` reads the table itself in its issue cycle: it looks in no translation cache and never parks with reason translate, on which 04 R95
says nothing (log entry 43). -/
def execXlat (h : Hdr) (d a : SReg) (off : BitVec 41) (s : State) : Out :=
  guarded h s (
    let va := (s.me.rs a + off.signExtend 64).toNat
    let x := xlatWord va (s.walk (s.rootOf s.cur) va).1 (badPa true)
    retire s fun sl => sl.ws d x)

def execTlbinv (h : Hdr) (all mdl : Bool) (a : SReg) (off : BitVec 41) (s : State) : Out :=
  homeOnly h s (
    let va := (s.me.rs a + off.signExtend 64).toNat
    let s := s.dropTlb (if mdl then none else some s.cur.core) (s.rootOf s.cur) (if all then none else some (va / 32768))
    let f := s.inFlight
    let mine (w : Who) : Bool := mdl || decide (w.core = s.cur.core)
    .next (s.park .fence (.sys (.tlbinv ⟨f.stores.filter fun x => mine x.1, f.loads.filter fun x => mine x.1, if mdl then f.remote else [], f.copies.filter fun x => mdl || decide (clusterOf x.1.core = clusterOf s.cur.core)⟩))))

def execWback (h : Hdr) (page : Bool) (a : SReg) (off : BitVec 41) (s : State) : Out :=
  homeOnly h s (
    let va := s.me.rs a + off.signExtend 64
    match s.check s.cur va 1 .load 1 false with
    | (s, .ok (g :: _)) =>
      let n := if page then g.size * 32768 else 128
      .next (s.park .fence (.sys (.wback (g.pa / n * n) n)))
    | (s, .ok []) => retire s id
    | (s, .trap sub v) => trap s 4 sub v
    | (s, .miss) => parkAgain s .translate (.walk va 1 .load 1)
    | (s, .sparse _) => retire s id)

/-- The dirty words of a line or page written back (04 R97). -/
def State.writeBack (s : State) (lo n : Nat) : State :=
  { s with stale := s.stale.filter fun x => !(decide (lo ≤ x.1 * 8) && decide (x.1 * 8 < lo + n)) }

/-! ## Events at the slices -/

/-- The walks of a slot parked with reason translate complete, for it and for every slot whose miss is merged into them (04 R76). The four
entries of a walk are read in one step (log entry 9). -/
def execTranslationWalk (w : Who) (s : State) : Out :=
  let root := s.rootOf w
  .next (s.shareWalks w.core.stack root (s.walks root (s.slot w).missing))

/-- A slot waiting for room in the pending-commit table enters it (04 R83). -/
def execPendingCommitRetry (w : Who) (s : State) : Out :=
  match (s.slot w).wait with
  | .again (.page _ ps kind) => .next (s.pendPages w (s.uncommitted w ps) kind)
  | .fetch pc => if (s.slot w).reason = .pageCommit then .next (s.pendPages w (s.uncommitted w (pagesOf (pc * 12).toNat 12)) .fetch)
    else .next s
  | _ => .next s

/-- The value of a mailbox counter in the window. -/
def State.counter (s : State) (pa : Nat) : BitVec 32 :=
  match counterAt pa with
  | some (c, i) => (s.core c).mb[i]
  | none => 0

/-- A counter of the window set (08 R176, R177). -/
def State.setCounter (s : State) (pa : Nat) (x : BitVec 32) : State :=
  match counterAt pa with
  | some (c, i) => if (s.core c).mb[i] = x then s else (s.modCore c fun k => { k with mb := k.mb.set i x }).wakeSleepers c 3
  | none => s

/-- The bytes of an access at its place of performance. -/
def State.readAt (s : State) (pa n : Nat) : List Byte :=
  if inWindow pa then leBytes n (s.counter pa).toNat else s.gread pa n

/-- Bytes written at their place of performance by a slot of a core. -/
def State.writeAt (s : State) (c : CoreId) (pa : Nat) (bs : List Byte) (through : Bool) : State :=
  if inWindow pa then s.setCounter pa (BitVec.ofNat 32 (leNat bs))
  else
    let kept := (wordParts pa bs).filter fun p => !s.refuses p
    (s.gwrite pa bs through).modCore c fun k => kept.foldl (fun k p => k.roUpdate p.1 p.2) k

/-- A queued entry's part may be performed: the first for its home in the queue, and for a release, after every earlier
entry (14 R293, R296); no entry before the remote writes and increments it waits for, nor over a link that retrains (06 R139). -/
def State.storeReady (s : State) (w : Who) (k part : Nat) : Bool :=
  let sl := s.slot w
  match sl.storeQ[k]? with
  | none => false
  | some e =>
    match e.parts[part]? with
    | none => false
    | some p =>
      let earlier := sl.storeQ.take k
      (earlier.all fun x => !x.rel && x.parts.all fun q => decide (s.home q.pa ≠ s.home p.pa)) &&
        sl.idsDone e.acks && (!e.rel || earlier.isEmpty) && s.way (some w.core.stack) p.pa != .held

/-- The part of a queued store performed (14 R291). A posted atomic on a poisoned word is discarded (04 R72). A part whose way is lost
ends with an error and is reported as a failed item (06 R139; log entry 45). -/
def State.performStore (s : State) (w : Who) (k part : Nat) : State :=
  match (s.slot w).storeQ[k]? with
  | none => s
  | some e =>
    match e.parts[part]? with
    | none => s
    | some p =>
      let n := p.data.length
      let s :=
        if s.way (some w.core.stack) p.pa = .lost then s.failItems w.core 1
        else
          let s := s.crossed (some w.core.stack) p.pa
          match e.op with
          | none => s.writeAt w.core p.pa p.data p.through
          | some (op, x) =>
            if !inWindow p.pa && s.poisoned p.pa n then s.raise .poison (stackDie (s.stackOf p.pa)) [p.pa]
            else
              let wd : Width := if n = 4 then .w else .d
              s.writeAt w.core p.pa (leBytes n (amoNew op wd (leNat (s.readAt p.pa n)) x.toNat)) p.through
      s.modSlot w fun sl =>
        let e' := { e with parts := e.parts.eraseIdx part }
        { sl with storeQ := if e'.parts.isEmpty then sl.storeQ.eraseIdx k else sl.storeQ.set k e' }

/-- A parked access may be performed: no posted release of the slot is still open; an atomic follows the stores to its home
slice, and with a scope beyond slot every store of the slot, at fabric scope every remote write (14 R293, R296). -/
def State.loadReady (s : State) (w : Who) (part : Nat) : Bool :=
  let sl := s.slot w
  match sl.wait with
  | .glob r =>
    match r.parts[part]? with
    | none => false
    | some (_, pa, _, _) =>
      let atomic (sc : Scope) : Bool :=
        (sl.storeQ.all fun e => e.parts.all fun q => decide (s.home q.pa ≠ s.home pa)) &&
        (sc == .slot || sl.storeQ.isEmpty) && (sc != .fabric || sl.outst.isEmpty)
      sl.reply.isNone && !sl.releasing && s.way (some w.core.stack) pa != .held && (match r.op with
        | .ld _ _ _ _ _ => true
        | .amo _ _ _ _ sc => atomic sc
        | .cas _ _ _ _ sc => atomic sc)
  | _ => false

/-- The answer of an access whose parts are all performed: its bytes, or the trap for the lowest poisoned one (04 R82). -/
def GReq.answer (r : GReq) : Option Reply :=
  if !r.parts.isEmpty then none
  else match r.bad with
  | some o => some (.trap 4 6 (r.va + BitVec.ofNat 64 o))
  | none => some (.data ((sortBy (·.1) r.got).map (·.2)).flatten)

/-- A part of a parked access performed; with the last one the answer is complete (04 R72, R86, R88, 06 R142). An access whose way is
lost traps (06 R139; log entry 45). What the read-only cache takes from a load it may serve is the 8-byte words read (log entry 43). -/
def State.performLoad (s : State) (w : Who) (part : Nat) : State :=
  match (s.slot w).wait with
  | .glob r =>
    match r.parts[part]? with
    | none => s
    | some (off, pa, len, thr) =>
      if s.way (some w.core.stack) pa = .lost then s.modSlot w fun sl => { sl with reply := some (.trap 9 3 r.va) }
      else if !inWindow pa && s.poisoned pa len then
        let at_ := off + ((List.range len).find? fun i => decide ((pa + i) / 8 ∈ s.poison)).getD 0
        let r := { r with parts := r.parts.eraseIdx part, bad := some (min at_ (r.bad.getD at_)) }
        s.modSlot w fun sl => { sl with wait := .glob r, reply := r.answer }
      else
        let s := s.crossed (some w.core.stack) pa
        let bs := s.readAt pa len
        let old := leNat bs
        let s := match r.op with
          | .ld _ _ _ _ res => if res then s.reserve w pa
              else if r.ro then s.modCore w.core (·.roKeep ((wordsOf pa len).map fun x => (x, s.mem.word (x * 8)))) else s
          | .amo op _ wd x _ => s.writeAt w.core pa (leBytes len (amoNew op wd old x.toNat)) thr
          | .cas _ _ cmp new _ => if old = cmp.toNat % 2 ^ (8 * len) then s.writeAt w.core pa (leBytes len new.toNat) thr else s
        let r' := { r with parts := r.parts.eraseIdx part, got := r.got ++ [(off, bs)] }
        let s := match r.op with
          | .amo _ _ _ _ sc => s.acquire w.core sc
          | .cas _ _ _ _ sc => s.acquire w.core sc
          | .ld _ _ _ _ _ => s
        s.modSlot w fun sl => { sl with wait := .glob r', reply := r'.answer }
  | _ => s

/-- An access performed at its home slice, an eviction, or a line dropped from a read-only cache (04 R78, R80). -/
def execGlobalAccessAtSlice (a : SliceAct) (s : State) : Out :=
  match a with
  | .store w k part => if s.storeReady w k part then .next (s.performStore w k part) else .next s
  | .load w part => if s.loadReady w part then .next (s.performLoad w part) else .next s
  | .evict line => .next (s.writeBack (line / 128 * 128) 128)
  | .roDrop c line => .next (s.modCore c fun k => { k with ro := k.ro.filter fun x => x.1 * 8 / 128 ≠ line / 128 })

/-- A fence probe reaches its slice group (04 R90). -/
def execFenceProbe (w : Who) (g : Fin 48) (s : State) : Out :=
  .next (s.modSlot w fun sl => match sl.wait with
    | .fence sc un pr => if g ∈ un then { sl with wait := .fence sc (un.filter (· ≠ g)) (pr ++ [g]) } else sl
    | _ => sl)

/-- The slot's earlier writes to the group are performed: queued stores, and increments sent to its cores (04 R90, 12 R260). -/
def State.groupClean (s : State) (w : Who) (g : Fin 48) : Bool :=
  ((s.slot w).storeQ.all fun e => e.parts.all fun p => decide (s.group p.pa ≠ g)) &&
  s.net.all fun f => match f.pkt.body, f.pkt.src, f.pkt.dst with
    | .mbInc c _ _ _, .slot a, .core _ => !(decide (a = s.agent w) && decide (Fin.ofNat 48 (c.stack.val * 8 + c.y.val / 4) = g))
    | _, _, _ => true

/-- A probe's echo returns (04 R90). -/
def execFenceEcho (w : Who) (g : Fin 48) (s : State) : Out :=
  match (s.slot w).wait with
  | .fence sc un pr =>
    if decide (g ∈ pr) && s.groupClean w g then
      .next (s.modSlot w fun sl => { sl with wait := .fence sc un (pr.filter (· ≠ g)) })
    else .next s
  | _ => .next s

/-- The patrol scrub reads a word: a corrected error is counted, an uncorrectable one poisons the word (04 R71, R72). -/
def execPatrolScrub (pa : Nat) (r : Scrub) (s : State) : Out :=
  match r with
  | .clean => .next s
  | .corrected => .next { s with corrected := s.corrected + 1 }
  | .uncorrectable =>
    if inHbm pa then
      .next ({ s with poison := insertNat s.poison (pa / 8) }.raise .poison (stackDie (s.stackOf pa)) [pa])
    else .next s

end Sys2Proof.Machine
end

