-- ==== Sys2Proof/Machine/Local.lean ====
section
/-! DEFINITION. The scratchpad, its tags, the local atomics and the link registers (08 R171-R182). -/

namespace Sys2Proof.Machine

/-- The local faults (08 R173): the sub-cause, where the access of `n` bytes at `a` has one. -/
def localFault (a : Word) (n align : Nat) : Option Nat :=
  if 0x30000 < a.toNat + n then some 1 else if a.toNat % align ≠ 0 then some 2 else none

/-- A local access that passes its checks goes on with its address; otherwise it traps (08 R173). -/
def withLocal (s : State) (a : Word) (n align : Nat) (k : Nat → Out) : Out :=
  match localFault a n align with
  | some sub => trap s 7 sub a
  | none => k a.toNat

/-- A local load (08 R178). -/
def localLoad (h : Hdr) (s : State) (d : SFV) (a : SReg) (m : MemArgs) : Out :=
  homeOnly h s (afterRelease s (streamGate s [] (d.vs m.width) (
    withLocal s (memAddr s.me a m) m.width.bytes m.width.align fun x =>
      let bs := s.myCore.sp.read x m.width.bytes
      retire s fun sl => sl.wLoad d m.sg bs)))

/-- A local store (08 R178). -/
def localStore (h : Hdr) (s : State) (b : SFV) (a : SReg) (m : MemArgs) : Out :=
  homeOnly h s (afterRelease s (streamGate s (b.vs m.width) [] (
    withLocal s (memAddr s.me a m) m.width.bytes m.width.align fun x =>
      let bs := s.me.rStore b m.width
      retire (s.modMyCore (·.spWrite x bs)) fun sl => sl.pops (b.vs m.width))))

def execLdl (h : Hdr) (d : SF) (a : SReg) (m : MemArgs) (s : State) : Out := localLoad h s d.toSFV a m
def execStl (h : Hdr) (b : SF) (a : SReg) (m : MemArgs) (s : State) : Out := localStore h s b.toSFV a m
def execLdlv (h : Hdr) (d : VReg) (a : SReg) (m : MemArgs) (s : State) : Out := localLoad h s (.v d) a m
def execStlv (h : Hdr) (b : VReg) (a : SReg) (m : MemArgs) (s : State) : Out := localStore h s (.v b) a m

def execLdlp (h : Hdr) (d a : SReg) (m : MemArgs) (s : State) : Out :=
  homeOnly h s (afterRelease s (
    let e := m.width.bytes
    withLocal s (memAddr s.me a m) (2 * e) e fun x =>
      let lo := s.myCore.sp.read x e
      let hi := s.myCore.sp.read (x + e) e
      retire s fun sl => (sl.wLoad (.s d) m.sg lo).wLoad (.s (d + 1)) m.sg hi))

/-! ## Tag waits (08 R174, R179) -/

/-- The tag condition of a waiting access. -/
def TagAcc.cond (t : TagAcc) (c : Core) (ws : List Nat) : Bool :=
  match t with
  | .stwe _ _ => ws.all fun w => !c.isFull w
  | _ => ws.all c.isFull

/-- The access and its tag change, in one cycle, and the completion of its instruction. -/
def State.tagPerform (s : State) (w : Who) (t : TagAcc) (x n : Nat) : State :=
  let ws := wordsOf x n
  let c := s.core w.core
  match t with
  | .ldf d _ sg => s.modSlot w fun sl => (sl.wLoad d sg (c.sp.read x n)).next
  | .ldfe d _ sg => (s.modCore w.core (·.setTags false ws)).modSlot w fun sl => (sl.wLoad d sg (c.sp.read x n)).next
  | .stwe b wd =>
    let bs := (s.slot w).rStore b wd
    (s.modCore w.core fun c => (c.spWrite x bs).setTags true ws).modSlot w fun sl => (sl.pops (b.vs wd)).next

/-- A tag-waiting form: performed at issue where its condition holds, else parked (08 R179). -/
def tagForm (h : Hdr) (s : State) (t : TagAcc) (a : SReg) (m : MemArgs) (reads writes : List VReg) : Out :=
  homeOnly h s (afterRelease s (streamGate s reads writes (
    withLocal s (memAddr s.me a m) m.width.bytes m.width.align fun x =>
      let n := m.width.bytes
      if t.cond s.myCore (wordsOf x n) then .next (s.tagPerform s.cur t x n)
      else .next ((s.park .tag (.tag t x n)).mod fun sl => { sl with object := BitVec.ofNat 64 x }))))

def execLdf (h : Hdr) (d : SFV) (a : SReg) (m : MemArgs) (s : State) : Out :=
  tagForm h s (.ldf d m.width m.sg) a m [] (d.vs m.width)
def execLdfe (h : Hdr) (d : SFV) (a : SReg) (m : MemArgs) (s : State) : Out :=
  tagForm h s (.ldfe d m.width m.sg) a m [] (d.vs m.width)
def execStwe (h : Hdr) (b : SFV) (a : SReg) (m : MemArgs) (s : State) : Out :=
  tagForm h s (.stwe b m.width) a m (b.vs m.width) []

/-- The waiters of a core in the order they parked, oldest first (08 R172). -/
def tagWaiters (c : Core) : List (Fin 16) :=
  let ws := (List.finRange 16).filterMap fun i => match c.slots[i].wait with
    | .tag _ _ _ => some (c.slots[i].parkedAt, i)
    | _ => none
  (sortBy (fun p => p.1 * 16 + p.2.val) ws).map (·.2)

/-- A parked waiter is examined, and performed where its condition holds (08 R174). The access takes its place among the core's slot accesses,
which are performed six cycles after they issue; the slot resumes after that (08 R171, log entry 49). -/
def execTagWaitPerform (w : Who) (s : State) : Out :=
  let c := s.core w.core
  let sl := s.slot w
  match sl.wait with
  | .tag t x n =>
    if t.cond c (wordsOf x n) then
      .next (((s.modSlot w Slot.unpark).tagPerform w t x n).modSlot w fun u => { u with
        state := sl.state, reason := sl.reason, wait := .tagged (s.cycle + 6) })
    else .next s
  | _ => .next s

/-- The waiters of a core are passed over once in a cycle, oldest first; each is performed before the next is examined (08 R172). -/
def State.tagPass (s : State) (c : CoreId) : State :=
  (tagWaiters (s.core c)).foldl (fun (s : State) (i : Fin 16) => match execTagWaitPerform ⟨c, i⟩ s with
    | .next t => t
    | _ => s) s

/-! ## Tag-only forms (08 R180) -/

/-- The words a tag-only form covers. -/
def tagWords (x : Nat) (w : Width) : List Nat :=
  match w with
  | .v => (List.range 8).map (x / 8 + ·)
  | .vv => (List.range 16).map (x / 8 + ·)
  | _ => [x / 8]

/-- The alignment of a tag-only form (08 R173, R180). -/
def tagAlign (w : Width) : Nat := match w with | .v => 8 | .vv => 8 | w => w.bytes

def tagOnly (h : Hdr) (s : State) (full : Bool) (a : SReg) (m : MemArgs) : Out :=
  homeOnly h s (afterRelease s (withLocal s (memAddr s.me a m) m.width.bytes (tagAlign m.width) fun x =>
    retire (s.modMyCore (·.setTags full (tagWords x m.width))) id))

def execSete (h : Hdr) (a : SReg) (m : MemArgs) (s : State) : Out := tagOnly h s false a m
def execSetf (h : Hdr) (a : SReg) (m : MemArgs) (s : State) : Out := tagOnly h s true a m

def execTagrd (h : Hdr) (d a : SReg) (m : MemArgs) (s : State) : Out :=
  homeOnly h s (afterRelease s (withLocal s (memAddr s.me a m) 1 1 fun x =>
    let c := s.myCore
    let bits := (List.range 64).foldl (fun (b : Word) i => if c.isFull (x / 512 * 64 + i) then b ||| (1#64 <<< i) else b) 0
    retire s fun sl => sl.ws d bits))

/-! ## Local atomics (08 R181) -/

/-- The operation of a local atomic on the word at `x`, with what it does to the slot. -/
def localAmo (h : Hdr) (s : State) (a : SReg) (m : AmoArgs) (new : Nat → Nat) (k : Slot → Word → Slot) : Out :=
  homeOnly h s (afterRelease s (
    let n := m.width.bytes
    withLocal s (amoAddr s.me a m) n n fun x =>
      let old := s.myCore.sp.num x n
      retire (s.modMyCore (·.spWrite x (leBytes n (new old)))) fun sl => k sl (BitVec.ofNat 64 old)))

def execLamo (h : Hdr) (op : AmoOp) (d a b : SReg) (m : AmoArgs) (s : State) : Out :=
  localAmo h s a m (fun old => amoNew op m.width old (s.me.rs b).toNat) fun sl x => sl.ws d x

def execLamox (h : Hdr) (op : AmoOp) (a b : SReg) (m : AmoArgs) (s : State) : Out :=
  localAmo h s a m (fun old => amoNew op m.width old (s.me.rs b).toNat) fun sl _ => sl

def execLamocas (h : Hdr) (d a b : SReg) (m : AmoArgs) (s : State) : Out :=
  localAmo h s a m (fun old =>
    if old = (s.me.rs d).toNat % 2 ^ (8 * m.width.bytes) then (s.me.rs b).toNat else old) fun sl x => sl.ws d x

/-! ## Link registers (08 R175, R182) -/

def execLkput (h : Hdr) (d : YReg) (a : SReg) (s : State) : Out :=
  homeOnly h s (afterRelease s (retire s fun sl => { sl with y := sl.y.set d (sl.rs a) }))

def execLkget (h : Hdr) (d : SReg) (a : SI) (b : YReg) (s : State) : Out :=
  homeOnly h s (afterRelease s (
    let j : Fin 16 := Fin.ofNat 16 (s.me.rsi a).toNat
    let x := s.myCore.slots[j].y[b]
    retire s fun sl => sl.ws d x))

end Sys2Proof.Machine
end

