-- ==== Sys2Proof/Machine/Control.lean ====
section
/-! DEFINITION. Branches, broadcast blocks, and the steward's commands (15 R314-R331). -/

namespace Sys2Proof.Machine

/-! ## Branches (15 R318-R320) -/

/-- The predicted path of `br`, `jal` and `loop`: hint 01 taken, 10 not, else taken when the offset is negative (15 R319). -/
def predicted (h : Hdr) (off : BitVec 40) : Bool := if h.bh = 1 then true else if h.bh = 2 then false else off.msb

/-- The target of an offset. -/
def target (pc : Word) (off : BitVec 40) : Word := pc + off.signExtend 64

/-- The fetch bubble of a path actually taken, where fetch followed `path` (15 R320). -/
def missed (path taken : Word) : Bool := decide (path ≠ taken)

/-- The path fetch follows at a branch with an offset. -/
def predictedPath (h : Hdr) (off : BitVec 40) (pc : Word) : Word := if predicted h off then target pc off else pc + 1

/-- A branch not taken goes on at `pc + 1`; a slot in block state has its next word in the buffer (15 R320, R323). -/
def Slot.fallThrough (sl : Slot) (path : Word) : Slot := { sl.next with bubble := sl.block.isNone && missed path (sl.pc + 1) }

/-- A branch taken. -/
def Slot.goTo (sl : Slot) (path t : Word) : Slot := sl.jump t (missed path t)

/-- A branch form with the path fetch follows; a guard that is false takes no branch (15 R318, R319). -/
def branch (h : Hdr) (s : State) (path : Word) (k : Out) : Out :=
  if holds h s.me then k else .next (s.mod (·.fallThrough path))

def execBr (h : Hdr) (off : BitVec 40) (s : State) : Out :=
  let path := predictedPath h off s.me.pc
  branch h s path (.next (s.mod fun sl => sl.goTo path (target sl.pc off)))

def execJal (h : Hdr) (off : BitVec 40) (s : State) : Out :=
  let path := predictedPath h off s.me.pc
  branch h s path (.next (s.mod fun sl => (sl.ws 31 (sl.pc + 1)).goTo path (target sl.pc off)))

def execJr (h : Hdr) (a : SReg) (s : State) : Out :=
  let path := s.me.pc + 1
  branch h s path (.next (s.mod fun sl => sl.goTo path (sl.rs a)))

def execJalr (h : Hdr) (a : SReg) (s : State) : Out :=
  let path := s.me.pc + 1
  branch h s path (.next (s.mod fun sl => (sl.ws 31 (sl.pc + 1)).goTo path (sl.rs a)))

/-- `brx` is no instruction of a guest (12 R261). -/
def execBrx (h : Hdr) (a b : SReg) (s : State) : Out :=
  let path := s.me.pc + 1
  branch h s path (
    if s.me.hosting.isSome then trap s 9 4 0
    else .next (s.mod fun sl =>
      let i := sl.rs a
      let n := sl.rs b
      sl.goTo path (sl.pc + 1 + (if i.ult n then i else n))))

def execLoop (h : Hdr) (d : SReg) (off : BitVec 40) (s : State) : Out :=
  let path := predictedPath h off s.me.pc
  branch h s path (.next (s.mod fun sl =>
    let x := sl.rs d - 1
    if x ≠ 0 then (sl.ws d x).goTo path (target sl.pc off) else (sl.ws d x).fallThrough path))

def execNop (h : Hdr) (s : State) : Out := guarded h s (retire s id)

/-! ## Stop, halt, pause (15 R324-R330) -/

/-- The steward's part of the launch ended or not, `stop` ends the slot's thread; the wake of sleepers follows (15 R324, R326). -/
def State.stopSlot (s : State) (w : Who) : State :=
  (s.modSlot w fun sl => sl.toPool (w.slot == 0)).poolEvent w

def execStop (h : Hdr) (s : State) : Out :=
  homeOnly h s (.next ((s.mod fun sl => { sl with pc := sl.pc + 1 }).stopSlot s.cur))

/-- A halt request acted on: a guest's thread first returns home, and the request is dropped (15 R327, 12 R261). -/
def execHalt (w : Who) (s : State) : Out :=
  let sl := s.slot w
  if ¬ sl.haltReq ∨ sl.state = .pool then .next s
  else if sl.hosting.isSome then .next ((s.sendHome w .plain sl.pc).modSlot w fun sl => { sl with haltedAt := s.cycle + 1 })
  else .next ((s.stopSlot w).modSlot w fun sl => { sl with haltedAt := s.cycle + 1 })

def execPause (h : Hdr) (a : SI) (s : State) : Out :=
  homeOnly h s (
    let n := (s.me.rsi a).toNat % 65536
    if n = 0 then retire s id else .next (s.park .pause (.pause (s.rot + n))))

/-- A pause's count has run out: the slot completes in the last of its rotations and issues in the next (15 R330). -/
def execPauseExpiry (w : Who) (s : State) : Out :=
  match (s.slot w).wait with
  | .pause u => if u ≤ s.rot then .next (s.modSlot w fun sl => sl.unpark.next) else .next s
  | _ => .next s

/-! ## Broadcast blocks (15 R321-R323) -/

/-- The words of a block where the instruction cache holds them all. -/
def Core.blockWords (c : Core) (b : Word) (len : Nat) : Option (List IWord) :=
  let ws := (List.range len).map fun i => (c.icache.find? fun x => decide (x.1 = b + BitVec.ofNat 64 i)).map (·.2)
  if ws.all (·.isSome) then some (ws.filterMap id) else none

/-- The buffer a block runs from: some slot in block state holds a position in it (15 R321). -/
def Core.bufBusy (c : Core) (q : Fin 2) : Bool :=
  c.slots.toList.any fun sl => sl.block.any fun p => decide (p.q = q)

/-- The buffer that holds a block. -/
def Core.bufOf (c : Core) (b : Word) (len : Nat) : Option (Fin 2) :=
  (List.finRange 2).find? fun q => match c.blockBuf[q] with
    | some bb => decide (bb.b = b) && bb.len == len
    | none => false

def Core.loadBuf (c : Core) (q : Fin 2) (b : Word) (ws : List IWord) : Core :=
  { c with blockBuf := c.blockBuf.set q (some ⟨b, ws.length, ws⟩) }

/-- `fetchb`: from the instruction cache at once, else parked until the words are there and the buffer is free (15 R321). -/
def execFetchb (h : Hdr) (q : Fin 2) (len1 : Fin 8) (off : BitVec 40) (s : State) : Out :=
  stewardOnly h s (
    let b := target s.me.pc off
    let len := len1.val + 1
    match s.myCore.blockWords b len with
    | some ws => if s.myCore.bufBusy q then parkAgain s .fetch (.block b len (some q))
        else retire (s.modMyCore (·.loadBuf q b ws)) id
    | none => parkAgain s .fetch (.block b len (some q)))

/-- The started slots of a block: lockstep from the buffer, carrying the steward's release (15 R322, 14 R419). `late` says that the
slot's issue cycle of this rotation is still to come and is not used. -/
def Slot.startBlock (sl : Slot) (q : Fin 2) (b : Word) (ws : List IWord) (carry : List (Who × Nat)) (late : Bool) : Slot :=
  { sl with
    state := .block, reason := .none, wait := .none, reply := none, pc := b, reserved := false, bubble := late
    block := some ⟨q, b, ws.length, 0, ws⟩, carry := carry, walks := [], haltReq := false, haltNow := false, repCont := false }

/-- Every slot of the mask in pool, and a buffer holding the block (15 R322). -/
def Core.blockReady (c : Core) (m : BitVec 16) (b : Word) (len : Nat) : Bool :=
  (maskSlots m).all (fun i => decide (c.slots[i].state = .pool)) && (c.bufOf b len).isSome

/-- The block starts on the mask. -/
def State.startBlock (s : State) (w : Who) (m : BitVec 16) (b : Word) (len : Nat) (late : Bool) : State :=
  let c := s.core w.core
  match c.bufOf b len with
  | none => s
  | some q =>
    let ws := ((c.blockBuf[q]).map (·.words)).getD []
    let carry := s.release w
    (maskSlots m).foldl (fun s i => s.modSlot ⟨w.core, i⟩ (·.startBlock q b ws carry late)) s

/-- A buffer for a block that no buffer holds: one not in use, buffer 0 first (15 R322). -/
def Core.freeBuf (c : Core) : Option (Fin 2) := (List.finRange 2).find? fun q => !c.bufBusy q

/-- `bcast` with its block loaded if the instruction cache has it (15 R322). -/
def execBcast (h : Hdr) (a : SReg) (len1 : Fin 8) (off : BitVec 40) (s : State) : Out :=
  stewardOnly h s (
    let m := (s.me.rs a).setWidth 16
    let b := target s.me.pc off
    let len := len1.val + 1
    if m &&& 0xFFFE = 0 then retire s id
    else
      let c := s.myCore
      let s := if (c.bufOf b len).isSome then s else
        match c.freeBuf, c.blockWords b len with
        | some q, some ws => s.modMyCore (·.loadBuf q b ws)
        | _, _ => s
      if s.myCore.blockReady m b len then retire (s.startBlock s.cur m b len true) id
      else
        let s := (maskSlots m).foldl (fun s i => s.modSlot ⟨s.cur.core, i⟩ fun sl =>
          if sl.state = .pool then { sl with reserved := true } else sl) s
        .next ((s.park .slotPool (.bcast m b len)).mod fun sl => { sl with object := m.setWidth 64 }))

/-- A parked `bcast` whose condition is met starts its block; the steward resumes (15 R322). While no buffer holds the block
it is loaded as `fetchb` does. Performed at the end of each rotation. -/
def execBlockStart (c : CoreId) (s : State) : Out :=
  let w : Who := ⟨c, 0⟩
  match (s.slot w).wait with
  | .bcast m b len =>
    let k := s.core c
    let s := if (k.bufOf b len).isSome then s else
      match k.freeBuf, k.blockWords b len with
      | some q, some ws => s.modCore c (·.loadBuf q b ws)
      | _, _ => s
    if (s.core c).blockReady m b len then
      .next ((s.startBlock w m b len false).modSlot w fun sl => sl.unpark.next)
    else
      .next ((maskSlots m).foldl (fun s i => s.modSlot ⟨c, i⟩ fun sl =>
        if sl.state = .pool then { sl with reserved := true } else sl) s)
  | _ => .next s

/-- The reservations of a `bcast` that no longer waits are released (15 R321, R331). -/
def State.unreserve (s : State) (c : CoreId) (m : BitVec 16) : State :=
  (maskSlots m).foldl (fun s i => s.modSlot ⟨c, i⟩ fun sl => { sl with reserved := false }) s

/-! ## The steward's commands (15 R325-R329) -/

/-- A pool slot started at an entry, carrying a release (15 R325, 14 R419). -/
def Slot.start (sl : Slot) (pc : Word) (carry : List (Who × Nat)) : Slot :=
  { sl with
    state := .running, reason := .none, wait := .none, reply := none, pc := pc, bubble := false, block := none
    carry := carry, walks := [], haltReq := false, haltNow := false, reserved := false, repCont := false }

/-- The started slot issues in the next rotation (15 R325): its cycle of this one, still to come, is a bubble. -/
def execSlgo (h : Hdr) (d a b : SReg) (s : State) : Out :=
  stewardOnly h s (
    let i : Fin 16 := Fin.ofNat 16 (s.me.rs a).toNat
    let w : Who := ⟨s.cur.core, i⟩
    let t := s.slot w
    if i = 0 then retire s fun sl => sl.ws d 2
    else if t.state ≠ .pool ∨ t.reserved then retire s fun sl => sl.ws d 1
    else
      let carry := s.release s.cur
      retire (s.modSlot w fun t => { t.start (s.me.rs b) carry with bubble := true }) fun sl => sl.ws d 0)

/-- The slots of a mask that are not in pool, as a mask. -/
def Core.busyMask (c : Core) (m : BitVec 16) : Word := (~~~ c.poolMask) &&& (m &&& 0xFFFE).setWidth 64

def execSlhalt (h : Hdr) (d a : SReg) (s : State) : Out :=
  stewardOnly h s (
    let m := (s.me.rs a).setWidth 16
    let x := s.myCore.busyMask m
    let s := (maskSlots m).foldl (fun s i => s.modSlot ⟨s.cur.core, i⟩ fun sl =>
      if sl.state = .pool then sl else { sl with haltReq := true, haltNow := sl.haltNow || decide (sl.state ≠ .handler) }) s
    retire s fun sl => sl.ws d x)

def execSlwait (h : Hdr) (d a : SReg) (s : State) : Out :=
  stewardOnly h s (
    let m := (s.me.rs a).setWidth 16
    if s.myCore.busyMask m = 0 then
      let x := s.myCore.poolMask
      retire s fun sl => sl.ws d x
    else .next ((s.park .slotWait (.slotWait m d)).mod fun sl => { sl with object := m.setWidth 64 }))

def execSlpoll (h : Hdr) (part : Fin 4) (d a : SReg) (s : State) : Out :=
  stewardOnly h s (
    let t := s.slot ⟨s.cur.core, Fin.ofNat 16 (s.me.rs a).toNat⟩
    let x : Word := if part = 0 then BitVec.ofNat 64 (t.state.code * 256 + t.reason.code)
      else if part = 1 then t.pc else t.tcause.setWidth 64
    retire s fun sl => sl.ws d x)

def execSlpool (h : Hdr) (d : SReg) (s : State) : Out :=
  stewardOnly h s (
    let x := s.myCore.poolMask
    retire s fun sl => sl.ws d x)

/-! ## Fetch (02 R27, 15 R319-R321) -/

/-- The 12 bytes of the word at `pc` through the slot's table: the word, or the fault's sub-cause with its address, or the
uncommitted page (02 R27). A word may lie in two units and two pages. -/
inductive Fetched
  | word (x : IWord)
  | fault (sub : Nat) (va : Word)
  | sparse (va : Word) (ps : List Nat)
  deriving DecidableEq, Repr, Inhabited

def State.fetchWord (s : State) (w : Who) (pc : Word) : Fetched :=
  let va := pc * 12
  let a := va.toNat
  let root := s.rootOf w
  if 0x1000000000000 ≤ a then .fault 1 va
  else if 0x1000000000000 < a + 12 then .fault 1 va
  else match s.poisonFirst a 12 .fetch (s.walks root (pagesOf a 12)) (checkWith a 12 .load 1 false (s.walks root (pagesOf a 12))) with
  | .ok segs =>
    if segs.any fun g => s.poisoned g.pa g.len then .fault 6 va
    else .word (BitVec.ofNat 96 (leNat (segs.map fun g => s.gread g.pa g.len).flatten))
  | .trap sub _ => .fault sub va
  | .sparse ps => .sparse va ps
  | _ => .fault 2 va

/-- The instruction cache of 16 KiB holds 1,365 words (01 R19). Any word may stand in any place; a full cache drops the word fetched longest ago,
and drops none for another reason: the manual gives the size alone, the rest is the model's choice (log entry 43). -/
def Core.cacheWord (c : Core) (pc : Word) (x : IWord) : Core :=
  let l := c.icache.filter (·.1 ≠ pc) ++ [(pc, x)]
  { c with icache := l.drop (l.length - 1365) }

/-- The pcs a fetching slot waits for. -/
def fetchPcs (sl : Slot) : List Word :=
  match sl.wait with
  | .fetch pc => [pc]
  | .again (.block b len _) => (List.range len).map fun i => b + BitVec.ofNat 64 i
  | .bcast _ b len => (List.range len).map fun i => b + BitVec.ofNat 64 i
  | _ => []

/-- Words arrive after an instruction-cache miss. A fault is found here and taken when the instruction would issue
(15 R320); for a block it traps the steward at its instruction (15 R321). A fetch is translated as a read (02 R27): an uncommitted auto page
is committed, another one parks the slot (04 R83, 15 R321, 17 R359). -/
def execFetchFill (w : Who) (pc : Word) (s : State) : Out :=
  let sl := s.slot w
  if pc ∈ fetchPcs sl then
    let s := match s.fetchWord w pc with
      | .sparse _ ps => s.autoCommits w ps
      | _ => s
    let s := s.shareWalks w.core.stack (s.rootOf w) (s.walks (s.rootOf w) (pagesOf (pc * 12).toNat 12))
    match s.fetchWord w pc with
    | .word x => .next (s.modCore w.core (·.cacheWord pc x))
    | .fault sub va =>
      .next (s.modSlot w fun sl => match sl.wait with
        | .fetch _ => { sl with fetchFault := some (pc, sub, va), reply := some .ok }
        | _ => { sl with reply := some (.trap 2 sub (pc * 12)) })
    | .sparse va ps =>
      match sl.wait with
      | .fetch pc =>
        if sl.reason = Reason.pageCommit then .next s
        else .next (s.parkPage w ps .fetch (.fetch pc))
      | .bcast m _ _ => .next ((s.unreserve w.core m).parkPage w ps .fetch (.again (.page va ps .fetch)))
      | _ => .next (s.parkPage w ps .fetch (.again (.page va ps .fetch)))
  else .next s

/-- A fetch fault on the next instruction traps when it would issue (15 R318, 17 R363). -/
def execInstructionFetchFault (sub : Fin 10) (addr : Word) (s : State) : Out :=
  .next ((s.mod fun sl => { sl with fetchFault := none }).trapAt s.cur 2 sub.val addr s.me.pc)

/-- The illegal-instruction trap (02 R34). -/
def execIllegalInstruction (sub : Fin 10) (s : State) : Out := trap s 1 sub.val 0

end Sys2Proof.Machine
end

