-- ==== Sys2Proof/Machine/System.lean ====
section
/-! DEFINITION. Traps, control registers, messages, watchdogs, pre-emption and the spill engine (17 R359-R382). -/

namespace Sys2Proof.Machine

/-! ## Trap instructions (17 R365, R366) -/

def execTrap (h : Hdr) (n : BitVec 32) (s : State) : Out :=
  homeOnly h s (.next (s.trapAt s.cur 3 1 (n.setWidth 64) (s.me.pc + 1)))

def execBrk (h : Hdr) (n : BitVec 32) (s : State) : Out := homeOnly h s (trap s 3 2 (n.setWidth 64))

/-- `eret` outside a handler is illegal whatever its guard (02 R34). -/
def execEret (h : Hdr) (s : State) : Out :=
  if s.me.state = .handler then
    guarded h s (.next ((s.mod (·.eret (s.cur.slot == 0))).poolEvent s.cur))
  else trap s 1 8 0

/-! ## Control registers (02 R38, 17 R367, R368) -/

/-- The view a job has at this module (13 R266, R282). -/
def State.viewOf (s : State) (job : BitVec 32) : JobView := (s.views.find? (·.job == job)).getD (.fresh job)

/-- The word `view` and `viewrd.num` show: number and member count of the last view installed (02 R38, 13 R282). -/
def View.word (v : View) : Word := BitVec.ofNat 64 (v.num.toNat + v.count * 2 ^ 32)

/-- The slot states of a core, four bits each (02 R38). -/
def Core.sstat (c : Core) : Word :=
  BitVec.ofNat 64 ((List.finRange 16).foldl (fun (x : Nat) (i : Fin 16) => x + c.slots[i].state.code * 16 ^ i.val) 0)

/-- The value of a control register (02 R38). -/
def State.ctl (s : State) (w : Who) (c : Fin 18) : Word :=
  let sl := s.slot w
  match c.val with
  | 0 => sl.pc
  | 1 => BitVec.ofNat 64 w.slot.val
  | 2 => (coreWord s.modId w.core).setWidth 64
  | 3 => sl.flags.setWidth 64
  | 4 => sl.fen.setWidth 64
  | 5 => sl.tbm.setWidth 64
  | 6 => BitVec.ofNat 64 sl.errq.length
  | 7 => (s.viewOf (s.jobOf w)).view.word
  | 8 => sl.tmr.setWidth 64
  | 9 => (s.core w.core).sstat
  | 10 => sl.tvec
  | 11 => sl.tcause.setWidth 64
  | 12 => sl.tval
  | 13 => sl.epc
  | 14 => sl.tsave
  | 15 => sl.sup.setWidth 64
  | 16 => BitVec.ofNat 64 s.cycle
  | _ => sl.rmode.setWidth 64

/-- The registers a program may write by `ctlw` and `ctlx` (02 R38). -/
def ctlWritable (c : Fin 18) : Bool := c.val ∈ [3, 4, 8, 10, 11, 12, 13, 14, 17]

/-- A timer written in a rotation (17 R368). -/
def Slot.setTmr (sl : Slot) (n : BitVec 32) (rot : Nat) : Slot := { sl with tmr := n, tmrAt := rot }

/-- A control register written: reserved bits are ignored (00 R9, 17 R367). -/
def Slot.setCtl (sl : Slot) (c : Fin 18) (x : Word) (rot : Nat) : Slot :=
  match c.val with
  | 3 => { sl with flags := x.setWidth 5 }
  | 4 => { sl with fen := x.setWidth 5 }
  | 8 => sl.setTmr (x.setWidth 32) rot
  | 10 => { sl with tvec := x }
  | 11 => { sl with tcause := x.setWidth 16 }
  | 12 => { sl with tval := x }
  | 13 => { sl with epc := x }
  | 14 => { sl with tsave := x &&& 0xFFFFFFFFFFFFF000#64 }
  | 17 => { sl with rmode := x.setWidth 2 }
  | _ => sl

def execCtlr (h : Hdr) (d : SReg) (c : Fin 18) (s : State) : Out :=
  homeOnly h s (
    let x := s.ctl s.cur c
    retire s fun sl => sl.ws d x)

/-- A write to a read-only register is an illegal instruction whatever its guard (02 R34). -/
def execCtlw (h : Hdr) (c : Fin 18) (a : SReg) (s : State) : Out :=
  if ctlWritable c then homeOnly h s (retire s fun sl => sl.setCtl c (sl.rs a) s.rot) else trap s 1 9 0

/-- `ctlx` writes s[D] first, and then what s[B] holds (17 R367). -/
def execCtlx (h : Hdr) (d : SReg) (c : Fin 18) (b : SReg) (s : State) : Out :=
  if ctlWritable c then
    homeOnly h s (
      let x := s.ctl s.cur c
      retire s fun sl => (sl.ws d x).setCtl c ((sl.ws d x).rs b) s.rot)
  else trap s 1 9 0

/-- `ctlw` and `ctlx` of the timer (17 R367). -/
def execTmrWrite (h : Hdr) (d : Option SReg) (a : SReg) (s : State) : Out :=
  homeOnly h s (
    let x := s.me.tmr.setWidth 64
    retire s fun sl => (sl.ws (d.getD 0) x).setTmr (((sl.ws (d.getD 0) x).rs a).setWidth 32) s.rot)

def execTmrset (h : Hdr) (d : SReg) (a : Option SReg) (n : BitVec 32) (s : State) : Out :=
  homeOnly h s (
    let x := s.me.tmr.setWidth 64
    let v := match a with | some r => (s.me.rs r).setWidth 32 | none => n
    retire s fun sl => (sl.setTmr v s.rot).ws d x)

def execTmrclr (h : Hdr) (d : SReg) (s : State) : Out :=
  homeOnly h s (
    let x := s.me.tmr.setWidth 64
    retire s fun sl => { (sl.setTmr 0 s.rot) with pendTimer := false }.ws d x)

/-- The timer of the slot's own thread runs (17 R368). -/
def Slot.counting (sl : Slot) (rot : Nat) : Bool :=
  decide (sl.tmr ≠ 0) && decide (sl.tmrAt < rot) && sl.hosting.isNone && (match sl.state with
    | .block => true
    | .running => true
    | .parked => sl.reason != .roam
    | .handler => sl.reason != .roam
    | _ => false)

/-- Cycle 15: a timer above 1 counts down (17 R368). -/
def Slot.tick (rot : Nat) (sl : Slot) : Slot :=
  if sl.counting rot && decide (sl.tmr ≠ 1) then { sl with tmr := sl.tmr - 1 } else sl

/-- A timer passes from 1 to 0: its trap is pending (17 R368). -/
def execTimerExpiry (w : Who) (s : State) : Out :=
  if (s.slot w).counting s.rot && decide ((s.slot w).tmr = 1) then
    .next (s.modSlot w fun sl => { sl with tmr := 0, pendTimer := true })
  else .next s

/-! ## Caches and sleep (17 R369, R370) -/

def execIcinv (h : Hdr) (s : State) : Out :=
  homeOnly h s (retire (s.modMyCore fun c => { c with icache := [], blockBuf := #v[none, none] }) id)

def execRcinv (h : Hdr) (s : State) : Out := homeOnly h s (retire (s.modMyCore fun c => { c with ro := [] }) id)

def execSleep (h : Hdr) (d : SReg) (mask : BitVec 4) (s : State) : Out :=
  homeOnly h s (
    if mask = 0 then retire s fun sl => sl.ws d 0 else .next (s.park .sleep (.sleep mask 0 d)))

/-! ## Short messages (17 R371-R373) -/

/-- The core named by s[A] of `smsg`, in the job of the slot and on its module, and the slot (17 R371). -/
def State.smsgTarget (s : State) (x : Word) : Option Who :=
  match coreOf (x.setWidth 32) with
  | none => none
  | some (m, c) =>
    if m = s.modId ∧ (x.extractLsb' 36 28) = 0 ∧ (s.launchOf c).any (fun l => l.job == s.jobOf s.cur) then
      some ⟨c, Fin.ofNat 16 (x.toNat / 2 ^ 32)⟩
    else none

def execSmsgMsg (h : Hdr) (a b : SReg) (tag : BitVec 16) (s : State) : Out :=
  homeOnly h s (match s.smsgTarget (s.me.rs a) with
    | none => trap s 3 3 (s.me.rs a)
    | some t =>
      let m : Msg := ⟨coreWord s.modId s.cur.core, s.cur.slot, 0, tag, s.me.rs b⟩
      let p : Packet := ⟨.slot (s.agent s.cur), .core t.core, .notice, .msg t.core m⟩
      retire (s.injectHeld p (s.holdOf s.cur)) id)

/-- The park of a slot with reason fp-exception is answered (17 R371, R374). -/
def State.answerFp (s : State) (w : Who) (trp : Bool) : Option State :=
  match (s.slot w).wait, (s.slot w).reply with
  | .fpEx _ _, none => some (s.modSlot w fun sl => { sl with reply := some (.fp trp) })
  | _, _ => none

/-- An answer that finds no such park is discarded and counted (17 R371). -/
def smsgAnswer (h : Hdr) (a : SReg) (trp : Bool) (s : State) : Out :=
  homeOnly h s (match s.smsgTarget (s.me.rs a) with
    | none => trap s 3 3 (s.me.rs a)
    | some t => retire ((s.answerFp t trp).getD { s with discards := s.discards + 1 }) id)

def execSmsgRes (h : Hdr) (a _b : SReg) (s : State) : Out := smsgAnswer h a false s
def execSmsgTrp (h : Hdr) (a _b : SReg) (s : State) : Out := smsgAnswer h a true s

/-- The host's answer to a floating-point exception; of a slot that waits for none it has no effect (17 R374, 18 R386). -/
def execAnswerAnException (w : Who) (trp : Bool) (s : State) : Out := .next ((s.answerFp w trp).getD s)

/-- The bytes of a ring entry (17 R373). -/
def msgBytes (m : Msg) : List Byte :=
  leBytes 4 m.src.toNat ++ leBytes 1 m.slot.val ++ leBytes 1 m.kind.val ++ leBytes 2 m.tag.toNat ++ leBytes 8 m.payload.toNat

/-- The ring has room (17 R372). -/
def Core.ringOpen (c : Core) : Bool := decide ((c.mb[62] - c.mb[63]).toNat < 64)

/-- A message written into the ring (17 R372). -/
def Core.ringPut (c : Core) (m : Msg) : Core :=
  let a := 0x2F800 + 16 * (c.mb[62].toNat % 64)
  ((c.spWrite a (msgBytes m)).setTags true [a / 8, a / 8 + 1]).mbAdd 62 1

/-- The entries in the core's overflow area. -/
def Core.ovfCount (c : Core) : Nat := (c.overflow.toList.map (·.length)).sum

/-- The overflow area has room for the 16 entries a full queue moves. -/
def Core.ovfRoom (c : Core) : Bool := decide (c.ovfCount + 16 ≤ 4096)

/-- A queue takes an entry. -/
def Core.queueRoom (c : Core) (p : Fin 4) : Bool := decide (c.queues[p].length < 32) || c.ovfRoom

/-- The unit has room for the task: in its gate list, or in its queue and the overflow (16 R341, R344). -/
def Core.taskRoom (c : Core) (q : QEntry) : Bool :=
  if q.task.gated && !q.wasGated then decide (c.gates.length < 64) else c.queueRoom q.task.prio

/-- The launch a core belongs to, where it is one of the job's. -/
def State.jobLaunchOf (s : State) (job : BitVec 32) (c : CoreId) : Option Launch :=
  (s.launchOf c).filter fun l => l.job == job

/-- The owner core a leaf names, committed or not, where owner valid is set (04 R74). -/
def leafOwner (e : Word) : Option CoreId :=
  if e.getLsbD 51 then
    (coreOf (BitVec.ofNat 32 ((e.toNat / 2 ^ 48 % 8) * 4096 + (e.toNat / 2 ^ 42 % 64) * 32 + e.toNat / 2 ^ 37 % 32))).map (·.2)
  else none

/-- The guest core for an address (12 R262): the owner of the page, else the core firmware assigns to the home slice's group; for a page that
is in no frame, and so has no home slice, the first group's (log entry 5). -/
def State.guestCoreFor (s : State) (job : BitVec 32) (va : Word) : CoreId :=
  let root := (((s.jobLaunches job).head?).map (·.root)).getD 0
  match (s.walk root va.toNat).1 with
  | .leaf e size => (leafOwner e).getD s.settings.guestCore[s.group (paOf e size va.toNat)]
  | .sparse e => (leafOwner e).getD s.settings.guestCore[0]
  | .fault _ => s.settings.guestCore[0]

/-- The guest core of a roaming thread that has reached this module. -/
def State.roamsTo (s : State) (p : Packet) : Option CoreId :=
  match p.dst, p.body with
  | .mdl m, .roamTo va g => if m = s.modId then some (s.guestCoreFor g.job va) else none
  | _, _ => none

/-- A packet stands at the core's port that the core cannot take: a task that neither its place nor the inbound buffer has room for, or a thread
beyond the arrival queue of 16. The notice class stands behind it (16 R341, 12 R262). -/
def State.portStuck (s : State) (c : CoreId) : Bool :=
  let k := s.core c
  s.net.zipIdx.any fun x =>
    (match x.1.pkt.dst, x.1.pkt.body with
    | .core d, .task _ _ job _ q => decide (d = c) && decide (16 ≤ k.inbound.length) && !k.taskRoom q && (s.jobLaunchOf job c).isSome
    | _, _ => decide (16 ≤ k.arrivals.length) && decide (s.roamsTo x.1.pkt = some c)) && s.ready x.2

/-- The core's port takes notice-class packets: its message buffer is not full, and nothing stands at it (17 R372, 16 R341, 12 R262). -/
def State.noticeOpen (s : State) (c : CoreId) : Bool := decide ((s.core c).msgIn.length < 8) && !s.portStuck c

/-- A message packet reaches its core: into the ring, or the buffer behind earlier ones; one bound for another module is sent on
(17 R372, 12 R254). -/
def execMessageArrival (k : Nat) (s : State) : Out :=
  match s.net[k]? with
  | none => .next s
  | some f => match f.pkt.dst, f.pkt.body with
    | .core c, .msg _ m =>
      if !s.noticeOpen c then .next s
      else match s.take k with
      | none => .next s
      | some (_, s) =>
        let k := s.core c
        if k.msgIn.isEmpty && k.ringOpen then
          .next (((s.modCore c (·.ringPut m)).wakeSleepers c 0).wakeSleepers c 3)
        else .next ((s.modCore c fun k => { k with msgIn := k.msgIn ++ [m] }).wakeSleepers c 0)
    | .mdl _, .msg _ _ =>
      match s.take k with
      | none => .next s
      | some (p, s) => .next (s.ergSend p)
    | _, _ => .next s

/-- The oldest waiting message enters the ring (17 R372). -/
def execMessageBufferAccept (c : CoreId) (s : State) : Out :=
  let k := s.core c
  match k.msgIn with
  | [] => .next s
  | m :: r =>
    if k.ringOpen then .next ((s.modCore c fun k => { k.ringPut m with msgIn := r }).wakeSleepers c 3) else .next s

/-! ## Interrupting a parked slot (17 R375, R378) -/

/-- How an interruption finds a slot: it may be taken now, with the resume pc and whether its wait is kept; the slice must
first be asked to drop a waiter or a claim; or not yet. -/
inductive Stand
  | now (pc : Word) (keep : Bool)
  | ask (name : Word) (v : BitVec 32)
  | later
  deriving DecidableEq, Repr

/-- The reasons whose wait is cancelled at once: the instruction had no effect (17 R378). -/
def Reason.dropped : Reason → Bool
  | .storeQueue => true | .pageCommit => true | .tag => true | .engineQueue => true | .stream => true | .mailbox => true
  | .remoteQueue => true | .slotPool => true | .slotWait => true | .taskQueue => true | .taskFull => true | .sleep => true
  | .pause => true | .fetch => true | .timeline => true | .none => true
  | _ => false

/-- A tile request that can be withdrawn: a load's waiter, a claim or `tnew` parked at the slice, or another request that waits there with
reason version-wait (05 R125, 17 R378). -/
def Slot.withdrawable (sl : Slot) : Option (Word × BitVec 32) :=
  match sl.wait with
  | .tile (.load _ v _ _ _ _) name => some (name, v)
  | .tile (.store v _ _) name => if sl.reason = .versionStore then none else some (name, v)
  | .tile _ name => if sl.reason = .versionTable ∨ sl.reason = .versionWait then some (name, 0) else none
  | _ => none

/-- How an interruption finds the slot (17 R378, 05 R125). -/
def Slot.stand (sl : Slot) : Stand :=
  match sl.wait, sl.reply with
  | .none, _ => .now sl.pc false
  | .tagged _, _ => .now sl.pc false
  | .timeline _ _ .sync, _ => .now (sl.pc + 1) true
  | .timeline _ _ .synced, _ => .now sl.pc true
  | .barrier _ _, _ => .now sl.pc true
  | .tile _ _, some .ok => .now sl.pc false
  | .tile _ _, none =>
    match sl.withdrawable with
    | some (n, v) => if sl.cancel = 0 then .ask n v else .later
    | none => .later
  | _, none => if sl.reason.dropped then .now sl.pc false else .later
  | _, some _ => .later

/-- Where tile requests for a name go (05 R98, R99): the home slice, or the home module. -/
def State.tileDst (s : State) (name : Word) : Dst :=
  if tileMod name = s.modId then
    (if h : tileStack name < 6 then .slice ⟨tileStack name, h⟩ (Fin.ofNat 32 (name.toNat / 2 ^ 44)) else .io)
  else .mdl (tileMod name)

/-- A cancel sent to the slice for the parked request; a load the slice has refused is withdrawn at once (05 R107, R117, R125). -/
def State.askCancel (s : State) (w : Who) (name : Word) (v : BitVec 32) (why : Fin 4) : State :=
  let sl := s.slot w
  if sl.retryAt.isSome then s.modSlot w fun sl => { sl with cancel := why, retryAt := none, reply := some .ok }
  else (s.modSlot w fun sl => { sl with cancel := why }).send
    ⟨.slot (s.agent w), s.tileDst name, .request, .treq ⟨s.agent w, s.jobOf w, name, sl.tileId, .cancel v sl.tileId⟩⟩

/-- The wait is dropped; reservations of a `bcast` are released (15 R331). -/
def State.dropWait (s : State) (w : Who) (pc : Word) : State :=
  let s := match (s.slot w).wait with | .bcast m _ _ => s.unreserve w.core m | _ => s
  s.modSlot w fun sl => { sl.unpark with pc := pc, walks := [], atHome := false }

/-- A pending asynchronous trap is taken where the slot's wait allows it (17 R361, R378). `sync` says that the trap ends a wait of
the sync bit at once, with the pc after it (07 R157, 13 R279). -/
def State.takeAsync (s : State) (w : Who) (cls sub : Nat) (tval : Word) (clear : Slot → Slot) (sync : Bool) : State :=
  let sl := s.slot w
  if sl.state = .handler then s
  else match sl.stand with
  | .now pc keep =>
    if keep && !sync then s
    else ((s.dropWait w pc).modSlot w clear).trapAt w cls sub tval pc
  | .ask n v => s.askCancel w n v 2
  | .later => s

/-- The slot is parked for the timeline by a sync bit. -/
def Slot.syncOn (sl : Slot) (t : TlName) : Bool :=
  match sl.wait with
  | .timeline u _ .sync => u == t
  | .timeline u _ .synced => u == t
  | _ => false

def execTimerTrap (w : Who) (s : State) : Out :=
  if (s.slot w).pendTimer then .next (s.takeAsync w 0xD 1 0 (fun sl => { sl with pendTimer := false }) false) else .next s

/-- The copy fault of a context (07 R157): the lowest faulting byte. -/
def execCopyFaultTrap (w : Who) (s : State) : Out :=
  match (s.slot w).pendCopy with
  | some va =>
    .next (s.takeAsync w 6 4 va (fun sl => { sl with
      pendCopy := none
      cctx := { sl.cctx with ops := sl.cctx.ops.map fun o => if o.st = .faulted then { o with trapped := true } else o } })
      ((s.slot w).syncOn .c))
  | none => .next s

def execMembershipChangeTrap (w : Who) (s : State) : Out :=
  match (s.slot w).pendMember with
  | some v => .next (s.takeAsync w 0xA 2 v (fun sl => { sl with pendMember := none }) ((s.slot w).syncOn .x))
  | none => .next s

def execSpawnFailureTrap (w : Who) (s : State) : Out :=
  match (s.slot w).pendSpawn with
  | some n => .next (s.takeAsync w 0xB 5 n (fun sl => { sl with pendSpawn := none }) ((s.slot w).syncOn .t))
  | none => .next s

/-! ## Watchdogs (17 R375) -/

/-- What a watchdog reports for a wait it guards: the object waited on and the resume pc. -/
def Slot.watched (sl : Slot) : Option (Word × Word) :=
  match sl.wait with
  | .tile (.load _ _ _ _ _ timed) name => if timed then none else some (name, sl.pc)
  | .tile (.store _ _ _) name => if sl.reason = .versionLimit then some (name, sl.pc) else none
  | .tag _ a _ => some (BitVec.ofNat 64 a, sl.pc)
  | .timeline _ n .sync => some (n, sl.pc + 1)
  | .timeline _ n _ => some (n, sl.pc)
  | .mailbox i _ => some (BitVec.ofNat 64 i.val, sl.pc)
  | .barrier i _ => some (BitVec.ofNat 64 i.val, sl.pc)
  | .slotWait m _ => some (m.setWidth 64, sl.pc)
  | .again (.tasks p) => some (BitVec.ofNat 64 p.val, sl.pc)
  | .again .gates => some (sl.object, sl.pc)
  | .again .inbound => some (sl.object, sl.pc)
  | _ => none

/-- The instruction a slot is parked in: a barrier's wait, and a sync bit's after a spill, have gone past it (17 R362). -/
def Slot.waitPc (sl : Slot) : Word :=
  match sl.wait with
  | .barrier _ _ => sl.pc - 1
  | .timeline _ _ .synced => sl.pc - 1
  | _ => sl.pc

/-- The slot has been parked for longer than its die's interval in a wait the watchdog guards. -/
def State.overdue (s : State) (w : Who) : Bool :=
  let sl := s.slot w
  let n := s.settings.watchdog[w.core.stack]
  sl.watched.isSome && decide (n ≠ 0) && decide (sl.parkedAt + n < s.rot)

/-- The watchdog's trap; for a tile wait once its cancel has removed the waiter or the claim. -/
def execWatchdog (w : Who) (s : State) : Out :=
  let sl := s.slot w
  match sl.watched with
  | none => .next s
  | some (obj, epc) =>
    if !s.overdue w then .next s
    else match sl.stand with
    | .now _ _ =>
      let code := sl.reason.code
      .next ((s.dropWait w (if sl.state = .handler then sl.waitPc else epc)).trapAt w 0xC code obj epc)
    | .ask n v => .next (s.askCancel w n v 3)
    | .later => .next s

/-! ## The save area (17 R379) -/

/-- The state code a spill saves, and the kept reason. -/
def Slot.savedState (sl : Slot) : Nat := (if sl.state = .spilled then sl.spilledAs else sl.state).code

/-- The status word of a save area. -/
def Slot.statusWord (sl : Slot) : Nat :=
  let b (x : Bool) (n : Nat) : Nat := if x then 2 ^ n else 0
  sl.savedState + (if sl.wait = .none then 0 else sl.reason.code * 256) + b sl.repCont 16 + b sl.haltReq 17 +
    b sl.pendCopy.isSome 20 + b sl.pendMember.isSome 21 + b sl.pendSpawn.isSome 22 + b sl.pendTimer 23

/-- The wait operand of a kept wait. -/
def Slot.waitOperand (sl : Slot) : Nat :=
  match sl.wait with
  | .timeline _ n _ => n.toNat
  | .barrier _ g => g.toNat
  | _ => 0

/-- The 64 bytes of a stream (17 R379). -/
def streamBytes (st : Option Stream) : List Byte :=
  match st with
  | none => leBytes 64 0
  | some x =>
    leBytes 8 x.base.toNat ++ leBytes 1 x.width.val ++ leBytes 1 x.tags.val ++ leBytes 6 0 ++
    (x.n.toList.map fun n => leBytes 2 n).flatten ++ (x.st.toList.map fun n => leBytes 4 (BitVec.ofInt 32 n).toNat).flatten ++
    leBytes 4 x.pos ++ leBytes 1 (1 + (if x.wr then 2 else 0) + (if x.gl then 4 else 0)) ++ leBytes 19 0

/-- The state code of a saved copy operation (17 R379). -/
def CopySt.code : CopySt → Nat
  | .queued => 1 | .running => 2 | .commitWait => 3 | .faulted => 4 | .done => 0 | .complete => 0

/-- The 160 bytes of a copy operation. -/
def copyBytes (o : CopyOp) : List Byte :=
  leBytes 8 o.num.toNat ++ leBytes 8 o.st.code ++ leBytes 8 o.sector ++ leBytes 8 o.w1.toNat ++
    (o.desc ++ List.replicate (128 - o.desc.length) 0)

/-- The save area's fields by their offsets (17 R379). -/
def Slot.area (sl : Slot) : List (Nat × List Byte) :=
  [(0, ((List.finRange 32).map fun i => leBytes 8 (sl.rs i).toNat).flatten),
   (0x100, (sl.f.toList.map fun x => leBytes 8 x.toNat).flatten),
   (0x200, (sl.v.toList.map vBytes).flatten),
   (0x600, leBytes 8 ((List.finRange 8).foldl (fun (x : Nat) (i : Fin 8) => if sl.rk i then x + 2 ^ i.val else x) 0)),
   (0x608, (sl.y.toList.map fun x => leBytes 8 x.toNat).flatten),
   (0x628, leBytes 8 sl.pc.toNat), (0x630, leBytes 8 sl.epc.toNat), (0x638, leBytes 8 sl.tcause.toNat),
   (0x640, leBytes 8 sl.tval.toNat), (0x648, leBytes 8 sl.tvec.toNat),
   (0x650, leBytes 8 (sl.flags.toNat + sl.fen.toNat * 256 + sl.rmode.toNat * 65536)),
   (0x658, leBytes 8 sl.tmr.toNat), (0x660, leBytes 8 sl.cctx.tl.toNat), (0x668, leBytes 8 sl.mctx.tl.toNat),
   (0x670, leBytes 8 sl.xctx.tl.toNat), (0x678, leBytes 8 sl.statusWord), (0x680, leBytes 8 sl.waitOperand),
   (0x700, (sl.streams.toList.map streamBytes).flatten),
   (0x800, (sl.errq.map fun e => leBytes 8 e.addr.toNat ++ leBytes 8 e.info.toNat).flatten),
   (0x900, ((sl.cctx.ops.filter fun o => decide (o.st.code ≠ 0)).map copyBytes).flatten)]

/-- The 4,096 bytes of the save area. -/
def Slot.areaBytes (sl : Slot) : List Byte :=
  let m : Memory := sl.area.foldl (fun (m : Memory) (e : Nat × List Byte) => m.write e.1 e.2) []
  m.read 0 4096

/-- A copy operation as a spill leaves it: it restarts at its resume sector (07 R158). -/
def CopyOp.save (o : CopyOp) : CopyOp :=
  { o with
    st := if o.st = .commitWait then .running else o.st
    ahead := [], denied := none, waits := [], fault := if o.st = .commitWait then none else o.fault }

/-- A stream as a spill leaves it: buffered strips of a read stream are discarded (07 R168). -/
def Stream.save (st : Stream) : Stream := if st.wr then st else { st with buf := [], moved := st.pos }

/-- A wait as a spill keeps it: one of the sync bit goes on with its pc after the instruction (17 R378). -/
def Wait.kept : Wait → Wait
  | .timeline t n .sync => .timeline t n .synced
  | w => w

/-- The spilled slot. -/
def Slot.spill (sl : Slot) (pc : Word) (keep : Bool) : Slot :=
  { sl with
    pc := pc, state := .spilled, spilledAs := sl.state, resv := [], haltNow := sl.haltReq, spillTl := (sl.mctx.tl, sl.xctx.tl)
    reason := if keep then sl.reason else .none
    wait := if keep then sl.wait.kept else .none
    reply := none, walks := [], atHome := false, block := none, bubble := false, fetchFault := none, deadline := none, retryAt := none
    cancel := 0, streams := mapV (fun x => x.map Stream.save) sl.streams
    cctx := { sl.cctx with ops := sl.cctx.ops.map CopyOp.save } }

/-- A sector is being written, which the spill lets finish (07 R158), or write streams hold strips that it drains first (07 R168). A context
with a faulted operation drains nothing, and is saved as it stands with its strips: where R155 and R168 meet is the model's choice (log entry
48). -/
def Slot.draining? (sl : Slot) : Bool :=
  (sl.cctx.ops.any fun o => !o.out.isEmpty) || (sl.cctx.ops.all fun o => decide (o.st ≠ .faulted)) &&
    ((sl.draining.any fun x => !x.buf.isEmpty) || sl.streams.toList.any fun st => match st with
      | some x => x.wr && !x.buf.isEmpty
      | none => false)

/-! ## The spill engine (17 R376, R377, R380) -/

/-- The head request ends, performed or not, with its notification; resumes asked for by the host at the head follow. -/
def State.endRequest (s : State) (c : CoreId) : State :=
  match (s.core c).spillQ with
  | [] => s
  | r :: rest =>
    let s := s.modCore c fun k => { k with spillQ := rest }
    match r.notify with
    | some i => s.mbAdd c i 1
    | none => s

/-- The slot's save area may be written: its segments (17 R377). -/
def State.areaSegs (s : State) (w : Who) (va : Word) (kind : AccKind) : Option (List Seg) :=
  let a := va.toNat
  let root := s.rootOf w
  if 0x1000000000000 < a + 4096 then none
  else match checkWith a 4096 kind 1 false ((pagesOf a 4096).map fun p => (p, (s.walk root (p * 32768)).1)) with
  | .ok segs => if kind = .load ∧ segs.any fun g => s.poisoned g.pa g.len then none else some segs
  | _ => none

/-- Bytes put into the save area of a spilled slot by the spill engine (17 R379). -/
def State.saveBytes (s : State) (w : Who) (off : Nat) (bs : List Byte) : State :=
  let sl := s.slot w
  if sl.state ≠ .spilled then s
  else match s.areaSegs w sl.tsave .store with
    | none => s
    | some segs => segs.foldl (fun s (g : Seg) =>
        let lo := max g.off off
        let hi := min (g.off + g.len) (off + bs.length)
        if lo < hi then s.gwrite (g.pa + (lo - g.off)) ((bs.drop (lo - off)).take (hi - lo)) g.through else s) s

/-- A trap made pending in a spilled slot stays pending in its save area (13 R289, 17 R379). -/
def State.savePend (s : State) (w : Who) : State := s.saveBytes w 0x678 (leBytes 8 (s.slot w).statusWord)

/-- A pre-emption acted on at an instruction boundary, or as the parking reason allows (17 R377, R378). A guest is sent home. -/
def execPreemption (w : Who) (s : State) : Out :=
  match (s.core w.core).spillQ with
  | [] => .next s
  | r :: _ =>
    let sl := s.slot w
    if r.slot ≠ w.slot ∨ r.resume then .next s
    else if sl.hosting.isSome then
      match sl.stand with
      | .now pc _ => .next ((s.sendHome w .plain pc).endRequest w.core)
      | _ => .next s
    else if sl.state = .pool ∨ sl.state = .exit ∨ sl.state = .spilled then .next (s.endRequest w.core)
    else match sl.stand, s.areaSegs w sl.tsave .store with
    | .later, _ => .next s
    | _, none => .next ((s.raise .spillFail (stackDie w.core.stack) [(coreWord s.modId w.core).toNat, w.slot.val]).endRequest w.core)
    | .ask n v, some _ => .next (s.askCancel w n v 2)
    | .now pc keep, some segs =>
      if sl.draining? then .next s
      else
        let s := match sl.wait with | .bcast m _ _ => s.unreserve w.core m | _ => s
        let t := sl.spill pc keep
        let bs := Slot.areaBytes { t with cctx := sl.cctx }
        let s := segs.foldl (fun s (g : Seg) => s.gwrite g.pa ((bs.drop g.off).take g.len) g.through) s
        .next ((s.modSlot w fun _ => t).endRequest w.core)

/-- `spill`'s notification field (17 R380). -/
def notifyOf (x : Word) : Option MbIdx := if x.getLsbD 8 then some (Fin.ofNat 64 (x.toNat / 512)) else none

/-- A slot has a request in the queue. -/
def Core.requested (c : Core) (i : Fin 16) : Bool := c.spillQ.any fun r => r.slot == i && !r.resume

def execSpill (h : Hdr) (d a : SReg) (s : State) : Out :=
  homeOnly h s (
    let x := s.me.rs a
    let i : Fin 16 := Fin.ofNat 16 x.toNat
    let c := s.myCore
    let t := c.slots[i]
    if i = s.cur.slot then retire s fun sl => sl.ws d 2
    else if t.state = .pool ∨ t.state = .exit ∨ t.state = .spilled ∨ c.requested i then retire s fun sl => sl.ws d 1
    else if 16 ≤ c.spillQ.length then retire s fun sl => sl.ws d 3
    else retire (s.modMyCore fun c => { c with spillQ := c.spillQ ++ [⟨i, false, none, notifyOf x, some s.cur⟩] })
      fun sl => sl.ws d 0)

def execUnspill (h : Hdr) (d a : SReg) (b : Option SReg) (s : State) : Out :=
  homeOnly h s (
    let x := s.me.rs a
    let i : Fin 16 := Fin.ofNat 16 x.toNat
    if 16 ≤ s.myCore.spillQ.length then retire s fun sl => sl.ws d 3
    else
      let area := b.map s.me.rs
      let s := s.modMyCore fun c => { c with spillQ := c.spillQ ++ [⟨i, true, area, notifyOf x, some s.cur⟩] }
      .next ((s.park .fence (.sys (.unspill d x area))).mod fun sl => { sl with object := x }))

/-- The rest of the streams' fields, and the unused entries of the error queue, are zero in a save area (17 R379). -/
def areaRest (m : Memory) : Bool :=
  ((List.range 4).all fun i => decide (m.num (0x70A + 64 * i) 6 = 0) && decide (m.num (0x72C + 64 * i) 1 / 8 = 0) &&
    decide (m.num (0x72D + 64 * i) 19 = 0)) &&
  (List.range 16).all fun i => (m.num (0x80F + 16 * i) 1).testBit 7 || decide (m.num (0x800 + 16 * i) 16 = 0)

/-- The reserved fields of a save area are zero and its state code is one a spill saves (17 R379, R380). -/
def areaOk (m : Memory) : Bool :=
  let st := m.num 0x678 8
  areaRest m &&
  decide (st % 16 ∈ [1, 2, 3, 4]) && decide (st / 16 % 16 = 0) && decide (st / 2 ^ 18 % 4 = 0) && decide (st / 2 ^ 24 = 0) &&
    decide (m.num 0x600 8 / 256 = 0) && decide (m.num 0x638 8 / 65536 = 0) && decide (m.num 0x658 8 / 2 ^ 32 = 0) &&
    decide (m.num 0x650 8 / 32 % 8 = 0) && decide (m.num 0x650 8 / 8192 % 8 = 0) && decide (m.num 0x650 8 / 2 ^ 18 = 0) &&
    decide (m.num 0x688 0x78 = 0) && decide (m.num 0xE00 0x200 = 0)

/-- The registers, modes and timelines of a save area put back into the slot: tl.m and tl.x where software has edited them, else they have gone on
meanwhile. Its operations, streams and error queue are those the slot holds (17 R379, R380; log entry 42). -/
def Slot.restore (sl : Slot) (m : Memory) : Slot :=
  let st := m.num 0x678 8
  let modes := m.num 0x650 8
  { sl with
    s := Vector.ofFn fun (i : Fin 32) => if i = 0 then 0 else m.word (8 * i.val)
    f := Vector.ofFn fun (i : Fin 32) => m.word (0x100 + 8 * i.val)
    v := Vector.ofFn fun (i : Fin 16) => vOf (m.read (0x200 + 64 * i.val) 64)
    k := Vector.ofFn fun (i : Fin 8) => i == 0 || (m.num 0x600 1).testBit i.val
    y := Vector.ofFn fun (i : Fin 4) => m.word (0x608 + 8 * i.val)
    pc := m.word 0x628, epc := m.word 0x630, tcause := BitVec.ofNat 16 (m.num 0x638 2), tval := m.word 0x640
    tvec := m.word 0x648, flags := BitVec.ofNat 5 modes, fen := BitVec.ofNat 5 (modes / 256)
    rmode := BitVec.ofNat 2 (modes / 65536), tmr := BitVec.ofNat 32 (m.num 0x658 4)
    cctx := { (if st % 16 = 4 then sl.cctx else sl.cctx.forget) with tl := m.word 0x660 }
    mctx := if m.word 0x668 = sl.spillTl.1 then sl.mctx else { sl.mctx with tl := m.word 0x668 }
    xctx := if m.word 0x670 = sl.spillTl.2 then sl.xctx else { sl.xctx with tl := m.word 0x670 }
    repCont := st.testBit 16, repPc := if st % 16 = 4 then sl.repPc else m.word 0x628
    state := if st % 16 = 4 then .handler
      else if st % 16 = 3 ∧ sl.wait ≠ .none then .parked else .running }

/-- A spilled slot resumed from an area: the code of `unspill` and the state (17 R380). -/
def State.resume (s : State) (asker w : Who) (area : Option Word) (rot : Nat) : Nat × State :=
  let sl := s.slot w
  if sl.state ≠ .spilled then (1, s)
  else match s.areaSegs asker (area.getD sl.tsave) .load with
  | none => (2, s)
  | some segs =>
    let bs := (segs.map fun g => s.gread g.pa g.len).flatten
    let m : Memory := Memory.write [] 0 bs
    if areaOk m then (0, s.modSlot w fun sl => { sl.restore m with parkedAt := rot }) else (2, s)

/-- The host's resume requests at the head of a core's queue are served (17 R376). -/
def State.hostResumes : Nat → State → CoreId → State
  | 0, s, _ => s
  | n + 1, s, c =>
    match (s.core c).spillQ with
    | ⟨i, true, area, _, none⟩ :: _ => State.hostResumes n ((s.resume ⟨c, i⟩ ⟨c, i⟩ area s.rot).2.endRequest c) c
    | _ => s

/-- The host asks for a spill or a resume (17 R376, 18 R386). -/
def execSpillOrResumeASlot (w : Who) (resume : Bool) (s : State) : Out :=
  let c := s.core w.core
  if 16 ≤ c.spillQ.length ∨ (¬ resume ∧ (c.requested w.slot ∨ c.slots[w.slot].state = .pool ∨
      c.slots[w.slot].state = .exit ∨ c.slots[w.slot].state = .spilled)) then .next s
  else
    let s := s.modCore w.core fun c => { c with spillQ := c.spillQ ++ [⟨w.slot, resume, none, none, none⟩] }
    .next (s.hostResumes 16 w.core)

/-! ## Floating-point exceptions (09 R204, 10 R211, 17 R374) -/

/-- After a floating instruction: enabled flags it raised park the slot, with `epc` at the next pc to issue, and are reported. A guest
first returns home (12 R261). -/
def State.fpPark (s : State) (raised : BitVec 5) (pc : Word) : State :=
  let sl := s.me
  let on := raised &&& sl.fen
  if on = 0 then s
  else if sl.hosting.isSome then s.sendHome s.cur (.fp on) sl.pc
  else
    let next := sl.pc
    let s := s.mod fun sl => { (sl.park .fpException (.fpEx on pc) s.rot) with epc := next, block := none }
    if s.modes.fpException then
      s.raise .fpException (stackDie s.cur.core.stack) [(coreWord s.modId s.cur.core).toNat, s.cur.slot.val, on.toNat, pc.toNat]
    else s.message s.cur.core sl.sup ⟨coreWord s.modId s.cur.core, s.cur.slot, 2, on.setWidth 16, pc⟩

/-- A floating instruction completes with its flags (03 R58, 09 R203, R204). -/
def retireFp (s : State) (fl : BitVec 5) (f : Slot → Slot) : Out :=
  let pc := s.me.pc
  .next ((s.mod fun sl => { (f sl).next with flags := sl.flags ||| fl }).fpPark fl pc)

end Sys2Proof.Machine
end

