-- ==== Sys2Proof/Machine/Tiles.lean ====
section
/-! DEFINITION. Versioned tiles: the instructions, the version tables of the slices, deliveries and waiters (05 R98-R125). -/

namespace Sys2Proof.Machine

/-! ## Names and records -/

/-- The stack and slice fields of a name: what shares one table (05 R98). -/
def tileKey (name : Word) : Nat := name.toNat / 2 ^ 44 % 2 ^ 8

/-- The bytes of a tile of size code `c` (05 R99). -/
def tileBytes (c : Nat) : Nat := 128 * 2 ^ c

def State.rec? (s : State) (n : Word) : Option NameRec := s.names.find? fun r => decide (r.name = n)

def State.setRec (s : State) (r : NameRec) : State := { s with names := s.names.map fun x => if x.name = r.name then r else x }

def NameRec.ver? (r : NameRec) (v : BitVec 32) : Option VerEntry := r.vers.find? fun e => decide (e.v = v)

/-- The state of a version's entry. -/
def NameRec.stOf (r : NameRec) (v : BitVec 32) : Option VState :=
  match r.ver? v with
  | some e => some e.st
  | none => none

/-- A version entry put in its record. -/
def NameRec.setVer (r : NameRec) (e : VerEntry) : NameRec :=
  if (r.ver? e.v).isSome then { r with vers := r.vers.map fun x => if x.v = e.v then e else x }
  else { r with vers := r.vers ++ [e] }

def NameRec.delVer (r : NameRec) (v : BitVec 32) : NameRec := { r with vers := r.vers.filter fun e => decide (e.v ≠ v) }

/-- Versions filling or present (05 R101). -/
def NameRec.live (r : NameRec) : Nat := (r.vers.filter fun e => e.st == .filling || e.st == .present).length

/-- The floor that requests meet: a `tfloor` handled earlier counts though it still waits for fills (05 R120, R121). -/
def NameRec.bar (r : NameRec) : Nat :=
  r.pend.foldl (fun m p => match p.2.2 with | some f => max m f.toNat | none => m) r.floor.toNat

/-- A version below the floor, or any version of an exhausted name (05 R104). -/
def NameRec.below (r : NameRec) (v : BitVec 32) : Bool := r.exhausted || decide (v.toNat < r.bar)

/-- A new version entry. -/
def VerEntry.fresh (v : BitVec 32) (cycle : Nat) : VerEntry where
  v := v
  st := .absent
  persistent := false
  count := 0
  outst := 0
  storage := .none
  ev := 0
  data := []
  waiters := []
  producer := ⟨0, whoReset⟩
  pjob := 0
  pid := 0
  addr := 0
  refs := 0
  spilled := false
  touched := cycle
  loaded := cycle

/-! ## Room: table entries, waiters, tile storage (05 R100, R107-R109) -/

/-- The records whose home is one slice. -/
def State.keyNames (s : State) (key : Nat) : List NameRec := s.names.filter fun r => tileKey r.name == key

/-- Table entries in use. -/
def State.entriesUsed (s : State) (key : Nat) : Nat :=
  ((s.keyNames key).map fun r => 1 + (r.vers.filter fun e => !e.spilled).length).sum

/-- An entry the slice may move to its overflow table. -/
def VerEntry.idle (e : VerEntry) : Bool :=
  !e.spilled && (match e.st with
    | .present => e.waiters.isEmpty && e.outst == 0
    | .dead => true
    | _ => false)

/-- A state with a free entry in the slice's table, if there is one (05 R109). `back` counts an entry that leaves the overflow table for it. -/
def State.makeRoom (s : State) (key : Nat) (back : Nat := 0) : Option State :=
  if s.entriesUsed key < 32768 then some s
  else if s.modes.tableSpill then none
  else
    let rs := s.keyNames key
    if s.settings.versionOvf + back ≤ (rs.map fun r => (r.vers.filter (·.spilled)).length).sum then none
    else
      let idle := (rs.map fun r => (r.vers.filter VerEntry.idle).map fun e => (e.touched, r.name, e.v)).flatten
      match idle with
      | [] => none
      | x :: l =>
        let m := l.foldl (fun m y => if y.1 < m.1 then y else m) x
        match s.rec? m.2.1 with
        | none => none
        | some r => match r.ver? m.2.2 with
          | none => none
          | some e => some (s.setRec (r.setVer { e with spilled := true }))

/-- A spilled entry is brought back before it is used, where an entry is free for it or another moves out in its place: in host-assisted mode
too, whose entries only the host moves out; with table and overflow full the two entries change places (05 R109, log entry 48). -/
def State.bringBack (s : State) (name : Word) (v : BitVec 32) : Option State :=
  match (s.rec? name).bind (·.ver? v) with
  | none => some s
  | some e =>
    if !e.spilled then some s
    else match s.makeRoom (tileKey name) 1 with
      | none => none
      | some s => match s.rec? name with
        | some r => some (s.setRec (r.setVer { e with spilled := false }))
        | none => none

/-- The waiter overflow area of the slice has room, or the entry holds fewer than 16 records (05 R107). -/
def State.waiterRoom (s : State) (key : Nat) (e : VerEntry) : Bool :=
  decide (e.waiters.length < 16) ||
    decide (((s.keyNames key).map fun r => (r.vers.map fun x => x.waiters.length - 16).sum).sum < s.settings.waiterOvf)

/-- Bytes of the slice's tile pool, or of the stack's tile frames, in use (05 R108). -/
def State.tileUsed (s : State) (names : List NameRec) (st : Storage) : Nat :=
  (names.map fun r => (r.vers.filter fun e => e.storage == st).length * tileBytes r.c).sum

def State.stackNames (s : State) (name : Word) : List NameRec := s.names.filter fun r => tileStack r.name == tileStack name

/-- Where a filling version's bytes go: a pool block, else a frame (05 R108); a version takes its own 128 * 2^c bytes of either, since no size
of a block or frame is given (log entry 48). -/
def State.storageFor (s : State) (name : Word) (c : Nat) : Option Storage :=
  if s.tileUsed (s.keyNames (tileKey name)) .pool + tileBytes c ≤ s.settings.tilePool * 524288 then some .pool
  else if s.tileUsed (s.stackNames name) .frame + tileBytes c ≤ s.settings.tileFrames then some .frame
  else none

/-- Once the pool is full the least recently loaded present version moves to a frame; the hint of its store ranks it: those stored with
`%evict` or `%stream` go first, those with `%keep` last (05 R108, log entry 48). -/
def State.relievePool (s : State) (name : Word) (c : Nat) : State :=
  let rs := s.keyNames (tileKey name)
  if s.tileUsed rs .pool + tileBytes c ≤ s.settings.tilePool * 524288 then s
  else
    let rank (e : VerEntry) : Nat := match e.ev.val with | 0 => 1 | 1 => 2 | _ => 0
    let cand := (rs.map fun r => (r.vers.filter fun e => e.storage == .pool && e.st == .present).map fun e => (r, e)).flatten
    match cand with
    | [] => s
    | x :: l =>
      let m := l.foldl (fun m y => if rank y.2 < rank m.2 ∨ (rank y.2 = rank m.2 ∧ y.2.loaded < m.2.loaded) then y else m) x
      if s.tileUsed (s.stackNames name) .frame + tileBytes m.1.c ≤ s.settings.tileFrames then
        s.setRec (m.1.setVer { m.2 with storage := .frame })
      else s

/-! ## Answers -/

/-- The source of a slice's packets for a name. -/
def tileSrc (name : Word) : Src :=
  if h : tileStack name < 6 then .slice ⟨tileStack name, h⟩ (Fin.ofNat 32 (name.toNat / 2 ^ 44)) else .io

/-- A tile's bytes cut into packets of at most eight data flits (06 R128), each with its offset. -/
def tilePieces : Nat → Nat → List Byte → List (Nat × List Byte)
  | 0, _, _ => []
  | n + 1, off, bs => if bs.isEmpty then [] else (off, bs.take 512) :: tilePieces n (off + 512) (bs.drop 512)

/-- A slot of this module takes a slice's answer to its request of a number (05 R106, R107, R116, R117). -/
def State.tileAnswer (s : State) (w : Who) (name : Word) (id : Nat) (r : TRes) : State :=
  let sl := s.slot w
  let on := match sl.wait with | .tile _ n => n == name && sl.tileId == id | _ => false
  if !on then s
  else match r with
  | .val x => s.modSlot w (·.tileAnswer name (.val x))
  | .trap sub => (s.modSlot w (·.tileAnswer name (.trap 5 sub name))).failItems w.core (if sub = 5 then 1 else 0)
  | .cancelled => s.modSlot w (·.tileAnswer name .ok)
  | .refused => s.modSlot w fun sl =>
      if sl.cancel = 0 then { sl with retryAt := some (s.rot + 64) } else sl.tileAnswer name .ok
  | .waits code => s.modSlot w fun sl => { sl with
      reason := if sl.reason = .versionWait then sl.reason
        else match code with
          | 7 => .versionLimit
          | 9 => .versionTable
          | 10 => .tileSpace
          | _ => sl.reason }
  | .granted =>
    let s := s.modSlot w fun sl => { sl with reason := .versionStore }
    match sl.wait with
    | .tile (.store v a c) _ =>
      if tileMod name = s.modId then s
      else s.sendAll ((tilePieces (2 ^ c) 0 ((s.core w.core).sp.read a (tileBytes c))).map fun (x : Nat × List Byte) =>
        (⟨.slot (s.agent w), .mdl (tileMod name), .request, .tfill name v id x.1 x.2⟩ : Packet))
    | _ => s

/-- An answer on its way to its requester (06 R130). -/
def State.tileReply (s : State) (a : Agent) (name : Word) (id : Nat) (r : TRes) : State :=
  s.send ⟨tileSrc name, agentDst s.modId a, .reply, .trep a name id r⟩

/-- A gate's notice to a task unit (05 R107, 16 R344). -/
def State.gateReply (s : State) (md : Fin 4096) (c : CoreId) (gid : Nat) (name : Word) (refused : Bool) : State :=
  s.send ⟨tileSrc name, if md = s.modId then .core c else .mdl md, .notice, .gate c gid refused⟩

/-! ## Deliveries and waiters (05 R107, R110) -/

/-- A tile cut into lines of 128 bytes. -/
def tileLines : Nat → Nat → List Byte → List (Nat × List Byte)
  | 0, _, _ => []
  | n + 1, a, bs => (a, bs.take 128) :: tileLines n (a + 128) (bs.drop 128)

/-- A load is served: its references are taken and its data and notice sent as one flow (05 R102, R110, R117). -/
def State.deliver (s : State) (r : NameRec) (e : VerEntry) (src : Agent) (job : BitVec 32) (id addr j : Nat) : State :=
  let left := e.count - min j e.count
  let val : Word := if e.persistent then 0x10000 else BitVec.ofNat 64 left
  let took := if e.persistent then 0 else min j e.count
  let did := s.nextDid
  let e' := { e with count := if e.persistent then e.count else left, outst := e.outst + 1, touched := s.cycle, loaded := s.cycle }
  let s := s.setRec (r.setVer e')
  let dl : Delivery := ⟨did, r.name, e.v, took, src, job, id, false⟩
  let s := { s with nextDid := did + 1, deliveries := s.deliveries ++ [dl] }
  let dst := agentDst s.modId src
  let lines := (tileLines (2 ^ r.c) addr e.data).map fun (x : Nat × List Byte) =>
    (⟨tileSrc r.name, dst, .notice, .tdata src x.1 x.2⟩ : Packet)
  (s.sendAll lines).send ⟨tileSrc r.name, dst, .notice, .notice src did s.modId val r.name id⟩

/-- A present version serves its waiters in registration order, while fewer than 256 deliveries are outstanding. -/
def State.serve : Nat → State → Word → BitVec 32 → State
  | 0, s, _, _ => s
  | n + 1, s, name, v =>
    match s.rec? name with
    | none => s
    | some r => match r.ver? v with
      | none => s
      | some e =>
        if e.st ≠ .present ∨ 255 ≤ e.outst then s
        else match e.waiters with
        | [] => s
        | .gate md c gid :: ws =>
          State.serve n ((s.setRec (r.setVer { e with waiters := ws })).gateReply md c gid name false) name v
        | .load src job id addr j :: ws =>
          if e.persistent ∨ 0 < e.count then
            let e := { e with waiters := ws }
            State.serve n ((s.setRec (r.setVer e)).deliver (r.setVer e) e src job id addr j) name v
          else State.serve n ((s.setRec (r.setVer { e with waiters := ws })).tileReply src name id (.trap 2)) name v

def State.serveAll (s : State) (name : Word) (v : BitVec 32) : State :=
  s.serve (((s.rec? name).bind fun r => (r.ver? v).map fun e => e.waiters.length).getD 0) name v

/-! ## Death, floors, claims (05 R103-R106, R120-R123) -/

/-- The floor passes consecutive dead versions, whose entries are released; the last version leaves the name exhausted. -/
def NameRec.advance : Nat → NameRec → NameRec
  | 0, r => r
  | n + 1, r =>
    match r.ver? r.floor with
    | some e =>
      if e.st = .dead then
        let r' := r.delVer r.floor
        if r.floor = 0xFFFFFFFF then { r' with exhausted := true } else NameRec.advance n { r' with floor := r.floor + 1 }
      else r
    | none => r

/-- A present version at count 0 without deliveries is dead (05 R102). -/
def VerEntry.settle (e : VerEntry) : VerEntry :=
  if e.st = .present ∧ ¬ e.persistent ∧ e.count = 0 ∧ e.outst = 0 then { e with st := .dead, storage := .none, data := [] } else e

/-- A granted claim (05 R102, R116). -/
def State.grant (s : State) (r : NameRec) (e : VerEntry) (st : Storage) (c : Claim) : State :=
  let e := { e with
    st := .filling, storage := st, ev := c.ev, data := [], producer := c.src, pjob := c.job, pid := c.id, addr := c.addr
    refs := c.refs, spilled := false, touched := s.cycle, loaded := s.cycle }
  ((s.setRec (r.setVer e)).relievePool r.name r.c).tileReply c.src r.name c.id .granted

/-- A claim handled against the table: settled, or what it lacks. -/
inductive Handled
  | done (s : State)
  /-- it waits for a parking reason's cause -/
  | lacks (code : Nat)

/-- A claim that is neither below the floor nor behind the limit (05 R102, R108, R109). -/
def State.tryGrant (s : State) (r : NameRec) (c : Claim) : Handled :=
  let key := tileKey r.name
  match r.ver? c.v with
  | some e =>
    if e.st ≠ .absent then .done (s.tileReply c.src r.name c.id (.trap 1))
    else match s.storageFor r.name r.c with
    | none => .lacks 10
    | some st => .done (s.grant r e st c)
  | none =>
    match s.makeRoom key with
    | none => .lacks 9
    | some s => match s.rec? r.name with
      | none => .lacks 9
      | some r => match s.storageFor r.name r.c with
        | none => .lacks 10
        | some st => .done (s.grant r (.fresh c.v s.cycle) st c)

/-- Waiters and claims turned away: loads and claims trap version-gone, gates get their notice (05 R120, R123). -/
def State.turnAway (s : State) (name : Word) (ws : List Waiter) (cs : List Claim) : State :=
  let s := ws.foldl (fun s w => match w with
    | .load src _ id _ _ => s.tileReply src name id (.trap 2)
    | .gate md c gid => s.gateReply md c gid name false) s
  cs.foldl (fun s c => s.tileReply c.src name c.id (.trap 2)) s

/-- The claims and loads held at the slice for a name that goes trap version-gone, and its gates get their notice (05 R123). -/
def State.dropWaiting (s : State) (name : Word) : State :=
  let goes (h : HeldTile) : Bool := decide (h.req.name = name) && (match h.req.op with
    | .claim _ _ _ _ _ => true
    | .load _ _ _ _ _ => true
    | .gate _ _ _ => true
    | _ => false)
  let hs := s.tileHeld.filter goes
  hs.foldl (fun (s : State) h => match h.req.op with
    | .gate _ c gid => s.gateReply h.req.src.mod c gid name false
    | _ => s.tileReply h.req.src name h.req.id (.trap 2)) { s with tileHeld := s.tileHeld.filter fun h => !goes h }

/-- A waiting `tfloor` or `tdel` whose fills and deliveries have ended is performed (05 R120, R123). -/
def State.pendDone (s : State) (name : Word) : State :=
  match s.rec? name with
  | none => s
  | some r =>
    let busy (e : VerEntry) : Bool := e.st == .filling || e.outst != 0
    match r.pend with
    | [] => s
    | (src, id, none) :: _ =>
      if r.vers.any busy then s
      else
        let s := { s with names := s.names.filter fun x => decide (x.name ≠ name) }
        let s := (s.turnAway name (r.vers.map (·.waiters)).flatten r.parked).dropWaiting name
        let s := r.pend.tail.foldl (fun s p => s.tileReply p.1 name p.2.1 (.trap 6)) s
        s.tileReply src name id (.val 0)
    | (src, id, some f) :: ps =>
      let low := r.vers.filter fun e => decide (e.v.toNat < f.toNat)
      if low.any busy then s
      else if f.toNat ≤ r.floor.toNat ∨ r.exhausted then (s.setRec { r with pend := ps }).tileReply src name id (.val 0)
      else
        let cs := r.parked.filter fun c => decide (c.v.toNat < f.toNat)
        let r := { r with
          pend := ps, floor := f, vers := r.vers.filter fun e => decide (f.toNat ≤ e.v.toNat)
          parked := r.parked.filter fun c => decide (f.toNat ≤ c.v.toNat) }
        let s := s.setRec (r.advance (r.vers.length + 1))
        (s.turnAway name (low.map (·.waiters)).flatten cs).tileReply src name id (.val 0)

/-- After a change at a name: the floor advances, and the waiting `tfloor` and `tdel` act (05 R103, R120, R123). -/
def State.settleTile (s : State) (name : Word) : State :=
  let s := match s.rec? name with
    | some r => s.setRec (r.advance (r.vers.length + 1))
    | none => s
  let n := ((s.rec? name).map fun r => r.pend.length).getD 0
  (List.range n).foldl (fun s _ => s.pendDone name) s

/-- A version entry changed, with the death that may follow. -/
def State.putVer (s : State) (r : NameRec) (e : VerEntry) : State := (s.setRec (r.setVer e.settle)).settleTile r.name

/-! ## Requests at the home slice -/

/-- `tpoll`'s word (05 R118); a count that failed deliveries have taken beyond its field shows as 65,535 (log entry 48). -/
def pollWord (r? : Option NameRec) (v : BitVec 32) : Word :=
  match r? with
  | none => BitVec.ofNat 64 (6 * 2 ^ 61)
  | some r =>
    let base := r.c * 2 ^ 56 + min r.live 255 * 2 ^ 48
    if r.below v then BitVec.ofNat 64 (5 * 2 ^ 61 + base)
    else match r.ver? v with
    | none => BitVec.ofNat 64 base
    | some e =>
      let st := match e.st with | .absent => 1 | .filling => 2 | .present => 3 | .dead => 4
      BitVec.ofNat 64 (st * 2 ^ 61 + (if e.persistent then 2 ^ 60 else 0) + base + min e.waiters.length 65535 * 2 ^ 32 +
        (if e.st = .present then min e.count 65535 else 0))

/-- `tinfo`'s word (05 R118). -/
def infoWord (r? : Option NameRec) : Word :=
  match r? with
  | none => 0
  | some r => BitVec.ofNat 64 (2 ^ 63 + (if r.exhausted then 2 ^ 62 else 0) + r.c * 2 ^ 56 + r.limit * 2 ^ 48 +
      min r.live 255 * 2 ^ 40 + min r.parked.length 255 * 2 ^ 32 + r.floor.toNat)

/-- A claim joins the parked claims of its name, in arrival order (05 R106). -/
def NameRec.park (r : NameRec) (c : Claim) : NameRec :=
  { r with parked := (r.parked.filter fun x => decide (x.arr < c.arr)) ++ c :: r.parked.filter fun x => decide (c.arr ≤ x.arr) }

/-- A claim at its name (05 R102, R106). -/
def State.handleClaim (s : State) (r : NameRec) (c : Nat) (cl : Claim) : Handled :=
  if r.c ≠ c then .done (s.tileReply cl.src r.name cl.id (.trap 7))
  else if r.below cl.v then .done (s.tileReply cl.src r.name cl.id (.trap 2))
  else match r.stOf cl.v with
  | some .filling => .done (s.tileReply cl.src r.name cl.id (.trap 1))
  | some .present => .done (s.tileReply cl.src r.name cl.id (.trap 1))
  | some .dead => .done (s.tileReply cl.src r.name cl.id (.trap 1))
  | _ =>
    if r.limit ≤ r.live then .done ((s.setRec (r.park cl)).tileReply cl.src r.name cl.id (.waits 7))
    else s.tryGrant r cl

/-- A waiter registered, refused, or held for an entry (05 R107, R109). -/
def State.register (s : State) (r : NameRec) (v : BitVec 32) (w : Waiter) : Handled :=
  let put (s : State) (r : NameRec) (e : VerEntry) : Handled :=
    if s.waiterRoom (tileKey r.name) e then .done (s.setRec (r.setVer { e with waiters := e.waiters ++ [w] }))
    else match w with
    | .load src _ id _ _ => .done (s.tileReply src r.name id .refused)
    | .gate md c gid => .done (s.gateReply md c gid r.name true)
  match r.ver? v with
  | some e => put s r e
  | none =>
    match s.makeRoom (tileKey r.name) with
    | none => .lacks 9
    | some s => match s.rec? r.name with
      | none => .lacks 9
      | some r => put s r (.fresh v s.cycle)

/-- A load at its name; one with a timeout of 0 traps where it would wait (05 R102, R117). With 255 deliveries outstanding it is held until
one ends (log entry 48). -/
def State.handleLoad (s : State) (r : NameRec) (q : TileReq) (v : BitVec 32) (c j addr : Nat) (now : Bool) : Handled :=
  let trap (sub : Nat) : Handled := .done (s.tileReply q.src r.name q.id (.trap sub))
  let wait : Handled := if now then trap 3 else s.register r v (.load q.src q.job q.id addr j)
  if r.c ≠ c then trap 7
  else if r.below v then trap 2
  else match r.ver? v with
  | none => wait
  | some e => match e.st with
    | .absent => wait
    | .filling => wait
    | .dead => trap 2
    | .present =>
      if ¬ e.persistent ∧ e.count = 0 then trap 2
      else if 255 ≤ e.outst then (if now then trap 3 else .lacks 6)
      else if e.spilled then .lacks 9
      else .done (s.deliver r e q.src q.job q.id addr j)

/-- `tdrop` (05 R119): the code and the entry. A persistent version killed is persistent no more from then on (log entry 48). -/
def dropRefs (e : VerEntry) (j : Nat) : Nat × VerEntry :=
  match e.st with
  | .absent => (2, e)
  | .filling => (2, e)
  | .dead => (3, e)
  | .present =>
    if ¬ e.persistent ∧ e.count = 0 then (3, e)
    else if j = 0 then (1, { e with persistent := false, count := 0 })
    else if e.persistent then (4, e)
    else if e.count ≤ j then (1, { e with count := 0 })
    else (0, { e with count := e.count - j })

/-- `tref` (05 R119). -/
def addRefs (e : VerEntry) (j : Nat) : Nat × VerEntry :=
  match e.st with
  | .absent => (2, e)
  | .filling => (2, e)
  | .dead => (3, e)
  | .present =>
    if e.persistent then (4, e)
    else if e.count = 0 then (3, e)
    else if 65535 < e.count + j then (5, e)
    else (0, { e with count := e.count + j })

/-- A `tdrop` or `tref` at its name. -/
def State.handleRefs (s : State) (r : NameRec) (src : Agent) (id : Nat) (v : BitVec 32) (f : VerEntry → Nat × VerEntry) : State :=
  if r.below v then s.tileReply src r.name id (.val 3)
  else match r.ver? v with
  | none => s.tileReply src r.name id (.val 2)
  | some e =>
    let (code, e') := f e
    (s.putVer r { e' with touched := s.cycle }).tileReply src r.name id (.val (BitVec.ofNat 64 code))

/-- The version a request names, whose entry it needs in the table. -/
def opVersion : TileOp → Option (BitVec 32)
  | .claim v _ _ _ _ => some v
  | .load v _ _ _ _ => some v
  | .drop v _ => some v
  | .ref v _ => some v
  | .gate v _ _ => some v
  | _ => none

/-- The version whose entry a request looks up (05 R109). -/
def lookedUp : TileOp → Option (BitVec 32)
  | .poll v => some v
  | op => opVersion op

/-- A request at its home slice, of a number among its requests (05 R102, R115-R123). -/
def State.handleAt (s : State) (q : TileReq) (arr : Nat) : Handled :=
  let reply (r : TRes) : Handled := .done (s.tileReply q.src q.name q.id r)
  match q.op, s.rec? q.name with
  | .new _ _ _, some _ => reply (.val 1)
  | .new c floor limit, none => match s.makeRoom (tileKey q.name) with
    | none => .lacks 9
    | some s =>
      let r : NameRec := ⟨q.name, c, floor, limit, false, [], [], []⟩
      .done (State.tileReply { s with names := s.names ++ [r] } q.src q.name q.id (.val 0))
  | .poll v, r? => reply (.val (pollWord r? v))
  | .info, r? => reply (.val (infoWord r?))
  | .gate _ core gid, none => .done (s.gateReply q.src.mod core gid q.name false)
  | .gate v core gid, some r =>
    if r.below v then .done (s.gateReply q.src.mod core gid q.name false)
    else match r.stOf v with
    | some .present => .done (s.gateReply q.src.mod core gid q.name false)
    | some .dead => .done (s.gateReply q.src.mod core gid q.name false)
    | _ => s.register r v (.gate q.src.mod core gid)
  | .cancel _ _, _ => .done s
  | _, none => reply (.trap 6)
  | .claim v c refs ev addr, some r => s.handleClaim r c ⟨q.src, q.job, q.id, arr, 7, v, c, refs, ev, addr⟩
  | .load v c j addr now, some r => s.handleLoad r q v c j addr now
  | .drop v j, some r => .done (s.handleRefs r q.src q.id v fun e => dropRefs e j)
  | .ref v j, some r => .done (s.handleRefs r q.src q.id v fun e => addRefs e j)
  | .floor v, some r =>
    if r.exhausted || decide (v.toNat ≤ r.bar) then reply (.val 1)
    else .done ((s.setRec { r with pend := r.pend ++ [(q.src, q.id, some v)] }).settleTile q.name)
  | .limit n, some r =>
    .done (((s.setRec { r with limit := n }).settleTile q.name).tileReply q.src q.name q.id (.val (BitVec.ofNat 64 r.limit)))
  | .del, some r => .done ((s.setRec { r with pend := r.pend ++ [(q.src, q.id, none)] }).settleTile q.name)

/-- A request at its home slice: the entry it looks up is brought back first (05 R109). Where that cannot be, a `tpoll` reads it where it
stands, and a load with a timeout of 0 of a version that is not loadable traps (05 R117, R118). -/
def State.handleTile (s : State) (q : TileReq) (arr : Nat) : Handled :=
  match (lookedUp q.op).map (s.bringBack q.name) with
  | none => s.handleAt q arr
  | some (some s) => s.handleAt q arr
  | some none => match q.op with
    | .poll _ => s.handleAt q arr
    | .load _ _ _ _ true => s.handleAt q arr
    | _ => .lacks 9

/-! ## Requests that wait at the slice (05 R102, R106, R108, R109) -/

/-- A request would take an entry of the slice's table, a name's parked claims being looked at apart from it (05 R100, R109). -/
def State.wantsEntry (s : State) (q : TileReq) : Bool :=
  match q.op, s.rec? q.name with
  | .new _ _ _, r? => r?.isNone
  | op, some r => match opVersion op with
    | none => false
    | some v => match r.ver? v with
      | some e => e.spilled
      | none => !r.below v && (match op with
        | .claim _ c _ _ _ => r.c == c && decide (r.live < r.limit)
        | .load _ c _ _ now => r.c == c && !now
        | .gate _ _ _ => true
        | _ => false)
  | _, none => false

/-- What waits at a slice, each with its number: held requests, and the foremost parked claim of each name (05 R106, R109). -/
def State.waitersAt (s : State) (key : Nat) : List (Nat × TileAt) :=
  let held := (s.tileHeld.zipIdx.filter fun x => tileKey x.1.req.name == key).map fun (x : HeldTile × Nat) => (x.1.arr, TileAt.held x.2)
  let heads := (s.keyNames key).filterMap fun r => r.parked.head?.map fun c => (c.arr, TileAt.parked r.name)
  sortBy (·.1) (held ++ heads)

/-- The numbers of what waits at a slice for an entry. -/
def State.starving (s : State) (key : Nat) : List Nat :=
  ((s.tileHeld.filter fun h => h.code == 9 && tileKey h.req.name == key).map (·.arr)) ++
    ((s.keyNames key).map fun r => (r.parked.filter fun c => c.lacks == 9).map (·.arr)).flatten

/-- An earlier request waits for an entry: none is taken before it (05 R109). -/
def State.behindStarving (s : State) (key arr : Nat) : Bool := (s.starving key).any fun a => decide (a < arr)

/-- The first request that waits for an entry begins an episode, of which host-assisted mode tells the host (05 R109). -/
def State.noteLack (s : State) (key code : Nat) : State :=
  if code = 9 ∧ s.modes.tableSpill ∧ (s.starving key).isEmpty then s.raise .versionTable (Fin.ofNat 7 (key / 32)) [key] else s

/-- An earlier held request of the same version that a request keeps its place behind: a claim behind a claim, and a load, `tdrop` or `tref`
behind a load that waits for a delivery to end (05 R102). -/
def HeldTile.before (h : HeldTile) (q : TileReq) : Bool :=
  decide (h.req.name = q.name) && decide (opVersion h.req.op = opVersion q.op) && (match q.op, h.req.op with
    | .claim _ _ _ _ _, .claim _ _ _ _ _ => true
    | .claim _ _ _ _ _, _ => false
    | .gate _ _ _, _ => false
    | .load _ _ _ _ true, _ => false
    | op, _ => (opVersion op).isSome && h.code == 6)

/-- A request at its slice, behind those that arrived before it and wait (05 R102, R109). -/
def State.tryTile (s : State) (q : TileReq) (arr : Nat) : Handled :=
  match s.tileHeld.find? fun h => decide (h.arr < arr) && h.before q with
  | some h => .lacks h.code
  | none => if s.wantsEntry q && s.behindStarving (tileKey q.name) arr then .lacks 9 else s.handleTile q arr

/-- The foremost parked claim of a name (05 R102, R106). -/
def State.tryParked (s : State) (r : NameRec) (c : Claim) : Handled :=
  if r.below c.v then .done (s.tileReply c.src r.name c.id (.trap 2))
  else if r.limit ≤ r.live then .lacks 7
  else if (r.ver? c.v).isNone && s.behindStarving (tileKey r.name) c.arr then .lacks 9
  else s.tryGrant r c

/-- The slot of a waiting request learns why it waits (05 R106, R108, R109). -/
def State.tellWait (s : State) (q : TileReq) (code : Nat) : State :=
  match q.op with
  | .gate _ _ _ => s
  | _ => if code = 9 ∨ code = 10 then s.tileReply q.src q.name q.id (.waits code) else s

/-- What waits looked at again: none where nothing has changed for it. -/
def State.retryAt (s : State) (at_ : TileAt) : Option State :=
  match at_ with
  | .net _ => none
  | .held i => match s.tileHeld[i]? with
    | none => none
    | some h => match State.tryTile { s with tileHeld := s.tileHeld.eraseIdx i } h.req h.arr with
      | .done t => some t
      | .lacks code =>
        if code = h.code then none
        else
          let s := s.noteLack (tileKey h.req.name) code
          some (State.tellWait { s with tileHeld := s.tileHeld.set i { h with code := code } } h.req code)
  | .parked name => match s.rec? name with
    | none => none
    | some r => match r.parked with
      | [] => none
      | c :: cs => match (s.setRec { r with parked := cs }).tryParked { r with parked := cs } c with
        | .done t => some t
        | .lacks code =>
          if code = c.lacks then none
          else some (((s.noteLack (tileKey name) code).setRec { r with parked := { c with lacks := code } :: cs }).tileReply c.src name c.id
            (.waits code))

/-- What waits at a slice is looked at in arrival order, again from the first after each change, so that what frees goes to the earliest
(05 R106, R109, log entry 48). -/
def State.retryTiles : Nat → State → Nat → State
  | 0, s, _ => s
  | n + 1, s, key =>
    match (s.waitersAt key).findSome? fun x => s.retryAt x.2 with
    | none => s
    | some t => State.retryTiles n t key

/-- Every waiting request of a slice looked at again: each may go, or come to wait for something else a few times. -/
def State.retryAll (s : State) (key : Nat) : State :=
  s.retryTiles (4 * (s.tileHeld.length + ((s.keyNames key).map fun r => r.parked.length).sum) + 4) key

/-- A request is held at its slice (05 R108, R109). -/
def State.holdTile (s : State) (q : TileReq) (code : Nat) : State :=
  let s := s.noteLack (tileKey q.name) code
  State.tellWait { s with tileHeld := s.tileHeld ++ [⟨q, s.tileSeq, code⟩] } q code

/-- A request handled at its home slice, or held there, after what waits there already; then what waits is looked at again. -/
def State.arriveTile (s : State) (q : TileReq) : State :=
  let s := s.retryAll (tileKey q.name)
  let t := match s.tryTile q s.tileSeq with
    | .done t => t
    | .lacks code => s.holdTile q code
  State.retryAll { t with tileSeq := t.tileSeq + 1 } (tileKey q.name)

/-- A tile request performed at its home slice, or held there; an answer taken by its slot; one of either sent on to another module; what
waits at a slice looked at again. -/
def State.performTile (s : State) (at_ : TileAt) : State :=
  match at_ with
  | .net k => match s.take k with
    | none => s
    | some (p, t) =>
      if t.outbound p then t.ergSend p
      else match p.body with
      | .treq q => t.arriveTile q
      | .trep a name id r => t.tileAnswer a.who name id r
      | _ => s
  | .held i => match s.tileHeld[i]? with
    | none => s
    | some h => s.retryAll (tileKey h.req.name)
  | .parked name => s.retryAll (tileKey name)

def execVersionClaim (a : TileAt) (s : State) : Out := .next (s.performTile a)
def execVersionLoadRequest (a : TileAt) (s : State) : Out := .next (s.performTile a)

/-! ## Cancels (05 R117, R125) -/

/-- The waiter, claim or held request of a number removed, if the slice still holds it. -/
def State.withdraw (s : State) (src : Agent) (id : Nat) (name : Word) (v : BitVec 32) : Option State :=
  let held (h : HeldTile) : Bool := decide (h.req.src = src) && h.req.id == id && decide (h.req.name = name)
  if s.tileHeld.any held then some { s with tileHeld := s.tileHeld.filter fun h => !held h }
  else match s.rec? name with
  | none => none
  | some r =>
    let claim (c : Claim) : Bool := decide (c.src = src) && c.id == id
    if r.parked.any claim then some ((s.setRec { r with parked := r.parked.filter fun c => !claim c }).settleTile name)
    else match r.ver? v with
    | none => none
    | some e =>
      let mine : Waiter → Bool := fun w => match w with | .load x _ i _ _ => decide (x = src) && i == id | _ => false
      if e.waiters.any mine then
        let e := { e with waiters := e.waiters.filter fun w => !mine w }
        some ((if e.st = .absent ∧ e.waiters.isEmpty then s.setRec (r.delVer v) else s.setRec (r.setVer e)).settleTile name)
      else none

/-- A cancel reaches the slice, behind the request it cancels: it removes the waiter, the parked claim or the held request, or finds it
served, granted or refused and changes nothing (05 R117, R125). -/
def execTloadCancel (k : Nat) (s : State) : Out :=
  match s.net[k]? with
  | none => .next s
  | some f => match f.pkt.body with
    | .treq ⟨src, _, name, _, .cancel v id⟩ =>
      match s.take k with
      | none => .next s
      | some (p, t) =>
        if t.outbound p then .next (t.ergSend p)
        else match t.withdraw src id name v with
          | some t => .next ((t.tileReply src name id .cancelled).retryAll (tileKey name))
          | none => .next t
    | _ => .next s

/-- The timeout of a `tloadt` runs out: the core sends a cancel (05 R117). -/
def execTloadtTimeout (w : Who) (s : State) : Out :=
  let sl := s.slot w
  match sl.wait, sl.reply, sl.deadline with
  | .tile (.load _ v _ _ _ true) name, none, some t =>
    if t ≤ s.rot ∧ sl.cancel = 0 then .next (s.askCancel w name v 1) else .next s
  | _, _, _ => .next s

/-- The gate request of a task unit (16 R344). -/
def State.askGate (s : State) (c : CoreId) (g : GateEntry) : State :=
  let name := g.q.task.gname
  s.send ⟨.core c, s.tileDst name, .request, .treq ⟨⟨s.modId, ⟨c, 0⟩⟩, s.jobOf ⟨c, 0⟩, name, 0, .gate g.q.task.gver c g.gid⟩⟩

/-- A refused waiter, or a refused gate of the core, sends its request again after 64 rotations (05 R107). -/
def execWaiterRetry (w : Who) (s : State) : Out :=
  let sl := s.slot w
  let due (t : Option Nat) : Bool := match t with | some r => decide (r ≤ s.rot) | none => false
  let s := match sl.wait with
    | .tile (.load _ v c j addr _) name =>
      if due sl.retryAt ∧ sl.cancel = 0 then
        (s.modSlot w fun sl => { sl with retryAt := none }).send
          ⟨.slot (s.agent w), s.tileDst name, .request, .treq ⟨s.agent w, s.jobOf w, name, sl.tileId, .load v c j addr false⟩⟩
      else s
    | _ => s
  let gs := (s.core w.core).gates.filter fun g => due g.retry
  let s := s.modCore w.core fun c => { c with gates := c.gates.map fun g => if due g.retry then { g with retry := none } else g }
  .next (gs.foldl (fun s g => s.askGate w.core g) s)

/-! ## Fills (05 R116) -/

/-- A filling version becomes present with its bytes, and its waiters are served (05 R102, R107, R116). -/
def State.filled (s : State) (r : NameRec) (e : VerEntry) (data : List Byte) : State :=
  let e := { e with st := .present, data := data, count := e.refs, persistent := e.refs == 0, touched := s.cycle }
  let s := (s.setRec (r.setVer e)).tileReply e.producer r.name e.pid (.val 0)
  ((s.serveAll r.name e.v).settleTile r.name).retryAll (tileKey r.name)

/-- The next packet of a tile's bytes for a version from a producer on another module, in order; those of a fill that has failed are dropped
(05 R116). -/
def State.nextPiece (s : State) (name : Word) (v : BitVec 32) : Option Nat :=
  (List.range s.net.length).find? fun k => s.ready k && (s.net[k]?).any fun f => match f.pkt.body, f.pkt.dst with
    | .tfill n x _ _ _, .slice _ _ => decide (n = name) && decide (x = v)
    | _, _ => false

/-- A fill goes on: the bytes are read from a producer of this module, or a packet of them arrives from another; with the last the version is
present. -/
def execFillComplete (name : Word) (v : BitVec 32) (s : State) : Out :=
  let at_ := (s.rec? name).bind fun r => ((r.ver? v).filter fun e => e.st == .filling).map fun e => (r, e)
  match at_.filter fun x => decide (x.2.producer.mod = s.modId) with
  | some (r, e) => .next (s.filled r e ((s.core e.producer.who.core).sp.read e.addr (tileBytes r.c)))
  | none => match (s.nextPiece name v).bind s.take with
    | none => .next s
    | some (p, t) => match p.src, p.body, at_ with
      | .slot a, .tfill _ _ id off data, some (r, e) =>
        if e.producer = a ∧ e.pid = id ∧ e.data.length = off then
          let data := e.data ++ data
          .next (if data.length < tileBytes r.c then t.setRec (r.setVer { e with data := data }) else t.filled r e data)
        else .next t
      | _, _, _ => .next t

/-- A fill that fails leaves the entry as it was before the claim (05 R102, R116). -/
def execFillFail (name : Word) (v : BitVec 32) (s : State) : Out :=
  match s.rec? name with
  | none => .next s
  | some r => match r.ver? v with
    | none => .next s
    | some e =>
      if e.st ≠ .filling then .next s
      else
        let s := if e.waiters.isEmpty then s.setRec (r.delVer v)
          else s.setRec (r.setVer { e with st := .absent, storage := .none, data := [] })
        .next (((s.tileReply e.producer name e.pid (.trap 5)).settleTile name).retryAll (tileKey name))

/-! ## Deliveries end (05 R102, R110, R111) -/

/-- A delivery closed at its slice, with the references it had consumed restored where it failed, even beyond what a `tref` may reach
(05 R111, log entry 48). -/
def State.closeDelivery (s : State) (did : Nat) (failed : Bool) : State :=
  match s.deliveries.find? (·.did == did) with
  | none => s
  | some d =>
    let s := { s with deliveries := s.deliveries.filter fun x => x.did != did }
    match s.rec? d.name with
    | none => s
    | some r => match r.ver? d.v with
      | none => s
      | some e =>
        let e := { e with outst := e.outst - 1, count := if failed ∧ ¬ e.persistent then e.count + d.j else e.count }
        (s.setRec (r.setVer e)).serveAll d.name d.v |> fun s =>
          match s.rec? d.name with
          | some r => match r.ver? d.v with
            | some e => (s.putVer r e).retryAll (tileKey d.name)
            | none => s
          | none => s

/-- The arrival notice reaches the requester, which wakes and acknowledges (05 R110). A slot that waits no longer takes no delivery. -/
def execArrivalNotice (k : Nat) (s : State) : Out :=
  match s.net[k]? with
  | none => .next s
  | some f => match f.pkt.body with
    | .notice dst did home val name id =>
      if dst.mod ≠ s.modId ∨ !s.noticeOpen dst.who.core then .next s
      else match s.take k with
      | none => .next s
      | some (_, s) =>
        let sl := s.slot dst.who
        let on := sl.reply.isNone && (match sl.wait with | .tile _ n => n == name && sl.tileId == id | _ => false)
        let see (d : Delivery) : Delivery := if on ∧ home = s.modId ∧ d.did = did then { d with noticed := true } else d
        let s := { (s.tileAnswer dst.who name id (.val val)) with deliveries := s.deliveries.map see }
        .next (s.send ⟨.core dst.who.core, s.tileDst name, .notice, .tack did on⟩)
    | _ => .next s

def execDeliveryAck (k : Nat) (s : State) : Out :=
  match s.net[k]? with
  | none => .next s
  | some f => match f.pkt.body, f.pkt.dst with
    | .tack _ _, .mdl _ => .next (match s.take k with | some (p, s) => s.ergSend p | none => s)
    | .tack did ok, _ => match s.take k with
      | none => .next s
      | some (_, s) => .next (s.closeDelivery did (!ok))
    | _, _ => .next s

/-- A delivery failed before its notice was performed: the slice restores its references, and the requester traps, each told at its own end
(05 R111). -/
def execDeliveryFail (e : DelivEnd) (s : State) : Out :=
  match e with
  | .home did => match s.deliveries.find? (·.did == did) with
    | none => .next s
    | some d =>
      if d.noticed then .next s
      else
        let s := if d.dst.mod = s.modId then s.tileAnswer d.dst.who d.name d.id (.trap 5) else s
        .next (s.closeDelivery did true)
  | .requester w =>
    let sl := s.slot w
    match sl.wait with
    | .tile (.load _ _ _ _ _ _) name => .next (if tileMod name = s.modId then s else s.tileAnswer w name sl.tileId (.trap 5))
    | _ => .next s

/-! ## Shared-port writes (08 R172) -/

/-- Tile data or a drain's line lands at its scratchpad words and marks them full as its rule says (05 R110, 11 R235). -/
def execSharedPortWrite (k : Nat) (s : State) : Out :=
  match s.net[k]? with
  | none => .next s
  | some f => match f.pkt.body with
    | .tdata dst addr data =>
      if dst.mod ≠ s.modId ∨ !s.noticeOpen dst.who.core then .next s
      else match s.take k with
      | none => .next s
      | some (_, s) => .next (s.modCore dst.who.core fun c => (c.spWrite addr data).setTags true (wordsOf addr data.length))
    | .dline eng core addr data full => match s.take k with
      | none => .next s
      | some (_, s) => .next ((s.drainStep eng).modCore core fun c =>
          let c := c.spWrite addr data
          if full then c.setTags true (wordsOf addr data.length) else c)
    | _ => .next s

/-! ## The instructions (05 R114-R123) -/

/-- The version operand; bits [63:32] of a register must be zero (05 R99). -/
def verOperand (sl : Slot) (b : Option SReg) (imm : BitVec 18) : Option (BitVec 32) :=
  match b with
  | none => some (imm.setWidth 32)
  | some r => if (sl.rs r).toNat < 2 ^ 32 then some ((sl.rs r).setWidth 32) else none

/-- The module belongs to the slot's job's view, or is this one (12 R255). -/
def State.inView (s : State) (w : Who) (m : Fin 4096) : Bool := m == s.modId || (s.viewOf (s.jobOf w)).view.has m

/-- The home module of a name can be reached by the slot's job (05 R113). -/
def State.reaches (s : State) (w : Who) (m : Fin 4096) : Bool :=
  m == s.modId || ((s.viewOf (s.jobOf w)).view.has m && !s.planes.isEmpty && (s.link (.io w.core.stack)).st != .lost)

/-- A request sent and its slot parked; a `tstore` or `tnew` waits for what it releases (05 R112). -/
def sendTile (s : State) (name : Word) (op : TileOp) (r : Reason) (k : TileWait) (release : Bool) : State :=
  let id := s.me.nextId
  let p : Packet := ⟨.slot (s.agent s.cur), s.tileDst name, .request, .treq ⟨s.agent s.cur, s.jobOf s.cur, name, id, op⟩⟩
  let h := if release then s.holdOf s.cur else s.holdAfter s.cur
  ((s.park r (.tile k name)).mod fun sl => { sl with nextId := id + 1, tileId := id }).post p h

/-- The checks before any effect, in the order of 05 R115: the home, the version operand, the reach. -/
def tileForm (h : Hdr) (s : State) (a : SReg) (v? : Option (BitVec 32)) (k : Word → BitVec 32 → Out) : Out :=
  homeOnly h s (
    let n := s.me.rs a
    if 5 < tileStack n then trap s 5 4 n
    else match v? with
    | none => trap s 5 7 n
    | some v => if s.reaches s.cur (tileMod n) then k n v else trap s 5 5 n)

def execTnew (h : Hdr) (d a : SReg) (t : TileArgs) (s : State) : Out :=
  tileForm h s a (verOperand s.me t.b t.imm) fun n f =>
    .next (sendTile s n (.new t.c.val f t.cnt.toNat) .versionStore (.new d) true)

def execTstore (h : Hdr) (a : SReg) (t : TileArgs) (s : State) : Out :=
  tileForm h s a (verOperand s.me t.b t.imm) fun n v =>
    .next (sendTile s n (.claim v t.c.val t.cnt.toNat h.ev t.addr.toNat) .versionStore (.store v t.addr.toNat t.c.val) true)

def execTload (h : Hdr) (d a : SReg) (t : TileArgs) (s : State) : Out :=
  tileForm h s a (verOperand s.me t.b t.imm) fun n v =>
    .next (sendTile s n (.load v t.c.val t.cnt.toNat t.addr.toNat false) .versionWait
      (.load d v t.c.val t.cnt.toNat t.addr.toNat false) false)

def execTloadt (h : Hdr) (d a : SReg) (t : TileArgs) (s : State) : Out :=
  tileForm h s a (if (s.me.rs d).toNat < 2 ^ 32 then verOperand s.me t.b t.imm else none) fun n v =>
    let t0 := (s.me.rs d).toNat
    .next ((sendTile s n (.load v t.c.val t.cnt.toNat t.addr.toNat (t0 == 0)) .versionWait
      (.load d v t.c.val t.cnt.toNat t.addr.toNat true) false).mod fun sl =>
        { sl with deadline := if t0 = 0 then none else some (s.rot + t0) })

def execTpoll (h : Hdr) (d a : SReg) (b : Option SReg) (imm : BitVec 18) (s : State) : Out :=
  tileForm h s a (verOperand s.me b imm) fun n v => .next (sendTile s n (.poll v) .versionWait (.read d) false)

def execTdrop (h : Hdr) (d a : SReg) (b : Option SReg) (imm : BitVec 18) (j : BitVec 8) (s : State) : Out :=
  tileForm h s a (verOperand s.me b imm) fun n v => .next (sendTile s n (.drop v j.toNat) .versionWait (.change d) false)

def execTref (h : Hdr) (d a : SReg) (b : Option SReg) (imm : BitVec 18) (j : BitVec 8) (s : State) : Out :=
  tileForm h s a (verOperand s.me b imm) fun n v => .next (sendTile s n (.ref v j.toNat) .versionWait (.change d) false)

def execTinfo (h : Hdr) (d a : SReg) (s : State) : Out :=
  tileForm h s a (some 0) fun n _ => .next (sendTile s n .info .versionWait (.read d) false)

def execTfloor (h : Hdr) (d a : SReg) (b : Option SReg) (imm : BitVec 18) (s : State) : Out :=
  tileForm h s a (verOperand s.me b imm) fun n v => .next (sendTile s n (.floor v) .versionStore (.change d) false)

def execTlimit (h : Hdr) (d a : SReg) (n : BitVec 8) (s : State) : Out :=
  tileForm h s a (some 0) fun name _ => .next (sendTile s name (.limit n.toNat) .versionWait (.change d) false)

def execTdel (h : Hdr) (d a : SReg) (s : State) : Out :=
  tileForm h s a (some 0) fun n _ => .next (sendTile s n .del .versionStore (.change d) false)

/-- Version entries moved to the overflow table, or brought back (05 R109, 18 R386). -/
def execMoveOrReclaimVersionEntries (stack : Fin 6) (slice : Fin 32) (entries : List (Word × BitVec 32)) (reclaim : Bool)
    (s : State) : Out :=
  let key := stack.val * 32 + slice.val
  .next (entries.foldl (fun s (n, v) =>
    if tileKey n ≠ key then s
    else match s.rec? n with
    | none => s
    | some r => match r.ver? v with
      | none => s
      | some e => if reclaim then (s.bringBack n v).getD s else if e.idle then s.setRec (r.setVer { e with spilled := true }) else s) s
    |>.retryAll key)

end Sys2Proof.Machine
end

