-- ==== Sys2Proof/Machine/Tasks.lean ====
section
/-! DEFINITION. Tasks: queues, gates, starts, stealing, joins, and the cluster barriers (16 R340-R357). -/

namespace Sys2Proof.Machine

/-! ## Queues of a core (16 R341) -/

/-- The 16 topmost entries of a full queue move to the overflow area. -/
def Core.shed (c : Core) (p : Fin 4) : Core :=
  if c.queues[p].length < 32 then c
  else { c with
    overflow := c.overflow.set p (c.overflow[p] ++ c.queues[p].take 16), queues := c.queues.set p (c.queues[p].drop 16) }

/-- Entries return from the overflow area, in order, to a queue that holds fewer than 8. -/
def Core.unshed (c : Core) (p : Fin 4) : Core :=
  if c.queues[p].length < 8 then
    let n := c.overflow[p].length - 16
    { c with queues := c.queues.set p (c.overflow[p].drop n ++ c.queues[p]), overflow := c.overflow.set p (c.overflow[p].take n) }
  else c

/-- A push at the bottom. -/
def Core.pushBottom (c : Core) (p : Fin 4) (q : QEntry) : Core :=
  let c := c.shed p
  { c with queues := c.queues.set p (c.queues[p] ++ [q]) }

/-- The bottom entry of the overflow returns to the top of its queue, where the overflow area has no place left (log entry 53). -/
def Core.makeTop (c : Core) (p : Fin 4) : Core :=
  if c.ovfCount < 4096 then c
  else { c with
    queues := c.queues.set p (c.overflow[p].getLast?.toList ++ c.queues[p]), overflow := c.overflow.set p c.overflow[p].dropLast }

/-- A push at the top; the top of a queue includes its overflow. -/
def Core.pushTop (c : Core) (p : Fin 4) (q : QEntry) : Core :=
  let c := c.shed p
  if c.overflow[p].isEmpty then { c with queues := c.queues.set p (q :: c.queues[p]) }
  else
    let c := c.makeTop p
    { c with overflow := c.overflow.set p (q :: c.overflow[p]) }

/-- The whole queue, top first. -/
def Core.whole (c : Core) (p : Fin 4) : List QEntry := c.overflow[p] ++ c.queues[p]

/-- The bottom entry of the highest-priority allowed queue, with the queue's number. -/
def Core.bottom (c : Core) (allow : Fin 4 → Bool) : Option (Fin 4 × QEntry) :=
  (List.finRange 4).findSome? fun p => if allow p then (c.whole p).getLast?.map fun q => (p, q) else none

/-- The bottom entry removed. -/
def Core.dropBottom (c : Core) (p : Fin 4) : Core :=
  let c := if c.queues[p].isEmpty then c.unshed p else c
  ({ c with queues := c.queues.set p c.queues[p].dropLast }).unshed p

/-- The entry at an index from the top removed. -/
def Core.dropAt (c : Core) (p : Fin 4) (i : Nat) : Core :=
  let n := c.overflow[p].length
  if i < n then { c with overflow := c.overflow.set p (c.overflow[p].eraseIdx i) }
  else ({ c with queues := c.queues.set p (c.queues[p].eraseIdx (i - n)) }).unshed p

/-! ## Acceptance (16 R344, R345, R355) -/

/-- The accepted count takes the number of the last operation before the first with copies not yet accepted. -/
def TaskCtx.settle (c : TaskCtx) : TaskCtx :=
  let k := (c.ops.takeWhile fun o => o.left == 0).length
  match (c.ops.take k).getLast? with
  | none => c
  | some o => { c with acc := o.num, ops := c.ops.drop k }

/-- The operations issued and not complete (02 R33): one whose copies are all accepted or failed is complete. -/
def TaskCtx.outstanding (c : TaskCtx) : Nat := (c.ops.filter fun o => o.left != 0).length

/-- A copy of the operation is still neither accepted nor failed. -/
def TaskCtx.waits (c : TaskCtx) (num : Word) : Bool := c.ops.any fun o => o.num == num && o.left != 0

/-- One copy of an operation is accepted, or failed: a failure makes the spawn-failure trap pending (16 R345, R347). -/
def Slot.copyDone (sl : Slot) (num : Word) (ok : Bool) : Slot :=
  let ops := sl.tctx.ops.map fun o => if o.num = num then { o with left := o.left - 1 } else o
  { sl with
    tctx := TaskCtx.settle { sl.tctx with ops := ops }
    pendSpawn := if ok ∨ sl.pendSpawn.isSome ∨ ¬ sl.tctx.waits num then sl.pendSpawn else some num }

/-- The sender of a task packet learns its fate. -/
def State.taskAck (s : State) (a : Agent) (num : Word) (ok : Bool) : State :=
  if a.mod = s.modId then
    let n := if ok || !(s.slot a.who).tctx.waits num then 0 else 1
    let s := (s.modSlot a.who (·.copyDone num ok)).failItems a.who.core n
    if n = 0 then s else s.savePend a.who
  else s.ergSend ⟨.mdl s.modId, .mdl a.mod, .reply, .tacc a num ok⟩

/-- A task packet accepted at a core. One of this module was counted as sent when it was; one of another module is counted as sent and
accepted together, since its sending is not seen here (16 R339, log entry 53). -/
def State.acceptTask (s : State) (c : CoreId) (src : Agent) (num : Word) : State :=
  (s.countTask c (if src.mod = s.modId then 0 else 1) 1).taskAck src num true

/-- A task enters the bottom of its queue; sleepers of the core wake (17 R370). -/
def State.enqueue (s : State) (c : CoreId) (q : QEntry) : State :=
  (s.modCore c (·.pushBottom q.task.prio q)).wakeSleepers c 1

/-- A task taken by the unit: into the gate list with its request at the slice, or into its queue. A gate whose home cannot be reached
gets its notice from the unit (16 R344). -/
def State.takeTask (s : State) (c : CoreId) (q : QEntry) : State :=
  if q.task.gated && !q.wasGated then
    let k := s.core c
    let g : GateEntry := ⟨k.nextGate, q, none⟩
    let s := s.modCore c fun k => { k with gates := k.gates ++ [g], nextGate := k.nextGate + 1 }
    if s.reaches ⟨c, 0⟩ (tileMod q.task.gname) then s.askGate c g else s.inject ⟨.io, .core c, .notice, .gate c g.gid false⟩
  else s.enqueue c q

/-- Tasks of the inbound buffer enter the unit, oldest first, each as its own queue or the gate list has room (16 R341). -/
def State.drainInbound : List InTask → State → CoreId → State
  | [], s, _ => s
  | t :: r, s, c =>
    if (s.core c).taskRoom t.q then
      let s := s.takeTask c t.q
      let s := match t.src with
        | some (a, num) => s.acceptTask c a num
        | none => s
      State.drainInbound r s c
    else State.drainInbound r (s.modCore c fun k => { k with inbound := k.inbound ++ [t] }) c

def State.serveInbound (s : State) (c : CoreId) : State :=
  State.drainInbound (s.core c).inbound (s.modCore c fun k => { k with inbound := [] }) c

/-- A task packet at its core (16 R341, R345): accepted, or into the inbound buffer. -/
def State.arriveTask (s : State) (c : CoreId) (q : QEntry) (src : Agent × Word) : State :=
  if (s.core c).taskRoom q then (s.takeTask c q).acceptTask c src.1 src.2
  else s.modCore c fun k => { k with inbound := k.inbound ++ [⟨q, some src⟩] }

/-- The core with a rank of a launch (16 R332). -/
def Launch.coreAt (l : Launch) (r : Nat) : CoreId :=
  ⟨l.stack, Fin.ofNat 64 (l.rx + r % 2 ^ l.lw), Fin.ofNat 32 (l.ry + r / 2 ^ l.lw)⟩

/-- The owner core of a leaf, committed or not, where it has one and the core belongs to the job (04 R74, 16 R349). -/
def State.ownerIn (s : State) (job : BitVec 32) (e : Word) : Option CoreId :=
  (leafOwner e).filter fun c => (s.jobLaunchOf job c).isSome

/-- Where a `spawnd` goes at its target module: the core and whether by fallback; none fails the spawn (16 R349, R350). -/
def State.spawndTarget (s : State) (job : BitVec 32) (page : Bool) (x : Word) : Option (CoreId × Bool) :=
  let ls := s.jobLaunches job
  let direct : Option CoreId :=
    if page then
      match (s.walk ((ls.head?.map (·.root)).getD 0) (x.toNat % 2 ^ 48)).1 with
      | .leaf e _ => s.ownerIn job e
      | .sparse e => s.ownerIn job e
      | .fault _ => none
    else (ls.find? fun l => l.stack.val == tileStack x).map fun l => l.coreAt (x.toNat % 2 ^ 44 % 2 ^ (l.lw + l.lh))
  match ls, direct with
  | [], _ => none
  | _, some c => some (c, false)
  | l :: _, none => some (l.coreAt 0, true)

/-- A task packet reaches its target unit, or a `spawnd` its target module, which routes it (16 R344, R345, R349). A packet held for its
release and bound for another module is sent on. -/
def execTaskAccept (k : Nat) (s : State) : Out :=
  match s.net[k]? with
  | none => .next s
  | some f => match f.pkt.dst, f.pkt.body with
    | .core c, .task src num job _ q =>
      if (s.jobLaunchOf job c).isNone then
        .next (match s.take k with | some (_, s) => s.taskAck src num false | none => s)
      else if ((s.core c).inbound.length ≥ 16 ∧ !(s.core c).taskRoom q) ∨ !s.noticeOpen c then .next s
      else .next (match s.take k with | some (_, s) => s.arriveTask c q (src, num) | none => s)
    | .io, .spawnd src num job page x t rel =>
      match s.take k with
      | none => .next s
      | some (_, s) =>
        match s.spawndTarget job page x with
        | none => .next (s.taskAck src num false)
        | some (c, fb) =>
          let own := decide (src.mod = s.modId) && decide (c = src.who.core)
          let p : Packet := ⟨.io, .core c, .notice, .task src num job c ⟨t, fb, false, false, if own then rel else []⟩⟩
          let s := s.countTask c 1 0
          .next (if own then s.inject p else s.injectHeld p ⟨src.who, rel, []⟩)
    | .mdl _, .task _ _ _ _ _ => .next (match s.take k with | some (p, s) => s.ergSend p | none => s)
    | .mdl _, .spawnd _ _ _ _ _ _ _ => .next (match s.take k with | some (p, s) => s.ergSend p | none => s)
    | _, _ => .next s

/-- A gate's notice: the task enters its queue; a refusal sets the retry (16 R344, 05 R107). -/
def execGateNotice (k : Nat) (s : State) : Out :=
  match s.net[k]? with
  | none => .next s
  | some f => match f.pkt.body with
    | .gate c gid refused =>
      if !s.noticeOpen c then .next s
      else match (s.core c).gates.find? (·.gid == gid) with
      | none => .next (match s.take k with | some (_, s) => s | none => s)
      | some g =>
        if refused then
          .next (match s.take k with
            | some (_, s) => s.modCore c fun k => { k with gates := k.gates.map fun x =>
                if x.gid = gid then { x with retry := some (s.rot + 64) } else x }
            | none => s)
        else if !(s.core c).queueRoom g.q.task.prio then .next s
        else .next (match s.take k with
          | some (_, s) => (s.modCore c fun k => { k with gates := k.gates.filter fun x => x.gid != gid }).enqueue c
              { g.q with wasGated := true } |>.serveInbound c
          | none => s)
    | _ => .next s

/-! ## Starts and stealing (16 R342, R343) -/

/-- The steward has left the core's part of the launch (16 R339). -/
def Core.inExit (c : Core) : Bool := decide (c.slots[0].state = .exit) && c.launch.isSome

/-- The ceiling of the task control word. -/
def Core.ceiling (c : Core) : Nat := c.taskCtl.toNat / 4096 % 16

/-- Free, unreserved slots for starts, highest first. -/
def Core.freeSlots (c : Core) (cycle : Nat) : List (Fin 16) :=
  let top := if c.inExit then 15 else c.ceiling
  (c.poolSlots cycle).filter fun i => decide (i.val ≤ top)

/-- The core takes tasks of its own at cycle 15. -/
def Core.dispatches (c : Core) : Bool := c.inExit || c.taskCtl.getLsbD 0

/-- The queues whose tasks are started. -/
def Core.enabledQueue (c : Core) (p : Fin 4) : Bool := c.inExit || c.taskCtl.getLsbD (4 + p.val)

/-- A task started in a pool slot (16 R342). -/
def Slot.startTask (sl : Slot) (q : QEntry) : Slot :=
  let b (x : Bool) (n : Nat) : Nat := if x then n else 0
  (((sl.start q.task.entry q.pusher).ws 1 q.task.arg0).ws 2 q.task.arg1).ws 3
    (BitVec.ofNat 64 (b q.fallback 1 + b q.stolen 2 + b q.wasGated 4))

/-- The core's own starts: each free slot takes a task, highest slot first. -/
def State.startTasks : List (Fin 16) → State → CoreId → State
  | [], s, _ => s
  | i :: r, s, c =>
    let k := s.core c
    match k.bottom k.enabledQueue with
    | none => s
    | some (p, q) =>
      let s := s.modCore c fun k => { k.dropBottom p with startedAt := s.cycle + 1 }
      State.startTasks r (s.modSlot ⟨c, i⟩ (·.startTask q)) c

def execTaskStart (c : CoreId) (s : State) : Out :=
  let k := s.core c
  if k.dispatches then .next ((s.startTasks (k.freeSlots s.cycle) c).serveInbound c) else .next s

/-- A thief may take the entry: not pinned, and the pusher's earlier stores performed (16 R343). -/
def State.eligible (s : State) (q : QEntry) : Bool :=
  !q.task.pinned && s.storesDone q.pusher

/-- The core steals in this cycle 15 (16 R339, R343). -/
def State.thief (s : State) (c : CoreId) : Bool :=
  let k := s.core c
  k.launch.isSome && k.taskCtl.getLsbD 1 && (k.taskCtl.getLsbD 0 || k.inExit) && !(k.freeSlots s.cycle).isEmpty &&
    decide (k.startedAt ≠ s.cycle + 1)

/-- The victim, its queue and the entry's place from the top: the highest priority first, then the first core after the thief. -/
def State.victim (s : State) (cl : ClusterId) (i : Nat) : Option (CoreId × Fin 4 × Nat × QEntry) :=
  let cs := coresOf cl
  let thief := cs.getD i ⟨cl.stack, 0, 0⟩
  let order := (List.range 8).map fun j => cs.getD ((i + 1 + j) % 8) thief
  (List.finRange 4).findSome? fun p => order.findSome? fun c =>
    let k := s.core c
    if k.launch = (s.core thief).launch ∧ k.taskCtl.getLsbD 2 then
      match (k.whole p).findIdx? s.eligible with
      | some n => ((k.whole p)[n]?).map fun q => (c, p, n, q)
      | none => none
    else none

/-- One thief served. -/
def State.steal (s : State) (cl : ClusterId) (i : Nat) : State :=
  let c := (coresOf cl).getD i ⟨cl.stack, 0, 0⟩
  if s.thief c then
    match s.victim cl i, (s.core c).freeSlots s.cycle with
    | some (v, p, n, q), j :: _ =>
      let s := (s.modCore v (·.dropAt p n)).serveInbound v
      let s := s.modCore c fun k => { k with ro := [] }
      (s.modSlot ⟨c, j⟩ (·.startTask { q with stolen := true, pusher := [] })).modEngine cl fun e => { e with thief := i }
    | _, _ => s
  else s

/-- The cluster's thieves in core order, starting after the last served (16 R343). -/
def execTaskSteal (c : ClusterId) (s : State) : Out :=
  let first := (s.engine c).thief + 1
  .next ((List.range 8).foldl (fun s j => s.steal c ((first + j) % 8)) s)

/-! ## Descriptors (16 R340, R347) -/

/-- A task descriptor's bytes. -/
def taskBytes (t : Task) : List Byte :=
  leBytes 8 t.entry.toNat ++ leBytes 8 t.arg0.toNat ++ leBytes 8 t.arg1.toNat ++
    leBytes 8 (t.prio.val + (if t.pinned then 4 else 0) + (if t.gated then 8 else 0)) ++ leBytes 8 t.gname.toNat ++
    leBytes 4 t.gver.toNat ++ leBytes 20 0

/-- The task at a scratchpad address. -/
def Core.taskAt (c : Core) (a : Nat) : Task :=
  let fl := c.sp.num (a + 24) 1
  ⟨c.sp.word a, c.sp.word (a + 8), c.sp.word (a + 16), Fin.ofNat 4 fl, fl / 4 % 2 == 1, fl / 8 % 2 == 1, c.sp.word (a + 32),
    BitVec.ofNat 32 (c.sp.num (a + 40) 4)⟩

/-- The descriptor checks of 16 R347: the task, or the detail of sub-cause 0x01. -/
def Core.readTask (c : Core) (x : Word) : Sum Nat Task :=
  let a := x.toNat
  if a % 64 ≠ 0 ∨ 2 ^ 18 ≤ a ∨ 0x30000 < a + 64 then .inl 2
  else if c.sp.num (a + 24) 8 / 16 ≠ 0 ∨ c.sp.num (a + 44) 20 ≠ 0 then .inl 1
  else
    let t := c.taskAt a
    if t.gated ∧ 5 < tileStack t.gname then .inl 3 else .inr t

/-- A descriptor that passes its checks goes on; it is read after the slot's earlier releases (14 R293). -/
def withTask (s : State) (a : SReg) (k : Task → Out) : Out :=
  afterRelease s (match s.myCore.readTask (s.me.rs a) with
    | .inl d => trap s 0xB 1 (BitVec.ofNat 64 d)
    | .inr t => k t)

/-! ## Spawns (16 R348-R350) -/

/-- The slot's task context takes a number for an operation of `n` copies to a module; a full context parks (02 R33). -/
def spawnIssue (s : State) (d : SReg) (m : Fin 4096) (n : Nat) (sync : Bool) (k : Word → State → State) : Out :=
  let sl := s.me
  if 8 ≤ sl.tctx.outstanding then parkAgain s .engineQueue (.engine .t)
  else
    let num := sl.tctx.last + 1
    let s := s.mod fun sl => { sl.ws d num with
      tctx := TaskCtx.settle { sl.tctx with last := num, ops := sl.tctx.ops ++ [⟨num, n, m⟩] } }
    let s := k num s
    if sync ∧ s.me.tctx.acc.ult num then .next (s.park .timeline (.timeline .t num .sync)) else retire s id

/-- A task packet sent to a core: to the issuing core at once with the release carried, to another once the release holds (14 R419). -/
def State.sendTask (s : State) (num : Word) (c : CoreId) (m : Fin 4096) (t : Task) : State :=
  let local_ := m == s.modId
  let own := local_ && decide (c = s.cur.core)
  let q : QEntry := ⟨t, false, false, false, if own then s.release s.cur else []⟩
  let p : Packet := ⟨.slot (s.agent s.cur), if local_ then .core c else .mdl m, .notice,
    .task (s.agent s.cur) num (s.jobOf s.cur) c q⟩
  let s := if local_ then s.countTask c 1 0 else s
  if own then s.send p else s.post p ⟨s.cur, s.release s.cur, []⟩

/-- The cores of a subgroup (16 R333). -/
def subgroup (c : CoreId) (a b : Nat) : List CoreId :=
  (List.range (2 ^ b)).flatMap fun j => (List.range (2 ^ a)).map fun i =>
    ⟨c.stack, Fin.ofNat 64 (c.x.val + i), Fin.ofNat 32 (c.y.val + j)⟩

/-- The cores a `spawn` names, all of one launch of the job where the module is this one (16 R333, R347). -/
def State.spawnTarget (s : State) (x : Word) : Option (Fin 4096 × List CoreId) :=
  let a := x.toNat / 2 ^ 32 % 8
  let b := x.toNat / 2 ^ 35 % 8
  match coreOf (x.setWidth 32) with
  | none => none
  | some (m, c) =>
    if 6 < a ∨ 5 < b ∨ c.x.val % 2 ^ a ≠ 0 ∨ c.y.val % 2 ^ b ≠ 0 ∨ 64 < c.x.val + 2 ^ a ∨ 32 < c.y.val + 2 ^ b ∨
        !s.inView s.cur m then none
    else if m = s.modId then
      match s.jobLaunchOf (s.jobOf s.cur) c with
      | none => none
      | some l => if (subgroup c a b).all l.has then some (m, subgroup c a b) else none
    else some (m, subgroup c a b)

def execSpawn (h : Hdr) (sync : Bool) (d a b : SReg) (s : State) : Out :=
  homeOnly h s (withTask s a fun t =>
    let x := s.me.rs b
    if x.extractLsb' 38 26 ≠ 0 ∨ x.setWidth 32 &&& 0xF0008800#32 ≠ 0 then trap s 0xB 1 1
    else match s.spawnTarget x with
    | none => trap s 0xB 2 x
    | some (m, cs) => spawnIssue s d m cs.length sync fun num s => cs.foldl (fun s c => s.sendTask num c m t) s)

/-- `spawnd`: the packet goes to the target module, which routes the task; it is always pinned (16 R349). -/
def spawnd (h : Hdr) (page sync : Bool) (d a b : SReg) (s : State) : Out :=
  homeOnly h s (withTask s a fun t =>
    let x := s.me.rs b
    let m := tileMod x
    if (page ∧ x.toNat / 2 ^ 48 % 16 ≠ 0) ∨ !s.inView s.cur m then trap s 0xB 2 x
    else spawnIssue s d m 1 sync fun num s =>
      let rel := s.release s.cur
      let here := m == s.modId
      let p : Packet := ⟨.slot (s.agent s.cur), if here then .io else .mdl m, .notice,
        .spawnd (s.agent s.cur) num (s.jobOf s.cur) page x { t with pinned := true } (if here then rel else [])⟩
      if here then s.send p else s.post p ⟨s.cur, rel, []⟩)

def execSpawndPage (h : Hdr) (sync : Bool) (d a b : SReg) (s : State) : Out := spawnd h true sync d a b s
def execSpawndTile (h : Hdr) (sync : Bool) (d a b : SReg) (s : State) : Out := spawnd h false sync d a b s

/-! ## Local pushes and pops (16 R351, R353-R355) -/

def execFork (h : Hdr) (prio : Fin 4) (pin : Bool) (d : KReg) (a b : SReg) (off : BitVec 40) (s : State) : Out :=
  homeOnly h s (
    if s.myCore.queueRoom prio then
      let sl := s.me
      let t : Task := ⟨target sl.pc off, sl.rs a, sl.rs b, prio, pin, false, 0, 0⟩
      let s := s.enqueue s.cur.core ⟨t, false, false, false, s.release s.cur⟩
      retire s fun sl => sl.wk d true
    else retire s fun sl => sl.wk d false)

def execTqpush (h : Hdr) (sync : Bool) (d a b : SReg) (s : State) : Out :=
  homeOnly h s (withTask s a fun t =>
    let x := s.me.rs b
    if x.toNat / 2 ≠ 0 then trap s 0xB 1 1
    else
      let c := s.cur.core
      let q : QEntry := ⟨t, false, false, false, s.release s.cur⟩
      if !s.myCore.taskRoom q then
        .next ((s.park .taskFull (.again (if t.gated then .gates else .tasks t.prio))).mod fun sl => { sl with object := BitVec.ofNat 64 t.prio.val })
      else spawnIssue s d s.modId 1 sync fun num s =>
        let s := if x.getLsbD 0 && !t.gated then (s.modCore c (·.pushTop t.prio q)).wakeSleepers c 1 else s.takeTask c q
        s.mod (·.copyDone num true))

/-- The queues a pop's mask allows; 0 allows all. -/
def popMask (m : BitVec 4) (p : Fin 4) : Bool := m == 0 || m.getLsbD p.val

/-- An entry taken by `tqpop`: written to the scratchpad, its push's release carried (16 R353). -/
def State.popTask (s : State) (w : Who) (d : SReg) (addr : Nat) (p : Fin 4) (q : QEntry) : State :=
  let s := s.modCore w.core fun c => (c.dropBottom p).spWrite addr (taskBytes q.task)
  (s.modSlot w fun sl => { sl.ws d 0 with carry := sl.carry ++ q.pusher }).serveInbound w.core

def execTqpop (h : Hdr) (nw : Bool) (mask : BitVec 4) (d a : SReg) (s : State) : Out :=
  homeOnly h s (afterRelease s (
    let x : Word := s.me.rs a &&& 0x3FFFF#64
    withLocal s x 64 64 fun addr =>
      match s.myCore.bottom (popMask mask) with
      | some (p, q) => retire (s.popTask s.cur d addr p q) id
      | none => if nw then retire s fun sl => sl.ws d 1 else .next (s.park .taskQueue (.tqpop mask d addr))))

def execTqctl (h : Hdr) (d a : SReg) (s : State) : Out :=
  homeOnly h s (
    let old := s.myCore.taskCtl
    let new := s.me.rs a &&& 0xF0F7#64
    retire (s.modMyCore fun c => { c with taskCtl := new }) fun sl => sl.ws d old)

/-- `tqrd.cnt` (16 R355). -/
def Core.taskCounts (c : Core) : Nat :=
  (List.finRange 4).foldl (fun (x : Nat) (p : Fin 4) => x + min 255 (c.whole p).length * 256 ^ p.val) 0 +
    c.gates.length * 2 ^ 32 + c.inbound.length * 2 ^ 40

def execTqrd (h : Hdr) (part : Fin 4) (d : SReg) (s : State) : Out :=
  homeOnly h s (
    let c := s.myCore
    let x : Word := match part.val with
      | 0 => BitVec.ofNat 64 c.taskCounts
      | 1 => c.taskCtl
      | 2 => s.me.tctx.last
      | _ => s.me.tctx.acc
    retire s fun sl => sl.ws d x)

/-! ## Joins (16 R352) -/

/-- The step at the holding core: the code and the state, or none where the continuation has no place. -/
def State.joinStep (s : State) (c : CoreId) (a : Nat) : Option (Nat × State) :=
  let k := s.core c
  let n := k.sp.num a 4
  let fl := k.sp.num (a + 4) 4
  if 8 ≤ fl then some (3, s)
  else if n = 0 then some (2, s)
  else
    let dec (s : State) : State := s.modCore c (·.spWrite a (leBytes 4 (n - 1)))
    if n ≠ 1 then some (0, dec s)
    else
      let t : Task := ⟨k.sp.word (a + 8), k.sp.word (a + 16), k.sp.word (a + 24), Fin.ofNat 4 fl, fl / 4 % 2 == 1, false, 0, 0⟩
      let q : QEntry := ⟨t, false, false, false, []⟩
      if k.queueRoom t.prio then some (1, (dec s).enqueue c q)
      else if k.inbound.length < 16 then some (1, (dec s).modCore c fun k => { k with inbound := k.inbound ++ [⟨q, none⟩] })
      else none

/-- A local join performed, or parked with no effect while its continuation has no place. -/
def localJoin (s : State) (d : SReg) (a : Nat) : Out :=
  match s.joinStep s.cur.core a with
  | some (code, s) => retire s fun sl => sl.ws d (BitVec.ofNat 64 code)
  | none =>
    let p := s.myCore.sp.num (a + 4) 1 % 4
    .next ((s.park .taskFull (.again .inbound)).mod fun sl => { sl with object := BitVec.ofNat 64 p })

/-- The slot may send no further remote write, as far as this module knows its error queue (12 R257). -/
def State.remoteFull (s : State) (w : Who) : Bool :=
  let n := (s.slot w).outst.length
  decide (8 ≤ n) || (s.errHome w).any fun x => decide (16 ≤ n + (s.slot x).errq.length)

/-- A slot about to send a further remote write parks while it has no place for its error. How long the queue of a guest from another
module is, is not known here (12 R257, log entry 47). -/
def withPlace (s : State) (k : State → Out) : Out :=
  let (full, s) := if (s.errHome s.cur).isSome then (s.remoteFull s.cur, s)
    else let (c, s) := s.pick 2; (s.remoteFull s.cur || c == 1, s)
  if full then parkAgain s .remoteQueue .remoteQ else k s

/-- A remote write counted as outstanding until each of its targets has answered; to no target, nothing is (12 R257). -/
def Slot.openWrite (sl : Slot) (kind : Nat) (addr : Word) (len : Nat) (targets : List (Fin 4096)) : Slot :=
  let o : Outst := ⟨sl.nextId, kind, addr, len, sl.hosting.map (·.home), targets, targets, []⟩
  { sl with outst := if targets.isEmpty then sl.outst else sl.outst ++ [o], nextId := sl.nextId + 1, tbm := sl.tbm ||| (1#49 <<< 48) }

def execJoin (h : Hdr) (d a : SReg) (b : Option SReg) (off : BitVec 41) (s : State) : Out :=
  homeOnly h s (
    let va := s.me.rs a + off.signExtend 64
    let x := va.toNat
    let tgt : Option (Fin 4096 × CoreId) := match b with
      | none => some (s.modId, s.cur.core)
      | some r =>
        let y := s.me.rs r
        if y.toNat < 2 ^ 32 then
          match coreOf (y.setWidth 32) with
          | some (m, c) => if s.inView s.cur m ∧ (m ≠ s.modId ∨ (s.jobLaunchOf (s.jobOf s.cur) c).isSome) then some (m, c) else none
          | none => none
        else none
    match tgt with
    | none => trap s 0xB 3 va
    | some (m, c) =>
      let sl := s.me
      if x % 32 ≠ 0 ∨ 0x30000 < x + 32 then trap s 0xB 3 va
      else if m = s.modId ∧ c = s.cur.core then
        if s.clean s.cur then localJoin s d x else .next (s.park .globalLoad (.sys (.join d x)))
      else
        let far := m ≠ s.modId
        let posted : Bool := d == 0
        let id := sl.nextId
        let p : Packet := ⟨.slot (s.agent s.cur), if far then .mdl m else .core c, .notice,
          .join (s.agent s.cur) id (s.jobOf s.cur) c x posted⟩
        let send (s : State) : State := s.post p (if far then s.holdOf s.cur else s.holdNear s.cur)
        if far ∧ posted then withPlace s fun s => retire (send s) fun sl => sl.openWrite 5 va 0 [m]
        else if posted then retire (send s) fun sl => sl
        else .next (((send s).mod fun sl => { sl with nextId := sl.nextId + 1, object := va }).park .globalLoad (.rjoin id d m)))

/-- A join that names a core outside its job leaves the record alone: its slot traps, and a posted join of another module yields an entry of its
error queue (16 R332, R347, log entry 53). -/
def State.joinStray (s : State) (a : Agent) (id : Nat) (job : BitVec 32) (posted : Bool) : State :=
  if a.mod = s.modId then
    if posted then s
    else s.modSlot a.who fun sl => match sl.wait with
      | .rjoin i _ _ => if i = id then { sl with reply := some (.trap 0xB 3 sl.object) } else sl
      | _ => sl
  else if posted then
    s.ergSend ⟨.mdl s.modId, .mdl a.mod, .reply, .rack a id (some ⟨if (s.jobLaunches job).isEmpty then 0x20 else 0x23, s.modId, 1⟩)⟩
  else s.ergSend ⟨.mdl s.modId, .mdl a.mod, .reply, .rrep a id (.fail 3 0x23)⟩

/-- A remote join's answer: to a slot of this module, or back across the fabric. -/
def State.joinReply (s : State) (a : Agent) (id : Nat) (posted : Bool) (code : Nat) : State :=
  if a.mod = s.modId then
    if posted then s
    else s.modSlot a.who fun sl => match sl.wait with
      | .rjoin i _ _ => if i = id then { sl with reply := some (.val (BitVec.ofNat 64 code)) } else sl
      | _ => sl
  else if posted then s.ergSend ⟨.mdl s.modId, .mdl a.mod, .reply, .rack a id none⟩
  else s.ergSend ⟨.mdl s.modId, .mdl a.mod, .reply, .rrep a id (.ok (leBytes 8 code))⟩

/-- A join's step at the core that holds its record, where the core belongs to the job; it is held there while its continuation has no place
(16 R332, R352). -/
def execJoinStep (k : Nat) (s : State) : Out :=
  match s.net[k]? with
  | none => .next s
  | some f => match f.pkt.dst, f.pkt.body with
    | .core c, .join src id job _ a posted =>
      if !s.noticeOpen c then .next s
      else match s.take k with
      | none => .next s
      | some (_, t) => if (t.jobLaunchOf job c).isNone then .next (t.joinStray src id job posted) else match t.joinStep c a with
        | none => .next s
        | some (code, t) => .next (t.joinReply src id posted code)
    | .mdl _, .join _ _ _ _ _ _ => .next (match s.take k with | some (p, s) => s.ergSend p | none => s)
    | _, _ => .next s

/-! ## Cluster barriers (16 R356, R357) -/

/-- The barrier a `bar` names. -/
def barIdx (sl : Slot) (a : SI) : Fin 16 := Fin.ofNat 16 (sl.rsi a).toNat

def State.barrier (s : State) (w : Who) (i : Fin 16) : Barrier := (s.engine (clusterOf w.core)).barriers[i]

def State.setBarrier (s : State) (w : Who) (i : Fin 16) (b : Barrier) : State :=
  s.modEngine (clusterOf w.core) fun e => { e with barriers := e.barriers.set i b }

/-- A `bar` of a launch that does not own the barrier traps; a free barrier is anyone's (16 R347, R356). -/
def barForm (h : Hdr) (s : State) (a : SI) (k : Fin 16 → Barrier → Out) : Out :=
  homeOnly h s (
    let i := barIdx s.me a
    let b := s.barrier s.cur i
    if b.owner.isSome ∧ b.owner ≠ s.myCore.launch then trap s 0xB 4 (BitVec.ofNat 64 i.val) else k i b)

def execBarCfg (h : Hdr) (d : SReg) (a : SI) (b : SReg) (s : State) : Out :=
  barForm h s a fun i bar =>
    if bar.arrived ≠ 0 then retire s fun sl => sl.ws d 1
    else
      let n := (s.me.rs b).setWidth 16
      retire (s.setBarrier s.cur i { bar with owner := s.myCore.launch, count := n }) fun sl => sl.ws d 0

def execBarRd (h : Hdr) (d : SReg) (a : SI) (s : State) : Out :=
  barForm h s a fun _ bar =>
    retire s fun sl => sl.ws d (BitVec.ofNat 64 (bar.gen.toNat * 2 ^ 32 + bar.arrived.toNat * 2 ^ 16 + bar.count.toNat))

/-- An arrival: the barrier, and the generation it joined. -/
def Barrier.arrive (b : Barrier) : Barrier :=
  let n := b.arrived + 1
  if n = b.count then { b with gen := b.gen + 1, arrived := 0 } else { b with arrived := n }

/-- The arrival of a slot, after which a `bar.arr` parks until its generation completes (16 R357). -/
def State.barArrive (s : State) (w : Who) (arr : Bool) (d : SReg) (i : Fin 16) : State :=
  let b := s.barrier w i
  let g := b.gen
  let b' := b.arrive
  let s := (s.setBarrier w i b').modSlot w fun sl => ((sl.unpark).ws d (g.setWidth 64)).next
  if !arr then s
  else if b'.gen = g then s.modSlot w fun sl => { sl.park .barrier (.barrier i g) s.rot with object := BitVec.ofNat 64 i.val }
  else s.acquire w.core .cluster

def barSync (h : Hdr) (arr : Bool) (d : SReg) (a : SI) (s : State) : Out :=
  barForm h s a fun i bar =>
    if bar.count = 0 then trap s 0xB 4 (BitVec.ofNat 64 i.val)
    else if s.clean s.cur then .next (s.barArrive s.cur arr d i)
    else .next (s.park .fence (.barRel arr d i))

def execBarArr (h : Hdr) (d : SReg) (a : SI) (s : State) : Out := barSync h true d a s
def execBarSig (h : Hdr) (d : SReg) (a : SI) (s : State) : Out := barSync h false d a s

end Sys2Proof.Machine
end

