-- ==== Sys2Proof/Machine/Fabric.lean ====
section
/-! DEFINITION. Remote accesses, mailboxes, the error queue and roaming (12 R254-R263, 08 R176). -/

namespace Sys2Proof.Machine

/-! ## Remote addresses (12 R254, R255) -/

/-- The 48-bit virtual address of a remote address. -/
def remoteVa (a : Word) : Word := a &&& 0xFFFFFFFFFFFF#64

/-- A group that some switch's table holds (12 R253). -/
def State.groupKnown (s : State) (g : Nat) : Bool := s.switches.any fun x => x.2.groups.any (·.1 == g)

/-- The issue checks of a remote address: the sub-cause of class 0x09. -/
def State.remoteFault (s : State) (a : Word) (multi : Bool) : Option Nat :=
  if a.extractLsb' 48 3 ≠ 0 then some 1
  else if a.getLsbD 51 then (if multi && s.groupKnown (tileMod a).val then none else some 1)
  else if s.domainMax < tileMod a || !s.inView s.cur (tileMod a) then some 2
  else none

/-- Where a remote request goes. -/
def remoteDst (a : Word) : Dst := if a.getLsbD 51 then .group (tileMod a).val else .mdl (tileMod a)

/-- The modules a remote address names: one, or the members of its group. -/
def State.targets (s : State) (a : Word) : List (Fin 4096) := if a.getLsbD 51 then s.members (tileMod a).val else [tileMod a]

/-- The slot's unacknowledged writes that overlap the bytes of an access (12 R256). -/
def Slot.behindWrites (sl : Slot) (a : Word) (n : Nat) : List Nat :=
  (sl.outst.filter fun o => decide (o.kind ∈ [0, 1, 3]) && decide (tileMod a ∈ o.targets) &&
    decide ((remoteVa o.addr).toNat < (remoteVa a).toNat + n) &&
    decide ((remoteVa a).toNat < (remoteVa o.addr).toNat + o.len)).map (·.id)

/-! ## Migration (12 R261, R262) -/

/-- A thread leaves a place once it has performed there the effect of `fence.fabric`: its stores are performed, its remote writes
acknowledged, and its error queue is empty (12 R262, 04 R90). -/
def leave (s : State) (k : State → Out) : Out :=
  let sl := s.me
  if !(sl.storeQ.isEmpty && sl.outst.isEmpty && sl.incs.isEmpty) || s.carried sl then parkAgain s .fence .clean
  else
    let (clear, s) := s.errClear s.cur
    if clear then k s
    else
      let (x, s) := s.freeWord
      trap s 4 8 x

/-- A slot leaves for another module (12 R262); it runs there at `pc`, and by the roam hint performs an access first. -/
def migrate (s : State) (a pc : Word) (hint : Bool) : Out :=
  leave s fun s =>
    let sl := s.me
    match sl.hosting with
    | some h =>
      let g := sl.pack h.home h.job pc hint
      let s := s.mod fun sl => { (sl.unpack h.own).toPool false with hosting := none, tbm := 0 }
      let s := if h.home.mod = s.modId then s.modSlot h.home.who fun sl => { sl with awayAt := tileMod a }
        else s.send ⟨.slot (s.agent s.cur), .mdl h.home.mod, .notice, .guestAt h.home (tileMod a)⟩
      .next ((s.send ⟨.slot (s.agent s.cur), remoteDst a, .notice, .roamTo (remoteVa a) g⟩).poolEvent s.cur)
    | none =>
      let g := sl.pack (s.agent s.cur) (s.jobOf s.cur) pc hint
      let s := (s.park .roam .roam).mod fun sl => { sl with away := some g, awayAt := tileMod a, object := a, tbm := 0, resv := [] }
      .next (s.send ⟨.slot (s.agent s.cur), remoteDst a, .notice, .roamTo (remoteVa a) g⟩)

def execRoam (h : Hdr) (a : SReg) (s : State) : Out :=
  guarded h s (
    let x := s.me.rs a
    match s.remoteFault x false with
    | some sub => trap s 9 sub x
    | none => if tileMod x = s.modId then retire s id else migrate s x (s.me.pc + 1) false)

def execHome (h : Hdr) (s : State) : Out :=
  guarded h s (
    if s.me.hosting.isNone then retire s id
    else leave s fun s => .next (s.sendHome s.cur .plain (s.me.pc + 1)))

/-- The roam hint: the slot migrates to the module the access names, and the access is performed there as a local one; a guest whose access
names its home module returns home first (12 R256, R262). Without a migration the access is a remote one. -/
def roamed (h : Hdr) (s : State) (a : Word) (local_ remote : Out) : Out :=
  if !h.roam || a.getLsbD 51 then remote
  else if tileMod a = s.modId then (if s.me.roamed then local_ else remote)
  else match s.me.hosting with
  | some x =>
    if x.home.mod = tileMod a then leave s fun s => .next (s.sendHome s.cur .plain s.me.pc true)
    else migrate s a s.me.pc true
  | none => migrate s a s.me.pc true

/-! ## Remote loads and atomics (12 R256) -/

/-- An access that loops to the issuing module is a global access of a slot whose start carries stores (14 R419). -/
def looped (s : State) (a : Word) (k : Out) : Out :=
  if decide (s.modId ∈ s.targets a) && s.carried s.me then parkAgain s .storeQueue .carry else k

/-- A parked remote request is sent; an atomic waits for the release it makes. -/
def sendRemote (s : State) (k : GOp) (a : Word) (op : ROp) (release : Bool) : Out :=
  let sl := s.me
  let p : Packet := ⟨.slot (s.agent s.cur), remoteDst a, .request, .rreq (s.agent s.cur) sl.nextId (s.jobOf s.cur) a op false⟩
  let h := if release then s.holdOf s.cur else s.holdAfter s.cur
  let s := (s.park .remoteLoad (.remote sl.nextId k)).mod fun sl => { sl with nextId := sl.nextId + 1, object := a }
  .next (s.post p h)

/-- The issue of a form that returns a value. -/
def remoteValue (h : Hdr) (s : State) (k : GOp) (a : Word) (op : ROp) (release : Bool) (local_ : Out) : Out :=
  match s.remoteFault a false with
  | some sub => trap s 9 sub a
  | none => roamed h s a local_ (looped s a (
      let ids := s.me.behindWrites a op.bytes
      if !ids.isEmpty then parkAgain s .remoteQueue (.writes ids) else sendRemote s k a op release))

def execRld (h : Hdr) (d : SFV) (a : SReg) (m : MemArgs) (s : State) : Out :=
  guarded h s (
    let x := memAddr s.me a m
    guestF s (match d with | .s _ => false | _ => true) (tval := x) (streamGate s [] (d.vs m.width) (
      remoteValue h s (.ld d m.width m.sg .fabric false) x (.ld m.width) false (
        withCheck s (remoteVa x) m.width.bytes .load m.width.align (m.width = .w) fun s segs =>
          globalLoad s d m.width m.sg .mdl (remoteVa x) segs))))

/-- A local atomic at the end of a migration. -/
def localAtomic (s : State) (k : GOp) (op : Option AmoOp) (a : Word) (w : Width) : Out :=
  withCheck s (remoteVa a) w.bytes .atomic w.bytes (winAmo op w false) fun s segs =>
    let ids := s.me.overlapping segs
    if !ids.isEmpty then parkAgain s .storeQueue (.stores ids)
    else .next (s.park .globalLoad (.glob ⟨k, remoteVa a, false, segs.map fun g => (g.off, g.pa, g.len, g.through), [], none⟩))

def execRamo (h : Hdr) (op : AmoOp) (d a b : SReg) (m : AmoArgs) (s : State) : Out :=
  guarded h s (
    let x := amoAddr s.me a m
    let k : GOp := .amo op d m.width (s.me.rs b) .fabric
    remoteValue h s k x (.amo op m.width (s.me.rs b)) true (localAtomic s k (some op) x m.width))

def execRamocas (h : Hdr) (d a b : SReg) (m : AmoArgs) (s : State) : Out :=
  guarded h s (
    let x := amoAddr s.me a m
    let k : GOp := .cas d m.width (s.me.rs d) (s.me.rs b) .fabric
    remoteValue h s k x (.cas m.width (s.me.rs d) (s.me.rs b)) true (localAtomic s k none x m.width))

/-! ## Remote writes and the error queue (12 R257-R259) -/

/-- A posted remote write: counted as outstanding and sent, or parked while its place is not free (12 R257). -/
def postRemote (s : State) (a : Word) (kind : Nat) (op : ROp) (cls : TClass) (release : Bool) (pops : List VReg) : Out :=
  looped s a (withPlace s fun s =>
    let kind := if a.getLsbD 51 then 3 else kind
    let p : Packet := ⟨.slot (s.agent s.cur), remoteDst a, cls, .rreq (s.agent s.cur) s.me.nextId (s.jobOf s.cur) a op true⟩
    let ms := s.targets a
    let s := s.post p (if release then s.holdOf s.cur else s.holdAfter s.cur)
    retire s fun sl => (sl.pops pops).openWrite kind a op.bytes ms)

def execRst (h : Hdr) (b : SFV) (a : SReg) (m : MemArgs) (s : State) : Out :=
  guarded h s (
    let x := memAddr s.me a m
    guestF s (match b with | .s _ => false | _ => true) (tval := x) (streamGate s (b.vs m.width) [] (
    match s.remoteFault x true with
    | some sub => trap s 9 sub x
    | none => roamed h s x
        (withCheck s (remoteVa x) m.width.bytes .store m.width.align (m.width = .w) fun s segs =>
          postStore s segs (s.me.rStore b m.width) none false false (b.vs m.width))
        (postRemote s x 0 (.st m.width (s.me.rStore b m.width)) .bulk false (b.vs m.width)))))

def execRamoPosted (h : Hdr) (op : AmoOp) (a b : SReg) (m : AmoArgs) (s : State) : Out :=
  guarded h s (
    let x := amoAddr s.me a m
    match s.remoteFault x false with
    | some sub => trap s 9 sub x
    | none => roamed h s x
        (withCheck s (remoteVa x) m.width.bytes .atomic m.width.bytes (winAmo (some op) m.width true) fun s segs =>
          let ids := s.me.overlapping segs
          if !ids.isEmpty then parkAgain s .storeQueue (.stores ids)
          else postStore s segs (leBytes m.width.bytes (s.me.rs b).toNat) (some (op, s.me.rs b)) true true [])
        (postRemote s x 1 (.amo op m.width (s.me.rs b)) .request true []))

/-- An instruction reads the head of the slot's error queue, a guest's at its home; of a queue on another module neither the head nor what a
pop leaves is known here, and what is read is a free value (12 R258, R259, log entry 47). -/
def atErrHead (s : State) (k : State → Option Who → List ErrEntry → Word → Out) : Out :=
  match s.errHome s.cur with
  | some w => k s (some w) (s.slot w).errq 0
  | none => let (x, s) := s.freeWord; k s none [] x

def execEqrd (h : Hdr) (info : Bool) (d : SReg) (s : State) : Out :=
  guarded h s (atErrHead s fun s _ q none_ =>
    let x : Word := match q with
      | [] => none_
      | e :: _ => if info then e.info else e.addr
    retire s fun sl => sl.ws d x)

/-- An entry that arrives in the cycle of the issue is not seen (12 R259). -/
def execEqpop (h : Hdr) (d : SReg) (s : State) : Out :=
  guarded h s (atErrHead s fun s w q none_ =>
    match w, q with
    | some w, e :: r =>
      if e.at_ = s.cycle then retire s fun sl => sl.ws d 0
      else retire (s.modSlot w fun sl => { sl with errq := r }) fun sl => sl.ws d e.info
    | _, _ => retire s fun sl => sl.ws d none_)

/-- The entry's bytes in the save area of a spilled slot, appended by the spill engine (17 R379). -/
def State.saveErr (s : State) (w : Who) (k : Nat) (e : ErrEntry) : State :=
  if 16 ≤ k then s else s.saveBytes w (0x800 + 16 * k) (leBytes 8 e.addr.toNat ++ leBytes 8 e.info.toNat)

/-- An entry joins a slot's error queue; in host-assisted draining mode it is an event too (12 R258). -/
def State.pushErr (s : State) (w : Who) (e : ErrEntry) : State :=
  let s := s.saveErr w (s.slot w).errq.length e
  let s := (s.modSlot w fun sl => { sl with errq := sl.errq ++ [e] }).failItems w.core 1
  if s.modes.errDrain then
    s.raise .errEntry (stackDie w.core.stack) [(coreWord s.modId w.core).toNat, w.slot.val, e.addr.toNat, e.info.toNat]
  else s

/-- The info word of an entry (12 R258). -/
def errInfo (f : WFail) (kind : Nat) : Word :=
  BitVec.ofNat 64 (2 ^ 63 + f.cause * 2 ^ 48 + kind * 2 ^ 40 + f.peer.val * 2 ^ 28 + min f.members 4095 * 2 ^ 16)

/-- The lowest-numbered of the members that failed, with its cause. -/
def lowestFail : List (Fin 4096 × Nat) → Option (Fin 4096 × Nat)
  | [] => none
  | x :: r => match lowestFail r with
    | some y => if y.1 < x.1 then some y else some x
    | none => some x

/-- The one entry of a write that failed at some of its targets (12 R258). -/
def Outst.entry (o : Outst) (cycle : Nat) : Option ErrEntry :=
  (lowestFail o.fails).map fun x => ⟨o.addr, errInfo ⟨x.2, x.1, o.fails.length⟩ o.kind, cycle⟩

/-- A target of a remote write that had not answered has answered. With the last one the write ends: acknowledged, or failed with one error-queue entry, which for a
guest's write goes to the thread's home (12 R257, R258). -/
def State.closeWrite (s : State) (a : Agent) (id : Nat) (from_ : Fin 4096) (cause : Option Nat) : State :=
  match (s.slot a.who).outst.find? (·.id == id) with
  | none => s
  | some o =>
    if from_ ∉ o.left ∧ !o.left.isEmpty then s else
    let o := { o with left := o.left.filter (· ≠ from_), fails := o.fails ++ (cause.map fun c => (from_, c)).toList }
    if !o.left.isEmpty then s.modSlot a.who fun sl => { sl with outst := sl.outst.map fun x => if x.id = id then o else x }
    else
      let s := s.modSlot a.who fun sl => { sl with outst := sl.outst.filter fun x => x.id != id }
      match o.entry s.cycle with
      | none => s
      | some e => match o.home with
        | none => s.pushErr a.who e
        | some h =>
          if h.mod = s.modId then s.pushErr h.who e
          else s.send ⟨.slot a, .mdl h.mod, .reply, .eqEntry h e.addr e.info⟩

/-- An acknowledgement, or the report of a failure, reaches its slot (12 R257). -/
def State.ackArrives (s : State) (k : Nat) : State :=
  match s.net[k]? with
  | none => s
  | some f => match f.pkt.body with
    | .rack dst id r => if dst.mod ≠ s.modId then s else match s.take k with
      | some (p, s) => s.closeWrite dst id ((r.map (·.peer)).getD ((srcMod p.src).getD s.modId)) (r.map (·.cause))
      | none => s
    | .eqEntry dst addr info => if dst.mod ≠ s.modId then s else match s.take k with
      | some (_, s) => s.pushErr dst.who ⟨addr, info, s.cycle⟩
      | none => s
    | _ => s

def execRemoteWriteAck (k : Nat) (s : State) : Out := .next (s.ackArrives k)
def execRemoteWriteFail (k : Nat) (s : State) : Out := .next (s.ackArrives k)

/-- A reply reaches the parked slot that waits for it (12 R256, 16 R352). -/
def execRemoteReply (k : Nat) (s : State) : Out :=
  match s.net[k]? with
  | none => .next s
  | some f => match f.pkt.body with
    | .rrep dst id r =>
      if dst.mod ≠ s.modId then .next s
      else match s.take k with
      | none => .next s
      | some (_, s) =>
        .next (s.modSlot dst.who fun sl =>
          let on := match sl.wait with
            | .remote i _ => i == id
            | .rjoin i _ _ => i == id
            | _ => false
          if !on then sl
          else match r with
          | .fail sub cause => { sl with reply := some (match sl.wait with
              | .rjoin _ _ _ => .trap (if cause = 0x23 then 0xB else 9) 3 sl.object
              | _ => .trap 9 sub sl.object) }
          | .ok bs => { sl with reply := some (match sl.wait with
              | .rjoin _ _ _ => .val (BitVec.ofNat 64 (leNat bs))
              | _ => .data bs) })
    | _ => .next s

/-! ## Remote accesses at their target (12 R254, 14 R301) -/

/-- A remote request answered. -/
def State.answerRemote (s : State) (src : Agent) (id : Nat) (posted : Bool) (r : Sum (List Byte) (Nat × Nat)) : State :=
  let body : Body := match posted, r with
    | true, .inl _ => .rack src id none
    | true, .inr (cause, _) => .rack src id (some ⟨cause, s.modId, 1⟩)
    | false, .inl bs => .rrep src id (.ok bs)
    | false, .inr (cause, sub) => .rrep src id (.fail sub cause)
  s.send ⟨.io, agentDst s.modId src, .reply, body⟩

/-- Bytes written by no slot of the module. -/
def State.writeIo (s : State) (pa : Nat) (bs : List Byte) (through : Bool) : State :=
  if inWindow pa then s.setCounter pa (BitVec.ofNat 32 (leNat bs)) else s.gwrite pa bs through

/-- The kind, alignment and window permission of a remote access. -/
def ropCheck : ROp → AccKind × Nat × Bool
  | .ld w => (.load, w.align, w == .w)
  | .st w _ => (.store, w.align, w == .w)
  | .amo op w _ => (.atomic, w.bytes, winAmo (some op) w false)
  | .cas w _ _ => (.atomic, w.bytes, winAmo none w false)

/-- The checks of a remote access under the table its target uses (12 R254). -/
def State.remoteCheck (s : State) (root : Word) (va : Word) (op : ROp) : Chk :=
  let a := (remoteVa va).toNat
  let (kind, align, win) := ropCheck op
  if 2 ^ 48 < a + op.bytes then .trap 1 va
  else s.poisonFirst a op.bytes kind (s.walks root (pagesOf a op.bytes)) (checkWith a op.bytes kind align win (s.walks root (pagesOf a op.bytes)))

/-- The newest remote store ahead of a remote load at the I/O die that shares bytes with it and that its checks let through, where it covers
the load and no part of it has been performed (14 R301). -/
def State.forwardRemote (s : State) (k : Nat) (root : Word) (job : BitVec 32) (va : Nat) (n : Nat) : Option (List Byte) :=
  (s.net.take k).foldl (fun acc f => match f.pkt.body with
    | .rreq _ _ j a (.st w d) _ =>
      let b := (remoteVa a).toNat
      let here := match f.pkt.dst with | .mdl m => m == s.modId | _ => false
      let passes := match s.remoteCheck root a (.st w d) with
        | .ok segs => segs.all fun g => inWindow g.pa || !s.poisoned g.pa g.len
        | _ => false
      if here && f.hold.isNone && decide (j = job) && decide (b < va + n) && decide (va < b + d.length) && (passes || f.work.isSome) then
        (if b ≤ va ∧ va + n ≤ b + d.length ∧ (f.work.all fun wk => wk.got.isEmpty && !wk.bad) then some ((d.drop (va - b)).take n) else none)
      else acc
    | _ => acc) none

/-- A part of a remote access performed at its home slice: the state, and the bytes read, none where a word is poisoned. A write by a slot of
this module is one of its core (14 R295). -/
def State.remotePart (s : State) (src : Agent) (op : ROp) (off pa len : Nat) (thr : Bool) : State × Option (List Byte) :=
  let put (bs : List Byte) : State := if src.mod = s.modId then s.writeAt src.who.core pa bs thr else s.writeIo pa bs thr
  let bad := !inWindow pa && s.poisoned pa len
  let old := s.readAt pa len
  match op with
  | .st _ d => (put ((d.drop off).take len), some [])
  | .ld _ => if bad then (s, none) else (s, some old)
  | .amo o w x => if bad then (s, none) else (put (leBytes len (amoNew o w (leNat old) x.toNat)), some old)
  | .cas _ cmp new =>
    if bad then (s, none) else (if leNat old = cmp.toNat % 2 ^ (8 * len) then put (leBytes len new.toNat) else s, some old)

/-- The answer of a remote access whose parts are all performed: its bytes, or the refusal of a poisoned word (04 R82). -/
def Work.answer (wk : Work) : Sum (List Byte) (Nat × Nat) :=
  if wk.bad then .inr (6, 0x16) else .inl ((sortBy (·.1) wk.got).map (·.2)).flatten

/-- A remote access under way goes on with one of its parts, which are independent of one another (14 R302): one held back by a link that
retrains waits, and one whose way or die is lost ends the access with an error (06 R139, 12 R255, R258). -/
def State.remoteStep (s : State) (k : Nat) (wk : Work) (src : Agent) (id : Nat) (op : ROp) (posted : Bool) : State :=
  match s.net[k]? with
  | none => s
  | some f =>
    let (i, s) := s.pick wk.parts.length
    match wk.parts[i]? with
    | none => s
    | some (off, pa, len, thr) =>
      let fail (cause : Nat) : State := match s.take k with
        | some (_, s) => s.answerRemote src id posted (.inr (cause, 3))
        | none => s
      match s.way none pa with
      | .held => s
      | .lost => fail (if s.dies[stackDie (s.homeStack pa)] = .up then 0x21 else 0x22)
      | .clear =>
        let (s, r) := (s.crossed none pa).remotePart src op off pa len thr
        let wk : Work := match r with
          | some bs => { wk with parts := wk.parts.eraseIdx i, got := wk.got ++ [(off, bs)] }
          | none => { wk with parts := wk.parts.eraseIdx i, bad := true }
        if wk.parts.isEmpty then match s.take k with
          | some (_, s) => s.answerRemote src id posted wk.answer
          | none => s
        else { s with net := s.net.set k { f with work := some wk, waits := false } }

/-- A remote request at its target: translated through the job's table, then performed part by part, refused, or held on uncommitted pages under
the target's fault service (12 R254). A held release bound for another module is sent on. -/
def execRemoteRequestAtTarget (k : Nat) (s : State) : Out :=
  match s.net[k]? with
  | none => .next s
  | some f => match f.pkt.body with
    | .rreq src id job va op posted =>
      let here := match f.pkt.dst with | .mdl m => m == s.modId | _ => false
      match s.take k with
      | none => .next s
      | some (p, t) =>
        if !here then .next (t.ergSend p)
        else match f.work with
        | some wk => .next (s.remoteStep k wk src id op posted)
        | none => match s.jobLaunches job with
          | [] => .next (t.answerRemote src id posted (.inr (0x20, 3)))
          | l :: _ =>
            let a := (remoteVa va).toNat
            let fwd := match op with
              | .ld _ => if src.mod = s.modId then none else s.forwardRemote k l.root job a op.bytes
              | _ => none
            let go (s : State) (segs : List Seg) : State :=
              let (c, s) := if fwd.isSome then s.pick 2 else (0, s)
              match c, fwd with
              | 1, some bs => (match s.take k with
                | some (_, s) => s.answerRemote src id posted (.inl bs)
                | none => s)
              | _, _ => s.remoteStep k ⟨segs.map fun g => (g.off, g.pa, g.len, g.through), [], false⟩ src id op posted
            match s.remoteCheck l.root va op with
            | .ok segs => .next (go s segs)
            | .trap sub _ => .next (t.answerRemote src id posted (.inr (sub, 0x10 + sub)))
            | .miss => .next s
            | .sparse ps =>
              let s := ps.foldl (fun s q => s.autoCommit l.root q l.stack) s
              match s.remoteCheck l.root va op with
              | .ok segs => .next (go s segs)
              | .sparse ps =>
                let s := ps.foldl (fun (s : State) q => s.addPend l.stack l.root q l.sup (coreWord src.mod src.who.core) src.who.slot
                  ⟨l.stack, 0, 0⟩ (ropCheck op).1) s
                .next { s with net := s.net.set k { f with waits := true } }
              | _ => .next s
    | _ => .next s

/-! ## Mailboxes (12 R260, 08 R176) -/

/-- A counter `c` has reached the target `n` (08 R176). -/
def mbReached (c n : BitVec 32) : Bool := decide ((c - n).toNat < 2 ^ 31)

def execMbincLocal (h : Hdr) (n : MbIdx) (b : SI) (s : State) : Out :=
  homeOnly h s (
    let sl := s.me
    let amt := (sl.rsi b).setWidth 32
    if sl.storeQ.isEmpty && sl.postedIds.isEmpty && !s.carried sl then retire (s.mbAdd s.cur.core n amt) id
    else
      let p : Packet := ⟨.slot (s.agent s.cur), .core s.cur.core, .notice,
        .mbInc s.cur.core n amt (some (s.agent s.cur, sl.nextId, s.jobOf s.cur))⟩
      retire (s.injectHeld p (s.holdOf s.cur)) fun sl => { sl with incs := sl.incs ++ [sl.nextId], nextId := sl.nextId + 1 })

/-- The counter a remote `mbinc` names (12 R260): its fields' checks give the sub-cause. -/
def State.mbName (s : State) (x : Word) : Sum Nat (CoreId × MbIdx) :=
  let st := x.toNat / 2 ^ 48 % 8
  if x.getLsbD 51 ∧ !s.groupKnown (tileMod x).val then .inl 1
  else if ¬ x.getLsbD 51 ∧ (s.domainMax < tileMod x ∨ !s.inView s.cur (tileMod x)) then .inl 2
  else if hst : st < 6 then
    if x.extractLsb' 6 31 ≠ 0 then .inl 6
    else .inr (⟨⟨st, hst⟩, Fin.ofNat 64 (x.toNat / 2 ^ 42), Fin.ofNat 32 (x.toNat / 2 ^ 37)⟩, Fin.ofNat 64 x.toNat)
  else .inl 6

def execMbincRemote (h : Hdr) (a : SReg) (b : SI) (s : State) : Out :=
  guarded h s (
    let x := s.me.rs a
    match s.mbName x with
    | .inl sub => trap s 9 sub x
    | .inr (c, i) =>
      withPlace s fun s =>
        let sl := s.me
        let here := ¬ x.getLsbD 51 ∧ tileMod x = s.modId
        let p : Packet := ⟨.slot (s.agent s.cur), if here then .core c else remoteDst x, .notice,
          .mbInc c i ((sl.rsi b).setWidth 32) (some (s.agent s.cur, sl.nextId, s.jobOf s.cur))⟩
        let ms := s.targets x
        let s := s.post p (s.holdOf s.cur)
        retire s fun sl =>
          let sl := sl.openWrite (if x.getLsbD 51 then 4 else 2) x 0 ms
          if here then { sl with tbm := sl.tbm ||| (1#49 <<< (c.stack.val * 8 + c.y.val / 4)) } else sl)

def execMbwait (h : Hdr) (n : MbIdx) (b : SI) (s : State) : Out :=
  homeOnly h s (
    afterRelease s (
    let t := (s.me.rsi b).setWidth 32
    if mbReached s.myCore.mb[n] t then retire (s.acquire s.cur.core .mdl) id
    else .next ((s.park .mailbox (.mailbox n t)).mod fun sl => { sl with object := BitVec.ofNat 64 n.val })))

def execMbrd (h : Hdr) (d : SReg) (n : MbIdx) (s : State) : Out :=
  homeOnly h s (afterRelease s (
    let x := s.myCore.mb[n].setWidth 64
    retire s fun sl => sl.ws d x))

/-- A posted increment is performed at its counter, and acknowledged where it is counted; one that names no core of the job fails
(12 R257, R258). A drain's closing increment follows every line of the drain (11 R235). -/
def execMailboxIncrement (k : Nat) (s : State) : Out :=
  match s.net[k]? with
  | none => .next s
  | some f => match f.pkt.dst, f.pkt.body with
    | .core c, .mbInc _ i amt ack =>
      if !s.noticeOpen c then .next s
      else match s.take k with
      | none => .next s
      | some (_, s) => match ack with
        | none => .next (s.mbAdd c i amt)
        | some (a, id, job) =>
          if a.mod = s.modId ∧ id ∈ (s.slot a.who).incs then
            .next ((s.mbAdd c i amt).modSlot a.who fun sl => { sl with incs := sl.incs.filter (· ≠ id) })
          else if (s.jobLaunches job).isEmpty then .next (s.answerRemote a id true (.inr (0x20, 3)))
          else if (s.jobLaunchOf job c).isNone then .next (s.answerRemote a id true (.inr (0x23, 6)))
          else .next ((s.mbAdd c i amt).answerRemote a id true (.inl []))
    | .core c, .dinc eng _ i amt => match s.take k with
      | none => .next s
      | some (_, s) => .next ((s.drainStep eng).mbAdd c i amt)
    | .core _, _ => .next s
    | _, .mbInc _ _ _ _ => .next (match s.take k with | some (p, s) => s.ergSend p | none => s)
    | _, _ => .next s

/-! ## Guests (12 R261-R263) -/

/-- A thread put into a free slot as a guest (12 R261, R262); its arrival acquires at fabric scope. -/
def Slot.host (sl : Slot) (g : Guest) : Slot :=
  { (sl.unpack g) with
    state := .guest, reason := .none, wait := .none, reply := none, bubble := false, block := none, walks := []
    haltReq := false, haltNow := false, carry := [], repCont := false
    hosting := some ⟨g.home, g.job, sl.pack g.home g.job sl.pc⟩ }

/-- Waiting threads given to free pool slots that are not reserved, highest first (15 R316). -/
def State.assignGuests : List (Fin 16) → State → CoreId → State
  | [], s, _ => s
  | i :: r, s, c =>
    match (s.core c).arrivals with
    | [] => s
    | g :: gs =>
      let s := s.modCore c fun k => { k with arrivals := gs, ro := [] }
      State.assignGuests r (s.modSlot ⟨c, i⟩ (·.host g)) c

/-- Roaming packets for a core enter its arrival queue of 16 entries. -/
def State.queueGuests : Nat → State → CoreId → State
  | 0, s, _ => s
  | n + 1, s, c =>
    if 16 ≤ (s.core c).arrivals.length ∨ !s.noticeOpen c then s
    else
      match (List.range s.net.length).find? fun k => ((s.net[k]?).any fun f => decide (s.roamsTo f.pkt = some c)) && s.ready k with
      | none => s
      | some k => match s.take k with
        | none => s
        | some (p, s) => match p.body with
          | .roamTo _ g => State.queueGuests n (s.modCore c fun x => { x with arrivals := x.arrivals ++ [g] }) c
          | _ => s

/-- Cycle 15: roaming packets reach the core and its free slots (12 R262, 15 R316). -/
def execRoamArrival (c : CoreId) (s : State) : Out :=
  let s := s.queueGuests 16 c
  .next (s.assignGuests ((s.core c).poolSlots s.cycle) c)

/-- A thread is home: it resumes, or takes there the trap or the floating-point park that sent it (12 R261). -/
def execGuestReturn (k : Nat) (s : State) : Out :=
  match s.net[k]? with
  | none => .next s
  | some f => match f.pkt.dst, f.pkt.body with
    | .mdl _, .home _ _ => .next (match s.take k with | some (p, s) => s.ergSend p | none => s)
    | _, .home g why =>
      let w := g.home.who
      if g.home.mod ≠ s.modId ∨ !s.noticeOpen w.core then .next s
      else match s.take k with
      | none => .next s
      | some (_, s) =>
        if (s.slot w).wait ≠ .roam then .next s else
        let s := s.acquire w.core .fabric
        let s := s.modSlot w fun sl => { (sl.unpack g).unpark with away := none, walks := [], resv := [] }
        match why with
        | .plain => .next s
        | .trap cls sub tval => .next (s.trapAt w cls sub tval g.pc)
        | .fp raised => .next { (State.fpPark { s with cur := w } raised (g.pc - 1)) with cur := s.cur }
    | _, _ => .next s

/-- A slot away as a guest is lost: it traps at home as it was at departure (12 R263). -/
def execGuestLost (w : Who) (s : State) : Out :=
  let sl := s.slot w
  if sl.wait = .roam then
    .next ((s.modSlot w fun sl => { sl.unpark with away := none }).trapAt w 9 5 sl.object sl.pc)
  else .next s

/-! ## The loss of a module or of every path to it (12 R251, R255, R263, 05 R111) -/

/-- What a slot waits for at a module fails: a remote reply, a tile answer, or a thread away there. -/
def Slot.loseModule (sl : Slot) (m : Fin 4096) : Slot :=
  if sl.reply.isSome then sl
  else match sl.wait with
  | .remote _ _ => if tileMod sl.object = m then { sl with reply := some (.trap 9 3 sl.object) } else sl
  | .rjoin _ _ x => if x = m then { sl with reply := some (.trap 9 3 sl.object) } else sl
  | .tile _ name => if tileMod name = m then { sl with reply := some (.trap 5 5 name) } else sl
  | _ => sl

/-- The job a packet belongs to. -/
def State.pktJob (s : State) (p : Packet) : Option (BitVec 32) :=
  match p.body with
  | .rreq _ _ job _ _ _ => some job
  | .mbInc _ _ _ (some (_, _, job)) => some job
  | .join _ _ job _ _ _ => some job
  | .task _ _ job _ _ => some job
  | .spawnd _ _ job _ _ _ _ => some job
  | .roamTo _ g => some g.job
  | .treq r => some r.job
  | _ => none

/-- The packet is bound for the module, and of the job where one is named. -/
def State.boundFor (s : State) (m : Fin 4096) (job : Option (BitVec 32)) (p : Packet) : Bool :=
  decide (p.dst = .mdl m) && (match job with
    | none => true
    | some j => s.pktJob p == some j)

/-- The packets bound for a module that have not reached it fail: at a port, in a plane, or kept back on this module (12 R251, R255). What the
replay buffers hold is on its way, and is answered by the flits' own fate. -/
def State.failBound (s : State) (m : Fin 4096) (cause : Nat) (job : Option (BitVec 32)) : State :=
  let bad := s.boundFor m job
  let cut (l : List Packet) : List Packet := l.filter fun p => !bad p
  let hit := ((s.switches.map fun (x : Nat × Switch) => (x.2.queue.map (·.pkt)).filter bad).flatten) ++
    ((s.ports.toList.map fun p => (p.waiting.drop (if p.offset = 0 then 0 else 1)).filter bad).flatten) ++ ((s.net.map (·.pkt)).filter bad)
  let s := { s with
    switches := s.switches.map fun (x : Nat × Switch) => (x.1, { x.2 with queue := x.2.queue.filter fun q => !bad q.pkt })
    ports := mapV (fun (p : Port) =>
      { p with waiting := if p.offset = 0 then cut p.waiting else p.waiting.take 1 ++ cut (p.waiting.drop 1) }) s.ports }
  let s := s.setNet (s.net.filter fun f => !bad f.pkt)
  hit.foldl (fun s p => s.failPacket cause 3 p) s

/-- The copies of a slot's tasks sent to the module and neither accepted nor failed fail (16 R345). -/
def State.loseTasks (s : State) (w : Who) (m : Fin 4096) : State :=
  ((s.slot w).tctx.ops.filter fun o => decide (o.mod = m)).foldl (fun s o =>
    (List.range o.left).foldl (fun s _ => s.taskAck (s.agent w) o.num false) s) s

/-- The task unit gives the notice of every gate whose home is the module (16 R344). -/
def State.loseGates (s : State) (m : Fin 4096) (mine : Who → Bool) : State :=
  s.cores.foldl (fun (s : State) (x : CoreId × Core) => if !mine ⟨x.1, 0⟩ then s else
    (x.2.gates.filter fun g => decide (tileMod g.q.task.gname = m)).foldl (fun s g =>
      s.inject ⟨.io, .core x.1, .notice, .gate x.1 g.gid false⟩) s) s

/-- Everything of the module's slots that depends on another module fails item by item. `cause` is the error-queue cause. A delivery whose
notice may have been performed fails only where the module leaves a view (05 R111). -/
def State.loseModule (s : State) (m : Fin 4096) (cause : Nat) (job : Option (BitVec 32)) : State :=
  let mine (w : Who) : Bool := match job with | none => true | some j => decide (s.jobOf w = j)
  let ws := s.allSlots.filter mine
  let s := s.failBound m cause job
  let s := ws.foldl (fun s w =>
    let sl := s.slot w
    let s := s.modSlot w (·.loseModule m)
    let s := if sl.wait = .roam ∧ sl.awayAt = m then s.soon (.guestLost w) else s
    let s := s.loseTasks w m
    (sl.outst.filter fun o => decide (m ∈ o.left)).foldl (fun s o => s.closeWrite (s.agent w) o.id m (some cause)) s) s
  let s := s.loseGates m mine
  let lost := (s.names.map fun r => (r.vers.filter fun e => e.st == .filling && decide (e.producer.mod = m) && job.all (· == e.pjob)).map
    fun e => (r.name, e.v)).flatten
  let s := lost.foldl (fun (s : State) x => s.soon (.fillFail x.1 x.2)) s
  if job.isNone then s else s.deliveries.foldl (fun s d => if d.dst.mod = m ∧ job.all (· == d.job) then s.closeDelivery d.did true else s) s

end Sys2Proof.Machine
end

