-- ==== Sys2Proof/Machine/Erg.lean ====
section
/-! DEFINITION. The routers' ageing and recovery, the UCIe links, the Erg ports and the Barchan switches (06 R134-R139, 12 R249-R253). -/

namespace Sys2Proof.Machine

/-! ## Buffers (06 R134-R136) -/

/-- The packet at the head of a buffer's normal or escape channel. -/
def State.bufHead (s : State) (b : BufId) : Option Nat :=
  s.net.findIdx? fun f => decide (f.buf = some { b with esc := false }) && f.esc == b.esc

/-- The head has stood in its place for a number of cycles. -/
def Flight.stood (f : Flight) (n cycle : Nat) : Bool := f.headAt.any fun t => decide (t + n ≤ cycle)

/-- The promotion threshold of a die (06 R133). -/
def State.agethr (s : State) (st : Fin 6) : Nat := s.settings.noccfg[st].toNat / 2 ^ 52

/-- The deadlock threshold of a die (06 R133). -/
def State.dlkthr (s : State) (st : Fin 6) : Nat := s.settings.noccfg[st].toNat / 2 ^ 36 % 2 ^ 16

/-! ## Switches: queues and channels (12 R247, R248) -/

/-- The packets at the heads of a switch's channels start their counters (06 R134, R135, 12 R248). -/
def stampSwitch (cycle : Nat) : List (Nat × TClass × Bool) → List SwPacket → List SwPacket
  | _, [] => []
  | seen, x :: r =>
    let c := (x.input, x.pkt.cls, x.esc)
    if c ∈ seen then x :: stampSwitch cycle seen r
    else { x with headAt := some (x.headAt.getD cycle) } :: stampSwitch cycle (c :: seen) r

/-- A switch changed; new heads start their counters. -/
def State.setSwitch (s : State) (n : Nat) (sw : Switch) : State :=
  { s with switches := assocSet s.switches n { sw with queue := stampSwitch s.cycle [] sw.queue } }

/-- The packet at an index is the first of its channel: its input, class, and normal or escape virtual channel (12 R248). -/
def Switch.isHead (sw : Switch) (k : Nat) : Bool :=
  match sw.queue[k]? with
  | none => false
  | some x => !(sw.queue.take k).any fun y => y.input == x.input && decide (y.pkt.cls = x.pkt.cls) && y.esc == x.esc

/-- The head of a switch's normal channel. -/
def Switch.head (sw : Switch) (input : Nat) (cls : TClass) : Option Nat :=
  sw.queue.findIdx? fun x => x.input == input && decide (x.pkt.cls = cls) && !x.esc

def SwPacket.stood (x : SwPacket) (n cycle : Nat) : Bool := x.headAt.any fun t => decide (t + n ≤ cycle)

/-- A link's free credits in a class (12 R248). -/
def State.linkFree (s : State) (n o : Nat) (c : TClass) : Nat :=
  Config.linkCredits n o c -
    (((s.switch n).queue.filter fun x => x.out == some o && decide (x.pkt.cls = c)).map fun x => packetFlits x.pkt).sum

/-- The middle-stage link of a packet at its input switch: that of its flow while a packet of the flow is on the plane, else the one with the
most free credits, the lowest of equals (12 R248). -/
def State.laneFor (s : State) (n : Nat) (m : Fin 4096) (p : Packet) : Nat :=
  match ((s.planeSwitches (n / 96)).map fun x => x.2.queue).flatten.find? fun x => decide (x.mod = m) && p.sameFlow x.pkt with
  | some x => x.lane
  | none => (mostOf (fun o => s.linkFree n o p.cls) (List.range 128)).getD 0

/-- A packet enters a switch: a pinned flow on the escape channel (12 R247, R248). -/
def State.enterSwitch (s : State) (n input : Nat) (m : Fin 4096) (p : Packet) (lane? : Option Nat) : State :=
  let lane := lane?.getD (s.laneFor n m p)
  let out : Option Nat := match p.dst with
    | .mdl t => some (match n / 32 % 3 with
      | 0 => lane
      | 1 => t.val / 128 * 4 + lane % 4
      | _ => t.val % 128)
    | _ => none
  let sw := s.switch n
  s.setSwitch n { sw with queue := sw.queue ++ [⟨m, p, input, out, lane, [], none, false, decide (flowOf p ∈ s.pins)⟩] }

/-! ## Ageing and recovery (06 R134, R135, 12 R248) -/

/-- A channel's head that has waited the ageing threshold is promoted (06 R134). -/
def execPacketPromotion (c : ChanId) (s : State) : Out :=
  match c with
  | .router b => match s.bufHead b with
    | none => .next s
    | some k => match s.net[k]? with
      | none => .next s
      | some f =>
        if !f.esc && f.stood (s.agethr b.die) s.cycle then .next { s with net := s.net.set k { f with promoted := true } }
        else .next s
  | .switch n input cls =>
    let sw := s.switch n
    match sw.head input cls with
    | none => .next s
    | some k => match sw.queue[k]? with
      | none => .next s
      | some x =>
        if x.stood s.settings.barchanAge s.cycle then .next (s.setSwitch n { sw with queue := sw.queue.set k { x with promoted := true } })
        else .next s

/-- The flow is pinned. -/
def State.pin (s : State) (fl : Flow) : State := { s with pins := if fl ∈ s.pins then s.pins else s.pins ++ [fl] }

/-- A channel's head that has not moved for the recovery threshold goes to the escape channel with the packets of its flow behind it, and its
flow is pinned; from a router they go on by the escape path (06 R135, R136). -/
def execDeadlockEscape (c : ChanId) (s : State) : Out :=
  match c with
  | .router b => match s.bufHead { b with esc := false } with
    | none => .next s
    | some k => match s.net[k]? with
      | none => .next s
      | some f =>
        if f.stood (s.dlkthr b.die) s.cycle then
          let fl := flowOf f.pkt
          .next ((s.pin fl).setNet (s.net.map fun (g : Flight) =>
            if g.buf = f.buf ∧ flowOf g.pkt = fl then { g with esc := true, headAt := none, route := s.escapeWay g.pkt g.route } else g))
        else .next s
  | .switch n input cls =>
    let sw := s.switch n
    match (sw.head input cls).bind fun k => sw.queue[k]? with
    | none => .next s
    | some x =>
      if x.stood s.settings.barchanDlk s.cycle then
        let fl := flowOf x.pkt
        .next ((s.pin fl).setSwitch n { sw with queue := sw.queue.map fun (y : SwPacket) =>
          if (y.input = x.input ∧ flowOf y.pkt = fl) then { y with esc := true, headAt := none } else y })
      else .next s

/-! ## UCIe (06 R137, R139) -/

/-- A CRC error: the flit is replayed; after eight consecutive failures the link must retrain. -/
def execUcieReplay (l : LinkId) (s : State) : Out :=
  let u := s.link l
  if u.st = .up ∧ u.replays < 8 then .next (s.setLink l { u with replays := u.replays + 1 }) else .next s

def execUcieRetrain (l : LinkId) (s : State) : Out :=
  let u := s.link l
  if u.st = .up ∧ 8 ≤ u.replays then .next (s.setLink l ⟨.retrain s.cycle, 0⟩) else .next s

def execUcieLinkRestored (l : LinkId) (s : State) : Out :=
  match (s.link l).st with
  | .retrain t => if s.cycle < t + 100000 then .next (s.setLink l .reset) else .next s
  | _ => .next s

/-- The packets in flight that a test picks fail, and so do the deliveries whose notice has not been performed (06 R139, 05 R111). -/
def State.failFlights (s : State) (bad : Flight → Bool) (cause : Nat) : State :=
  let hit := s.net.filter bad
  let s := s.setNet (s.net.filter fun f => !bad f)
  hit.foldl (fun s f => s.failPacket cause 3 f.pkt) s

/-- The link lies on the way from a slot's core to an address. -/
def State.over (s : State) (l : LinkId) (w : Who) (pa : Nat) : Bool :=
  decide (l ∈ s.linksBetween (some w.core.stack) (some (s.homeStack pa)))

/-- A parked global access of the slot had a part outstanding across the link (06 R139). -/
def State.acrossLink (s : State) (w : Who) (l : LinkId) : Bool :=
  let lies := s.over l w
  let sl := s.slot w
  sl.reply.isNone && (match sl.wait with
    | .glob r => r.parts.any fun p => lies p.2.1
    | .sys (.cmstore _ ls _) => ls.any fun x => lies x.line
    | _ => false)

/-- The address a parked global access reports when its way is lost (log entry 45). -/
def Wait.lostAt : Wait → Word
  | .glob r => r.va
  | _ => 0

/-- The queued stores of a slot across a link end with an error: they leave the queue unperformed and count as failed items (06 R139, 17 R381;
log entry 45). -/
def State.failStores (s : State) (w : Who) (l : LinkId) : State :=
  let bad (p : StorePart) : Bool := s.over l w p.pa
  let q := (s.slot w).storeQ
  let n := (q.filter fun e => e.parts.any bad).length
  if n = 0 then s
  else
    let q' := (q.map fun e => { e with parts := e.parts.filter fun p => !bad p }).filter fun e => !e.parts.isEmpty
    (s.modSlot w fun sl => { sl with storeQ := q' }).failItems w.core n

/-- A packet's route crosses the link. -/
def Flight.crosses (f : Flight) (l : LinkId) : Bool :=
  f.route.any fun h => match h with
    | .link x _ => decide (x = l)
    | .router _ _ _ => false

/-- A link is lost: what is in flight across it fails (06 R139). A slot parked on a global access across it traps with class 0x09, sub-cause 0x03
(log entry 45). -/
def State.loseLink (s : State) (l : LinkId) : State :=
  let hit := s.allSlots.filter fun w => s.acrossLink w l
  let s := s.allSlots.foldl (fun (s : State) (w : Who) => s.failStores w l) s
  let t := (s.setLink l ⟨.lost, 0⟩).failFlights (·.crosses l) 0x21
  hit.foldl (fun s w => s.modSlot w fun sl => { sl with reply := some (.trap 9 3 sl.wait.lostAt) }) t

/-- A link whose retraining has run out is lost (06 R139). -/
def execUcieLinkLost (l : LinkId) (s : State) : Out :=
  match (s.link l).st with
  | .retrain t => if t + 100000 ≤ s.cycle then .next (s.loseLink l) else .next s
  | _ => .next s

/-! ## Collective messages (13 R270, R272) -/

/-- The job of the launch a core belongs to. -/
def State.ownJob (s : State) (w : Who) : BitVec 32 := ((s.launchOf w.core).map (·.job)).getD 0

/-- Every collective operation of a job at this module. -/
def State.jobColls (s : State) (job : BitVec 32) : List (Who × CollOp) :=
  ((s.allSlots.filter fun w => decide (s.ownJob w = job)).map fun w => (s.slot w).xctx.ops.map fun o => (w, o)).flatten

def CollOp.tag (o : CollOp) (job : BitVec 32) : CollTag := ⟨job, o.chan, o.seq, o.view⟩

def State.modView (s : State) (job : BitVec 32) (f : JobView → JobView) : State :=
  if s.views.any fun v => v.job == job then { s with views := s.views.map fun v => if v.job == job then f v else v }
  else { s with views := s.views ++ [f (.fresh job)] }

/-- An operation whose final result is to be forwarded to this member (13 R270): its view is no longer the installed one. -/
def State.awaits (s : State) (t : CollTag) : Bool :=
  (s.jobColls t.job).any fun x => x.2.st == .running && decide (x.2.tag t.job = t)

/-- A range of ranks is a node of the tree over `c` members (03 R66). -/
def treeNode (c lo hi : Nat) : Bool :=
  decide (lo < hi) && (List.range 13).any fun k => lo % 2 ^ k == 0 && hi == min (lo + 2 ^ k) c

/-- A partial covers a range that the unit still expects: a node of the tree, none of whose ranks it holds already (13 R272). -/
def JobView.expects (v : JobView) (t : CollTag) (lo hi : Nat) : Bool :=
  treeNode v.view.count lo hi && !v.inbox.any fun x => decide (x.1 = t) && (match x.2 with
    | .part a b _ => decide (lo < b) && decide (a < hi)
    | _ => false)

/-- The unit keeps a message: one of the installed view, a partial among them only of a range it expects; word of an operation's issue under a
view this module has not installed yet; and a final result forwarded for an operation of an earlier view, or of the installed one by a member
whose commit came first. Any other is discarded (13 R270, R272). -/
def State.keepsMail (s : State) (t : CollTag) (b : CollBody) : Bool :=
  let v := s.viewOf t.job
  match b with
  | .issue _ _ _ => decide (v.view.num ≤ t.view)
  | .forward _ => decide (t.view = v.view.num) || s.awaits t
  | .part lo hi _ => decide (t.view = v.view.num) && v.expects t lo hi
  | _ => decide (t.view = v.view.num)

/-- A collective message joins the unit's mail, or is discarded (13 R272). -/
def State.mailIn (s : State) (t : CollTag) (b : CollBody) : State :=
  if s.keepsMail t b then s.modView t.job fun v => { v with inbox := v.inbox ++ [(t, b)] } else s

/-! ## Arrivals from the fabric -/

/-- Where a packet from the fabric goes on this module. -/
def State.inboundDst (s : State) (b : Body) : Dst :=
  match b with
  | .mbInc c _ _ _ => .core c
  | .msg c _ => .core c
  | .rreq _ _ _ _ _ _ => .mdl s.modId
  | .rrep d _ _ => .core d.who.core
  | .rack d _ _ => .core d.who.core
  | .eqEntry d _ _ => .core d.who.core
  | .treq q => s.tileDst q.name
  | .trep d _ _ _ => .core d.who.core
  | .tfill n _ _ _ _ => s.tileDst n
  | .tdata d _ _ => .core d.who.core
  | .notice d _ _ _ _ _ => .core d.who.core
  | .gate c _ _ => .core c
  | .task _ _ _ c _ => .core c
  | .tacc d _ _ => .core d.who.core
  | .join _ _ _ c _ _ => .core c
  | .roam c _ => .core c
  | .roamTo _ _ => .mdl s.modId
  | .home g _ => .core g.home.who.core
  | .dline _ c _ _ _ => .core c
  | .dinc _ c _ _ => .core c
  | _ => .io

/-- A thread away is at another module now (12 R262, R263). -/
def State.guestAt (s : State) (h : Agent) (m : Fin 4096) : State :=
  s.modSlot h.who fun sl => if sl.away.isSome then { sl with awayAt := m } else sl

/-- A packet from the fabric, handed to the die network as a local one; task acceptances, word of the loss of a fill or of a thread and of where
a thread is, and collective messages act at once (log entry 39). -/
def State.arrive (s : State) (p : Packet) : State :=
  match p.body with
  | .tacc d n ok => s.taskAck d n ok
  | .fillLost n v => s.soon (.fillFail n v)
  | .lostGuest h => s.soon (.guestLost h.who)
  | .guestAt h m => s.guestAt h m
  | .coll t b => s.mailIn t b
  | .view _ (.heartbeat _) => s
  | _ => s.inject { p with dst := s.inboundDst p.body }

/-- An answer made on this module goes to its requester. -/
def State.giveAnswer (s : State) (p : Packet) : State :=
  match p.dst with
  | .mdl m => if m = s.modId then s.arrive p else s.ergSend p
  | _ => s.arrive p

/-- The number of the request a reply answers. -/
def answers (rep req : Body) : Bool :=
  match rep, req with
  | .rrep d i _, .rreq src id _ _ _ _ => decide (src = d) && id == i
  | .rack d i _, .rreq src id _ _ _ _ => decide (src = d) && id == i
  | _, _ => false

/-- The source of a packet as this module sees it: another module's agents that are no slots are not its own (06 R128, 12 R248). -/
def srcSeen (me m : Fin 4096) (x : Src) : Src :=
  match x with
  | .slot a => .slot a
  | .mdl k => .mdl k
  | .far k y => .far k y
  | y => if m = me then y else .far m y

/-- A packet comes out of a plane at this module. A reply that a switch of the plane combined returns to that switch first, the last
combination first (12 R252). Any packet shows its source module alive (13 R268). -/
def State.arriveAt (s : State) (plane : Nat) (m : Fin 4096) (p : Packet) : State :=
  let s := { s with views := s.views.map fun (v : JobView) => { v with heard := assocSet v.heard m s.cycle } }
  let p := { p with src := srcSeen s.modId m p.src }
  let at_ (st : Nat) : Option (Nat × Switch) := (s.planeSwitches plane).find? fun x =>
    x.1 / 32 % 3 == st && x.2.wait.any fun c => answers p.body c.a.body
  match (at_ 2).orElse fun _ => (at_ 1).orElse fun _ => at_ 0 with
  | some (n, sw) => s.setSwitch n { sw with replies := sw.replies ++ [p] }
  | none => match p.body with
    | .rack _ _ _ => s.arrive { p with src := .mdl m }
    | _ => s.arrive p

/-! ## Erg ports (12 R249-R251) -/

/-- Flits before the acknowledged number leave the replay buffer, and NAKs of them are forgotten (12 R250); their packets are beside. -/
def Port.acked (p : Port) (n : Fin 4096) : Port × List (Fin 4096 × Packet) :=
  let done (f : Flit) : Bool := decide ((n - f.seq - 1).val < 2048)
  let live (q : Fin 4096) : Bool := p.unacked.any fun f => f.seq == q && !done f
  ({ p with
      unacked := p.unacked.filter fun f => !done f, naks := p.naks.filter fun x => live x.1, resend := p.resend.filter live },
    ((p.unacked.filter done).map (·.payload)).flatten)

/-- A NAK of one of the port's flits: it is counted, and sent again (12 R250, R251). -/
def Port.naked (p : Port) (n : Fin 4096) : Port :=
  if p.unacked.any fun f => decide (f.seq = n) then
    { p with naks := assocSet p.naks n (assocD p.naks n 0 + 1), resend := if n ∈ p.resend then p.resend else p.resend ++ [n] }
  else p

/-- Held flits that have become next are delivered in order. -/
def Port.release : Nat → Port → Port × List (Fin 4096 × Packet)
  | 0, p => (p, [])
  | n + 1, p =>
    match p.held.find? fun h => decide (h.1 = p.expect) with
    | none => (p, [])
    | some (q, ps) =>
      let (p', r) := Port.release n { p with
        expect := p.expect + 1, held := p.held.filter fun h => decide (h.1 ≠ q), gaps := p.gaps.filter fun g => decide (g.1 ≠ q)
        toNak := p.toNak.filter fun x => decide (x ≠ q) }
      (p', ps ++ r)

/-- The numbers from `a` on, `n` of them. -/
def seqRange (a : Fin 4096) (n : Nat) : List (Fin 4096) := (List.range n).map fun i => a + Fin.ofNat 4096 i

/-- A data flit: delivered in order, held behind a gap with a NAK for each missing number, or discarded as known (12 R250). -/
def Port.data (p : Port) (cycle : Nat) (f : Flit) : Port × List (Fin 4096 × Packet) :=
  let d := (f.seq - p.expect).val
  if 1024 ≤ d ∨ p.held.any (fun h => decide (h.1 = f.seq)) then (p, [])
  else
    let missing := (seqRange p.expect d).filter fun n =>
      !(p.held.any fun h => decide (h.1 = n)) && !(p.gaps.any fun g => decide (g.1 = n))
    let p := { p with
      held := p.held ++ [(f.seq, f.payload)], gaps := (p.gaps.filter fun (g : Fin 4096 × Nat × Nat) => decide (g.1 ≠ f.seq)) ++ missing.map fun n => (n, cycle, 1)
      toNak := (p.toNak.filter fun n => decide (n ≠ f.seq)) ++ missing }
    p.release (p.held.length + 1)

/-- A flit received: checked, its acknowledgement and NAK taken, its data delivered in order (12 R249, R250). The packets acknowledged have
entered the plane. -/
def execErgFlitReceive (i : Fin 16) (f : Flit) (good : Bool) (s : State) : Out :=
  let p := s.ports[i]
  if p.st ≠ .up then .next s
  else if !good ∨ 3 ≤ f.ty.val then .next { s with ports := s.ports.set i { p with discarded := p.discarded + 1 } }
  else
    let (p, gone) := p.acked f.ack
    let p := match f.nak with | some n => p.naked n | none => p
    let (p, ps) := if f.ty = 1 then (p, []) else p.data s.cycle f
    let s := { s with ports := s.ports.set i p }
    let s := gone.foldl (fun (s : State) (x : Fin 4096 × Packet) => s.enterSwitch (inSwitch i.val x.1) (x.1.val % 128) x.1 x.2 none) s
    .next (ps.foldl (fun (s : State) (x : Fin 4096 × Packet) => s.arriveAt i.val x.1 x.2) s)

def execErgNak (i : Fin 16) (seq : Fin 4096) (s : State) : Out :=
  if s.ports[i].st = .up then .next { s with ports := s.ports.set i (s.ports[i].naked seq) } else .next s

/-- A gap still standing 2,048 flit times after its NAK is NAKed again: a flit time is one nanosecond, 1.7 cycles (12 R249, R250). -/
def execErgGapRenak (i : Fin 16) (seq : Fin 4096) (s : State) : Out :=
  let p := s.ports[i]
  let due (g : Fin 4096 × Nat × Nat) : Bool := decide (g.1 = seq) && decide (2048 * s.clock ≤ 1000 * (s.cycle - g.2.1))
  let p := { p with
    toNak := if p.gaps.any due ∧ seq ∉ p.toNak then p.toNak ++ [seq] else p.toNak
    gaps := p.gaps.map fun (g : Fin 4096 × Nat × Nat) => if due g then (g.1, s.cycle, g.2.2 + 1) else g }
  .next { s with ports := s.ports.set i p }

/-- Eight NAKs of one number were received or sent. -/
def Port.eight (p : Port) : Bool := p.naks.any (fun n => decide (8 ≤ n.2)) || p.gaps.any (fun g => decide (8 ≤ g.2.2))

def execErgPortRetrain (i : Fin 16) (s : State) : Out :=
  let p := s.ports[i]
  if p.st = .up ∧ p.eight then .next { s with ports := s.ports.set i { p with st := .retrain s.cycle, line := none } } else .next s

/-- A retrained port goes on from where it stood (12 R251). -/
def execErgPortRestored (i : Fin 16) (s : State) : Out :=
  let p := s.ports[i]
  match p.st with
  | .retrain t =>
    if s.cycle < t + 200000 then
      .next { s with ports := s.ports.set i { p with st := .up, naks := [], gaps := p.gaps.map fun g => (g.1, s.cycle, 1) } }
    else .next s
  | _ => .next s

/-- A new data flit, kept in the replay buffer (12 R250). -/
def Port.fill (p : Port) (me : Fin 4096) (nak : Option (Fin 4096)) : Port :=
  let (d, w, o) := fillFlit 200 p.offset p.waiting
  let f : Flit := ⟨p.seq, p.expect, nak, 0, d.map fun q => (me, q)⟩
  { p with seq := p.seq + 1, unacked := p.unacked ++ [f], waiting := w, offset := o, line := some f }

/-- The flit a port sends next: a NAKed one again, a new one while fewer than 1,024 are unacknowledged, else an idle one. Each carries the
acknowledgement, and a NAK where one is due. Which of the first two goes first is open (12 R249, R250). -/
def Port.sendFlit (me : Fin 4096) (p : Port) (old : Bool) : Port :=
  let nak := p.toNak.head?
  let p := { p with toNak := p.toNak.tail }
  let fresh : Bool := !p.waiting.isEmpty && decide (p.unacked.length < 1024)
  match p.resend, p.resend.head?.bind fun n => p.unacked.find? fun f => f.seq == n with
  | _ :: r, some f =>
    if old ∨ ¬ fresh then { p with resend := r, line := some { f with ack := p.expect, nak := nak, ty := 2 } }
    else p.fill me nak
  | _, _ => if fresh then p.fill me nak else { p with line := some ⟨p.seq, p.expect, nak, 1, []⟩ }

/-- Every nanosecond each port that is up sends one flit (12 R249). -/
def State.sendFlits (s : State) : State :=
  if (s.cycle + 1) * 1000 / s.clock = s.cycle * 1000 / s.clock then s
  else (List.finRange 16).foldl (fun (s : State) (i : Fin 16) =>
    let p := s.ports[i]
    if p.st ≠ .up then s
    else
      let (k, s) := if p.resend.isEmpty ∨ p.waiting.isEmpty then (1, s) else s.pick 2
      { s with ports := s.ports.set i (p.sendFlit s.modId (k == 1)) }) s

/-- A lost port's plane as seen from here: what is in its switches fails, the requests combined there and the replies among it (12 R251). -/
def State.failPlane (s : State) (plane : Nat) : State :=
  let sws := s.planeSwitches plane
  let s := { s with
    switches := s.switches.map fun (x : Nat × Switch) => if x.1 / 96 = plane then (x.1, { Switch.reset with groups := x.2.groups, out := x.2.out }) else x }
  sws.foldl (fun (s : State) (x : Nat × Switch) =>
    let s := x.2.queue.foldl (fun (s : State) (q : SwPacket) => match q.pkt.dst with
      | .group g =>
        let outs := if q.reserved.isEmpty then s.mask x.1 g else q.reserved
        (s.fanOut g 3 x.1 outs).foldl (fun (s : State) m => s.failPacket 0x21 3 { q.pkt with dst := .mdl m }) s
      | _ => s.failPacket 0x21 3 q.pkt) s
    let s := x.2.wait.foldl (fun (s : State) (c : Combined) => s.failPacket 0x21 3 c.b) s
    x.2.replies.foldl (fun (s : State) (q : Packet) => s.failPacket 0x21 3 q) s) s

/-- The modules something of this one waits on: a remote reply, a tile answer, an acknowledgement, a task not yet accepted, a delivery, a fill, a
gate's notice, a thread away. -/
def State.awaited (s : State) : List (Fin 4096) :=
  let of (w : Who) : List (Fin 4096) :=
    let sl := s.slot w
    (match sl.wait with
      | .remote _ _ => [tileMod sl.object]
      | .rjoin _ _ m => [m]
      | .tile _ n => [tileMod n]
      | .roam => [sl.awayAt]
      | _ => []) ++ (sl.outst.map (·.left)).flatten ++ sl.tctx.ops.map (·.mod)
  (((s.allSlots.map of).flatten ++ s.deliveries.map (·.dst.mod) ++
    ((s.names.map fun r => (r.vers.filter fun e => e.st == .filling).map (·.producer.mod)).flatten) ++
    (s.cores.map fun x => x.2.gates.map fun g => tileMod g.q.task.gname).flatten).eraseDups).filter (· ≠ s.modId)

/-- A port whose retraining has run out is lost: its packets and those in its plane fail item by item, and the loss is an event (12 R251). With
the last port every path to every module is lost (12 R255, R263, 05 R111). -/
def execErgPortLost (i : Fin 16) (s : State) : Out :=
  let p := s.ports[i]
  match p.st with
  | .retrain t =>
    if t + 200000 ≤ s.cycle then
      let pkts := ((p.unacked.map fun f => f.payload.map (·.2)).flatten) ++ p.waiting
      let s := { s with ports := s.ports.set i { Port.reset with st := .lost, discarded := p.discarded } }
      let s := pkts.foldl (fun (s : State) (q : Packet) => s.failPacket 0x21 3 q) s
      let s := s.failPlane i.val
      let s := if s.planes.isEmpty then
          let ms := s.awaited
          ms.foldl (fun (s : State) m => s.loseModule m 0x21 none) s
        else s
      .next (s.raise .portLost 6 [i.val])
    else .next s
  | _ => .next s

/-! ## Switches: combining, replies, forwarding (12 R252, R253) -/

/-- The addend of a combinable request: `ramo.add`. -/
def addend (p : Packet) : Option (BitVec 32 × Word × Width × Word) :=
  match p.body with
  | .rreq _ _ job va (.amo .add w x) _ => some (job, va, w, x)
  | _ => none

/-- Two requests come from one launch of this module (12 R252). -/
def State.oneLaunch (s : State) (a b : Body) : Bool :=
  match a, b with
  | .rreq x _ _ _ _ _, .rreq y _ _ _ _ _ =>
    decide (x.mod = s.modId) && decide (y.mod = s.modId) && decide ((s.core x.who.core).launch = (s.core y.who.core).launch)
  | _, _ => false

/-- Two requests of one output queue are combined: the first goes on with both addends, and returns a value where either needs one; the second
waits for its reply (12 R252). -/
def execSwitchCombine (n i j : Nat) (s : State) : Out :=
  let sw := s.switch n
  match sw.queue[i]?, sw.queue[j]? with
  | some x, some y =>
    match addend x.pkt, addend y.pkt with
    | some (ja, va, wa, xa), some (jb, vb, wb, xb) =>
      if i < j ∧ ja = jb ∧ va = vb ∧ wa = wb ∧ x.pkt.dst = y.pkt.dst ∧ x.out = y.out ∧ x.reserved = [] ∧ y.reserved = [] ∧
          s.oneLaunch x.pkt.body y.pkt.body ∧ sw.wait.length < 512 ∧ !(sw.queue.take j).any (fun z => y.pkt.sameFlow z.pkt) then
        match x.pkt.body, y.pkt.body with
        | .rreq src id _ _ _ pa, .rreq _ _ _ _ _ pb =>
          let x' := { x with pkt := { x.pkt with body := .rreq src id ja va (.amo .add wa (xa + xb)) (pa && pb) } }
          .next (s.setSwitch n { sw with queue := (sw.queue.set i x').eraseIdx j, wait := sw.wait ++ [⟨x.pkt, y.pkt, xa⟩] })
        | _, _ => .next s
      else .next s
    | _, _ => .next s
  | _, _ => .next s

/-- The answer to one of two combined requests, from the answer to the request that went on: its own old value, an acknowledgement where it was
posted, or the failure (12 R252). -/
def splitReply (req rep : Body) (from_ : Fin 4096) (plus : Word) : Body :=
  match req, rep with
  | .rreq src id _ _ (.amo _ w _) true, .rrep _ _ (.ok _) => .rack src id none
  | .rreq src id _ _ _ true, .rrep _ _ (.fail _ cause) => .rack src id (some ⟨cause, from_, 1⟩)
  | .rreq src id _ _ (.amo _ w _) false, .rrep _ _ (.ok bs) => .rrep src id (.ok (leBytes w.bytes (leNat bs + plus.toNat)))
  | .rreq src id _ _ _ false, .rrep _ _ (.fail sub cause) => .rrep src id (.fail sub cause)
  | .rreq src id _ _ _ _, .rack _ _ r => .rack src id r
  | _, b => b

/-- The reply to a combined request answers both: the old value to the first, the old value plus the first's addend to the second; a failure
fails both (12 R252). The combination made last is undone first. -/
def execCombinedReply (n k : Nat) (s : State) : Out :=
  let sw := s.switch n
  match sw.replies[k]? with
  | none => .next s
  | some p =>
    let gone := s.setSwitch n { sw with replies := sw.replies.eraseIdx k }
    match (List.range sw.wait.length).reverse.find? fun x => (sw.wait[x]?).any fun c => answers p.body c.a.body with
    | none => .next (gone.arriveAt (n / 96) ((srcMod p.src).getD s.modId) p)
    | some x => match sw.wait[x]? with
      | none => .next s
      | some c =>
        let m := (srcMod p.src).getD s.modId
        let a : Packet := { p with body := splitReply c.a.body p.body m 0 }
        let b : Packet := { p with body := splitReply c.b.body p.body m c.addA }
        .next (s.setSwitch n { sw with replies := sw.replies.eraseIdx k ++ [a, b], wait := sw.wait.eraseIdx x })

/-- The outputs a packet needs at a switch: its own, or those of its group's mask (12 R253). -/
def State.needs (s : State) (n : Nat) (x : SwPacket) : List Nat :=
  match x.out, x.pkt.dst with
  | some o, _ => [o]
  | none, .group g => (List.range 128).filter fun o => decide (o ∈ s.mask n g)
  | none, _ => []

/-- A packet passes one of its reserved outputs: to the next stage, to this module, or out to another (12 R247, R253). -/
def State.passOut (s : State) (n o : Nat) (x : SwPacket) : State :=
  if n / 32 % 3 < 2 then
    let (n', i) := nextSwitch n o
    s.enterSwitch n' i x.mod x.pkt (some (if n / 32 % 3 = 0 then o else x.lane))
  else
    let m : Fin 4096 := Fin.ofNat 4096 (n % 32 * 128 + o)
    if m = s.modId then s.arriveAt (n / 96) x.mod x.pkt
    else let sw := s.switch n; s.setSwitch n { sw with out := sw.out ++ [(m.val, x.pkt)] }

/-- A switch that knows of the view this module has installed discards a collective message of another one (13 R272); a final result forwarded by
a commit's order carries the earlier view. -/
def State.oldTag (s : State) (p : Packet) : Bool :=
  match p.body with
  | .coll _ (.forward _) => false
  | .coll t _ => decide (t.view ≠ (s.viewOf t.job).view.num)
  | _ => false

/-- A packet at the head of its channel moves on: it reserves every output it needs at once, where none is reserved by another packet, then
passes them in ascending order, each reservation ending as it passes (12 R253). A packet for one module needs one output. Whether a switch has
learnt of a commit is open (13 R272, log entry 47). -/
def execMulticastForward (n k : Nat) (s : State) : Out :=
  let sw := s.switch n
  match sw.queue[k]? with
  | none => .next s
  | some x =>
    if !sw.isHead k then .next s
    else match x.reserved with
    | [] =>
      let outs := s.needs n x
      let (known, s) := if s.oldTag x.pkt then s.pick 2 else (0, s)
      if outs.isEmpty ∨ known = 1 then .next ((s.setSwitch n { sw with queue := sw.queue.eraseIdx k }).livePins)
      else if sw.queue.any fun y => outs.any fun o => decide (o ∈ y.reserved) then .next s
      else .next (s.setSwitch n { sw with queue := sw.queue.set k { x with reserved := outs } })
    | o :: r =>
      let q := if r.isEmpty then sw.queue.eraseIdx k else sw.queue.set k { x with reserved := r }
      .next (((s.setSwitch n { sw with queue := q }).passOut n o x).livePins)

end Sys2Proof.Machine
end

