-- ==== Sys2Proof/Machine/Transcendental.lean ====
section
/-! DEFINITION. The correctly rounded `vexp2`, `vlog2`, `vrcp` and `vrsq` (10 R213). The exact result is enclosed; where both ends of the
enclosure round alike that is the result, else the value is free (log entry 7). -/

namespace Sys2Proof.Machine

/-- An FP32 or bf16 result with its flags. -/
abbrev LRes := Nat × FFlags

/-! ## 2 ^ x -/

/-- The bits of the enclosures. -/
def tPrec : Nat := 96

/-- One bit of the exponent taken in: `sqrt (2 ^ b * r)` for both ends of an enclosure of `r`, in units of `2 ^ -tPrec`. -/
def expStep (b : Bool) (r : Nat × Nat) : Nat × Nat :=
  let x := if b then 2 ^ (tPrec + 1) else 2 ^ tPrec
  (isqrt (r.1 * x), isqrt (r.2 * x) + 1)

/-- An enclosure of `2 ^ (0.b1 b2 … bn…)`, the `n` bits of `f` from the highest down; what follows them lies in [0, 1). -/
def expBits (f : Nat) : Nat → Nat × Nat
  | 0 => (2 ^ tPrec, 2 ^ (tPrec + 1))
  | n + 1 => expStep (f.testBit n) (expBits f n)

/-- `expBits` takes the lowest bit first, so that the highest is applied last. -/
def exp2Enc (m : Nat) (e : Int) : Nat × Nat :=
  -- the fraction of m * 2 ^ e in 90 bits
  let f := if 0 ≤ e + 90 then m * 2 ^ (e + 90).toNat % 2 ^ 90 else m / 2 ^ (-(e + 90)).toNat % 2 ^ 90
  expBits f 90

/-- A value strictly between `lo` and `hi`, in units of `2 ^ u`: rounded where both ends agree, else free. -/
def roundEnc (op : Nat) (t : ETy) (d : Dir) (neg : Bool) (lo hi : Nat) (u : Int) (x : Nat × Int) : LRes :=
  let a := tyEncode t d (.fin neg (2 * lo + 1) (u - 1))
  let b := tyEncode t d (.fin neg (2 * hi - 1) (u - 1))
  if a = b then a else ((Config.freeRound op neg x.1 x.2).toNat % 2 ^ tyBits t, a.2)

/-- `2 ^ x` for a finite `x` (10 R213). -/
def exp2Fin (t : ETy) (d : Dir) (neg : Bool) (m : Nat) (e : Int) : LRes :=
  if m = 0 then tyEncode t d (.fin false 1 0)
  else if 9 ≤ e + Nat.log2 m then tyEncode t d (.fin false 1 (if neg then -400 else 400))
  -- below 2 ^ -64 in magnitude the result lies strictly between 1 and its neighbours in the type
  else if e + Nat.log2 m < -64 then tyEncode t d (.fin false (if neg then 2 ^ 100 - 1 else 2 ^ 100 + 1) (-100))
  else
    let whole : Int := (m * 2 ^ e.toNat / 2 ^ (-e).toNat : Nat)
    if fractional m e then
      if neg then
        -- x = -(whole + 1) + (1 - fraction)
        let k := (-e).toNat
        let (lo, hi) := exp2Enc (2 ^ k - m % 2 ^ k) e
        roundEnc 0 t d false lo hi (-(tPrec : Int) - whole - 1) (m, e)
      else
        let (lo, hi) := exp2Enc (m % 2 ^ (-e).toNat) e
        roundEnc 0 t d false lo hi (-(tPrec : Int) + whole) (m, e)
    else tyEncode t d (.fin false 1 (if neg then -whole else whole))

def exp2V (t : ETy) (d : Dir) (v : Fv) : LRes :=
  match v with
  | .nan _ => finish t d (v, sigFlag [v])
  | .inf neg => tyEncode t d (if neg then .fin false 0 0 else .inf false)
  | .fin neg m e => exp2Fin t d neg m e

/-! ## log2 x -/

/-- The bits of `log2 y` for y in [1, 2) enclosed by `lo` and `hi` in units of `2 ^ -256`: each squaring gives the next bit; `none` where
the enclosure no longer tells. -/
def logBits (lo hi acc : Nat) : Nat → Option Nat
  | 0 => some acc
  | n + 1 =>
    let l := lo * lo / 2 ^ 256
    let h := hi * hi / 2 ^ 256 + 1
    if 2 ^ 257 ≤ l then logBits (l / 2) (h / 2 + 1) (2 * acc + 1) n
    else if h ≤ 2 ^ 257 then logBits l h (2 * acc) n
    else none

/-- `log2` of a positive finite value that is no power of two: `n + 0.bits`, with 100 bits. -/
def log2Fin (t : ETy) (d : Dir) (m : Nat) (e : Int) : LRes :=
  let k := Nat.log2 m
  let n : Int := e + k
  if m = 2 ^ k then tyEncode t d (.ofInt n)
  else
    let y := m * 2 ^ (256 - k)
    match logBits y y 0 100 with
    | none => ((Config.freeRound 1 false m e).toNat % 2 ^ tyBits t, fInexact)
    | some b =>
      -- the value lies strictly between x and x + 1, in units of 2 ^ -100
      let x : Int := n * 2 ^ 100 + b
      let v : Fv := .fin (decide (x < 0)) (2 * x + 1).natAbs (-101)
      tyEncode t d v

def log2V (t : ETy) (d : Dir) (v : Fv) : LRes :=
  match v with
  | .nan _ => finish t d (v, sigFlag [v])
  | .inf neg => finish t d (if neg then (.nan false, fInvalid) else (.inf false, 0))
  | .fin neg m e =>
    if m = 0 then finish t d (.inf true, fDivZero)
    else if neg then finish t d (.nan false, fInvalid)
    else log2Fin t d m e

/-! ## 1 / x and 1 / √x -/

def rcpV (t : ETy) (d : Dir) (v : Fv) : LRes := finish t d (fDiv (.fin false 1 0) v)

/-- `1 / √(m * 2 ^ e)`: the root of `2 ^ k / m` cut to an integer, with a last bit that says whether it is cut. -/
def rsqFin (m : Nat) (e : Int) : Fv :=
  let k : Nat := 2 * (Nat.log2 m + 60) + (if e % 2 = 0 then 0 else 1)
  let r := isqrt (2 ^ k / m)
  .fin false (2 * r + (if r * r * m = 2 ^ k then 0 else 1)) (-((e + k) / 2) - 1)

def rsqV (t : ETy) (d : Dir) (v : Fv) : LRes :=
  match v with
  | .nan _ => finish t d (v, sigFlag [v])
  | .inf neg => finish t d (if neg then (.nan false, fInvalid) else (.fin false 0 0, 0))
  | .fin neg m e =>
    if m = 0 then finish t d (.inf neg, fDivZero)
    else if neg then finish t d (.nan false, fInvalid)
    else finish t d (rsqFin m e, 0)

end Sys2Proof.Machine
end

