-- ==== Sys2Proof/Machine/Copy.lean ====
section
/-! DEFINITION. Bank formats, the copy unit and timelines (07 R145-R162, R169). -/

namespace Sys2Proof.Machine

/-! ## Bank formats (07 R145-R147) -/

def fmtType (f : Word) : Nat := (f.extractLsb' 0 4).toNat
def fmtGeo (f : Word) : Nat := (f.extractLsb' 16 2).toNat
def fmtRow (f : Word) : Nat := (f.extractLsb' 18 14).toNat
def fmtScale (f : Word) : Nat := (f.extractLsb' 32 14).toNat
def fmtFill (f : Word) : Nat := (f.extractLsb' 48 16).toNat

/-- A value a bank format register may hold (07 R145, R147). -/
def fmtLegal (f : Word) : Bool :=
  let t := fmtType f
  let g := fmtGeo f
  decide (f.extractLsb' 46 2 = 0) && decide (f.extractLsb' 4 12 = 0) && (decide (t ≤ 6) || decide (t = 8)) &&
    decide (g ≤ 2) && (decide (g = 0) || ((decide (t = 2) || decide (t = 3)) && decide (fmtRow f ≠ 0)))

/-- The bank an operand names; above 11 the instruction traps. -/
def withBank (h : Hdr) (s : State) (a : SI) (k : Fin 12 → Out) : Out :=
  homeOnly h s (
    let x := (s.me.rsi a).toNat
    if hx : x < 12 then k ⟨x, hx⟩ else trap s 6 6 (s.me.rsi a))

def execBfmt (h : Hdr) (d : SReg) (a : SI) (b : SReg) (s : State) : Out :=
  withBank h s a fun i =>
    let x := s.me.rs b
    let old := s.myCore.fmt[i]
    if fmtLegal x then retire (s.modMyCore fun c => { c with fmt := c.fmt.set i x }) fun sl => sl.ws d old
    else trap s 6 6 x

def execBfmtr (h : Hdr) (d : SReg) (a : SI) (s : State) : Out :=
  withBank h s a fun i => retire s fun sl => sl.ws d s.myCore.fmt[i]

/-! ## Elements and their places -/

/-- An element of `w` bytes, or for `w = 0` the t6 element `j` of a packed sequence (03 R53). -/
structure Loc where
  space : Space
  addr : Nat
  j : Nat
  w : Nat
  deriving DecidableEq, Repr, Inhabited

/-- The bytes an element shares in: its own, or its group's. -/
def Loc.base (l : Loc) : Nat := if l.w = 0 then l.addr + 3 * (l.j / 4) else l.addr
def Loc.len (l : Loc) : Nat := if l.w = 0 then 3 else l.w
def Loc.words (l : Loc) : List Nat := wordsOf l.base l.len

/-- The element's bits, from bytes. -/
def Loc.get (l : Loc) (rd : Nat → Byte) : Nat :=
  let x := leNat ((List.range l.len).map fun i => rd (l.base + i))
  if l.w = 0 then x / 2 ^ (6 * (l.j % 4)) % 64 else x

/-- The bytes that put the element's bits in place. -/
def Loc.put (l : Loc) (rd : Nat → Byte) (x : Nat) : List Byte :=
  if l.w = 0 then
    let g := leNat ((List.range 3).map fun i => rd (l.base + i))
    let p := 2 ^ (6 * (l.j % 4))
    leBytes 3 (g - g / p % 64 * p + x % 64 * p)
  else leBytes l.w x

/-- An element put into a memory of bytes. -/
def Loc.into (l : Loc) (m : Memory) (x : Nat) : Memory := m.write l.base (l.put m.get x)

/-- The bytes of an element type by its code; 0 for packed t6 (03 R47). -/
def codeBytes (t : Nat) : Nat := if t = 0 ∨ t = 4 then 4 else if t = 1 ∨ t = 5 then 2 else if t = 3 then 0 else 1

/-- The type a code stands for. -/
def codeTy (t : Nat) : ETy :=
  match t with
  | 0 => .fp32 | 1 => .bf16 | 2 => .t8 | 3 => .t6 | 4 => .i32 | 5 => .i16 | 6 => .i8 | _ => .i8

/-- A raw side takes the element width of the other; two raw sides move bytes (07 R150). -/
def layout (t other : Nat) : Nat := if t = 8 then (if other = 8 then 6 else other) else t

/-- A bank's format at an address. -/
def fmtAt (fmts : Vector Word 12) (a : Nat) : Word := (fmts.toList[a / 16384]?).getD fmtRaw

/-- The fill value of a bank's elements (07 R153). -/
def fillOf (f : Word) : Nat :=
  match fmtType f with
  | 0 => fmtFill f * 65536
  | 4 => fmtFill f * 65536
  | 1 => fmtFill f
  | 5 => fmtFill f
  | 3 => fmtFill f % 64
  | _ => fmtFill f % 256

/-- The scale byte of element `q` of a scaled bank, counted from the bank's base (07 R145). -/
def scaleAt (f : Word) (bank q : Nat) : Nat :=
  let l := fmtRow f
  bank + fmtScale f + if fmtGeo f = 1 then q / l * ceilDiv l 32 + q % l / 32 else q / l / 32 * l + q % l

/-- The first byte that holds a bit of the element; its bank is the element's own (07 R150). -/
def Loc.at_ (l : Loc) : Nat := if l.w = 0 then l.base + 6 * (l.j % 4) / 8 else l.base

/-- The bank an element stands in: the address of its first byte. -/
def Loc.bank (l : Loc) : Nat := l.at_ / 16384 * 16384

/-- The element's number, counted from its bank's base (07 R145). -/
def Loc.num (l : Loc) : Nat := if l.w = 0 then (8 * l.base + 6 * (l.j % 4) - 8 * l.bank) / 6 else (l.base - l.bank) / l.w

/-- The scale byte of a scratchpad element, where its own bank is scaled (07 R150, R152). -/
def scaleOf (fmts : Vector Word 12) (l : Loc) : Option Nat :=
  let f := fmtAt fmts l.at_
  if l.space ≠ .sp ∨ fmtGeo f = 0 then none else some (scaleAt f l.bank l.num)

/-- The element's scale byte lies outside its bank's scale bytes (07 R145). -/
def badScale (fmts : Vector Word 12) (l : Loc) : Bool :=
  match scaleOf fmts l with
  | none => false
  | some a => !(decide (l.bank + fmtScale (fmtAt fmts l.at_) ≤ a) && decide (a < l.bank + 16384))

/-- The element stands in the scale region of a scaled bank (07 R151). -/
def inScales (fmts : Vector Word 12) (l : Loc) : Bool :=
  let f := fmtAt fmts l.at_
  l.space == .sp && decide (fmtGeo f ≠ 0) && decide (l.bank + fmtScale f < l.base + l.len)

/-! ## Descriptors (07 R150, R154) -/

def numAt (d : List Byte) (o n : Nat) : Nat := leNat ((d.drop o).take n)
def intAt (d : List Byte) (o : Nat) : Int := (BitVec.ofNat 32 (numAt d o 4)).toInt
def counts (d : List Byte) : List Nat := (List.range 4).map fun i => numAt d (16 + 2 * i) 2
def ints (d : List Byte) (o : Nat) : List Int := (List.range 4).map fun i => intAt d (o + 4 * i)

/-- A sum of products. -/
def dot : List Int → List Int → Int
  | x :: r, y :: t => x * y + dot r t
  | _, _ => 0

/-- The indices of element `q` of a pattern, dimension 0 fastest. -/
def indices : List Nat → Nat → List Nat
  | [], _ => []
  | n :: r, q => q % n :: indices r (q / n)

/-- Every index of a pattern. -/
def patAll : List Nat → (List Nat → Bool) → Bool
  | [], f => f []
  | n :: r, f => (List.range n).all fun i => patAll r fun is => f (i :: is)

/-- The element of a side at coordinates; a t6 side is packed along dimension 0. -/
def sideLoc (sp : Space) (base : Int) (lay : Nat) (st co : List Int) : Loc :=
  let a (x : Int) : Nat := if sp = .glob then (x % 2 ^ 64).toNat else x.toNat
  if lay = 3 then ⟨sp, a (base + dot st.tail co.tail), (co.headD 0).toNat, 0⟩
  else ⟨sp, a (base + dot st co), 0, codeBytes lay⟩

/-- A copy operation as its sectors see it: an element's source, or the value written, and its destination. -/
structure Move where
  src : Sum Loc Nat
  dst : Option Loc
  deriving DecidableEq, Repr

/-- What an operation does: `total` elements of its pattern and `extra` scale bytes, in sectors of `per` and 512. -/
structure Plan where
  total : Nat
  extra : Nat
  per : Nat
  move : Nat → Move
  st : Nat
  dt : Nat
  /-- source tags: 0 ignore, 1 wait full, 2 wait full then mark empty; destination tags: 0 leave, 1 full, 2 empty -/
  stag : Nat
  dtag : Nat
  write : Bool

/-- The fields of a copy descriptor with the types of both sides (07 R150, R154). -/
structure CDesc where
  gb : Word
  lb : Nat
  dir : Nat
  gt : Nat
  lt : Nat
  n : List Nat
  gs : List Int
  ls : List Int

def CDesc.of (k : CopyKind) (d : List Byte) (w1 : Word) (fmts : Vector Word 12) : CDesc :=
  let gb : Word := BitVec.ofNat 64 (numAt d 0 8) + (match k with | .cpyf _ => 0 | _ => w1)
  let lb := numAt d 8 4
  let dir := numAt d 12 1 % 4
  let gt := if dir = 2 then fmtType (fmtAt fmts gb.toNat) else numAt d 13 1 % 16
  ⟨gb, lb, dir, gt, fmtType (fmtAt fmts lb), counts d, ints d 24, ints d 40⟩

def CDesc.layL (c : CDesc) : Nat := layout c.lt c.gt
def CDesc.layG (c : CDesc) : Nat := layout c.gt c.lt
def CDesc.spaceG (c : CDesc) : Space := if c.dir = 2 then .sp else .glob
def CDesc.locL (c : CDesc) (i : List Nat) : Loc := sideLoc .sp c.lb c.layL c.ls (i.map Int.ofNat)
def CDesc.locG (c : CDesc) (co : List Int) : Loc := sideLoc c.spaceG c.gb.toNat c.layG c.gs co

/-- The box of a `cpyt`: extents and first coordinates. -/
def boxOf (k : CopyKind) (d : List Byte) : Option (List Int × List Int) :=
  match k with
  | .cpyt => some ((List.range 4).map fun i => (numAt d (64 + 4 * i) 4 : Int), ints d 80)
  | _ => none

/-- The elements of a sector of side-L data (07 R155). -/
def perSector (lay : Nat) : Nat := if lay = 3 then 680 else 512 / codeBytes lay

def copyPlan (k : CopyKind) (d : List Byte) (w1 : Word) (fmts : Vector Word 12) : Plan :=
  let c := CDesc.of k d w1 fmts
  let box := boxOf k d
  let tags := numAt d 14 1
  let total := c.n.foldl (· * ·) 1
  let value := if c.layL = 3 then w1.toNat % 64 else w1.toNat % 2 ^ (8 * codeBytes c.layL)
  let move (q : Nat) : Move :=
    let i := indices c.n q
    let l := c.locL i
    let co : List Int := match box with
      | some (_, c0) => List.zipWith (fun x y => x + Int.ofNat y) c0 i
      | none => i.map Int.ofNat
    let inside := match box with
      | some (ex, _) => (List.zipWith (fun x y => decide (0 ≤ x) && decide (x < y)) co ex).all id
      | none => true
    match k with
    | .cpyf _ => ⟨.inr value, some l⟩
    | _ =>
      if c.dir = 1 then ⟨.inl l, if inside then some (c.locG co) else none⟩
      else ⟨if inside then .inl (c.locG co) else .inr (fillOf (fmtAt fmts l.at_)), some l⟩
  { total := total, extra := 0, per := perSector c.layL, move := move
    st := if c.dir = 1 then c.lt else c.gt
    dt := if c.dir = 1 then c.gt else c.lt
    stag := if c.dir = 0 then 0 else tags / 4 % 4
    dtag := match k with
      | .cpyf 0 => tags % 4
      | .cpyf 2 => 2
      | .cpyf _ => 1
      | _ => if c.dir = 1 then 0 else tags % 4
    write := match k with
      | .cpyf m => decide (m.val < 2)
      | _ => true }

/-- The total side-L data in bytes (07 R156). -/
def CopyOp.byteCount (o : CopyOp) : Nat :=
  let c := CDesc.of o.kind o.desc o.w1 o.fmts
  let n := c.n.foldl (· * ·) 1
  if c.layL = 3 then n * 3 / 4 else n * codeBytes c.layL

/-- The first and the last byte a scratchpad side may touch, from the extremes of its pattern. -/
def spanOf (base : Int) (n : List Nat) (st : List Int) (lay : Nat) : Int × Int :=
  let steps := List.zipWith (fun (c : Nat) (x : Int) => ((c : Int) - 1) * x) n st
  let steps := if lay = 3 then steps.tail else steps
  let bytes : Int := if lay = 3 then 3 * ceilDiv (n.headD 0) 4 else codeBytes lay
  (base + (steps.map (min 0)).sum, base + (steps.map (max 0)).sum + bytes)

/-- A scratchpad side lies in the scratchpad, aligned to its elements (07 R151 detail 0x04). -/
def spanOk (base : Int) (n : List Nat) (st : List Int) (lay : Nat) : Bool :=
  let (lo, hi) := spanOf base n st lay
  let w : Int := max 1 (codeBytes lay)
  decide (0 ≤ lo) && decide (hi ≤ 0x30000) && decide (base % w = 0) &&
    (List.zipWith (fun (c : Nat) (x : Int) => decide (c ≤ 1) || decide (x % w = 0)) n st).all id

/-- A zero byte string. -/
def allZero (d : List Byte) (o n : Nat) : Bool := decide (numAt d o n = 0)

/-- The first detail whose condition holds. -/
def firstOf : List (Bool × Nat) → Option Nat
  | [] => none
  | (c, n) :: r => if c then some n else firstOf r

/-- The issue checks of a descriptor (07 R151), the fields before the pattern, the pattern's span before its elements
(log entry 19). For a `cpyf`, whose fields of side G and source tags must be 0 and whose dir must be 0 (07 R154), R151's table names no
detail: 0x01 for those fields and 0x02 for the direction are the model's choice (log entry 19). -/
def copyDetail (k : CopyKind) (d : List Byte) (w1 : Word) (fmts : Vector Word 12) : Option Nat :=
  let c := CDesc.of k d w1 fmts
  let tags := numAt d 14 1
  let fill := match k with | .cpyf _ => true | _ => false
  let box := match k with | .cpyt => true | _ => false
  let gt := numAt d 13 1 % 16
  let sides : List (List Nat → Loc) := if c.dir = 2 then [c.locL, fun i => c.locG (i.map Int.ofNat)] else [c.locL]
  let every (f : Loc → Bool) : Bool := sides.all fun g => patAll c.n fun i => f (g i)
  firstOf [
    (decide (c.lb / 2 ^ 18 ≠ 0) || decide (numAt d 12 1 / 4 ≠ 0) || decide (numAt d 13 1 / 16 ≠ 0) || decide (tags / 16 ≠ 0) ||
      !allZero d 56 8 || (box && !allZero d 96 32) ||
      (fill && (!allZero d 0 8 || gt != 0 || !allZero d 24 16 || tags / 4 != 0)), 1),
    (c.dir == 3 || !(decide (gt ≤ 6) || gt == 8) || (c.dir == 2 && gt != 0) || (box && c.dir == 2) || (fill && c.dir != 0) ||
      decide (2 ≤ tags % 4) || tags / 4 % 4 == 3, 2),
    (c.n.any (· == 0), 3),
    (!spanOk c.lb c.n c.ls c.layL || (c.dir == 2 && !spanOk c.gb.toNat c.n c.gs c.layG), 4),
    (!(every fun l => fmtType (fmtAt fmts l.base) == fmtType (fmtAt fmts (l.base + l.len - 1)))
      || !(patAll c.n fun i => fmtType (fmtAt fmts (c.locL i).base) == c.lt)
      || (c.dir == 2 && !(patAll c.n fun i => fmtType (fmtAt fmts (c.locG (i.map Int.ofNat)).base) == c.gt)), 2),
    ((c.layL == 3 && (c.ls.headD 0 != 0 || c.n.headD 0 % 4 != 0)) ||
      (!fill && c.layG == 3 && (c.gs.headD 0 != 0 || c.n.headD 0 % 4 != 0)), 5),
    (!(every fun l => !badScale fmts l), 4),
    (!(every fun l => !inScales fmts l), 6)]

/-! ## Dual quantisation and B-store loads (07 R160, R161) -/

/-- The fields of `qdual`: source, row and column destinations, rows, columns. -/
def qdualOf (w0 w1 : Word) : Nat × Nat × Nat × Nat × Nat :=
  ((w0.extractLsb' 0 18).toNat, (w0.extractLsb' 18 18).toNat, (w0.extractLsb' 36 18).toNat,
    (w1.extractLsb' 0 13).toNat, (w1.extractLsb' 16 13).toNat)

/-- A destination of `qdual` holds tapered elements of rows of `cols`, in blocks of the geometry. -/
def qfmtOk (f : Word) (geo cols : Nat) : Bool :=
  (fmtType f == 2 || fmtType f == 3) && fmtGeo f == geo && fmtRow f == cols

/-- The element `q` of a bank in its type. -/
def bankLoc (fmts : Vector Word 12) (base q : Nat) : Loc :=
  let w := codeBytes (fmtType (fmtAt fmts base))
  if w = 0 then ⟨.sp, base, q, 0⟩ else ⟨.sp, base + q * w, 0, w⟩

/-- The issue checks of `qdual` (07 R160; the details are the model's choice, log entry 19). -/
def qdualDetail (w0 w1 : Word) (fmts : Vector Word 12) : Option Nat :=
  let (src, rd, cd, rows, cols) := qdualOf w0 w1
  let f := fmtAt fmts src
  let n := rows * cols
  let w := codeBytes (fmtType f)
  let dst (a geo : Nat) : Bool := qfmtOk (fmtAt fmts a) geo cols
  let some_ (f : Loc → Bool) (a : Nat) : Bool := (List.range n).any fun q => f (bankLoc fmts a q)
  firstOf [
    (decide (w0.extractLsb' 54 10 ≠ 0) || decide (w1.extractLsb' 13 3 ≠ 0) || decide (w1.extractLsb' 29 35 ≠ 0), 1),
    (decide (12 ≤ src / 16384) || decide (12 ≤ rd / 16384) || decide (12 ≤ cd / 16384), 4),
    (!(fmtType f == 0 || fmtType f == 1) || !dst rd 1 || !dst cd 2, 2),
    (rows == 0 || cols == 0 || decide (4096 < rows) || decide (4096 < cols), 3),
    (src % w != 0 || decide (src / 16384 * 16384 + 16384 < src + n * w) || rd % 16384 != 0 || cd % 16384 != 0 ||
      rd / 16384 == cd / 16384 || src / 16384 == rd / 16384 || src / 16384 == cd / 16384, 4),
    (some_ (badScale fmts) rd || some_ (badScale fmts) cd, 4),
    (some_ (inScales fmts) rd || some_ (inScales fmts) cd, 6)]

/-- A list cut into blocks of `n`. -/
def chunks {α : Type} (n : Nat) : Nat → List α → List (List α)
  | 0, _ => []
  | k + 1, l => if l.isEmpty then [] else l.take n :: chunks n k (l.drop n)

/-- What one destination of `qdual` receives: elements and scale bytes, the elements' indices block by block (03 R63, 07 R160). -/
def quantInto (fmts : Vector Word 12) (base : Nat) (src : Nat → Fv) (blocks : List (List Nat)) : List (Loc × Nat) :=
  let f := fmtAt fmts base
  let t := codeTy (fmtType f)
  (blocks.map fun b =>
    let (sc, codes, _) := quantise t (b.map src)
    ((b.zip codes).map fun x => (bankLoc fmts base x.1, x.2)) ++ [(⟨.sp, scaleAt f base (b.headD 0), 0, 1⟩, sc)]).flatten

/-- The source elements of a `qdual`. -/
def qdualSrc (w0 w1 : Word) (fmts : Vector Word 12) : List Loc :=
  let (src, _, _, rows, cols) := qdualOf w0 w1
  (List.range (rows * cols)).map (bankLoc fmts src)

/-- What a `qdual` writes, from its source elements' bits. -/
def qdualOut (w0 w1 : Word) (fmts : Vector Word 12) (vals : List Nat) : List (Loc × Nat) :=
  let (src, rd, cd, rows, cols) := qdualOf w0 w1
  let t := codeTy (fmtType (fmtAt fmts src))
  let val (q : Nat) : Fv := tyDecode t (vals.getD q 0)
  let rowBlocks := ((List.range rows).map fun r => chunks 32 cols ((List.range cols).map (r * cols + ·))).flatten
  let colBlocks := ((List.range cols).map fun j => chunks 32 rows ((List.range rows).map (· * cols + j))).flatten
  quantInto fmts rd val rowBlocks ++ quantInto fmts cd val colBlocks

/-- The fields of `bload`'s command word 1: data offset, scale offset, kk, nn, stride. -/
def bloadOf (w1 : Word) : Nat × Nat × Nat × Nat × Nat :=
  ((w1.extractLsb' 0 13).toNat, (w1.extractLsb' 13 8).toNat, (w1.extractLsb' 21 13).toNat, (w1.extractLsb' 34 7).toNat,
    (w1.extractLsb' 42 22).toNat)

/-- The code of a B-store element type. -/
def bTypeCode (t : ETy) : Nat := match t with | .bf16 => 1 | .t6 => 3 | _ => 2

def bloadDetail (sp : Bool) (t : ETy) (sc : Bool) (w0 w1 : Word) : Option Nat :=
  let (doff, soff, kk, nn, stride) := bloadOf w1
  let w := codeBytes (bTypeCode t)
  let row := if w = 0 then 3 * ceilDiv nn 4 else nn * w
  let data := if w = 0 then 3 * ceilDiv kk 4 else kk * w
  let nsc := if sc then ceilDiv kk 32 else 0
  let a := w0.toNat
  firstOf [
    (w1.getLsbD 41, 1),
    (kk == 0 || nn == 0 || decide (4096 < kk) || decide (64 < nn), 3),
    (decide (0x1F00 < doff + data) || decide (0x100 < soff + nsc) ||
      (sp && (decide (0x30000 < a + (kk - 1) * stride + row) || (sc && decide (0x30000 < a + kk * stride + nsc * nn)) ||
        (w != 0 && (a % w != 0 || (decide (1 < kk) && stride % w != 0))))), 4),
    (w == 0 && nn % 4 != 0, 5)]

def bloadPlan (sp : Bool) (t : ETy) (sc : Bool) (w0 w1 : Word) : Plan :=
  let (doff, soff, kk, nn, stride) := bloadOf w1
  let c := bTypeCode t
  let w := codeBytes c
  let space : Space := if sp then .sp else .glob
  let at_ (x : Nat) : Nat := (w0.toNat + x) % 2 ^ 64
  let nd := kk * nn
  let move (q : Nat) : Move :=
    if q < nd then
      let k := q / nn
      let j := q % nn
      if w = 0 then ⟨.inl ⟨space, at_ (k * stride), j, 0⟩, some ⟨.bst, 8192 * j + doff, k, 0⟩⟩
      else ⟨.inl ⟨space, at_ (k * stride + j * w), 0, w⟩, some ⟨.bst, 8192 * j + doff + k * w, 0, w⟩⟩
    else
      let b := (q - nd) / nn
      let j := (q - nd) % nn
      ⟨.inl ⟨space, at_ (kk * stride + b * nn + j), 0, 1⟩, some ⟨.bst, 8192 * j + 0x1F00 + soff + b, 0, 1⟩⟩
  { total := nd, extra := if sc then ceilDiv kk 32 * nn else 0, per := perSector c, move := move, st := c, dt := c, stag := 0
    dtag := 0, write := true }

/-! ## Sectors (07 R155, R156) -/

/-- What an operation of the copy unit does; a `qdual` and a stream have their own steps. -/
def CopyOp.plan (o : CopyOp) : Plan :=
  match o.kind with
  | .bload sp t sc => bloadPlan sp t sc o.w0 o.w1
  | k => copyPlan k o.desc o.w1 o.fmts

def Plan.sectors (p : Plan) : Nat := ceilDiv p.total p.per + ceilDiv p.extra 512

/-- The elements of sector `k`. The scale bytes of a `bload` begin a sector of their own, so the data sector before them may be short
(07 R161, log entry 48). -/
def Plan.sector (p : Plan) (k : Nat) : List Move :=
  let n := ceilDiv p.total p.per
  let (lo, hi) := if k < n then (k * p.per, min p.total ((k + 1) * p.per))
    else (p.total + (k - n) * 512, min (p.total + p.extra) (p.total + (k - n + 1) * 512))
  (List.range (hi - lo)).map fun i => p.move (lo + i)

/-- The words an element list writes. -/
def dstWords (ms : List Move) : List Nat :=
  ((ms.filterMap (·.dst)).map Loc.words).flatten.eraseDups

/-- The scratchpad words a sector reads. -/
def srcWords (ms : List Move) : List Nat :=
  ((ms.filterMap fun m => match m.src with
    | .inl l => if l.space = .sp then some l.words else none
    | .inr _ => none).flatten).eraseDups

/-- The words whose last write is sector `k`'s (07 R156). -/
def Plan.lastWords (p : Plan) (k : Nat) : List Nat :=
  let later := (List.range (p.sectors - (k + 1))).map fun i => p.sector (k + 1 + i)
  (dstWords (p.sector k)).filter fun w => !later.any fun ms => ms.any fun m => m.dst.any fun l => decide (w ∈ l.words)

/-- The global bytes of a sector, each with whether it is written: for a t6 element its whole packed group of 3 bytes, also where the box
leaves the group's other elements out (07 R154, log entry 48). -/
def globBytes (ms : List Move) : List (Nat × Bool) :=
  let of (l : Loc) (wr : Bool) : List (Nat × Bool) :=
    if l.space = .glob then (List.range l.len).map fun i => (l.base + i, wr) else []
  (ms.map fun m => (match m.src with | .inl l => of l false | .inr _ => []) ++ (match m.dst with | some l => of l true | none => []))
    |>.flatten

/-- The table root of the launch a slot's operations belong to. -/
def State.ownRoot (s : State) (w : Who) : Word := ((s.launchOf w.core).map (·.root)).getD 0

/-- Translations made by a cluster's copy unit: its cache of 128 entries, else walks that fill it and that the stack's slots share; while the
table has changed either mapping may be used (04 R76, R77). -/
def State.copyWalks (s : State) (w : Who) (ps : List Nat) : State × List (Nat × Walk) :=
  let root := s.ownRoot w
  let cl := clusterOf w.core
  let tlb := (s.engine cl).ctlb
  let fresh (p : Nat) : Walk := (s.walk root (p * 32768)).1
  let cached (p : Nat) : Option Walk := (tlbFind tlb root p).map fun t => .leaf t.leaf t.size
  let differ := ps.any fun (p : Nat) => (cached p).any (· != fresh p)
  let (c, s) := if differ then s.pick 2 else (0, s)
  let rs : List (Nat × Walk) := ps.map fun (p : Nat) => (p, if c = 1 then fresh p else (cached p).getD (fresh p))
  let fill (t : List TlbEntry) (r : Nat × Walk) : List TlbEntry := match r.2 with
    | .leaf e size => tlbAdd t 128 ⟨r.1 / size * size, size, e, root⟩
    | _ => t
  let s := s.shareWalks w.core.stack root (rs.filter fun r => (cached r.1).isNone)
  (if ps.isEmpty then s else s.modEngine cl fun e => { e with ctlb := rs.foldl fill e.ctlb }, rs)

/-- What the check of one byte finds: an R81 sub-cause, 100 for an uncommitted page, 0 where the byte may be touched. -/
def State.byteFault (s : State) (rs : List (Nat × Walk)) (a : Nat) (wr : Bool) : Nat :=
  if 2 ^ 48 ≤ a then 1
  else match assocD rs (a / 32768) (.fault 2) with
  | .fault sub => sub
  | .sparse e => if wr && !e.getLsbD 59 then 3 else 100
  | .leaf e size =>
    if wr && !e.getLsbD 59 then 3
    else
      let pa := paOf e size a
      if badPa false pa then 9 else if !wr && s.poisoned pa 1 then 6 else 0

/-- The outcome of a sector's checks: no fault, the lowest byte of the first condition in R81's order, or the lowest byte in each
uncommitted page. -/
inductive SecChk
  | ok
  | fault (sub va : Nat)
  | sparse (vas : List Nat)
  deriving DecidableEq, Repr

def lowest (l : List Nat) : Nat := match l with | [] => 0 | x :: r => r.foldl min x

def State.sectorCheck (s : State) (rs : List (Nat × Walk)) (bs : List (Nat × Bool)) : SecChk :=
  let found := (bs.map fun b => (s.byteFault rs b.1 b.2, b.1)).filter fun x => x.1 ≠ 0
  let hard := found.filter fun x => x.1 < 100
  if found.isEmpty then .ok
  else if hard.isEmpty then
    let ps := (found.map fun x => x.2 / 32768).eraseDups
    .sparse (ps.map fun p => lowest ((found.filter fun x => x.2 / 32768 == p).map (·.2)))
  else
    let sub := lowest (hard.map (·.1))
    .fault sub (lowest ((hard.filter fun x => x.1 = sub).map (·.2)))

/-- The pages of some bytes that can be translated. -/
def pagesOfBytes (bs : List (Nat × Bool)) : List Nat := ((bs.filter fun b => decide (b.1 < 2 ^ 48)).map fun b => b.1 / 32768).eraseDups

/-- The checks with auto-commit of the sparse pages, once every byte passes the others (04 R82, R83). -/
def State.checkSector (s : State) (w : Who) (bs : List (Nat × Bool)) : State × List (Nat × Walk) × SecChk :=
  let ps := pagesOfBytes bs
  let (s, rs) := s.copyWalks w ps
  match s.sectorCheck rs bs with
  | .sparse _ =>
    let root := s.ownRoot w
    let un := (rs.filter fun r => match r.2 with | .sparse _ => true | _ => false).map (·.1)
    let s := un.foldl (fun s p => s.autoCommit root p w.core.stack) s
    let (s, rs) := s.copyWalks w ps
    (s, rs, s.sectorCheck rs bs)
  | r => (s, rs, r)

/-- A byte of global memory through the sector's translations. -/
def State.globByte (s : State) (rs : List (Nat × Walk)) (a : Nat) : Byte :=
  match assocD rs (a / 32768) (.fault 2) with
  | .leaf e size => s.mem.get (paOf e size a)
  | _ => 0

/-- The bytes of a space as an operation of the slot reads them. -/
def State.spaceByte (s : State) (w : Who) (rs : List (Nat × Walk)) (sp : Space) (a : Nat) : Byte :=
  match sp with
  | .sp => (s.core w.core).sp.get a
  | .glob => s.globByte rs a
  | .bst => (s.engine (clusterOf w.core)).bstore.get a

/-- The source elements' bits of a sector. -/
def State.readSector (s : State) (w : Who) (rs : List (Nat × Walk)) (ms : List Move) : List Nat :=
  ms.map fun m => match m.src with
    | .inl l => l.get (s.spaceByte w rs l.space)
    | .inr x => x

/-- The value written for an element (07 R152). -/
def convElem (p : Plan) (fmts : Vector Word 12) (sp : Memory) (m : Move) (x : Nat) : Nat :=
  match m.src, m.dst with
  | .inl l, some d =>
    if p.st = p.dt ∨ p.st = 8 ∨ p.dt = 8 then x
    else
      let a := codeTy p.st
      let b := codeTy p.dt
      if isInt a && isInt b then (convert b a .rne x).1
      else
        let v : Fv := match scaleOf fmts l with
          | some i => fp32.decode (scaled32 (tyDecode a x) (sp.get i).toNat).toNat
          | none => tyDecode a x
        match scaleOf fmts d with
        | none => (tyEncode b .rne v).1
        | some i =>
          let sc := (sp.get i).toNat
          let v' : Fv := if sc = 255 then .nan false else match v with
            | .fin n k e => .fin n k (e - sc + 127)
            | u => u
          (tyEncode b .rne v').1
  | _, _ => x

/-- A byte put into a falling list of bytes. -/
def bytePut : List (Nat × Byte) → Nat → Byte → List (Nat × Byte)
  | [], a, x => [(a, x)]
  | (k, b) :: r, a, x =>
    if k < a then (a, x) :: (k, b) :: r else if a = k then (a, x) :: r else (k, b) :: bytePut r a x

/-- Rising bytes joined into runs within 8-byte words. -/
def wordRuns : List (Nat × Byte) → List (Nat × List Byte)
  | [] => []
  | (a, b) :: r =>
    match wordRuns r with
    | (c, bs) :: t => if c = a + 1 ∧ c % 8 ≠ 0 then (a, b :: bs) :: t else (a, [b]) :: (c, bs) :: t
    | [] => [(a, [b])]

/-- The bytes that elements in one space put there, rising: an element that shares its bytes with others keeps the others' bits. -/
def locBytes (rd : Nat → Byte) (es : List (Loc × Nat)) : List (Nat × Byte) :=
  (es.foldl (fun (acc : List (Nat × Byte)) (e : Loc × Nat) =>
    let bs := e.1.put (fun a => assocD acc a (rd a)) e.2
    bs.zipIdx.foldl (fun acc x => bytePut acc (e.1.base + x.2) x.1) acc) []).reverse

/-- Where the bytes of a sector's elements go, global ones through its translations. -/
def State.outBytes (s : State) (w : Who) (rs : List (Nat × Walk)) (es : List (Loc × Nat)) : List OutByte :=
  match es with
  | [] => []
  | e :: _ =>
    let sp := e.1.space
    (locBytes (s.spaceByte w rs sp) es).filterMap fun x =>
      if sp ≠ .glob then some ⟨sp, x.1, x.2, false⟩
      else match assocD rs (x.1 / 32768) (.fault 2) with
      | .leaf t size => some ⟨sp, paOf t size x.1, x.2, t.getLsbD 56 || cacheLevel t == 2⟩
      | _ => none

/-- A run of global bytes within a word written at its home slice by an operation of a cluster; the read-only caches of its cores take
what is not refused (07 R155, 14 R295, 04 R72). -/
def State.globWrite (s : State) (cl : ClusterId) (thr : Bool) (r : Nat × List Byte) : State :=
  if s.refuses r then s.gwrite r.1 r.2 thr
  else
    let s := s.gwrite r.1 r.2 thr
    { s with cores := s.cores.map fun (x : CoreId × Core) => (x.1, if clusterOf x.1 = cl then x.2.roUpdate r.1 r.2 else x.2) }

/-- Bytes written at their places. -/
def State.putBytes (s : State) (w : Who) (bs : List OutByte) : State :=
  let into (m : Memory) (sp : Space) : Memory :=
    (bs.filter fun b => b.space == sp).foldl (fun (m : Memory) (b : OutByte) => m.put b.addr b.byte) m
  let cl := clusterOf w.core
  let s := if bs.any fun b => b.space == .sp then s.modCore w.core fun c => { c with sp := into c.sp .sp } else s
  let s := if bs.any fun b => b.space == .bst then s.modEngine cl fun e => { e with bstore := into e.bstore .bst } else s
  let glob (s : State) (thr : Bool) : State :=
    let l := (bs.filter fun b => b.space == .glob && b.through == thr).foldl
      (fun (acc : List (Nat × Byte)) (b : OutByte) => bytePut acc b.addr b.byte) []
    (wordRuns l.reverse).foldl (fun (s : State) (r : Nat × List Byte) => s.globWrite cl thr r) s
  glob (glob s false) true

/-- The 8-byte word an outgoing byte belongs to. -/
def OutByte.word (b : OutByte) : Space × Nat := (b.space, b.addr / 8)

/-- Some of the bytes still to be written are written: one word, or all of them (07 R159, 14 R302, R303). What is left is answered. -/
def State.putSome (s : State) (w : Who) (bs : List OutByte) : List OutByte × State :=
  let ws := (bs.map OutByte.word).eraseDups
  let (k, s) := if ws.length ≤ 1 then (1, s) else s.pick (ws.length + 1)
  match ws[k]? with
  | some x => (bs.filter fun b => b.word != x, s.putBytes w (bs.filter fun b => b.word == x))
  | none => ([], s.putBytes w bs)

/-- A sector's elements written. -/
def State.writeSector (s : State) (w : Who) (rs : List (Nat × Walk)) (es : List (Loc × Nat)) : State := s.putBytes w (s.outBytes w rs es)

/-- Each element as it was read before or as it is now (14 R303, R304). -/
def State.mergeVals (s : State) (old new : List Nat) : List Nat × State :=
  if old = new ∨ old.length ≠ new.length then (new, s)
  else
    let (m, s) := s.pick (2 ^ new.length)
    (((old.zip new).zipIdx).map fun x => if m.testBit x.2 then x.1.1 else x.1.2, s)

/-- The worst of several ways. -/
def worstWay (l : List Way) : Way := if l.any (· == .lost) then .lost else if l.any (· == .held) then .held else .clear

/-- The worst way from a slot's cluster to the global bytes of a list. -/
def State.wayTo (s : State) (w : Who) (rs : List (Nat × Walk)) (bs : List (Nat × Bool)) : Way :=
  worstWay ((bs.map fun b => b.1 / 256).eraseDups.filterMap fun u => match assocD rs (u * 256 / 32768) (.fault 2) with
    | .leaf e size => some (s.way (some w.core.stack) (paOf e size (u * 256)))
    | _ => none)

/-- The worst way to the global bytes still to be written. -/
def State.outWay (s : State) (w : Who) (bs : List OutByte) : Way :=
  worstWay (((bs.filter fun b => b.space == .glob).map fun b => b.addr / 256).eraseDups.map fun u => s.way (some w.core.stack) (u * 256))

/-! ## Operations and their states (07 R149, R157, R158) -/

def State.copyOp (s : State) (w : Who) (num : Word) : Option CopyOp := (s.slot w).cctx.ops.find? fun o => decide (o.num = num)

def State.modCopy (s : State) (w : Who) (num : Word) (f : CopyOp → CopyOp) : State :=
  s.modSlot w fun sl => { sl with cctx := { sl.cctx with ops := sl.cctx.ops.map fun o => if o.num = num then f o else o } }

/-- The increment a finished operation posts (07 R156). -/
def CopyOp.post (o : CopyOp) : Option (MbIdx × BitVec 32) :=
  let b := numAt o.desc 15 1
  let on := match o.kind with | .cpy => true | .cpyt => true | .cpyf _ => true | _ => false
  if on && decide (o.st = .done) && b / 128 == 1 then
    some (Fin.ofNat 64 b, if b / 64 % 2 = 1 then BitVec.ofNat 32 o.byteCount else 1)
  else none

/-- The timeline moves past the operations that are over, which post their notifications (07 R149, R158). -/
def State.settleCopy (s : State) (w : Who) : State :=
  let os := (s.slot w).cctx.ops.takeWhile CopyOp.over
  let s := s.modSlot w fun sl => { sl with cctx := sl.cctx.settle }
  os.foldl (fun s o => match o.post with | some (i, n) => s.mbAdd w.core i n | none => s) s

def State.finishCopy (s : State) (w : Who) (num : Word) : State := (s.modCopy w num fun o => { o with st := .done }).settleCopy w

/-- An operation faults: the trap becomes pending, and what was read ahead is discarded (07 R155, R157). -/
def State.copyFault (s : State) (w : Who) (num : Word) (va sub : Nat) : State :=
  (s.modCopy w num fun o =>
    { o with st := .faulted, fault := some (BitVec.ofNat 64 va, sub), trapped := false, waits := [], denied := none, ahead := [] }).modSlot w
    fun sl => { sl with pendCopy := some (BitVec.ofNat 64 va) }

/-- An operation waits for pages' commits; the fault service is told of those its table has room for (07 R155, 04 R83). -/
def State.copyWait (s : State) (w : Who) (num : Word) (vas : List Nat) : State :=
  let s := s.modCopy w num fun o => { o with st := .commitWait, fault := none, waits := vas.map (BitVec.ofNat 64), ahead := [] }
  vas.foldl (fun (s : State) va =>
    s.addPend w.core.stack (s.ownRoot w) (va / 32768) (s.slot w).sup (coreWord s.modId w.core) w.slot w.core .copy) s

/-- An aborted stream operation ends its stream. -/
def Slot.abortStream (sl : Slot) (num : Word) : Slot :=
  { sl with
    streams := mapV (fun x => x.bind fun (st : Stream) => if st.num = num then none else some st) sl.streams
    draining := sl.draining.filter fun st => decide (st.num ≠ num) }

/-- An operation whose way to global memory is lost completes with an error, and is reported as a failed item; a stream ends (06 R139, 07 R158;
log entry 45). -/
def State.copyLost (s : State) (w : Who) (num : Word) : State :=
  (((s.modCopy w num fun o => { o with st := .complete, ahead := [], out := [] }).modSlot w (·.abortStream num)).settleCopy w).failItems w.core 1

def CopyCtx.faulted (c : CopyCtx) : Option CopyOp := c.ops.find? fun o => decide (o.st = .faulted)

/-- A queued operation may start: every lower one has, and the stores released to it are performed (02 R33, 07 R148, R158). -/
def State.mayStart (s : State) (w : Who) (num : Word) : Bool :=
  let sl := s.slot w
  (sl.cctx.ops.takeWhile fun o => decide (o.num ≠ num)).all (fun o => decide (o.st ≠ .queued)) &&
    (sl.cctx.ops.find? fun o => decide (o.num = num)).any fun o => decide (o.st = .queued) && s.storesDone o.rel

/-- The words a sector waits for are full (07 R156). -/
def State.wordsFull (s : State) (w : Who) (ws : List Nat) : Bool := ws.all (s.core w.core).isFull

/-- Source elements' bits as a list of 4-byte numbers. -/
def aheadNums (d : List Byte) : List Nat := (List.range (d.length / 4)).map fun i => numAt d (4 * i) 4

/-- What was read of a sector before it is written. -/
def CopyOp.read? (o : CopyOp) (k : Nat) : Option (List Nat) := (o.ahead.find? fun x => x.1 == k).map fun x => aheadNums x.2

def CopyOp.keep (o : CopyOp) (k : Nat) (vals : List Nat) : CopyOp :=
  { o with ahead := o.ahead.filter (fun x => x.1 != k) ++ [(k, (vals.map (leBytes 4)).flatten)] }

/-- The sector being written is complete: its tags are updated, and the next one follows (07 R155, R156, R160). -/
def State.sectorDone (s : State) (w : Who) (o : CopyOp) : State :=
  match o.kind with
  | .qdual =>
    let ws := ((qdualOut o.w0 o.w1 o.fmts []).map fun x => x.1.words).flatten.eraseDups
    (s.modCore w.core fun c => c.setTags true ws).finishCopy w o.num
  | _ =>
    let p := o.plan
    let s := if p.dtag = 0 then s else s.modCore w.core fun c => c.setTags (p.dtag == 1) (p.lastWords o.sector)
    let s := if p.stag = 2 then s.modCore w.core fun c => c.setTags false (srcWords (p.sector o.sector)) else s
    let s := s.modCopy w o.num fun x => { x with sector := x.sector + 1, out := [] }
    if p.sectors ≤ o.sector + 1 then s.finishCopy w o.num else s

/-- A step in the writing of a sector or a strip: a word of it, or the rest, after which it is done. Nothing is written while a link on the way
holds its traffic back, and the operation ends where the way is lost (06 R139). -/
def State.outStep (s : State) (w : Who) (num : Word) (bs : List OutByte) (done : State → State) : State :=
  match s.outWay w bs with
  | .held => s.modCopy w num fun x => { x with out := bs }
  | .lost => s.copyLost w num
  | .clear =>
    let (rest, s) := s.putSome w bs
    if rest.isEmpty then done s else s.modCopy w num fun x => { x with out := rest }

/-- A step in the writing of the current sector. -/
def State.writeOut (s : State) (w : Who) (o : CopyOp) (bs : List OutByte) : State := s.outStep w o.num bs fun s => s.sectorDone w o

/-- The context the copy unit serves next is the slot's (07 R148). -/
def State.served (s : State) (w : Who) : State :=
  s.modEngine (clusterOf w.core) fun e => { e with crr := clusterIdx w.core * 16 + w.slot.val }

/-- The current sector of a started operation: checked, then written, with its tags (07 R155, R156). Each source element has the value it
had when it was read ahead, or the one it has now (14 R303). -/
def State.doSector (s : State) (w : Who) (o : CopyOp) : State :=
  let p := o.plan
  let ms := p.sector o.sector
  let bs := globBytes ms
  match s.checkSector w bs with
  | (s, _, .fault sub va) => s.copyFault w o.num va sub
  | (s, _, .sparse vas) => s.copyWait w o.num vas
  | (s, rs, .ok) =>
    match s.wayTo w rs bs with
    | .lost => s.copyLost w o.num
    | .held => s
    | .clear =>
      let s := s.modCopy w o.num fun x => { x with st := .running, fault := none, waits := [] }
      let full := p.stag = 0 ∨ s.wordsFull w (srcWords ms)
      let (raw, s) := match o.read? o.sector, decide full with
        | none, true => (some (s.readSector w rs ms), s)
        | none, false => (none, s)
        | some d, true => let (l, s) := s.mergeVals d (s.readSector w rs ms); (some l, s)
        | some d, false => (some d, s)
      match raw with
      | none => s
      | some raw =>
        let sp := (s.core w.core).sp
        let es := (ms.zip raw).filterMap fun x => x.1.dst.map fun d => (d, convElem p o.fmts sp x.1 x.2)
        let s := (s.modCopy w o.num fun x => { x with ahead := x.ahead.filter fun a => a.1 != o.sector }).served w
        s.writeOut w o (if p.write then s.outBytes w rs es else [])

/-- The source of a `qdual` as it stands. -/
def State.qdualNow (s : State) (w : Who) (o : CopyOp) : List Nat :=
  (qdualSrc o.w0 o.w1 o.fmts).map fun l => l.get (s.core w.core).sp.get

/-- A `qdual` performed: both copies and their tags (07 R160). -/
def State.doQdual (s : State) (w : Who) (o : CopyOp) : State :=
  let now := s.qdualNow w o
  let (vals, s) := match o.read? 0 with
    | some d => s.mergeVals d now
    | none => (now, s)
  (s.served w).writeOut w o (s.outBytes w [] (qdualOut o.w0 o.w1 o.fmts vals))

/-- Elements of a sector read before they are written, where no fault stands in the way: each keeps what an earlier read found, or takes
what it holds now (07 R155, 14 R303). -/
def State.readAhead (s : State) (w : Who) (o : CopyOp) (k : Nat) : State :=
  let take (s : State) (now : List Nat) : State :=
    let (vals, s) := match o.read? k with
      | some d => s.mergeVals d now
      | none => (now, s)
    s.modCopy w o.num (·.keep k vals)
  match o.kind with
  | .qdual => if k = 0 then take s (s.qdualNow w o) else s
  | _ =>
    let p := o.plan
    let ms := p.sector k
    if k < o.sector ∨ p.sectors ≤ k ∨ (p.stag ≠ 0 ∧ ¬ s.wordsFull w (srcWords ms)) then s
    else
      let bs := (globBytes ms).filter fun b => !b.2
      let (s, rs) := s.copyWalks w (pagesOfBytes bs)
      if s.sectorCheck rs bs = .ok ∧ s.wayTo w rs bs = .clear then take s (s.readSector w rs ms) else s

/-- The operation may read its source: it is started, or may start once its turn comes, and is writing nothing. -/
def State.mayRead (s : State) (o : CopyOp) : Bool :=
  o.out.isEmpty && (decide (o.st = .running) || (decide (o.st = .queued) && s.storesDone o.rel))

/-- A page the operation waits for is no longer uncommitted, or its message can be sent now. -/
def State.pageReady (s : State) (w : Who) (o : CopyOp) : Bool :=
  let root := s.ownRoot w
  o.waits.any fun va => s.mayPend w.core.stack root (va.toNat / 32768) ||
    (match (s.walk root (va.toNat / 32768 * 32768)).1 with
    | .sparse _ => false
    | _ => true)

/-- The copy unit can serve the operation's current sector. -/
def State.servable (s : State) (w : Who) (o : CopyOp) : Bool :=
  let full : Bool := match o.kind with
    | .qdual => true
    | .stream _ => false
    | _ => let p := o.plan; p.stag == 0 || (o.read? o.sector).isSome || s.wordsFull w (srcWords (p.sector o.sector))
  o.out.isEmpty && full &&
    (decide (o.st = .running) || (decide (o.st = .commitWait) && o.denied.isNone && s.pageReady w o))

/-- A slot's context has a sector to serve. -/
def State.wantsCopy (s : State) (w : Who) : Bool :=
  let sl := s.slot w
  decide (sl.state ≠ .spilled) && sl.cctx.faulted.isNone && sl.cctx.ops.any (s.servable w)

/-- It is the slot's turn: no context between the one served last and its own has a sector to serve (07 R148). -/
def State.copyTurn (s : State) (w : Who) : Bool :=
  let cl := clusterOf w.core
  let me := clusterIdx w.core * 16 + w.slot.val
  let from_ := (s.engine cl).crr + 1
  (List.range ((me + 128 - from_ % 128) % 128)).all fun i =>
    let k := (from_ + i) % 128
    match (coresOf cl)[k / 16]? with
    | none => true
    | some c => !s.wantsCopy ⟨c, Fin.ofNat 16 k⟩

/-- A step of the copy unit for an operation: it starts, is settled, reads a later sector, or does its next sector in its context's turn. -/
def execCopySector (w : Who) (num : Word) (ahead : Option Nat) (s : State) : Out :=
  let sl := s.slot w
  match s.copyOp w num with
  | none => .next s
  | some o =>
    if sl.state = .spilled then .next s
    else if o.over then .next (s.settleCopy w)
    else if !o.out.isEmpty then .next (match o.kind with | .stream _ => s | _ => s.writeOut w o o.out)
    else match ahead with
    | some k => .next (if s.mayRead o then s.readAhead w o k else s)
    | none =>
      if o.st = .queued then
        (if s.mayStart w num then .next (s.modCopy w num fun x => { x with st := .running }) else .next s)
      else if o.st = .faulted ∨ sl.cctx.faulted.isSome ∨ !s.servable w o ∨ !s.copyTurn w then .next s
      else match o.kind with
      | .stream _ => .next s
      | .qdual => .next (s.doQdual w o)
      | _ => .next (s.doSector w o)

/-- A recorded denial faults its operation once the context holds no faulted one (07 R158). -/
def execDenialFault (w : Who) (s : State) : Out :=
  let sl := s.slot w
  if sl.cctx.faulted.isSome ∨ sl.state = .spilled then .next s
  else match sl.cctx.ops.find? fun o => decide (o.st = .commitWait) && o.denied.isSome with
  | none => .next s
  | some o => .next (s.copyFault w o.num (o.denied.getD 0).toNat 7)

/-! ## Issue (02 R33, 07 R148-R151) -/

/-- An operation of the copy context issued: the next number, or a park while eight are outstanding (02 R33). -/
def copyIssue (s : State) (d : SReg) (sync : Bool) (mk : Word → CopyOp) (f : Word → Slot → Slot) : Out :=
  let sl := s.me
  if 8 ≤ sl.cctx.outstanding then parkAgain s .engineQueue (.engine .c)
  else
    let num := sl.cctx.last + 1
    let s := s.mod fun sl => f num { sl.ws d num with cctx := { sl.cctx with last := num, ops := sl.cctx.ops ++ [mk num] } }
    if sync then .next (s.park .timeline (.timeline .c num .sync)) else retire s id

/-- A new operation of the context. -/
def newCopy (s : State) (k : CopyKind) (w0 w1 : Word) (desc : List Byte) (num : Word) : CopyOp :=
  .fresh num k w0 w1 desc s.myCore.fmt (s.release s.cur)

/-- A descriptor of `n` bytes read from the scratchpad, or the detail of its failed check (07 R150). -/
def Core.descriptor (c : Core) (w0 : Word) (n : Nat) : Sum Nat (List Byte) :=
  if w0.extractLsb' 18 46 ≠ 0 then .inl 1
  else
    let a := (w0.extractLsb' 0 18).toNat
    if a % 64 ≠ 0 ∨ 0x30000 < a + n then .inl 4 else .inr (c.sp.read a n)

/-- A descriptor-driven copy. -/
def copyForm (h : Hdr) (k : CopyKind) (size : Nat) (sync : Bool) (d a b : SReg) (s : State) : Out :=
  homeOnly h s (
    let w0 := s.me.rs a
    let w1 := s.me.rs b
    match s.myCore.descriptor w0 size with
    | .inl x => trap s 6 5 (BitVec.ofNat 64 x)
    | .inr desc => match copyDetail k desc w1 s.myCore.fmt with
      | some x => trap s 6 5 (BitVec.ofNat 64 x)
      | none => copyIssue s d sync (newCopy s k w0 w1 desc) fun _ sl => sl)

def execCpy (h : Hdr) (sync : Bool) (d a b : SReg) (s : State) : Out := copyForm h .cpy 64 sync d a b s
def execCpyt (h : Hdr) (sync : Bool) (d a b : SReg) (s : State) : Out := copyForm h .cpyt 128 sync d a b s
def execCpyf (h : Hdr) (mode : Fin 4) (sync : Bool) (d a b : SReg) (s : State) : Out := copyForm h (.cpyf mode) 64 sync d a b s

def execQdual (h : Hdr) (sync : Bool) (d a b : SReg) (s : State) : Out :=
  homeOnly h s (
    let w0 := s.me.rs a
    let w1 := s.me.rs b
    match qdualDetail w0 w1 s.myCore.fmt with
    | some x => trap s 6 5 (BitVec.ofNat 64 x)
    | none => copyIssue s d sync (newCopy s .qdual w0 w1 []) fun _ sl => sl)

def execBload (h : Hdr) (sp : Bool) (t : ETy) (sc sync : Bool) (d a b : SReg) (s : State) : Out :=
  homeOnly h s (
    let w0 := s.me.rs a
    let w1 := s.me.rs b
    match bloadDetail sp t sc w0 w1 with
    | some x => trap s 6 5 (BitVec.ofNat 64 x)
    | none => copyIssue s d sync (newCopy s (.bload sp t sc) w0 w1 []) fun _ sl => sl)

/-! ## Timelines (07 R169) -/

def tlName : Tl → TlName
  | .c => .c | .m => .m | .x => .x

/-- A timeline's value. -/
def Slot.tlVal (sl : Slot) : TlName → Word
  | .c => sl.cctx.tl | .m => sl.mctx.tl | .x => sl.xctx.tl | .t => sl.tctx.acc

/-- The last number issued. -/
def Slot.tlLast (sl : Slot) : TlName → Word
  | .c => sl.cctx.last | .m => sl.mctx.last | .x => sl.xctx.last | .t => sl.tctx.last

/-- What a return from a timeline wait acquires (14 R297). -/
def tlScope : TlName → Scope
  | .c => .cluster | .m => .cluster | .x => .fabric | .t => .slot

def execTlwait (h : Hdr) (t : Tl) (b : SReg) (s : State) : Out :=
  homeOnly h s (
    let n := s.me.rs b
    let u := tlName t
    if (s.me.tlLast u).ult n then trap s 6 3 n
    else if (s.me.tlVal u).ult n then .next (s.park .timeline (.timeline u n .wait))
    else retire (s.acquire s.cur.core (tlScope u)) id)

/-- The faulted operation of a copy context aborted: it counts as complete and posts nothing (07 R157). -/
def State.abortCopy (s : State) (w : Who) : State :=
  match (s.slot w).cctx.faulted with
  | none => s
  | some o =>
    ((s.modCopy w o.num fun x => { x with st := .complete, fault := none }).modSlot w fun sl =>
      { sl.abortStream o.num with pendCopy := none }).settleCopy w

def execTlwaitAbort (h : Hdr) (t : Tl) (_b : SReg) (s : State) : Out :=
  homeOnly h s (match t with
    | .c => retire (s.abortCopy s.cur) id
    | .m => retire s id
    | .x => retire s id)

/-- The operations of a context not complete. -/
def Slot.tlOpen (sl : Slot) : Tl → Nat
  | .c => sl.cctx.outstanding | .m => sl.mctx.outstanding | .x => sl.xctx.outstanding

/-- The status word of `tlrd.stat` (07 R169, 13 R276). -/
def Slot.tlStat (sl : Slot) (t : Tl) : Word :=
  let o? : Option CopyOp := match t with
    | .c => match sl.cctx.faulted with
      | some o => some o
      | none => sl.cctx.ops.find? fun o => decide (o.st = .commitWait)
    | _ => none
  let own : Nat := match o? with
    | some o => (if o.st = .faulted then 2 ^ 63 + (o.fault.map (·.2)).getD 0 * 2 ^ 48 else 0) + o.sector % 2 ^ 40
    | none => 0
  let rep : Nat := match t, sl.xctx.report with
    | .x, some sub => 2 ^ 63 + sub * 2 ^ 48
    | _, _ => 0
  BitVec.ofNat 64 (own + rep + sl.tlOpen t * 2 ^ 40)

def execTlrd (h : Hdr) (f : Fin 4) (d : SReg) (t : Tl) (s : State) : Out :=
  homeOnly h s (retire s fun sl =>
    sl.ws d (match f with
      | 0 => sl.tlVal (tlName t)
      | 1 => sl.tlLast (tlName t)
      | 2 => sl.tlStat t
      | 3 => match t with
        | .c => ((sl.cctx.faulted).map (·.num)).getD 0
        | _ => 0))

end Sys2Proof.Machine
end

