-- ==== Sys2Proof/Machine/Streams.lean ====
section
/-! DEFINITION. Stream registers and the stream unit (07 R163-R168). -/

namespace Sys2Proof.Machine

/-! ## Descriptors (07 R163) -/

/-- The stream a descriptor sets up. -/
def streamOf (num : Word) (wr gl : Bool) (d : List Byte) (w1 : Word) : Stream where
  num := num
  wr := wr
  gl := gl
  base := BitVec.ofNat 64 (numAt d 0 8) + w1
  width := Fin.ofNat 4 (numAt d 8 1)
  tags := Fin.ofNat 4 (numAt d 9 1)
  n := Vector.ofFn fun (i : Fin 4) => numAt d (16 + 2 * i.val) 2
  st := Vector.ofFn fun (i : Fin 4) => intAt d (24 + 4 * i.val)
  pos := 0
  moved := 0
  buf := []

/-- The element type code a lane width has in memory. -/
def Stream.lay (st : Stream) : Nat := match st.width with | 0 => 4 | 1 => 5 | 2 => 6 | 3 => 3

/-- The issue checks of a stream descriptor (07 R163, with R151's details). No rule names the detail of a tag mode with a global source
(here 0x02), nor that of nonzero base bits [63:18] of a scratchpad stream (here 0x01): log entry 19. -/
def streamDetail (wr gl : Bool) (d : List Byte) (w1 : Word) : Option Nat :=
  let st := streamOf 0 wr gl d w1
  let tags := numAt d 9 1
  let n := st.n.toList
  let sp := !gl
  firstOf [
    (decide (numAt d 8 1 / 4 ≠ 0) || decide (tags / 4 ≠ 0) || !allZero d 10 6 || !allZero d 40 24 ||
      (sp && decide (numAt d 0 8 / 2 ^ 18 ≠ 0)), 1),
    (tags % 4 == 3 || (wr && tags % 4 == 2) || (gl && tags % 4 != 0), 2),
    (n.any (· == 0), 3),
    (sp && !spanOk st.base.toNat n st.st.toList st.lay, 4),
    (st.width == 3 && (st.st[0] != 0 || n.headD 0 % 4 != 0), 5)]

/-- Element `q` of a stream. -/
def Stream.loc (st : Stream) (q : Nat) : Loc :=
  sideLoc (if st.gl then .glob else .sp) st.base.toNat st.lay st.st.toList ((indices st.n.toList q).map Int.ofNat)

/-- A register leaves stream mode: a read stream completes, a write stream drains on (07 R167). -/
def Slot.stopStream (sl : Slot) (v : Fin 4) : Slot :=
  match sl.streams[v] with
  | none => sl
  | some st =>
    let sl := { sl with streams := sl.streams.set v none }
    if st.wr then { sl with draining := sl.draining ++ [st] }
    else { sl with cctx := { sl.cctx with ops := sl.cctx.ops.map fun o => if o.num = st.num then { o with st := .done } else o } }

def execSstream (h : Hdr) (v : Fin 4) (wr gl sync : Bool) (d a b : SReg) (s : State) : Out :=
  homeOnly h s (
    let w0 := s.me.rs a
    let w1 := s.me.rs b
    match s.myCore.descriptor w0 64 with
    | .inl x => trap s 6 5 (BitVec.ofNat 64 x)
    | .inr desc => match streamDetail wr gl desc w1 with
      | some x => trap s 6 5 (BitVec.ofNat 64 x)
      | none => copyIssue s d sync (newCopy s (.stream v) w0 w1 desc) fun num sl =>
          let sl := sl.stopStream v
          { sl with streams := sl.streams.set v (some (streamOf num wr gl desc w1)) })

def execSstop (h : Hdr) (v : Fin 4) (s : State) : Out :=
  homeOnly h s (.next ((s.mod fun sl => (sl.stopStream v).next).settleCopy s.cur))

/-- What `spos` reads (07 R167). -/
def sposWord (st : Option Stream) : Word :=
  match st with
  | none => 0
  | some x => BitVec.ofNat 64 (2 ^ 63 + (if x.wr then 2 ^ 62 else 0) + x.buf.length * 2 ^ 32 + x.pos % 2 ^ 32)

def execSpos (h : Hdr) (d : SReg) (v : Fin 4) (s : State) : Out :=
  homeOnly h s (retire s fun sl => sl.ws d (sposWord sl.streams[v]))

/-! ## The stream unit (07 R164, R165) -/

/-- The operation of a stream may move data: it has started, what it waits for may have changed, and its context holds no faulted
operation and no denial of its own (07 R158). -/
def State.streamRuns (s : State) (w : Who) (num : Word) : Bool :=
  (s.copyOp w num).any (fun o => decide (o.st = .running) || (decide (o.st = .commitWait) && o.denied.isNone && s.pageReady w o)) &&
    (s.slot w).cctx.faulted.isNone

/-- The strip that starts at element `q`, with what its elements read; bits of a lane above its element are zero. -/
def Stream.strip (st : Stream) (q : Nat) (vals : List Nat) : Strip :=
  let bits := st.laneBits
  ⟨vOf (leBytes 64 ((vals.zipIdx).foldl (fun acc x => acc + x.1 * 2 ^ (bits * x.2)) 0)), min st.lanes (st.total - q), none, 0⟩

/-- The elements of the strip from element `q`. -/
def Stream.locs (st : Stream) (q : Nat) : List Loc :=
  (List.range (min st.lanes (st.total - q))).map fun i => st.loc (q + i)

def Slot.putStream (sl : Slot) (v : Fin 4) (st : Stream) : Slot := { sl with streams := sl.streams.set v (some st) }

/-- The next strip of a read stream is taken in; a fault found is kept with it (07 R165). -/
def State.refill (s : State) (w : Who) (v : Fin 4) (st : Stream) : State :=
  let ls := st.locs st.moved
  let ms : List Move := ls.map fun l => ⟨.inl l, none⟩
  let ws := srcWords ms
  let add (s : State) (p : Strip) : State := s.modSlot w (·.putStream v { st with buf := st.buf ++ [p], moved := st.moved + p.n })
  if st.tags ≠ 0 ∧ ¬ s.wordsFull w ws then s
  else
    let bs := globBytes ms
    match s.checkSector w bs with
    | (s, rs, .ok) =>
      match s.wayTo w rs bs with
      | .held => s
      | .lost => s.copyLost w st.num
      | .clear =>
        let p := st.strip st.moved (s.readSector w rs ms)
        add (if st.tags = 2 then s.modCore w.core fun c => c.setTags false ws else s) p
    | (s, _, .fault sub va) => add s { st.strip st.moved [] with fault := some (sub, BitVec.ofNat 64 va) }
    | (s, _, .sparse vas) => add s { st.strip st.moved [] with fault := some (0, BitVec.ofNat 64 (lowest vas)) }

/-- The elements a buffered strip holds. -/
def Stream.vals (st : Stream) (p : Strip) : List Nat :=
  (List.range p.n).map fun i => p.data.toNat / 2 ^ (st.laneBits * i) % 2 ^ st.laneBits

/-- Elements of a buffered strip are read again, each or not: an element popped holds a value that its location held at some moment before
the pop (14 R304). -/
def State.reread (s : State) (w : Who) (v : Fin 4) (st : Stream) (j : Nat) : State :=
  match st.buf[j]? with
  | none => s
  | some p =>
    let q := st.pos + ((st.buf.take j).map (·.n)).sum
    let ms : List Move := (st.locs q).map fun l => ⟨.inl l, none⟩
    let bs := globBytes ms
    if p.fault.isSome ∨ st.tags ≠ 0 then s
    else
      let (s, rs) := s.copyWalks w (pagesOfBytes bs)
      if s.sectorCheck rs bs = .ok ∧ s.wayTo w rs bs = .clear then
        let (vals, s) := s.mergeVals (st.vals p) (s.readSector w rs ms)
        s.modSlot w (·.putStream v { st with buf := st.buf.set j { st.strip q vals with mask := p.mask } })
      else s

/-- A read stream is refilled, or a strip it holds is read again, or it completes once its last strip has been popped. -/
def execStreamRefill (w : Who) (v : Fin 4) (s : State) : Out :=
  let sl := s.slot w
  match sl.streams[v] with
  | none => .next s
  | some st =>
    if st.wr ∨ sl.state = .spilled then .next s
    else if st.total ≤ st.pos then .next (s.finishCopy w st.num)
    else if s.mayStart w st.num then .next (s.modCopy w st.num fun o => { o with st := .running })
    else if !s.streamRuns w st.num then .next s
    else
      let room := decide (st.buf.length < 4) && decide (st.moved < st.total) && st.buf.all (·.fault.isNone)
      let (k, s) := s.pick (st.buf.length + if room then 1 else 0)
      .next (if room ∧ k = st.buf.length then s.refill w v st else if room ∧ st.buf = [] then s.refill w v st else s.reread w v st k)

/-- The write streams that drain: those ended earlier by their places, and the register's (07 R167). -/
def Slot.drainTargets (sl : Slot) (v : Fin 4) : List (Option Nat × Stream) :=
  (sl.draining.zipIdx.map fun x => (some x.2, x.1)) ++
    match sl.streams[v] with
    | some st => if st.wr then [(none, st)] else []
    | none => []

/-- The stream replaced after a strip has been written; an ended one that is empty leaves. -/
def Slot.setDrain (sl : Slot) (at_ : Option Nat) (v : Fin 4) (st : Stream) : Slot :=
  match at_ with
  | some i => { sl with draining := if st.buf.isEmpty then sl.draining.eraseIdx i else sl.draining.set i st }
  | none => sl.putStream v st

/-- What is stored of a strip's element: the whole of it, or its active bytes (10 R208). -/
def Stream.pieces (st : Stream) (p : Strip) (i : Nat) : List (Loc × Nat) :=
  let n := st.laneBits / 8
  let x := p.data.toNat / 2 ^ (8 * n * i) % 2 ^ (8 * n)
  let l := st.loc (st.moved + i)
  let on := (List.range n).filter fun b => p.mask.getLsbD (n * i + b)
  if on.length = n then [(l, x)] else on.map fun b => (⟨l.space, l.addr + b, 0, 1⟩, x / 2 ^ (8 * b) % 256)

/-- The elements of a strip that are stored. -/
def Stream.elems (st : Stream) (p : Strip) : List (Loc × Nat) := ((List.range p.n).map fun i => st.pieces p i).flatten

/-- A strip's elements are performed: its words are marked, and the next strip follows. -/
def State.stripDone (s : State) (w : Who) (v : Fin 4) (at_ : Option Nat) (st : Stream) (p : Strip) : State :=
  let ms : List Move := (st.elems p).map fun e => ⟨.inr e.2, some e.1⟩
  let s := if st.tags = 1 ∧ ¬ st.gl then s.modCore w.core fun c => c.setTags true (dstWords ms) else s
  let st' := { st with buf := st.buf.drop 1, moved := st.moved + p.n }
  let s := (s.modSlot w (·.setDrain at_ v st')).modCopy w st.num fun o => { o with st := .running, fault := none, waits := [], out := [] }
  if st'.buf.isEmpty && (at_.isSome || decide (st.total ≤ st.pos)) then s.finishCopy w st.num else s

/-- A step in the writing of a strip. -/
def State.stripOut (s : State) (w : Who) (v : Fin 4) (at_ : Option Nat) (st : Stream) (p : Strip) (bs : List OutByte) : State :=
  s.outStep w st.num bs fun s => s.stripDone w v at_ st p

/-- The first strip of a write stream written: its valid, active elements (07 R164, R165). The strip's number stands as the operation's
sector (07 R169). -/
def State.drainStrip (s : State) (w : Who) (v : Fin 4) (at_ : Option Nat) (st : Stream) (p : Strip) : State :=
  let es := st.elems p
  let bs := globBytes (es.map fun e => ⟨.inr e.2, some e.1⟩)
  let s := s.modCopy w st.num fun o => { o with sector := st.moved / st.lanes }
  match s.checkSector w bs with
  | (s, _, .fault sub va) => s.copyFault w st.num va sub
  | (s, _, .sparse vas) => s.copyWait w st.num vas
  | (s, rs, .ok) =>
    match s.wayTo w rs bs with
    | .held => s
    | .lost => s.copyLost w st.num
    | .clear => s.stripOut w v at_ st p (s.outBytes w rs es)

/-- Something can be done for a write stream: it starts, it drains, finishes a strip partly written, or, ended with nothing left, completes. -/
def State.drainOpen (s : State) (w : Who) (x : Option Nat × Stream) : Bool :=
  s.mayStart w x.2.num ||
    (if x.2.buf.isEmpty then x.1.isSome else s.streamRuns w x.2.num || (s.copyOp w x.2.num).any fun o => !o.out.isEmpty)

/-- A write stream starts, drains a strip, or completes when it has ended with nothing left. Which of several goes on is open: no order
holds between operations of a context (07 R159). -/
def execStreamDrain (w : Who) (v : Fin 4) (s : State) : Out :=
  let sl := s.slot w
  let ts := (sl.drainTargets v).filter (s.drainOpen w)
  if sl.state = .spilled then .next s
  else
    let (k, s) := s.pick ts.length
    match ts[k]? with
    | none => .next s
    | some (at_, st) =>
      if s.mayStart w st.num then .next (s.modCopy w st.num fun o => { o with st := .running })
      else match st.buf with
      | [] => .next ((s.modSlot w (·.setDrain at_ v st)).finishCopy w st.num)
      | p :: _ =>
        match (s.copyOp w st.num).map (·.out) with
        | some (b :: r) => .next (s.stripOut w v at_ st p (b :: r))
        | _ => .next (s.drainStrip w v at_ st p)

end Sys2Proof.Machine
end

