-- ==== Sys2Proof/Machine/Matrix.lean ====
section
/-! DEFINITION. The matrix engine: jobs, drains, claims and their operations (11 R225-R245). -/

namespace Sys2Proof.Machine

/-! ## Accumulator banks (11 R225, R230) -/

/-- The empty sum, −0.0 (03 R65). -/
def negZero : BitVec 32 := 0x80000000#32

def bankGet (b : AccBank) (row col : Nat) : BitVec 32 := assocD b (row * 64 + col) negZero

/-- A bank from its elements. -/
def bankOf (f : Nat → Nat → BitVec 32) : AccBank :=
  (List.range 4096).filterMap fun i =>
    let x := f (i / 64) (i % 64)
    if x = negZero then none else some (i, x)

/-! ## The operands of a job (11 R227, R228) -/

/-- The start of column `kk` of A. -/
def JobF.column (f : JobF) (kk : Nat) : Nat :=
  if f.split then (if kk % 2 = 0 then f.a0 + kk / 2 * f.astride else f.a1 + kk / 2 * f.astride) else f.a0 + kk * f.astride

/-- The format of the bank that holds A. -/
def JobF.fmtA (f : JobF) (fmts : Vector Word 12) : Word := fmtAt fmts f.a0

/-- The bytes of `n` elements of a type's code. -/
def spanBytes (t n : Nat) : Nat := if t = 3 then 3 * ceilDiv n 4 else n * codeBytes t

def JobF.aLoc (f : JobF) (t kk i : Nat) : Loc :=
  if t = 3 then ⟨.sp, f.column kk, i, 0⟩ else ⟨.sp, f.column kk + i * codeBytes t, 0, codeBytes t⟩

def JobF.bLoc (f : JobF) (kk j : Nat) : Loc :=
  if f.bty = 3 then ⟨.bst, 8192 * j + f.boff, kk, 0⟩ else ⟨.bst, 8192 * j + f.boff + kk * codeBytes f.bty, 0, codeBytes f.bty⟩

/-- An element's FP32 value at operand fetch (03 R60, R62). -/
def fetchElem (t : Nat) (x : Nat) (scale : Option Byte) : BitVec 32 :=
  let v := tyDecode (codeTy t) x
  match scale with
  | some s => scaled32 v s.toNat
  | none => BitVec.ofNat 32 (fp32.encode .rne v).1

/-- A, column by column (11 R227). -/
def JobF.readA (f : JobF) (fmts : Vector Word 12) (m : Memory) : List (BitVec 32) :=
  let t := fmtType (f.fmtA fmts)
  (List.range (f.k * f.m)).map fun q =>
    let l := f.aLoc t (q / f.m) (q % f.m)
    fetchElem t (l.get m.get) ((scaleOf fmts l).map m.get)

/-- B, by column of the array (11 R228). -/
def JobF.readB (f : JobF) (m : Memory) : List (BitVec 32) :=
  (List.range (f.n * f.k)).map fun q =>
    let kk := q % f.k
    let j := q / f.k
    fetchElem f.bty ((f.bLoc kk j).get m.get) (if f.scaled then some (m.get (8192 * j + 0x1F00 + f.soff + kk / 32)) else none)

/-- The sums of a job over a bank (11 R230): `a` in columns of `m`, `b` in columns of `k`. -/
def JobF.accumulate (f : JobF) (a b : Array (BitVec 32)) (old : AccBank) : AccBank :=
  bankOf fun i j =>
    if i < f.m ∧ j < f.n then
      (List.range f.k).foldl (fun acc kk => cellStep acc (a.getD (kk * f.m + i) 0) (b.getD (j * f.k + kk) 0))
        (if f.z then negZero else bankGet old i j)
    else bankGet old i j

/-! ## Issue checks (11 R238) -/

/-- The banks the columns of A touch. -/
def JobF.banks (f : JobF) (len : Nat) : List Nat :=
  (((List.range f.k).map fun kk => [f.column kk / 16384, (f.column kk + len - 1) / 16384]).flatten).eraseDups

/-- The end of the last column of A. -/
def JobF.endA (f : JobF) (len : Nat) : Nat :=
  (List.range f.k).foldl (fun x kk => max x (f.column kk + len)) 0

/-- A placed as detail 0x04 forbids. -/
def JobF.badA (f : JobF) (fmts : Vector Word 12) : Bool :=
  let g := f.fmtA fmts
  let t := fmtType g
  let len := spanBytes t f.m
  let w := codeBytes t
  let starts := [f.a0, f.a1]
  let bs := f.banks len
  let geo := fmtGeo g
  decide (0x30000 ≤ f.a0) || decide (0x30000 < f.endA len) ||
    bs.any (fun b => fmtAt fmts (b * 16384) != g) || (geo != 0 && decide (1 < bs.length)) ||
    (geo != 0 && decide (f.a0 / 16384 * 16384 + fmtScale g < f.endA len)) ||
    (f.split && f.a0 / 16384 == f.a1 / 16384) ||
    (if t = 3 then starts.any (fun x => x % 16384 % 12 != 0) || f.astride % 12 != 0 || f.m % 4 != 0
     else starts.any (fun x => x % w != 0) || f.astride % w != 0) ||
    (geo != 0 && (List.range f.k).any fun kk => (List.range f.m).any fun i => badScale fmts (f.aLoc t kk i))

/-- The details 0x02 to 0x05 of a job, the lowest first (log entry 19). -/
def JobF.detail (f : JobF) (fmts : Vector Word 12) : Option Nat :=
  let t := fmtType (f.fmtA fmts)
  let op (t : Nat) : Bool := t == 1 || t == 2 || t == 3
  firstOf [
    ((decide (f.a0 < 0x30000) && !op t) || !op f.bty || (f.scaled && f.bty == 1), 2),
    (!(decide (16 ≤ f.m) && decide (f.m ≤ 64) && decide (16 ≤ f.n) && decide (f.n ≤ 64) && f.k % 16 == 0 &&
      decide (16 ≤ f.k) && decide (f.k ≤ 4096)), 3),
    (f.badA fmts, 4),
    (decide (0x1F00 < f.boff + spanBytes f.bty f.k) || (f.scaled && decide (0x100 < f.soff + ceilDiv f.k 32)) ||
      f.boff % (if f.bty = 3 then 3 else codeBytes f.bty) != 0, 5)]

/-- The fields of a descriptor of `mjob` and the offset in command word 1 (11 R239). -/
def mjobOf (bank : Fin 4) (z : Bool) (d : List Byte) (w1 : Word) : JobF :=
  let off := w1.toNat % 2 ^ 18
  let fl := numAt d 12 1
  { bank := bank, z := z, a0 := numAt d 0 4 % 2 ^ 18 + off, a1 := numAt d 4 4 % 2 ^ 18 + off, astride := numAt d 8 4 % 2 ^ 18
    split := fl / 32 % 2 == 1, scaled := fl / 16 % 2 == 1, bty := fl % 16, m := numAt d 13 1 % 128, n := numAt d 14 1 % 128
    k := numAt d 16 2, boff := numAt d 18 2 % 2 ^ 13, soff := numAt d 20 1 }

/-- A reserved bit of the descriptor is set. -/
def mjobReserved (d : List Byte) : Bool :=
  [0, 4, 8].any (fun o => decide (2 ^ 18 ≤ numAt d o 4)) || decide (64 ≤ numAt d 12 1) || decide (128 ≤ numAt d 13 1) ||
    decide (128 ≤ numAt d 14 1) || !allZero d 15 1 || decide (2 ^ 13 ≤ numAt d 18 2) || !allZero d 21 43

/-- The fields of `mma` (11 R239). -/
def mmaOf (bank : Fin 4) (z : Bool) (w0 w1 : Word) : JobF :=
  { bank := bank, z := z, a0 := (w0.extractLsb' 0 18).toNat, a1 := (w0.extractLsb' 18 18).toNat
    astride := (w0.extractLsb' 36 18).toNat, split := w0.getLsbD 54, scaled := w1.getLsbD 52
    bty := (w1.extractLsb' 48 4).toNat, m := (w1.extractLsb' 0 7).toNat, n := (w1.extractLsb' 7 7).toNat
    k := (w1.extractLsb' 14 13).toNat, boff := (w1.extractLsb' 27 13).toNat, soff := (w1.extractLsb' 40 8).toNat }

/-- The fields of a drain (11 R240); a target that is no core gives none. -/
def drainOf (a : DrainArgs) (w0 w1 : Word) : Option (Fin 4096 × DrainF) :=
  (coreOf (w1.extractLsb' 0 32)).map fun x =>
    (x.1, { bank := a.bank, ty := a.ty.val, tr := a.tr, clr := a.clr, full := decide (a.tf = 1)
            cols := (w0.extractLsb' 55 7).toNat, rows := (w0.extractLsb' 48 7).toNat
            col0 := (w0.extractLsb' 42 6).toNat, row0 := (w0.extractLsb' 36 6).toNat
            stride := (w0.extractLsb' 18 18).toNat, dest := (w0.extractLsb' 0 18).toNat
            target := x.2, countBytes := w1.getLsbD 39, notify := w1.getLsbD 38, idx := Fin.ofNat 64 (w1.extractLsb' 32 6).toNat })

/-- The lines of a drain, and the elements of one. -/
def DrainF.lines (f : DrainF) : Nat := if f.tr then f.cols else f.rows
def DrainF.lineLen (f : DrainF) : Nat := if f.tr then f.rows else f.cols

/-- The bytes of a line. -/
def DrainF.lineBytes (f : DrainF) : Nat := spanBytes f.ty f.lineLen

/-- The region and destination checks, details 0x02, 0x03 and 0x06. -/
def DrainF.detail (f : DrainF) : Option Nat :=
  let w := codeBytes f.ty
  firstOf [
    (decide (4 ≤ f.ty), 2),
    (f.rows == 0 || f.cols == 0 || decide (64 < f.row0 + f.rows) || decide (64 < f.col0 + f.cols), 3),
    (decide (0x30000 < f.dest + (f.lines - 1) * f.stride + f.lineBytes) || decide (f.stride < f.lineBytes) ||
      (if f.ty = 3 then f.lineLen % 4 != 0 || f.dest % 3 != 0 || f.stride % 3 != 0 else f.dest % w != 0), 6)]

/-- The fields of a drain that passes its checks, or the detail of the first that fails. -/
def State.drainCheck (s : State) (a : DrainArgs) (w0 w1 : Word) : Sum Nat DrainF :=
  let tc := w1.extractLsb' 0 32
  if w0.extractLsb' 62 2 ≠ 0 ∨ w1.extractLsb' 40 24 ≠ 0 ∨ tc &&& 0xF0008800#32 ≠ 0 then .inl 1
  else
    let region : DrainF := { (default : DrainF) with
      ty := a.ty.val, tr := a.tr, cols := (w0.extractLsb' 55 7).toNat, rows := (w0.extractLsb' 48 7).toNat
      col0 := (w0.extractLsb' 42 6).toNat, row0 := (w0.extractLsb' 36 6).toNat
      stride := (w0.extractLsb' 18 18).toNat, dest := (w0.extractLsb' 0 18).toNat }
    match region.detail with
    | some x => .inl x
    | none => match drainOf a w0 w1 with
    | some (md, f) =>
      if md = s.modId && (s.launchOf s.cur.core).any (·.has f.target) then .inr f else .inl 7
    | none => .inl 7

/-! ## Operations, status and timelines (11 R231-R233) -/

def MatStatus.clean : MatStatus := ⟨false, 0, false, false, false, false⟩

def MatStatus.failed (cause : Fin 8) : MatStatus := ⟨true, cause, false, false, false, false⟩

/-- The code of an operation's kind (11 R233). -/
def MatKind.code : MatKind → Nat
  | .job _ => 0 | .drain _ => 1 | .clr _ => 2 | .cfg _ => 3 | .abort => 4

/-- The bank an operation acts on. -/
def MatKind.bank : MatKind → Option (Fin 4)
  | .job f => some f.bank
  | .drain f => some f.bank
  | .clr b => some b
  | .cfg _ => none
  | .abort => none

def MatKind.isDrain : MatKind → Bool
  | .drain _ => true
  | _ => false

/-- The status word of an operation (11 R233). -/
def MatOp.statusWord (o : MatOp) : Word :=
  let b (x : Bool) (n : Nat) : Nat := if x then 2 ^ n else 0
  BitVec.ofNat 64 (b o.status.error 63 + o.status.cause.val * 2 ^ 60 + b o.status.nan 59 + b o.status.inf 58 + b o.status.sat 57 +
    b o.status.flushed 56 + o.kind.code * 2 ^ 48 + o.num.toNat % 2 ^ 48)

/-- The operation has ended, and only the timeline is behind it. -/
def MatOp.over (o : MatOp) : Bool := o.st == .done || o.st == .complete

/-- The timeline moves past the operations that have ended, whose statuses are kept (11 R233). -/
def MatCtx.settle (c : MatCtx) : MatCtx :=
  let os := c.ops.takeWhile MatOp.over
  match os.getLast? with
  | none => c
  | some o =>
    let h := c.hist ++ os.map fun o => (o.num, o.statusWord)
    { c with tl := o.num, ops := c.ops.drop os.length, hist := h.drop (h.length - 16) }

/-- The status word of operation `n`; one older than the 16 latest has expired (11 R233). -/
def MatCtx.statusOf (c : MatCtx) (n : Word) : Word :=
  if n.toNat + 16 ≤ c.last.toNat then 0xD000000000000000#64 else assocD c.hist n 0xD000000000000000#64

def State.matOp (s : State) (x : Who × Word) : Option MatOp := (s.slot x.1).mctx.ops.find? fun o => decide (o.num = x.2)

def State.modMat (s : State) (x : Who × Word) (f : MatOp → MatOp) : State :=
  s.modSlot x.1 fun sl => { sl with mctx := { sl.mctx with ops := sl.mctx.ops.map fun o => if o.num = x.2 then f o else o } }

/-- An operation is done or complete, with its status (11 R244). -/
def State.endMat (s : State) (x : Who × Word) (next : MatSt) (st : MatStatus) : State :=
  ((s.modMat x fun o => { o with st := next, status := st }).modSlot x.1 fun sl => { sl with mctx := sl.mctx.settle }).failItems
    x.1.core (if st.error then 1 else 0)

/-- An operation is done, with its status (11 R244). -/
def State.finishMat (s : State) (x : Who × Word) (st : MatStatus) : State := s.endMat x .done st

/-! ## Acceptance (11 R231, R232, R242, R243) -/

/-- The slot of a cluster at a context number. -/
def ctxWho (c : ClusterId) (i : Nat) : Who :=
  ⟨(coresOf c).getD (i / 16 % 8) ⟨c.stack, 0, 0⟩, Fin.ofNat 16 i⟩

/-- The operation a context offers for acceptance. -/
def State.matOffer (s : State) (w : Who) : Option MatOp :=
  match (s.slot w).mctx.ops.find? fun o => decide (o.st = .issued) with
  | some o => if s.storesDone o.rel then some o else none
  | none => none

/-- The context served next: round robin from the one after the last served. -/
def State.matNext (s : State) (c : ClusterId) : Option (Nat × MatOp) :=
  let rr := (s.engine c).rr
  ((List.range 128).map fun i => (rr + 1 + i) % 128).findSome? fun i => (s.matOffer (ctxWho c i)).map fun o => (i, o)

/-- The claims after `mcfg`; none where a bank of the mask is another's (11 R242). -/
def claimAll (claims : Vector (Option Who) 4) (w : Who) (mask : BitVec 4) : Option (Vector (Option Who) 4) :=
  if (List.finRange 4).any fun b => mask.getLsbD b.val && (claims[b].any (· != w)) then none
  else some ((List.finRange 4).foldl (fun (v : Vector (Option Who) 4) (b : Fin 4) =>
    if mask.getLsbD b.val then v.set b (some w) else if claims[b] = some w then v.set b none else v) claims)

/-- An `mabort` completes its context's lower operations that have not started (11 R243, R244). -/
def State.abortMat (s : State) (c : ClusterId) (w : Who) (num : Word) : State :=
  let low (o : MatOp) : Bool := o.num.ult num && (o.st == .issued || o.st == .accepted)
  let gone := ((s.slot w).mctx.ops.filter low).map fun o => (w, o.num)
  gone.foldl (fun (s : State) (x : Who × Word) => s.endMat x .complete (.failed 3))
    (s.modEngine c fun e => { e with queue := e.queue.filter fun x => decide (x ∉ gone) })

/-- The engine accepts one operation (11 R231). -/
def execMatrixAccept (c : ClusterId) (s : State) : Out :=
  let e := s.engine c
  if 32 ≤ e.queue.length then .next s
  else match s.matNext c with
  | none => .next s
  | some (i, o) =>
    let w := ctxWho c i
    let s := s.modEngine c fun e => { e with rr := i }
    match o.kind with
    | .cfg mask => match claimAll e.claims w mask with
      | some v => .next ((s.modEngine c fun e => { e with claims := v }).endMat (w, o.num) .complete .clean)
      | none => .next (s.endMat (w, o.num) .complete (.failed 1))
    | .abort => .next ((s.abortMat c w o.num).endMat (w, o.num) .complete .clean)
    | k =>
      if k.bank.any fun b => e.claims[b].any (· != w) then .next (s.finishMat (w, o.num) (.failed 1))
      else .next ((s.modMat (w, o.num) fun x => { x with st := .accepted }).modEngine c fun e =>
        { e with queue := e.queue ++ [(w, o.num)] })

/-! ## Jobs (11 R230, R231, R234) -/

/-- The queued operations of a cluster, in acceptance order. -/
def State.matQueue (s : State) (c : ClusterId) : List ((Who × Word) × MatOp) :=
  (s.engine c).queue.filterMap fun x => (s.matOp x).map fun o => (x, o)

/-- The first operation of a unit, with what was accepted before it. -/
def firstUnit (drain : Bool) : List ((Who × Word) × MatOp) → List MatOp → Option ((Who × Word) × MatOp × List MatOp)
  | [], _ => none
  | (x, o) :: r, seen => if o.kind.isDrain = drain then some (x, o, seen) else firstUnit drain r (seen ++ [o])

/-- The operation a unit starts next, where R231 lets it: its unit is free, and nothing accepted earlier on its bank is ahead of it. -/
def State.matReady (s : State) (c : ClusterId) (drain : Bool) : Option ((Who × Word) × MatOp) :=
  let e := s.engine c
  match firstUnit drain (s.matQueue c) [] with
  | none => none
  | some (x, o, seen) =>
    let ahead := seen.any fun p => p.kind.bank == o.kind.bank
    let busy := match e.job with
      | some j => drain && ((s.matOp (j.who, j.num)).bind fun p => p.kind.bank) == o.kind.bank
      | none => false
    if (if drain then e.drain.isSome else e.job.isSome) || ahead || busy then none else some (x, o)

/-- One line of a drained region, as bytes. -/
def lineData (ty : Nat) (xs : List Nat) : List Byte :=
  let w := tyBits (codeTy ty)
  leBytes (spanBytes ty xs.length) (xs.foldr (fun x acc => x % 2 ^ w + 2 ^ w * acc) 0)

/-- A drained element: its bits in the output type with what its status notes (11 R233, R235). -/
def drainElem (ty : Nat) (x : BitVec 32) : Nat × MatStatus :=
  if ty = 0 then
    (x.toNat, { MatStatus.clean with nan := (fp32.decode x.toNat).isNan, inf := match fp32.decode x.toNat with | .inf _ => true | _ => false })
  else
    let t := codeTy ty
    let v := fp32.decode x.toNat
    let (y, fl) := tyEncode t .rne v
    let zero (v : Fv) : Bool := match v with | .fin _ m _ => m == 0 | _ => false
    let u := tyDecode t y
    (y, { MatStatus.clean with
      nan := u.isNan
      inf := match u with | .inf _ => true | _ => false
      sat := fl &&& fOverflow ≠ 0
      flushed := !zero v && zero u })

def MatStatus.join (a b : MatStatus) : MatStatus :=
  { a with nan := a.nan || b.nan, inf := a.inf || b.inf, sat := a.sat || b.sat, flushed := a.flushed || b.flushed }

/-- The elements of line `i`, converted. -/
def DrainF.line (f : DrainF) (b : AccBank) (i : Nat) : List (Nat × MatStatus) :=
  (List.range f.lineLen).map fun j =>
    drainElem f.ty (if f.tr then bankGet b (f.row0 + j) (f.col0 + i) else bankGet b (f.row0 + i) (f.col0 + j))

/-- What a drain's notification adds (11 R235, R240). -/
def DrainF.amount (f : DrainF) : BitVec 32 :=
  if f.countBytes then BitVec.ofNat 32 (f.lines * f.lineBytes) else 1

/-- The packets of a drain, in flow order (11 R235). -/
def DrainF.packets (f : DrainF) (c : ClusterId) (b : AccBank) : List Packet :=
  let p (x : Body) : Packet := ⟨.drain c, .core f.target, .bulk, x⟩
  ((List.range f.lines).map fun i =>
    p (.dline c f.target (f.dest + i * f.stride) (lineData f.ty ((f.line b i).map (·.1))) f.full)) ++
    (if f.notify then [p (.dinc c f.target f.idx f.amount)] else [])

/-- The region of a drain cleared. -/
def DrainF.cleared (f : DrainF) (b : AccBank) : AccBank :=
  b.filter fun x => !(decide (f.row0 ≤ x.1 / 64) && decide (x.1 / 64 < f.row0 + f.rows) && decide (f.col0 ≤ x.1 % 64) &&
    decide (x.1 % 64 < f.col0 + f.cols))

/-- A link between two stacks is lost, and no other way is left (06 R139). -/
def State.noPath (s : State) (a b : Fin 6) : Bool := (s.linksBetween (some a) (some b)).any fun l => (s.link l).st == .lost

/-- A drain starts: its region is read, converted and sent (11 R235); to a fenced die, or with no path left, nothing is sent (11 R236). -/
def State.startDrain (s : State) (c : ClusterId) (x : Who × Word) (f : DrainF) : State :=
  let b := (s.engine c).banks[f.bank]
  let ps := f.packets c b
  let st := ((List.range f.lines).map fun i => (f.line b i).map (·.2)).flatten.foldl MatStatus.join .clean
  let s := s.modMat x fun o => { o with st := .running, status := st }
  let s := s.modEngine c fun e =>
    { e with
      queue := e.queue.filter (· ≠ x), drain := some ⟨x.1, x.2, ps.length, 0⟩
      banks := if f.clr then e.banks.set f.bank (f.cleared b) else e.banks }
  if s.dies[stackDie f.target.stack] ≠ .up ∨ s.noPath c.stack f.target.stack then s else ps.foldl State.inject s

/-- Each element as it was read before, or as it stands now (11 R234, 13 R289). -/
def State.oldOrNew {α : Type} [DecidableEq α] (s : State) : List α → List α → List α × State
  | x :: xs, y :: ys =>
    let (k, s) := if x = y then (0, s) else s.pick 2
    let (r, s) := s.oldOrNew xs ys
    ((if k = 0 then x else y) :: r, s)
  | _, _ => ([], s)

/-- The operands of a job as they stand. -/
def JobF.now (f : JobF) (s : State) (core : CoreId) (fmts : Vector Word 12) : List (BitVec 32) × List (BitVec 32) :=
  (f.readA fmts (s.core core).sp, f.readB (s.engine (clusterOf core)).bstore)

/-- The engine reads a job's operands once more, at a time of its own between issue and completion: each element keeps what an earlier
reading found, or takes what it holds now (11 R234). Nothing is read before the stores the issue released are performed (02 R33). -/
def State.fetchJob (s : State) (x : Who × Word) : State :=
  match s.matOp x with
  | none => s
  | some o => match o.kind with
    | .job f =>
      if o.over ∨ ¬ s.storesDone o.rel then s
      else
        let now := f.now s x.1.core o.fmts
        match o.read with
        | none => s.modMat x fun o => { o with read := some now }
        | some old =>
          let (a, s) := s.oldOrNew old.1 now.1
          let (b, s) := s.oldOrNew old.2 now.2
          s.modMat x fun o => { o with read := some (a, b) }
    | _ => s

/-- The jobs of a cluster's contexts that have not ended and may be read. -/
def State.readable (s : State) (c : ClusterId) : List (Who × Word) :=
  ((List.range 128).map fun i =>
    let w := ctxWho c i
    ((s.slot w).mctx.ops.filter fun o => !o.over && s.storesDone o.rel && (match o.kind with | .job _ => true | _ => false)).map
      fun o => (w, o.num)).flatten

/-- A job, clear or drain starts (11 R231). Where no job or clear may start, the engine reads operands (11 R234). -/
def execMatrixJobStart (c : ClusterId) (drain : Bool) (s : State) : Out :=
  match s.matReady c drain with
  | none => .next (if drain then s else (s.readable c).foldl State.fetchJob s)
  | some (x, o) =>
    match o.kind with
    | .drain f => .next (s.startDrain c x f)
    | _ => .next (((s.fetchJob x).modMat x fun o => { o with st := .running }).modEngine c fun e =>
        { e with queue := e.queue.filter (· ≠ x), job := some ⟨x.1, x.2⟩ })

/-- A job's sums stand in its bank, with what they are noted for. -/
def State.sumJob (s : State) (c : ClusterId) (x : Who × Word) (f : JobF) : State :=
  let s := s.fetchJob x
  let (a, b) := ((s.matOp x).bind (·.read)).getD ([], [])
  let new := f.accumulate a.toArray b.toArray (s.engine c).banks[f.bank]
  let vs := (new.filter fun e => decide (e.1 / 64 < f.m) && decide (e.1 % 64 < f.n)).map fun e => fp32.decode e.2.toNat
  let st : MatStatus := { MatStatus.clean with
    nan := vs.any Fv.isNan
    inf := vs.any fun v => match v with | .inf _ => true | _ => false }
  (s.modEngine c fun e => { e with banks := e.banks.set f.bank new, job := none }).finishMat x st

/-- The running job or clear completes (11 R233). -/
def execMatrixJobComplete (c : ClusterId) (s : State) : Out :=
  match (s.engine c).job with
  | none => .next s
  | some j =>
    let x := (j.who, j.num)
    let idle := s.modEngine c fun e => { e with job := none }
    match s.matOp x with
    | none => .next idle
    | some o => match o.kind with
      | .job f => .next (s.sumJob c x f)
      | .clr b => .next ((idle.modEngine c fun e => { e with banks := e.banks.set b [] }).finishMat x .clean)
      | _ => .next idle

/-! ## The end of a drain (11 R235, R236) -/

/-- Packets of the cluster's running drain are still in flight. -/
def State.drainFlying (s : State) (c : ClusterId) : Bool := s.net.any fun f => decide (f.pkt.src = .drain c)

/-- The running drain ends with a status. -/
def State.endDrain (s : State) (c : ClusterId) (d : RunDrain) (st : MatStatus) : State :=
  (s.modEngine c fun e => { e with drain := none }).endMat (d.who, d.num) (if st.error then .complete else .done) st

/-- The last write and the closing increment have been performed. -/
def execDrainComplete (c : ClusterId) (s : State) : Out :=
  match (s.engine c).drain with
  | none => .next s
  | some d =>
    if d.performed = d.sent ∧ ¬ s.drainFlying c then
      .next (s.endDrain c d (((s.matOp (d.who, d.num)).map (·.status)).getD .clean))
    else .next s

/-- Part of the drain was never performed, and nothing of it is in flight any more. -/
def execDrainFail (c : ClusterId) (s : State) : Out :=
  match (s.engine c).drain with
  | none => .next s
  | some d =>
    if d.performed < d.sent ∧ ¬ s.drainFlying c then
      let st := ((s.matOp (d.who, d.num)).map (·.status)).getD .clean
      .next (s.endDrain c d { st with error := true, cause := 2 })
    else .next s

/-! ## Instructions (11 R239-R243) -/

/-- A failed check of a matrix instruction (11 R238). -/
def matTrap (s : State) (detail : Nat) : Out := trap s 8 1 (BitVec.ofNat 64 detail)

/-- What the engine may read of a job's operands at its issue: all, unless stores released to it are still to be performed (11 R234, 02 R33). -/
def State.readNow (s : State) (k : MatKind) : Option (List (BitVec 32) × List (BitVec 32)) :=
  match k with
  | .job f => if s.storesDone (s.release s.cur) then some (f.now s s.cur.core s.myCore.fmt) else none
  | _ => none

/-- An operation of the matrix context issued: the next number, or a park while eight are outstanding (02 R33). -/
def matIssue (s : State) (d : SReg) (sync : Bool) (k : MatKind) : Out :=
  let sl := s.me
  if 8 ≤ sl.mctx.outstanding then parkAgain s .engineQueue (.engine .m)
  else
    let num := sl.mctx.last + 1
    let o : MatOp := ⟨num, k, s.myCore.fmt, .issued, s.release s.cur, .clean, s.readNow k⟩
    let s := s.mod fun sl => { sl.ws d num with mctx := { sl.mctx with last := num, ops := sl.mctx.ops ++ [o] } }
    if sync then .next (s.park .timeline (.timeline .m num .sync)) else retire s id

/-- A job that passes its checks is issued. -/
def jobIssue (s : State) (d : SReg) (sync : Bool) (f : JobF) : Out :=
  match f.detail s.myCore.fmt with
  | some x => matTrap s x
  | none => matIssue s d sync (.job f)

/-- Matrix instructions are their home core's (11 R226). -/
def matForm (h : Hdr) (s : State) (k : Out) : Out := homeOnly h s k 8 3

def execMjob (h : Hdr) (bank : Fin 4) (z sync : Bool) (d a b : SReg) (s : State) : Out :=
  matForm h s (
    let w1 := s.me.rs b
    if w1.extractLsb' 18 46 ≠ 0 then matTrap s 1
    else match s.myCore.descriptor (s.me.rs a) 64 with
    | .inl _ => matTrap s 8
    | .inr desc => if mjobReserved desc then matTrap s 1 else jobIssue s d sync (mjobOf bank z desc w1))

def execMma (h : Hdr) (bank : Fin 4) (z sync : Bool) (d a b : SReg) (s : State) : Out :=
  matForm h s (
    let w0 := s.me.rs a
    let w1 := s.me.rs b
    if w0.extractLsb' 55 9 ≠ 0 ∨ w1.extractLsb' 53 11 ≠ 0 then matTrap s 1 else jobIssue s d sync (mmaOf bank z w0 w1))

def execMdrain (h : Hdr) (m : DrainArgs) (d a b : SReg) (s : State) : Out :=
  matForm h s (match s.drainCheck m (s.me.rs a) (s.me.rs b) with
    | .inl x => matTrap s x
    | .inr f => matIssue s d m.sync (.drain f))

def execMwait (h : Hdr) (d a : SReg) (s : State) : Out :=
  matForm h s (
    let n := s.me.rs a
    let c := s.me.mctx
    if c.last.ult n then trap s 8 2 n
    else if n = 0 then retire s fun sl => sl.ws d 0
    else if c.tl.ult n then .next (s.park .timeline (.timeline .m n (.mwait d)))
    else retire (s.acquire s.cur.core (tlScope .m)) fun sl => sl.ws d (c.statusOf n))

def execMcfg (h : Hdr) (sync : Bool) (d a : SReg) (s : State) : Out :=
  matForm h s (
    let x := s.me.rs a
    if x.extractLsb' 4 60 ≠ 0 then matTrap s 1 else matIssue s d sync (.cfg (x.extractLsb' 0 4)))

/-- The bits of the banks that a test on their claims selects. -/
def claimBits (e : Engine) (f : Option Who → Bool) : Nat :=
  (List.finRange 4).foldl (fun x b => if f e.claims[b] then x + 2 ^ b.val else x) 0

def execMcfgr (h : Hdr) (d : SReg) (s : State) : Out :=
  matForm h s (
    let e := s.engine (clusterOf s.cur.core)
    retire s fun sl => sl.ws d (BitVec.ofNat 64 (claimBits e (· == some s.cur) + 16 * claimBits e (·.isSome))))

def execMclr (h : Hdr) (bank : Fin 4) (sync : Bool) (d : SReg) (s : State) : Out := matForm h s (matIssue s d sync (.clr bank))
def execMabort (h : Hdr) (sync : Bool) (d : SReg) (s : State) : Out := matForm h s (matIssue s d sync .abort)

end Sys2Proof.Machine
end

