-- ==== Sys2Proof/Machine/Scalar.lean ====
section
/-! DEFINITION. Integer, predicate and scalar floating instructions: majors 0x01 to 0x04, 0x20 and 0x21 (09 R183-R204). -/

namespace Sys2Proof.Machine

/-! ## Shared operations -/

/-- A truncated signed quotient; a zero divisor gives all ones (09 R186, 10 R215). -/
def sdivW {n : Nat} (a b : BitVec n) : BitVec n := if b = 0 then BitVec.allOnes n else a.sdiv b

def udivW {n : Nat} (a b : BitVec n) : BitVec n := if b = 0 then BitVec.allOnes n else a / b

/-- The remainder of that division: a zero divisor gives the dividend. -/
def sremW {n : Nat} (a b : BitVec n) : BitVec n := if b = 0 then a else a.srem b

def uremW {n : Nat} (a b : BitVec n) : BitVec n := if b = 0 then a else a % b

/-- The high half of a signed product (09 R185, 10 R214). -/
def smulhW {n : Nat} (a b : BitVec n) : BitVec n := BitVec.ofInt n (a.toInt * b.toInt / 2 ^ n)

def umulhW {n : Nat} (a b : BitVec n) : BitVec n := BitVec.ofNat n (a.toNat * b.toNat / 2 ^ n)

def sminW {n : Nat} (a b : BitVec n) : BitVec n := if a.slt b then a else b
def smaxW {n : Nat} (a b : BitVec n) : BitVec n := if a.slt b then b else a
def uminW {n : Nat} (a b : BitVec n) : BitVec n := if a < b then a else b
def umaxW {n : Nat} (a b : BitVec n) : BitVec n := if a < b then b else a

/-- The conditions of 09 R188. -/
def condW {n : Nat} (c : Cond) (a b : BitVec n) : Bool :=
  match c with
  | .eq => decide (a = b)
  | .ne => decide (a ≠ b)
  | .lt => a.slt b
  | .ge => !a.slt b
  | .ltu => decide (a < b)
  | .geu => !decide (a < b)
  | .le => !b.slt a
  | .gt => b.slt a
  | .leu => !decide (b < a)
  | .gtu => decide (b < a)

/-- The number of one bits. -/
def popcW {n : Nat} (a : BitVec n) : Nat := ((List.range n).filter a.getLsbD).length

def clzW (a : Word) : Nat := if a = 0 then 64 else 63 - Nat.log2 a.toNat

def ctzW (a : Word) : Nat := ((List.range 64).takeWhile fun i => !a.getLsbD i).length

/-- The shift count of a register shift (09 R187). -/
def shAmt (b : Word) : Nat := b.toNat % 64

def rolW (a b : Word) : Word := a.rotateLeft (shAmt b)
def rorW (a b : Word) : Word := a.rotateRight (shAmt b)

/-- A truth value into an s or k register (09 R188). -/
def Slot.wsk (sl : Slot) (d : SK) (x : Bool) : Slot :=
  match d with
  | .s r => sl.ws r (if x then 1 else 0)
  | .k r => sl.wk r x

/-- A function of two s registers into an s register. -/
def int2 (h : Hdr) (d a b : SReg) (f : Word → Word → Word) (s : State) : Out :=
  guarded h s (retire s fun sl => sl.ws d (f (sl.rs a) (sl.rs b)))

/-- A function of one s register into an s register. -/
def int1 (h : Hdr) (d a : SReg) (f : Word → Word) (s : State) : Out :=
  guarded h s (retire s fun sl => sl.ws d (f (sl.rs a)))

/-- A function of two predicates into a predicate (09 R192). -/
def pred2 (h : Hdr) (d a b : KReg) (f : Bool → Bool → Bool) (s : State) : Out :=
  guarded h s (retire s fun sl => sl.wk d (f (sl.rk a) (sl.rk b)))

/-! ## Integer arithmetic (09 R185, R186) -/

def execAdd (h : Hdr) (d a b : SReg) (s : State) : Out := int2 h d a b (· + ·) s

def execSub (h : Hdr) (d a b : SReg) (s : State) : Out := int2 h d a b (· - ·) s

def execMul (h : Hdr) (d a b : SReg) (s : State) : Out := int2 h d a b (· * ·) s

def execMulh (h : Hdr) (d a b : SReg) (s : State) : Out := int2 h d a b smulhW s

def execUmulh (h : Hdr) (d a b : SReg) (s : State) : Out := int2 h d a b umulhW s

def execDiv (h : Hdr) (d a b : SReg) (s : State) : Out := int2 h d a b sdivW s

def execUdiv (h : Hdr) (d a b : SReg) (s : State) : Out := int2 h d a b udivW s

def execRem (h : Hdr) (d a b : SReg) (s : State) : Out := int2 h d a b sremW s

def execUrem (h : Hdr) (d a b : SReg) (s : State) : Out := int2 h d a b uremW s

def execMin (h : Hdr) (d a b : SReg) (s : State) : Out := int2 h d a b sminW s

def execMax (h : Hdr) (d a b : SReg) (s : State) : Out := int2 h d a b smaxW s

def execUmin (h : Hdr) (d a b : SReg) (s : State) : Out := int2 h d a b uminW s

def execUmax (h : Hdr) (d a b : SReg) (s : State) : Out := int2 h d a b umaxW s

def execMadd (h : Hdr) (d a b c : SReg) (s : State) : Out :=
  guarded h s (retire s fun sl => sl.ws d (sl.rs c + sl.rs a * sl.rs b))

def execMsub (h : Hdr) (d a b c : SReg) (s : State) : Out :=
  guarded h s (retire s fun sl => sl.ws d (sl.rs c - sl.rs a * sl.rs b))

/-! ## Logic, shifts, bits, selection, comparison (09 R187, R188) -/

def execAnd (h : Hdr) (d a b : SReg) (s : State) : Out := int2 h d a b (· &&& ·) s

def execOr (h : Hdr) (d a b : SReg) (s : State) : Out := int2 h d a b (· ||| ·) s

def execXor (h : Hdr) (d a b : SReg) (s : State) : Out := int2 h d a b (· ^^^ ·) s

def execAndn (h : Hdr) (d a b : SReg) (s : State) : Out := int2 h d a b (fun x y => x &&& ~~~y) s

def execOrn (h : Hdr) (d a b : SReg) (s : State) : Out := int2 h d a b (fun x y => x ||| ~~~y) s

def execShl (h : Hdr) (d a b : SReg) (s : State) : Out := int2 h d a b (fun x y => x <<< shAmt y) s

def execShr (h : Hdr) (d a b : SReg) (s : State) : Out := int2 h d a b (fun x y => x >>> shAmt y) s

def execSra (h : Hdr) (d a b : SReg) (s : State) : Out := int2 h d a b (fun x y => x.sshiftRight (shAmt y)) s

def execRol (h : Hdr) (d a b : SReg) (s : State) : Out := int2 h d a b rolW s

def execRor (h : Hdr) (d a b : SReg) (s : State) : Out := int2 h d a b rorW s

def execClz (h : Hdr) (d a : SReg) (s : State) : Out := int1 h d a (fun x => BitVec.ofNat 64 (clzW x)) s

def execCtz (h : Hdr) (d a : SReg) (s : State) : Out := int1 h d a (fun x => BitVec.ofNat 64 (ctzW x)) s

def execPopc (h : Hdr) (d a : SReg) (s : State) : Out := int1 h d a (fun x => BitVec.ofNat 64 (popcW x)) s

def execBswap (h : Hdr) (d a : SReg) (s : State) : Out := int1 h d a (fun x => BitVec.ofNat 64 (leNat (leBytes 8 x.toNat).reverse)) s

def execSel (h : Hdr) (d a b : SReg) (c : KReg) (s : State) : Out :=
  guarded h s (retire s fun sl => sl.ws d (if sl.rk c then sl.rs a else sl.rs b))

def execCmp (h : Hdr) (c : Cond) (d : SK) (a b : SReg) (s : State) : Out :=
  guarded h s (retire s fun sl => sl.wsk d (condW c (sl.rs a) (sl.rs b)))

/-! ## Immediate forms (09 R189-R191) -/

def execAddi (h : Hdr) (d a : SReg) (imm : BitVec 48) (s : State) : Out := int1 h d a (fun x => x + imm.signExtend 64) s

def execAndi (h : Hdr) (d a : SReg) (imm : BitVec 48) (s : State) : Out := int1 h d a (fun x => x &&& imm.signExtend 64) s

def execOri (h : Hdr) (d a : SReg) (imm : BitVec 48) (s : State) : Out := int1 h d a (fun x => x ||| imm.signExtend 64) s

def execXori (h : Hdr) (d a : SReg) (imm : BitVec 48) (s : State) : Out := int1 h d a (fun x => x ^^^ imm.signExtend 64) s

def execShli (h : Hdr) (d a : SReg) (n : BitVec 6) (s : State) : Out := int1 h d a (fun x => x <<< n.toNat) s

def execShri (h : Hdr) (d a : SReg) (n : BitVec 6) (s : State) : Out := int1 h d a (fun x => x >>> n.toNat) s

def execSrai (h : Hdr) (d a : SReg) (n : BitVec 6) (s : State) : Out := int1 h d a (fun x => x.sshiftRight n.toNat) s

def execLi (h : Hdr) (d : SReg) (imm : BitVec 48) (s : State) : Out :=
  guarded h s (retire s fun sl => sl.ws d (imm.signExtend 64))

def execLih (h : Hdr) (d a : SReg) (imm : BitVec 16) (s : State) : Out :=
  int1 h d a (fun x => imm ++ x.extractLsb' 0 48) s

def execLea (h : Hdr) (d a : SReg) (b : Option SReg) (sh : BitVec 3) (disp : BitVec 45) (s : State) : Out :=
  guarded h s (retire s fun sl =>
    let y : Word := match b with
      | some r => sl.rs r <<< sh.toNat
      | none => 0
    sl.ws d (sl.rs a + y + disp.signExtend 64))

def execCmpi (h : Hdr) (c : Cond) (d : SK) (a : SReg) (imm : BitVec 44) (s : State) : Out :=
  guarded h s (retire s fun sl => sl.wsk d (condW c (sl.rs a) (imm.signExtend 64)))

/-- A field of a register, extended (09 R191). -/
def extField (sg : Bool) (x : Word) (pos len : Nat) : Word :=
  let y := x.toNat / 2 ^ pos % 2 ^ len
  if sg then sext y len else BitVec.ofNat 64 y

/-- A register with a field replaced (09 R191). -/
def insField (old x : Word) (pos len : Nat) : Word :=
  let mask : Word := BitVec.ofNat 64 ((2 ^ len - 1) * 2 ^ pos)
  (old &&& ~~~mask) ||| ((x <<< pos) &&& mask)

def execExt (h : Hdr) (sg : Bool) (d a : SReg) (pos len1 : BitVec 6) (s : State) : Out :=
  int1 h d a (fun x => extField sg x pos.toNat (len1.toNat + 1)) s

def execIns (h : Hdr) (d a : SReg) (pos len1 : BitVec 6) (s : State) : Out :=
  guarded h s (retire s fun sl => sl.ws d (insField (sl.rs d) (sl.rs a) pos.toNat (len1.toNat + 1)))

/-! ## Predicates (09 R192) -/

def execPand (h : Hdr) (d a b : KReg) (s : State) : Out := pred2 h d a b (· && ·) s

def execPor (h : Hdr) (d a b : KReg) (s : State) : Out := pred2 h d a b (· || ·) s

def execPxor (h : Hdr) (d a b : KReg) (s : State) : Out := pred2 h d a b (· != ·) s

def execPandn (h : Hdr) (d a b : KReg) (s : State) : Out := pred2 h d a b (fun x y => x && !y) s

def execPsetb (h : Hdr) (d : KReg) (a : SReg) (bit : BitVec 6) (s : State) : Out :=
  guarded h s (retire s fun sl => sl.wk d ((sl.rs a).getLsbD bit.toNat))

def execPsetbAll (h : Hdr) (a : SReg) (s : State) : Out :=
  guarded h s (retire s fun sl => (List.finRange 8).foldl (fun t i => t.wk i ((sl.rs a).getLsbD i.val)) sl)

def execPgetb (h : Hdr) (d : SReg) (a : KReg) (s : State) : Out :=
  guarded h s (retire s fun sl => sl.ws d (if sl.rk a then 1 else 0))

/-- The predicates as the low byte of a word. -/
def Slot.preds (sl : Slot) : Word :=
  (List.finRange 8).foldl (fun (x : Word) (i : KReg) => if sl.rk i then x ||| (1#64 <<< i.val) else x) 0

def execPgetbAll (h : Hdr) (d : SReg) (s : State) : Out :=
  guarded h s (retire s fun sl => sl.ws d sl.preds)

/-! ## Floating arithmetic (09 R193-R198) -/

/-- The format of a scalar floating type. -/
def fmtOf (t : ETy) : Fmt := if t = .fp64 then fp64 else if t = .bf16 then bf16 else fp32

/-- An operand of a type: the low bits of its register (09 R193). -/
def Slot.fbits (sl : Slot) (t : ETy) (r : FReg) : Nat := (sl.rf r).toNat % 2 ^ tyBits t

def Slot.fval (sl : Slot) (t : ETy) (r : FReg) : Fv := tyDecode t (sl.fbits t r)

/-- A result into an f register, zero-extended, with its flags. -/
def floatResult (s : State) (d : FReg) (r : Nat × FFlags) : Out := retireFp s r.2 fun sl => sl.wf d (BitVec.ofNat 64 r.1)

/-- An operation computed exactly and rounded once into the type (03 R48, 09 R194). -/
def floatOp (h : Hdr) (t : ETy) (rm : Rnd) (d : FReg) (f : Dir → Slot → FRes) (s : State) : Out :=
  homeOnly h s (
    let dir := rndDir rm s.me.rmode
    floatResult s d (finish t dir (f dir s.me)))

def execFadd (h : Hdr) (t : ETy) (rm : Rnd) (d a b : FReg) (s : State) : Out :=
  floatOp h t rm d (fun dir sl => fAdd dir (sl.fval t a) (sl.fval t b)) s

def execFsub (h : Hdr) (t : ETy) (rm : Rnd) (d a b : FReg) (s : State) : Out :=
  floatOp h t rm d (fun dir sl => fSub dir (sl.fval t a) (sl.fval t b)) s

def execFmul (h : Hdr) (t : ETy) (rm : Rnd) (d a b : FReg) (s : State) : Out :=
  floatOp h t rm d (fun _ sl => fMul (sl.fval t a) (sl.fval t b)) s

def execFdiv (h : Hdr) (t : ETy) (rm : Rnd) (d a b : FReg) (s : State) : Out :=
  floatOp h t rm d (fun _ sl => fDiv (sl.fval t a) (sl.fval t b)) s

def execFsqrt (h : Hdr) (t : ETy) (rm : Rnd) (d a : FReg) (s : State) : Out :=
  floatOp h t rm d (fun _ sl => fSqrt (sl.fval t a)) s

def execFmin (h : Hdr) (t : ETy) (d a b : FReg) (s : State) : Out :=
  homeOnly h s (floatResult s d (fMinMax (fmtOf t) false (s.me.fbits t a) (s.me.fbits t b)))

def execFmax (h : Hdr) (t : ETy) (d a b : FReg) (s : State) : Out :=
  homeOnly h s (floatResult s d (fMinMax (fmtOf t) true (s.me.fbits t a) (s.me.fbits t b)))

def execFfma (h : Hdr) (t : ETy) (rm : Rnd) (d a b c : FReg) (s : State) : Out :=
  floatOp h t rm d (fun dir sl => fFma dir false false (sl.fval t a) (sl.fval t b) (sl.fval t c)) s

def execFfms (h : Hdr) (t : ETy) (rm : Rnd) (d a b c : FReg) (s : State) : Out :=
  floatOp h t rm d (fun dir sl => fFma dir false true (sl.fval t a) (sl.fval t b) (sl.fval t c)) s

def execFnma (h : Hdr) (t : ETy) (rm : Rnd) (d a b c : FReg) (s : State) : Out :=
  floatOp h t rm d (fun dir sl => fFma dir true false (sl.fval t a) (sl.fval t b) (sl.fval t c)) s

/-- The sign bit's place. -/
def signPos (t : ETy) : Nat := if t = .fp64 then 63 else 31

/-- The operand with its sign replaced (09 R196). -/
def Slot.withSign (sl : Slot) (t : ETy) (a : FReg) (neg : Bool) : Word :=
  BitVec.ofNat 64 (sl.fbits t a % 2 ^ signPos t + if neg then 2 ^ signPos t else 0)

def Slot.fsign (sl : Slot) (t : ETy) (a : FReg) : Bool := (sl.rf a).getLsbD (signPos t)

def execFabs (h : Hdr) (t : ETy) (d a : FReg) (s : State) : Out :=
  homeOnly h s (retire s fun sl => sl.wf d (sl.withSign t a false))

def execFneg (h : Hdr) (t : ETy) (d a : FReg) (s : State) : Out :=
  homeOnly h s (retire s fun sl => sl.wf d (sl.withSign t a (!sl.fsign t a)))

/-- The sign `fsgnj` chooses. -/
def sgnChoice (m : SgnMode) (a b : Bool) : Bool :=
  match m with
  | .cp => b
  | .neg => !b
  | .xor => a != b

def execFsgnj (h : Hdr) (t : ETy) (m : SgnMode) (d a b : FReg) (s : State) : Out :=
  homeOnly h s (retire s fun sl => sl.wf d (sl.withSign t a (sgnChoice m (sl.fsign t a) (sl.fsign t b))))

def execFcmp (h : Hdr) (t : ETy) (c : FCond) (d : SK) (a b : FReg) (s : State) : Out :=
  homeOnly h s (
    let r := fCmp c (s.me.fval t a) (s.me.fval t b)
    retireFp s r.2 fun sl => sl.wsk d r.1)

def execFclass (h : Hdr) (t : ETy) (d : SReg) (a : FReg) (s : State) : Out :=
  homeOnly h s (retire s fun sl => sl.ws d (1#64 <<< fClass (fmtOf t) (sl.fval t a)))

def execFsel (h : Hdr) (d a b : FReg) (c : KReg) (s : State) : Out :=
  homeOnly h s (retire s fun sl => sl.wf d (if sl.rk c then sl.rf a else sl.rf b))

/-! ## Conversions and moves (09 R199-R202) -/

def execFcvt (h : Hdr) (dst src : ETy) (rm : Rnd) (d a : FReg) (s : State) : Out :=
  homeOnly h s (floatResult s d (convert dst src (rndDir rm s.me.rmode) (s.me.fbits src a)))

/-- The bounds of an integer destination, and its register value (09 R200). -/
def idstRange : IDst → Int × Int
  | .int64 => (-(2 ^ 63), 2 ^ 63 - 1)
  | .nat64 => (0, 2 ^ 64 - 1)
  | .int32 => (-(2 ^ 31), 2 ^ 31 - 1)
  | .nat32 => (0, 2 ^ 32 - 1)

def execFcvti (h : Hdr) (src : ETy) (dst : IDst) (rm : Rnd) (d : SReg) (a : FReg) (s : State) : Out :=
  homeOnly h s (
    let v := s.me.fval src a
    let (x, f) := toInt (rndDir rm s.me.rmode) (idstRange dst).1 (idstRange dst).2 v
    retireFp s f fun sl => sl.ws d (BitVec.ofInt 64 x))

def execFicvt (h : Hdr) (dst : ETy) (nat : Bool) (rm : Rnd) (d : FReg) (a : SReg) (s : State) : Out :=
  homeOnly h s (
    let x := s.me.rs a
    let v := Fv.ofInt (if nat then x.toNat else x.toInt)
    floatResult s d (tyEncode dst (rndDir rm s.me.rmode) v))

def execFmvs (h : Hdr) (d : SReg) (a : FReg) (s : State) : Out := homeOnly h s (retire s fun sl => sl.ws d (sl.rf a))

def execFmvf (h : Hdr) (d : FReg) (a : SReg) (s : State) : Out := homeOnly h s (retire s fun sl => sl.wf d (sl.rs a))

def execFliFp32 (h : Hdr) (d : FReg) (imm : BitVec 32) (s : State) : Out :=
  homeOnly h s (retire s fun sl => sl.wf d (imm.setWidth 64))

def execFliFp64 (h : Hdr) (d : FReg) (imm : BitVec 47) (s : State) : Out :=
  homeOnly h s (retire s fun sl => sl.wf d (imm.setWidth 64 <<< 17))

/-! ## Flags and enables (09 R203) -/

def execFflg (h : Hdr) (d a : SReg) (s : State) : Out :=
  homeOnly h s (retire s fun sl =>
    ({ sl with flags := sl.flags &&& ~~~((sl.rs a).setWidth 5) }).ws d (sl.flags.setWidth 64))

def execFenw (h : Hdr) (d a : SReg) (s : State) : Out :=
  homeOnly h s (retire s fun sl => ({ sl with fen := (sl.rs a).setWidth 5 }).ws d (sl.fen.setWidth 64))

end Sys2Proof.Machine
end

