-- ==== Sys2Proof/Machine/Vector.lean ====
section
/-! DEFINITION. Vector instructions: majors 0x60 to 0x63, with repeat issue over streams (10 R205-R224). -/

namespace Sys2Proof.Machine

/-! ## Lanes (10 R205, R208) -/

/-- The lanes of a register at a width in bits, lane 0 first. -/
def lanesOf (bits : Nat) (x : VWord) : List Nat := (List.range (512 / bits)).map fun i => x.toNat / 2 ^ (bits * i) % 2 ^ bits

/-- A register from lanes of a width. -/
def ofLanes (bits : Nat) (l : List Nat) : VWord :=
  BitVec.ofNat 512 ((l.zipIdx).foldl (fun acc x => acc + x.1 % 2 ^ bits * 2 ^ (bits * x.2)) 0)

/-- The bytes of the active lanes. -/
def byteMask (bits : Nat) (act : List Bool) : BitVec 64 :=
  let n := bits / 8
  BitVec.ofNat 64 ((act.zipIdx).foldl (fun acc x => acc + if x.1 then (2 ^ n - 1) * 2 ^ (n * x.2) else 0) 0)

/-- Bit 0 of every lane of a register at a width (10 R208). -/
def bit0s (bits : Nat) (x : VWord) : List Bool := (lanesOf bits x).map fun y => decide (y % 2 = 1)

/-! ## What an operation names -/

def vfReads : VF → List VReg
  | .v r => [r]
  | .f _ => []

def vsReads : VS → List VReg
  | .v r => [r]
  | .s _ => []

/-- The v registers an operation reads. -/
def vopReads : VOp → List VReg
  | .fbin _ _ _ a b => a :: vfReads b
  | .fma _ _ _ a b c => a :: vfReads b ++ vfReads c
  | .fun1 _ _ _ a => [a]
  | .ibin _ _ _ _ a b => a :: vsReads b
  | .iabs _ _ a => [a]
  | .ipopc _ _ a => [a]
  | .cmp _ _ _ a b => a :: vsReads b
  | .fcmp _ _ _ a b => a :: vfReads b
  | .sel _ _ a b c => [a, b, c]
  | .cvt _ _ _ a _ => [a]
  | .cvts _ src _ a => if src = .fp32 then [a, a + 1] else [a]
  | .red _ _ _ a => [a]
  | .redi _ _ a => [a]
  | .compress _ _ a b => [a, b]
  | .expand _ _ a b => [a, b]
  | .slideup _ _ a _ => [a]
  | .slidedn _ _ a _ => [a]
  | .perm _ _ a b => [a, b]
  | .bcastS _ _ _ => []
  | .bcastL _ _ a _ => [a]
  | .movLane _ _ _ a _ => [a]
  | .movCnt _ _ a => [a]
  | .movBits _ _ a => [a]
  | .ins _ _ _ _ => []
  | .zord _ _ _ a b c => [a, b] ++ c.toList
  | .gath _ _ _ b => [b]
  | .scat _ d _ b => [d, b]

/-- The v registers an operation writes. -/
def vopWrites : VOp → List VReg
  | .fbin _ _ d _ _ => [d]
  | .fma _ _ d _ _ _ => [d]
  | .fun1 _ _ d _ => [d]
  | .ibin _ _ _ d _ _ => [d]
  | .iabs _ d _ => [d]
  | .ipopc _ d _ => [d]
  | .cmp _ _ d _ _ => [d]
  | .fcmp _ _ d _ _ => [d]
  | .sel _ d _ _ _ => [d]
  | .cvt _ _ d _ _ => [d]
  | .cvts dst _ d _ => if dst = .fp32 then [d, d + 1] else [d]
  | .red _ _ _ _ => []
  | .redi _ _ _ => []
  | .compress _ d _ _ => [d]
  | .expand _ d _ _ => [d]
  | .slideup _ d _ _ => [d]
  | .slidedn _ d _ _ => [d]
  | .perm _ d _ _ => [d]
  | .bcastS _ d _ => [d]
  | .bcastL _ d _ _ => [d]
  | .movLane _ _ _ _ _ => []
  | .movCnt _ _ _ => []
  | .movBits _ _ _ => []
  | .ins _ d _ _ => [d]
  | .zord _ _ d _ _ _ => [d]
  | .gath _ d _ _ => [d]
  | .scat _ _ _ _ => []

/-! ## Validity under repeat (10 R209) -/

/-- The streams among an operation's operands. -/
def Slot.vstreams (sl : Slot) (o : VOp) : List Stream := (vopReads o ++ vopWrites o).eraseDups.filterMap sl.stream

/-- The elements of the current strip of a stream. -/
def Stream.current (st : Stream) : Nat :=
  if st.wr then st.stripLen else match st.buf with | p :: _ => p.n | [] => 0

/-- The bytes valid in every streaming operand's strip. -/
def validBytes (sts : List Stream) : Nat := (sts.map fun st => st.current * (st.laneBits / 8)).foldl min 64

/-- The lanes of a width that are valid, and switched on by a mask register (10 R208, R209). -/
def Slot.actives (sl : Slot) (bits : Nat) (mask : Option (Fin 4)) (valid : Nat) : List Bool :=
  let m := match mask with
    | some i => bit0s bits (sl.rv (Fin.ofNat 16 (8 + i.val)))
    | none => (List.range (512 / bits)).map fun _ => true
  (m.zipIdx).map fun x => x.1 && decide ((x.2 + 1) * (bits / 8) ≤ valid)

/-! ## Lane operations (10 R212-R218) -/

/-- A lane's result with its flags. -/
abbrev Lane := Nat × FFlags

def fbinLane (o : VFBin) (t : ETy) (d : Dir) (x y : Nat) : Lane :=
  let a := tyDecode t x
  let b := tyDecode t y
  match o with
  | .add => finish t d (fAdd d a b)
  | .sub => finish t d (fSub d a b)
  | .mul => finish t d (fMul a b)
  | .div => finish t d (fDiv a b)
  | .min => fMinMax (fmtOf t) false x y
  | .max => fMinMax (fmtOf t) true x y

def fmaLane (o : VFma) (t : ETy) (d : Dir) (x y z : Nat) : Lane :=
  let r := fun (np nc : Bool) => finish t d (fFma d np nc (tyDecode t x) (tyDecode t y) (tyDecode t z))
  match o with
  | .ma => r false false
  | .ms => r false true
  | .nma => r true false

def fun1Lane (o : VFUn) (t : ETy) (d : Dir) (x : Nat) : Lane :=
  let sign := 2 ^ (tyBits t - 1)
  let a := tyDecode t x
  match o with
  | .abs => (x % sign, 0)
  | .neg => (if x < sign then x + sign else x - sign, 0)
  | .sqrt => finish t d (fSqrt a)
  | .exp2 => exp2V t d a
  | .log2 => log2V t d a
  | .rcp => rcpV t d a
  | .rsq => rsqV t d a

/-- An integer operation on lanes of `n` bits (10 R214, R215). -/
def ibinLane (o : VIBin) (u : Bool) (n : Nat) (x y : Nat) : Nat :=
  let a := BitVec.ofNat n x
  let b := BitVec.ofNat n y
  let r : BitVec n := match o with
    | .add => a + b
    | .sub => a - b
    | .mul => a * b
    | .mulh => if u then umulhW a b else smulhW a b
    | .min => if u then uminW a b else sminW a b
    | .max => if u then umaxW a b else smaxW a b
    | .and => a &&& b
    | .or => a ||| b
    | .xor => a ^^^ b
    | .shl => a <<< (y % n)
    | .shr => a >>> (y % n)
    | .sra => a.sshiftRight (y % n)
    | .div => if u then udivW a b else sdivW a b
    | .rem => if u then uremW a b else sremW a b
  r.toNat

/-- A truth value as a lane. -/
def allOnesIf (n : Nat) (b : Bool) : Nat := if b then 2 ^ n - 1 else 0

/-! ## Sources -/

/-- The lanes of a v register or an f register broadcast (10 R206). -/
def Slot.vfLanes (sl : Slot) (t : ETy) (b : VF) : List Nat :=
  match b with
  | .v r => lanesOf (laneBits t) (sl.rvS r)
  | .f r => (List.range (512 / laneBits t)).map fun _ => sl.fbits t r

def Slot.vsLanes (sl : Slot) (t : ETy) (b : VS) : List Nat :=
  match b with
  | .v r => lanesOf (laneBits t) (sl.rvS r)
  | .s r => (List.range (512 / laneBits t)).map fun _ => (sl.rs r).toNat % 2 ^ laneBits t

def Slot.vLanes (sl : Slot) (t : ETy) (a : VReg) : List Nat := lanesOf (laneBits t) (sl.rvS a)

/-- The low bits of an s or f register. -/
def Slot.sfBits (sl : Slot) (n : Nat) (a : SF) : Nat :=
  match a with
  | .s r => (sl.rs r).toNat % 2 ^ n
  | .f r => (sl.rf r).toNat % 2 ^ n

/-! ## Results -/

/-- What an operation does to the slot and the scratchpad, or the local fault it meets. -/
inductive VRes
  | v (d : VReg) (x : VWord) (mask : BitVec 64) (fl : FFlags)
  | pair (d : VReg) (x y : VWord) (mask : BitVec 64) (fl : FFlags)
  | f (d : FReg) (x : Word) (fl : FFlags)
  | s (d : SReg) (x : Word)
  | stores (l : List (Nat × List Byte))
  | fault (sub : Nat) (va : Word)

/-- A lane-wise result: inactive lanes keep the register's value and raise nothing (10 R208). -/
def lanewise (sl : Slot) (d : VReg) (bits : Nat) (act : List Bool) (r : List Lane) : VRes :=
  let old := lanesOf bits (sl.rv d)
  let out := (List.zip (List.zip act r) old).map fun x => if x.1.1 then x.1.2.1 else x.2
  let fl := (List.zip act r).foldl (fun (f : FFlags) x => if x.1 then f ||| x.2.2 else f) 0
  .v d (ofLanes bits out) (byteMask bits act) fl

/-- Lanes moved without flags. -/
def moved (sl : Slot) (d : VReg) (bits valid : Nat) (r : List Nat) : VRes :=
  lanewise sl d bits (sl.actives bits none valid) (r.map fun x => (x, 0))

/-! ## Conversions (10 R218, R219) -/

/-- `vcvt`: the targeted lanes with their results (10 R218). -/
def cvtLanes (sl : Slot) (dst src : ETy) (dir : Dir) (d a : VReg) (p : Nat) (act : List Bool) : VRes :=
  let bs := laneBits src
  let bd := laneBits dst
  let e := 512 / max bs bd
  let from_ := lanesOf bs (sl.rvS a)
  let r := (List.range (512 / bd)).map fun i =>
    if bs < bd then (true, convert dst src dir (from_.getD (p * e + i) 0))
    else if p * e ≤ i ∧ i < p * e + e then (true, convert dst src dir (from_.getD (i - p * e) 0))
    else (false, ((lanesOf bd (sl.rv d)).getD i 0, 0))
  lanewise sl d bd act (r.map fun x => if x.1 then x.2 else (x.2.1, 0))

/-- `vcvts` into a tapered type: the codes, and the scale in byte lane 32 (10 R219). -/
def cvtsDown (sl : Slot) (dst src : ETy) (d a : VReg) (valid : Nat) : VRes :=
  let xs := if src = .fp32 then lanesOf 32 (sl.rvS a) ++ lanesOf 32 (sl.rvS (a + 1)) else lanesOf 16 (sl.rvS a)
  let (sc, codes) := quantBlock dst (xs.map (tyDecode src))
  lanewise sl d 8 (sl.actives 8 none valid) (codes ++ (sc, 0) :: List.replicate 31 (0, 0))

/-- `vcvts` from a tapered type. -/
def cvtsUp (sl : Slot) (dst src : ETy) (d a : VReg) (valid : Nat) : VRes :=
  let xs := lanesOf 8 (sl.rvS a)
  let sc := xs.getD 32 0
  let one (x : Nat) : Lane :=
    let v : Fv := if sc = 255 then .nan false else match tyDecode src x with
      | .fin n m e => .fin n m (e + sc - 127)
      | u => u
    let (w, f) := fp32.encode .rne v
    if dst = .bf16 then (let (z, g) := bf16.encode .rne (fp32.decode w); (z, f ||| g)) else (w, f)
  let r := (xs.take 32).map one
  if dst = .fp32 then
    let act := sl.actives 32 none valid
    match lanewise sl d 32 act (r.take 16), lanewise sl (d + 1) 32 act (r.drop 16) with
    | .v _ x m f, .v _ y _ g => .pair d x y m (f ||| g)
    | z, _ => z
  else lanewise sl d 16 (sl.actives 16 none valid) r

/-! ## Reductions (03 R65, 10 R220) -/

/-- Adjacent pairs combined. -/
def pairUp (f : Nat → Nat → Lane) : List Lane → List Lane
  | x :: y :: r => (let z := f x.1 y.1; (z.1, z.2 ||| x.2 ||| y.2)) :: pairUp f r
  | l => l

/-- The tree of 03 R65, level by level. -/
def tree (f : Nat → Nat → Lane) : Nat → List Lane → Lane
  | 0, l => l.headD (0, 0)
  | n + 1, l => if l.length ≤ 1 then l.headD (0, 0) else tree f n (pairUp f l)

/-- The identity of a floating reduction in its type. -/
def redIdentity (o : VRed) (f : Fmt) : Nat :=
  match o with
  | .add => f.signBit
  | .max => f.signBit + f.infBits
  | .min => f.infBits

def redStep (o : VRed) (t : ETy) (d : Dir) (x y : Nat) : Lane :=
  match o with
  | .add => fbinLane .add t d x y
  | .max => fMinMax (fmtOf t) true x y
  | .min => fMinMax (fmtOf t) false x y

/-- A floating reduction of a strip; `run` continues from the destination (10 R210, R220). -/
def redFloat (sl : Slot) (o : VRed) (t : ETy) (dir : Dir) (d : FReg) (a : VReg) (act : List Bool) (run : Bool) : VRes :=
  let xs := (List.zip act (sl.vLanes t a)).map fun x => if x.1 then x.2 else redIdentity o (fmtOf t)
  let r := tree (redStep o t dir) 6 (xs.map fun x => (x, 0))
  let r := if run then (let z := redStep o t dir (sl.fbits t d) r.1; (z.1, z.2 ||| r.2)) else r
  .f d (BitVec.ofNat 64 r.1) r.2

def redInt (sl : Slot) (t : ETy) (d : SReg) (a : VReg) (act : List Bool) (run : Bool) : VRes :=
  let n := laneBits t
  let xs := (List.zip act (sl.vLanes t a)).map fun x => if x.1 then x.2 else 0
  let sum := xs.foldl (· + ·) (if run then (sl.rs d).toNat else 0)
  .s d (sext (sum % 2 ^ n) n)

/-! ## Lane movement (10 R221, R222) -/

/-- The lanes an index list takes, ascending. -/
def expandLanes : List Bool → List Nat → List Nat → List Nat
  | true :: r, x :: xs, _ :: os => x :: expandLanes r xs os
  | true :: r, [], _ :: os => 0 :: expandLanes r [] os
  | false :: r, xs, o :: os => o :: expandLanes r xs os
  | _, _, _ => []

/-- Bits spread `n` apart, from bit `off` on (10 R222). -/
def spread (n off count x : Nat) : Nat :=
  (List.range count).foldl (fun acc i => if x.testBit i then acc + 2 ^ (n * i + off) else acc) 0

/-- The Morton key of 32-bit fields (10 R222). -/
def zkey (x y : Nat) (z : Option Nat) : Nat :=
  match z with
  | some w => spread 3 0 21 x + spread 3 1 21 y + spread 3 2 21 w
  | none => spread 2 0 32 x + spread 2 1 32 y

def zordLanes (sl : Slot) (hi : Bool) (a b : VReg) (c : Option VReg) : List Nat :=
  let at_ (r : VReg) (j : Nat) : Nat := (lanesOf 32 (sl.rvS r)).getD (j + if hi then 8 else 0) 0
  ((List.range 8).map fun j =>
    let k := zkey (at_ a j) (at_ b j) (c.map fun r => at_ r j)
    [k % 2 ^ 32, k / 2 ^ 32]).flatten

/-! ## Gather and scatter (10 R223) -/

/-- The address of each element not skipped, by lane. -/
def Slot.gathAddrs (sl : Slot) (m : MemArgs) (a : SReg) (b : VReg) (valid : Nat) : List (Nat × Word) :=
  ((lanesOf 32 (sl.rvS b)).zipIdx).filterMap fun x =>
    if x.1 = 0xFFFFFFFF ∨ valid < 4 * (x.2 + 1) then none
    else some (x.2, sl.rs a + m.off.signExtend 64 + BitVec.ofNat 64 x.1)

/-- The first fault among them: the lowest lane's. -/
def gathFault (n : Nat) : List (Nat × Word) → Option (Nat × Word)
  | [] => none
  | x :: r => match localFault x.2 n n with
    | some sub => some (sub, x.2)
    | none => gathFault n r

/-- A gather: an element whose index lane is not valid is inactive (10 R209). -/
def gathRes (c : Core) (sl : Slot) (m : MemArgs) (d : VReg) (a : SReg) (b : VReg) (valid : Nat) : VRes :=
  let n := m.width.bytes
  let as := sl.gathAddrs m a b valid
  match gathFault n as with
  | some (sub, va) => .fault sub va
  | none =>
    let xs := (List.range 16).map fun i => match as.find? fun x => x.1 == i with
      | some (_, va) => c.sp.num va.toNat n
      | none => 0
    let act := (sl.actives (8 * n) none valid).zipIdx.map fun x => x.1 && (decide (16 ≤ x.2) || decide (4 * (x.2 + 1) ≤ valid))
    lanewise sl d (8 * n) act (xs.map (fun x => (x, 0)) ++ List.replicate (64 / n - 16) (0, 0))

/-- A scatter: the bytes stored, by rising lane. -/
def scatRes (sl : Slot) (m : MemArgs) (d : VReg) (a : SReg) (b : VReg) (valid : Nat) : VRes :=
  let n := m.width.bytes
  let as := (sl.gathAddrs m a b valid).filter fun x => decide (n * (x.1 + 1) ≤ valid)
  match gathFault n as with
  | some (sub, va) => .fault sub va
  | none => .stores (as.map fun x => (x.2.toNat, leBytes n ((lanesOf (8 * n) (sl.rvS d)).getD x.1 0)))

/-! ## One execution -/

/-- The result of one execution on the slot's operands; `run` is the repeat-continuation bit as a reduction reads it (10 R220). -/
def vresult (c : Core) (sl : Slot) (o : VOp) (valid : Nat) (run : Bool) : VRes :=
  let dir (m : VMod) : Dir := rndDir m.rm sl.rmode
  let act (m : VMod) : List Bool := sl.actives (laneBits m.t) m.mask valid
  let zip2 (f : Nat → Nat → Lane) (x y : List Nat) : List Lane := List.zipWith f x y
  match o with
  | .fbin o m d a b => lanewise sl d (laneBits m.t) (act m) (zip2 (fbinLane o m.t (dir m)) (sl.vLanes m.t a) (sl.vfLanes m.t b))
  | .fma o m d a b e => lanewise sl d (laneBits m.t) (act m)
      ((List.zip (List.zip (sl.vLanes m.t a) (sl.vfLanes m.t b)) (sl.vfLanes m.t e)).map fun x =>
        fmaLane o m.t (dir m) x.1.1 x.1.2 x.2)
  | .fun1 o m d a => lanewise sl d (laneBits m.t) (act m) ((sl.vLanes m.t a).map (fun1Lane o m.t (dir m)))
  | .ibin o u m d a b => lanewise sl d (laneBits m.t) (act m)
      (zip2 (fun x y => (ibinLane o u (laneBits m.t) x y, 0)) (sl.vLanes m.t a) (sl.vsLanes m.t b))
  | .iabs m d a => lanewise sl d (laneBits m.t) (act m)
      ((sl.vLanes m.t a).map fun x =>
        let n := laneBits m.t
        (if 2 ^ (n - 1) ≤ x then (2 ^ n - x) % 2 ^ n else x, 0))
  | .ipopc m d a => lanewise sl d (laneBits m.t) (act m)
      ((sl.vLanes m.t a).map fun x => (popcW (BitVec.ofNat (laneBits m.t) x), 0))
  | .cmp q m d a b => lanewise sl d (laneBits m.t) (act m)
      (zip2 (fun x y =>
        let n := laneBits m.t
        (allOnesIf n (condW q (BitVec.ofNat n x) (BitVec.ofNat n y)), 0)) (sl.vLanes m.t a) (sl.vsLanes m.t b))
  | .fcmp q m d a b => lanewise sl d (laneBits m.t) (act m)
      (zip2 (fun x y =>
        let r := fCmp q (tyDecode m.t x) (tyDecode m.t y)
        (allOnesIf (laneBits m.t) r.1, r.2)) (sl.vLanes m.t a) (sl.vfLanes m.t b))
  | .sel t d a b e => moved sl d (laneBits t) valid
      ((List.zip (List.zip (sl.vLanes t a) (sl.vLanes t b)) (sl.vLanes t e)).map fun x => if x.2 % 2 = 1 then x.1.1 else x.1.2)
  | .cvt src m d a p => cvtLanes sl m.t src (dir m) d a p.val (act m)
  | .cvts dst src d a =>
      if dst = .t8 ∨ dst = .t6 then cvtsDown sl dst src d a valid else cvtsUp sl dst src d a valid
  | .red o m d a => redFloat sl o m.t (dir m) d a (act m) run
  | .redi m d a => redInt sl m.t d a (act m) run
  | .compress t d a b =>
      let n := 512 / laneBits t
      let l := (List.zip (bit0s (laneBits t) (sl.rvS b)) (sl.vLanes t a)).filterMap fun x => if x.1 then some x.2 else none
      moved sl d (laneBits t) valid (l ++ List.replicate (n - l.length) 0)
  | .expand t d a b => moved sl d (laneBits t) valid
      (expandLanes (bit0s (laneBits t) (sl.rvS b)) (sl.vLanes t a) (lanesOf (laneBits t) (sl.rv d)))
  | .slideup t d a n =>
      let k := (sl.rsi n).toNat
      let l := sl.vLanes t a
      moved sl d (laneBits t) valid ((List.range l.length).map fun i => if k ≤ i then l.getD (i - k) 0 else 0)
  | .slidedn t d a n =>
      let k := (sl.rsi n).toNat
      let l := sl.vLanes t a
      moved sl d (laneBits t) valid ((List.range l.length).map fun i => l.getD (i + k) 0)
  | .perm t d a b =>
      let l := sl.vLanes t a
      moved sl d (laneBits t) valid ((sl.vLanes t b).map fun i => l.getD i 0)
  | .bcastS t d a => moved sl d (laneBits t) valid (List.replicate (512 / laneBits t) (sl.sfBits (laneBits t) a))
  | .bcastL t d a n =>
      moved sl d (laneBits t) valid (List.replicate (512 / laneBits t) ((sl.vLanes t a).getD (sl.rsi n).toNat 0))
  | .movLane t sg d a n =>
      let x := (sl.vLanes t a).getD (sl.rsi n).toNat 0
      match d with
      | .s r => .s r (if sg then sext x (laneBits t) else BitVec.ofNat 64 x)
      | .f r => .f r (BitVec.ofNat 64 x) 0
  | .movCnt t d a => .s d (BitVec.ofNat 64 ((bit0s (laneBits t) (sl.rvS a)).filter id).length)
  | .movBits t d a => .s d (BitVec.ofNat 64
      (((bit0s (laneBits t) (sl.rvS a)).zipIdx).foldl (fun acc x => if x.1 then acc + 2 ^ x.2 else acc) 0))
  | .ins t d a n => moved sl d (laneBits t) valid
      ((lanesOf (laneBits t) (sl.rv d)).set (sl.rsi n).toNat (sl.sfBits (laneBits t) a))
  | .zord _ hi d a b e => moved sl d 32 valid (zordLanes sl hi a b e)
  | .gath m d a b => gathRes c sl m d a b valid
  | .scat m d a b => scatRes sl m d a b valid

/-- The result applied: sources popped, then destinations written or pushed (10 R206, R209). -/
def applyVRes (s : State) (o : VOp) (r : VRes) : Sum (Nat × Word) (State × FFlags) :=
  let s' := s.mod fun sl => sl.pops (vopReads o)
  match r with
  | .v d x m fl => .inr (s'.mod fun sl => sl.wvM d x m, fl)
  | .pair d x y m fl => .inr (s'.mod fun sl => (sl.wvM d x m).wvM (d + 1) y m, fl)
  | .f d x fl => .inr (s'.mod fun sl => sl.wf d x, fl)
  | .s d x => .inr (s'.mod fun sl => sl.ws d x, 0)
  | .stores l => .inr (s'.modMyCore fun c => l.foldl (fun c e => c.spWrite e.1 e.2) c, 0)
  | .fault sub va => .inl (sub, va)

/-- The instruction's effect is complete: flags, the pc where it moves on, and an enabled exception (10 R211). -/
def vfinish (s : State) (fl : FFlags) (f : Slot → Slot) : Out :=
  let pc := s.me.pc
  .next ((s.mod fun sl => { f sl with flags := sl.flags ||| fl }).fpPark fl pc)

/-- An operation that accesses the scratchpad. -/
def vopLocal : VOp → Bool
  | .gath _ _ _ _ => true
  | .scat _ _ _ _ => true
  | _ => false

/-- A repetition, or a whole instruction without repeat, once its gates are open. -/
def vexecute (s : State) (o : VOp) (valid : Nat) (run : Bool) (f : Slot → Slot) : Out :=
  if vopLocal o && s.me.releasing then parkAgain s .storeQueue .release
  else match applyVRes s o (vresult s.myCore s.me o valid run) with
  | .inl (sub, va) => trap s 7 sub va
  | .inr (s, fl) => vfinish s fl f

/-- The sequence goes on: the repeat-continuation bit is set by this instruction (10 R210), and a slot of a block leaves it (15 R323). -/
def Slot.continue_ (sl : Slot) : Slot :=
  { sl with repCont := true, repPc := sl.pc, walks := [], block := none, state := if sl.state = .block then .running else sl.state }

/-- The sequence is at its end. -/
def Slot.endRep (sl : Slot) : Slot := { sl.next with repCont := false }

/-- One repetition (10 R209): it ends the sequence where a stream among its operands gives its last strip. -/
def vrepeat (s : State) (o : VOp) : Out :=
  let sl := s.me
  let sts := sl.vstreams o
  if sts.isEmpty then trap s 6 7 0
  else if sts.any fun st => decide (st.total ≤ st.pos) then .next (s.mod Slot.endRep)
  else streamGate s (vopReads o) (vopWrites o) (
    let last := sts.any fun st => decide (st.total ≤ st.pos + st.current)
    vexecute s o (validBytes sts) sl.repCont (if last then Slot.endRep else Slot.continue_))

/-- A vector instruction: once, or with the repeat hint its first repetition. -/
def vform (h : Hdr) (o : VOp) (s : State) : Out :=
  homeOnly h s (
    if h.rep then vrepeat s o
    else streamGate s (vopReads o) (vopWrites o) (vexecute s o 64 false Slot.next))

/-- A later repetition: the guard was evaluated at the first (10 R209). -/
def execRepetition (_h : Hdr) (o : VOp) (s : State) : Out := vrepeat s o

/-! ## Major 0x60 (10 R212, R213) -/

def execVfadd (h : Hdr) (m : VMod) (d a : VReg) (b : VF) (s : State) : Out := vform h (.fbin .add m d a b) s

def execVfsub (h : Hdr) (m : VMod) (d a : VReg) (b : VF) (s : State) : Out := vform h (.fbin .sub m d a b) s

def execVfmul (h : Hdr) (m : VMod) (d a : VReg) (b : VF) (s : State) : Out := vform h (.fbin .mul m d a b) s

def execVfdiv (h : Hdr) (m : VMod) (d a : VReg) (b : VF) (s : State) : Out := vform h (.fbin .div m d a b) s

def execVfma (h : Hdr) (m : VMod) (d a : VReg) (b c : VF) (s : State) : Out := vform h (.fma .ma m d a b c) s

def execVfms (h : Hdr) (m : VMod) (d a : VReg) (b c : VF) (s : State) : Out := vform h (.fma .ms m d a b c) s

def execVfnma (h : Hdr) (m : VMod) (d a : VReg) (b c : VF) (s : State) : Out := vform h (.fma .nma m d a b c) s

def execVfmin (h : Hdr) (m : VMod) (d a : VReg) (b : VF) (s : State) : Out := vform h (.fbin .min m d a b) s

def execVfmax (h : Hdr) (m : VMod) (d a : VReg) (b : VF) (s : State) : Out := vform h (.fbin .max m d a b) s

def execVfabs (h : Hdr) (m : VMod) (d a : VReg) (s : State) : Out := vform h (.fun1 .abs m d a) s

def execVfneg (h : Hdr) (m : VMod) (d a : VReg) (s : State) : Out := vform h (.fun1 .neg m d a) s

def execVfsqrt (h : Hdr) (m : VMod) (d a : VReg) (s : State) : Out := vform h (.fun1 .sqrt m d a) s

def execVexp2 (h : Hdr) (m : VMod) (d a : VReg) (s : State) : Out := vform h (.fun1 .exp2 m d a) s

def execVlog2 (h : Hdr) (m : VMod) (d a : VReg) (s : State) : Out := vform h (.fun1 .log2 m d a) s

def execVrcp (h : Hdr) (m : VMod) (d a : VReg) (s : State) : Out := vform h (.fun1 .rcp m d a) s

def execVrsq (h : Hdr) (m : VMod) (d a : VReg) (s : State) : Out := vform h (.fun1 .rsq m d a) s

/-! ## Major 0x61 (10 R214, R215) -/

def execVadd (h : Hdr) (m : VMod) (d a : VReg) (b : VS) (s : State) : Out := vform h (.ibin .add false m d a b) s

def execVsub (h : Hdr) (m : VMod) (d a : VReg) (b : VS) (s : State) : Out := vform h (.ibin .sub false m d a b) s

def execVmul (h : Hdr) (m : VMod) (d a : VReg) (b : VS) (s : State) : Out := vform h (.ibin .mul false m d a b) s

def execVmulh (h : Hdr) (u : Bool) (m : VMod) (d a : VReg) (b : VS) (s : State) : Out := vform h (.ibin .mulh u m d a b) s

def execVmin (h : Hdr) (u : Bool) (m : VMod) (d a : VReg) (b : VS) (s : State) : Out := vform h (.ibin .min u m d a b) s

def execVmax (h : Hdr) (u : Bool) (m : VMod) (d a : VReg) (b : VS) (s : State) : Out := vform h (.ibin .max u m d a b) s

def execVand (h : Hdr) (m : VMod) (d a : VReg) (b : VS) (s : State) : Out := vform h (.ibin .and false m d a b) s

def execVor (h : Hdr) (m : VMod) (d a : VReg) (b : VS) (s : State) : Out := vform h (.ibin .or false m d a b) s

def execVxor (h : Hdr) (m : VMod) (d a : VReg) (b : VS) (s : State) : Out := vform h (.ibin .xor false m d a b) s

def execVshl (h : Hdr) (m : VMod) (d a : VReg) (b : VS) (s : State) : Out := vform h (.ibin .shl false m d a b) s

def execVshr (h : Hdr) (m : VMod) (d a : VReg) (b : VS) (s : State) : Out := vform h (.ibin .shr false m d a b) s

def execVsra (h : Hdr) (m : VMod) (d a : VReg) (b : VS) (s : State) : Out := vform h (.ibin .sra false m d a b) s

def execVabs (h : Hdr) (m : VMod) (d a : VReg) (s : State) : Out := vform h (.iabs m d a) s

def execVdiv (h : Hdr) (u : Bool) (m : VMod) (d a : VReg) (b : VS) (s : State) : Out := vform h (.ibin .div u m d a b) s

def execVrem (h : Hdr) (u : Bool) (m : VMod) (d a : VReg) (b : VS) (s : State) : Out := vform h (.ibin .rem u m d a b) s

def execVpopc (h : Hdr) (m : VMod) (d a : VReg) (s : State) : Out := vform h (.ipopc m d a) s

/-! ## Major 0x62 (10 R216-R220) -/

def execVcmp (h : Hdr) (c : Cond) (m : VMod) (d a : VReg) (b : VS) (s : State) : Out := vform h (.cmp c m d a b) s

def execVfcmp (h : Hdr) (c : FCond) (m : VMod) (d a : VReg) (b : VF) (s : State) : Out := vform h (.fcmp c m d a b) s

def execVsel (h : Hdr) (t : ETy) (d a b c : VReg) (s : State) : Out := vform h (.sel t d a b c) s

def execVcvt (h : Hdr) (src : ETy) (m : VMod) (d a : VReg) (p : Fin 32) (s : State) : Out := vform h (.cvt src m d a p) s

def execVcvts (h : Hdr) (dst src : ETy) (d a : VReg) (s : State) : Out := vform h (.cvts dst src d a) s

def execVredadd (h : Hdr) (m : VMod) (d : FReg) (a : VReg) (s : State) : Out := vform h (.red .add m d a) s

def execVredmax (h : Hdr) (m : VMod) (d : FReg) (a : VReg) (s : State) : Out := vform h (.red .max m d a) s

def execVredmin (h : Hdr) (m : VMod) (d : FReg) (a : VReg) (s : State) : Out := vform h (.red .min m d a) s

def execVrediadd (h : Hdr) (m : VMod) (d : SReg) (a : VReg) (s : State) : Out := vform h (.redi m d a) s

/-! ## Major 0x63 (10 R221-R223) -/

def execVcompress (h : Hdr) (t : ETy) (d a b : VReg) (s : State) : Out := vform h (.compress t d a b) s

def execVexpand (h : Hdr) (t : ETy) (d a b : VReg) (s : State) : Out := vform h (.expand t d a b) s

def execVslideup (h : Hdr) (t : ETy) (d a : VReg) (n : SI) (s : State) : Out := vform h (.slideup t d a n) s

def execVslidedn (h : Hdr) (t : ETy) (d a : VReg) (n : SI) (s : State) : Out := vform h (.slidedn t d a n) s

def execVperm (h : Hdr) (t : ETy) (d a b : VReg) (s : State) : Out := vform h (.perm t d a b) s

def execVbcastScalar (h : Hdr) (t : ETy) (d : VReg) (a : SF) (s : State) : Out := vform h (.bcastS t d a) s

def execVbcastLane (h : Hdr) (t : ETy) (d a : VReg) (n : SI) (s : State) : Out := vform h (.bcastL t d a n) s

def execVmovsLane (h : Hdr) (t : ETy) (sg : Bool) (d : SF) (a : VReg) (n : SI) (s : State) : Out := vform h (.movLane t sg d a n) s

def execVmovsCnt (h : Hdr) (t : ETy) (d : SReg) (a : VReg) (s : State) : Out := vform h (.movCnt t d a) s

def execVmovsBits (h : Hdr) (t : ETy) (d : SReg) (a : VReg) (s : State) : Out := vform h (.movBits t d a) s

def execVins (h : Hdr) (t : ETy) (d : VReg) (a : SF) (n : SI) (s : State) : Out := vform h (.ins t d a n) s

def execVzord (h : Hdr) (x2 hi : Bool) (d a b : VReg) (c : Option VReg) (s : State) : Out := vform h (.zord x2 hi d a b c) s

def execVgath (h : Hdr) (m : MemArgs) (d : VReg) (a : SReg) (b : VReg) (s : State) : Out := vform h (.gath m d a b) s

def execVscat (h : Hdr) (m : MemArgs) (d : VReg) (a : SReg) (b : VReg) (s : State) : Out := vform h (.scat m d a b) s

end Sys2Proof.Machine
end

