-- ==== Sys2Proof/Machine/Collective.lean ====
section
/-! DEFINITION. The collective unit: collectives and repartition (13 R264-R265, R272-R281, R284-R289). -/

namespace Sys2Proof.Machine

/-! ## Values and steps (13 R273-R275, 03 R66, R67) -/

/-- The bytes of an element of a collective's buffers. -/
def elemBytes (p : CollParams) : Nat := if p.op = 6 then 4 else if p.ty = 1 then 2 else 4

/-- The elements of a collective's vector. -/
def collWords (p : CollParams) : Nat := if p.kind = 3 then 0 else if p.op = 6 then p.count + 2 else p.count

/-- The identity at place `i` of a vector (13 R274, R275). -/
def collIdentity (p : CollParams) (i : Nat) : BitVec 32 :=
  let int := p.ty == 4
  match p.op with
  | 0 => if int then 0 else 0x80000000
  | 1 => if int then 0x80000000 else 0xFF800000
  | 2 => if int then 0x7FFFFFFF else 0x7F800000
  | 3 => 0xFFFFFFFF
  | 6 => if i = 0 then 0xFF800000 else 0x80000000
  | _ => 0

/-- One step of an operator on two elements (13 R274). -/
def collLane (p : CollParams) (x y : BitVec 32) : BitVec 32 :=
  let int := p.ty == 4
  match p.op with
  | 0 => if int then x + y else add32 x y
  | 1 => if int then (if x.slt y then y else x) else minMax32 true x y
  | 2 => if int then (if y.slt x then y else x) else minMax32 false x y
  | 3 => x &&& y
  | 4 => x ||| y
  | _ => x ^^^ y

/-- The factor a partial's maximum contributes (13 R275). -/
def rscale (m1 m : BitVec 32) : BitVec 32 :=
  if m1 = 0xFF800000 then 0 else BitVec.ofNat 32 (exp2V .fp32 .rne (fp32.decode (sub32 m1 m).toNat)).1

/-- One step of the rescaling triple (13 R275). -/
def rscStep (p q : List (BitVec 32)) : List (BitVec 32) :=
  let m1 := p.headD 0
  let m2 := q.headD 0
  let m := minMax32 true m1 m2
  if (p ++ q).any (fun x => (fp32.decode x.toNat).isNan) ∨ m = 0x7F800000 then p.map fun _ => 0x7FC00000
  else
    let a := rscale m1 m
    let b := rscale m2 m
    m :: List.zipWith (fun x y => add32 (mul32 x a) (mul32 y b)) p.tail q.tail

/-- One combining step of two partials (03 R66). -/
def collStep (p : CollParams) (x y : List (BitVec 32)) : List (BitVec 32) :=
  if p.op = 6 then rscStep x y else List.zipWith (collLane p) x y

/-- The elements of an input buffer; bf16 decodes to FP32 where it is combined (13 R274). -/
def collDecode (p : CollParams) (bs : List Byte) : List (BitVec 32) :=
  (chunks (elemBytes p) bs.length bs).map fun b =>
    let x := leNat b
    if p.ty = 1 ∧ p.kind ≠ 2 ∧ p.op ≠ 6 then BitVec.ofNat 32 (x * 65536) else BitVec.ofNat 32 x

/-- The bytes of the final value; bf16 is rounded once (13 R274). -/
def collEncode (p : CollParams) (xs : List (BitVec 32)) : List Byte :=
  (xs.map fun x =>
    if p.ty = 1 ∧ p.kind ≠ 2 ∧ p.op ≠ 6 then leBytes 2 (convert .bf16 .fp32 .rne x.toNat).1
    else leBytes (elemBytes p) x.toNat).flatten

/-- Two ranges of ranks that meet in the tree over `c` members (03 R66). -/
def siblings (c lo1 hi1 lo2 hi2 : Nat) : Bool :=
  let w := hi1 - lo1
  decide (lo1 < hi1) && hi1 == lo2 && (List.range 12).any (fun k => w == 2 ^ k) && lo1 % (2 * w) == 0 &&
    hi2 == min (lo1 + 2 * w) c && decide (lo2 < hi2)

/-! ## Operations and messages -/

def State.collOp (s : State) (w : Who) (num : Word) : Option CollOp := (s.slot w).xctx.ops.find? fun o => decide (o.num = num)

def State.modColl (s : State) (w : Who) (num : Word) (f : CollOp → CollOp) : State :=
  s.modSlot w fun sl => { sl with xctx := { sl.xctx with ops := sl.xctx.ops.map fun o => if o.num = num then f o else o } }

/-- The class of a collective message: the records of a repartition go in the bulk class (12 R248, 13 R287). -/
def CollBody.cls : CollBody → TClass
  | .recs _ _ => .bulk
  | _ => .collective

/-- A collective message to a member's unit, this module's included (13 R272). -/
def State.collSend (s : State) (t : CollTag) (rcv : Fin 4096) (b : CollBody) : State :=
  if rcv = s.modId then s.modView t.job fun v => { v with inbox := v.inbox ++ [(t, b)] }
  else s.send ⟨.mdl s.modId, .mdl rcv, CollBody.cls b, .coll t b⟩

def State.collSendAll (s : State) (t : CollTag) (rcv : List (Fin 4096)) (b : CollBody) : State :=
  rcv.foldl (fun s m => s.collSend t m b) s

/-- The messages of a tag at this module's unit. -/
def State.mail (s : State) (t : CollTag) : List CollBody :=
  ((s.viewOf t.job).inbox.filter fun x => decide (x.1 = t)).map (·.2)

/-- The messages of a tag that a test picks are taken out. -/
def State.unmail (s : State) (t : CollTag) (f : CollBody → Bool) : State :=
  s.modView t.job fun v => { v with inbox := v.inbox.filter fun x => !(decide (x.1 = t) && f x.2) }

/-! ## Global accesses of the unit (13 R264, R276) -/

/-- An access of the unit to `n` bytes, with auto-commit of sparse pages; a denied page faults with sub-cause 0x07 (04 R83, R91). -/
def State.unitAccess (s : State) (w : Who) (a n : Nat) (kind : AccKind) (page : Option (Nat × Bool)) : State × Chk :=
  let root := s.ownRoot w
  let look (s : State) : Chk :=
    if n = 0 then .ok []
    else if 2 ^ 48 < a + n then .trap 1 (BitVec.ofNat 64 (max a (2 ^ 48)))
    else s.poisonFirst a n kind (s.walks root (pagesOf a n)) (checkWith a n kind 1 false (s.walks root (pagesOf a n)))
  match look s with
  | .sparse ps =>
    match page with
    | some (p, true) => if p ∈ ps then (s, .trap 7 (BitVec.ofNat 64 (max a (p * 32768)))) else (s, .sparse ps)
    | _ =>
      let s := ps.foldl (fun s q => s.autoCommit root q w.core.stack) s
      (s, look s)
  | c => (s, c)

/-- The operation waits for a page's commit (04 R83). -/
def State.collWait (s : State) (w : Who) (num : Word) (ps : List Nat) : State :=
  let p := ps.headD 0
  let s := s.modColl w num fun o => { o with page := some (p, false) }
  s.addPend w.core.stack (s.ownRoot w) p (s.slot w).sup (coreWord s.modId w.core) w.slot w.core .copy

/-- The bytes at the segments of an access. -/
def State.readSegs (s : State) (segs : List Seg) : List Byte := (segs.map fun g => s.readAt g.pa g.len).flatten

def State.writeSegs (s : State) (segs : List Seg) (bs : List Byte) : State :=
  segs.foldl (fun s g => s.writeIo g.pa ((bs.drop g.off).take g.len) g.through) s

/-- Bytes of which nothing is known (13 R287, R288). -/
def State.freeBytes (s : State) (n : Nat) : List Byte × State :=
  ((List.range n).map fun i => (Config.freeWord (s.fresh + i / 8)).extractLsb' (i % 8 * 8) 8, { s with fresh := s.fresh + ceilDiv n 8 })

/-! ## Timelines and ends (13 R264, R276-R278) -/

/-- tl.x moves past the operations that are done, which post their notifications (13 R276). -/
def State.settleColl (s : State) (w : Who) : State :=
  let os := (s.slot w).xctx.ops.takeWhile fun o => decide (o.st = .done)
  match os.getLast? with
  | none => s
  | some o =>
    let s := s.modSlot w fun sl => { sl with xctx := { sl.xctx with tl := o.num, ops := sl.xctx.ops.drop os.length } }
    os.foldl (fun s o => match o.notify with | some i => s.mbAdd w.core i 1 | none => s) s

/-- The operation goes on to write its record, with a status and no output. -/
def CollOp.fail (o : CollOp) (status : Nat) : CollOp := { o with st := .writing, status := status, page := none, result := [] }

/-- The membership-change trap of a slot is pending, once however many operations abort; its context is stale (13 R279). -/
def State.pendMembership (s : State) (w : Who) (num : BitVec 32) : State :=
  (s.modSlot w fun sl => { sl with
    xctx := { sl.xctx with stale := true }, pendMember := if sl.pendMember.isSome then sl.pendMember else some (num.setWidth 64) }).savePend w

/-- The operations of a job not complete end with a status; those of RESTART make their contexts stale (13 R267, R276, R279). -/
def State.failColls (s : State) (job : BitVec 32) (status : Nat) (stale : Bool) : State :=
  let v := (s.viewOf job).view
  let end_ (o : CollOp) : CollOp :=
    if o.st = .queued then { o.fail status with view := v.num, members := v.count, rank := v.rank s.modId } else o.fail status
  (s.allSlots.filter fun w => decide (s.ownJob w = job)).foldl (fun s w =>
    let hit := stale && (s.slot w).xctx.ops.any fun o => o.p.policy == 0
    let s := s.modSlot w fun sl => { sl with xctx := { sl.xctx with ops := sl.xctx.ops.map end_ } }
    if hit then s.pendMembership w v.num else s) s

/-! ## Matching (13 R265, R276) -/

/-- The bytes of staging an operation holds: its result, or its histogram (13 R264). -/
def CollOp.staged (o : CollOp) : Nat :=
  if o.st = .queued ∨ o.st = .done then 0 else if o.p.repart then 8 * 2 ^ o.p.h + 8 else 4 * collWords o.p

def State.stagingUsed (s : State) : Nat :=
  (s.allSlots.map fun w => ((s.slot w).xctx.ops.map CollOp.staged).sum).sum

/-- The operation leaves the queue: it takes its sequence number and tells every member its parameters. -/
def State.takeSeq (s : State) (w : Who) (o : CollOp) : State :=
  let job := s.ownJob w
  let v := s.viewOf job
  let lower := (s.slot w).xctx.ops.takeWhile fun x => decide (x.num ≠ o.num)
  let need := { o with st := CollSt.matching }.staged
  if v.standing ≠ .member ∨ lower.any (fun x => x.st = .queued) ∨ !s.storesDone o.rel ∨
      s.settings.staging * 2 ^ 20 < s.stagingUsed + need then s
  else
    let o' := { o with
      st := .matching, seq := v.chans[o.chan], issueView := v.view.num, view := v.view.num, members := v.view.count
      rank := v.view.rank s.modId }
    let s := s.modColl w o.num fun _ => o'
    let s := s.modView job fun x => { x with chans := x.chans.set o.chan (x.chans[o.chan] + 1) }
    s.collSendAll (o'.tag job) v.view.members (.issue (v.view.rank s.modId) o.p o.empty)

/-- The issue a rank has told. -/
def issueOf (mail : List CollBody) (r : Nat) : Option (CollParams × Bool) :=
  mail.findSome? fun b => match b with
    | .issue q p e => if q = r then some (p, e) else none
    | _ => none

/-- The members of the view an operation runs under are those of the installed view. -/
def State.collMembers (s : State) (w : Who) : List (Fin 4096) := (s.viewOf (s.ownJob w)).view.members

def State.collLeader (s : State) (w : Who) : Fin 4096 := (s.collMembers w).headD 0

/-- The bytes of input this member reads (13 R273, R274, R284). -/
def State.inputBytes (s : State) (o : CollOp) : Nat :=
  if o.p.repart then o.n * o.p.size
  else if o.empty ∨ (o.p.kind = 2 ∧ o.p.root ≠ s.modId.val) then 0
  else collWords o.p * elemBytes o.p

/-- The key of a record (13 R285). -/
def recKey (p : CollParams) (r : List Byte) : Nat :=
  if p.mode = 0 then numAt r p.keyOff 8 % 2 ^ 63
  else zkey (numAt r p.keyOff 4) (numAt r (p.keyOff + 4) 4) (some (numAt r (p.keyOff + 8) 4))

def recWeight (p : CollParams) (r : List Byte) : Nat := if p.weighted then numAt r p.weightOff 4 else 1

/-- The histogram of a member's records (13 R286). -/
def histogram (p : CollParams) (rs : List (List Byte)) : List Word :=
  let add (g : Array Word) (r : List Byte) : Array Word :=
    g.modify (recKey p r / 2 ^ (63 - p.h)) (· + BitVec.ofNat 64 (recWeight p r))
  (rs.foldl add (Array.replicate (2 ^ p.h) 0)).toList

/-- The member sends what it contributes; once it has accepted a proposal it forwards nothing (13 R272). -/
def State.contribute (s : State) (w : Who) (o : CollOp) (bs : List Byte) : State :=
  let job := s.ownJob w
  let t := o.tag job
  let v := s.viewOf job
  let me := v.view.rank s.modId
  let data := collDecode o.p bs
  let rs := chunks o.p.size bs.length bs
  let s := s.modColl w o.num fun x => { x with st := .running, page := none, refused := if o.p.repart then rs else [] }
  if v.standing ≠ .member then s
  else if o.p.repart then s.collSend t (s.collLeader w) (.hist me (histogram o.p rs))
  else if o.p.kind = 3 then s
  else if o.p.kind = 2 then (if o.p.root = s.modId.val then s.collSendAll t v.view.members (.final data) else s)
  else
    let x := if o.empty then (List.range (collWords o.p)).map (collIdentity o.p) else data
    s.collSend t (s.collLeader w) (.part me (me + 1) x)

/-- A read of the input faults: the leader's unit is told (13 R276). -/
def State.inputFault (s : State) (w : Who) (o : CollOp) : State :=
  (s.modColl w o.num fun x => { x with st := .running, page := none }).collSend (o.tag (s.ownJob w)) (s.collLeader w) (.fault s.modId.val)

/-- The input as it was read before or stands now, element by element; of a rerun's input the first run has read some (13 R289). -/
def State.readInput (s : State) (o : CollOp) (segs : List Seg) : List Byte × State :=
  let now := s.readSegs segs
  if o.seen.length ≠ now.length then (now, s)
  else
    let e := if o.p.repart then 1 else elemBytes o.p
    let (xs, s) := s.oldOrNew (chunks e o.seen.length o.seen) (chunks e now.length now)
    (xs.flatten, s)

/-- Every member has issued with equal parameters: the input is read, its elements at times of their own: a reading may leave the rest to a
later one (13 R276, 14 R303). -/
def State.startColl (s : State) (w : Who) (o : CollOp) : State :=
  match s.unitAccess w o.input.toNat (s.inputBytes o) .copy o.page with
  | (s, .ok segs) =>
    if segs.any fun g => s.poisoned g.pa g.len then s.inputFault w o
    else
      let (bs, s) := s.readInput o segs
      let (k, s) := if bs.isEmpty then (0, s) else s.pick 2
      let s := s.modColl w o.num fun x => { x with seen := bs }
      if k = 0 then s.contribute w o bs else s
  | (s, .sparse ps) => s.collWait w o.num ps
  | (s, _) => s.inputFault w o

/-- The operation leaves the queue, or its members' issues are compared (13 R276). -/
def execCollMatch (w : Who) (num : Word) (s : State) : Out :=
  match s.collOp w num with
  | none => .next s
  | some o =>
    if o.st = .queued then .next (s.takeSeq w o)
    else if o.st = .matching then
      let mail := s.mail (o.tag (s.ownJob w))
      let is := (List.range o.members).map (issueOf mail)
      if is.any (·.isNone) then .next s
      else
        let ps := is.filterMap id
        let n := (ps.filter fun x => !x.2).length
        let o := { o with contributors := n }
        let s := s.modColl w num fun x => { x with contributors := n }
        if ps.any fun x => decide (x.1 ≠ o.p) then .next (s.modColl w num (·.fail 2)) else .next (s.startColl w o)
    else .next s

/-! ## Combining and the final result (13 R272, R276) -/

/-- Two partials of one tag that meet in the tree are combined by this module's unit. -/
def execCollCombine (t : CollTag) (i j : Nat) (s : State) : Out :=
  let v := s.viewOf t.job
  match (s.jobColls t.job).find? fun x => decide (x.2.tag t.job = t), v.inbox[i]?, v.inbox[j]? with
  | some (_, o), some (ti, .part lo1 hi1 x), some (tj, .part lo2 hi2 y) =>
    if ti = t ∧ tj = t ∧ t.view = v.view.num ∧ siblings o.members lo1 hi1 lo2 hi2 then
      .next (s.modView t.job fun v => { v with inbox := (v.inbox.set i (t, .part lo1 hi2 (collStep o.p x y))).eraseIdx j })
    else .next s
  | _, _, _ => .next s

/-- The modules whose input faults have been reported. -/
def faultsIn (mail : List CollBody) : List Nat :=
  mail.filterMap fun b => match b with | .fault m => some m | _ => none

/-- A rank has been heard: with a partial, a histogram or a fault. -/
def heardRank (mail : List CollBody) (ms : List (Fin 4096)) (r : Nat) : Bool :=
  mail.any fun b => match b with
    | .part lo hi _ => decide (lo ≤ r) && decide (r < hi)
    | .hist q _ => q == r
    | .fault m => (ms[r]?).any fun x => x.val == m
    | _ => false

/-- The partial over every member. -/
def wholePart (mail : List CollBody) (c : Nat) : Option (List (BitVec 32)) :=
  mail.findSome? fun b => match b with
    | .part lo hi x => if lo = 0 ∧ hi = c then some x else none
    | _ => none

def finalOf (mail : List CollBody) : Option (List (BitVec 32)) :=
  mail.findSome? fun b => match b with | .final x => some x | _ => none

def forwardOf (mail : List CollBody) : Option (List (BitVec 32)) :=
  mail.findSome? fun b => match b with | .forward x => some x | _ => none

def acksOf (mail : List CollBody) (c : Nat) : Bool :=
  (List.range c).all fun r => mail.any fun b => match b with | .ack q => q == r | _ => false

/-- The leader's unit: the verdict on faulted inputs, once every rank has been heard, or the final result (13 R276). -/
def State.leadFinal (s : State) (w : Who) (o : CollOp) : State :=
  let t := o.tag (s.ownJob w)
  let ms := s.collMembers w
  let others := ms.filter (· ≠ s.modId)
  let mail := s.mail t
  let bad := faultsIn mail
  let all := (List.range o.members).all (heardRank mail ms)
  if !bad.isEmpty then
    (if all ∨ o.p.kind = 2 then
      let m := lowest bad
      (s.collSendAll t others (.fault m)).modColl w o.num fun x => { x.fail 3 with peer := m }
    else s)
  else if o.p.repart then
    (if acksOf mail o.members then
      (s.unmail t fun b => match b with | .ack _ => true | _ => false).collSendAll t ms (.final [])
    else s)
  else if o.p.kind = 3 then s.collSendAll t ms (.final [])
  else match wholePart mail o.members with
    | some x => (s.unmail t fun b => match b with | .part _ _ _ => true | _ => false).collSendAll t ms (.final x)
    | none => s

/-- The final result, or the verdict on a faulted input, reaches this member. A final result that comes after this member's ACCEPT is discarded;
one forwarded by the commit's order completes the operation of the earlier view (13 R270). -/
def State.takeFinal (s : State) (w : Who) (o : CollOp) : State :=
  let job := s.ownJob w
  let t := o.tag job
  let v := s.viewOf job
  let mail := s.mail t
  let isFinal (b : CollBody) : Bool := match b with | .final _ => true | _ => false
  match (if o.view ≠ v.view.num then forwardOf mail else finalOf mail) with
  | some x =>
    if o.view ≠ v.view.num then
      (s.unmail t fun b => match b with | .forward _ => true | _ => false).modColl w o.num fun y => { y with st := .writing, result := x }
    else if v.standing ≠ .member then s.unmail t isFinal
    else ((s.unmail t isFinal).modColl w o.num fun y => { y with st := .final, result := x }).collSend t (s.collLeader w)
      (.ack (v.view.rank s.modId))
  | none =>
    match faultsIn mail with
    | m :: _ => if s.collLeader w = s.modId then s else s.modColl w o.num fun y => { y.fail 3 with peer := m }
    | [] => s

def execCollFinal (w : Who) (num : Word) (s : State) : Out :=
  match s.collOp w num with
  | none => .next s
  | some o =>
    if o.st ≠ .running then .next s
    else
      let v := s.viewOf (s.ownJob w)
      let ask := decide (s.collLeader w = s.modId) && decide (v.standing = .member) && decide (o.view = v.view.num) &&
        (finalOf (s.mail (o.tag (s.ownJob w)))).isNone
      let s := if ask then s.leadFinal w o else s
      match s.collOp w num with
      | some o => if o.st = .running then .next (s.takeFinal w o) else .next s
      | none => .next s

/-- The leader releases once every member has acknowledged; a member writes once released. -/
def execCollRelease (w : Who) (num : Word) (s : State) : Out :=
  match s.collOp w num with
  | none => .next s
  | some o =>
    let t := o.tag (s.ownJob w)
    let mail := s.mail t
    let write (s : State) : State := s.modColl w num fun x => { x with st := .writing }
    if o.st ≠ .final then .next s
    else if s.collLeader w = s.modId then
      (if acksOf mail o.members then
        .next (write (s.collSendAll t ((s.collMembers w).filter (· ≠ s.modId)) .release))
      else .next s)
    else if mail.any fun b => decide (b = .release) then .next (write s)
    else .next s

/-! ## Output and record (13 R276, R277, R287) -/

/-- The record of a `coll` (13 R277). -/
def CollOp.collRecord (o : CollOp) : List Byte :=
  leBytes 4 o.view.toNat ++ leBytes 2 o.members ++ [BitVec.ofNat 8 o.status, BitVec.ofNat 8 o.reruns] ++ leBytes 4 o.seq ++
    leBytes 2 o.contributors ++ [BitVec.ofNat 8 o.chan.val, 0] ++ leBytes 4 o.issueView.toNat ++ leBytes 2 o.peer ++ leBytes 10 0

/-- The accepted records of a `repart`, by sender rank. -/
def CollOp.accepted (o : CollOp) : List (List Byte) :=
  ((List.range o.members).map fun r => assocD o.recsIn r []).flatten

/-- The record of a `repart` (13 R287); without its counts where it did not complete. -/
def CollOp.repartRecord (o : CollOp) (me : Nat) : List Byte :=
  let ok := o.status == 0
  let num (x : Nat) : Nat := if ok then x else 0
  leBytes 4 o.view.toNat ++ leBytes 2 o.members ++ [BitVec.ofNat 8 o.status, BitVec.ofNat 8 o.reruns] ++
    leBytes 4 (num o.accepted.length) ++ leBytes 4 (num o.refused.length) ++ leBytes 4 (num (o.quota.getD me 0)) ++
    leBytes 4 (num o.sent) ++ leBytes 2 me ++ leBytes 6 0 ++ leBytes 8 (num o.weight.toNat) ++ leBytes 24 0 ++
    (if ok then (o.quota.map (leBytes 4)).flatten else [])

/-- The output of a member with the bytes beyond it of which nothing is known (13 R273, R287, R288). -/
def State.outputOf (s : State) (o : CollOp) : List Byte × State :=
  let room := (o.cap + o.n) * o.p.size
  if o.p.repart then
    let bs := if o.status = 0 then (o.accepted ++ o.refused).flatten else []
    if o.status = 0 ∨ o.status = 1 then
      let (x, s) := s.freeBytes (room - bs.length)
      (bs ++ x, s)
    else ([], s)
  else if o.status ≠ 0 ∨ o.p.kind = 3 ∨ (o.p.kind = 1 ∧ o.p.root ≠ s.modId.val) then ([], s)
  else (collEncode o.p o.result, s)

/-- The pieces an operation writes: output, splitters, record. -/
def State.collPieces (s : State) (o : CollOp) : List (Nat × List Byte) × State :=
  let (out, s) := s.outputOf o
  let spl := if o.p.repart && o.status == 0 && o.splitAddr != 0 then
      [(o.splitAddr.toNat, (((o.split.drop 1).dropLast).map fun k => leBytes 8 k.toNat).flatten)] else []
  let rec_ := if o.record = 0 then [] else [(o.record.toNat, if o.p.repart then o.repartRecord o.rank else o.collRecord)]
  (((o.output.toNat, out) :: spl ++ rec_).filter fun x => !x.2.isEmpty, s)

/-- A piece written; on a fault a free number of the pages before it, and the fault's sub-cause (13 R276). -/
def State.putPiece (s : State) (w : Who) (o : CollOp) (a : Nat) (bs : List Byte) : Option Nat × State :=
  match s.unitAccess w a bs.length .store o.page with
  | (s, .ok segs) => (none, s.writeSegs segs bs)
  | (s, .trap sub va) =>
    let (k, s) := s.pick (va.toNat / 32768 - a / 32768 + 1)
    let n := (a / 32768 + k) * 32768 - a
    if k = 0 then (some sub, s)
    else match s.unitAccess w a n .store o.page with
      | (s, .ok segs) => (some sub, s.writeSegs segs (bs.take n))
      | (s, _) => (some sub, s)
  | (s, _) => (some 2, s)

/-- The pages of the pieces committed in turn, before anything is written: the state, and the pages one of them still waits for (04 R83). -/
def State.pagesReady (s : State) (w : Who) (o : CollOp) : List (Nat × List Byte) → State × Option (List Nat)
  | [] => (s, none)
  | x :: r => match s.unitAccess w x.1 x.2.length .store o.page with
    | (s, .sparse ps) => (s, some ps)
    | (s, _) => s.pagesReady w o r

/-- Output and record are performed, and the operation is done (13 R276). -/
def execCollWriteDone (w : Who) (num : Word) (s : State) : Out :=
  match s.collOp w num with
  | none => .next s
  | some o =>
    if o.st ≠ .writing then .next s
    else
      let (ps, s) := s.collPieces o
      match s.pagesReady w o ps with
      | (s, some qs) => .next (s.collWait w num qs)
      | (s, none) =>
        let (bad, s) := ps.foldl (fun (acc : Option Nat × State) (x : Nat × List Byte) =>
          let (f, s) := acc.2.putPiece w o x.1 x.2
          (acc.1 <|> f, s)) (none, s)
        let s := s.modSlot w fun sl => match bad with
          | some f => { sl with xctx := { sl.xctx with report := some f } }
          | none => sl
        .next (((s.modColl w num fun x => { x with st := .done }).settleColl w).failItems w.core (if o.status = 0 then 0 else 1))

/-! ## Repartition (13 R284-R288) -/

/-- The splitters split[0] … split[c] from a histogram (13 R286). -/
def splitters (h c : Nat) (g : List Nat) : List Word :=
  let w := g.sum
  let sums := g.scanl (· + ·) 0
  let cut (r : Nat) : Nat := ((sums.zipIdx.find? fun x => decide (r * w ≤ x.1 * c)).map (·.2)).getD (2 ^ h)
  (0 :: ((List.range (c - 1)).map fun r => BitVec.ofNat 64 (cut (r + 1) * 2 ^ (63 - h)))) ++ [BitVec.ofNat 64 (2 ^ 63)]

/-- The sum of the members' histograms, once all are there. -/
def histSum (mail : List CollBody) (c h : Nat) : Option (List Word) :=
  let hs := (List.range c).map fun r => mail.findSome? fun b => match b with
    | .hist q g => if q = r then some g else none
    | _ => none
  if hs.any (·.isNone) then none
  else some ((hs.filterMap id).foldl (fun x y => List.zipWith (· + ·) x y) ((List.range (2 ^ h)).map fun _ => 0))

/-- The job's splitters are chosen by the host (13 R286, 18 R386). -/
def State.hostSplits (s : State) (job : BitVec 32) : Bool :=
  match (s.viewOf job).modes with
  | some m => m.getLsbD 1
  | none => s.modes.splitters

/-- The histogram is complete: splitters are chosen, or requested of the host. -/
def execSplitterCompute (w : Who) (num : Word) (s : State) : Out :=
  match s.collOp w num with
  | none => .next s
  | some o =>
    let job := s.ownJob w
    let t := o.tag job
    let v := s.viewOf job
    if o.st ≠ .running ∨ !o.p.repart ∨ s.collLeader w ≠ s.modId ∨ v.standing ≠ .member ∨ o.view ≠ v.view.num then .next s
    else match histSum (s.mail t) o.members o.p.h with
    | none => .next s
    | some g =>
      let total := BitVec.ofNat 64 (g.map (·.toNat)).sum
      let s := s.unmail t fun b => match b with | .hist _ _ => true | _ => false
      if s.hostSplits job then
        let r : SplitReq := ⟨job, o.chan, o.seq, g, total⟩
        let s := { s with splitReqs := s.splitReqs ++ [r] }
        .next (s.raise .splitterRequest 6 [job.toNat, o.chan.val, o.seq, o.p.h])
      else
        let ks := ((splitters o.p.h o.members (g.map (·.toNat))).drop 1).dropLast
        .next (s.collSendAll t v.view.members (.splits (ks ++ [total])))

/-- The host's splitters may be taken: nondecreasing and below 2^63 (13 R286). -/
def State.keysOk (s : State) (job : BitVec 32) (keys : List Word) : Bool :=
  (List.zipWith (fun (x y : Word) => decide (x.toNat ≤ y.toNat)) keys (keys.drop 1)).all id &&
    keys.all (fun k => decide (k.toNat < 2 ^ 63)) && keys.length + 1 == (s.viewOf job).view.count

/-- A request for splitters that waits for the host. -/
def State.splitReq (s : State) (job : BitVec 32) (chan : Fin 16) (seq : Nat) : Option SplitReq :=
  s.splitReqs.find? fun r => decide (r.job = job) && decide (r.chan = chan) && r.seq == seq

/-- The host's splitters go to every member (13 R286, 18 R386). -/
def execSupplySplitters (job : BitVec 32) (chan : Fin 16) (seq : Nat) (keys : List Word) (s : State) : Out :=
  let v := s.viewOf job
  match s.splitReq job chan seq with
  | none => .next s
  | some r =>
    if !s.keysOk job keys then .next s
    else
      let s := { s with splitReqs := s.splitReqs.filter fun x => decide (x ≠ r) }
      .next (s.collSendAll ⟨job, chan, seq, v.view.num⟩ v.view.members (.splits (keys ++ [r.w])))

/-- The rank a key goes to (13 R286). -/
def rankOfKey (split : List Word) (c k : Nat) : Nat :=
  (((List.range c).filter fun r => decide ((split.getD r 0).toNat ≤ k)).getLast?).getD 0

def CollOp.destOf (o : CollOp) (r : List Byte) : Nat := rankOfKey o.split o.members (recKey o.p r)

/-- The splitters reach this member, which counts its records for each rank. -/
def State.countRecords (s : State) (w : Who) (o : CollOp) (ks : List Word) : State :=
  let t := o.tag (s.ownJob w)
  let ms := s.collMembers w
  let me := (s.viewOf (s.ownJob w)).view.rank s.modId
  let o := { o with split := 0 :: ks.dropLast ++ [BitVec.ofNat 64 (2 ^ 63)], weight := ks.getLastD 0 }
  let s := (s.modColl w o.num fun x => { x with split := o.split, weight := o.weight }).unmail t fun b => match b with
    | .splits _ => true
    | _ => false
  ms.zipIdx.foldl (fun s x => s.collSend t x.1 (.counts me (o.refused.filter fun r => o.destOf r == x.2).length)) s

/-- The quotas of a receiver, from the counts by rank (13 R287). -/
def quotas : Nat → List Nat → List Nat
  | _, [] => []
  | cap, n :: r => min n cap :: quotas (cap - min n cap) r

def countsOf (mail : List CollBody) (c : Nat) : Option (List Nat) :=
  let ns := (List.range c).map fun r => mail.findSome? fun b => match b with
    | .counts q n => if q = r then some n else none
    | _ => none
  if ns.any (·.isNone) then none else some (ns.filterMap id)

/-- The counts are in: every sender is told its quota. -/
def State.grantQuotas (s : State) (w : Who) (o : CollOp) (ns : List Nat) : State :=
  let t := o.tag (s.ownJob w)
  let me := (s.viewOf (s.ownJob w)).view.rank s.modId
  let qs := quotas o.cap ns
  let s := (s.modColl w o.num fun x => { x with quota := qs }).unmail t fun b => match b with | .counts _ _ => true | _ => false
  ((s.collMembers w).zip qs).foldl (fun s x => s.collSend t x.1 (.grant me x.2)) s

/-- The first `k` elements that a test picks, and the rest in order. -/
def takeSome {α : Type} (f : α → Bool) : Nat → List α → List α × List α
  | _, [] => ([], [])
  | 0, l => ([], l)
  | k + 1, x :: r =>
    if f x then
      let (a, b) := takeSome f k r
      (x :: a, b)
    else
      let (a, b) := takeSome f (k + 1) r
      (a, x :: b)

/-- A receiver's grant has come: its records go out, the others stay (13 R287). -/
def State.sendGranted (s : State) (w : Who) (o : CollOp) (r k : Nat) : State :=
  let t := o.tag (s.ownJob w)
  let me := (s.viewOf (s.ownJob w)).view.rank s.modId
  let (out, rest) := takeSome (fun x => o.destOf x == r) k o.refused
  let s := (s.modColl w o.num fun x => { x with
    refused := rest, grants := x.grants + 1, sent := if r = me then x.sent else x.sent + k }).unmail t fun b => decide (b = .grant r k)
  s.collSend t ((s.collMembers w).getD r 0) (.recs me out)

/-- Splitters, counts or a grant reach this member. -/
def execRepartCounts (w : Who) (num : Word) (s : State) : Out :=
  match s.collOp w num with
  | none => .next s
  | some o =>
    let job := s.ownJob w
    let v := s.viewOf job
    let mail := s.mail (o.tag job)
    if o.st ≠ .running ∨ !o.p.repart ∨ o.view ≠ v.view.num ∨ v.standing ≠ .member then .next s
    else if o.split.isEmpty then
      match mail.findSome? fun b => match b with | .splits ks => some ks | _ => none with
      | some ks => .next (s.countRecords w o ks)
      | none => .next s
    else match (if o.quota.isEmpty then countsOf mail o.members else none) with
    | some ns => .next (s.grantQuotas w o ns)
    | none =>
      match mail.findSome? fun b => match b with | .grant r k => some (r, k) | _ => none with
      | some (r, k) => .next (s.sendGranted w o r k)
      | none => .next s

/-- The records this member accepts have all come: the leader's unit is told (13 R288). -/
def execRepartRecords (w : Who) (num : Word) (s : State) : Out :=
  match s.collOp w num with
  | none => .next s
  | some o =>
    let job := s.ownJob w
    let t := o.tag job
    let v := s.viewOf job
    let rs := (s.mail t).filterMap fun b => match b with | .recs q x => some (q, x) | _ => none
    if o.st ≠ .running ∨ !o.p.repart ∨ o.view ≠ v.view.num ∨ v.standing ≠ .member ∨ o.grants ≠ o.members ∨ rs.length < o.members then
      .next s
    else
      let s := s.unmail t fun b => match b with | .recs _ _ => true | _ => false
      .next ((s.modColl w num fun x => { x with recsIn := rs }).collSend t (s.collLeader w) (.ack (v.view.rank s.modId)))

/-! ## Operations under a view change (13 R270, R279, R288) -/

/-- What a view change does to an operation. -/
inductive Fate
  | keep
  /-- it completes under the old view, with the holder of its final result -/
  | complete (holder : Fin 4096)
  | ends (status : Nat)
  | rerun
  deriving DecidableEq, Repr

/-- The outcome for an operation that has left the queue; the root's loss before the policy (log entry 22). -/
def CollOp.fate (o : CollOp) (new : View) (finals : List (Fin 16 × Nat × Fin 4096)) : Fate :=
  if o.st = .queued ∨ o.st = .writing ∨ o.st = .done then .keep
  else match finals.find? fun f => decide (f.1 = o.chan) && f.2.1 == o.seq with
  | some (_, _, m) => .complete m
  | none =>
    if !o.p.repart && (o.p.kind == 1 || o.p.kind == 2) && !new.has (Fin.ofNat 4096 o.p.root) then .ends 6
    else if o.p.policy = 0 then .ends 1
    else .rerun

/-- The operation runs again from its start under a new view and number (13 R270). -/
def CollOp.again (o : CollOp) (new : View) (seq rank : Nat) : CollOp :=
  { o with
    st := .matching, seq := seq, view := new.num, members := new.count, rank := rank, reruns := min 255 (o.reruns + 1), result := []
    split := [], weight := 0, quota := [], recsIn := [], refused := [], sent := 0, contributors := 0, grants := 0, page := none }

/-- The final result that this member holds goes to the other survivors (13 R270). -/
def State.forwardFinal (s : State) (job : BitVec 32) (o : CollOp) (new : View) (holder : Fin 4096) : State :=
  if o.st = .final ∧ holder = s.modId then s.collSendAll (o.tag job) (new.members.filter (· ≠ s.modId)) (.forward o.result) else s

/-- The members that contribute to an operation, from the issues they told; whether one contributes whose issue has not come is open (13 R277,
R270). -/
def State.countIssues (s : State) (t : CollTag) (members : Nat) : Nat × State :=
  let is := (List.range members).map (issueOf (s.mail t))
  let (k, s) := s.pick ((is.filter (·.isNone)).length + 1)
  (((is.filterMap id).filter fun x => !x.2).length + k, s)

/-- One operation meets the change. -/
def State.applyFate (s : State) (job : BitVec 32) (new : View) (x : Who × CollOp × Fate) : State :=
  let (w, o, f) := x
  match f with
  | .keep => s
  | .rerun => s
  | .complete h =>
    let (n, s) := if o.st = .matching then s.countIssues (o.tag job) o.members else (o.contributors, s)
    (s.forwardFinal job o new h).modColl w o.num fun y =>
      if y.st = .final then { y with st := .writing } else { y with st := .running, page := none, contributors := n }
  | .ends status =>
    let s := s.modColl w o.num fun y => { y.fail status with view := new.num, members := new.count, rank := new.rank s.modId }
    if status = 1 then s.pendMembership w new.num else s

/-- The operations that run again are renumbered channel by channel in their old order (13 R270). -/
def State.rerunAll (s : State) (job : BitVec 32) (new : View) (rs : List (Who × CollOp)) : State :=
  let sorted := sortBy (·.2.seq) rs
  sorted.foldl (fun s x =>
    let n := (s.viewOf job).chans[x.2.chan]
    let o := x.2.again new n (new.rank s.modId)
    let s := s.modColl x.1 o.num fun _ => o
    let s := s.modView job fun v => { v with chans := v.chans.set o.chan (n + 1) }
    s.collSendAll (o.tag job) new.members (.issue (new.rank s.modId) o.p o.empty)) s

/-- The view-change rules applied to every operation of the job; the new view is installed already (13 R267, R270-R272). -/
def State.changeColls (s : State) (job : BitVec 32) (new : View) (finals : List (Fin 16 × Nat × Fin 4096)) : State :=
  let fates : List (Who × CollOp × Fate) := (s.jobColls job).map fun x => (x.1, x.2, x.2.fate new finals)
  let s := { s with splitReqs := s.splitReqs.filter fun r => decide (r.job ≠ job) }
  let s := s.modView job fun v => { v with chans := Vector.replicate 16 0 }
  let s := fates.foldl (fun s x => s.applyFate job new x) s
  let s := s.modView job fun v => { v with inbox := v.inbox.filter fun m => s.keepsMail m.1 m.2 }
  s.rerunAll job new (fates.filterMap fun x => if x.2.2 = .rerun then some (x.1, x.2.1) else none)

/-! ## Instructions (13 R280, R281, R284) -/

/-- Where the operations of a descriptor stand before they are issued. -/
def newColl (num : Word) (p : CollParams) (chan : Fin 16) (rel : List (Who × Nat)) : CollOp where
  num := num
  p := p
  chan := chan
  input := 0
  output := 0
  record := 0
  splitAddr := 0
  cap := 0
  empty := false
  notify := none
  st := .queued
  rel := rel
  seq := 0
  issueView := 0
  view := 0
  members := 0
  rank := 0
  status := 0
  reruns := 0
  peer := 0
  result := []
  split := []
  weight := 0
  quota := []
  recsIn := []
  refused := []
  sent := 0
  contributors := 0
  n := 0
  grants := 0
  seen := []
  page := none

def notifyAt (d : List Byte) (o : Nat) : Option MbIdx :=
  if numAt d o 1 / 128 = 1 then some (Fin.ofNat 64 (numAt d o 1)) else none

/-- The fields of a `coll` descriptor (13 R280). -/
def collFields (d : List Byte) (w1 : Word) (num : Word) (rel : List (Who × Nat)) : CollOp :=
  let fl := numAt d 31 1
  let p : CollParams := { (default : CollParams) with
    kind := numAt d 28 1, op := numAt d 29 1, ty := numAt d 30 1, count := numAt d 24 4, root := numAt d 32 2, policy := fl % 2 }
  { newColl num p (Fin.ofNat 16 (numAt d 34 1)) rel with
    input := BitVec.ofNat 64 (numAt d 0 8) + w1, output := BitVec.ofNat 64 (numAt d 8 8) + w1
    record := BitVec.ofNat 64 (numAt d 16 8), empty := fl / 2 % 2 == 1, notify := notifyAt d 35 }

/-- The checks of a `coll`, the lowest detail first (13 R281; log entry 19). -/
def collDetail (d : List Byte) (o : CollOp) (v : View) : Option Nat :=
  let p := o.p
  let high (x : Word) : Bool := decide (x.extractLsb' 48 16 ≠ 0)
  let e := elemBytes p
  firstOf [
    (!allZero d 36 28 || decide (4 ≤ numAt d 31 1) || decide (16 ≤ numAt d 34 1) || numAt d 35 1 / 64 % 2 == 1, 1),
    (decide (3 < p.kind) || decide (7 < p.op) || !(p.ty == 0 || p.ty == 1 || p.ty == 4) ||
      (decide (p.kind < 2) && p.op == 7) || (decide (2 ≤ p.kind) && p.op != 7) ||
      (decide (3 ≤ p.op) && decide (p.op ≤ 5) && p.ty != 4) || (p.op == 6 && p.ty != 0) ||
      ((p.kind == 0 || p.kind == 3) && p.root != 0), 2),
    (if p.kind = 3 then p.count != 0 else p.count == 0 || decide ((if p.op = 6 then 4096 else 16777216) < p.count), 3),
    ((p.kind != 3 && (o.input.toNat % e != 0 || o.output.toNat % e != 0 || high o.input || high o.output)) ||
      o.record.toNat % 32 != 0 || high o.record, 4),
    ((p.kind == 1 || p.kind == 2) && (decide (4096 ≤ p.root) || !v.has (Fin.ofNat 4096 p.root)), 5)]

/-- The fields of a `repart` descriptor (13 R284). -/
def repartFields (d : List Byte) (num : Word) (rel : List (Who × Nat)) : CollOp :=
  let fl := numAt d 46 1
  let wt := fl / 2 % 2 == 1
  let p : CollParams := { (default : CollParams) with
    repart := true, policy := fl % 2, size := numAt d 40 2, mode := numAt d 44 1 % 4, keyOff := numAt d 42 2, h := numAt d 45 1
    weighted := wt, weightOff := if wt then numAt d 48 2 else 0 }
  { newColl num p (Fin.ofNat 16 (numAt d 47 1)) rel with
    input := BitVec.ofNat 64 (numAt d 0 8), output := BitVec.ofNat 64 (numAt d 8 8), record := BitVec.ofNat 64 (numAt d 16 8)
    splitAddr := BitVec.ofNat 64 (numAt d 24 8), n := numAt d 32 4, cap := numAt d 36 4, notify := notifyAt d 50 }

def repartDetail (d : List Byte) (o : CollOp) : Option Nat :=
  let p := o.p
  let bad (x : Word) (k : Nat) : Bool := decide (x.toNat % k ≠ 0) || decide (x.extractLsb' 48 16 ≠ 0)
  let kb := if p.mode = 0 then 8 else 4
  firstOf [
    (!allZero d 51 13 || decide (4 ≤ numAt d 44 1) || decide (4 ≤ numAt d 46 1) || decide (16 ≤ numAt d 47 1) ||
      numAt d 50 1 / 64 % 2 == 1, 1),
    (bad o.input 8 || bad o.output 8 || bad o.record 64 || bad o.splitAddr 8, 4),
    (decide (16777216 < o.n) || o.cap == 0 || decide (16777216 < o.cap) || decide (p.size < 16) || decide (256 < p.size) ||
      p.size % 8 != 0 || decide (1 < p.mode) || decide (p.h < 4) || decide (16 < p.h) || p.keyOff % kb != 0 ||
      decide (p.size < p.keyOff + (if p.mode = 0 then 8 else 12)) ||
      (p.weighted && (p.weightOff % 4 != 0 || decide (p.size < p.weightOff + 4))), 7)]

/-- An operation that passes the checks is issued, unless its context is stale or the module outside the view (13 R281, 02 R33). -/
def collIssue (s : State) (d : SReg) (sync : Bool) (detail : Option Nat) (o : CollOp) : Out :=
  let sl := s.me
  match detail with
  | some x => trap s 0xA 1 (BitVec.ofNat 64 x)
  | none =>
    let st := (s.viewOf (s.ownJob s.cur)).standing
    if sl.xctx.stale then trap s 0xA 3 0
    else if ¬(st = .member ∨ st = .changing) then trap s 0xA 4 0
    else if 8 ≤ sl.xctx.outstanding then parkAgain s .engineQueue (.engine .x)
    else
      let s := s.mod fun sl => { sl.ws d o.num with
        xctx := { sl.xctx with last := o.num, report := none, ops := sl.xctx.ops ++ [o] } }
      if sync then .next (s.park .timeline (.timeline .x o.num .sync)) else retire s id

def execColl (h : Hdr) (sync : Bool) (d a b : SReg) (s : State) : Out :=
  homeOnly h s (
    let sl := s.me
    match s.myCore.descriptor (sl.rs a) 64 with
    | .inl _ => trap s 0xA 1 6
    | .inr desc =>
      let o := collFields desc (sl.rs b) (sl.xctx.last + 1) (s.release s.cur)
      collIssue s d sync (collDetail desc o (s.viewOf (s.ownJob s.cur)).view) o)

def execRepart (h : Hdr) (sync : Bool) (d a : SReg) (s : State) : Out :=
  homeOnly h s (
    let sl := s.me
    match s.myCore.descriptor (sl.rs a) 64 with
    | .inl _ => trap s 0xA 1 6
    | .inr desc =>
      let o := repartFields desc (sl.xctx.last + 1) (s.release s.cur)
      collIssue s d sync (repartDetail desc o) o)

end Sys2Proof.Machine
end

