-- ==== Sys2Proof/Machine/Views.lean ====
section
/-! DEFINITION. Membership views: suspicion, agreement, installation, isolation and joining (13 R266-R271, R279, R282, R283). -/

namespace Sys2Proof.Machine

/-! ## The view and its leader (13 R266, R268) -/

/-- The members whose bit stands in a list. -/
def bitsOf (ms : List (Fin 4096)) : BitVec 4096 := ms.foldl (fun b m => b ||| (1#4096 <<< m.val)) 0

/-- Whom this module takes for the leader: the lowest member it does not suspect. -/
def JobView.leader (v : JobView) : Option (Fin 4096) := v.view.members.find? fun m => decide (m ∉ v.suspects)

/-- View agreement of the job is host-assisted (18 R386). -/
def State.hostViews (s : State) (job : BitVec 32) : Bool :=
  match (s.viewOf job).modes with
  | some m => m.getLsbD 0
  | none => s.modes.viewAgree

/-- The modes a leader's messages carry. -/
def State.viewModes (s : State) (job : BitVec 32) : BitVec 2 :=
  (s.viewOf job).modes.getD (BitVec.ofBool s.modes.splitters ++ BitVec.ofBool s.modes.viewAgree)

/-- A message of view agreement, in the collective class. -/
def State.sendView (s : State) (job : BitVec 32) (rcv : Fin 4096) (m : ViewMsg) : State :=
  s.send ⟨.mdl s.modId, .mdl rcv, .collective, .view job m⟩

def State.sendViews (s : State) (job : BitVec 32) (rcv : List (Fin 4096)) (m : ViewMsg) : State :=
  rcv.foldl (fun s x => s.sendView job x m) s

/-- The message is taken from the network, where it came by it. -/
def State.takeView (s : State) (job : BitVec 32) (m : ViewMsg) : State :=
  match (List.range s.net.length).find? fun k =>
      ((s.net[k]?).any fun f => decide (f.pkt.body = .view job m)) && s.ready k with
  | none => s
  | some k => ((s.take k).map (·.2)).getD s

/-! ## Heartbeats and suspicion (13 R268) -/

/-- A heartbeat is due at a quarter of the suspect interval. -/
def State.beatDue (s : State) (v : JobView) : Bool := v.inside && decide (v.lastBeat + s.settings.suspect / 4 ≤ s.cycle)

def execHeartbeat (job : BitVec 32) (s : State) : Out :=
  let v := s.viewOf job
  if s.beatDue v then
    .next ((s.modView job fun v => { v with lastBeat := s.cycle }).sendViews job (v.view.members.filter (· ≠ s.modId))
      (.heartbeat s.modId))
  else .next s

/-- The highest number the module knows of in a job. -/
def JobView.top (v : JobView) : BitVec 32 :=
  let a := v.view.num.toNat
  let b := (v.best.map (·.1.toNat)).getD 0
  let c := (v.campaign.map (·.prop.num.toNat)).getD 0
  BitVec.ofNat 32 (max a (max b c))

/-- The leader proposes a view above every number it knows: the members less the suspects, with the joiners of a join change (13 R269, R271). -/
def State.campaign (s : State) (job : BitVec 32) (join : Bool) : State :=
  let v := s.viewOf job
  let bm := (v.view.bitmap &&& ~~~ bitsOf v.suspects) ||| (if join then bitsOf v.joiners else 0)
  let p : Proposal := ⟨s.modId, v.top + 1, bm, join⟩
  let s := s.modView job fun v => { v with campaign := some ⟨p, s.cycle, []⟩ }
  s.sendViews job (View.members ⟨p.num, bm⟩) (.propose s.modId p.num bm join (s.viewModes job))

/-- A join proposal under way is abandoned (13 R271). -/
def State.abandonJoin (s : State) (job : BitVec 32) : State :=
  match (s.viewOf job).campaign with
  | some c =>
    if c.prop.join then
      (s.modView job fun v => { v with campaign := none }).sendViews job (View.members ⟨c.prop.num, c.prop.bitmap⟩) (.abandon c.prop.num)
    else s
  | none => s

/-- The leader has new suspects: it proposes a view without them, or in host-assisted mode tells the host (13 R268, R269). -/
def State.actOnSuspects (s : State) (job : BitVec 32) (ms : List (Fin 4096)) : State :=
  if s.hostViews job then ms.foldl (fun s m => s.raise .suspicion 6 [job.toNat, m.val]) s
  else if (s.viewOf job).leader = some s.modId then (s.abandonJoin job).campaign job false
  else s

/-- A member is suspected. -/
def State.suspect (s : State) (job : BitVec 32) (m : Fin 4096) : State :=
  let v := s.viewOf job
  if m = s.modId ∨ !v.view.has m ∨ m ∈ v.suspects ∨ !v.inside then s
  else (s.modView job fun v => { v with suspects := v.suspects ++ [m] }).actOnSuspects job [m]

/-- No packet of the member has arrived for the suspect interval, or all sixteen of its ports are lost (13 R268). -/
def State.silent (s : State) (v : JobView) (m : Fin 4096) : Bool :=
  v.inside && v.view.has m && decide (m ≠ s.modId) && decide (m ∉ v.suspects) &&
    (decide (assocD v.heard m 0 + s.settings.suspect ≤ s.cycle) || Config.portsLost m.val s.cycle)

def execSuspectIntervalExpiry (job : BitVec 32) (m : Fin 4096) (s : State) : Out :=
  if s.silent (s.viewOf job) m then .next (s.suspect job m) else .next s

/-- A fatal fault of this module goes to the leader; another member's makes it suspected. -/
def execFatalFaultReport (job : BitVec 32) (m : Fin 4096) (s : State) : Out :=
  if m = s.modId then
    match (s.viewOf job).leader with
    | some l => if l = s.modId ∨ !(s.viewOf job).inside then .next s else .next (s.sendView job l (.fatal m))
    | none => .next s
  else .next ((s.takeView job (.fatal m)).suspect job m)

def execHostFailureReport (job : BitVec 32) (m : Fin 4096) (s : State) : Out := .next (s.suspect job m)

/-! ## Proposals (13 R269, R271) -/

/-- The final results this module holds, by channel and sequence. -/
def State.heldFinals (s : State) (job : BitVec 32) : List (Fin 16 × Nat) :=
  let num := (s.viewOf job).view.num
  (s.jobColls job).filterMap fun x =>
    if (x.2.st = .final ∨ ((x.2.st = .writing ∨ x.2.st = .done) ∧ x.2.status = 0)) ∧ x.2.view = num then some (x.2.chan, x.2.seq) else none

/-- No operation of the job stands between matching and done. -/
def State.collsIdle (s : State) (job : BitVec 32) : Bool :=
  (s.jobColls job).all fun x => decide (x.2.st = .queued) || decide (x.2.st = .done)

/-- The module may accept the proposal. -/
def State.accepts (s : State) (job : BitVec 32) (leader : Fin 4096) (num : BitVec 32) (join : Bool) : Bool :=
  let v := s.viewOf job
  let above := match v.best with
    | none => true
    | some (n, l) => decide (n < num) || (decide (n = num) && decide (leader < l))
  decide (v.view.num < num) && above && (v.inside && (!join || s.collsIdle job) || (decide (v.standing = .joining) && join))

/-- A proposal reaches a module, which accepts or ignores it (13 R269). -/
def execPropose (job : BitVec 32) (m : ViewMsg) (s : State) : Out :=
  let s := s.takeView job m
  match m with
  | .propose leader num bm join modes =>
    if s.accepts job leader num join then
      let finals := s.heldFinals job
      let s := s.modView job fun v => { v with
        accepted := some ⟨leader, num, bm, join⟩, acceptedAt := s.cycle, best := some (num, leader), modes := some modes
        standing := if v.standing = .joining then .joining else .changing }
      .next (s.sendView job leader (.accept s.modId num finals))
    else .next s
  | _ => .next s

/-- The holder of each operation's final result that an ACCEPT reported: the lowest (13 R270). -/
def forwardOrders (as : List (Fin 4096 × List (Fin 16 × Nat))) : List (Fin 16 × Nat × Fin 4096) :=
  let keys := ((as.map (·.2)).flatten).eraseDups
  keys.filterMap fun k =>
    match (as.filter fun a => decide (k ∈ a.2)).map (·.1) with
    | [] => none
    | m :: r => some (k.1, k.2, r.foldl (fun x y => if y < x then y else x) m)

/-- The leader holds ACCEPT from every proposed module, more than half the members: it commits (13 R269). -/
def State.tryCommit (s : State) (job : BitVec 32) : State :=
  let v := s.viewOf job
  match v.campaign with
  | none => s
  | some c =>
    let ms := View.members ⟨c.prop.num, c.prop.bitmap⟩
    if ms.all (fun m => c.accepts.any fun a => decide (a.1 = m)) ∧ v.view.count < 2 * ms.length then
      (s.modView job fun v => { v with campaign := none }).sendViews job ms
        (.commit c.prop.num c.prop.bitmap c.prop.join (s.viewModes job) (forwardOrders c.accepts))
    else s

def execAccept (job : BitVec 32) (m : ViewMsg) (s : State) : Out :=
  let s := s.takeView job m
  match m with
  | .accept src num finals =>
    let s := s.modView job fun v => { v with campaign := v.campaign.map fun c =>
      if c.prop.num = num ∧ c.prop.bitmap.getLsbD src.val ∧ !(c.accepts.any fun a => decide (a.1 = src)) then
        { c with accepts := c.accepts ++ [(src, finals)] }
      else c }
    .next (s.tryCommit job)
  | _ => .next s

/-- The agreement interval has run out: a join is abandoned, other modules that have not accepted are dropped; an abandoned join is proposed
again (13 R269, R271). -/
def execAgreementTimeout (job : BitVec 32) (s : State) : Out :=
  let v := s.viewOf job
  match v.campaign with
  | some c =>
    if s.cycle < c.at_ + s.settings.agree then .next s
    else if c.prop.join then .next (s.abandonJoin job)
    else
      let late := (View.members ⟨c.prop.num, c.prop.bitmap⟩).filter fun m =>
        decide (m ≠ s.modId) && !(c.accepts.any fun a => decide (a.1 = m))
      if late.isEmpty then .next s
      else .next ((s.modView job fun v => { v with suspects := (v.suspects ++ late).eraseDups }).actOnSuspects job late)
  | none =>
    if v.standing = .member ∧ !v.joiners.isEmpty ∧ v.suspects.isEmpty ∧ v.leader = some s.modId ∧ !s.hostViews job then
      .next (s.campaign job true)
    else .next s

/-- A JOIN reaches the leader, which proposes to take the module in (13 R271). -/
def execJoinRequest (job : BitVec 32) (m : ViewMsg) (s : State) : Out :=
  let s := s.takeView job m
  match m with
  | .join src =>
    let v := s.viewOf job
    if v.leader ≠ some s.modId ∨ !v.inside ∨ v.view.has src then .next s
    else
      let s := s.modView job fun v => { v with joiners := if src ∈ v.joiners then v.joiners else v.joiners ++ [src] }
      if v.campaign.isNone ∧ v.suspects.isEmpty ∧ !s.hostViews job then .next (s.campaign job true) else .next s
  | _ => .next s

/-- The leader abandons a join proposal: its members go on (13 R267). -/
def execAbandon (job : BitVec 32) (num : BitVec 32) (s : State) : Out :=
  let s := s.takeView job (.abandon num)
  .next (s.modView job fun v =>
    if (v.accepted.any fun p => decide (p.num = num) && p.join) then
      { v with accepted := none, standing := if v.standing = .changing then .member else v.standing }
    else v)

/-! ## Installation and isolation (13 R267, R270, R279) -/

/-- A view is installed: standing, counters, the rules for every operation, and the loss of the modules that left (13 R267, R270, 12 R255). -/
def State.install (s : State) (job : BitVec 32) (new : View) (finals : List (Fin 16 × Nat × Fin 4096)) : State :=
  let old := (s.viewOf job).view
  let s := s.modView job fun v => { v with
    standing := .member, view := new, accepted := none, campaign := none, suspects := []
    joiners := v.joiners.filter fun m => !new.has m, heard := new.members.map fun m => (m, s.cycle) }
  let s := s.changeColls job new finals
  (old.members.filter fun m => !new.has m && decide (m ≠ s.modId)).foldl (fun s m => s.loseModule m 0x20 (some job)) s

/-- The module is isolated: every operation ends with status 5, and contexts with RESTART operations are stale (13 R267, R276, R279). -/
def State.isolate (s : State) (job : BitVec 32) : State :=
  (s.failColls job 5 true).modView job fun v => { v with standing := .isolated, accepted := none, campaign := none, inbox := [] }

/-- No commit has come within the isolation interval. -/
def State.cutOff (s : State) (v : JobView) : Bool :=
  decide (v.standing = .changing) && decide (v.acceptedAt + s.settings.isolate ≤ s.cycle)

def execIsolation (job : BitVec 32) (s : State) : Out :=
  if s.cutOff (s.viewOf job) then .next (s.isolate job) else .next s

/-- A COMMIT of a higher number reaches a module: a changing one installs its accepted proposal, and is isolated by any view that leaves it out; a
joining one enters by the view that names it (13 R267). -/
def execViewCommit (job : BitVec 32) (m : ViewMsg) (s : State) : Out :=
  let s := s.takeView job m
  match m with
  | .commit num bm _ modes finals =>
    let v := s.viewOf job
    let named := bm.getLsbD s.modId.val
    let own := v.accepted.any fun p => decide (p.num = num) && decide (p.bitmap = bm)
    if num ≤ v.view.num then .next s
    else if named && (decide (v.standing = .joining) || (decide (v.standing = .changing) && own)) then
      .next ((s.modView job fun v => { v with modes := some modes }).install job ⟨num, bm⟩ finals)
    else if !named && decide (v.standing = .changing) then .next (s.isolate job)
    else .next s
  | _ => .next s

/-- What the host's installation finds held: this module's own final results, and of its running operations those that another survivor holds,
which nothing here tells (18 R386, 13 R270; log entry 23). -/
def State.hostFinals (s : State) (job : BitVec 32) (new : View) : List (Fin 16 × Nat × Fin 4096) × State :=
  let other := new.members.filter (· ≠ s.modId)
  let num := (s.viewOf job).view.num
  (s.jobColls job).foldl (fun (acc : List (Fin 16 × Nat × Fin 4096) × State) (x : Who × CollOp) =>
    if x.2.st = .final ∧ x.2.view = num then (acc.1 ++ [(x.2.chan, x.2.seq, acc.2.modId)], acc.2)
    else match other with
      | [] => acc
      | m :: _ =>
        if x.2.st = .running ∧ !x.2.p.repart then
          let (k, s) := acc.2.pick 2
          (if k = 1 then acc.1 ++ [(x.2.chan, x.2.seq, m)] else acc.1, s)
        else acc) ([], s)

/-- The modes the first view of a job fixes at this module: those of the module that leads it. Another module's bits are not known here until a
message of it carries them: they are open (18 R386; log entry 23). -/
def State.firstModes (s : State) (job : BitVec 32) (new : View) : BitVec 2 × State :=
  match (s.viewOf job).modes with
  | some m => (m, s)
  | none =>
    if new.members.head? = some s.modId then (s.viewModes job, s)
    else let (k, s) := s.pick 4; (BitVec.ofNat 2 k, s)

/-- Management command 0x03: the host installs a view where agreement is host-assisted, and the first view of a job in either mode
(18 R386, 13 R269; log entry 23). -/
def execInstallView (job num : BitVec 32) (bm : BitVec 4096) (s : State) : Out :=
  let v := s.viewOf job
  let first := decide (v.view.num = 0)
  if num ≤ v.view.num ∨ v.standing = .isolated ∨ !(first || s.hostViews job) then .next s
  else if !bm.getLsbD s.modId.val then (if v.inside then .next (s.isolate job) else .next s)
  else
    let new : View := ⟨num, bm⟩
    let (finals, s) := s.hostFinals job new
    let (m, s) := s.firstModes job new
    .next ((s.modView job fun v => { v with modes := some m }).install job new finals)

/-- Management command 0x06: an isolated module marked ready asks the leader to let it join (13 R267, R271). -/
def execMarkModuleReady (m : Fin 4096) (s : State) : Out :=
  if m ≠ s.modId then .next s
  else .next (s.views.foldl (fun s v =>
    if v.standing = .isolated then
      let s := s.modView v.job fun v => { v with standing := .joining, suspects := [] }
      match v.view.members.find? fun x => decide (x ≠ s.modId) with
      | some l => s.sendView v.job l (.join s.modId)
      | none => s
    else s) s)

/-! ## Instructions (13 R282, R283) -/

/-- What a part of the view reads as (13 R282). -/
def State.viewPart (s : State) (job : BitVec 32) (part : Fin 8) (i : Nat) : Word :=
  let v := s.viewOf job
  match part.val with
  | 0 => v.view.word
  | 1 => if v.inside then BitVec.ofNat 64 (v.view.rank s.modId) else 0xFFFF
  | 2 => BitVec.ofNat 64 ((v.view.members.headD 0).val)
  | 3 => v.view.bitmap.extractLsb' (64 * i) 64
  | _ => ((v.accepted.map fun (p : Proposal) => p.num).getD 0).setWidth 64

def execViewrd (h : Hdr) (part : Fin 8) (d : SReg) (a : Option SReg) (s : State) : Out :=
  homeOnly h s (.next (s.park .view (.view part d (((a.map s.me.rs).getD 0).toNat % 64))))

def execViewack (h : Hdr) (d a : SReg) (s : State) : Out :=
  homeOnly h s (
    let v := (s.viewOf (s.ownJob s.cur)).view
    let c := s.me.xctx
    if !c.stale then retire s fun sl => sl.ws d 1
    else if (s.me.rs a).setWidth 32 = v.num then
      retire s fun sl => { sl.ws d 0 with xctx := { sl.xctx with stale := false } }
    else retire s fun sl => sl.ws d 2)

end Sys2Proof.Machine
end

