-- ==== Sys2Proof/Machine/Launch.lean ====
section
/-! DEFINITION. Launches: the descriptor's checks, the start of its cores, and their end (16 R332-R339, 14 R308). -/

namespace Sys2Proof.Machine

/-! ## The descriptor (16 R334) -/

def word64 (d : List Byte) (o : Nat) : Word := BitVec.ofNat 64 (numAt d o 8)

/-- The launch a descriptor asks for. -/
def launchOfDesc (id : Nat) (q : Fin 64) (tag : BitVec 32) (d : List Byte) : Launch :=
  let r := numAt d 44 4
  ⟨id, q, tag, BitVec.ofNat 32 (numAt d 48 4), Fin.ofNat 6 (r % 8), r / 8 % 64, r / 512 % 32, r / 2 ^ 14 % 8, r / 2 ^ 17 % 8,
    word64 d 8, word64 d 32, BitVec.ofNat 32 (numAt d 40 4), 0, 0⟩

/-- A reserved field is nonzero, or a field lies outside its values (16 R334, R335; log entry 25). -/
def descReserved (d : List Byte) : Bool :=
  let root := numAt d 8 8
  decide (d.length ≠ 192) || decide (root % 2 ^ 14 ≠ 0) || decide (2 ^ 44 ≤ root) || decide (numAt d 16 8 % 64 ≠ 0) ||
    (coreOf (BitVec.ofNat 32 (numAt d 40 4))).isNone || decide (numAt d 44 4 / 2 ^ 20 ≠ 0) || !allZero d 52 4 ||
    decide (numAt d 56 8 % 8 ≠ 0) || decide (numAt d 64 4 % 8 ≠ 0) || decide (numAt d 68 4 % 8 ≠ 0) ||
    decide (0x2FC00 < numAt d 68 4 + numAt d 64 4) || !allZero d 168 24

/-- The cores of a launch (16 R332). -/
def Launch.cores (l : Launch) : List CoreId := (List.range (2 ^ (l.lw + l.lh))).map l.coreAt

/-- The rectangle is not one of R332, or a core of it belongs to a running launch, or its die takes no work (18 R390). -/
def State.badRect (s : State) (d : List Byte) (l : Launch) : Bool :=
  decide (5 < numAt d 44 4 % 8) || decide (6 < l.lw) || decide (5 < l.lh) || decide (l.rx % 2 ^ l.lw ≠ 0) ||
    decide (l.ry % 2 ^ l.lh ≠ 0) || decide (s.dies[stackDie l.stack] ≠ .up) || l.cores.any fun c => (s.launchOf c).isSome

/-- The bank formats of a descriptor. -/
def descFormats (d : List Byte) : Vector Word 12 := Vector.ofFn fun (i : Fin 12) => word64 d (72 + 8 * i.val)

/-- Bytes read for a launch through its table; none where the read faults. -/
def State.launchRead (s : State) (root va : Word) (n : Nat) : Option (List Byte) :=
  let a := va.toNat
  if n = 0 then some []
  else if 2 ^ 48 < a + n then none
  else match checkWith a n .load 1 false ((pagesOf a n).map fun p => (p, (s.walk root (p * 32768)).1)) with
  | .ok segs => if segs.any fun g => s.poisoned g.pa g.len then none else some (segs.map fun g => s.gread g.pa g.len).flatten
  | _ => none

/-! ## The shape record (16 R336-R338) -/

/-- A tensor descriptor of a launch of `cores` cores. -/
def tensorOk (img : List Byte) (cores t : Nat) : Bool :=
  let n (k len : Nat) : Nat := numAt img (64 + 64 * t + k) len
  let dims := n 9 1
  let ps := (List.range 4).map fun i => n (48 + 2 * i) 2
  (decide (n 8 1 ≤ 6) || decide (n 8 1 = 8)) && decide (1 ≤ dims) && decide (dims ≤ 4) &&
    ((List.range 4).all fun i => decide (n (10 + i) 1 ≤ 15)) && decide (n 14 2 = 0) &&
    ((List.range 4).all fun i => decide (1 ≤ n (16 + 4 * i) 4) && (decide (i < dims) || decide (n (16 + 4 * i) 4 = 1))) &&
    ((List.range 4).all fun i => decide (1 ≤ ps.getD i 0) && (decide (i < dims) || decide (ps.getD i 0 = 1))) &&
    decide (n 56 8 = 0) && decide (cores % (ps.foldl (· * ·) 1) = 0)

/-- The checks of a shape image; its reserved byte 3 is ignored (00 R9). -/
def shapeOk (img : List Byte) (cores : Nat) : Bool :=
  decide (numAt img 0 2 = 1) && decide (numAt img 2 1 ≤ 15) &&
    (List.range (numAt img 2 1)).all (tensorOk img cores)

/-- The shape record of one core (16 R336): its reserved bytes are written as zero (00 R9). -/
def Launch.shape (l : Launch) (m : Fin 4096) (c : CoreId) (img : List Byte) : List Byte :=
  img.take 3 ++ leBytes 1 0 ++ leBytes 1 l.rx ++ leBytes 1 l.ry ++ leBytes 1 l.lw ++ leBytes 1 l.lh ++ leBytes 2 c.x.val ++ leBytes 2 c.y.val ++
    leBytes 4 (l.rank c) ++ leBytes 4 (2 ^ (l.lw + l.lh)) ++ leBytes 1 c.stack.val ++ leBytes 3 0 ++ leBytes 4 l.job.toNat ++
    leBytes 4 m.val ++ img.drop 32

/-! ## The start (16 R335) -/

/-- The condition of R335 that rejects a launch, counted from 1, or the images it needs. -/
def State.launchCheck (s : State) (l : Launch) (d : List Byte) : Sum Nat (List Byte × List Byte) :=
  if descReserved d then .inl 1
  else if s.badRect d l then .inl 2
  else if !((descFormats d).toList.all fmtLegal) then .inl 3
  else
    let img := s.launchRead l.root (word64 d 16) 1024
    let pre := s.launchRead l.root (word64 d 56) (numAt d 64 4)
    if img.any fun i => !shapeOk i (2 ^ (l.lw + l.lh)) then .inl 4
    else match img, pre with
    | some i, some p => if (s.jobLaunches l.job).any fun x => decide (x.root ≠ l.root) then .inl 6 else .inr (i, p)
    | _, _ => .inl 5

/-- The save area of slot `i` of the core of a rank (17 R379). -/
def Launch.saveArea (l : Launch) (rank : Nat) (i : Fin 16) : Word :=
  (l.tsave &&& 0xFFFFFFFFFFFFF000#64) + BitVec.ofNat 64 (4096 * (16 * rank + i.val))

/-- A slot as a launch sets it (02 R36, R38); a guest in it goes on with its own registers, accesses and wait (log entry 26). -/
def Slot.launched (sl : Slot) (l : Launch) (rank : Nat) (entry tvec : Word) (i : Fin 16) : Slot :=
  let t : Slot := { Slot.reset .pool with
    pc := if i = 0 then entry else 0, state := if i = 0 then .running else .pool, tvec := tvec, tsave := l.saveArea rank i
    sup := l.sup, nextStore := sl.nextStore, nextId := sl.nextId }
  match sl.hosting with
  | none => t
  | some h =>
    { sl with
      f := t.f, v := t.v, y := t.y, tvec := t.tvec, tsave := t.tsave, sup := t.sup, tcause := 0, tval := 0, epc := 0
      cctx := t.cctx, mctx := t.mctx, xctx := t.xctx, tctx := t.tctx, streams := t.streams, draining := t.draining, errq := t.errq
      tmr := t.tmr, tmrAt := t.tmrAt, repCont := false, pendCopy := none, pendMember := none, pendSpawn := none, pendTimer := false
      haltReq := false, haltNow := false
      hosting := some { h with own := t.pack h.home h.job 0 } }

/-- A core as a launch sets it (02 R36, 08 R170, 16 R335). -/
def Core.launched (c : Core) (l : Launch) (m : Fin 4096) (id : CoreId) (d img pre : List Byte) : Core :=
  { Core.reset with
    slots := Vector.ofFn fun (i : Fin 16) => Slot.launched (c.slots[i]) l (l.rank id) (word64 d 0) (word64 d 24) i
    sp := (Memory.write [] 0x2FC00 (l.shape m id img)).write (numAt d 68 4) pre
    fmt := descFormats d, launch := some l.id, job := l.job, arrivals := c.arrivals, msgIn := c.msgIn, nextGate := c.nextGate }

/-- A cluster at the start of a launch: banks and claims are cleared unless another running launch uses it (11 R225). -/
def State.launchEngine (s : State) (c : ClusterId) : State :=
  if (coresOf c).any fun k => (s.launchOf k).isSome then s
  else s.modEngine c fun e => { e with banks := Vector.replicate 4 [], claims := Vector.replicate 4 none }

/-- An accepted submission. -/
def State.submit (s : State) (q : Fin 64) (p : Pending) : State :=
  { s with qpairs := s.qpairs.set q { s.qpairs[q] with pending := s.qpairs[q].pending ++ [p] } }

/-- A rejected submission (18 R385). -/
def State.reject (s : State) (q : Fin 64) (tag : BitVec 32) (reason : Nat) : State :=
  let (x, s) := s.freeWord
  s.submit q ⟨tag, none, s.cycle, 0, some (1, reason, 0, x.toNat)⟩

/-- A launch submission: rejected as a whole, or every core of the rectangle is set and its steward runs. -/
def State.startLaunch (s : State) (q : Fin 64) (tag : BitVec 32) (d : List Byte) : State :=
  let l := launchOfDesc s.nextLaunch q tag d
  match s.launchCheck l d with
  | .inl reason => s.reject q tag reason
  | .inr (img, pre) =>
    let s := (l.cores.map clusterOf).eraseDups.foldl State.launchEngine s
    let s := l.cores.foldl (fun (s : State) (c : CoreId) => s.modCore c fun k => k.launched l s.modId c d img pre) s
    { s with launches := s.launches ++ [l], nextLaunch := s.nextLaunch + 1 }.submit q ⟨tag, some l.id, s.cycle, 0, none⟩

def execLaunch (q : Fin 64) (tag : BitVec 32) (d : List Byte) (s : State) : Out := .next (s.startLaunch q tag d)

/-! ## The end (16 R339, 14 R308) -/

/-- A core's part of a launch is quiescent. -/
def Core.quiescent (c : Core) : Bool :=
  c.inExit && (c.slots.toList.drop 1).all (fun sl => decide (sl.state = .pool) || sl.hosting.isSome) &&
    c.queues.toList.all (·.isEmpty) && c.overflow.toList.all (·.isEmpty) && c.gates.isEmpty && c.inbound.isEmpty &&
    c.slots.toList.all fun sl => sl.tctx.ops.isEmpty

/-- Everything R308 names has been performed or has ended for the slots of a core. -/
def State.performed (s : State) (c : CoreId) : Bool :=
  let mine (a : Agent) : Bool := decide (a.mod = s.modId) && decide (a.who.core = c)
  (s.core c).slots.toList.all (fun sl => sl.storeQ.isEmpty && sl.postedIds.isEmpty && sl.cctx.ops.isEmpty && sl.mctx.ops.isEmpty &&
      sl.xctx.ops.isEmpty) &&
    s.names.all (fun r => r.vers.all fun e => !(e.st == .filling && mine e.producer)) &&
    s.deliveries.all fun d => d.noticed || !mine d.dst

/-- The record of an ended launch becomes ready (18 R385); its claims on banks end (11 R232). -/
def State.completeLaunch (s : State) (l : Launch) (status : Option Nat) : State :=
  let close (p : Pending) : Pending :=
    if p.launch = some l.id then
      { p with done := some (status.getD (if p.failed = 0 then 0 else 2), 0, p.failed, s.cycle - p.start) }
    else p
  let free (b : Barrier) : Barrier := if b.owner = some l.id then { b with owner := none, count := 0, arrived := 0 } else b
  let mine (w : Who) : Bool := decide ((s.core w.core).launch = some l.id)
  let unclaim (x : Option Who) : Option Who := x.filter fun w => !mine w
  { s with
    launches := s.launches.filter fun x => x.id != l.id
    cores := s.cores.map fun (x : CoreId × Core) => if x.2.launch = some l.id then (x.1, { x.2 with launch := none }) else x
    engines := s.engines.map fun (x : ClusterId × Engine) => (x.1, { x.2 with
      barriers := mapV free x.2.barriers, claims := mapV unclaim x.2.claims })
    qpairs := mapV (fun (q : QueuePair) => { q with pending := q.pending.map close }) s.qpairs }

/-- A running launch is at its end (16 R339, 14 R308). -/
def State.launchOver (s : State) (l : Launch) : Bool :=
  l.cores.all (fun c => (s.core c).quiescent && s.performed c) && l.sent == l.accepted

def execLaunchEnd (id : Nat) (s : State) : Out :=
  match s.launches.find? fun l => l.id == id with
  | none => .next s
  | some l => if s.launchOver l then .next (s.completeLaunch l none) else .next s

end Sys2Proof.Machine
end

