-- ==== Sys2Proof/Machine/Dies.lean ====
section
/-! DEFINITION. Die reset, power and cooling (18 R390, R392, 05 R111, 12 R263). -/

namespace Sys2Proof.Machine

/-- The state an instruction's meaning leads to. -/
def stateOf (s : State) (o : Out) : State :=
  match o with
  | .next t => t
  | _ => s

def onDie (d : DieId) (st : Fin 6) : Bool := decide (stackDie st = d)

/-- The packets bound for a die fail with the cause of a fenced die (12 R258). -/
def State.failToDie (s : State) (d : DieId) : State := s.failFlights (fun f => decide (dieOfDst f.pkt.dst = d)) 0x22

/-- A packet from the die that is still to leave it: its neighbours drain the links. -/
def State.dieBusy (s : State) (d : DieId) : Bool :=
  s.net.any fun f => match srcRouter s.modId f.pkt.src with
    | some r => onDie d r.1 && decide (dieOfDst f.pkt.dst ≠ d) && f.hold.isNone
    | none => false

/-! ## What the die held, item by item (18 R390, 17 R381) -/

def State.dieSlots (s : State) (d : DieId) : List Who := s.allSlots.filter fun w => onDie d w.core.stack

/-- The stores of a slot performed in order. -/
def State.flushStores (s : State) (w : Who) : State :=
  (List.range ((s.slot w).storeQ.map fun e => e.parts.length).sum).foldl (fun s _ => s.performStore w 0 0) s

/-- The collectives of a slot end with status 4, and their records are written. -/
def State.endColls (s : State) (w : Who) : State :=
  (s.slot w).xctx.ops.foldl (fun s o => stateOf s (execCollWriteDone w o.num (s.modColl w o.num (·.fail 4)))) s

/-- The operations of a slot that fail with its die. -/
def Slot.itemsHeld (sl : Slot) : Nat :=
  sl.cctx.outstanding + sl.mctx.outstanding + sl.tctx.outstanding + sl.outst.length

/-- The slot's copies, matrix and task operations not complete end with its die: matrix operations with cause 4 (18 R390, 11 R236, R244). -/
def Slot.endOps (sl : Slot) : Slot :=
  let dead (o : MatOp) : MatOp := if o.st = .complete then o else { o with st := .complete, status := { o.status with error := true, cause := 4 } }
  { sl with
    cctx := { sl.cctx with tl := sl.cctx.last, ops := [] }
    mctx := { sl.mctx with ops := sl.mctx.ops.map dead }.settle
    tctx := { sl.tctx with acc := sl.tctx.last, ops := [] } }

/-- The tasks a core holds. -/
def Core.tasksHeld (c : Core) : Nat :=
  ((List.finRange 4).map fun p => (c.whole p).length).sum + c.gates.length + c.inbound.length

/-- The senders of the task packets that wait at a core. -/
def State.failInbound (s : State) (c : CoreId) : State :=
  (s.core c).inbound.foldl (fun s t => match t.src with
    | some (a, n) => s.taskAck a n false
    | none => s) s

/-- The names homed on the die go: waiting requesters trap, gates get their notice, deliveries not noticed fail (05 R111, 16 R344). -/
def State.dropName (s : State) (r : NameRec) : State :=
  let s := { s with names := s.names.filter fun x => decide (x.name ≠ r.name) }
  let tell (s : State) (x : Agent × Nat) : State := s.tell x.1 (.trep x.1 r.name x.2 (.trap 5))
  let s := (r.vers.map (·.waiters)).flatten.foldl (fun (s : State) w => match w with
    | .load src _ id _ _ => tell s (src, id)
    | .gate md c gid => s.tell ⟨md, ⟨c, 0⟩⟩ (.gate c gid false)) s
  let asked := r.parked.map (fun c => (c.src, c.id)) ++ r.pend.map (fun p => (p.1, p.2.1)) ++
    ((r.vers.filter fun e => e.st == .filling).map fun e => (e.producer, e.pid))
  let s := asked.foldl tell s
  let ds := s.deliveries.filter fun d => decide (d.name = r.name) && !d.noticed
  let s := { s with deliveries := s.deliveries.filter fun d => decide (d.name ≠ r.name) }
  (ds.map fun d => (d.dst, d.id)).foldl tell s

/-- The requests held at the die's slices trap (05 R111). -/
def State.dropHeld (s : State) (d : DieId) : State :=
  let here (h : HeldTile) : Bool := tileStack h.req.name == d.val && decide (tileMod h.req.name = s.modId)
  let hs := s.tileHeld.filter here
  hs.foldl (fun (s : State) h => s.tell h.req.src (match h.req.op with
      | .gate _ c gid => .gate c gid false
      | _ => .trep h.req.src h.req.name h.req.id (.trap 5)))
    { s with tileHeld := s.tileHeld.filter fun h => !here h }

/-- A core after the reset of its die; the slots' contexts hold what the reset left of their operations (11 R236, log entry 29). -/
def Core.afterReset (c : Core) : Core :=
  { Core.reset with
    slots := Vector.ofFn fun (i : Fin 16) =>
      { (Core.reset.slots[i]) with
        nextStore := (c.slots[i]).nextStore, nextId := (c.slots[i]).nextId
        cctx := (c.slots[i]).cctx, mctx := (c.slots[i]).mctx, xctx := (c.slots[i]).xctx, tctx := (c.slots[i]).tctx }
    nextGate := c.nextGate }

/-- Every operation held on the die ends with error. -/
def State.failHeld (s : State) (d : DieId) : State :=
  let ws := s.dieSlots d
  let cs := (s.cores.map (·.1)).filter fun c => onDie d c.stack
  let s := ws.foldl State.flushStores s
  let s := ws.foldl (fun s w => (s.failItems w.core (s.slot w).itemsHeld).modSlot w Slot.endOps) s
  let s := ws.foldl State.endColls s
  let s := cs.foldl (fun s c => (s.failInbound c).failItems c (s.core c).tasksHeld) s
  let guests := (ws.filterMap fun w => (s.slot w).hosting.map (·.home)) ++ (cs.map fun c => (s.core c).arrivals.map (·.home)).flatten
  let s := guests.foldl State.dropGuest s
  let s := (s.names.filter fun r => tileStack r.name < 6 && decide (tileStack r.name = d.val) && decide (tileMod r.name = s.modId)).foldl
    State.dropName (s.dropHeld d)
  (s.deliveries.filter fun x => decide (x.dst.mod = s.modId) && onDie d x.dst.who.core.stack).foldl
    (fun s x => s.closeDelivery x.did true) s

/-- What stands in the ports of the I/O die fails with it (12 R251, 18 R390). -/
def State.failPorts (s : State) : State :=
  let pkts := (s.ports.toList.map fun p => (p.unacked.map fun f => f.payload.map (·.2)).flatten ++ p.waiting).flatten
  let s := { s with ports := mapV (fun p => if p.st = .lost then p else { Port.reset with discarded := p.discarded }) s.ports }
  pkts.foldl (fun (s : State) q => s.failPacket 0x22 3 q) s

/-- The units of the I/O die at their reset values: the ports, the link to the host, the mail of the collective unit, its requests for splitters,
and what view agreement has under way. The views installed stay, as does what the dies' events wait in (log entry 29). -/
def State.clearIo (s : State) : State :=
  { s.failPorts with
    jormal := .reset, splitReqs := []
    views := s.views.map fun (v : JobView) => { v with inbox := [], campaign := none, joiners := [], heard := v.view.members.map fun m => (m, s.cycle) } }

/-- The units of the die at their reset values. -/
def State.clearDie (s : State) (d : DieId) : State :=
  let s := if d = 6 then s.clearIo else s
  { s with
    cores := s.cores.map fun (x : CoreId × Core) => if onDie d x.1.stack then (x.1, x.2.afterReset) else x
    engines := s.engines.map fun (x : ClusterId × Engine) => if onDie d x.1.stack then (x.1, Engine.reset) else x
    resTabs := Vector.ofFn fun (i : Fin 192) => if i.val / 32 = d.val then ⟨[], s.resTabs[i].serial⟩ else s.resTabs[i]
    pend := Vector.ofFn fun (i : Fin 6) => if onDie d i then [] else s.pend[i]
    stale := s.stale.filter fun x => !onDie d (s.stackOf (x.1 * 8)) }

/-- A die's reset ends: what it held fails, its units reset, its launches complete with status 3, and it stays fenced. The I/O die
holds the collective units (13 R276). -/
def State.finishReset (s : State) (d : DieId) : State :=
  let s := (s.failToDie d).failHeld d
  let s := if d = 6 then ((s.launches.map (·.job)).eraseDups).foldl (fun s j => s.failColls j 4 false) s else s
  let ls := s.launches.filter fun l => onDie d l.stack
  let s := ls.foldl (fun s l => s.completeLaunch l (some 3)) s
  let s := s.clearDie d
  { s with dies := s.dies.set d .fenced }

/-- The reset of a die: its neighbours stop forwarding and answer what is bound for it; once the links are drained it resets. What is
sent to it afterwards fails. -/
def State.stepReset (s : State) (d : DieId) : State :=
  match s.dies[d] with
  | .up => { s with dies := s.dies.set d (.draining s.cycle) }.failToDie d
  | .draining _ => let s := s.failToDie d; if s.dieBusy d then s else s.finishReset d
  | .fenced => s.failToDie d

def execResetADie (d : DieId) (s : State) : Out := .next (s.stepReset d)

/-- The links of a die. -/
def dieLinks (d : DieId) : List LinkId :=
  ((List.finRange 6).filter fun i => d = 6 || onDie d i).map LinkId.io ++
    ((List.finRange 6).filter fun i => onDie d i || onDie d (i + 1)).map LinkId.nb

/-- The link has not been drained: it retrains, or packets are still to cross it. -/
def State.linkStuck (s : State) (l : LinkId) : Bool :=
  match (s.link l).st with
  | .up => s.net.any fun f => f.hold.isNone && f.crosses l
  | .retrain _ => true
  | .lost => false

/-- Links still unresponsive at the drain's limit are lost, with what crosses them, and the die resets (18 R390, 06 R139). -/
def execDieDrainTimeout (d : DieId) (s : State) : Out :=
  match s.dies[d] with
  | .draining t =>
    if t + 100000 ≤ s.cycle then
      let s := ((dieLinks d).filter s.linkStuck).foldl State.loseLink s
      .next (s.finishReset d)
    else .next s
  | _ => .next s

/-- A die takes new work once the host has marked it ready; not while the module is too hot (18 R390, R392). -/
def execMarkDieReady (d : DieId) (s : State) : Out :=
  if s.dies[d] = .fenced ∧ !s.hot then .next { s with dies := s.dies.set d .up } else .next s

/-! ## Cooling (18 R392) -/

/-- At 105 °C every die is fenced as a die reset gives, each in its own time; the module powers down afterwards. -/
def State.overheat (s : State) : State :=
  if s.hot then s
  else (List.finRange 7).foldl (fun (s : State) d => if s.dies[d] = .up then s.stepReset d else s) { s with hot := true }

/-- Every die is fenced, and no completion record that a ring has room for is left to write (18 R385, R390; log entry 18). -/
def State.shutReady (s : State) : Bool :=
  s.hot && s.dies.toList.all (· == .fenced) &&
    s.qpairs.toList.all fun q => q.cplFree == 0 || !(q.pending.head?.any fun p => p.done.isSome)

/-- A temperature: above 95 °C the clock is lowered by a step, at 105 °C the dies are fenced. -/
def execThermalThrottle (celsius : Nat) (s : State) : Out :=
  let s := { s with celsius := celsius, clock := if 95 < celsius then max 1200 (s.clock - 100) else s.clock }
  .next (if 105 ≤ celsius then s.overheat else s)

/-- At 105 °C the dies are fenced; once they all are, the module powers down. -/
def execThermalShutdown (celsius : Nat) (s : State) : Out :=
  if s.shutReady then .next { s with celsius := celsius, powered := false }
  else .next (if 105 ≤ celsius then State.overheat { s with celsius := celsius } else { s with celsius := celsius })

end Sys2Proof.Machine
end

