-- ==== Sys2Proof/Machine/Host.lean ====
section
/-! DEFINITION. The host link, its queues and management commands, firmware, and module reset (18 R383-R391). -/

namespace Sys2Proof.Machine

/-! ## Pages and staging (18 R386) -/

/-- The stack whose fault service reported a page that waits; of several, the lowest (log entry 46). -/
def State.pendStack (s : State) (root : Word) (page : Nat) : Option (Fin 6) :=
  (List.finRange 6).find? fun i => (s.pend[i]).any fun q => decide (q.root = root) && q.page == page

/-- The host's answer for a waiting page; a page that no longer waits is left alone (04 R85, R91). -/
def execCommitOrDenyAPage (job : BitVec 32) (page frame : Word) (s : State) : Out :=
  let root := (((s.jobLaunches job).head?).map (·.root)).getD 0
  match s.pendStack root (page.toNat / 32768) with
  | none => .next s
  | some st => .next (s.commitPage root page frame st).2

/-- G and W of a waiting request, copied to host memory (13 R286). -/
def execReadCollectiveStaging (job : BitVec 32) (chan : Fin 16) (seq host len : Nat) (s : State) : Out :=
  match s.splitReq job chan seq with
  | none => .next s
  | some r =>
    let bs := ((r.g ++ [r.w]).map fun x => leBytes 8 x.toNat).flatten
    .next (s.hostWrite host (bs.take len))

/-! ## Modes (18 R386) -/

def Modes.set (m : Modes) (f : ModeFn) (b : Bool) : Modes :=
  match f with
  | .pageCommit => { m with pageCommit := b }
  | .tableSpill => { m with tableSpill := b }
  | .viewAgree => { m with viewAgree := b }
  | .splitters => { m with splitters := b }
  | .fpException => { m with fpException := b }
  | .errDrain => { m with errDrain := b }

def execModeChange (f : ModeFn) (hostAssisted : Bool) (s : State) : Out :=
  if s.launches.isEmpty then .next { s with modes := Modes.set s.modes f hostAssisted } else .next s

/-! ## Submissions (18 R384) -/

/-- A slot named by a core word and a number, on this module; a stack of 6 or 7 names none (01 R16). -/
def State.namedSlot (s : State) (core slot : Word) : Option Who :=
  match coreOf (core.setWidth 32) with
  | some (m, c) => if h : slot.toNat < 16 then (if m = s.modId then some ⟨c, ⟨slot.toNat, h⟩⟩ else none) else none
  | none => none

/-- The pairs of a list of words: a name and a version each. -/
def entryList : List Word → List (Word × BitVec 32)
  | n :: v :: r => (n, v.setWidth 32) :: entryList r
  | _ => []

/-- A bitmap from its 64 words, lowest first. -/
def bitmapOf (ws : List Word) : BitVec 4096 := BitVec.ofNat 4096 (ws.foldr (fun w acc => w.toNat + 2 ^ 64 * acc) 0)

/-- A management command by its code and operand words (log entry 8): the status and the state. A place that does not exist, a stack of 6
or 7 among them, is invalid, and the command is rejected (01 R16). -/
def State.manage (s : State) (code : Nat) (ws : List Word) : Nat × State :=
  let w (i : Nat) : Word := ws.getD i 0
  let job : BitVec 32 := (w 0).setWidth 32
  let chan : Fin 16 := Fin.ofNat 16 (w 1).toNat
  let noChan := decide (16 ≤ (w 1).toNat)
  match code with
  | 1 => (0, stateOf s (execCommitOrDenyAPage job (w 1) (w 2) s))
  | 2 => if h : (w 0).toNat < 6 ∧ (w 1).toNat < 32 then
      (0, stateOf s (execMoveOrReclaimVersionEntries ⟨(w 0).toNat, h.1⟩ ⟨(w 1).toNat, h.2⟩ (entryList (ws.drop 3)) (w 2 != 0) s))
    else (1, s)
  | 3 => (0, stateOf s (execInstallView job ((w 1).setWidth 32) (bitmapOf (ws.drop 2)) s))
  | 4 =>
    let seq := (w 2).toNat
    if noChan then (1, s)
    else if (s.splitReq job chan seq).isSome && !s.keysOk job (ws.drop 3) then (1, s)
    else (0, stateOf s (execSupplySplitters job chan seq (ws.drop 3) s))
  | 5 => match s.namedSlot (w 0) (w 1) with
    | some t => (0, stateOf s (execAnswerAnException t (w 2 != 0) s))
    | none => (1, s)
  | 6 => if h : (w 0).toNat < 4096 then (0, stateOf s (execMarkModuleReady ⟨(w 0).toNat, h⟩ s)) else (1, s)
  | 7 => match s.namedSlot (w 0) (w 1) with
    | some t => (0, stateOf s (execSpillOrResumeASlot t (w 2 != 0) s))
    | none => (1, s)
  | 8 => if h : (w 0).toNat < 7 then (0, stateOf s (execResetADie ⟨(w 0).toNat, h⟩ s)) else (1, s)
  | 9 => if noChan then (1, s) else (0, stateOf s (execReadCollectiveStaging job chan (w 2).toNat (w 3).toNat (w 4).toNat s))
  | _ => (1, s)

/-- A management submission; its record is ready at acceptance. -/
def State.command (s : State) (q : Fin 64) (tag : BitVec 32) (block : List Byte) : State :=
  let (code, ws) := Config.mgmtBlock block
  let (status, s) := s.manage code ws
  let (x, s) := s.freeWord
  let (r, s) := if status = 0 then (0, s) else s.pick 256
  s.submit q ⟨tag, none, s.cycle, 0, some (status, r, 0, x.toNat)⟩

/-- One submission entry taken (18 R384; log entry 25); its reserved bytes are ignored (00 R9). A management block's size is not given:
64 bytes are read (log entry 8). -/
def State.accept (s : State) (q : Fin 64) (e : List Byte) : State :=
  let tag := BitVec.ofNat 32 (numAt e 4 4)
  let desc := numAt e 8 8
  if desc % 64 ≠ 0 then s.reject q tag 1
  else if numAt e 0 1 = 1 then s.startLaunch q tag (s.hostMem.read desc 192)
  else if numAt e 0 1 = 2 then s.command q tag (s.hostMem.read desc 64)
  else
    let (r, s) := s.pick 256
    s.reject q tag r

/-- The entries from the head to the tail, in ring order. -/
def State.acceptRing : Nat → State → Fin 64 → Nat → State
  | 0, s, _, _ => s
  | k + 1, s, q, tail =>
    let p := s.qpairs[q]
    if p.head % 2 ^ p.n = tail % 2 ^ p.n then s
    else
      let e := s.hostMem.read (p.sub + 64 * (p.head % 2 ^ p.n)) 64
      let s := { s with qpairs := s.qpairs.set q { p with head := p.head + 1 } }
      State.acceptRing k (s.accept q e) q tail

def execDoorbell (q : Fin 64) (tail : BitVec 16) (s : State) : Out :=
  .next (s.acceptRing (2 ^ (s.qpairs[q]).n) q tail.toNat)

/-! ## Completions and events (18 R385, R391) -/

/-- The 32 bytes of a completion record. -/
def recordBytes (tag : BitVec 32) (status reason failed cycles : Nat) : List Byte :=
  leBytes 4 tag.toNat ++ leBytes 1 status ++ leBytes 1 reason ++ leBytes 2 0 ++ leBytes 8 failed ++ leBytes 8 cycles ++ leBytes 8 0

/-- The record of the pair's oldest submission is written once it is ready and the ring has room. While the ring is full the host may
have freed entries (log entry 27). -/
def execCompletionRecord (q : Fin 64) (s : State) : Out :=
  let p := s.qpairs[q]
  match p.pending with
  | [] => .next s
  | x :: rest => match x.done with
    | none => .next s
    | some (status, reason, failed, cycles) =>
      if p.cplFree = 0 then
        let (k, s) := s.pick (2 ^ p.n + 1)
        .next { s with qpairs := s.qpairs.set q { p with cplFree := k } }
      else
        let s := s.hostWrite (p.cpl + 32 * (p.cplTail % 2 ^ p.n)) (recordBytes x.tag status reason failed cycles)
        .next { s with qpairs := s.qpairs.set q { p with cplTail := p.cplTail + 1, cplFree := p.cplFree - 1, pending := rest } }

/-- Buffered events of a die move to the queue as it gains room, with their counts; what its units hold follows into the buffer. The
room the host has made is open (log entry 27). -/
def execEventBufferDrain (die : DieId) (s : State) : Out :=
  let (k, s) := if s.eventRoom = 0 then s.pick 65536 else (s.eventRoom, s)
  let b := s.dieBuf[die]
  let n := min k b.length
  let (b', h') := drainHeld (b.drop n) [] s.dieHeld[die]
  .next (State.queueEvents { s with eventRoom := k, dieBuf := s.dieBuf.set die b', dieHeld := s.dieHeld.set die h' } (b.take n))

/-! ## Jormal (18 R383, 12 R250; log entry 54) -/

/-- Held frames that have become next are delivered in order. -/
def Jormal.release : Nat → Jormal → Jormal
  | 0, j => j
  | n + 1, j =>
    match j.held.find? fun h => h.1 == j.expect with
    | none => j
    | some (q, d) =>
      Jormal.release n { j with
        expect := j.expect + 1, held := j.held.filter fun h => h.1 != q, gaps := j.gaps.filter fun g => g.1 != q
        toNak := j.toNak.filter (· != q), delivered := j.delivered ++ [d] }

/-- A good frame: delivered in order, held behind a gap of at most 1,024 frames with a NAK for each missing number, or discarded as known. -/
def Jormal.data (j : Jormal) (cycle : Nat) (seq : Fin 4096) (d : List Byte) : Jormal :=
  let n := (seq - j.expect).val
  if 1024 ≤ n ∨ j.held.any (fun h => h.1 == seq) then j
  else
    let missing := (seqRange j.expect n).filter fun q => !(j.held.any fun h => h.1 == q) && !(j.gaps.any fun g => g.1 == q)
    Jormal.release (j.held.length + 1) { j with
      held := j.held ++ [(seq, d)], gaps := (j.gaps.filter fun g => g.1 != seq) ++ missing.map fun q => (q, cycle)
      toNak := j.toNak.filter (· != seq) ++ missing }

/-- The acknowledgement of a host's frame frees the replay buffer up to it. -/
def Jormal.acked (j : Jormal) (n : Fin 4096) : Jormal :=
  { j with
    unacked := j.unacked.filter fun f => !decide ((n - f.1 - 1).val < 2048), resend := j.resend.filter fun q => !decide ((n - q - 1).val < 2048) }

/-- A NAK of a frame that is still in the replay buffer asks for it again. -/
def Jormal.naked (j : Jormal) (n : Fin 4096) : Jormal :=
  if (j.unacked.any fun f => f.1 == n) ∧ n ∉ j.resend then { j with resend := j.resend ++ [n] } else j

/-- A gap still standing 2,048 frame times after its NAK is NAKed again: a frame of 256 bytes takes two nanoseconds. -/
def Jormal.renak (j : Jormal) (cycle clock : Nat) : Jormal :=
  let due (g : Fin 4096 × Nat) : Bool := decide (4096 * clock ≤ 1000 * (cycle - g.2))
  { j with
    toNak := j.toNak ++ ((j.gaps.filter due).map (·.1)).filter (· ∉ j.toNak), gaps := j.gaps.map fun g => if due g then (g.1, cycle) else g }

/-- A new frame, kept in the replay buffer. -/
def Jormal.put (j : Jormal) (nak : Option (Fin 4096)) (w : HostWrite) : Jormal :=
  { j with seq := j.seq + 1, unacked := j.unacked ++ [(j.seq, w)], waiting := j.waiting.tail, line := some ⟨j.seq, j.expect, nak, some w⟩ }

/-- The frame the device sends next: a NAKed one again, a new one while fewer than 1,024 are unacknowledged, else an idle one. -/
def Jormal.send (j : Jormal) (old : Bool) : Jormal :=
  let nak := j.toNak.head?
  let j := { j with toNak := j.toNak.tail }
  let new := if j.unacked.length < 1024 then j.waiting.head? else none
  match j.resend, j.resend.head?.bind fun n => j.unacked.find? fun f => f.1 == n with
  | _ :: r, some f => match new with
    | some w => if old then { j with resend := r, line := some ⟨f.1, j.expect, nak, some f.2⟩ } else j.put nak w
    | none => { j with resend := r, line := some ⟨f.1, j.expect, nak, some f.2⟩ }
  | _, _ => match new with
    | some w => j.put nak w
    | none => { j with line := some ⟨j.seq, j.expect, nak, none⟩ }

/-- Every two nanoseconds the device sends a frame; which of a NAKed and a new one goes first is open. -/
def State.sendFrame (s : State) : State :=
  if (s.cycle + 1) * 500 / s.clock = s.cycle * 500 / s.clock then s
  else
    let j := s.jormal.renak s.cycle s.clock
    let (k, s) := if j.resend.isEmpty ∨ j.waiting.isEmpty then (1, s) else s.pick 2
    { s with jormal := j.send (k == 1) }

/-- A frame from the host. One that fails its check, or has not its 256 bytes, is discarded, and is asked for by a NAK once a later one shows it
missing. A good one is taken with its acknowledgement and NAK; a frame without data is no data frame. -/
def execJormalFrame (seq : Nat) (data : List Byte) (good : Bool) (s : State) : Out :=
  if !good ∨ data.length ≠ 256 then .next s
  else
    let (ack, nak, idle) := Config.jormalHeader data
    let j := s.jormal.acked ack
    let j := match nak with | some n => j.naked n | none => j
    .next { s with jormal := if idle then j else j.data s.cycle (Fin.ofNat 4096 seq) data }

/-! ## Firmware and identity (18 R388, R389) -/

/-- An image is accepted when both signatures verify its digest and its version is not below the fuses (log entry 28). -/
def execFirmwareImage (body : List Byte) (version : Nat) (ecdsa lms : List Byte) (s : State) : Out :=
  let d := sha384 body
  if ecdsaOk Config.imageEcdsa d ecdsa && lmsOk Config.imageLms d lms && decide (s.firmware.fuse ≤ version) then
    .next { s with firmware := { s.firmware with images := [BitVec.ofNat 384 (beNat d)], fuse := version } }
  else .next s

/-- The settings of R386 and R387 as a report holds them (log entry 28). -/
def State.settingBytes (s : State) : List Byte :=
  let c := s.settings
  let m := s.modes
  (([c.ilv, c.tilePool, c.waiterOvf, c.versionOvf, c.suspect, c.agree, c.isolate, c.staging, c.barchanAge, c.barchanDlk] ++
    c.watchdog.toList ++ c.noccfg.toList.map (·.toNat)).map (leBytes 8)).flatten ++
    [m.pageCommit, m.tableSpill, m.viewAgree, m.splitters, m.fpException, m.errDrain].map fun b => if b then 1 else 0

/-- The device's LMS identity key. -/
def deviceLms : LmsKey := ⟨Config.deviceLms.1, Config.deviceLms.2⟩

/-- The report on a nonce, its digest signed with the device identity key under both schemes. The ECDSA number and the LMS randomizer are the
device's to choose; each report takes the next leaf of the LMS key, which has 2^20 (log entry 28). -/
def execAttestationReport (nonce : BitVec 256) (s : State) : Out :=
  let f := s.firmware
  let body := f.part ++ f.serial ++ (f.images.map fun d => beBytes 48 d.toNat).flatten ++ s.settingBytes ++ leBytes 32 nonce.toNat
  if 2 ^ 20 ≤ f.leaf then .next s
  else
    let (k, s) := s.pick (p384N - 1)
    let (c, s) := s.pick (2 ^ 256)
    let d := sha384 body
    .next { s with firmware := { f with
      report := some (body, ecdsaSign Config.deviceEcdsa (k + 1) d, deviceLms.sign f.leaf (beBytes 32 c) d), leaf := f.leaf + 1 } }

/-- A report is valid only when both signatures verify under the device's public keys (18 R389). -/
def reportValid (r : List Byte × List Byte × List Byte) : Bool :=
  ecdsaOk (ecdsaPublic Config.deviceEcdsa) (sha384 r.1) r.2.1 && lmsOk deviceLms.public (sha384 r.1) r.2.2

/-! ## Module reset (18 R387; log entry 29) -/

/-- A queue pair after module reset: the rings are the host's, and start again. -/
def QueuePair.restart (q : QueuePair) : QueuePair := ⟨q.n, q.sub, q.cpl, 0, 0, 2 ^ q.n, []⟩

/-- The switches with the group tables system software has filled: switch, group, outputs (12 R253, log entry 47). -/
def groupTables (l : List (Nat × Nat × List Nat)) : List (Nat × Switch) :=
  l.foldl (fun (t : List (Nat × Switch)) x =>
    let sw := assocD t x.1 .reset
    assocSet t x.1 { sw with groups := assocSet sw.groups x.2.1 x.2.2 }) []

/-- The settings the running firmware fixes at module reset, in their ranges; without an image, or with a setting out of range, all take
their reset values (18 R387, 06 R133, log entry 29). -/
def State.fixedSettings (s : State) : Settings :=
  match s.firmware.images with
  | [] => .reset
  | d :: _ => if (Config.firmwareSettings d).ok = true then (Config.firmwareSettings d).plain else .reset

/-- Module reset: firmware fixes the settings (18 R387); the rest of the module's own state takes its reset values; the number of the module
and of its domain, HBM4, the host's memory and queues and the fuses with the images are not its to clear (log entry 29). -/
def execModuleReset (s : State) : Out :=
  .next { State.reset with
    settings := s.fixedSettings
    modId := s.modId, domainMax := s.domainMax, mem := s.mem, poison := s.poison, hostMem := s.hostMem
    qpairs := mapV QueuePair.restart s.qpairs, events := s.events, eventRoom := s.eventRoom, firmware := s.firmware
    switches := groupTables s.fixedSettings.groups
    celsius := s.celsius, nextLaunch := s.nextLaunch, nextDid := s.nextDid, fresh := s.fresh }

end Sys2Proof.Machine
end

