-- ==== Sys2Proof/Machine/Park.lean ====
section
/-! DEFINITION. What ends a slot's park, and what its instruction then does (15 R313, R330). -/

namespace Sys2Proof.Machine

/-- The slot completes the instruction it parked in. -/
def State.finish (s : State) (w : Who) (f : Slot → Slot) : State := s.modSlot w fun sl => (f sl.unpark).next

/-- The slot waits for the walks of its access (04 R76). -/
def Wait.isWalk : Wait → Bool
  | .again (.walk _ _ _ _) => true
  | _ => false

/-- The slot issues its instruction again from the start, in its next issue (15 R313): with the walks it waited for, but with no
others, so that a page committed meanwhile is found (04 R84). -/
def State.reissue (s : State) (w : Who) : State :=
  (s.modSlot w fun sl => { sl.unpark with walks := if sl.wait.isWalk then sl.walks else [] }).soon (.issue w)

/-- The answer was a trap of the parked instruction. -/
def State.parkTrap (s : State) (w : Who) (cls sub : Nat) (tval : Word) : State := s.trapAt w cls sub tval (s.slot w).pc

/-! ## Waits that end in a new issue -/

/-- Operations of a context not complete (02 R33). -/
def Slot.openOps (sl : Slot) : TlName → Nat
  | .c => sl.cctx.outstanding
  | .m => sl.mctx.outstanding
  | .x => sl.xctx.outstanding
  | .t => sl.tctx.outstanding

/-- A register in stream mode no longer makes an instruction wait (07 R165). -/
def Slot.streamOpen (sl : Slot) (v : Fin 4) : Bool :=
  match sl.streams[v] with
  | none => true
  | some st => decide (st.total ≤ st.pos) || (if st.wr then decide (st.buf.length < 4) else !st.buf.isEmpty)

/-- The condition holds under which the parked instruction issues again. -/
def State.againMet (s : State) (w : Who) (c : Again) : Bool :=
  let sl := s.slot w
  let k := s.core w.core
  match c with
  | .walk va n _ _ => (pagesOf va.toNat n).all fun p => sl.walks.any fun r => r.1 == p
  | .page _ ps _ => s.uncommitted w ps != ps
  | .release => !sl.releasing
  | .stores ids => sl.storeQ.all fun e => decide (e.id ∉ ids)
  | .queue => decide (sl.storeQ.length < 16)
  | .carry => !s.carried sl
  | .clean => sl.storeQ.isEmpty && sl.outst.isEmpty && sl.incs.isEmpty && !s.carried sl
  | .engine t => decide (sl.openOps t < 8)
  | .remoteQ => !s.remoteFull w
  | .writes ids => sl.outst.all fun o => decide (o.id ∉ ids)
  | .tasks p => k.queueRoom p
  | .gates => decide (k.gates.length < 64)
  | .inbound => decide (k.inbound.length < 16)
  | .stream v => sl.streamOpen v
  | .block b len q => (k.blockWords b len).isSome && (match q with
    | some i => !k.bufBusy i
    | none => true)

/-! ## Operations after the slot's stores (04 R91-R97, 06 R143, 16 R352, 17 R380) -/

/-- The resume request of a slot stands first in its core's queue. -/
def State.resumeFirst (s : State) (w : Who) : Bool :=
  match (s.core w.core).spillQ with
  | r :: _ => r.resume && decide (r.asker = some w)
  | [] => false

/-- The operation may be performed. A `wback` waits for every store its slot has queued, against which 04 R97 gives it no order: the model's
choice (log entry 43). -/
def State.sysReady (s : State) (w : Who) (op : SysOp) : Bool :=
  let clean := s.clean w
  match op with
  | .commit _ _ _ => clean
  | .decommit _ _ fl => s.landed fl
  | .palloc _ _ => true
  | .pfree _ _ => clean
  | .tlbinv fl => s.landed fl
  | .wback _ _ => clean
  | .cmstore _ ls sc =>
    (if sc = .slot then (s.slot w).storeQ.all fun e => e.parts.all fun p => ls.all fun l => decide (s.home p.pa ≠ s.home l.line)
      else if sc = .fabric then s.released (s.holdOf w) else clean) &&
      !(s.slot w).releasing && ls.all fun l => s.way (some w.core.stack) l.line != .held
  | .unspill _ _ _ => clean && s.resumeFirst w
  | .join _ _ => clean

/-- A frame from the pool a number names; 7 is the local pool of the stack (04 R94). -/
def State.allocFrame (s : State) (st : Fin 6) (pool : Fin 8) : Word × State :=
  let p : Fin 7 := if h : pool.val < 7 then ⟨pool.val, h⟩ else Fin.castLE (by omega) st
  match s.takeFrame p with
  | some (f, s) => (BitVec.ofNat 64 f, s)
  | none => (0, s)

/-- A `cmstore`'s reply (06 R143); one whose way is lost traps (06 R139; log entry 45). -/
def State.finishCm (s : State) (w : Who) (d : SReg) (ls : List CmLine) : State :=
  if ls.any fun l => s.way (some w.core.stack) l.line == .lost then s.parkTrap w 9 3 0 else
  let (code, s) := s.cmPerform w ls
  let g : BitVec 49 := match ls with
    | l :: _ => 1#49 <<< (s.group l.line).val
    | [] => 0
  s.finish w fun sl => { sl with resv := [], tbm := if code = 0 then sl.tbm ||| g else sl.tbm }.ws d (BitVec.ofNat 64 code)

/-- The operation performed, and its slot's instruction completed. -/
def State.sysPerform (s : State) (w : Who) (op : SysOp) : State :=
  let put (d : SReg) (r : Nat × State) : State := r.2.finish w fun sl => sl.ws d (BitVec.ofNat 64 r.1)
  match op with
  | .commit d va frame =>
    let (code, t) := s.commitPage (s.rootOf w) va frame w.core.stack
    put d (code, if code = 0 then t.roFresh w.core s.mem else t)
  | .decommit d frame _ => put d (frame, if frame = 0 then s else (s.dropFrame frame).roFresh w.core s.mem)
  | .palloc d p =>
    let (x, s) := s.allocFrame w.core.stack p
    s.finish w fun sl => sl.ws d x
  | .pfree d f => put d (s.freeFrame f)
  | .tlbinv _ => s.finish w id
  | .wback lo n => (s.writeBack lo n).finish w id
  | .cmstore d ls _ => s.finishCm w d ls
  | .unspill d a area => let r := s.resume w ⟨w.core, Fin.ofNat 16 a.toNat⟩ area s.rot; put d (r.1, r.2.endRequest w.core)
  | .join d a => { stateOf s (localJoin { s.modSlot w Slot.unpark with cur := w } d a) with cur := s.cur }

/-! ## Answers -/

/-- What a global or remote access writes when its bytes are there (04 R86, R88, 12 R256). -/
def Slot.takeData (sl : Slot) (op : GOp) (bs : List Byte) : Slot :=
  match op with
  | .ld d _ sg _ _ => sl.wLoad d sg bs
  | .amo _ d _ _ _ => sl.ws d (BitVec.ofNat 64 (leNat bs))
  | .cas d _ _ _ _ => sl.ws d (BitVec.ofNat 64 (leNat bs))

/-- A remote atomic that returns a value acquires at fabric scope (14 R297). -/
def GOp.acquires : GOp → Bool
  | .ld _ _ _ _ _ => false
  | _ => true

/-- A global or remote access answered. -/
def State.dataMet (s : State) (w : Who) (op : GOp) (far : Bool) : Option State :=
  match (s.slot w).reply with
  | some (.data bs) => some ((if far && op.acquires then s.acquire w.core .fabric else s).finish w fun sl => sl.takeData op bs)
  | some (.trap c e v) => some (s.parkTrap w c e v)
  | _ => none

/-- A tile request answered (05 R116-R123); a withdrawn one traps on its timeout, and issues again where what asked for its withdrawal is
gone (05 R117, R125). -/
def State.tileMet (s : State) (w : Who) (k : TileWait) (name : Word) : Option State :=
  match (s.slot w).reply with
  | some (.val x) => some (match k with
    | .new d => s.finish w fun sl => sl.ws d x
    | .store _ _ _ => s.finish w id
    | .load d _ _ _ _ _ =>
      (s.acquire w.core (if tileMod name = s.modId then .mdl else .fabric)).finish w fun sl => sl.ws d x
    | .read d => s.finish w fun sl => sl.ws d x
    | .change d => s.finish w fun sl => sl.ws d x)
  | some (.trap c e v) => some (s.parkTrap w c e v)
  | some .ok => some (if (s.slot w).cancel = 1 then s.parkTrap w 5 3 name else s.reissue w)
  | _ => none

/-- A fence whose echoes are back, at fabric scope with its writes acknowledged (04 R90). Increments of the slot's own core and the stores
its start carries are performed before it too (14 R297, R299). -/
def State.fenceMet (s : State) (w : Who) (sc : Scope) : Option State :=
  let sl := s.slot w
  if !sl.incs.isEmpty || s.carried sl then none
  else if sc ≠ .fabric then some ((s.acquire w.core sc).finish w fun sl => { sl with tbm := sl.tbm &&& (1#49 <<< 48) })
  else if !sl.outst.isEmpty then none
  else
    let (clear, s) := s.errClear w
    if clear then some ((s.acquire w.core sc).finish w fun sl => { sl with tbm := 0 })
    else
      let (x, s) := s.freeWord
      some (s.parkTrap w 4 8 x)

/-- A timeline that has reached its number (07 R169, 11 R241). -/
def State.timelineMet (s : State) (w : Who) (t : TlName) (n : Word) (k : TlWait) : Option State :=
  if ((s.slot w).tlVal t).ult n then none
  else
    let s := s.acquire w.core (tlScope t)
    some (match k with
      | .mwait d => s.finish w fun sl => sl.ws d (sl.mctx.statusOf n)
      | .synced => s.modSlot w Slot.unpark
      | _ => s.finish w id)

/-- Words for a fetch are there, or the fetch ends in a fault (02 R27, 15 R320). -/
def State.fetchMet (s : State) (w : Who) (pc : Word) : Option State :=
  let sl := s.slot w
  match sl.reply with
  | some (.trap c e v) => some (s.parkTrap w c e v)
  | some _ => some (s.modSlot w Slot.unpark)
  | none => if (s.core w.core).icache.any fun x => decide (x.1 = pc) then some (s.modSlot w Slot.unpark) else none

/-- The answer to a floating-point exception (17 R374); in a handler the pc of a double trap is that of the instruction that raised it
(17 R362). -/
def State.fpMet (s : State) (w : Who) (raised : BitVec 5) (pc : Word) : Option State :=
  match (s.slot w).reply with
  | some (.fp false) => some (s.modSlot w Slot.unpark)
  | some (.fp true) => some ((s.modSlot w fun sl => { sl with pc := pc }).trapAt w 0xE raised.toNat pc (s.slot w).epc)
  | _ => none

/-- A barrier whose generation has moved on lets the slots that arrived go (16 R357). -/
def State.barrierMet (s : State) (w : Who) (i : Fin 16) (gen : BitVec 32) : Option State :=
  if (s.barrier w i).gen = gen then none else some ((s.acquire w.core .cluster).modSlot w Slot.unpark)

/-- A task for a parked `tqpop` (16 R353). -/
def State.popMet (s : State) (w : Who) (mask : BitVec 4) (d : SReg) (addr : Nat) : Option State :=
  match (s.core w.core).bottom (popMask mask) with
  | some (p, q) => some ((s.popTask w d addr p q).finish w id)
  | none => none

/-- The state in which a parked slot has returned to rotation, where its reason is met. -/
def State.unparked (s : State) (w : Who) : Option State :=
  let sl := s.slot w
  if sl.state = .spilled then none
  else match sl.wait with
  | .again c => match sl.reply with
    | some (.trap c e v) => some (s.parkTrap w c e v)
    | _ => if s.againMet w c then some (s.reissue w) else none
  | .glob r => s.dataMet w r.op false
  | .sys op => match sl.reply with
    | some (.trap c e v) => some (s.parkTrap w c e v)
    | _ => if s.sysReady w op then some (s.sysPerform w op) else none
  | .fence sc un pr => if un.isEmpty && pr.isEmpty then s.fenceMet w sc else none
  | .tile k name => s.tileMet w k name
  | .timeline t n k => s.timelineMet w t n k
  | .mailbox i n => if mbReached (s.core w.core).mb[i] n then some ((s.acquire w.core .mdl).finish w id) else none
  | .remote _ k => s.dataMet w k true
  | .rjoin _ d _ => match sl.reply with
    | some (.val x) => some (s.finish w fun sl => sl.ws d x)
    | some (.trap c e v) => some (s.parkTrap w c e v)
    | _ => none
  | .view part d i => let x := s.viewPart (s.jobOf w) part i; some (s.finish w fun sl => sl.ws d x)
  | .fpEx raised pc => s.fpMet w raised pc
  | .bcast m _ _ => match sl.reply with
    | some (.trap c e v) => some ((s.unreserve w.core m).parkTrap w c e v)
    | _ => none
  | .slotWait m d =>
    if (s.core w.core).busyMask m = 0 then
      let x := (s.core w.core).poolMask
      some (s.finish w fun sl => sl.ws d x)
    else none
  | .fetch pc => s.fetchMet w pc
  | .barRel arr d i => if s.clean w then some (s.barArrive w arr d i) else none
  | .barrier i g => s.barrierMet w i g
  | .tqpop mask d addr => s.popMet w mask d addr
  | .sleep _ seen d => if seen = 0 then none else some (s.finish w fun sl => sl.ws d (seen.setWidth 64))
  | .none => none
  | .tag _ _ _ => none
  | .tagged u => if u < s.cycle then some (s.modSlot w Slot.unpark) else none
  | .pause _ => none
  | .exit => none
  | .roam => none

def execParkReasonMet (w : Who) (s : State) : Out := .next ((s.unparked w).getD s)

end Sys2Proof.Machine
end

