-- ==== Sys2Proof/Machine/Dispatch.lean ====
section
/-! DEFINITION. The meaning of each instruction, one arm each. -/

namespace Sys2Proof.Machine

def exec (i : Instr) (s : State) : Host.Outcome State Fault Refusal :=
  match i with
  | .add h d a b => Sys2Proof.Machine.execAdd h d a b s
  | .sub h d a b => Sys2Proof.Machine.execSub h d a b s
  | .mul h d a b => Sys2Proof.Machine.execMul h d a b s
  | .mulh h d a b => Sys2Proof.Machine.execMulh h d a b s
  | .umulh h d a b => Sys2Proof.Machine.execUmulh h d a b s
  | .div h d a b => Sys2Proof.Machine.execDiv h d a b s
  | .udiv h d a b => Sys2Proof.Machine.execUdiv h d a b s
  | .rem h d a b => Sys2Proof.Machine.execRem h d a b s
  | .urem h d a b => Sys2Proof.Machine.execUrem h d a b s
  | .min h d a b => Sys2Proof.Machine.execMin h d a b s
  | .max h d a b => Sys2Proof.Machine.execMax h d a b s
  | .umin h d a b => Sys2Proof.Machine.execUmin h d a b s
  | .umax h d a b => Sys2Proof.Machine.execUmax h d a b s
  | .madd h d a b c => Sys2Proof.Machine.execMadd h d a b c s
  | .msub h d a b c => Sys2Proof.Machine.execMsub h d a b c s
  | .and h d a b => Sys2Proof.Machine.execAnd h d a b s
  | .or h d a b => Sys2Proof.Machine.execOr h d a b s
  | .xor h d a b => Sys2Proof.Machine.execXor h d a b s
  | .andn h d a b => Sys2Proof.Machine.execAndn h d a b s
  | .orn h d a b => Sys2Proof.Machine.execOrn h d a b s
  | .shl h d a b => Sys2Proof.Machine.execShl h d a b s
  | .shr h d a b => Sys2Proof.Machine.execShr h d a b s
  | .sra h d a b => Sys2Proof.Machine.execSra h d a b s
  | .rol h d a b => Sys2Proof.Machine.execRol h d a b s
  | .ror h d a b => Sys2Proof.Machine.execRor h d a b s
  | .clz h d a => Sys2Proof.Machine.execClz h d a s
  | .ctz h d a => Sys2Proof.Machine.execCtz h d a s
  | .popc h d a => Sys2Proof.Machine.execPopc h d a s
  | .bswap h d a => Sys2Proof.Machine.execBswap h d a s
  | .sel h d a b c => Sys2Proof.Machine.execSel h d a b c s
  | .cmp h c d a b => Sys2Proof.Machine.execCmp h c d a b s
  | .addi h d a imm => Sys2Proof.Machine.execAddi h d a imm s
  | .andi h d a imm => Sys2Proof.Machine.execAndi h d a imm s
  | .ori h d a imm => Sys2Proof.Machine.execOri h d a imm s
  | .xori h d a imm => Sys2Proof.Machine.execXori h d a imm s
  | .shli h d a n => Sys2Proof.Machine.execShli h d a n s
  | .shri h d a n => Sys2Proof.Machine.execShri h d a n s
  | .srai h d a n => Sys2Proof.Machine.execSrai h d a n s
  | .li h d imm => Sys2Proof.Machine.execLi h d imm s
  | .lih h d a imm => Sys2Proof.Machine.execLih h d a imm s
  | .lea h d a b sh disp => Sys2Proof.Machine.execLea h d a b sh disp s
  | .cmpi h c d a imm => Sys2Proof.Machine.execCmpi h c d a imm s
  | .ext h sg d a pos len1 => Sys2Proof.Machine.execExt h sg d a pos len1 s
  | .ins h d a pos len1 => Sys2Proof.Machine.execIns h d a pos len1 s
  | .pand h d a b => Sys2Proof.Machine.execPand h d a b s
  | .por h d a b => Sys2Proof.Machine.execPor h d a b s
  | .pxor h d a b => Sys2Proof.Machine.execPxor h d a b s
  | .pandn h d a b => Sys2Proof.Machine.execPandn h d a b s
  | .psetb h d a bit => Sys2Proof.Machine.execPsetb h d a bit s
  | .psetbAll h a => Sys2Proof.Machine.execPsetbAll h a s
  | .pgetb h d a => Sys2Proof.Machine.execPgetb h d a s
  | .pgetbAll h d => Sys2Proof.Machine.execPgetbAll h d s
  | .fadd h t rm d a b => Sys2Proof.Machine.execFadd h t rm d a b s
  | .fsub h t rm d a b => Sys2Proof.Machine.execFsub h t rm d a b s
  | .fmul h t rm d a b => Sys2Proof.Machine.execFmul h t rm d a b s
  | .fdiv h t rm d a b => Sys2Proof.Machine.execFdiv h t rm d a b s
  | .fsqrt h t rm d a => Sys2Proof.Machine.execFsqrt h t rm d a s
  | .fmin h t d a b => Sys2Proof.Machine.execFmin h t d a b s
  | .fmax h t d a b => Sys2Proof.Machine.execFmax h t d a b s
  | .ffma h t rm d a b c => Sys2Proof.Machine.execFfma h t rm d a b c s
  | .ffms h t rm d a b c => Sys2Proof.Machine.execFfms h t rm d a b c s
  | .fnma h t rm d a b c => Sys2Proof.Machine.execFnma h t rm d a b c s
  | .fabs h t d a => Sys2Proof.Machine.execFabs h t d a s
  | .fneg h t d a => Sys2Proof.Machine.execFneg h t d a s
  | .fsgnj h t m d a b => Sys2Proof.Machine.execFsgnj h t m d a b s
  | .fcmp h t c d a b => Sys2Proof.Machine.execFcmp h t c d a b s
  | .fclass h t d a => Sys2Proof.Machine.execFclass h t d a s
  | .fsel h d a b c => Sys2Proof.Machine.execFsel h d a b c s
  | .fcvt h dst src rm d a => Sys2Proof.Machine.execFcvt h dst src rm d a s
  | .fcvti h src dst rm d a => Sys2Proof.Machine.execFcvti h src dst rm d a s
  | .ficvt h dst nat rm d a => Sys2Proof.Machine.execFicvt h dst nat rm d a s
  | .fmvs h d a => Sys2Proof.Machine.execFmvs h d a s
  | .fmvf h d a => Sys2Proof.Machine.execFmvf h d a s
  | .fliFp32 h d imm => Sys2Proof.Machine.execFliFp32 h d imm s
  | .fliFp64 h d imm => Sys2Proof.Machine.execFliFp64 h d imm s
  | .fflg h d a => Sys2Proof.Machine.execFflg h d a s
  | .fenw h d a => Sys2Proof.Machine.execFenw h d a s
  | .ldl h d a m => Sys2Proof.Machine.execLdl h d a m s
  | .stl h b a m => Sys2Proof.Machine.execStl h b a m s
  | .ldlv h d a m => Sys2Proof.Machine.execLdlv h d a m s
  | .stlv h b a m => Sys2Proof.Machine.execStlv h b a m s
  | .ldlp h d a m => Sys2Proof.Machine.execLdlp h d a m s
  | .ldf h d a m => Sys2Proof.Machine.execLdf h d a m s
  | .ldfe h d a m => Sys2Proof.Machine.execLdfe h d a m s
  | .stwe h b a m => Sys2Proof.Machine.execStwe h b a m s
  | .sete h a m => Sys2Proof.Machine.execSete h a m s
  | .setf h a m => Sys2Proof.Machine.execSetf h a m s
  | .tagrd h d a m => Sys2Proof.Machine.execTagrd h d a m s
  | .lamo h op d a b m => Sys2Proof.Machine.execLamo h op d a b m s
  | .lamox h op a b m => Sys2Proof.Machine.execLamox h op a b m s
  | .lamocas h d a b m => Sys2Proof.Machine.execLamocas h d a b m s
  | .ldg h d a m => Sys2Proof.Machine.execLdg h d a m s
  | .stg h b a m => Sys2Proof.Machine.execStg h b a m s
  | .ldgv h d a m => Sys2Proof.Machine.execLdgv h d a m s
  | .stgv h b a m => Sys2Proof.Machine.execStgv h b a m s
  | .amo h op d a b m => Sys2Proof.Machine.execAmo h op d a b m s
  | .amox h op a b m => Sys2Proof.Machine.execAmox h op a b m s
  | .amocas h d a b m => Sys2Proof.Machine.execAmocas h d a b m s
  | .pref h ro a off => Sys2Proof.Machine.execPref h ro a off s
  | .fence h sc => Sys2Proof.Machine.execFence h sc s
  | .ldres h d a m => Sys2Proof.Machine.execLdres h d a m s
  | .cmstore h sc d a b off => Sys2Proof.Machine.execCmstore h sc d a b off s
  | .commit h d a b off => Sys2Proof.Machine.execCommit h d a b off s
  | .decommit h d a off => Sys2Proof.Machine.execDecommit h d a off s
  | .palloc h d a => Sys2Proof.Machine.execPalloc h d a s
  | .pfree h d a => Sys2Proof.Machine.execPfree h d a s
  | .xlat h d a off => Sys2Proof.Machine.execXlat h d a off s
  | .tlbinv h all mdl a off => Sys2Proof.Machine.execTlbinv h all mdl a off s
  | .wback h page a off => Sys2Proof.Machine.execWback h page a off s
  | .tnew h d a t => Sys2Proof.Machine.execTnew h d a t s
  | .tstore h a t => Sys2Proof.Machine.execTstore h a t s
  | .tload h d a t => Sys2Proof.Machine.execTload h d a t s
  | .tloadt h d a t => Sys2Proof.Machine.execTloadt h d a t s
  | .tpoll h d a b imm => Sys2Proof.Machine.execTpoll h d a b imm s
  | .tdrop h d a b imm j => Sys2Proof.Machine.execTdrop h d a b imm j s
  | .tref h d a b imm j => Sys2Proof.Machine.execTref h d a b imm j s
  | .tinfo h d a => Sys2Proof.Machine.execTinfo h d a s
  | .tfloor h d a b imm => Sys2Proof.Machine.execTfloor h d a b imm s
  | .tlimit h d a n => Sys2Proof.Machine.execTlimit h d a n s
  | .tdel h d a => Sys2Proof.Machine.execTdel h d a s
  | .cpy h sync d a b => Sys2Proof.Machine.execCpy h sync d a b s
  | .cpyt h sync d a b => Sys2Proof.Machine.execCpyt h sync d a b s
  | .cpyf h mode sync d a b => Sys2Proof.Machine.execCpyf h mode sync d a b s
  | .qdual h sync d a b => Sys2Proof.Machine.execQdual h sync d a b s
  | .bfmt h d a b => Sys2Proof.Machine.execBfmt h d a b s
  | .bfmtr h d a => Sys2Proof.Machine.execBfmtr h d a s
  | .bload h sp t sc sync d a b => Sys2Proof.Machine.execBload h sp t sc sync d a b s
  | .sstream h v wr gl sync d a b => Sys2Proof.Machine.execSstream h v wr gl sync d a b s
  | .sstop h v => Sys2Proof.Machine.execSstop h v s
  | .spos h d v => Sys2Proof.Machine.execSpos h d v s
  | .tlwait h t b => Sys2Proof.Machine.execTlwait h t b s
  | .tlwaitAbort h t b => Sys2Proof.Machine.execTlwaitAbort h t b s
  | .tlrd h f d t => Sys2Proof.Machine.execTlrd h f d t s
  | .vfadd h m d a b => Sys2Proof.Machine.execVfadd h m d a b s
  | .vfsub h m d a b => Sys2Proof.Machine.execVfsub h m d a b s
  | .vfmul h m d a b => Sys2Proof.Machine.execVfmul h m d a b s
  | .vfdiv h m d a b => Sys2Proof.Machine.execVfdiv h m d a b s
  | .vfma h m d a b c => Sys2Proof.Machine.execVfma h m d a b c s
  | .vfms h m d a b c => Sys2Proof.Machine.execVfms h m d a b c s
  | .vfnma h m d a b c => Sys2Proof.Machine.execVfnma h m d a b c s
  | .vfmin h m d a b => Sys2Proof.Machine.execVfmin h m d a b s
  | .vfmax h m d a b => Sys2Proof.Machine.execVfmax h m d a b s
  | .vfabs h m d a => Sys2Proof.Machine.execVfabs h m d a s
  | .vfneg h m d a => Sys2Proof.Machine.execVfneg h m d a s
  | .vfsqrt h m d a => Sys2Proof.Machine.execVfsqrt h m d a s
  | .vexp2 h m d a => Sys2Proof.Machine.execVexp2 h m d a s
  | .vlog2 h m d a => Sys2Proof.Machine.execVlog2 h m d a s
  | .vrcp h m d a => Sys2Proof.Machine.execVrcp h m d a s
  | .vrsq h m d a => Sys2Proof.Machine.execVrsq h m d a s
  | .vadd h m d a b => Sys2Proof.Machine.execVadd h m d a b s
  | .vsub h m d a b => Sys2Proof.Machine.execVsub h m d a b s
  | .vmul h m d a b => Sys2Proof.Machine.execVmul h m d a b s
  | .vmulh h u m d a b => Sys2Proof.Machine.execVmulh h u m d a b s
  | .vmin h u m d a b => Sys2Proof.Machine.execVmin h u m d a b s
  | .vmax h u m d a b => Sys2Proof.Machine.execVmax h u m d a b s
  | .vand h m d a b => Sys2Proof.Machine.execVand h m d a b s
  | .vor h m d a b => Sys2Proof.Machine.execVor h m d a b s
  | .vxor h m d a b => Sys2Proof.Machine.execVxor h m d a b s
  | .vshl h m d a b => Sys2Proof.Machine.execVshl h m d a b s
  | .vshr h m d a b => Sys2Proof.Machine.execVshr h m d a b s
  | .vsra h m d a b => Sys2Proof.Machine.execVsra h m d a b s
  | .vabs h m d a => Sys2Proof.Machine.execVabs h m d a s
  | .vdiv h u m d a b => Sys2Proof.Machine.execVdiv h u m d a b s
  | .vrem h u m d a b => Sys2Proof.Machine.execVrem h u m d a b s
  | .vpopc h m d a => Sys2Proof.Machine.execVpopc h m d a s
  | .vcmp h c m d a b => Sys2Proof.Machine.execVcmp h c m d a b s
  | .vfcmp h c m d a b => Sys2Proof.Machine.execVfcmp h c m d a b s
  | .vsel h t d a b c => Sys2Proof.Machine.execVsel h t d a b c s
  | .vcvt h src m d a p => Sys2Proof.Machine.execVcvt h src m d a p s
  | .vcvts h dst src d a => Sys2Proof.Machine.execVcvts h dst src d a s
  | .vredadd h m d a => Sys2Proof.Machine.execVredadd h m d a s
  | .vredmax h m d a => Sys2Proof.Machine.execVredmax h m d a s
  | .vredmin h m d a => Sys2Proof.Machine.execVredmin h m d a s
  | .vrediadd h m d a => Sys2Proof.Machine.execVrediadd h m d a s
  | .vcompress h t d a b => Sys2Proof.Machine.execVcompress h t d a b s
  | .vexpand h t d a b => Sys2Proof.Machine.execVexpand h t d a b s
  | .vslideup h t d a n => Sys2Proof.Machine.execVslideup h t d a n s
  | .vslidedn h t d a n => Sys2Proof.Machine.execVslidedn h t d a n s
  | .vperm h t d a b => Sys2Proof.Machine.execVperm h t d a b s
  | .vbcastScalar h t d a => Sys2Proof.Machine.execVbcastScalar h t d a s
  | .vbcastLane h t d a n => Sys2Proof.Machine.execVbcastLane h t d a n s
  | .vmovsLane h t sg d a n => Sys2Proof.Machine.execVmovsLane h t sg d a n s
  | .vmovsCnt h t d a => Sys2Proof.Machine.execVmovsCnt h t d a s
  | .vmovsBits h t d a => Sys2Proof.Machine.execVmovsBits h t d a s
  | .vins h t d a n => Sys2Proof.Machine.execVins h t d a n s
  | .vzord h x2 hi d a b c => Sys2Proof.Machine.execVzord h x2 hi d a b c s
  | .vgath h m d a b => Sys2Proof.Machine.execVgath h m d a b s
  | .vscat h m d a b => Sys2Proof.Machine.execVscat h m d a b s
  | .mjob h bank z sync d a b => Sys2Proof.Machine.execMjob h bank z sync d a b s
  | .mma h bank z sync d a b => Sys2Proof.Machine.execMma h bank z sync d a b s
  | .mdrain h m d a b => Sys2Proof.Machine.execMdrain h m d a b s
  | .mwait h d a => Sys2Proof.Machine.execMwait h d a s
  | .mcfg h sync d a => Sys2Proof.Machine.execMcfg h sync d a s
  | .mcfgr h d => Sys2Proof.Machine.execMcfgr h d s
  | .mclr h bank sync d => Sys2Proof.Machine.execMclr h bank sync d s
  | .mabort h sync d => Sys2Proof.Machine.execMabort h sync d s
  | .rld h d a m => Sys2Proof.Machine.execRld h d a m s
  | .rst h b a m => Sys2Proof.Machine.execRst h b a m s
  | .ramo h op d a b m => Sys2Proof.Machine.execRamo h op d a b m s
  | .ramoPosted h op a b m => Sys2Proof.Machine.execRamoPosted h op a b m s
  | .ramocas h d a b m => Sys2Proof.Machine.execRamocas h d a b m s
  | .roam h a => Sys2Proof.Machine.execRoam h a s
  | .home h => Sys2Proof.Machine.execHome h s
  | .eqrd h info d => Sys2Proof.Machine.execEqrd h info d s
  | .eqpop h d => Sys2Proof.Machine.execEqpop h d s
  | .mbincLocal h n b => Sys2Proof.Machine.execMbincLocal h n b s
  | .mbincRemote h a b => Sys2Proof.Machine.execMbincRemote h a b s
  | .mbwait h n b => Sys2Proof.Machine.execMbwait h n b s
  | .mbrd h d n => Sys2Proof.Machine.execMbrd h d n s
  | .barArr h d a => Sys2Proof.Machine.execBarArr h d a s
  | .barSig h d a => Sys2Proof.Machine.execBarSig h d a s
  | .barCfg h d a b => Sys2Proof.Machine.execBarCfg h d a b s
  | .barRd h d a => Sys2Proof.Machine.execBarRd h d a s
  | .coll h sync d a b => Sys2Proof.Machine.execColl h sync d a b s
  | .repart h sync d a => Sys2Proof.Machine.execRepart h sync d a s
  | .viewrd h part d a => Sys2Proof.Machine.execViewrd h part d a s
  | .viewack h d a => Sys2Proof.Machine.execViewack h d a s
  | .br h off => Sys2Proof.Machine.execBr h off s
  | .jal h off => Sys2Proof.Machine.execJal h off s
  | .jr h a => Sys2Proof.Machine.execJr h a s
  | .jalr h a => Sys2Proof.Machine.execJalr h a s
  | .brx h a b => Sys2Proof.Machine.execBrx h a b s
  | .loop h d off => Sys2Proof.Machine.execLoop h d off s
  | .bcast h a len1 off => Sys2Proof.Machine.execBcast h a len1 off s
  | .fetchb h q len1 off => Sys2Proof.Machine.execFetchb h q len1 off s
  | .lkput h d a => Sys2Proof.Machine.execLkput h d a s
  | .lkget h d a b => Sys2Proof.Machine.execLkget h d a b s
  | .stop h => Sys2Proof.Machine.execStop h s
  | .nop h => Sys2Proof.Machine.execNop h s
  | .slgo h d a b => Sys2Proof.Machine.execSlgo h d a b s
  | .slhalt h d a => Sys2Proof.Machine.execSlhalt h d a s
  | .slwait h d a => Sys2Proof.Machine.execSlwait h d a s
  | .slpoll h part d a => Sys2Proof.Machine.execSlpoll h part d a s
  | .slpool h d => Sys2Proof.Machine.execSlpool h d s
  | .pause h a => Sys2Proof.Machine.execPause h a s
  | .spawn h sync d a b => Sys2Proof.Machine.execSpawn h sync d a b s
  | .spawndPage h sync d a b => Sys2Proof.Machine.execSpawndPage h sync d a b s
  | .spawndTile h sync d a b => Sys2Proof.Machine.execSpawndTile h sync d a b s
  | .fork h prio pin d a b off => Sys2Proof.Machine.execFork h prio pin d a b off s
  | .join h d a b off => Sys2Proof.Machine.execJoin h d a b off s
  | .tqpush h sync d a b => Sys2Proof.Machine.execTqpush h sync d a b s
  | .tqpop h nw mask d a => Sys2Proof.Machine.execTqpop h nw mask d a s
  | .tqctl h d a => Sys2Proof.Machine.execTqctl h d a s
  | .tqrd h part d => Sys2Proof.Machine.execTqrd h part d s
  | .trap h n => Sys2Proof.Machine.execTrap h n s
  | .eret h => Sys2Proof.Machine.execEret h s
  | .ctlr h d c => Sys2Proof.Machine.execCtlr h d c s
  | .ctlw h c a => Sys2Proof.Machine.execCtlw h c a s
  | .ctlx h d c b => Sys2Proof.Machine.execCtlx h d c b s
  | .tmrWrite h d a => Sys2Proof.Machine.execTmrWrite h d a s
  | .spill h d a => Sys2Proof.Machine.execSpill h d a s
  | .unspill h d a b => Sys2Proof.Machine.execUnspill h d a b s
  | .smsgMsg h a b tag => Sys2Proof.Machine.execSmsgMsg h a b tag s
  | .smsgRes h a b => Sys2Proof.Machine.execSmsgRes h a b s
  | .smsgTrp h a b => Sys2Proof.Machine.execSmsgTrp h a b s
  | .tmrset h d a n => Sys2Proof.Machine.execTmrset h d a n s
  | .tmrclr h d => Sys2Proof.Machine.execTmrclr h d s
  | .icinv h => Sys2Proof.Machine.execIcinv h s
  | .rcinv h => Sys2Proof.Machine.execRcinv h s
  | .brk h n => Sys2Proof.Machine.execBrk h n s
  | .sleep h d mask => Sys2Proof.Machine.execSleep h d mask s
  | .illegalInstruction sub => Sys2Proof.Machine.execIllegalInstruction sub s
  | .instructionFetchFault sub addr => Sys2Proof.Machine.execInstructionFetchFault sub addr s
  | .fetchFill w pc => Sys2Proof.Machine.execFetchFill w pc s
  | .repetition h op => Sys2Proof.Machine.execRepetition h op s
  | .parkReasonMet w => Sys2Proof.Machine.execParkReasonMet w s
  | .translationWalk w => Sys2Proof.Machine.execTranslationWalk w s
  | .pendingCommitRetry w => Sys2Proof.Machine.execPendingCommitRetry w s
  | .globalAccessAtSlice a => Sys2Proof.Machine.execGlobalAccessAtSlice a s
  | .fenceProbe w g => Sys2Proof.Machine.execFenceProbe w g s
  | .fenceEcho w g => Sys2Proof.Machine.execFenceEcho w g s
  | .patrolScrub pa r => Sys2Proof.Machine.execPatrolScrub pa r s
  | .eventBufferDrain die => Sys2Proof.Machine.execEventBufferDrain die s
  | .versionClaim k => Sys2Proof.Machine.execVersionClaim k s
  | .fillComplete name v => Sys2Proof.Machine.execFillComplete name v s
  | .fillFail name v => Sys2Proof.Machine.execFillFail name v s
  | .versionLoadRequest k => Sys2Proof.Machine.execVersionLoadRequest k s
  | .arrivalNotice k => Sys2Proof.Machine.execArrivalNotice k s
  | .deliveryAck k => Sys2Proof.Machine.execDeliveryAck k s
  | .deliveryFail did => Sys2Proof.Machine.execDeliveryFail did s
  | .waiterRetry w => Sys2Proof.Machine.execWaiterRetry w s
  | .tloadtTimeout w => Sys2Proof.Machine.execTloadtTimeout w s
  | .tloadCancel k => Sys2Proof.Machine.execTloadCancel k s
  | .sharedPortWrite k => Sys2Proof.Machine.execSharedPortWrite k s
  | .tagWaitPerform w => Sys2Proof.Machine.execTagWaitPerform w s
  | .mailboxIncrement k => Sys2Proof.Machine.execMailboxIncrement k s
  | .packetPromotion b => Sys2Proof.Machine.execPacketPromotion b s
  | .deadlockEscape b => Sys2Proof.Machine.execDeadlockEscape b s
  | .ucieReplay l => Sys2Proof.Machine.execUcieReplay l s
  | .ucieRetrain l => Sys2Proof.Machine.execUcieRetrain l s
  | .ucieLinkLost l => Sys2Proof.Machine.execUcieLinkLost l s
  | .copySector w num ahead => Sys2Proof.Machine.execCopySector w num ahead s
  | .denialFault w => Sys2Proof.Machine.execDenialFault w s
  | .streamRefill w v => Sys2Proof.Machine.execStreamRefill w v s
  | .streamDrain w v => Sys2Proof.Machine.execStreamDrain w v s
  | .matrixAccept c => Sys2Proof.Machine.execMatrixAccept c s
  | .matrixJobStart c drain => Sys2Proof.Machine.execMatrixJobStart c drain s
  | .matrixJobComplete c => Sys2Proof.Machine.execMatrixJobComplete c s
  | .drainComplete c => Sys2Proof.Machine.execDrainComplete c s
  | .drainFail c => Sys2Proof.Machine.execDrainFail c s
  | .remoteRequestAtTarget k => Sys2Proof.Machine.execRemoteRequestAtTarget k s
  | .remoteReply k => Sys2Proof.Machine.execRemoteReply k s
  | .remoteWriteAck k => Sys2Proof.Machine.execRemoteWriteAck k s
  | .remoteWriteFail k => Sys2Proof.Machine.execRemoteWriteFail k s
  | .switchCombine sw j k => Sys2Proof.Machine.execSwitchCombine sw j k s
  | .combinedReply sw k => Sys2Proof.Machine.execCombinedReply sw k s
  | .multicastForward sw k => Sys2Proof.Machine.execMulticastForward sw k s
  | .ergFlitReceive p f good => Sys2Proof.Machine.execErgFlitReceive p f good s
  | .ergNak p seq => Sys2Proof.Machine.execErgNak p seq s
  | .ergGapRenak p seq => Sys2Proof.Machine.execErgGapRenak p seq s
  | .ergPortRetrain p => Sys2Proof.Machine.execErgPortRetrain p s
  | .ergPortLost p => Sys2Proof.Machine.execErgPortLost p s
  | .roamArrival c => Sys2Proof.Machine.execRoamArrival c s
  | .guestReturn k => Sys2Proof.Machine.execGuestReturn k s
  | .guestLost w => Sys2Proof.Machine.execGuestLost w s
  | .heartbeat job => Sys2Proof.Machine.execHeartbeat job s
  | .suspectIntervalExpiry job m => Sys2Proof.Machine.execSuspectIntervalExpiry job m s
  | .propose job m => Sys2Proof.Machine.execPropose job m s
  | .accept job m => Sys2Proof.Machine.execAccept job m s
  | .agreementTimeout job => Sys2Proof.Machine.execAgreementTimeout job s
  | .isolation job => Sys2Proof.Machine.execIsolation job s
  | .joinRequest job m => Sys2Proof.Machine.execJoinRequest job m s
  | .abandon job num => Sys2Proof.Machine.execAbandon job num s
  | .collMatch w num => Sys2Proof.Machine.execCollMatch w num s
  | .collCombine t j k => Sys2Proof.Machine.execCollCombine t j k s
  | .collFinal w num => Sys2Proof.Machine.execCollFinal w num s
  | .collRelease w num => Sys2Proof.Machine.execCollRelease w num s
  | .collWriteDone w num => Sys2Proof.Machine.execCollWriteDone w num s
  | .splitterCompute w num => Sys2Proof.Machine.execSplitterCompute w num s
  | .repartCounts w num => Sys2Proof.Machine.execRepartCounts w num s
  | .repartRecords w num => Sys2Proof.Machine.execRepartRecords w num s
  | .taskAccept k => Sys2Proof.Machine.execTaskAccept k s
  | .taskStart c => Sys2Proof.Machine.execTaskStart c s
  | .taskSteal c => Sys2Proof.Machine.execTaskSteal c s
  | .gateNotice k => Sys2Proof.Machine.execGateNotice k s
  | .joinStep k => Sys2Proof.Machine.execJoinStep k s
  | .blockStart c => Sys2Proof.Machine.execBlockStart c s
  | .halt w => Sys2Proof.Machine.execHalt w s
  | .preemption w => Sys2Proof.Machine.execPreemption w s
  | .watchdog w => Sys2Proof.Machine.execWatchdog w s
  | .timerExpiry w => Sys2Proof.Machine.execTimerExpiry w s
  | .timerTrap w => Sys2Proof.Machine.execTimerTrap w s
  | .copyFaultTrap w => Sys2Proof.Machine.execCopyFaultTrap w s
  | .membershipChangeTrap w => Sys2Proof.Machine.execMembershipChangeTrap w s
  | .spawnFailureTrap w => Sys2Proof.Machine.execSpawnFailureTrap w s
  | .pauseExpiry w => Sys2Proof.Machine.execPauseExpiry w s
  | .messageArrival k => Sys2Proof.Machine.execMessageArrival k s
  | .messageBufferAccept c => Sys2Proof.Machine.execMessageBufferAccept c s
  | .launchEnd id => Sys2Proof.Machine.execLaunchEnd id s
  | .doorbell q tail => Sys2Proof.Machine.execDoorbell q tail s
  | .launch q tag desc => Sys2Proof.Machine.execLaunch q tag desc s
  | .commitOrDenyAPage job page frame => Sys2Proof.Machine.execCommitOrDenyAPage job page frame s
  | .moveOrReclaimVersionEntries stack slice entries reclaim => Sys2Proof.Machine.execMoveOrReclaimVersionEntries stack slice entries reclaim s
  | .installView job num bitmap => Sys2Proof.Machine.execInstallView job num bitmap s
  | .supplySplitters job chan seq keys => Sys2Proof.Machine.execSupplySplitters job chan seq keys s
  | .answerAnException w trp => Sys2Proof.Machine.execAnswerAnException w trp s
  | .markModuleReady m => Sys2Proof.Machine.execMarkModuleReady m s
  | .spillOrResumeASlot w resume => Sys2Proof.Machine.execSpillOrResumeASlot w resume s
  | .resetADie d => Sys2Proof.Machine.execResetADie d s
  | .dieDrainTimeout d => Sys2Proof.Machine.execDieDrainTimeout d s
  | .readCollectiveStaging job chan seq host len => Sys2Proof.Machine.execReadCollectiveStaging job chan seq host len s
  | .completionRecord q => Sys2Proof.Machine.execCompletionRecord q s
  | .jormalFrame seq data good => Sys2Proof.Machine.execJormalFrame seq data good s
  | .attestationReport nonce => Sys2Proof.Machine.execAttestationReport nonce s
  | .firmwareImage body version ecdsa lms => Sys2Proof.Machine.execFirmwareImage body version ecdsa lms s
  | .modeChange f hostAssisted => Sys2Proof.Machine.execModeChange f hostAssisted s
  | .moduleReset => Sys2Proof.Machine.execModuleReset s
  | .thermalThrottle celsius => Sys2Proof.Machine.execThermalThrottle celsius s
  | .thermalShutdown celsius => Sys2Proof.Machine.execThermalShutdown celsius s
  | .viewCommit job m => Sys2Proof.Machine.execViewCommit job m s
  | .fatalFaultReport job m => Sys2Proof.Machine.execFatalFaultReport job m s
  | .hostFailureReport job m => Sys2Proof.Machine.execHostFailureReport job m s
  | .ucieLinkRestored l => Sys2Proof.Machine.execUcieLinkRestored l s
  | .ergPortRestored p => Sys2Proof.Machine.execErgPortRestored p s
  | .markDieReady d => Sys2Proof.Machine.execMarkDieReady d s

end Sys2Proof.Machine
end

