-- ==== Sys2Proof/Machine/Units.lean ====
section
/-! DEFINITION. The events the units of the module may perform next (log entry 1). An event of this list may find, when it is performed,
that it changes nothing; what only the outside world decides is not in it. -/

namespace Sys2Proof.Machine

/-- Events offered under a condition. -/
def offer (b : Bool) (l : List Instr) : List Instr := if b then l else []

/-- The core's slot has had its access of this cycle, after which the shared port writes (08 R172). -/
def State.portOpen (s : State) (c : CoreId) : Bool :=
  match s.cores.findIdx? (·.1 == c) with
  | some i => decide (i < s.turn)
  | none => true

/-! ## One slot -/

/-- Events for what a slot is parked for. -/
noncomputable def State.waitEvents (s : State) (w : Who) : List Instr :=
  let sl := s.slot w
  let k := s.core w.core
  let missing := (fetchPcs sl).filter fun pc => !k.icache.any fun x => decide (x.1 = pc)
  let fills := missing.map fun pc => Instr.fetchFill w pc
  match sl.wait with
  | .again (.walk va n kind align) => offer (!s.againMet w (.walk va n kind align)) [.translationWalk w]
  | .again (.page _ ps _) =>
    offer (sl.reply.isNone && (s.uncommitted w ps).any (s.mayPend w.core.stack (s.rootOf w))) [.pendingCommitRetry w]
  | .again (.block _ _ _) => offer sl.reply.isNone fills
  | .bcast _ b len => offer (sl.reply.isNone && (k.bufOf b len).isNone) fills
  | .fetch pc =>
    if sl.reply.isSome then []
    else match s.fetchWord w pc with
    | .sparse _ ps => if sl.reason = .pageCommit then
        offer (ps.any (s.mayPend w.core.stack (s.rootOf w))) [.pendingCommitRetry w] else fills
    | _ => fills
  | .glob r => ((List.range r.parts.length).filter (s.loadReady w)).map fun i => .globalAccessAtSlice (.load w i)
  | .fence _ un pr => (un.map fun g => Instr.fenceProbe w g) ++ (pr.filter (s.groupClean w)).map fun g => .fenceEcho w g
  | .tile (.load _ _ _ _ _ timed) _ =>
    offer (sl.retryAt.any fun t => decide (t ≤ s.rot)) [.waiterRetry w] ++
      offer (timed && sl.reply.isNone && sl.cancel == 0 && sl.deadline.any fun t => decide (t ≤ s.rot)) [.tloadtTimeout w]
  | _ => []

/-- Parts of queued stores that may be performed. -/
noncomputable def State.storeEvents (s : State) (w : Who) : List Instr :=
  ((s.slot w).storeQ.zipIdx.map fun (x : StoreEntry × Nat) =>
    ((List.range x.1.parts.length).filter (s.storeReady w x.2)).map fun p => Instr.globalAccessAtSlice (.store w x.2 p)).flatten

/-- Steps of the copy unit for an operation. -/
noncomputable def State.copyEvents (s : State) (w : Who) (o : CopyOp) : List Instr :=
  let go := [Instr.copySector w o.num none]
  let isStream := match o.kind with | .stream _ => true | _ => false
  if o.over then go
  else if isStream then offer (s.mayStart w o.num) go
  else if !o.out.isEmpty then offer (s.portOpen w.core) go
  else
    let n := match o.kind with | .qdual => 1 | _ => o.plan.sectors - o.sector
    offer (s.mayRead o) ((List.range (min n 8)).map fun i => .copySector w o.num (some (o.sector + i))) ++
      offer (s.portOpen w.core && (s.mayStart w o.num || ((s.slot w).cctx.faulted.isNone && s.servable w o && s.copyTurn w))) go

/-- The stream unit's work for a register. -/
noncomputable def State.streamEvents (s : State) (w : Who) (v : Fin 4) : List Instr :=
  let sl := s.slot w
  offer ((sl.streams[v]).any fun st => !st.wr && (decide (st.total ≤ st.pos) || s.mayStart w st.num || s.streamRuns w st.num))
      [.streamRefill w v] ++
    offer ((sl.drainTargets v).any (s.drainOpen w)) [.streamDrain w v]

/-- Steps of the collective unit for an operation. -/
noncomputable def collEvents (w : Who) (o : CollOp) : List Instr :=
  match o.st with
  | .queued => [.collMatch w o.num]
  | .matching => [.collMatch w o.num]
  | .running => if o.p.repart then [.splitterCompute w o.num, .repartCounts w o.num, .repartRecords w o.num, .collFinal w o.num]
      else [.collFinal w o.num]
  | .final => [.collRelease w o.num]
  | .writing => [.collWriteDone w o.num]
  | .done => []

noncomputable def State.slotEvents (s : State) (w : Who) : List Instr :=
  let sl := s.slot w
  if sl.state = .spilled then s.storeEvents w ++ (sl.xctx.ops.map (collEvents w)).flatten
  else
    s.waitEvents w ++ s.storeEvents w ++ (sl.cctx.ops.map (s.copyEvents w)).flatten ++
      offer (sl.cctx.faulted.isNone && sl.cctx.ops.any fun o => o.denied.isSome && decide (o.st = .commitWait)) [.denialFault w] ++
      ((List.finRange 4).map (s.streamEvents w)).flatten ++ (sl.xctx.ops.map (collEvents w)).flatten

/-! ## Cores and clusters -/

noncomputable def State.coreEvents (s : State) (c : CoreId) : List Instr :=
  let k := s.core c
  offer (!k.msgIn.isEmpty && k.ringOpen && s.portOpen c) [.messageBufferAccept c] ++
    offer (k.gates.any fun g => g.retry.any fun t => decide (t ≤ s.rot)) [.waiterRetry ⟨c, 0⟩] ++
    k.ro.map fun x => .globalAccessAtSlice (.roDrop c (x.1 * 8))

noncomputable def State.clusterEvents (s : State) (c : ClusterId) : List Instr :=
  let e := s.engine c
  offer (decide (e.queue.length < 32) && (s.matNext c).isSome) [.matrixAccept c] ++
    offer ((s.matReady c false).isSome || !(s.readable c).isEmpty) [.matrixJobStart c false] ++ offer (s.matReady c true).isSome [.matrixJobStart c true] ++
    offer e.job.isSome [.matrixJobComplete c] ++
    offer (e.drain.any fun d => decide (d.performed = d.sent) && !s.drainFlying c) [.drainComplete c] ++
    offer (e.drain.any fun d => decide (d.performed < d.sent) && !s.drainFlying c) [.drainFail c]

/-! ## Packets -/

/-- The event in which a packet is performed. -/
noncomputable def viewEvent (job : BitVec 32) (m : ViewMsg) : List Instr :=
  match m with
  | .propose _ _ _ _ _ => [.propose job m]
  | .accept _ _ _ => [.accept job m]
  | .join _ => [.joinRequest job m]
  | .abandon num => [.abandon job num]
  | .commit _ _ _ _ _ => [.viewCommit job m]
  | .fatal src => [.fatalFaultReport job src]
  | .heartbeat _ => []

/-- A packet that writes a scratchpad by its shared port does so after the core's slot (08 R172). -/
def State.portFree (s : State) (b : Body) : Bool :=
  match b with
  | .tdata d _ _ => s.portOpen d.who.core
  | .dline _ c _ _ _ => s.portOpen c
  | .msg c _ => s.portOpen c
  | _ => true

/-- The event in which the packet at an index is performed. -/
noncomputable def packetEvent (k : Nat) (b : Body) : List Instr :=
  match b with
  | .mbInc _ _ _ _ => [.mailboxIncrement k]
  | .dinc _ _ _ _ => [.mailboxIncrement k]
  | .msg _ _ => [.messageArrival k]
  | .rreq _ _ _ _ _ _ => [.remoteRequestAtTarget k]
  | .rrep _ _ _ => [.remoteReply k]
  | .rack _ _ none => [.remoteWriteAck k]
  | .rack _ _ (some _) => [.remoteWriteFail k]
  | .eqEntry _ _ _ => [.remoteWriteFail k]
  | .treq ⟨_, _, _, _, .cancel _ _⟩ => [.tloadCancel k]
  | .treq ⟨_, _, _, _, .load _ _ _ _ _⟩ => [.versionLoadRequest (.net k)]
  | .treq _ => [.versionClaim (.net k)]
  | .tdata _ _ _ => [.sharedPortWrite k]
  | .dline _ _ _ _ _ => [.sharedPortWrite k]
  | .notice _ _ _ _ _ _ => [.arrivalNotice k]
  | .tack _ _ => [.deliveryAck k]
  | .gate _ _ _ => [.gateNotice k]
  | .task _ _ _ _ _ => [.taskAccept k]
  | .spawnd _ _ _ _ _ _ _ => [.taskAccept k]
  | .join _ _ _ _ _ _ => [.joinStep k]
  | .home _ _ => [.guestReturn k]
  | .view job m => viewEvent job m
  | .trep _ _ _ _ => [.versionClaim (.net k)]
  | .tfill n v _ _ _ => [.fillComplete n v]
  | .fillLost _ _ => []
  | .lostGuest _ => []
  | .guestAt _ _ => []
  | .tacc _ _ _ => []
  | .roam _ _ => []
  | .roamTo _ _ => []
  | .coll _ _ => []

noncomputable def State.packetEvents (s : State) (k : Nat) : List Instr :=
  match s.net[k]? with
  | none => []
  | some f =>
    offer (s.ready k && s.portFree f.pkt.body) (packetEvent k f.pkt.body) ++ (match f.buf with
      | none => []
      | some b =>
        let head := !f.esc && s.bufHead b == some k
        offer (head && !f.promoted && f.stood (s.agethr b.die) s.cycle) [.packetPromotion (.router b)] ++
          offer (head && f.stood (s.dlkthr b.die) s.cycle) [.deadlockEscape (.router b)])

/-! ## Tiles -/

/-- A fill has no path left: the way to its producer's module, or the links between its dies, are lost, or the producer is gone with its die
(05 R102, R116). -/
def State.fillCut (s : State) (name : Word) (p : Agent) (id : Nat) : Bool :=
  if p.mod ≠ s.modId then s.planes.isEmpty
  else
    ((s.linksBetween (some p.who.core.stack) ((dstRouter (s.tileDst name)).map (·.1))).any fun l => (s.link l).st == .lost) ||
      !(match (s.slot p.who).wait with
        | .tile (.store _ _ _) n => n == name && (s.slot p.who).tileId == id
        | _ => false)

noncomputable def State.fillEvents (s : State) (r : NameRec) : List Instr :=
  ((r.vers.filter fun e => e.st == .filling).map fun e =>
    if s.fillCut r.name e.producer e.pid then [Instr.fillFail r.name e.v]
    else offer (decide (e.producer.mod = s.modId)) [.fillComplete r.name e.v]).flatten

/-- What waits at the slices and may go on, or comes to wait for something else (05 R106, R108, R109). -/
noncomputable def State.heldEvents (s : State) : List Instr :=
  let event (a : TileAt) (load : Bool) : List Instr :=
    offer (s.retryAt a).isSome [if load then Instr.versionLoadRequest a else Instr.versionClaim a]
  (s.tileHeld.zipIdx.map fun (x : HeldTile × Nat) => event (.held x.2) (match x.1.req.op with
    | .load _ _ _ _ _ => true
    | _ => false)).flatten ++ (s.names.map fun r => event (.parked r.name) false).flatten

/-! ## Links and ports -/

noncomputable def State.linkEvents (s : State) (l : LinkId) : List Instr :=
  let u := s.link l
  match u.st with
  | .up => offer (decide (8 ≤ u.replays)) [.ucieRetrain l]
  | .retrain t => offer (decide (t + 100000 ≤ s.cycle)) [.ucieLinkLost l]
  | .lost => []

noncomputable def State.portEvents (s : State) (i : Fin 16) : List Instr :=
  let p := s.ports[i]
  match p.st with
  | .up => offer p.eight [.ergPortRetrain i] ++
      ((p.gaps.filter fun g => decide (2048 * s.clock ≤ 1000 * (s.cycle - g.2.1))).map fun g => Instr.ergGapRenak i g.1)
  | .retrain t => offer (decide (t + 200000 ≤ s.cycle)) [.ergPortLost i]
  | .lost => []

/-- Pairs of one list's places, the first below the second. -/
def pairsBelow (n : Nat) : List (Nat × Nat) := (List.range n).flatMap fun j => (List.range j).map fun i => (i, j)

noncomputable def State.switchEvents (s : State) (x : Nat × Switch) : List Instr :=
  let sw := x.2
  let q := sw.queue
  let add (i : Nat) : Bool := match q[i]? with
    | some p => (addend p.pkt).isSome
    | none => false
  let aged (y : SwPacket × Nat) : List Instr :=
    if sw.isHead y.2 && !y.1.esc then
      offer (!y.1.promoted && y.1.stood s.settings.barchanAge s.cycle) [.packetPromotion (.switch x.1 y.1.input y.1.pkt.cls)] ++
        offer (y.1.stood s.settings.barchanDlk s.cycle) [.deadlockEscape (.switch x.1 y.1.input y.1.pkt.cls)]
    else []
  (((pairsBelow q.length).filter fun y => add y.1 && add y.2).map fun y => Instr.switchCombine x.1 y.1 y.2) ++
    ((List.range sw.replies.length).map fun k => Instr.combinedReply x.1 k) ++
    (((List.range q.length).filter sw.isHead).map fun k => Instr.multicastForward x.1 k) ++ (q.zipIdx.map aged).flatten

/-! ## Views and collective messages -/

noncomputable def State.viewEvents (s : State) (v : JobView) : List Instr :=
  let ms := if v.inside then v.view.members.filter fun m => s.silent v m else []
  let parts (x : CollTag × CollBody) : Bool := match x.2 with | .part _ _ _ => true | _ => false
  let both (y : Nat × Nat) : Bool := match v.inbox[y.1]?, v.inbox[y.2]? with
    | some a, some b => decide (a.1 = b.1) && parts a && parts b
    | _, _ => false
  let combine (y : Nat × Nat) : List Instr := match v.inbox[y.1]? with
    | some a => [.collCombine a.1 y.1 y.2, .collCombine a.1 y.2 y.1]
    | none => []
  offer (s.beatDue v) [.heartbeat v.job] ++ ms.map (fun m => Instr.suspectIntervalExpiry v.job m) ++
    offer (s.cutOff v) [.isolation v.job] ++
    offer (v.campaign.any (fun c => decide (c.at_ + s.settings.agree ≤ s.cycle)) || (v.campaign.isNone && !v.joiners.isEmpty))
      [.agreementTimeout v.job] ++
    (((pairsBelow v.inbox.length).filter both).map combine).flatten

/-! ## The host's side and the dies -/

noncomputable def State.hostEvents (s : State) : List Instr :=
  ((List.finRange 64).filter fun q => (s.qpairs[q]).pending.head?.any fun p => p.done.isSome).map (fun q => Instr.completionRecord q) ++
    ((List.finRange 7).filter fun d => !(s.dieBuf[d]).isEmpty).map (fun d => Instr.eventBufferDrain d) ++
    ((s.launches.filter s.launchOver).map fun l => Instr.launchEnd l.id) ++ offer s.shutReady [.thermalShutdown s.celsius]

noncomputable def State.dieEvents (s : State) (d : DieId) : List Instr :=
  match s.dies[d] with
  | .up => []
  | .draining t => offer (!s.dieBusy d) [.resetADie d] ++ offer (decide (t + 100000 ≤ s.cycle)) [.dieDrainTimeout d]
  | .fenced => offer (s.net.any fun f => decide (dieOfDst f.pkt.dst = d)) [.resetADie d]

/-- Every event some unit may perform now. -/
noncomputable def State.enabled (s : State) : List Instr :=
  (s.allSlots.map s.slotEvents).flatten ++ (s.cores.map fun x => s.coreEvents x.1).flatten ++
    (((s.cores.map fun x => clusterOf x.1) ++ s.engines.map (·.1)).eraseDups.map s.clusterEvents).flatten ++ ((List.range s.net.length).map s.packetEvents).flatten ++
    (s.names.map s.fillEvents).flatten ++ s.heldEvents ++ (s.stale.map fun x => Instr.globalAccessAtSlice (.evict (x.1 * 8))) ++
    ((List.finRange 6).map fun i => s.linkEvents (.nb i) ++ s.linkEvents (.io i)).flatten ++
    ((List.finRange 16).map s.portEvents).flatten ++ (s.switches.map s.switchEvents).flatten ++
    (s.views.map s.viewEvents).flatten ++ s.hostEvents ++ ((List.finRange 7).map s.dieEvents).flatten

end Sys2Proof.Machine
end

