-- ==== Sys2Proof/Machine/Issue.lean ====
section
/-! DEFINITION. One issue cycle of a slot, and the end of a cycle of the module (01 R25, 15 R310-R330, 17 R363, 16 R342, R343). -/

namespace Sys2Proof.Machine

/-! ## The instruction that issues -/

/-- The vector operation of a form that may repeat (10 R209). -/
def vopOf : Instr → Option (Hdr × VOp)
  | .vfadd h m d a b => some (h, .fbin .add m d a b)
  | .vfsub h m d a b => some (h, .fbin .sub m d a b)
  | .vfmul h m d a b => some (h, .fbin .mul m d a b)
  | .vfdiv h m d a b => some (h, .fbin .div m d a b)
  | .vfma h m d a b c => some (h, .fma .ma m d a b c)
  | .vfms h m d a b c => some (h, .fma .ms m d a b c)
  | .vfnma h m d a b c => some (h, .fma .nma m d a b c)
  | .vfmin h m d a b => some (h, .fbin .min m d a b)
  | .vfmax h m d a b => some (h, .fbin .max m d a b)
  | .vfabs h m d a => some (h, .fun1 .abs m d a)
  | .vfneg h m d a => some (h, .fun1 .neg m d a)
  | .vfsqrt h m d a => some (h, .fun1 .sqrt m d a)
  | .vexp2 h m d a => some (h, .fun1 .exp2 m d a)
  | .vlog2 h m d a => some (h, .fun1 .log2 m d a)
  | .vrcp h m d a => some (h, .fun1 .rcp m d a)
  | .vrsq h m d a => some (h, .fun1 .rsq m d a)
  | .vadd h m d a b => some (h, .ibin .add false m d a b)
  | .vsub h m d a b => some (h, .ibin .sub false m d a b)
  | .vmul h m d a b => some (h, .ibin .mul false m d a b)
  | .vmulh h u m d a b => some (h, .ibin .mulh u m d a b)
  | .vmin h u m d a b => some (h, .ibin .min u m d a b)
  | .vmax h u m d a b => some (h, .ibin .max u m d a b)
  | .vand h m d a b => some (h, .ibin .and false m d a b)
  | .vor h m d a b => some (h, .ibin .or false m d a b)
  | .vxor h m d a b => some (h, .ibin .xor false m d a b)
  | .vshl h m d a b => some (h, .ibin .shl false m d a b)
  | .vshr h m d a b => some (h, .ibin .shr false m d a b)
  | .vsra h m d a b => some (h, .ibin .sra false m d a b)
  | .vabs h m d a => some (h, .iabs m d a)
  | .vdiv h u m d a b => some (h, .ibin .div u m d a b)
  | .vrem h u m d a b => some (h, .ibin .rem u m d a b)
  | .vpopc h m d a => some (h, .ipopc m d a)
  | .vcmp h c m d a b => some (h, .cmp c m d a b)
  | .vfcmp h c m d a b => some (h, .fcmp c m d a b)
  | .vsel h t d a b c => some (h, .sel t d a b c)
  | .vcvt h src m d a p => some (h, .cvt src m d a p)
  | .vcvts h dst src d a => some (h, .cvts dst src d a)
  | .vredadd h m d a => some (h, .red .add m d a)
  | .vredmax h m d a => some (h, .red .max m d a)
  | .vredmin h m d a => some (h, .red .min m d a)
  | .vrediadd h m d a => some (h, .redi m d a)
  | .vcompress h t d a b => some (h, .compress t d a b)
  | .vexpand h t d a b => some (h, .expand t d a b)
  | .vslideup h t d a n => some (h, .slideup t d a n)
  | .vslidedn h t d a n => some (h, .slidedn t d a n)
  | .vperm h t d a b => some (h, .perm t d a b)
  | .vbcastScalar h t d a => some (h, .bcastS t d a)
  | .vbcastLane h t d a n => some (h, .bcastL t d a n)
  | .vmovsLane h t sg d a n => some (h, .movLane t sg d a n)
  | .vmovsCnt h t d a => some (h, .movCnt t d a)
  | .vmovsBits h t d a => some (h, .movBits t d a)
  | .vins h t d a n => some (h, .ins t d a n)
  | .vzord h x2 hi d a b c => some (h, .zord x2 hi d a b c)
  | .vgath h m d a b => some (h, .gath m d a b)
  | .vscat h m d a b => some (h, .scat m d a b)
  | _ => none

/-- What a decoded instruction does at its pc: a further repetition where the slot continues one there (10 R209, R210), else itself. -/
noncomputable def issued (sl : Slot) (i : Instr) : Instr :=
  match vopOf i with
  | some (h, o) => if h.rep && sl.repCont && decide (sl.repPc = sl.pc) then .repetition h o else i
  | none => i

/-- A word performed in a slot: the illegal-instruction trap, or its instruction (02 R34). -/
noncomputable def State.perform (s : State) (w : Who) (x : IWord) : Out :=
  let s := { s.modSlot w fun sl => { sl with word := x } with cur := w }
  match decode x with
  | .error e => exec (.illegalInstruction e.sub) s
  | .ok i => exec (issued (s.slot w) i) s

/-! ## The issue cycle (17 R363) -/

/-- A slot that issues in its own cycle (15 R312). -/
def Slot.inRotation (sl : Slot) : Bool :=
  decide (sl.wait = .none) && (match sl.state with
    | .block => true | .running => true | .guest => true | .handler => true
    | .pool => false | .parked => false | .spilled => false | .exit => false)

/-- The spill engine's request at its head is to spill this slot (17 R376). -/
def State.wanted (s : State) (w : Who) : Bool :=
  match (s.core w.core).spillQ with
  | r :: _ => decide (r.slot = w.slot) && !r.resume
  | [] => false

/-- The pending trap that comes first (17 R363). -/
noncomputable def Slot.pending (sl : Slot) (w : Who) : Option Instr :=
  if sl.state = .handler ∨ sl.hosting.isSome then none
  else if sl.pendCopy.isSome then some (.copyFaultTrap w)
  else if sl.pendMember.isSome then some (.membershipChangeTrap w)
  else if sl.pendSpawn.isSome then some (.spawnFailureTrap w)
  else if sl.pendTimer then some (.timerTrap w)
  else none

/-- The next word of a slot in rotation: from its block's buffer, or from the instruction cache (15 R319, R321). -/
def State.nextWord (s : State) (w : Who) : Option IWord :=
  let sl := s.slot w
  match sl.block.bind fun b => b.words[b.j]? with
  | some x => some x
  | none => ((s.core w.core).icache.find? fun x => decide (x.1 = sl.pc)).map (·.2)

/-- A halt request is acted on before the slot's next issue; in a handler it may have to wait for the `eret` (15 R327). -/
def Slot.halts (sl : Slot) : Bool := sl.haltReq && (decide (sl.state ≠ .handler) || sl.haltNow)

/-- The issue cycle of a slot in rotation: the first of R363 that applies. -/
noncomputable def State.rotation (s : State) (w : Who) : Out :=
  let sl := s.slot w
  if s.wanted w then exec (.preemption w) s
  else if sl.halts then exec (.halt w) s
  else match sl.pending w with
  | some e => exec e s
  | none =>
    if sl.bubble then .next (s.modSlot w fun sl => { sl with bubble := false })
    else match sl.fetchFault.filter fun x => decide (x.1 = sl.pc) with
    | some (_, sub, va) => exec (.instructionFetchFault (Fin.ofNat 10 sub) va) { s with cur := w }
    | none => match s.nextWord w with
      | some x => s.perform w x
      | none => .next (s.modSlot w (·.park .fetch (.fetch sl.pc) s.rot))

/-- What interrupts a parked slot: its watchdog, then the spill engine, then a pending trap (17 R375, R378). -/
noncomputable def State.interrupted (s : State) (w : Who) : Option Instr :=
  if s.overdue w then some (.watchdog w)
  else if s.wanted w then some (.preemption w)
  else (s.slot w).pending w

/-- A tile request withdrawn for an interruption that still stands: the interruption comes before a new issue (05 R125). -/
def Slot.withdrawn (sl : Slot) : Bool :=
  (match sl.wait, sl.reply with
    | .tile _ _, some .ok => true
    | _, _ => false) && sl.cancel != 1

/-- The slot's tag wait ends at the end of this cycle (08 R172). -/
def State.tagOpen (s : State) (w : Who) : Bool :=
  match (s.slot w).wait with
  | .tag t x n => t.cond (s.core w.core) (wordsOf x n)
  | _ => false

/-- The issue cycle of a slot that waits: the wake wins over an interruption, and a tag wait whose condition holds over the watchdog (17 R382). -/
noncomputable def State.waiting (s : State) (w : Who) : Out :=
  let sl := s.slot w
  let hit := s.interrupted w
  match (if sl.withdrawn then hit else none) with
  | some e => exec e s
  | none =>
    if (s.unparked w).isSome then exec (.parkReasonMet w) s
    else if s.tagOpen w && s.overdue w then .next s
    else match sl.wait, hit with
    | .pause u, none => if u ≤ s.rot then exec (.pauseExpiry w) s else .next s
    | _, some e => exec e s
    | _, none => .next s

/-- The slot whose wait has just ended with its instruction complete issues in this same cycle (15 R313); one that issues again, that took
a trap or that left the rotation does not. -/
def resumed (old new : Slot) : Bool :=
  decide (old.wait ≠ .none) && new.inRotation && decide (new.state = .handler → old.state = .handler) && (match old.wait, old.reply with
    | .again _, _ => false
    | .pause _, _ => false
    | .tile _ _, some .ok => false
    | _, _ => true)

/-- A slot's issue cycle. -/
noncomputable def State.issue (s : State) (w : Who) : Out :=
  let sl := s.slot w
  if sl.inRotation then s.rotation w
  else if sl.state = .pool ∨ sl.state = .exit ∨ sl.state = .spilled then
    (if s.wanted w then exec (.preemption w) s else .next s)
  else s.waiting w

/-- The turn passes to the next core, unless the slot issues in this cycle after its wait. -/
def State.passTurn (t old : State) (w : Who) : State :=
  if resumed (old.slot w) (t.slot w) then t else { t with turn := t.turn + 1 }

/-! ## The end of a cycle -/

/-- The end of a slot's rotation: its timer (17 R368). -/
def State.endSlot (s : State) (w : Who) : State :=
  let expired := s.slot w
  let t := stateOf s (execTimerExpiry w s)
  if decide (expired.tmr = 1) then t else t.modSlot w (Slot.tick s.rot)

/-- The end of a core's rotation: timers, a block that may start, the spill engine, guests, then tasks (15 R316, R322, 16 R342). -/
def State.endCore (s : State) (c : CoreId) : State :=
  let s := (List.finRange 16).foldl (fun (s : State) (i : Fin 16) => s.endSlot ⟨c, i⟩) s
  let s := stateOf s (execBlockStart c s)
  let s := s.hostResumes 16 c
  let s := stateOf s (execRoamArrival c s)
  stateOf s (execTaskStart c s)

/-- A cycle ends: the tag waiters of every core are passed over (08 R172), and the Erg ports send (12 R249). In cycle 15 the rotation's work is done at every core, and then by the thieves of every cluster (16 R343). -/
def State.endCycle (s : State) : State :=
  let cs := s.cores.map (·.1)
  let s := (cs.foldl State.tagPass s).gateOut
  let s := if s.cycle % 16 = 15 then
      let s := (cs ++ (s.net.filterMap fun f => s.roamsTo f.pkt).eraseDups.filter (· ∉ cs)).foldl State.endCore s
      (cs.map clusterOf).eraseDups.foldl (fun (s : State) (c : ClusterId) => stateOf s (execTaskSteal c s)) s
    else s
  { s.sendFlits.sendFrame with cycle := s.cycle + 1, turn := 0 }

/-! ## Steps -/

/-- A slot whose instruction issues again, in the same issue cycle as its wait ended: what comes before an instruction comes before it too
(15 R313, 17 R363). -/
noncomputable def State.issueAgain (s : State) (w : Who) : Out :=
  let sl := s.slot w
  if s.wanted w || sl.halts || (sl.pending w).isSome then s.rotation w else s.perform w sl.word

/-- What an earlier step left to be done. -/
noncomputable def State.doTodo (s : State) (t : Todo) : Out :=
  match t with
  | .issue w => s.issueAgain w
  | .deliveryFail did => exec (.deliveryFail (.home did)) s
  | .fillFail name v => exec (.fillFail name v) s
  | .guestLost w => exec (.guestLost w) s
  | .answer p => .next (s.giveAnswer p)

/-- The module's own clock: the next core's slot has its cycle, or the cycle ends (01 R25). -/
noncomputable def State.clockStep (s : State) : Out :=
  match s.cores[s.turn]? with
  | none => .next s.endCycle
  | some x =>
    let w : Who := ⟨x.1, Fin.ofNat 16 s.cycle⟩
    match s.issue w with
    | .next t => .next (t.passTurn s w)
    | .fault f => .fault f
    | .refused r => .refused r

/-- Some unit acts, or the clock goes on: an open choice where units may act (log entry 1). -/
noncomputable def State.free (s : State) : Out :=
  let evs := s.enabled
  let (k, t) := s.pick (evs.length + 1)
  match evs[k]? with
  | some e => exec e t
  | none => t.clockStep

/-- A powered-down module takes nothing but its reset (18 R392). -/
def offStep (s : State) : Out :=
  match s.agenda with
  | [] => .fault .poweredOff
  | (_, .moduleReset) :: r => execModuleReset { s with agenda := r }
  | _ :: r => .next { s with agenda := r }

/-- One step: an event from outside that is due, what an earlier step left, or a free choice (log entry 1). -/
noncomputable def State.oneStep (s : State) : Out :=
  if !s.powered then offStep s
  else match s.todo, s.agenda with
  | t :: r, _ => State.doTodo { s with todo := r } t
  | [], (n, e) :: r => if n ≤ s.cycle then exec e { s with agenda := r } else s.free
  | [], [] => s.free

end Sys2Proof.Machine
end

