-- ==== Sys2Proof/Machine/Step.lean ====
section
/-! DEFINITION. The step of the module, and a word placed where it fetches its next instruction. -/

namespace Sys2Proof.Machine

noncomputable def step (s : State) : Host.Outcome State Fault Refusal := s.oneStep

/-- Core (0, 0, 0) with its steward in rotation at its own pc, and the word in the instruction cache there. A core that no launch has
started is started as a launch of one core would start it (log entry 30). -/
def Core.placed (c : Core) (id : Nat) (x : IWord) : Core :=
  let c := if c.launch.isSome then c else { Core.reset with launch := some id, slots := Vector.replicate 16 (Slot.reset .pool) }
  let sl := { c.slots[0].unpark with state := .running, bubble := false, block := none, fetchFault := none, haltReq := false }
  { c with slots := c.slots.set 0 sl, icache := [(sl.pc, x)] }

/-- The state with a word where the next step issues it: in slot 0 of core (0, 0, 0), whose turn it is (log entry 30). -/
def State.withFetchWord (s : State) (_nbits w : Nat) : State :=
  let c : CoreId := ⟨0, 0, 0⟩
  let fresh := (s.core c).launch.isNone
  let t := s.modCore c (·.placed s.nextLaunch (BitVec.ofNat 96 w))
  { t with
    launches := if fresh then s.launches ++ [⟨s.nextLaunch, 0, 0, 0, 0, 0, 0, 0, 0, 0, 0, 0, 0, 0⟩] else s.launches
    nextLaunch := if fresh then s.nextLaunch + 1 else s.nextLaunch
    powered := true, agenda := [], todo := [], cycle := s.cycle / 16 * 16, turn := t.cores.findIdx fun x => decide (x.1 = c) }

end Sys2Proof.Machine
end

