-- ==== Sys2Proof/Safety.lean ====
section
/-! DEFINITION. The terms claims use: when an instruction runs, what it is to complete, what a step leaves alone, and the form every
step keeps. -/

namespace Sys2Proof.Machine

/-! ## When an instruction runs -/

/-- The guard holds (02 R30). -/
abbrev Runs (h : Hdr) (s : State) : Prop := holds h s.me = true

/-- The guard holds in a slot that hosts no thread of another core (12 R261). -/
abbrev AtHome (h : Hdr) (s : State) : Prop := holds h s.me = true ∧ s.me.hosting = none

/-- The guard holds in the steward, which hosts no thread (15 R314). -/
abbrev AsSteward (h : Hdr) (s : State) : Prop := AtHome h s ∧ s.cur.slot = 0

/-- No operand register is in stream mode (07 R163). -/
abbrev NoStreams (s : State) : Prop := s.me.streams = #v[none, none, none, none]

/-! ## What a step does -/

/-- The instruction answers a next state in which only its own slot has changed: `f` gives its registers, and it goes on at the
instruction that follows. -/
def Completes (i : Instr) (s : State) (f : Slot → Slot) : Prop := exec i s = .next (s.mod fun sl => (f sl).next)

/-- A floating instruction completes: `f` gives its registers, and the flags it raises are added to the slot's (03 R58). -/
def CompletesFp (i : Instr) (s : State) (fl : FFlags) (f : Slot → Slot) : Prop :=
  exec i s = .next (s.mod fun sl => { (f sl).next with flags := sl.flags ||| fl })

/-- The access of `n` bytes at an address of the scratchpad lies within it and is aligned (08 R173). -/
abbrev LocalOk (x : Word) (n align : Nat) : Prop := x.toNat + n ≤ 0x30000 ∧ x.toNat % align = 0

/-- Instructions and events performed one after another lead from one state to another. -/
def Leads : List Instr → State → State → Prop
  | [], s, t => s = t
  | i :: r, s, t => ∃ u, exec i s = .next u ∧ Leads r u t

/-- No posted release of the running slot is still to be performed (14 R293). -/
abbrev NoRelease (s : State) : Prop := s.me.releasing = false

/-- The slot has nothing posted that is not performed: no store, no remote write, no increment, and no stores its start carries. -/
abbrev Slot.Quiet (sl : Slot) : Prop := sl.storeQ = [] ∧ sl.outst = [] ∧ sl.incs = [] ∧ sl.carry = []

/-- An access to HBM4 by the running slot that passes the checks of 04 R81: below 2^48, aligned, each of its pages with a leaf in the core's
translation cache that the table agrees with, writable where it writes. -/
def State.Maps (s : State) (va : Word) (n align : Nat) (wr : Bool) : Prop :=
  0 < n ∧ va.toNat + n ≤ 2 ^ 48 ∧ va.toNat % align = 0 ∧ s.me.walks = [] ∧ ∀ p ∈ pagesOf va.toNat n, ∃ t : TlbEntry,
    tlbFind s.myCore.tlb (s.rootOf s.cur) p = some t ∧ (s.walk (s.rootOf s.cur) (p * 32768)).1 = .leaf t.leaf t.size ∧
    (wr = true → t.leaf.getLsbD 59 = true) ∧ inHbm (paOf t.leaf t.size (max va.toNat (p * 32768))) = true

/-- The parts of such an access, one for each 256-byte unit (14 R302). -/
def State.placed (s : State) (va : Word) (n : Nat) : List Seg :=
  (pieces va.toNat n).filterMap fun x => (tlbFind s.myCore.tlb (s.rootOf s.cur) ((va.toNat + x.1) / 32768)).map fun t =>
    ⟨x.1, paOf t.leaf t.size (va.toNat + x.1), x.2, t.leaf, t.size⟩

/-- The bytes memory holds at the parts of an access. -/
def State.bytesAt (s : State) (segs : List Seg) : List Byte := (segs.map fun g => s.mem.read g.pa g.len).flatten

/-- The way of the running slot to each part is open (06 R139). -/
abbrev State.Open (s : State) (segs : List Seg) : Prop := ∀ g ∈ segs, s.way (some s.cur.core.stack) g.pa = .clear

/-- Every die is up and every link of the module carries traffic (06 R139, 18 R390). -/
abbrev State.Whole (s : State) : Prop := (∀ d : DieId, s.dies[d] = .up) ∧ ∀ i : Fin 6, s.ucieNb[i].st = .up ∧ s.ucieIo[i].st = .up

/-- No access is in flight on the module. -/
def State.Still (s : State) : Prop :=
  s.net = [] ∧ ∀ w : Who, (s.slot w).storeQ = [] ∧ (s.slot w).wait.translated = false ∧ ∀ o ∈ (s.slot w).cctx.ops, o.out = []

/-- The packet at index `k` of the network is `p`, with nothing that holds it back: no earlier packet of its flow, no release it waits for,
no link of its route that is not up (06 R129, R139). -/
def State.Arrives (s : State) (k : Nat) (p : Packet) : Prop :=
  ∃ f, s.net[k]? = some f ∧ f.pkt = p ∧ f.hold = none ∧ (∀ g ∈ s.net.take k, g.pkt.sameFlow p = false) ∧
    ∀ l m, Hop.link l m ∈ f.route → (s.link l).st = .up

/-- The state in which it has been taken from the network. -/
def State.taken (s : State) (k : Nat) : State := ((s.take k).map (·.2)).getD s

/-- The instruction parks its slot with a reason, and nothing else changes (15 R313). -/
def Parks (i : Instr) (s : State) (r : Reason) (w : Wait) : Prop := exec i s = .next (s.park r w)

/-- A slot other than the one that runs is as before. -/
def OthersKept (s t : State) : Prop := ∀ w : Who, w ≠ s.cur → t.slot w = s.slot w

/-- What a slot holds beside its five register files and its program counter: control registers, queues, contexts (02 R36 to R38). -/
def Slot.SpecialKept (a b : Slot) : Prop :=
  b.flags = a.flags ∧ b.fen = a.fen ∧ b.rmode = a.rmode ∧ b.tbm = a.tbm ∧ b.tmr = a.tmr ∧ b.tvec = a.tvec ∧
  b.tcause = a.tcause ∧ b.tval = a.tval ∧ b.epc = a.epc ∧ b.tsave = a.tsave ∧ b.sup = a.sup ∧ b.errq = a.errq ∧
  b.storeQ = a.storeQ ∧ b.resv = a.resv ∧ b.outst = a.outst ∧ b.streams = a.streams ∧ b.cctx = a.cctx ∧ b.mctx = a.mctx ∧
  b.xctx = a.xctx ∧ b.tctx = a.tctx

/-- Everything of the module but its cores is as before: memory, slices, network, links, views, host. -/
def OffCoresKept (s t : State) : Prop := t = { s with cores := t.cores }

/-- Everything of a core but its slots is as before, in every core: scratchpads, tags, counters, queues, caches. -/
def CoresKept (s t : State) : Prop := ∀ c : CoreId, { t.core c with slots := (s.core c).slots } = s.core c

/-! ## The form every step keeps -/

/-- Global memory and the host's memory are in canonical form. -/
def State.MemOk (s : State) : Prop := s.mem.wf = true ∧ s.hostMem.wf = true

/-- Every scratchpad and every B-store is in canonical form. -/
def State.PadsOk (s : State) : Prop := (∀ x ∈ s.cores, x.2.sp.wf = true) ∧ ∀ x ∈ s.engines, x.2.bstore.wf = true

/-- The module goes on: it is powered, or something comes from outside (18 R392). -/
def State.Live (s : State) : Prop := s.powered = true ∨ s.agenda ≠ []

end Sys2Proof.Machine
end

