-- ==== Sys2Proof/Certificates/Slice0/Obligations.lean ====
section
/-! DEFINITION. The statements for the provers. -/

open Sys2Proof Sys2Proof.Machine

/-! ## Integer instructions (09 R185 to R192) -/

/-- 09 R185, R186: the integer arithmetic of major 0x01. A zero divisor gives a quotient of all ones and the dividend as remainder. -/
def Obligations.IntegerArithmetic : Prop :=
  ∀ (h : Hdr) (d a b c : SReg) (s : State), Runs h s →
    Completes (.add h d a b) s (fun sl => sl.ws d (sl.rs a + sl.rs b)) ∧
    Completes (.sub h d a b) s (fun sl => sl.ws d (sl.rs a - sl.rs b)) ∧
    Completes (.mul h d a b) s (fun sl => sl.ws d (sl.rs a * sl.rs b)) ∧
    Completes (.mulh h d a b) s (fun sl => sl.ws d (BitVec.ofInt 64 ((sl.rs a).toInt * (sl.rs b).toInt / 2 ^ 64))) ∧
    Completes (.umulh h d a b) s (fun sl => sl.ws d (BitVec.ofNat 64 ((sl.rs a).toNat * (sl.rs b).toNat / 2 ^ 64))) ∧
    Completes (.div h d a b) s (fun sl => sl.ws d (if sl.rs b = 0 then BitVec.allOnes 64 else (sl.rs a).sdiv (sl.rs b))) ∧
    Completes (.udiv h d a b) s (fun sl => sl.ws d (if sl.rs b = 0 then BitVec.allOnes 64 else sl.rs a / sl.rs b)) ∧
    Completes (.rem h d a b) s (fun sl => sl.ws d (if sl.rs b = 0 then sl.rs a else (sl.rs a).srem (sl.rs b))) ∧
    Completes (.urem h d a b) s (fun sl => sl.ws d (if sl.rs b = 0 then sl.rs a else sl.rs a % sl.rs b)) ∧
    Completes (.min h d a b) s (fun sl => sl.ws d (if (sl.rs a).slt (sl.rs b) then sl.rs a else sl.rs b)) ∧
    Completes (.max h d a b) s (fun sl => sl.ws d (if (sl.rs a).slt (sl.rs b) then sl.rs b else sl.rs a)) ∧
    Completes (.umin h d a b) s (fun sl => sl.ws d (if sl.rs a < sl.rs b then sl.rs a else sl.rs b)) ∧
    Completes (.umax h d a b) s (fun sl => sl.ws d (if sl.rs a < sl.rs b then sl.rs b else sl.rs a)) ∧
    Completes (.madd h d a b c) s (fun sl => sl.ws d (sl.rs c + sl.rs a * sl.rs b)) ∧
    Completes (.msub h d a b c) s (fun sl => sl.ws d (sl.rs c - sl.rs a * sl.rs b))

/-- 09 R187, R188: logic, shifts, bits, selection and comparison of major 0x02. -/
def Obligations.IntegerLogic : Prop :=
  ∀ (h : Hdr) (d a b : SReg) (k : KReg) (c : Cond) (e : SK) (s : State), Runs h s →
    Completes (.and h d a b) s (fun sl => sl.ws d (sl.rs a &&& sl.rs b)) ∧
    Completes (.or h d a b) s (fun sl => sl.ws d (sl.rs a ||| sl.rs b)) ∧
    Completes (.xor h d a b) s (fun sl => sl.ws d (sl.rs a ^^^ sl.rs b)) ∧
    Completes (.andn h d a b) s (fun sl => sl.ws d (sl.rs a &&& ~~~sl.rs b)) ∧
    Completes (.orn h d a b) s (fun sl => sl.ws d (sl.rs a ||| ~~~sl.rs b)) ∧
    Completes (.shl h d a b) s (fun sl => sl.ws d (sl.rs a <<< ((sl.rs b).toNat % 64))) ∧
    Completes (.shr h d a b) s (fun sl => sl.ws d (sl.rs a >>> ((sl.rs b).toNat % 64))) ∧
    Completes (.sra h d a b) s (fun sl => sl.ws d ((sl.rs a).sshiftRight ((sl.rs b).toNat % 64))) ∧
    Completes (.rol h d a b) s (fun sl => sl.ws d ((sl.rs a).rotateLeft ((sl.rs b).toNat % 64))) ∧
    Completes (.ror h d a b) s (fun sl => sl.ws d ((sl.rs a).rotateRight ((sl.rs b).toNat % 64))) ∧
    Completes (.clz h d a) s (fun sl => sl.ws d (BitVec.ofNat 64 (if sl.rs a = 0 then 64 else 63 - Nat.log2 (sl.rs a).toNat))) ∧
    Completes (.ctz h d a) s (fun sl =>
      sl.ws d (BitVec.ofNat 64 ((List.range 64).takeWhile fun i => !(sl.rs a).getLsbD i).length)) ∧
    Completes (.popc h d a) s (fun sl => sl.ws d (BitVec.ofNat 64 ((List.range 64).filter (sl.rs a).getLsbD).length)) ∧
    Completes (.bswap h d a) s (fun sl => sl.ws d (BitVec.ofNat 64 (leNat (leBytes 8 (sl.rs a).toNat).reverse))) ∧
    Completes (.sel h d a b k) s (fun sl => sl.ws d (if sl.rk k then sl.rs a else sl.rs b)) ∧
    Completes (.cmp h c e a b) s (fun sl => match e with
      | .s r => sl.ws r (if condW c (sl.rs a) (sl.rs b) then 1 else 0)
      | .k r => sl.wk r (condW c (sl.rs a) (sl.rs b)))

/-- 09 R188: what each condition says of two words; `cmp` and `cmpi` put the truth value in a predicate register or 1 or 0 in a scalar
register, and into k0 or s0 nothing; a condition code above 9 in the word of either is an illegal subfield, sub-cause 7. -/
def Obligations.Comparison : Prop :=
  (∀ a b : Word,
    (condW .eq a b = true ↔ a = b) ∧ (condW .ne a b = true ↔ a ≠ b) ∧
    (condW .lt a b = true ↔ a.toInt < b.toInt) ∧ (condW .ge a b = true ↔ b.toInt ≤ a.toInt) ∧
    (condW .ltu a b = true ↔ a.toNat < b.toNat) ∧ (condW .geu a b = true ↔ b.toNat ≤ a.toNat) ∧
    (condW .le a b = true ↔ a.toInt ≤ b.toInt) ∧ (condW .gt a b = true ↔ b.toInt < a.toInt) ∧
    (condW .leu a b = true ↔ a.toNat ≤ b.toNat) ∧ (condW .gtu a b = true ↔ b.toNat < a.toNat)) ∧
  (∀ (h : Hdr) (c : Cond) (d a b : SReg) (k : KReg) (i : BitVec 44) (s : State), Runs h s →
    Completes (.cmp h c (.k k) a b) s (fun sl => if k = 0 then sl else sl.wk k (condW c (sl.rs a) (sl.rs b))) ∧
    Completes (.cmp h c (.s d) a b) s (fun sl => if d = 0 then sl else sl.ws d (if condW c (sl.rs a) (sl.rs b) then 1 else 0)) ∧
    Completes (.cmpi h c (.k k) a i) s (fun sl => if k = 0 then sl else sl.wk k (condW c (sl.rs a) (i.signExtend 64))) ∧
    Completes (.cmpi h c (.s d) a i) s
      (fun sl => if d = 0 then sl else sl.ws d (if condW c (sl.rs a) (i.signExtend 64) then 1 else 0))) ∧
  (∀ (h : Hdr) (c : Cond) (e : SK) (a b : SReg) (i : BitVec 44) (w : IWord),
    (decode w = .ok (.cmp h c e a b) → ∀ x : BitVec 8, 9 < x.toNat →
      (decode ((w &&& ~~~(0xFF#96 <<< 32)) ||| (x.setWidth 96 <<< 32))).mapError Illegal.sub = .error 7) ∧
    (decode w = .ok (.cmpi h c e a i) → ∀ x : BitVec 4, 9 < x.toNat →
      (decode ((w &&& ~~~(0xF#96 <<< 44)) ||| (x.setWidth 96 <<< 44))).mapError Illegal.sub = .error 7))

/-- 09 R189 to R191: the immediate forms of major 0x03. -/
def Obligations.IntegerImmediate : Prop :=
  ∀ (h : Hdr) (d a : SReg) (b : Option SReg) (x : BitVec 48) (y : BitVec 16) (n p : BitVec 6) (sh : BitVec 3) (z : BitVec 45)
    (c : Cond) (e : SK) (i : BitVec 44) (sg : Bool) (s : State), Runs h s →
    Completes (.addi h d a x) s (fun sl => sl.ws d (sl.rs a + x.signExtend 64)) ∧
    Completes (.andi h d a x) s (fun sl => sl.ws d (sl.rs a &&& x.signExtend 64)) ∧
    Completes (.ori h d a x) s (fun sl => sl.ws d (sl.rs a ||| x.signExtend 64)) ∧
    Completes (.xori h d a x) s (fun sl => sl.ws d (sl.rs a ^^^ x.signExtend 64)) ∧
    Completes (.shli h d a n) s (fun sl => sl.ws d (sl.rs a <<< n.toNat)) ∧
    Completes (.shri h d a n) s (fun sl => sl.ws d (sl.rs a >>> n.toNat)) ∧
    Completes (.srai h d a n) s (fun sl => sl.ws d ((sl.rs a).sshiftRight n.toNat)) ∧
    Completes (.li h d x) s (fun sl => sl.ws d (x.signExtend 64)) ∧
    Completes (.lih h d a y) s (fun sl => sl.ws d (BitVec.ofNat 64 (y.toNat * 2 ^ 48 + (sl.rs a).toNat % 2 ^ 48))) ∧
    Completes (.lea h d a b sh z) s (fun sl =>
      sl.ws d (sl.rs a + (match b with | some r => sl.rs r <<< sh.toNat | none => 0) + z.signExtend 64)) ∧
    Completes (.cmpi h c e a i) s (fun sl => match e with
      | .s r => sl.ws r (if condW c (sl.rs a) (i.signExtend 64) then 1 else 0)
      | .k r => sl.wk r (condW c (sl.rs a) (i.signExtend 64))) ∧
    Completes (.ext h sg d a p n) s (fun sl =>
      let y := (sl.rs a).toNat / 2 ^ p.toNat % 2 ^ (n.toNat + 1)
      sl.ws d (if sg then BitVec.ofInt 64 (BitVec.ofNat (n.toNat + 1) y).toInt else BitVec.ofNat 64 y)) ∧
    Completes (.ins h d a p n) s (fun sl =>
      let m : Word := BitVec.ofNat 64 ((2 ^ (n.toNat + 1) - 1) * 2 ^ p.toNat)
      sl.ws d ((sl.rs d &&& ~~~m) ||| ((sl.rs a <<< p.toNat) &&& m)))

/-- 09 R192: the predicate instructions of major 0x04, the one that writes all eight, and the one that reads all eight. -/
def Obligations.Predicates : Prop :=
  ∀ (h : Hdr) (d a b : KReg) (r : SReg) (n : BitVec 6) (s : State), Runs h s →
    Completes (.pand h d a b) s (fun sl => sl.wk d (sl.rk a && sl.rk b)) ∧
    Completes (.por h d a b) s (fun sl => sl.wk d (sl.rk a || sl.rk b)) ∧
    Completes (.pxor h d a b) s (fun sl => sl.wk d (sl.rk a != sl.rk b)) ∧
    Completes (.pandn h d a b) s (fun sl => sl.wk d (sl.rk a && !sl.rk b)) ∧
    Completes (.psetb h d r n) s (fun sl => sl.wk d ((sl.rs r).getLsbD n.toNat)) ∧
    Completes (.pgetb h r a) s (fun sl => sl.ws r (if sl.rk a then 1 else 0)) ∧
    (∃ t, exec (.psetbAll h r) s = .next t ∧ (∀ k : KReg, k ≠ 0 → (t.slot s.cur).rk k = (s.me.rs r).getLsbD k.val) ∧
      (t.slot s.cur).rk 0 = true ∧ (t.slot s.cur).s = s.me.s) ∧
    (∃ t, exec (.pgetbAll h r) s = .next t ∧ (r ≠ 0 → ∀ i < 64, ((t.slot s.cur).rs r).getLsbD i =
      if q : i < 8 then s.me.rk ⟨i, q⟩ else false) ∧ (t.slot s.cur).k = s.me.k)

/-- 02 R36: s0 reads as zero and k0 as true, and a write to either changes nothing. -/
def Obligations.WiredRegisters : Prop :=
  ∀ (sl : Slot) (x : Word) (q : Bool),
    sl.rs 0 = 0 ∧ sl.rk 0 = true ∧ sl.ws 0 x = sl ∧ sl.wk 0 q = sl ∧
    (∀ r : SReg, r ≠ 0 → (sl.ws r x).rs r = x ∧ ∀ r' : SReg, r' ≠ r → (sl.ws r x).rs r' = sl.rs r') ∧
    (∀ r : KReg, r ≠ 0 → (sl.wk r q).rk r = q ∧ ∀ r' : KReg, r' ≠ r → (sl.wk r q).rk r' = sl.rk r')

/-! ## Scalar floating instructions (09 R194 to R204) -/

/-- 03 R48, 09 R194: the operation computed exactly and rounded once in the direction of the instruction, with its flags. Stated for
slots with no enabled exception; `FpExceptions` has the others. -/
def Obligations.FloatArithmetic : Prop :=
  ∀ (h : Hdr) (t : ETy) (m : Rnd) (d a b c : FReg) (s : State), AtHome h s → s.me.fen = 0 →
    let dir := rndDir m s.me.rmode
    let x := s.me.fval t a
    let y := s.me.fval t b
    let z := s.me.fval t c
    let rounds (i : Instr) (r : FRes) : Prop :=
      CompletesFp i s (finish t dir r).2 (fun sl => sl.wf d (BitVec.ofNat 64 (finish t dir r).1))
    rounds (.fadd h t m d a b) (fAdd dir x y) ∧ rounds (.fsub h t m d a b) (fAdd dir x y.neg) ∧
    rounds (.fmul h t m d a b) (fMul x y) ∧ rounds (.fdiv h t m d a b) (fDiv x y) ∧ rounds (.fsqrt h t m d a) (fSqrt x) ∧
    rounds (.ffma h t m d a b c) (fFma dir false false x y z) ∧ rounds (.ffms h t m d a b c) (fFma dir false true x y z) ∧
    rounds (.fnma h t m d a b c) (fFma dir true false x y z)

/-- 09 R195 to R198: minimum and maximum, signs, comparison, class and selection. -/
def Obligations.FloatComparisons : Prop :=
  ∀ (h : Hdr) (t : ETy) (d a b : FReg) (r : SReg) (k : KReg) (e : SK) (c : FCond) (g : SgnMode) (s : State),
    AtHome h s → s.me.fen = 0 →
    let sign (neg : Bool) : Word := BitVec.ofNat 64 (s.me.fbits t a % 2 ^ signPos t + if neg then 2 ^ signPos t else 0)
    let lo := fMinMax (fmtOf t) false (s.me.fbits t a) (s.me.fbits t b)
    let hi := fMinMax (fmtOf t) true (s.me.fbits t a) (s.me.fbits t b)
    let q := fCmp c (s.me.fval t a) (s.me.fval t b)
    CompletesFp (.fmin h t d a b) s lo.2 (fun sl => sl.wf d (BitVec.ofNat 64 lo.1)) ∧
    CompletesFp (.fmax h t d a b) s hi.2 (fun sl => sl.wf d (BitVec.ofNat 64 hi.1)) ∧
    Completes (.fabs h t d a) s (fun sl => sl.wf d (sign false)) ∧
    Completes (.fneg h t d a) s (fun sl => sl.wf d (sign (!s.me.fsign t a))) ∧
    Completes (.fsgnj h t g d a b) s (fun sl => sl.wf d (sign (match g with
      | .cp => s.me.fsign t b
      | .neg => !s.me.fsign t b
      | .xor => s.me.fsign t a != s.me.fsign t b))) ∧
    CompletesFp (.fcmp h t c e a b) s q.2 (fun sl => match e with
      | .s r => sl.ws r (if q.1 then 1 else 0)
      | .k r => sl.wk r q.1) ∧
    Completes (.fclass h t r a) s (fun sl => sl.ws r (1#64 <<< fClass (fmtOf t) (sl.fval t a))) ∧
    Completes (.fsel h d a b k) s (fun sl => sl.wf d (if sl.rk k then sl.rf a else sl.rf b))

/-- 09 R199 to R203: conversions, moves between the files, literals, and the two instructions on flags and enables. -/
def Obligations.FloatConversions : Prop :=
  ∀ (h : Hdr) (t u : ETy) (i : IDst) (nat : Bool) (m : Rnd) (d a : FReg) (r q : SReg) (x : BitVec 32) (y : BitVec 47) (s : State),
    AtHome h s → s.me.fen = 0 →
    let dir := rndDir m s.me.rmode
    let cv := finish t dir (tyDecode u (s.me.fbits u a), sigFlag [tyDecode u (s.me.fbits u a)])
    let iv := toInt dir (idstRange i).1 (idstRange i).2 (s.me.fval t a)
    let fv := tyEncode t dir (.ofInt (if nat then (s.me.rs r).toNat else (s.me.rs r).toInt))
    (isInt t = false → CompletesFp (.fcvt h t u m d a) s cv.2 (fun sl => sl.wf d (BitVec.ofNat 64 cv.1))) ∧
    CompletesFp (.fcvti h t i m q a) s iv.2 (fun sl => sl.ws q (BitVec.ofInt 64 iv.1)) ∧
    CompletesFp (.ficvt h t nat m d r) s fv.2 (fun sl => sl.wf d (BitVec.ofNat 64 fv.1)) ∧
    Completes (.fmvs h q a) s (fun sl => sl.ws q (sl.rf a)) ∧
    Completes (.fmvf h d r) s (fun sl => sl.wf d (sl.rs r)) ∧
    Completes (.fliFp32 h d x) s (fun sl => sl.wf d (BitVec.ofNat 64 x.toNat)) ∧
    Completes (.fliFp64 h d y) s (fun sl => sl.wf d (BitVec.ofNat 64 (y.toNat * 2 ^ 17))) ∧
    Completes (.fflg h q r) s (fun sl =>
      ({ sl with flags := sl.flags &&& ~~~((sl.rs r).setWidth 5) }).ws q (BitVec.ofNat 64 sl.flags.toNat)) ∧
    Completes (.fenw h q r) s (fun sl => ({ sl with fen := (sl.rs r).setWidth 5 }).ws q (BitVec.ofNat 64 sl.fen.toNat))

/-- 09 R204, 17 R374: a scalar floating instruction that raises an enabled flag still writes its result and its flags, then parks its slot
with reason fp exception and `epc` at the next instruction. Stated for slots that are in no handler. -/
def Obligations.FpExceptions : Prop :=
  ∀ (h : Hdr) (t u : ETy) (i : IDst) (nat : Bool) (m : Rnd) (d a b c : FReg) (r q : SReg) (e : SK) (k : FCond) (s : State), AtHome h s →
    s.me.state ≠ .handler → s.modes.fpException = false →
    let dir := rndDir m s.me.rmode
    let x := s.me.fval t a
    let y := s.me.fval t b
    let z := s.me.fval t c
    let excepts (j : Instr) (fl : FFlags) (f : Slot → Slot) : Prop := fl &&& s.me.fen ≠ 0 → ∃ v, exec j s = .next v ∧
      (v.slot s.cur).s = (f s.me).s ∧ (v.slot s.cur).f = (f s.me).f ∧ (v.slot s.cur).k = (f s.me).k ∧
      (v.slot s.cur).flags = s.me.flags ||| fl ∧ (v.slot s.cur).state = .parked ∧ (v.slot s.cur).reason = .fpException ∧
      (v.slot s.cur).epc = s.me.pc + 1 ∧ (v.slot s.cur).wait = .fpEx (fl &&& s.me.fen) s.me.pc
    let rounds (j : Instr) (o : FRes) : Prop := excepts j (finish t dir o).2 (fun sl => sl.wf d (BitVec.ofNat 64 (finish t dir o).1))
    let lo := fMinMax (fmtOf t) false (s.me.fbits t a) (s.me.fbits t b)
    let hi := fMinMax (fmtOf t) true (s.me.fbits t a) (s.me.fbits t b)
    let cv := finish t dir (tyDecode u (s.me.fbits u a), sigFlag [tyDecode u (s.me.fbits u a)])
    let iv := toInt dir (idstRange i).1 (idstRange i).2 x
    let fv := tyEncode t dir (.ofInt (if nat then (s.me.rs r).toNat else (s.me.rs r).toInt))
    rounds (.fadd h t m d a b) (fAdd dir x y) ∧ rounds (.fsub h t m d a b) (fAdd dir x y.neg) ∧
    rounds (.fmul h t m d a b) (fMul x y) ∧ rounds (.fdiv h t m d a b) (fDiv x y) ∧ rounds (.fsqrt h t m d a) (fSqrt x) ∧
    rounds (.ffma h t m d a b c) (fFma dir false false x y z) ∧ rounds (.ffms h t m d a b c) (fFma dir false true x y z) ∧
    rounds (.fnma h t m d a b c) (fFma dir true false x y z) ∧
    excepts (.fmin h t d a b) lo.2 (fun sl => sl.wf d (BitVec.ofNat 64 lo.1)) ∧
    excepts (.fmax h t d a b) hi.2 (fun sl => sl.wf d (BitVec.ofNat 64 hi.1)) ∧
    excepts (.fcmp h t k e a b) (fCmp k x y).2 (fun sl => match e with
      | .s p => sl.ws p (if (fCmp k x y).1 then 1 else 0)
      | .k p => sl.wk p (fCmp k x y).1) ∧
    (isInt t = false → excepts (.fcvt h t u m d a) cv.2 (fun sl => sl.wf d (BitVec.ofNat 64 cv.1))) ∧
    excepts (.fcvti h t i m q a) iv.2 (fun sl => sl.ws q (BitVec.ofInt 64 iv.1)) ∧
    excepts (.ficvt h t nat m d r) fv.2 (fun sl => sl.wf d (BitVec.ofNat 64 fv.1))

/-! ## The scratchpad (08 R171 to R182) -/

/-- 08 R173, R178: a local load reads its bytes of the scratchpad into its destination, and a local store writes them. -/
def Claims.LocalLoadsStores : Prop :=
  ∀ (h : Hdr) (a r : SReg) (d : SF) (v : VReg) (m : MemArgs) (s : State), AtHome h s → NoRelease s →
    let x := memAddr s.me a m
    let n := m.width.bytes
    (LocalOk x n m.width.align →
      Completes (.ldl h d a m) s (fun sl => sl.wLoad d.toSFV m.sg (s.myCore.sp.read x.toNat n)) ∧
      exec (.stl h d a m) s =
        .next ((s.modMyCore fun c => { c with sp := c.sp.write x.toNat (s.me.rStore d.toSFV m.width) }).mod fun sl => sl.next)) ∧
    (LocalOk x n m.width.align → NoStreams s →
      Completes (.ldlv h v a m) s (fun sl => sl.wLoad (.v v) m.sg (s.myCore.sp.read x.toNat n)) ∧
      exec (.stlv h v a m) s =
        .next ((s.modMyCore fun c => { c with sp := c.sp.write x.toNat (s.me.rStore (.v v) m.width) }).mod fun sl => sl.next)) ∧
    (LocalOk x (2 * n) n → Completes (.ldlp h r a m) s (fun sl =>
      (sl.wLoad (.s r) m.sg (s.myCore.sp.read x.toNat n)).wLoad (.s (r + 1)) m.sg (s.myCore.sp.read (x.toNat + n) n)))

/-- 08 R173: a local access beyond the scratchpad traps with sub-cause 1, a misaligned one with sub-cause 2, `tval` its address. -/
def Claims.LocalFaults : Prop :=
  ∀ (h : Hdr) (a : SReg) (d : SF) (m : MemArgs) (s : State), AtHome h s → NoRelease s → s.me.state ≠ .handler →
    let x := memAddr s.me a m
    (0x30000 < x.toNat + m.width.bytes → ∀ i ∈ [Instr.ldl h d a m, Instr.stl h d a m],
      exec i s = .next (s.mod fun sl => sl.takeTrap 7 1 x sl.pc)) ∧
    (x.toNat + m.width.bytes ≤ 0x30000 → x.toNat % m.width.align ≠ 0 → ∀ i ∈ [Instr.ldl h d a m, Instr.stl h d a m],
      exec i s = .next (s.mod fun sl => sl.takeTrap 7 2 x sl.pc))

/-- 08 R171, R173, R178: local loads and stores, and their faults. -/
def Obligations.LocalAccesses : Prop := Claims.LocalLoadsStores ∧ Claims.LocalFaults

/-- 08 R172, R174, R179: a tag-waiting form is performed at once where its words carry the tag it waits for, and else parks; the parked
one is performed by the event of the core's tag unit. -/
def Claims.TagForms : Prop :=
  ∀ (h : Hdr) (a : SReg) (d : SFV) (m : MemArgs) (s : State), AtHome h s → NoStreams s → NoRelease s →
    let x := memAddr s.me a m
    let n := m.width.bytes
    let ws := wordsOf x.toNat n
    let c := s.myCore
    LocalOk x n m.width.align →
    ((∀ w ∈ ws, w ∉ c.empties) →
      Completes (.ldf h d a m) s (fun sl => sl.wLoad d m.sg (c.sp.read x.toNat n)) ∧
      exec (.ldfe h d a m) s = .next ((s.modMyCore (·.setTags false ws)).mod fun sl => (sl.wLoad d m.sg (c.sp.read x.toNat n)).next)) ∧
    ((∀ w ∈ ws, w ∈ c.empties) → exec (.stwe h d a m) s =
      .next ((s.modMyCore fun c => ({ c with sp := c.sp.write x.toNat (s.me.rStore d m.width) }).setTags true ws).mod Slot.next)) ∧
    ((∃ w ∈ ws, w ∈ c.empties) → exec (.ldf h d a m) s =
      .next ((s.park .tag (.tag (.ldf d m.width m.sg) x.toNat n)).mod fun sl => { sl with object := BitVec.ofNat 64 x.toNat }))

/-- 08 R171, R172, R174: a parked tag waiter is performed by its core's tag unit where its words carry the tag it waits for, and is left alone
where they do not. Its access takes the place among the core's accesses that one issued in that cycle has, and its slot goes on after that: the
cycle of the return is the model's reading (log entry 49). -/
def Claims.TagWaiters : Prop :=
  ∀ (w : Who) (d : SFV) (wd : Width) (sg : Bool) (x n u : Nat) (s : State), (s.slot w).streams = #v[none, none, none, none] →
    let sl := s.slot w
    let c := s.core w.core
    let ws := wordsOf x n
    let performed (t : State) : Prop := (t.slot w).pc = sl.pc + 1 ∧ (t.slot w).state = sl.state ∧ (t.slot w).reason = sl.reason ∧
      (t.slot w).wait = .tagged (s.cycle + 6)
    let loaded (t : State) : Prop := performed t ∧ (t.slot w).s = (sl.wLoad d sg (c.sp.read x n)).s ∧
      (t.slot w).f = (sl.wLoad d sg (c.sp.read x n)).f ∧ (t.slot w).v = (sl.wLoad d sg (c.sp.read x n)).v ∧ (t.core w.core).sp = c.sp
    ((∀ y ∈ ws, y ∉ c.empties) →
      (sl.wait = .tag (.ldf d wd sg) x n → ∃ t, exec (.tagWaitPerform w) s = .next t ∧ loaded t ∧
        (t.core w.core).empties = c.empties) ∧
      (sl.wait = .tag (.ldfe d wd sg) x n → ∃ t, exec (.tagWaitPerform w) s = .next t ∧ loaded t ∧
        (t.core w.core).empties = (c.setTags false ws).empties)) ∧
    ((∀ y ∈ ws, y ∈ c.empties) → sl.wait = .tag (.stwe d wd) x n → ∃ t, exec (.tagWaitPerform w) s = .next t ∧ performed t ∧
      (t.core w.core).sp = c.sp.write x (sl.rStore d wd) ∧ (t.core w.core).empties = (c.setTags true ws).empties) ∧
    ((∃ y ∈ ws, y ∈ c.empties) → sl.wait = .tag (.ldf d wd sg) x n → exec (.tagWaitPerform w) s = .next s) ∧
    (sl.wait = .tagged u → sl.state ≠ .spilled → u < s.cycle →
      exec (.parkReasonMet w) s = .next (s.modSlot w fun sl => sl.unpark))

/-- 08 R180: the tag-only forms, and the read of a block's 64 tags. -/
def Claims.TagOnly : Prop :=
  ∀ (h : Hdr) (a r : SReg) (m : MemArgs) (s : State), AtHome h s → NoRelease s →
    let x := memAddr s.me a m
    (LocalOk x m.width.bytes (tagAlign m.width) →
      exec (.sete h a m) s = .next ((s.modMyCore (·.setTags false (tagWords x.toNat m.width))).mod Slot.next) ∧
      exec (.setf h a m) s = .next ((s.modMyCore (·.setTags true (tagWords x.toNat m.width))).mod Slot.next)) ∧
    (x.toNat < 0x30000 → r ≠ 0 → ∃ t, exec (.tagrd h r a m) s = .next t ∧
      ∀ i < 64, ((t.slot s.cur).rs r).getLsbD i = s.myCore.isFull (x.toNat / 512 * 64 + i))

/-- 08 R172, R174, R179, R180: the tag-waiting forms, the tag unit's event, the tag-only forms. -/
def Obligations.TagAccesses : Prop := Claims.TagForms ∧ Claims.TagWaiters ∧ Claims.TagOnly

/-- 08 R181: a local atomic replaces its word by the operation's result, and answers the old value zero-extended. -/
def Claims.LocalAtomics : Prop :=
  ∀ (h : Hdr) (op : AmoOp) (d a b : SReg) (m : AmoArgs) (s : State), AtHome h s → NoRelease s →
    let x := amoAddr s.me a m
    let n := m.width.bytes
    let old := s.myCore.sp.num x.toNat n
    let put (y : Nat) : State := s.modMyCore fun c => { c with sp := c.sp.write x.toNat (leBytes n y) }
    LocalOk x n n →
    exec (.lamo h op d a b m) s =
      .next ((put (amoNew op m.width old (s.me.rs b).toNat)).mod fun sl => (sl.ws d (BitVec.ofNat 64 old)).next) ∧
    exec (.lamox h op a b m) s = .next ((put (amoNew op m.width old (s.me.rs b).toNat)).mod Slot.next) ∧
    exec (.lamocas h d a b m) s =
      .next ((put (if old = (s.me.rs d).toNat % 2 ^ (8 * n) then (s.me.rs b).toNat else old)).mod fun sl =>
        (sl.ws d (BitVec.ofNat 64 old)).next)

/-- 08 R175, R182: a link register is written by its own slot and read by any slot of the core. -/
def Claims.LinkRegisters : Prop :=
  ∀ (h : Hdr) (y : YReg) (a d : SReg) (j : SI) (s : State), AtHome h s → NoRelease s →
    Completes (.lkput h y a) s (fun sl => { sl with y := sl.y.set y (sl.rs a) }) ∧
    Completes (.lkget h d j y) s (fun sl => sl.ws d ((s.slot ⟨s.cur.core, Fin.ofNat 16 (s.me.rsi j).toNat⟩).y[y]))

/-- 08 R175, R181, R182: local atomics and link registers. -/
def Obligations.LocalAtomicsAndLinks : Prop := Claims.LocalAtomics ∧ Claims.LinkRegisters

/-! ## Global memory (04 R80 to R97, 06 R140 to R143) -/

/-- The parts of an access, as the request of a parked load carries them. -/
def reqParts (segs : List Seg) : List (Nat × Nat × Nat × Bool) := segs.map fun g => (g.off, g.pa, g.len, g.through)

/-- 04 R86, 14 R294: a load whose bytes all stand in the slot's store queue completes with them; one that overlaps no queued store and
finds nothing in the read-only cache parks with its request. The checks of R81 have passed. -/
def Claims.GlobalLoads : Prop :=
  ∀ (h : Hdr) (a : SReg) (d : SF) (v : VReg) (m : MemArgs) (s : State) (segs : List Seg), AtHome h s → NoStreams s →
    s.carried s.me = false →
    let va := memAddr s.me a m
    s.check s.cur va m.width.bytes .load m.width.align (m.width = .w) = (s, .ok segs) →
    (∀ bs, s.me.forward segs = some bs →
      Completes (.ldg h d a m) s (fun sl => sl.wLoad d.toSFV m.sg bs) ∧
      Completes (.ldgv h v a m) s (fun sl => sl.wLoad (.v v) m.sg bs)) ∧
    (s.me.forward segs = none → s.me.overlapping segs = [] → s.myCore.ro = [] → (∃ g ∈ segs, 0 < g.len) → ∃ ro : Bool,
      Parks (.ldg h d a m) s .globalLoad (.glob ⟨.ld d.toSFV m.width m.sg m.scope false, va, ro, reqParts segs, [], none⟩) ∧
      Parks (.ldgv h v a m) s .globalLoad (.glob ⟨.ld (.v v) m.width m.sg m.scope false, va, ro, reqParts segs, [], none⟩))

/-- 04 R86: a store enters the slot's store queue with its bytes, sets the touched-bank bits of its home slices, and completes; with 16
entries queued it parks. -/
def Claims.GlobalStores : Prop :=
  ∀ (h : Hdr) (a : SReg) (d : SF) (v : VReg) (m : MemArgs) (s : State) (segs : List Seg), AtHome h s → NoStreams s →
    s.carried s.me = false →
    let va := memAddr s.me a m
    s.check s.cur va m.width.bytes .store m.width.align (m.width = .w) = (s, .ok segs) →
    let post (bs : List Byte) (sl : Slot) : Slot := { sl with
      storeQ := sl.storeQ ++ [⟨sl.nextStore, none, segs.map fun g => ⟨g.pa, (bs.drop g.off).take g.len, g.through⟩, false, sl.relIds⟩]
      nextStore := sl.nextStore + 1
      tbm := sl.tbm ||| s.tbmOf segs }
    (s.me.storeQ.length < 16 →
      Completes (.stg h d a m) s (post (s.me.rStore d.toSFV m.width)) ∧
      Completes (.stgv h v a m) s (post (s.me.rStore (.v v) m.width))) ∧
    (16 ≤ s.me.storeQ.length →
      Parks (.stg h d a m) s .storeQueue (.again .queue) ∧ Parks (.stgv h v a m) s .storeQueue (.again .queue))

/-- 04 R88: an atomic that returns a value parks until its home slice has executed it; a posted one enters the store queue, a release
where its scope is beyond the slot. -/
def Claims.GlobalAtomics : Prop :=
  ∀ (h : Hdr) (op : AmoOp) (d a b : SReg) (m : AmoArgs) (s : State) (segs : List Seg), Runs h s → s.carried s.me = false →
    let va := amoAddr s.me a m
    let n := m.width.bytes
    s.me.overlapping segs = [] →
    (s.check s.cur va n .atomic n (winAmo (some op) m.width false) = (s, .ok segs) →
      Parks (.amo h op d a b m) s .globalLoad (.glob ⟨.amo op d m.width (s.me.rs b) m.scope, va, false, reqParts segs, [], none⟩)) ∧
    (s.check s.cur va n .atomic n (winAmo none m.width false) = (s, .ok segs) →
      Parks (.amocas h d a b m) s .globalLoad (.glob ⟨.cas d m.width (s.me.rs d) (s.me.rs b) m.scope, va, false, reqParts segs, [], none⟩)) ∧
    (s.check s.cur va n .atomic n (winAmo (some op) m.width true) = (s, .ok segs) → s.me.storeQ.length < 16 →
      Completes (.amox h op a b m) s (fun sl => { sl with
        storeQ := sl.storeQ ++ [⟨sl.nextStore, some (op, sl.rs b),
          segs.map fun g => ⟨g.pa, ((leBytes n (sl.rs b).toNat).drop g.off).take g.len, g.through⟩, m.scope != .slot,
          if m.scope == .fabric then sl.postedIds else sl.relIds⟩]
        nextStore := sl.nextStore + 1
        tbm := sl.tbm ||| s.tbmOf segs }))

/-- 04 R81, R82: the checks of a global access in their order. Beyond 2^48 is the first, at the lowest byte beyond; then, over what the walks of
the pages gave, no valid entry, no permission to write, misalignment, a malformed leaf, a poisoned entry, a place that is none; `tval` is the
lowest byte that meets the condition. Only then are uncommitted pages looked at. That the lowest byte of a page stands for the page, and that a
malformed leaf is not asked whether it may be written, is the model's reading (log entry 36). -/
def Claims.CheckOrder : Prop :=
  (∀ (w : Who) (va : Word) (n align : Nat) (k : AccKind) (win : Bool) (s : State),
    (2 ^ 48 ≤ va.toNat → s.check w va n k align win = (s, .trap 1 va)) ∧
    (va.toNat < 2 ^ 48 → 2 ^ 48 < va.toNat + n → s.check w va n k align win = (s, .trap 1 (BitVec.ofNat 64 (2 ^ 48)))) ∧
    (∀ f : Nat → Walk, va.toNat + n ≤ 2 ^ 48 → va.toNat < 2 ^ 48 →
      (∀ p ∈ pagesOf va.toNat n, (s.slot w).walks.find? (fun r => r.1 == p) = some (p, f p)) →
      s.check w va n k align win = (s, checkWith va.toNat n k align win ((pagesOf va.toNat n).map fun p => (p, f p))))) ∧
  (∀ (a n align : Nat) (k : AccKind) (win : Bool) (rs : List (Nat × Walk)),
    let byte (p : Nat) : Word := BitVec.ofNat 64 (max a (p * 32768))
    let none_ (f : Nat × Walk → Prop) : Prop := ∀ r ∈ rs, ¬ f r
    let first (f : Nat × Walk → Prop) (sub : Nat) : Prop := ∀ l r m, rs = l ++ r :: m → f r → (∀ x ∈ l, ¬ f x) →
      checkWith a n k align win rs = .trap sub (byte r.1)
    let invalid (r : Nat × Walk) : Prop := r.2 = .fault 2
    let fixed (r : Nat × Walk) : Prop := (k = .store ∨ k = .atomic) ∧ ∃ e, e.getLsbD 59 = false ∧ (r.2 = .sparse e ∨ ∃ z, r.2 = .leaf e z)
    let malformed (r : Nat × Walk) : Prop := r.2 = .fault 5
    let poisoned (r : Nat × Walk) : Prop := r.2 = .fault 6
    let misplaced (r : Nat × Walk) : Prop := ∃ e z, r.2 = .leaf e z ∧ badPa win (paOf e z (max a (r.1 * 32768))) = true
    first invalid 2 ∧
    (none_ invalid → first fixed 3) ∧
    (none_ invalid → none_ fixed → a % align ≠ 0 → checkWith a n k align win rs = .trap 4 (BitVec.ofNat 64 a)) ∧
    (none_ invalid → none_ fixed → a % align = 0 → first malformed 5) ∧
    (none_ invalid → none_ fixed → a % align = 0 → none_ malformed → first poisoned 6) ∧
    (none_ invalid → none_ fixed → a % align = 0 → none_ malformed → none_ poisoned → first misplaced 9) ∧
    (none_ invalid → none_ fixed → a % align = 0 → none_ malformed → none_ poisoned → none_ misplaced →
      ((∃ r ∈ rs, ∃ e, r.2 = .sparse e) → ∃ ps, checkWith a n k align win rs = .sparse ps) ∧
      ((∀ r ∈ rs, ∀ e, r.2 ≠ .sparse e) → ∃ segs, checkWith a n k align win rs = .ok segs)))

/-- 04 R81: what the check of a global access answers is what its instruction does: a trap of class 4 with that sub-cause and `tval`, before any
effect, or a park where a page's translation is missing. -/
def Claims.GlobalFaults : Prop :=
  ∀ (h : Hdr) (a : SReg) (d : SF) (m : MemArgs) (s : State), AtHome h s → s.me.state ≠ .handler →
    let va := memAddr s.me a m
    (2 ^ 48 ≤ va.toNat → ∀ i ∈ [Instr.ldg h d a m, Instr.stg h d a m],
      exec i s = .next (s.mod fun sl => sl.takeTrap 4 1 va sl.pc)) ∧
    (∀ sub x, s.check s.cur va m.width.bytes .load m.width.align (m.width = .w) = (s, .trap sub x) →
      exec (.ldg h d a m) s = .next (s.mod fun sl => sl.takeTrap 4 sub x sl.pc)) ∧
    (∀ sub x, s.check s.cur va m.width.bytes .store m.width.align (m.width = .w) = (s, .trap sub x) →
      exec (.stg h d a m) s = .next (s.mod fun sl => sl.takeTrap 4 sub x sl.pc)) ∧
    (s.check s.cur va m.width.bytes .load m.width.align (m.width = .w) = (s, .miss) →
      Parks (.ldg h d a m) s .translate (.again (.walk va m.width.bytes .load m.width.align)))

/-- The `k` parts of a parked access are performed one after another, and then its slot returns. -/
def Served (w : Who) (k : Nat) : State → State → Prop :=
  Leads (List.replicate k (.globalAccessAtSlice (.load w 0)) ++ [.parkReasonMet w])

/-- 04 R86, R88, 06 R142: a load whose pages are mapped completes, once its parts have been performed, with the bytes memory holds, at the next pc; a
store with its bytes in memory; an atomic with the old value and the operation's result in memory. Stated for a slot with nothing posted,
where no word is poisoned and the read-only cache holds nothing. -/
def Claims.GlobalCompletions : Prop :=
  ∀ (h : Hdr) (op : AmoOp) (a b d : SReg) (e : SF) (c : SFV) (v : VReg) (m : MemArgs) (q : AmoArgs) (s : State), AtHome h s →
    NoStreams s → s.me.Quiet → s.mem.wf = true → s.poison = [] → s.myCore.ro = [] →
    let va := memAddr s.me a m
    let n := m.width.bytes
    let y := amoAddr s.me a q
    let k := q.width.bytes
    let ls := s.placed va n
    let w := s.cur
    let loads (i : Instr) (r : SFV) (t u : State) : Prop := exec i s = .next t ∧ Served w ls.length t u ∧
      (u.slot w).s = (s.me.wLoad r m.sg (s.bytesAt ls)).s ∧ (u.slot w).f = (s.me.wLoad r m.sg (s.bytesAt ls)).f ∧
      (u.slot w).v = (s.me.wLoad r m.sg (s.bytesAt ls)).v ∧ (u.slot w).pc = s.me.pc + 1 ∧ u.mem = s.mem
    let stores (i : Instr) (bs : List Byte) (t u : State) : Prop := exec i s = .next t ∧
      Leads (List.replicate ls.length (.globalAccessAtSlice (.store w 0 0))) t u ∧ (t.slot w).pc = s.me.pc + 1 ∧
      (u.slot w).storeQ = [] ∧ u.mem = ls.foldl (fun (x : Memory) (g : Seg) => x.write g.pa ((bs.drop g.off).take g.len)) s.mem
    let atomic (i : Instr) (then_ : State → State → Prop) (new : Nat → Nat) (g : Seg) (t u : State) : Prop := exec i s = .next t ∧
      then_ t u ∧ (u.slot w).pc = s.me.pc + 1 ∧ u.mem = s.mem.write g.pa (leBytes k (new (s.mem.num g.pa k)))
    (s.Maps va n m.width.align false → s.Open ls →
      (∃ t u, loads (.ldg h e a m) e.toSFV t u) ∧ (∃ t u, loads (.ldgv h v a m) (.v v) t u)) ∧
    (s.Maps va n m.width.align true → s.Open ls →
      (∃ t u, stores (.stg h e a m) (s.me.rStore e.toSFV m.width) t u) ∧
      (∃ t u, stores (.stgv h v a m) (s.me.rStore (.v v) m.width) t u)) ∧
    (s.Maps va n n false → s.Open ls → ls.length = 1 → ∃ t u, loads (.ldres h c a m) c t u ∧
      ∀ g ∈ ls, ∃ r ∈ (u.slot w).resv, r.line = g.pa / 128 * 128) ∧
    (∀ g, q.width = .w ∨ q.width = .d → s.Maps y k k true → s.placed y k = [g] → s.Open [g] →
      (∃ t u, atomic (.amo h op d a b q) (Served w 1) (fun o => amoNew op q.width o (s.me.rs b).toNat) g t u ∧
        (d ≠ 0 → (u.slot w).rs d = BitVec.ofNat 64 (s.mem.num g.pa k))) ∧
      (∃ t u, atomic (.amocas h d a b q) (Served w 1)
        (fun o => if o = (s.me.rs d).toNat % 2 ^ (8 * k) then (s.me.rs b).toNat else o) g t u ∧
        (d ≠ 0 → (u.slot w).rs d = BitVec.ofNat 64 (s.mem.num g.pa k))) ∧
      ∃ t u, atomic (.amox h op a b q) (Leads [.globalAccessAtSlice (.store w 0 0)]) (fun o => amoNew op q.width o (s.me.rs b).toNat) g t u)

/-- 04 R81, R86, R88: global loads, stores and atomics, and their faults. -/
def Obligations.GlobalAccesses : Prop :=
  Claims.GlobalLoads ∧ Claims.GlobalStores ∧ Claims.GlobalAtomics ∧ Claims.CheckOrder ∧ Claims.GlobalFaults ∧ Claims.GlobalCompletions

/-- 14 R291, 04 R86: a queued store of one part, performed at its home slice in HBM4, puts its bytes there and changes no other byte of
global memory; the entry leaves the queue. -/
def Claims.StorePerformed : Prop :=
  ∀ (w : Who) (e : StoreEntry) (p : StorePart) (rest : List StoreEntry) (s : State),
    s.mem.wf = true → s.poison = [] → (s.slot w).storeQ = e :: rest → e.op = none → e.parts = [p] → inWindow p.pa = false →
    s.storeReady w 0 0 = true → s.way (some w.core.stack) p.pa = .clear →
    ∃ t, exec (.globalAccessAtSlice (.store w 0 0)) s = .next t ∧ (t.slot w).storeQ = rest ∧
      ∀ a, t.mem.get a = if h : p.pa ≤ a ∧ a < p.pa + p.data.length then p.data[a - p.pa]'(by omega) else s.mem.get a

/-- 04 R86, R88: a parked load of one part, performed at its home slice in HBM4, has its bytes as the answer; an atomic has the old bytes
as the answer and leaves the operation's result in memory. The event that ends the park writes the register. -/
def Claims.LoadPerformed : Prop :=
  ∀ (w : Who) (r : GReq) (off pa n : Nat) (thr : Bool) (s : State), (s.slot w).wait = .glob r → r.parts = [(off, pa, n, thr)] →
    r.got = [] → r.bad = none → inWindow pa = false → s.poison = [] → s.loadReady w 0 = true →
    s.way (some w.core.stack) pa = .clear →
    (∀ d wd sg sc, r.op = .ld d wd sg sc false → r.ro = false →
      ∃ t, exec (.globalAccessAtSlice (.load w 0)) s = .next t ∧ t.mem = s.mem ∧
        (t.slot w).reply = some (.data (s.mem.read pa n))) ∧
    (∀ op d wd x, r.op = .amo op d wd x .slot → ∃ t, exec (.globalAccessAtSlice (.load w 0)) s = .next t ∧
      t.mem = (s.gwrite pa (leBytes n (amoNew op wd (s.mem.num pa n) x.toNat)) thr).mem ∧
      (t.slot w).reply = some (.data (s.mem.read pa n)))

/-- 15 R313, 04 R86: a slot parked for a global load returns with its destination written once its answer is there. -/
def Claims.LoadAnswered : Prop :=
  ∀ (w : Who) (r : GReq) (bs : List Byte) (s : State), (s.slot w).wait = .glob r → (s.slot w).reply = some (.data bs) →
    (s.slot w).state ≠ .spilled →
    (∀ d wd sg sc res, r.op = .ld d wd sg sc res →
      exec (.parkReasonMet w) s = .next (s.modSlot w fun sl => (sl.unpark.wLoad d sg bs).next)) ∧
    (∀ op d wd x sc, r.op = .amo op d wd x sc →
      exec (.parkReasonMet w) s = .next (s.modSlot w fun sl => (sl.unpark.ws d (BitVec.ofNat 64 (leNat bs))).next))

/-- 04 R86, R88, 14 R291, 15 R313: accesses performed at their home slices, and the slots that return. -/
def Obligations.GlobalEvents : Prop := Claims.StorePerformed ∧ Claims.LoadPerformed ∧ Claims.LoadAnswered

/-- 04 R89, R90: a prefetch completes and changes no slot but its own; a fence at slot scope completes, and at a wider scope parks to
probe every slice group whose touched-bank bit is set. -/
def Claims.Fences : Prop :=
  ∀ (h : Hdr) (sc : Scope) (ro : Bool) (a : SReg) (off : BitVec 41) (s : State), Runs h s →
    Completes (.pref h false a off) s id ∧
    (s.myCore.tlb = [] → Completes (.pref h ro a off) s id) ∧
    Completes (.fence h .slot) s id ∧
    (sc ≠ .slot → exec (.fence h sc) s = .next ((s.park .fence
      (.fence sc ((List.finRange 48).filter fun g => s.me.tbm.getLsbD g.val) [])).mod fun sl =>
        { sl with object := s.me.tbm.setWidth 64 }))

/-- 04 R90: a probe moves its group from the groups to probe to those probed; an echo of a group that the slot's earlier writes have left
takes it off; with all echoes back the fence ends, its touched-bank bits cleared but for the remote one, the read-only cache emptied. -/
def Claims.FenceSteps : Prop :=
  ∀ (w : Who) (sc : Scope) (un pr : List (Fin 48)) (g : Fin 48) (s : State), (s.slot w).wait = .fence sc un pr →
    (g ∈ un → exec (.fenceProbe w g) s =
      .next (s.modSlot w fun sl => { sl with wait := .fence sc (un.filter (· ≠ g)) (pr ++ [g]) })) ∧
    (g ∈ pr → s.groupClean w g = true → exec (.fenceEcho w g) s =
      .next (s.modSlot w fun sl => { sl with wait := .fence sc un (pr.filter (· ≠ g)) })) ∧
    (un = [] → pr = [] → sc = .mdl → (s.slot w).state ≠ .spilled → (s.slot w).incs = [] → (s.slot w).carry = [] → ∃ t, exec (.parkReasonMet w) s = .next t ∧
      (t.slot w).tbm = (s.slot w).tbm &&& (1#49 <<< 48) ∧ (t.core w.core).ro = [] ∧ (t.slot w).pc = (s.slot w).pc + 1)

/-- 04 R90, 14 R297: a fence wider than the slot completes: it probes every slice group whose touched-bank bit is set, their echoes come back, and
its slot goes on with the touched-bank bits clear, but for the remote one below fabric scope, and from cluster scope on with the
read-only cache empty. Stated for a slot with nothing posted and no remote error, the network empty. -/
def Claims.FenceCompletes : Prop :=
  ∀ (h : Hdr) (sc : Scope) (s : State), AtHome h s → s.me.Quiet → s.me.errq = [] → s.net = [] → s.me.state ≠ .spilled → sc ≠ .slot →
    let w := s.cur
    let gs := (List.finRange 48).filter fun g => s.me.tbm.getLsbD g.val
    ∃ t, Leads (.fence h sc :: gs.map (.fenceProbe w ·) ++ gs.map (.fenceEcho w ·) ++ [.parkReasonMet w]) s t ∧
      (t.slot w).pc = s.me.pc + 1 ∧ (t.slot w).tbm = (if sc = .fabric then 0#49 else s.me.tbm &&& (1#49 <<< 48)) ∧
      (t.slot w).s = s.me.s ∧ (t.core w.core).ro = (if sc = .core then s.myCore.ro else []) ∧ t.mem = s.mem

/-- 04 R89, R90: prefetches and fences. -/
def Obligations.FenceForms : Prop := Claims.Fences ∧ Claims.FenceSteps ∧ Claims.FenceCompletes

/-- 06 R140 to R143: a reserving load parks with a request that reserves; `cmstore` with a bad count or address answers 4 and clears the
reservation set at once. -/
def Claims.Reservations : Prop :=
  ∀ (h : Hdr) (d : SReg) (a b : SReg) (m : MemArgs) (sc : Scope) (off : BitVec 41) (s : State) (segs : List Seg), Runs h s →
    s.carried s.me = false →
    let va := memAddr s.me a m
    let x := (s.me.rs a + off.signExtend 64).toNat
    let n := (s.me.rs b).toNat
    (s.check s.cur va m.width.bytes .load m.width.bytes (m.width = .w) = (s, .ok segs) → s.me.overlapping segs = [] →
      Parks (.ldres h (.s d) a m) s .globalLoad (.glob ⟨.ld (.s d) m.width m.sg m.scope true, va, false, reqParts segs, [], none⟩)) ∧
    (NoRelease s → n < 1 ∨ 4 < n ∨ x % 16 ≠ 0 ∨ 0x30000 < x + 144 * n →
      Completes (.cmstore h sc d a b off) s (fun sl => { sl with resv := [] }.ws d 4))

/-- 06 R143: the step of `cmstore` at its slice answers 2 where a line is not in the reservation set, and then stores nothing; it answers
0 for one reserved and untouched line, whose selected words it writes, and no other. -/
def Claims.CmstorePerformed : Prop :=
  ∀ (w : Who) (d : SReg) (l : CmLine) (sc : Scope) (s : State), (s.slot w).wait = .sys (.cmstore d [l] sc) →
    (s.slot w).reply = none → (s.slot w).state ≠ .spilled → (s.slot w).Quiet → s.way (some w.core.stack) l.line = .clear →
    (((s.slot w).resv.find? fun r => r.line == l.line) = none →
      exec (.parkReasonMet w) s = .next (s.modSlot w fun sl => (({ sl.unpark with resv := [] }).ws d 2).next)) ∧
    (∀ r, ((s.slot w).resv.find? fun r => r.line == l.line) = some r →
      (∃ e ∈ s.resTabs[s.resIdx l.line].lines, e.line = l.line ∧ e.serial = r.serial ∧ e.stamp = r.stamp) →
      s.mem.wf = true → s.poison = [] → l.data.length = 128 → d ≠ 0 →
      ∃ t, exec (.parkReasonMet w) s = .next t ∧ (t.slot w).rs d = 0 ∧ (t.slot w).resv = [] ∧
        ∀ a, t.mem.get a = if l.line ≤ a ∧ a < l.line + 128 ∧ l.mask.getLsbD ((a - l.line) / 8) = true
          then l.data.getD (a - l.line) 0 else s.mem.get a)

/-- 06 R143: `cmstore` of one line that its slot has reserved and nobody has written since completes with code 0 and its selected words in
memory. Stated for a slot with nothing posted, where no word is poisoned. -/
def Claims.CmstoreCompletes : Prop :=
  ∀ (h : Hdr) (sc : Scope) (d a b : SReg) (off : BitVec 41) (g : Seg) (r : Resv) (s : State), AtHome h s → s.me.Quiet →
    s.mem.wf = true → s.poison = [] →
    let x := (s.me.rs a + off.signExtend 64).toNat
    let sp := s.myCore.sp
    let va := sp.word x
    let mask := BitVec.ofNat 16 (sp.num (x + 8) 2)
    (s.me.rs b).toNat = 1 → x % 16 = 0 → x + 144 ≤ 0x30000 → sp.num (x + 10) 6 = 0 → va &&& 0x7F = 0 →
    s.Maps va 128 1 (decide (mask ≠ 0)) → s.placed va 128 = [g] → s.Open [g] →
    (s.me.resv.find? fun r => r.line == g.pa) = some r →
    (∃ e ∈ s.resTabs[s.resIdx g.pa].lines, e.line = g.pa ∧ e.serial = r.serial ∧ e.stamp = r.stamp) →
    ∃ t u, exec (.cmstore h sc d a b off) s = .next t ∧ exec (.parkReasonMet s.cur) t = .next u ∧ (u.slot s.cur).pc = s.me.pc + 1 ∧
      (d ≠ 0 → (u.slot s.cur).rs d = 0) ∧ (u.slot s.cur).resv = [] ∧
      ∀ y, u.mem.get y = if g.pa ≤ y ∧ y < g.pa + 128 ∧ mask.getLsbD ((y - g.pa) / 8) = true
        then (sp.read (x + 16) 128).getD (y - g.pa) 0 else s.mem.get y

/-- 06 R140 to R143: reservations and the multi-line store. -/
def Obligations.ReservedStores : Prop := Claims.Reservations ∧ Claims.CmstorePerformed ∧ Claims.CmstoreCompletes

/-- 04 R91 to R97: each of these completes where nothing else is in flight. `commit` of an uncommitted page to a frame that fits it answers 0 and
sets the entry's frame and committed bit; to a pool frame it answers 0, or 3 where the pool is empty; a committed page answers 1. `decommit` of a
committed page clears that bit and answers its frame, `palloc` a frame, `pfree` 0. `tlbinv` ends with no translation of its table in the core's
cache, `wback` with no word of the line or page that HBM4 holds older. -/
def Claims.PageCompletions : Prop :=
  ∀ (h : Hdr) (d a b : SReg) (off : BitVec 41) (pg : Bool) (s : State), AtHome h s → s.me.Quiet → s.Still →
    s.mem.wf = true → s.poison = [] →
    let va := s.me.rs a + off.signExtend 64
    let x := s.me.rs b
    let root := s.rootOf s.cur
    let ends (i : Instr) (t u : State) : Prop := exec i s = .next t ∧ exec (.parkReasonMet s.cur) t = .next u ∧
      (u.slot s.cur).pc = s.me.pc + 1
    (∀ e ea, va.toNat < 2 ^ 48 → s.walk root va.toNat = (.sparse e, ea) →
      (x ≠ 0 → x ≠ 0xFFFFFFFFFFFFFFFF → x.toNat % 32768 = 0 → inHbm x.toNat = true → e.getLsbD 52 = decide (x.toNat < s.ilvTop) →
        ∃ t u, ends (.commit h d a b off) t u ∧ (d ≠ 0 → (u.slot s.cur).rs d = 0) ∧
          u.mem.word ea = (e &&& 0xEFFFFFF000000000#64) ||| 0x1000000000000000#64 ||| BitVec.ofNat 64 (x.toNat / 256)) ∧
      (x = 0 → ∀ f, s.pools[poolFor e s.cur.core.stack] = [f] →
        ∃ t u, ends (.commit h d a b off) t u ∧ (d ≠ 0 → (u.slot s.cur).rs d = 0) ∧ u.pools[poolFor e s.cur.core.stack] = []) ∧
      (x = 0 → s.pools[poolFor e s.cur.core.stack] = [] →
        ∃ t u, ends (.commit h d a b off) t u ∧ (d ≠ 0 → (u.slot s.cur).rs d = 3) ∧ u.mem = s.mem)) ∧
    (∀ e ea, va.toNat < 2 ^ 48 → s.walk root va.toNat = (.leaf e 1, ea) → e.getLsbD 61 = true →
      (∃ t u, ends (.commit h d a b off) t u ∧ (d ≠ 0 → (u.slot s.cur).rs d = 1) ∧ u.mem = s.mem) ∧
      (∃ t u, ends (.decommit h d a off) t u ∧ (d ≠ 0 → (u.slot s.cur).rs d = BitVec.ofNat 64 (frameOf e)) ∧
        t.mem.word ea = e &&& 0xEFFFFFFFFFFFFFFF#64)) ∧
    (∀ p : Fin 7, (s.me.rs a).toNat % 8 = p.val →
      (∀ f, s.pools[p] = [f] → ∃ t u, ends (.palloc h d a) t u ∧ (d ≠ 0 → (u.slot s.cur).rs d = BitVec.ofNat 64 f) ∧ u.pools[p] = []) ∧
      (s.pools[p] = [] → ∃ t u, ends (.palloc h d a) t u ∧ (d ≠ 0 → (u.slot s.cur).rs d = 0))) ∧
    (let f := (s.me.rs a).toNat
     f % 32768 = 0 → inHbm f = true → f ≠ 0 → f ∉ s.pools[s.poolOf f] →
      ∃ t u, ends (.pfree h d a) t u ∧ (d ≠ 0 → (u.slot s.cur).rs d = 0) ∧ u.pools[s.poolOf f] = s.pools[s.poolOf f] ++ [f]) ∧
    (∀ mdl, ∃ t u, ends (.tlbinv h true mdl a off) t u ∧ ∀ e ∈ (u.core s.cur.core).tlb, e.root ≠ root) ∧
    (s.Maps va 1 1 false → ∃ t u, ends (.wback h pg a off) t u ∧ ∀ g ∈ s.placed va 1,
      let n := if pg then g.size * 32768 else 128
      ∀ y ∈ u.stale, y.1 * 8 < g.pa / n * n ∨ g.pa / n * n + n ≤ y.1 * 8)

/-- 04 R91 to R94: commit, decommit, the frame pools: each parks with its request, which is performed once the slot's stores are. That
`decommit` above 2^48 answers 0 is the model's reading (log entry 46). -/
def Claims.PageRequests : Prop :=
  ∀ (h : Hdr) (d a b : SReg) (off : BitVec 41) (s : State), AtHome h s →
    Parks (.commit h d a b off) s .globalLoad (.sys (.commit d (s.me.rs a + off.signExtend 64) (s.me.rs b))) ∧
    Parks (.palloc h d a) s .globalLoad (.sys (.palloc d (Fin.ofNat 8 (s.me.rs a).toNat))) ∧
    Parks (.pfree h d a) s .globalLoad (.sys (.pfree d (s.me.rs a))) ∧
    (2 ^ 48 ≤ (s.me.rs a + off.signExtend 64).toNat →
      Parks (.decommit h d a off) s .fence (.sys (.decommit d 0 ⟨[], [], [], []⟩))) ∧
    (∀ e ea, (s.me.rs a + off.signExtend 64).toNat < 2 ^ 48 → e.getLsbD 61 = true →
      s.walk (s.rootOf s.cur) (s.me.rs a + off.signExtend 64).toNat = (.leaf e 1, ea) →
      ∃ t fl, exec (.decommit h d a off) s = .next t ∧ (t.slot s.cur).wait = .sys (.decommit d (frameOf e) fl) ∧
        (t.slot s.cur).state = (if s.me.state = .handler then .handler else .parked))

/-- 04 R91, R94: what performing them does: `palloc` from an empty pool answers 0, from a pool of one frame that frame; `pfree` returns a
frame to its pool, and answers 2 for an address that is no frame; `commit` above 2^48 answers 2 (the model's reading, log entry 46). -/
def Claims.PagePerformed : Prop :=
  ∀ (w : Who) (d : SReg) (s : State), (s.slot w).state ≠ .spilled → (s.slot w).reply = none → (s.slot w).Quiet →
    let done (t : State) (x : Word) : Prop := exec (.parkReasonMet w) s = .next (t.modSlot w fun sl => (sl.unpark.ws d x).next)
    (∀ p : Fin 7, (s.slot w).wait = .sys (.palloc d (Fin.castSucc p)) →
      (s.pools[p] = [] → done s 0) ∧
      (∀ f, s.pools[p] = [f] → done { s with pools := s.pools.set p [] } (BitVec.ofNat 64 f))) ∧
    (∀ f : Word, (s.slot w).wait = .sys (.pfree d f) →
      (f.toNat % 32768 ≠ 0 ∨ inHbm f.toNat = false → done s 2) ∧
      (f.toNat % 32768 = 0 → inHbm f.toNat = true → f ≠ 0 → f.toNat ∉ s.pools[s.poolOf f.toNat] →
        done { s with pools := s.pools.set (s.poolOf f.toNat) (s.pools[s.poolOf f.toNat] ++ [f.toNat]) } 0)) ∧
    (∀ va x : Word, 2 ^ 48 ≤ va.toNat → (s.slot w).wait = .sys (.commit d va x) → done s 2)

/-- 04 R95 to R97: `xlat` answers what the walk gives; `tlbinv` drops translations at once, of its whole table or of one page, and parks until the
accesses in flight have landed; `wback` parks with its line or page, and does nothing on an uncommitted page. That `xlat` reads the table itself
in its issue cycle, and `wback` parks until its slot's queued stores are performed, is the model's choice (log entry 43). -/
def Claims.TranslationControl : Prop :=
  ∀ (h : Hdr) (d a : SReg) (off : BitVec 41) (pg mdl : Bool) (s : State), Runs h s →
    let va := s.me.rs a + off.signExtend 64
    Completes (.xlat h d a off) s (fun sl => sl.ws d (xlatWord va.toNat (s.walk (s.rootOf s.cur) va.toNat).1 (badPa true))) ∧
    (s.me.hosting = none →
      (∃ t fl, exec (.tlbinv h true mdl a off) s = .next t ∧ (t.slot s.cur).wait = .sys (.tlbinv fl) ∧
        ∀ e ∈ (t.core s.cur.core).tlb, e.root ≠ s.rootOf s.cur) ∧
      (∃ t fl, exec (.tlbinv h false mdl a off) s = .next t ∧ (t.slot s.cur).wait = .sys (.tlbinv fl) ∧
        ∀ e, e ∈ (t.core s.cur.core).tlb ↔ e ∈ s.myCore.tlb ∧
          ¬(e.root = s.rootOf s.cur ∧ e.page ≤ va.toNat / 32768 ∧ va.toNat / 32768 < e.page + e.size)) ∧
      (∀ g gs, s.check s.cur va 1 .load 1 false = (s, .ok (g :: gs)) →
        let n := if pg then g.size * 32768 else 128
        Parks (.wback h pg a off) s .fence (.sys (.wback (g.pa / n * n) n))) ∧
      (∀ ps, s.check s.cur va 1 .load 1 false = (s, .sparse ps) → Completes (.wback h pg a off) s id))

/-- 04 R91 to R97: commit, decommit, the frame pools, and the instructions on translations. -/
def Obligations.Pages : Prop :=
  Claims.PageRequests ∧ Claims.PagePerformed ∧ Claims.TranslationControl ∧ Claims.PageCompletions

/-- 04 R76, R83: a walk completes: its leaf enters the core's translation cache and its outcome stays with the instruction, which then
issues again; an uncommitted page enters its stack's pending-commit table, where it does not stand there already. -/
def Claims.WalksAndPages : Prop :=
  ∀ (w : Who) (va : Word) (k : AccKind) (s : State),
    (∀ e size ea, (s.slot w).wait = .again (.walk va 1 k 1) → (s.slot w).walks = [] → (s.core w.core).tlb = [] →
      s.walk (s.rootOf w) (va.toNat / 32768 * 32768) = (.leaf e size, ea) →
      ∃ t, exec (.translationWalk w) s = .next t ∧ (t.slot w).walks = [(va.toNat / 32768, .leaf e size)] ∧
        (t.core w.core).tlb = [⟨va.toNat / 32768 / size * size, size, e, s.rootOf w⟩]) ∧
    (∀ p e ea, (s.slot w).wait = .again (.page va [p] k) → s.walk (s.rootOf w) (p * 32768) = (.sparse e, ea) →
      ⟨s.rootOf w, p⟩ ∉ s.pend[w.core.stack] → (s.pend[w.core.stack]).length < 64 →
      ∃ t, exec (.pendingCommitRetry w) s = .next t ∧ t.pend[w.core.stack] = s.pend[w.core.stack] ++ [⟨s.rootOf w, p⟩])

/-- 04 R71, R72, R82: the scrub counts a corrected error and poisons an uncorrectable word of HBM4; a later read of it traps its slot with
class 4, sub-cause 6, `tval` the lowest byte of the access in a poisoned word. -/
def Claims.Scrubbing : Prop :=
  ∀ (pa : Nat) (s : State),
    exec (.patrolScrub pa .clean) s = .next s ∧
    exec (.patrolScrub pa .corrected) s = .next { s with corrected := s.corrected + 1 } ∧
    (pa < hbmTop → ∃ t, exec (.patrolScrub pa .uncorrectable) s = .next t ∧ pa / 8 ∈ t.poison ∧ t.mem = s.mem) ∧
    (∀ (w : Who) (r : GReq) (off n : Nat) (thr : Bool), (s.slot w).wait = .glob r → r.parts = [(off, pa, n, thr)] → 0 < n →
      r.bad = none → s.loadReady w 0 = true → s.way (some w.core.stack) pa = .clear → inWindow pa = false →
      s.poisoned pa n = true → ∃ t i, exec (.globalAccessAtSlice (.load w 0)) s = .next t ∧
        (t.slot w).reply = some (.trap 4 6 (r.va + BitVec.ofNat 64 (off + i))) ∧ i < n ∧ (pa + i) / 8 ∈ s.poison ∧
        ∀ j < i, (pa + j) / 8 ∉ s.poison)

/-- 04 R71, R72, R76, R83: walks, pending commits, the scrub. -/
def Obligations.WalksAndScrub : Prop := Claims.WalksAndPages ∧ Claims.Scrubbing

/-! ## Versioned tiles (05 R98 to R123) -/

/-- The instruction parks its slot with a request to the home slice of a name on this module, and the request is the one packet of the
network, with nothing that holds it back. -/
def AsksTile (i : Instr) (s : State) (name : Word) (op : TileOp) (r : Reason) (k : TileWait) : Prop :=
  ∃ t f, exec i s = .next t ∧ (t.slot s.cur).reason = r ∧ (t.slot s.cur).wait = .tile k name ∧ (t.slot s.cur).tileId = s.me.nextId ∧
    t.net = [f] ∧ f.hold = none ∧ t.mem = s.mem ∧
    f.pkt = ⟨.slot (s.agent s.cur), s.tileDst name, .request, .treq ⟨s.agent s.cur, s.jobOf s.cur, name, s.me.nextId, op⟩⟩

/-- 05 R114 to R123: each tile instruction on a name of this module sends its request and parks. -/
def Claims.TileRequests : Prop :=
  ∀ (h : Hdr) (d a : SReg) (b : Option SReg) (i : BitVec 18) (j n : BitVec 8) (t : TileArgs) (v u : BitVec 32) (s : State),
    AtHome h s → s.me.Quiet → s.Whole → s.net = [] →
    let name := s.me.rs a
    tileStack name ≤ 5 → tileMod name = s.modId → verOperand s.me t.b t.imm = some v → verOperand s.me b i = some u →
    AsksTile (.tnew h d a t) s name (.new t.c.val v t.cnt.toNat) .versionStore (.new d) ∧
    AsksTile (.tstore h a t) s name (.claim v t.c.val t.cnt.toNat h.ev t.addr.toNat) .versionStore
      (.store v t.addr.toNat t.c.val) ∧
    AsksTile (.tload h d a t) s name (.load v t.c.val t.cnt.toNat t.addr.toNat false) .versionWait
      (.load d v t.c.val t.cnt.toNat t.addr.toNat false) ∧
    ((s.me.rs d).toNat < 2 ^ 32 → AsksTile (.tloadt h d a t) s name
      (.load v t.c.val t.cnt.toNat t.addr.toNat (decide ((s.me.rs d).toNat = 0))) .versionWait
      (.load d v t.c.val t.cnt.toNat t.addr.toNat true)) ∧
    AsksTile (.tpoll h d a b i) s name (.poll u) .versionWait (.read d) ∧
    AsksTile (.tdrop h d a b i j) s name (.drop u j.toNat) .versionWait (.change d) ∧
    AsksTile (.tref h d a b i j) s name (.ref u j.toNat) .versionWait (.change d) ∧
    AsksTile (.tinfo h d a) s name .info .versionWait (.read d) ∧
    AsksTile (.tfloor h d a b i) s name (.floor u) .versionStore (.change d) ∧
    AsksTile (.tlimit h d a n) s name (.limit n.toNat) .versionWait (.change d) ∧
    AsksTile (.tdel h d a) s name .del .versionStore (.change d)

/-- 05 R99, R115: a name whose stack field is above 5 traps with class 5, sub-cause 4, before any effect; a version operand above 32 bits
traps with sub-cause 7. -/
def Claims.TileTraps : Prop :=
  ∀ (h : Hdr) (d a b : SReg) (t : TileArgs) (j : BitVec 8) (s : State), AtHome h s → s.me.state ≠ .handler →
    let name := s.me.rs a
    (5 < tileStack name → ∀ i ∈ [Instr.tnew h d a t, .tstore h a t, .tload h d a t, .tinfo h d a, .tdel h d a],
      exec i s = .next (s.mod fun sl => sl.takeTrap 5 4 name sl.pc)) ∧
    (tileStack name ≤ 5 → 2 ^ 32 ≤ (s.me.rs b).toNat → ∀ i ∈ [Instr.tpoll h d a (some b) 0, .tdrop h d a (some b) 0 j],
      exec i s = .next (s.mod fun sl => sl.takeTrap 5 7 name sl.pc))

/-- 05 R115, R118 to R123: the instructions that ask a name's record one question complete with its answer, once the home slice has handled the
request and its answer has come back: here on a module that holds no other name, of whose links none is lost. -/
def Claims.TileQuestions : Prop :=
  ∀ (h : Hdr) (d a : SReg) (b : Option SReg) (i : BitVec 18) (j n : BitVec 8) (t : TileArgs) (v u : BitVec 32) (r : NameRec)
    (e : VerEntry) (s : State), AtHome h s → s.me.Quiet → s.Whole → s.net = [] → s.tileHeld = [] →
    let name := s.me.rs a
    let w := s.cur
    let claim (q : Instr) (x : Word) (z : State) : Prop := ∃ y, exec q s = .next y ∧
      Leads [.versionClaim (.net 0), .versionClaim (.net 0), .parkReasonMet w] y z ∧
      (d ≠ 0 → (z.slot w).rs d = x) ∧ (z.slot w).pc = s.me.pc + 1 ∧ z.net = [] ∧ z.mem = s.mem
    tileStack name ≤ 5 → tileMod name = s.modId → verOperand s.me t.b t.imm = some v → verOperand s.me b i = some u →
    (s.names = [] →
      (∃ z, claim (.tnew h d a t) 0 z ∧ z.names = [⟨name, t.c.val, v, t.cnt.toNat, false, [], [], []⟩]) ∧
      (∃ z, claim (.tpoll h d a b i) (BitVec.ofNat 64 (6 * 2 ^ 61)) z) ∧ (∃ z, claim (.tinfo h d a) 0 z)) ∧
    (s.names = [r] → r.name = name → r.pend = [] → r.parked = [] →
      (∃ z, claim (.tnew h d a t) 1 z ∧ z.names = [r]) ∧
      ((∀ x ∈ r.vers, x.spilled = false) → ∃ z, claim (.tpoll h d a b i) (pollWord (some r) u) z) ∧
      (∃ z, claim (.tinfo h d a) (infoWord (some r)) z) ∧
      (r.exhausted = true ∨ u.toNat ≤ r.floor.toNat → ∃ z, claim (.tfloor h d a b i) 1 z) ∧
      (r.vers = [] →
        (r.exhausted = false → r.floor.toNat < u.toNat → ∃ z, claim (.tfloor h d a b i) 0 z ∧ z.names = [{ r with floor := u }]) ∧
        (∃ z, claim (.tlimit h d a n) (BitVec.ofNat 64 r.limit) z ∧ z.names = [{ r with limit := n.toNat }]) ∧
        (∃ z, claim (.tdel h d a) 0 z ∧ z.names = [])) ∧
      (r.vers = [e] → e.v = u → e.st = .present → e.persistent = false → e.spilled = false → r.exhausted = false →
        r.floor.toNat ≤ u.toNat →
        (0 < j.toNat → j.toNat < e.count → ∃ z, claim (.tdrop h d a b i j) 0 z ∧
          ((z.rec? name).bind (·.ver? u)).map (·.count) = some (e.count - j.toNat)) ∧
        (0 < e.count → e.count + j.toNat ≤ 65535 → ∃ z, claim (.tref h d a b i j) 0 z ∧
          ((z.rec? name).bind (·.ver? u)).map (·.count) = some (e.count + j.toNat))))

/-- 05 R110, R116, R117: `tstore` of a version nobody has named completes once its claim is granted and its fill is done: the version is present
with the scratchpad's bytes and its references. `tload` and `tloadt` of a present version complete once its lines and their notice have arrived:
the scratchpad holds its bytes, and the destination the references left, or 0x10000 where it is persistent. -/
def Claims.TileTransfers : Prop :=
  ∀ (h : Hdr) (d a : SReg) (t : TileArgs) (v : BitVec 32) (r : NameRec) (e : VerEntry) (s : State), AtHome h s → s.me.Quiet →
    s.Whole → s.net = [] → s.tileHeld = [] → s.myCore.msgIn = [] → s.names = [r] →
    let name := s.me.rs a
    let w := s.cur
    tileStack name ≤ 5 → tileMod name = s.modId → verOperand s.me t.b t.imm = some v → r.name = name → r.c = t.c.val →
    r.pend = [] → r.parked = [] → r.exhausted = false → r.floor.toNat ≤ v.toNat →
    let arrives (i : Instr) : Prop := ∃ y z, exec i s = .next y ∧
      Leads ([.versionLoadRequest (.net 0)] ++ List.replicate (2 ^ r.c) (.sharedPortWrite 0) ++ [.arrivalNotice 0, .parkReasonMet w]) y z ∧
      (d ≠ 0 → (z.slot w).rs d = if e.persistent then 0x10000 else BitVec.ofNat 64 (e.count - min t.cnt.toNat e.count)) ∧
      (z.slot w).pc = s.me.pc + 1 ∧ (z.core w.core).sp = s.myCore.sp.write t.addr.toNat e.data
    (r.vers = [] → 0 < r.limit → tileBytes r.c ≤ s.settings.tilePool * 524288 → ∃ y z e', exec (.tstore h a t) s = .next y ∧
      Leads [.versionClaim (.net 0), .versionClaim (.net 0), .fillComplete name v, .versionClaim (.net 0), .parkReasonMet w] y z ∧ (z.slot w).pc = s.me.pc + 1 ∧
      (z.rec? name).bind (·.ver? v) = some e' ∧ e'.st = .present ∧ e'.count = t.cnt.toNat ∧
      e'.data = s.myCore.sp.read t.addr.toNat (tileBytes r.c)) ∧
    (r.vers = [e] → e.v = v → e.st = .present → e.spilled = false → e.persistent = true ∨ 0 < e.count → e.outst < 255 →
      e.data.length = tileBytes r.c →
      arrives (.tload h d a t) ∧ ((s.me.rs d).toNat < 2 ^ 32 → arrives (.tloadt h d a t)))

/-- 05 R99, R114 to R123: the tile instructions and their traps. -/
def Obligations.TileInstructions : Prop := Claims.TileRequests ∧ Claims.TileTraps ∧ Claims.TileQuestions ∧ Claims.TileTransfers

/-- The one packet of the network is a request for a name, at its home slice on this module. -/
def OneRequest (s : State) (q : TileReq) : Prop :=
  ∃ p, s.Arrives 0 p ∧ s.net.length = 1 ∧ p.body = .treq q ∧ s.outbound p = false

/-- The one packet of the network is the slice's answer to a request. -/
def OneAnswer (t : State) (src : Agent) (name : Word) (id : Nat) (x : TRes) : Prop := t.net.map (·.pkt.body) = [.trep src name id x]

/-- 05 R102, R116: a claim on a version nobody has named, of a name alone in its table and below its limit, is granted: the version is
filling from the claimer, to whom the answer goes. A load of such a version is registered as a waiter on an absent version. -/
def Claims.ClaimsAndLoads : Prop :=
  ∀ (r : NameRec) (src : Agent) (job v : BitVec 32) (id c j addr refs : Nat) (ev : Fin 4) (s : State), s.names = [r] → r.vers = [] →
    s.Whole → r.parked = [] → r.pend = [] → r.exhausted = false → r.c = c → r.floor.toNat ≤ v.toNat → src.mod = s.modId →
    tileMod r.name = s.modId → s.tileHeld = [] → tileBytes c ≤ s.settings.tilePool * 524288 →
    (0 < r.limit → OneRequest s ⟨src, job, r.name, id, .claim v c refs ev addr⟩ →
      ∃ t e, exec (.versionClaim (.net 0)) s = .next t ∧ (t.rec? r.name).bind (·.ver? v) = some e ∧ e.st = .filling ∧
        e.producer = src ∧ e.pjob = job ∧ e.pid = id ∧ e.addr = addr ∧ e.refs = refs ∧ OneAnswer t src r.name id .granted) ∧
    (OneRequest s ⟨src, job, r.name, id, .load v c j addr false⟩ →
      ∃ t e, exec (.versionLoadRequest (.net 0)) s = .next t ∧ (t.rec? r.name).bind (·.ver? v) = some e ∧ e.st = .absent ∧
        e.waiters = [.load src job id addr j] ∧ t.net = [])

/-- 05 R102, R110, R117: a load of a present version takes its references and sends the tile's lines and one arrival notice. -/
def Claims.LoadOfPresent : Prop :=
  ∀ (r : NameRec) (e : VerEntry) (src : Agent) (job : BitVec 32) (id j addr : Nat) (s : State), s.names = [r] → r.vers = [e] →
    e.st = .present → e.persistent = false → e.spilled = false → 0 < e.count → e.outst = 0 → r.parked = [] → r.pend = [] →
    r.exhausted = false →
    r.floor.toNat ≤ e.v.toNat → src.mod = s.modId → s.tileHeld = [] → s.Whole →
    OneRequest s ⟨src, job, r.name, id, .load e.v r.c j addr false⟩ →
    ∃ t e', exec (.versionLoadRequest (.net 0)) s = .next t ∧ (t.rec? r.name).bind (·.ver? e.v) = some e' ∧
      e'.count = e.count - min j e.count ∧ e'.outst = 1 ∧ t.net.length = 2 ^ r.c + 1 ∧
      t.deliveries = s.deliveries ++ [⟨s.nextDid, r.name, e.v, min j e.count, src, job, id, false⟩]

/-- 05 R102, R116: a fill that completes makes its version present with the producer's bytes and the claimed references; one that fails
leaves no entry where nobody waits. -/
def Claims.Fills : Prop :=
  ∀ (r : NameRec) (e : VerEntry) (s : State), s.names = [r] → r.vers = [e] → e.st = .filling → e.waiters = [] → r.parked = [] →
    r.pend = [] → s.tileHeld = [] → e.producer.mod = s.modId →
    (∃ t e', exec (.fillComplete r.name e.v) s = .next t ∧ (t.rec? r.name).bind (·.ver? e.v) = some e' ∧ e'.st = .present ∧
      e'.data = (s.core e.producer.who.core).sp.read e.addr (tileBytes r.c) ∧ e'.count = e.refs ∧
      e'.persistent = (e.refs == 0)) ∧
    (∃ t, exec (.fillFail r.name e.v) s = .next t ∧ (t.rec? r.name).bind (·.ver? e.v) = none)

/-- 05 R110, R111, 08 R172: a tile's line lands in the scratchpad and marks its words full; the notice gives the waiting slot its value and
is acknowledged; the acknowledgement closes the delivery; a failed one traps its slot, told at its home module and at its requester's. -/
def Claims.Deliveries : Prop :=
  ∀ (p : Packet) (dst : Agent) (addr did id : Nat) (home : Fin 4096) (val name : Word) (k : TileWait) (data : List Byte)
    (d : SReg) (job v : BitVec 32) (c j x : Nat) (td : Bool) (s : State), dst.mod = s.modId → s.Whole →
    (s.Arrives 0 p → s.net.length = 1 → s.noticeOpen dst.who.core = true →
      (p.body = .tdata dst addr data → ∃ t, exec (.sharedPortWrite 0) s = .next t ∧ t.net = [] ∧
        (t.core dst.who.core).sp = (s.core dst.who.core).sp.write addr data ∧
        ((s.core dst.who.core).empties.Nodup → ∀ w ∈ wordsOf addr data.length, w ∉ (t.core dst.who.core).empties)) ∧
      (p.body = .notice dst did home val name id → (s.slot dst.who).wait = .tile k name → (s.slot dst.who).tileId = id →
        (s.slot dst.who).reply = none → tileMod name = s.modId → ∃ t g, exec (.arrivalNotice 0) s = .next t ∧
          (t.slot dst.who).reply = some (.val val) ∧ t.net = [g] ∧ g.pkt.body = .tack did true) ∧
      (p.body = .tack did true → (∀ m, p.dst ≠ .mdl m) → s.names = [] → s.deliveries = [⟨did, name, 0, 0, dst, job, id, true⟩] →
        ∃ t, exec (.deliveryAck 0) s = .next t ∧ t.deliveries = [] ∧ t.net = [])) ∧
    (s.names = [] → s.deliveries = [⟨did, name, 0, 0, dst, job, id, false⟩] → (s.slot dst.who).wait = .tile k name →
      (s.slot dst.who).tileId = id → (s.slot dst.who).reply = none →
      ∃ t, exec (.deliveryFail (.home did)) s = .next t ∧ t.deliveries = [] ∧ (t.slot dst.who).reply = some (.trap 5 5 name)) ∧
    ((s.slot dst.who).wait = .tile (.load d v c j x td) name → tileMod name ≠ s.modId → (s.slot dst.who).reply = none →
      ∃ t, exec (.deliveryFail (.requester dst.who)) s = .next t ∧ (t.slot dst.who).reply = some (.trap 5 5 name))

/-- 05 R102, R110 to R117: claims, loads, fills and deliveries at the home slice. -/
def Obligations.TileTable : Prop := Claims.ClaimsAndLoads ∧ Claims.LoadOfPresent ∧ Claims.Fills ∧ Claims.Deliveries

/-- 05 R107, R117, R125: a refused waiter asks again after its 64 rotations; a timeout sends a cancel, and the cancel removes the waiter, whose
slot learns it by the slice's answer; entries move to the overflow table at the host's word. -/
def Claims.WaitersAndCancels : Prop :=
  ∀ (w : Who) (r : NameRec) (e : VerEntry) (d : SReg) (job v : BitVec 32) (c j addr n id : Nat) (td : Bool) (name : Word) (s : State),
    tileMod name = s.modId → s.Whole →
    ((s.slot w).wait = .tile (.load d v c j addr td) name → (s.slot w).cancel = 0 → (s.slot w).tileId = id → s.net = [] →
      ((s.slot w).retryAt = some n → n ≤ s.rot → (s.core w.core).gates = [] → ∃ t f, exec (.waiterRetry w) s = .next t ∧
        t.net = [f] ∧ f.pkt.body = .treq ⟨s.agent w, s.jobOf w, name, id, .load v c j addr false⟩ ∧ (t.slot w).retryAt = none) ∧
      (td = true → (s.slot w).reply = none → (s.slot w).deadline = some n → n ≤ s.rot → (s.slot w).retryAt = none →
        ∃ t f, exec (.tloadtTimeout w) s = .next t ∧ t.net = [f] ∧ f.pkt.body = .treq ⟨s.agent w, s.jobOf w, name, id, .cancel v id⟩ ∧
          (t.slot w).cancel = 1)) ∧
    (s.names = [r] → r.name = name → r.vers = [e] → r.parked = [] → r.pend = [] → s.tileHeld = [] → e.st = .absent → e.v = v →
      e.waiters = [.load (s.agent w) job id addr j] → OneRequest s ⟨s.agent w, job, name, id, .cancel v id⟩ →
      (s.slot w).wait = .tile (.load d v c j addr td) name → (s.slot w).tileId = id → (s.slot w).reply = none →
      ∃ t u, exec (.tloadCancel 0) s = .next t ∧ (t.rec? name).bind (·.ver? v) = none ∧ OneAnswer t (s.agent w) name id .cancelled ∧
        exec (.versionClaim (.net 0)) t = .next u ∧ (u.slot w).reply = some .ok ∧ u.net = []) ∧
    (∀ (st : Fin 6) (sl : Fin 32), s.names = [r] → r.name = name → r.vers = [e] → r.parked = [] → s.tileHeld = [] → e.idle = true →
      tileKey name = st.val * 32 + sl.val →
      exec (.moveOrReclaimVersionEntries st sl [(name, e.v)] false) s =
        .next { s with names := [{ r with vers := [{ e with spilled := true }] }] })

/-- 05 R116 to R119, 15 R313: the answer to a tile request is written to the destination, and its slot goes on. -/
def Claims.TileAnswers : Prop :=
  ∀ (w : Who) (d : SReg) (name x : Word) (s : State), (s.slot w).reply = some (.val x) → (s.slot w).state ≠ .spilled →
    ∀ k ∈ [TileWait.new d, .read d, .change d], (s.slot w).wait = .tile k name →
      exec (.parkReasonMet w) s = .next (s.modSlot w fun sl => (sl.unpark.ws d x).next)

/-- 05 R107, R116 to R119, R125: waiters, cancels and answers. -/
def Obligations.TileWaiters : Prop := Claims.WaitersAndCancels ∧ Claims.TileAnswers

/-! ## The copy and stream units (07 R145 to R169) -/

/-- 07 R145, R147: a legal format is put in its bank's register and the old one answered; a read of it changes nothing. -/
def Claims.BankFormats : Prop :=
  ∀ (h : Hdr) (d b : SReg) (a : SI) (i : Fin 12) (s : State), AtHome h s → (s.me.rsi a).toNat = i.val →
    (fmtLegal (s.me.rs b) = true → exec (.bfmt h d a b) s =
      .next ((s.modMyCore fun c => { c with fmt := c.fmt.set i (s.me.rs b) }).mod fun sl => (sl.ws d s.myCore.fmt[i]).next)) ∧
    Completes (.bfmtr h d a) s (fun sl => sl.ws d s.myCore.fmt[i]) ∧
    (fmtLegal (s.me.rs b) = false → s.me.state ≠ .handler → exec (.bfmt h d a b) s =
      .next (s.mod fun sl => sl.takeTrap 6 6 (s.me.rs b) sl.pc))

/-- The running slot takes an operation into a context, which `f` describes, and goes on; with the sync bit it parks until the context's
timeline has the operation's number (02 R32, R33). -/
def Issues (i : Instr) (s : State) (f : Slot → Slot) (t : TlName) (n : Word) (sync : Bool) : Prop :=
  exec i s = .next (if sync then (s.mod f).park .timeline (.timeline t n .sync) else s.mod fun sl => (f sl).next)

/-- The instruction issues an operation of the slot's copy context: the next number goes to the destination, the operation to the end of
the context, queued, with the bank formats and the stores released to it (14 R303); `f` is what the issue does to the slot beside. -/
def IssuesCopy (i : Instr) (s : State) (d : SReg) (k : CopyKind) (w0 w1 : Word) (desc : List Byte) (sync : Bool) (f : Slot → Slot) : Prop :=
  let n := s.me.cctx.last + 1
  Issues i s (fun sl => f { sl.ws d n with
    cctx := { sl.cctx with last := n, ops := sl.cctx.ops ++ [.fresh n k w0 w1 desc s.myCore.fmt (s.release s.cur)] } })
    .c n sync

/-- 02 R33, 07 R148 to R163: the copy unit's instructions issue their operation once their checks pass. -/
def Claims.CopyIssue : Prop :=
  ∀ (h : Hdr) (d a b : SReg) (m v : Fin 4) (t : ETy) (sp sc wr gl sy : Bool) (d64 d128 : List Byte) (s : State), AtHome h s →
    s.me.cctx.outstanding < 8 →
    let w0 := s.me.rs a
    let w1 := s.me.rs b
    let fm := s.myCore.fmt
    (s.myCore.descriptor w0 64 = .inr d64 →
      (copyDetail .cpy d64 w1 fm = none → IssuesCopy (.cpy h sy d a b) s d .cpy w0 w1 d64 sy id) ∧
      (copyDetail (.cpyf m) d64 w1 fm = none → IssuesCopy (.cpyf h m sy d a b) s d (.cpyf m) w0 w1 d64 sy id) ∧
      (streamDetail wr gl d64 w1 = none → IssuesCopy (.sstream h v wr gl sy d a b) s d (.stream v) w0 w1 d64 sy fun sl =>
        { sl.stopStream v with streams := (sl.stopStream v).streams.set v (some (streamOf (s.me.cctx.last + 1) wr gl d64 w1)) })) ∧
    (s.myCore.descriptor w0 128 = .inr d128 → copyDetail .cpyt d128 w1 fm = none →
      IssuesCopy (.cpyt h sy d a b) s d .cpyt w0 w1 d128 sy id) ∧
    (qdualDetail w0 w1 fm = none → IssuesCopy (.qdual h sy d a b) s d .qdual w0 w1 [] sy id) ∧
    (bloadDetail sp t sc w0 w1 = none → IssuesCopy (.bload h sp t sc sy d a b) s d (.bload sp t sc) w0 w1 [] sy id)

/-- 02 R33, 07 R151, R169: a failed descriptor check traps with class 6, sub-cause 5 and the detail as `tval`; with eight operations open
the instruction parks without an effect. -/
def Claims.CopyIssueOtherwise : Prop :=
  ∀ (h : Hdr) (d a b : SReg) (desc : List Byte) (sy : Bool) (s : State), AtHome h s → s.me.state ≠ .handler →
    s.myCore.descriptor (s.me.rs a) 64 = .inr desc →
    (∀ x, copyDetail .cpy desc (s.me.rs b) s.myCore.fmt = some x →
      exec (.cpy h sy d a b) s = .next (s.mod fun sl => sl.takeTrap 6 5 (BitVec.ofNat 64 x) sl.pc)) ∧
    (copyDetail .cpy desc (s.me.rs b) s.myCore.fmt = none → 8 ≤ s.me.cctx.outstanding →
      Parks (.cpy h sy d a b) s .engineQueue (.again (.engine .c)))

/-- 07 R145 to R163, R169: bank formats and the issue of copies and streams. -/
def Obligations.CopyInstructions : Prop := Claims.BankFormats ∧ Claims.CopyIssue ∧ Claims.CopyIssueOtherwise

/-- 07 R148, R149, R155 to R158: the steps of the copy unit for the only operation of a context: it starts once the stores released to it are
performed; in its turn a `qdual` and a sector whose source is full are served; an operation that is over leaves, and the timeline takes its
number; a recorded denial faults its operation with the byte it was recorded at. -/
def Claims.CopySteps : Prop :=
  ∀ (w : Who) (o : CopyOp) (s : State), (s.slot w).cctx.ops = [o] → (s.slot w).state ≠ .spilled → o.out = [] →
    (o.st = .queued → s.storesDone o.rel = true →
      exec (.copySector w o.num none) s = .next (s.modCopy w o.num fun x => { x with st := .running })) ∧
    (o.st = .running → o.kind = .qdual → s.copyTurn w = true → exec (.copySector w o.num none) s = .next (s.doQdual w o)) ∧
    (o.st = .running → o.kind = .cpy → s.servable w o = true → s.copyTurn w = true →
      exec (.copySector w o.num none) s = .next (s.doSector w o)) ∧
    (o.st = .complete → ∃ t, exec (.copySector w o.num none) s = .next t ∧ (t.slot w).cctx.tl = o.num ∧
      (t.slot w).cctx.ops = []) ∧
    (∀ va, o.st = .commitWait → o.denied = some va → ∃ t, exec (.denialFault w) s = .next t ∧ (t.slot w).pendCopy = some va ∧
      (t.copyOp w o.num).map (fun x => (x.st, x.fault)) = some (.faulted, some (va, 7)))

/-- 07 R154, R155: a fill of one element of four bytes, in a bank of raw format, is done in one step of the copy unit: its bytes stand in the
scratchpad, and the timeline has its number. -/
def Claims.FillSector : Prop :=
  ∀ (w : Who) (o : CopyOp) (s : State), (s.slot w).cctx.ops = [o] → (s.slot w).state ≠ .spilled → o.st = .running →
    o.kind = .cpyf 0 → o.out = [] → s.copyTurn w = true → o.fmts = Vector.replicate 12 fmtRaw →
    o.desc = List.replicate 16 0 ++ [1, 0, 1, 0, 1, 0, 1, 0] ++ List.replicate 40 0 → o.sector = 0 → o.ahead = [] →
    ∃ t, exec (.copySector w o.num none) s = .next t ∧ (t.core w.core).sp = (s.core w.core).sp.write 0 (leBytes 4 (o.w1.toNat % 2 ^ 32)) ∧
      (t.slot w).cctx.tl = o.num

/-- 07 R149, R154 to R158: the steps of the copy unit. -/
def Obligations.CopyUnit : Prop := Claims.CopySteps ∧ Claims.FillSector

/-- 07 R164 to R168: a stream ended by `sstop` leaves its register, a read stream's operation completes with it and a write stream's drains on;
`spos` reads it; a read stream whose last strip has been popped
completes; a write stream ended with nothing left to drain completes. -/
def Claims.StreamSteps : Prop :=
  ∀ (h : Hdr) (d : SReg) (v : Fin 4) (w : Who) (st : Stream) (s : State),
    (AtHome h s → Completes (.spos h d v) s (fun sl => sl.ws d (sposWord sl.streams[v])) ∧
      (s.me.streams[v] = none → s.me.cctx.ops = [] → Completes (.sstop h v) s id) ∧
      (s.me.streams[v] = some st → st.wr = false → ∀ o, s.me.cctx.ops = [o] → o.num = st.num → ∃ t, exec (.sstop h v) s = .next t ∧
        (t.slot s.cur).streams = s.me.streams.set v none ∧ (t.slot s.cur).cctx.tl = st.num ∧ (t.slot s.cur).pc = s.me.pc + 1) ∧
      (s.me.streams[v] = some st → st.wr = true → (∀ o ∈ s.me.cctx.ops, o.over = false) →
        Completes (.sstop h v) s (fun sl => { sl with streams := sl.streams.set v none, draining := sl.draining ++ [st] }))) ∧
    ((s.slot w).streams[v] = some st → (s.slot w).state ≠ .spilled → st.wr = false → st.total ≤ st.pos →
      exec (.streamRefill w v) s = .next (s.finishCopy w st.num)) ∧
    ((s.slot w).draining = [st] → st.buf = [] → (s.slot w).streams[v] = none → (s.slot w).state ≠ .spilled → s.mayStart w st.num = false →
      exec (.streamDrain w v) s = .next ((s.modSlot w fun sl => { sl with draining := [] }).finishCopy w st.num))

/-- 07 R169: a wait on a number the timeline has reached completes; on one not issued it traps with class 6, sub-cause 3; else it parks. The
abort form completes; a read answers the value or the last number issued. A parked wait returns once its number is reached. -/
def Claims.Timelines : Prop :=
  ∀ (h : Hdr) (t : Tl) (b d : SReg) (w : Who) (n : Word) (s : State),
    (AtHome h s →
      let x := s.me.rs b
      let u := tlName t
      ((s.me.tlLast u).toNat < x.toNat → s.me.state ≠ .handler →
        exec (.tlwait h t b) s = .next (s.mod fun sl => sl.takeTrap 6 3 x sl.pc)) ∧
      (x.toNat ≤ (s.me.tlLast u).toNat → (s.me.tlVal u).toNat < x.toNat →
        Parks (.tlwait h t b) s .timeline (.timeline u x .wait)) ∧
      (x.toNat ≤ (s.me.tlLast u).toNat → x.toNat ≤ (s.me.tlVal u).toNat →
        exec (.tlwait h t b) s = .next ((s.acquire s.cur.core (if t = .x then .fabric else .cluster)).mod Slot.next)) ∧
      Completes (.tlwaitAbort h .m b) s id ∧
      (s.me.cctx.faulted = none → Completes (.tlwaitAbort h t b) s id) ∧
      Completes (.tlrd h 0 d t) s (fun sl => sl.ws d (sl.tlVal u)) ∧
      Completes (.tlrd h 1 d t) s (fun sl => sl.ws d (sl.tlLast u))) ∧
    ((s.slot w).wait = .timeline .c n .wait → (s.slot w).state ≠ .spilled → n.toNat ≤ (s.slot w).cctx.tl.toNat →
      exec (.parkReasonMet w) s = .next ((s.acquire w.core .cluster).modSlot w fun sl => sl.unpark.next)) ∧
    ((s.slot w).wait = .timeline .c n .sync → (s.slot w).state ≠ .spilled → (s.slot w).cctx.tl.toNat < n.toNat →
      exec (.parkReasonMet w) s = .next s)

/-- 07 R164 to R169: streams, and waits on timelines. -/
def Obligations.StreamsAndTimelines : Prop := Claims.StreamSteps ∧ Claims.Timelines

/-! ## Vector instructions (10 R205 to R223) -/

/-- Lane `j` of a register at a width in bits. -/
def laneAt (n : Nat) (x : VWord) (j : Nat) : Nat := x.toNat / 2 ^ (n * j) % 2 ^ n

/-- Lane `j` is switched on (10 R208). -/
def laneOn (s : State) (n : Nat) (mask : Option (Fin 4)) (j : Nat) : Bool :=
  match mask with
  | none => true
  | some k => decide (laneAt n (s.me.rv (Fin.ofNat 16 (8 + k.val))) j % 2 = 1)

/-- The element of a source in lane `j`: a vector's lane, or a scalar in every lane (10 R206). -/
def vfAt (s : State) (t : ETy) (b : VF) (j : Nat) : Nat :=
  match b with
  | .v r => laneAt (laneBits t) (s.me.rv r) j
  | .f r => (s.me.rf r).toNat % 2 ^ tyBits t

def vsAt (s : State) (t : ETy) (b : VS) (j : Nat) : Nat :=
  match b with
  | .v r => laneAt (laneBits t) (s.me.rv r) j
  | .s r => (s.me.rs r).toNat % 2 ^ laneBits t

/-- The instruction completes with a new value of `d` alone, in which each active lane holds `f` of its number and each other lane what it
held, and with the flags of the active lanes added. -/
def LaneWise (i : Instr) (s : State) (d : VReg) (t : ETy) (mask : Option (Fin 4)) (f : Nat → Nat × FFlags) : Prop :=
  let n := laneBits t
  ∃ x : VWord,
    CompletesFp i s (((List.range (512 / n)).filter (laneOn s n mask)).foldl (fun (y : FFlags) j => y ||| (f j).2) 0)
      (fun sl => sl.wv d x) ∧
    ∀ j < 512 / n, laneAt n x j = if laneOn s n mask j then (f j).1 % 2 ^ n else laneAt n (s.me.rv d) j

/-- A plain vector instruction: no repeat, no stream, no enabled exception. -/
abbrev PlainVector (h : Hdr) (s : State) : Prop := AtHome h s ∧ h.rep = false ∧ NoStreams s ∧ s.me.fen = 0

/-- 10 R212, R213: the floating instructions of major 0x60, lane by lane. -/
def Claims.VectorFloat : Prop :=
  ∀ (h : Hdr) (m : VMod) (d a : VReg) (b c : VF) (s : State), PlainVector h s →
    let t := m.t
    let dir := rndDir m.rm s.me.rmode
    let x (j : Nat) := laneAt (laneBits t) (s.me.rv a) j
    let val (k : Nat) := tyDecode t k
    let y (j : Nat) := vfAt s t b j
    let z (j : Nat) := val (vfAt s t c j)
    let sign := 2 ^ (tyBits t - 1)
    let lanes (i : Instr) (f : Nat → Nat × FFlags) : Prop := LaneWise i s d t m.mask f
    lanes (.vfadd h m d a b) (fun j => finish t dir (fAdd dir (val (x j)) (val (y j)))) ∧
    lanes (.vfsub h m d a b) (fun j => finish t dir (fAdd dir (val (x j)) (val (y j)).neg)) ∧
    lanes (.vfmul h m d a b) (fun j => finish t dir (fMul (val (x j)) (val (y j)))) ∧
    lanes (.vfdiv h m d a b) (fun j => finish t dir (fDiv (val (x j)) (val (y j)))) ∧
    lanes (.vfma h m d a b c) (fun j => finish t dir (fFma dir false false (val (x j)) (val (y j)) (z j))) ∧
    lanes (.vfms h m d a b c) (fun j => finish t dir (fFma dir false true (val (x j)) (val (y j)) (z j))) ∧
    lanes (.vfnma h m d a b c) (fun j => finish t dir (fFma dir true false (val (x j)) (val (y j)) (z j))) ∧
    lanes (.vfmin h m d a b) (fun j => fMinMax (fmtOf t) false (x j) (y j)) ∧
    lanes (.vfmax h m d a b) (fun j => fMinMax (fmtOf t) true (x j) (y j)) ∧
    lanes (.vfabs h m d a) (fun j => (x j % sign, 0)) ∧
    lanes (.vfneg h m d a) (fun j => (if x j < sign then x j + sign else x j - sign, 0)) ∧
    lanes (.vfsqrt h m d a) (fun j => finish t dir (fSqrt (val (x j)))) ∧
    lanes (.vexp2 h m d a) (fun j => exp2V t dir (val (x j))) ∧ lanes (.vlog2 h m d a) (fun j => log2V t dir (val (x j))) ∧
    lanes (.vrcp h m d a) (fun j => rcpV t dir (val (x j))) ∧ lanes (.vrsq h m d a) (fun j => rsqV t dir (val (x j)))

/-- 10 R214, R215, R216: the integer instructions of major 0x61 and the two comparisons, lane by lane; a comparison's lane is all ones or
all zeros. -/
def Claims.VectorInteger : Prop :=
  ∀ (h : Hdr) (u : Bool) (m : VMod) (d a : VReg) (b : VS) (e : VF) (c : Cond) (q : FCond) (s : State), PlainVector h s →
    let t := m.t
    let n := laneBits t
    let k (j : Nat) := vsAt s t b j
    let x (j : Nat) := BitVec.ofNat n (laneAt n (s.me.rv a) j)
    let y (j : Nat) := BitVec.ofNat n (k j)
    let fc (j : Nat) := fCmp q (tyDecode t (laneAt n (s.me.rv a) j)) (tyDecode t (vfAt s t e j))
    let lanes (i : Instr) (f : Nat → BitVec n) : Prop := LaneWise i s d t m.mask fun j => ((f j).toNat, 0)
    lanes (.vadd h m d a b) (fun j => x j + y j) ∧ lanes (.vsub h m d a b) (fun j => x j - y j) ∧
    lanes (.vmul h m d a b) (fun j => x j * y j) ∧
    lanes (.vmulh h u m d a b) (fun j => if u then BitVec.ofNat n ((x j).toNat * (y j).toNat / 2 ^ n)
      else BitVec.ofInt n ((x j).toInt * (y j).toInt / 2 ^ n)) ∧
    lanes (.vmin h u m d a b) (fun j => if (if u then x j < y j else (x j).toInt < (y j).toInt) then x j else y j) ∧
    lanes (.vmax h u m d a b) (fun j => if (if u then x j < y j else (x j).toInt < (y j).toInt) then y j else x j) ∧
    lanes (.vand h m d a b) (fun j => x j &&& y j) ∧ lanes (.vor h m d a b) (fun j => x j ||| y j) ∧
    lanes (.vxor h m d a b) (fun j => x j ^^^ y j) ∧
    lanes (.vshl h m d a b) (fun j => x j <<< (k j % n)) ∧ lanes (.vshr h m d a b) (fun j => x j >>> (k j % n)) ∧
    lanes (.vsra h m d a b) (fun j => (x j).sshiftRight (k j % n)) ∧
    lanes (.vabs h m d a) (fun j => if (x j).toInt < 0 then -x j else x j) ∧
    lanes (.vdiv h u m d a b) (fun j => if y j = 0 then BitVec.allOnes n else if u then x j / y j else (x j).sdiv (y j)) ∧
    lanes (.vrem h u m d a b) (fun j => if y j = 0 then x j else if u then x j % y j else (x j).srem (y j)) ∧
    lanes (.vpopc h m d a) (fun j => BitVec.ofNat n ((List.range n).filter (x j).getLsbD).length) ∧
    lanes (.vcmp h c m d a b) (fun j => if condW c (x j) (y j) then BitVec.allOnes n else 0) ∧
    LaneWise (.vfcmp h q m d a e) s d t m.mask (fun j => (if (fc j).1 then 2 ^ n - 1 else 0, (fc j).2))

/-- 10 R212 to R216: the vector instructions that compute lane by lane. -/
def Obligations.VectorArithmetic : Prop := Claims.VectorFloat ∧ Claims.VectorInteger

/-- 10 R217, R221, R222: selection, the moves between lanes, broadcasts, insertion and the Morton key, lane by lane. -/
def Claims.VectorMoves : Prop :=
  ∀ (h : Hdr) (t : ETy) (d a b c : VReg) (oc : Option VReg) (e : SF) (k : SI) (x2 hi : Bool) (s : State), PlainVector h s →
    let n := laneBits t
    let x (j : Nat) := laneAt n (s.me.rv a) j
    let on (r : VReg) (j : Nat) : Bool := decide (laneAt n (s.me.rv r) j % 2 = 1)
    let N := 512 / n
    let i := (s.me.rsi k).toNat
    let sc : Nat := match e with
      | .s r => (s.me.rs r).toNat % 2 ^ n
      | .f r => (s.me.rf r).toNat % 2 ^ n
    let w (r : VReg) (j : Nat) : Nat := laneAt 32 (s.me.rv r) (j + if hi then 8 else 0)
    let lanes (p : Instr) (f : Nat → Nat) : Prop := LaneWise p s d t none fun j => (f j, 0)
    lanes (.vsel h t d a b c) (fun j => if on c j then x j else laneAt n (s.me.rv b) j) ∧
    lanes (.vcompress h t d a b) (fun j => (((List.range N).filter (on b)).map x).getD j 0) ∧
    lanes (.vexpand h t d a b) (fun j => if on b j then x (((List.range j).filter (on b)).length) else laneAt n (s.me.rv d) j) ∧
    lanes (.vslideup h t d a k) (fun j => if i ≤ j then x (j - i) else 0) ∧
    lanes (.vslidedn h t d a k) (fun j => if j + i < N then x (j + i) else 0) ∧
    lanes (.vperm h t d a b) (fun j => if laneAt n (s.me.rv b) j < N then x (laneAt n (s.me.rv b) j) else 0) ∧
    lanes (.vbcastScalar h t d e) (fun _ => sc) ∧
    lanes (.vbcastLane h t d a k) (fun _ => if i < N then x i else 0) ∧
    lanes (.vins h t d e k) (fun j => if j = i then sc else laneAt n (s.me.rv d) j) ∧
    LaneWise (.vzord h x2 hi d a b oc) s d .i32 none (fun j =>
      (zkey (w a (j / 2)) (w b (j / 2)) (oc.map fun r => w r (j / 2)) / 2 ^ (32 * (j % 2)) % 2 ^ 32, 0))

/-- 10 R217, R220: moves of a lane, of a count and of the lanes' bits into a scalar register, and the reductions: in the tree's order with
inactive lanes replaced by the identity, an integer sum sign-extended. -/
def Claims.VectorToScalar : Prop :=
  ∀ (h : Hdr) (t : ETy) (sg : Bool) (m : VMod) (d : SReg) (f : FReg) (a : VReg) (k : SI) (s : State), PlainVector h s →
    let n := laneBits t
    let i := (s.me.rsi k).toNat
    let x : Nat := if i < 512 / n then laneAt n (s.me.rv a) i else 0
    let on (j : Nat) : Bool := decide (laneAt n (s.me.rv a) j % 2 = 1)
    let p := laneBits m.t
    let act (j : Nat) := laneOn s p m.mask j
    let red (o : VRed) : Nat × FFlags := tree (redStep o m.t (rndDir m.rm s.me.rmode)) 6
      ((List.range (512 / p)).map fun j => (if act j then laneAt p (s.me.rv a) j else redIdentity o (fmtOf m.t), 0))
    let total := ((List.range (512 / p)).map fun j => if act j then laneAt p (s.me.rv a) j else 0).sum
    Completes (.vmovsLane h t sg (.s d) a k) s (fun sl =>
      sl.ws d (if sg then BitVec.ofInt 64 (BitVec.ofNat n x).toInt else BitVec.ofNat 64 x)) ∧
    Completes (.vmovsLane h t sg (.f f) a k) s (fun sl => sl.wf f (BitVec.ofNat 64 x)) ∧
    Completes (.vmovsCnt h t d a) s (fun sl => sl.ws d (BitVec.ofNat 64 ((List.range (512 / n)).filter on).length)) ∧
    Completes (.vmovsBits h t d a) s (fun sl =>
      sl.ws d (BitVec.ofNat 64 ((List.range (512 / n)).foldl (fun acc j => if on j then acc + 2 ^ j else acc) 0))) ∧
    CompletesFp (.vredadd h m f a) s (red .add).2 (fun sl => sl.wf f (BitVec.ofNat 64 (red .add).1)) ∧
    CompletesFp (.vredmax h m f a) s (red .max).2 (fun sl => sl.wf f (BitVec.ofNat 64 (red .max).1)) ∧
    CompletesFp (.vredmin h m f a) s (red .min).2 (fun sl => sl.wf f (BitVec.ofNat 64 (red .min).1)) ∧
    Completes (.vrediadd h m d a) s (fun sl => sl.ws d (BitVec.ofInt 64 (BitVec.ofNat p total).toInt))

/-- 10 R218, R219: `vcvt` converts part `p`: where the lanes widen, lane `j` takes source lane `p e + j`; where they do not, the lanes of
the part take source lanes 0 on and the others keep what they held. A block conversion writes its 32 codes and its scale. -/
def Claims.VectorConversions : Prop :=
  ∀ (h : Hdr) (src dst : ETy) (m : VMod) (d a : VReg) (p : Fin 32) (s : State), PlainVector h s →
    let bs := laneBits src
    let bd := laneBits m.t
    let e := 512 / max bs bd
    let cv (j : Nat) := convert m.t src (rndDir m.rm s.me.rmode) (laneAt bs (s.me.rv a) j)
    LaneWise (.vcvt h src m d a p) s d m.t m.mask (fun j =>
      if bs < bd then cv (p.val * e + j)
      else if p.val * e ≤ j ∧ j < p.val * e + e then cv (j - p.val * e) else (laneAt bd (s.me.rv d) j, 0)) ∧
    (∃ u, exec (.vcvts h dst src d a) s = .next u ∧ (u.slot s.cur).pc = s.me.pc + 1 ∧ u.mem = s.mem) ∧
    (dst = .t8 ∨ dst = .t6 → ∃ u, exec (.vcvts h dst .bf16 d a) s = .next u ∧
      let q := quantise dst ((List.range 32).map fun j => tyDecode .bf16 (laneAt 16 (s.me.rv a) j))
      laneAt 8 ((u.slot s.cur).rv d) 32 = q.1 % 256 ∧
      ∀ j < 32, laneAt 8 ((u.slot s.cur).rv d) j = (q.2.1.getD j 0) % 256)

/-- 10 R217 to R222: moves between lanes and registers, reductions and conversions. -/
def Obligations.VectorLanes : Prop := Claims.VectorMoves ∧ Claims.VectorToScalar ∧ Claims.VectorConversions

/-- 10 R223: a gather reads the scratchpad at each lane's offset, zero where the offset is all ones; a scatter writes each lane's element;
the first lane whose address fails the local checks traps. `t` is a type of the elements' width. -/
def Claims.GatherScatter : Prop :=
  ∀ (h : Hdr) (m : MemArgs) (t : ETy) (d b : VReg) (a : SReg) (s : State), PlainVector h s → laneBits t = 8 * m.width.bytes →
    let n := m.width.bytes
    let off (j : Nat) := laneAt 32 (s.me.rv b) j
    let at_ (j : Nat) : Word := s.me.rs a + m.off.signExtend 64 + BitVec.ofNat 64 (off j)
    ((∀ j < 16, off j ≠ 0xFFFFFFFF → LocalOk (at_ j) n n) → n ≤ 4 →
      LaneWise (.vgath h m d a b) s d t none
        (fun j => (if 16 ≤ j ∨ off j = 0xFFFFFFFF then 0 else s.myCore.sp.num (at_ j).toNat n, 0)) ∧
      (∀ i < 16, off i ≠ 0xFFFFFFFF → (∀ j < 16, j ≠ i → off j = 0xFFFFFFFF) →
        ∃ u, exec (.vscat h m d a b) s = .next u ∧ (u.slot s.cur).v = s.me.v ∧
          (u.core s.cur.core).sp = s.myCore.sp.write (at_ i).toNat (leBytes n (laneAt (8 * n) (s.me.rv d) i)))) ∧
    (0x30000 < (at_ 0).toNat + n → off 0 ≠ 0xFFFFFFFF → s.me.state ≠ .handler →
      exec (.vgath h m d a b) s = .next (s.mod fun sl => sl.takeTrap 7 1 (at_ 0) sl.pc))

/-- 10 R209, R210: with the repeat hint and one read stream among the sources, the first repetition executes on the stream's strip; the
sequence goes on at the same pc where it is not the last, and ends at the next pc where it is; a repeat without a stream traps with class
6, sub-cause 7. -/
def Claims.VectorRepeat : Prop :=
  ∀ (h : Hdr) (m : VMod) (d a : VReg) (b : VS) (st : Stream) (p : Strip) (ps : List Strip) (s : State), AtHome h s →
    (h.rep = true → NoStreams s → s.me.state ≠ .handler →
      exec (.vadd h m d a b) s = .next (s.mod fun sl => sl.takeTrap 6 7 0 sl.pc)) ∧
    (s.me.streams = #v[some st, none, none, none] → st.wr = false → st.buf = p :: ps → p.fault = none → st.pos + p.n ≤ st.total →
      0 < p.n → d.val < 12 → s.me.fen = 0 →
      ∃ u, exec (.repetition h (.ibin .add false m d 12 (.v 12))) s = .next u ∧
        (u.slot s.cur).streams = #v[some { st with buf := ps, pos := st.pos + p.n }, none, none, none] ∧
        (u.slot s.cur).pc = (if st.pos + p.n < st.total then s.me.pc else s.me.pc + 1) ∧
        (u.slot s.cur).repCont = decide (st.pos + p.n < st.total))

/-- 10 R209, R210, R223: gathers, scatters and repetition. -/
def Obligations.VectorMemory : Prop := Claims.GatherScatter ∧ Claims.VectorRepeat

/-! ## The matrix engine (11 R225 to R244) -/

/-- The instruction issues an operation of the slot's matrix context. -/
def IssuesMat (i : Instr) (s : State) (d : SReg) (k : MatKind) (sync : Bool) : Prop :=
  let n := s.me.mctx.last + 1
  Issues i s (fun sl => { sl.ws d n with
    mctx := { sl.mctx with last := n, ops := sl.mctx.ops ++ [⟨n, k, s.myCore.fmt, .issued, s.release s.cur, .clean, s.readNow k⟩] } }) .m n sync

/-- 11 R239 to R243, 02 R33: the matrix instructions issue their operation once their checks pass; `mwait` on a number reached answers its
status, on one not reached parks, on one not issued traps; `mcfgr` reads the claims. -/
def Claims.MatrixIssues : Prop :=
  ∀ (h : Hdr) (d a b : SReg) (k : Fin 4) (z sy : Bool) (m : DrainArgs) (desc : List Byte) (f : DrainF) (s : State), AtHome h s →
    let w0 := s.me.rs a
    let w1 := s.me.rs b
    let e := s.engine (clusterOf s.cur.core)
    (s.me.mctx.outstanding < 8 →
      (w1.extractLsb' 18 46 = 0 → s.myCore.descriptor w0 64 = .inr desc → mjobReserved desc = false →
        (mjobOf k z desc w1).detail s.myCore.fmt = none → IssuesMat (.mjob h k z sy d a b) s d (.job (mjobOf k z desc w1)) sy) ∧
      (w0.extractLsb' 55 9 = 0 → w1.extractLsb' 53 11 = 0 → (mmaOf k z w0 w1).detail s.myCore.fmt = none →
        IssuesMat (.mma h k z sy d a b) s d (.job (mmaOf k z w0 w1)) sy) ∧
      (s.drainCheck m w0 w1 = .inr f → IssuesMat (.mdrain h m d a b) s d (.drain f) m.sync) ∧
      (w0.extractLsb' 4 60 = 0 → IssuesMat (.mcfg h sy d a) s d (.cfg (w0.extractLsb' 0 4)) sy) ∧
      IssuesMat (.mclr h k sy d) s d (.clr k) sy ∧ IssuesMat (.mabort h sy d) s d .abort sy) ∧
    (0 < w0.toNat → w0.toNat ≤ s.me.mctx.tl.toNat → s.me.mctx.tl.toNat ≤ s.me.mctx.last.toNat → exec (.mwait h d a) s =
      .next ((s.acquire s.cur.core .cluster).mod fun sl => (sl.ws d (s.me.mctx.statusOf w0)).next)) ∧
    (s.me.mctx.tl.toNat < w0.toNat → w0.toNat ≤ s.me.mctx.last.toNat →
      Parks (.mwait h d a) s .timeline (.timeline .m w0 (.mwait d))) ∧
    (s.me.mctx.last.toNat < w0.toNat → s.me.state ≠ .handler →
      exec (.mwait h d a) s = .next (s.mod fun sl => sl.takeTrap 8 2 w0 sl.pc)) ∧
    Completes (.mcfgr h d) s (fun sl =>
      sl.ws d (BitVec.ofNat 64 (claimBits e (· == some s.cur) + 16 * claimBits e (·.isSome))))

/-- 11 R238, R226: a failed issue check traps with class 8, sub-cause 1 and its detail: 1 for a reserved bit of a command word or a descriptor, 8
for a descriptor that does not lie in the scratchpad, else what the fields of the job or drain give; of a job 2 for a type, then 3 for its sizes,
then 4 for the place of A, then 5 for the place of B (the first in the list's order: log entry 19). With eight operations open an instruction
that passes parks. In a guest each traps at home with sub-cause 3. -/
def Claims.MatrixTraps : Prop :=
  (∀ (h : Hdr) (d a b : SReg) (k : Fin 4) (z sy : Bool) (m : DrainArgs) (desc : List Byte) (s : State), AtHome h s →
    let w0 := s.me.rs a
    let w1 := s.me.rs b
    (s.me.state ≠ .handler →
      let fails (i : Instr) (x : Nat) : Prop := exec i s = .next (s.mod fun sl => sl.takeTrap 8 1 (BitVec.ofNat 64 x) sl.pc)
      (w1.extractLsb' 18 46 ≠ 0 → fails (.mjob h k z sy d a b) 1) ∧
      (∀ x, w1.extractLsb' 18 46 = 0 → s.myCore.descriptor w0 64 = .inl x → fails (.mjob h k z sy d a b) 8) ∧
      (w1.extractLsb' 18 46 = 0 → s.myCore.descriptor w0 64 = .inr desc →
        (mjobReserved desc = true → fails (.mjob h k z sy d a b) 1) ∧
        (mjobReserved desc = false → ∀ x, (mjobOf k z desc w1).detail s.myCore.fmt = some x → fails (.mjob h k z sy d a b) x)) ∧
      (w0.extractLsb' 55 9 ≠ 0 ∨ w1.extractLsb' 53 11 ≠ 0 → fails (.mma h k z sy d a b) 1) ∧
      (w0.extractLsb' 55 9 = 0 → w1.extractLsb' 53 11 = 0 → ∀ x, (mmaOf k z w0 w1).detail s.myCore.fmt = some x →
        fails (.mma h k z sy d a b) x) ∧
      (∀ x, s.drainCheck m w0 w1 = .inl x → fails (.mdrain h m d a b) x) ∧
      (w0.extractLsb' 4 60 ≠ 0 → fails (.mcfg h sy d a) 1)) ∧
    (8 ≤ s.me.mctx.outstanding → ∀ i ∈ [Instr.mclr h k sy d, .mabort h sy d], Parks i s .engineQueue (.again (.engine .m)))) ∧
  (∀ (f : JobF) (fmts : Vector Word 12),
    let legal (t : Nat) : Prop := t = 1 ∨ t = 2 ∨ t = 3
    let types : Prop := (f.a0 < 0x30000 → legal (fmtType (f.fmtA fmts))) ∧ legal f.bty ∧ (f.scaled = true → f.bty ≠ 1)
    let sizes : Prop := 16 ≤ f.m ∧ f.m ≤ 64 ∧ 16 ≤ f.n ∧ f.n ≤ 64 ∧ f.k % 16 = 0 ∧ 16 ≤ f.k ∧ f.k ≤ 4096
    let panel : Prop := f.boff + spanBytes f.bty f.k ≤ 0x1F00 ∧ (f.scaled = true → f.soff + ceilDiv f.k 32 ≤ 0x100) ∧
      f.boff % (if f.bty = 3 then 3 else codeBytes f.bty) = 0
    (¬ types → f.detail fmts = some 2) ∧
    (types → ¬ sizes → f.detail fmts = some 3) ∧
    (types → sizes → f.badA fmts = true → f.detail fmts = some 4) ∧
    (types → sizes → f.badA fmts = false → ¬ panel → f.detail fmts = some 5) ∧
    (types → sizes → f.badA fmts = false → panel → f.detail fmts = none)) ∧
  (∀ (h : Hdr) (d a b : SReg) (k : Fin 4) (z sy : Bool) (m : DrainArgs) (s : State), Runs h s → s.me.hosting.isSome = true →
    ∀ i ∈ [Instr.mjob h k z sy d a b, .mma h k z sy d a b, .mdrain h m d a b, .mwait h d a, .mcfg h sy d a, .mcfgr h d, .mclr h k sy d,
      .mabort h sy d], exec i s = .next (s.sendHome s.cur (.trap 8 3 0) s.me.pc))

/-- 11 R226, R238 to R243, 02 R33: the issue of the matrix instructions, and their traps. -/
def Obligations.MatrixIssue : Prop := Claims.MatrixIssues ∧ Claims.MatrixTraps

/-- 11 R231 to R234: an engine with room accepts the operation its round robin offers; a clear of a bank nobody else has claimed enters the
queue; its start makes it the running job; its completion leaves the bank empty. A job completes with its sums where its operands stand as the
engine has read them. A drain whose packets are all performed completes; one that has lost packets fails with cause 2 (11 R236). That an
operation leaves the acceptance queue when it starts is the model's reading (log entry 11). -/
def Obligations.MatrixUnits : Prop :=
  ∀ (c : ClusterId) (i : Nat) (o : MatOp) (b : Fin 4) (w : Who) (num : Word) (j : RunJob) (f : JobF) (r : RunDrain) (s : State),
    (s.engine c).queue.length < 32 →
    (s.matNext c = some (i, o) → o.kind = .clr b → (s.engine c).claims[b] = none →
      ∃ t, exec (.matrixAccept c) s = .next t ∧ (t.engine c).queue = (s.engine c).queue ++ [(ctxWho c i, o.num)] ∧
        (t.engine c).rr = i) ∧
    (s.matReady c false = some ((w, num), o) → o.kind = .clr b →
      ∃ t, exec (.matrixJobStart c false) s = .next t ∧ (t.engine c).job = some ⟨w, num⟩ ∧
        (w, num) ∉ (t.engine c).queue) ∧
    ((s.engine c).job = some j → s.matOp (j.who, j.num) = some o →
      (o.kind = .clr b → ∃ t, exec (.matrixJobComplete c) s = .next t ∧ (t.engine c).banks[b] = [] ∧ (t.engine c).job = none) ∧
      (o.kind = .job f → o.over = false → s.storesDone o.rel = true → clusterOf j.who.core = c →
        o.read = some (f.now s j.who.core o.fmts) → ∃ t, exec (.matrixJobComplete c) s = .next t ∧ (t.engine c).job = none ∧
          (t.engine c).banks[f.bank] = f.accumulate (f.now s j.who.core o.fmts).1.toArray (f.now s j.who.core o.fmts).2.toArray (s.engine c).banks[f.bank])) ∧
    ((s.engine c).drain = some r → s.drainFlying c = false →
      (r.performed = r.sent → exec (.drainComplete c) s =
        .next (s.endDrain c r (((s.matOp (r.who, r.num)).map (·.status)).getD .clean))) ∧
      (r.performed < r.sent → ∃ t st, exec (.drainFail c) s = .next t ∧ t = s.endDrain c r st ∧ st.error = true ∧ st.cause = 2 ∧
        (t.engine c).drain = none))

/-! ## Remote accesses, mailboxes, roaming (12 R246 to R263, 08 R176) -/

/-- The packet that carries a remote access of the running slot. -/
def remotePacket (s : State) (x : Word) (cls : TClass) (op : ROp) (posted : Bool) : Packet :=
  ⟨.slot (s.agent s.cur), remoteDst x, cls, .rreq (s.agent s.cur) s.me.nextId (s.jobOf s.cur) x op posted⟩

/-- The roam hint does not move the slot for this access: there is none, or the access names the slot's own module (12 R256). -/
abbrev Stays (h : Hdr) (s : State) (x : Word) : Prop := h.roam = true → tileMod x = s.modId ∧ s.me.roamed = false

/-- 12 R254, R256: a remote load or atomic whose address passes the issue checks, with none of the slot's unacknowledged writes in its way, parks
with its request sent to the module the address names; one of them in its way parks it without an effect; an address with a bit set in
[50:48] traps with sub-cause 1, one of a module outside the domain or the view with sub-cause 2. -/
def Claims.RemoteValues : Prop :=
  ∀ (h : Hdr) (b a r : SReg) (d : SFV) (op : AmoOp) (m : MemArgs) (q : AmoArgs) (s : State), AtHome h s → NoStreams s →
    let x := memAddr s.me a m
    let y := amoAddr s.me a q
    let asks (i : Instr) (k : GOp) (z : Word) (o : ROp) (hold : Hold) : Prop := exec i s = .next
      (((s.park .remoteLoad (.remote s.me.nextId k)).mod fun sl => { sl with nextId := sl.nextId + 1, object := z }).post
        (remotePacket s z .request o false) hold)
    (s.remoteFault x false = none → Stays h s x → (tileMod x = s.modId → s.carried s.me = false) →
      (s.me.behindWrites x m.width.bytes = [] →
        asks (.rld h d a m) (.ld d m.width m.sg .fabric false) x (.ld m.width) (s.holdAfter s.cur)) ∧
      (s.me.behindWrites x m.width.bytes ≠ [] →
        Parks (.rld h d a m) s .remoteQueue (.again (.writes (s.me.behindWrites x m.width.bytes))))) ∧
    (s.remoteFault y false = none → Stays h s y → (tileMod y = s.modId → s.carried s.me = false) →
      s.me.behindWrites y q.width.bytes = [] →
      asks (.ramo h op r a b q) (.amo op r q.width (s.me.rs b) .fabric) y (.amo op q.width (s.me.rs b)) (s.holdOf s.cur) ∧
      asks (.ramocas h r a b q) (.cas r q.width (s.me.rs r) (s.me.rs b) .fabric) y (.cas q.width (s.me.rs r) (s.me.rs b))
        (s.holdOf s.cur)) ∧
    (s.me.state ≠ .handler →
      (x.extractLsb' 48 3 ≠ 0 → exec (.rld h d a m) s = .next (s.mod fun sl => sl.takeTrap 9 1 x sl.pc)) ∧
      (x.extractLsb' 48 3 = 0 → x.getLsbD 51 = false → (s.domainMax < tileMod x ∨ s.inView s.cur (tileMod x) = false) →
        exec (.rld h d a m) s = .next (s.mod fun sl => sl.takeTrap 9 2 x sl.pc)))

/-- 12 R254, R256: a remote load or atomic that loops to the slot's own module completes once its request has been performed there, its reply
has arrived and the slot returns: with the bytes its address holds, an atomic with the old value and the operation's result in memory.
Stated for an access of one part by a slot with nothing posted, the network empty, every die and link up, and no word poisoned. -/
def Claims.RemoteCompletions : Prop :=
  ∀ (h : Hdr) (b a r : SReg) (d : SFV) (op : AmoOp) (m : MemArgs) (q : AmoArgs) (l : Launch) (ls : List Launch) (g : Seg) (s : State),
    AtHome h s → NoStreams s → s.me.Quiet → s.Whole → s.net = [] → s.poison = [] → s.mem.wf = true →
    s.jobLaunches (s.jobOf s.cur) = l :: ls →
    let x := memAddr s.me a m
    let y := amoAddr s.me a q
    let k := q.width.bytes
    let w := s.cur
    let served (i : Instr) : State → State → Prop := Leads [i, .remoteRequestAtTarget 0, .remoteReply 0, .parkReasonMet w]
    let atomic (i : Instr) (new : Nat → Nat) : Prop := ∃ t, served i s t ∧ (t.slot w).pc = s.me.pc + 1 ∧
      (r ≠ 0 → (t.slot w).rs r = BitVec.ofNat 64 (s.mem.num g.pa k)) ∧ t.mem = s.mem.write g.pa (leBytes k (new (s.mem.num g.pa k)))
    (tileMod x = s.modId → Stays h s x → s.remoteFault x false = none → s.remoteCheck l.root x (.ld m.width) = .ok [g] →
      inWindow g.pa = false → ∃ t, served (.rld h d a m) s t ∧ (t.slot w).pc = s.me.pc + 1 ∧ t.mem = s.mem ∧
        (t.slot w).s = (s.me.wLoad d m.sg (s.mem.read g.pa g.len)).s ∧ (t.slot w).f = (s.me.wLoad d m.sg (s.mem.read g.pa g.len)).f ∧
        (t.slot w).v = (s.me.wLoad d m.sg (s.mem.read g.pa g.len)).v) ∧
    (tileMod y = s.modId → Stays h s y → s.remoteFault y false = none → inWindow g.pa = false → g.len = k →
      (s.remoteCheck l.root y (.amo op q.width (s.me.rs b)) = .ok [g] →
        atomic (.ramo h op r a b q) fun o => amoNew op q.width o (s.me.rs b).toNat) ∧
      (s.remoteCheck l.root y (.cas q.width (s.me.rs r) (s.me.rs b)) = .ok [g] →
        atomic (.ramocas h r a b q) fun o => if o = (s.me.rs r).toNat % 2 ^ (8 * k) then (s.me.rs b).toNat else o))

/-- 12 R257: a posted remote write is counted as outstanding at every module it names, sent, and completes; with its place not free it parks. -/
def Claims.RemoteWrites : Prop :=
  ∀ (h : Hdr) (b a : SReg) (c : SFV) (op : AmoOp) (m : MemArgs) (q : AmoArgs) (s : State), AtHome h s → NoStreams s →
    let x := memAddr s.me a m
    let y := amoAddr s.me a q
    (s.remoteFault x true = none → (x.getLsbD 51 = false → Stays h s x) → (s.modId ∈ s.targets x → s.carried s.me = false) →
      (s.remoteFull s.cur = false → exec (.rst h c a m) s = .next
        ((s.post (remotePacket s x .bulk (.st m.width (s.me.rStore c m.width)) true) (s.holdAfter s.cur)).mod fun sl =>
          ((sl.pops (c.vs m.width)).openWrite (if x.getLsbD 51 then 3 else 0) x m.width.bytes (s.targets x)).next)) ∧
      (s.remoteFull s.cur = true → Parks (.rst h c a m) s .remoteQueue (.again .remoteQ))) ∧
    (s.remoteFault y false = none → Stays h s y → (tileMod y = s.modId → s.carried s.me = false) → s.remoteFull s.cur = false →
      exec (.ramoPosted h op a b q) s = .next
        ((s.post (remotePacket s y .request (.amo op q.width (s.me.rs b)) true) (s.holdOf s.cur)).mod fun sl =>
          (sl.openWrite 1 y q.width.bytes [tileMod y]).next))

/-- 12 R258, R259: `eqrd` reads the oldest entry of the error queue, zero where there is none; `eqpop` reads and removes it, but one that
arrived in the cycle of its issue it does not see. -/
def Claims.ErrorQueue : Prop :=
  ∀ (h : Hdr) (info : Bool) (d : SReg) (s : State), AtHome h s →
    Completes (.eqrd h info d) s (fun sl => sl.ws d (match sl.errq with
      | [] => 0
      | e :: _ => if info then e.info else e.addr)) ∧
    Completes (.eqpop h d) s (fun sl => match sl.errq with
      | [] => sl.ws d 0
      | e :: r => if e.at_ = s.cycle then sl.ws d 0 else { sl with errq := r }.ws d e.info)

/-- 12 R254 to R259: remote values and writes, and the error queue. -/
def Obligations.RemoteAccesses : Prop := Claims.RemoteValues ∧ Claims.RemoteCompletions ∧ Claims.RemoteWrites ∧ Claims.ErrorQueue

/-- 12 R261, R262: `roam` to the slot's own module has no effect; to another it parks the slot with its thread's registers sent away, and so does
an access with the roam hint, whose thread goes to perform it there; `home` in a slot that hosts no thread has no effect. -/
def Claims.Roaming : Prop :=
  ∀ (h : Hdr) (a d : SReg) (m : MemArgs) (s : State), AtHome h s →
    let x := s.me.rs a
    let y := memAddr s.me a m
    let leaves (i : Instr) (pc : Word) (hint : Bool) : Prop := ∃ t, exec i s = .next t ∧ (t.slot s.cur).wait = .roam ∧
      (t.slot s.cur).reason = .roam ∧ (t.slot s.cur).away =
        some ⟨s.agent s.cur, s.jobOf s.cur, pc, s.me.s, s.me.k, s.me.flags, s.me.fen, s.me.rmode, hint⟩
    Completes (.home h) s id ∧
    (s.remoteFault x false = none → tileMod x = s.modId → Completes (.roam h a) s id) ∧
    (s.me.Quiet → s.me.errq = [] →
      (s.remoteFault x false = none → tileMod x ≠ s.modId → leaves (.roam h a) (s.me.pc + 1) false) ∧
      (s.remoteFault y false = none → tileMod y ≠ s.modId → h.roam = true → leaves (.rld h (.s d) a m) s.me.pc true))

/-- 12 R261 to R263: a thread that arrives takes the highest free slot of its core; `home` gives its slot back to the pool, with the slot's own
registers; a thread that comes home goes on at its pc; one that is lost traps at home. -/
def Claims.Guests : Prop :=
  ∀ (c c' : CoreId) (g : Guest) (i : Fin 16) (is : List (Fin 16)) (k : Nat) (p : Packet) (w : Who) (h : Hdr) (x : Hosting) (s : State),
    (s.net = [] → (s.core c).arrivals = [g] → (s.core c).poolSlots s.cycle = i :: is → ∃ t, exec (.roamArrival c) s = .next t ∧
      (t.slot ⟨c, i⟩).state = .guest ∧ (t.slot ⟨c, i⟩).pc = g.pc ∧ (t.slot ⟨c, i⟩).s = g.s ∧ (t.slot ⟨c, i⟩).k = g.k ∧
      ((t.slot ⟨c, i⟩).hosting.map (·.home)) = some g.home ∧ (t.core c).arrivals = []) ∧
    (Runs h s → s.me.hosting = some x → s.me.Quiet → x.home.mod = s.modId → (s.slot x.home.who).errq = [] → s.cur.slot ≠ 0 →
      ∃ t, exec (.home h) s = .next t ∧ (t.slot s.cur).state = .pool ∧ (t.slot s.cur).hosting = none ∧ (t.slot s.cur).s = x.own.s) ∧
    (s.Arrives k p → p.dst = .core c' → p.body = .home g .plain → g.home.mod = s.modId → s.noticeOpen g.home.who.core = true →
      (s.slot g.home.who).wait = .roam → ∃ t, exec (.guestReturn k) s = .next t ∧ (t.slot g.home.who).pc = g.pc ∧
        (t.slot g.home.who).s = g.s ∧ (t.slot g.home.who).wait = .none ∧ (t.slot g.home.who).away = none) ∧
    ((s.slot w).wait = .roam → (s.slot w).hosting = none → (s.slot w).state ≠ .handler → ∃ t, exec (.guestLost w) s = .next t ∧
      (t.slot w).tcause = 0x0905 ∧ (t.slot w).tval = (s.slot w).object ∧ (t.slot w).epc = (s.slot w).pc ∧
      (t.slot w).pc = (s.slot w).tvec ∧ (t.slot w).state = .handler)

/-- 12 R261 to R263: roaming and guests. -/
def Obligations.RoamingThreads : Prop := Claims.Roaming ∧ Claims.Guests

/-- 12 R254, R256: a remote request at its target is refused where its job has no launch there; one of one part is performed, and answered with
its bytes or an acknowledgement. -/
def Claims.RequestAtTarget : Prop :=
  ∀ (k : Nat) (p : Packet) (src : Agent) (id : Nat) (job : BitVec 32) (va : Word) (w : Width) (x : List Byte) (g : Seg) (l : Launch)
    (ls : List Launch) (s : State), s.Arrives k p → (s.net[k]?.bind (·.work)) = none → p.dst = .mdl s.modId →
    (∀ op, p.body = .rreq src id job va op false → s.jobLaunches job = [] → exec (.remoteRequestAtTarget k) s =
      .next ((s.taken k).send ⟨.io, agentDst s.modId src, .reply, .rrep src id (.fail 3 0x20)⟩)) ∧
    (s.jobLaunches job = l :: ls → s.mem.wf = true → s.poison = [] → inWindow g.pa = false → s.way none g.pa = .clear →
      (p.body = .rreq src id job va (.st w x) true → s.remoteCheck l.root va (.st w x) = .ok [g] →
        ∃ t u : State, exec (.remoteRequestAtTarget k) s = .next t ∧ t.mem = s.mem.write g.pa ((x.drop g.off).take g.len) ∧
          t = u.answerRemote src id true (.inl [])) ∧
      (p.body = .rreq src id job va (.ld w) false → src.mod = s.modId → s.remoteCheck l.root va (.ld w) = .ok [g] →
        ∃ t u : State, exec (.remoteRequestAtTarget k) s = .next t ∧ t.mem = s.mem ∧
          t = u.answerRemote src id false (.inl (s.mem.read g.pa g.len))))

/-- 12 R256 to R258: a reply reaches the slot that waits for it; the acknowledgement of the last target of a write closes it, that of an earlier
one only counts, and that of a module that has answered or left before changes nothing; a failure joins the error queue. -/
def Claims.Answers : Prop :=
  ∀ (k : Nat) (p : Packet) (src : Agent) (id : Nat) (x : List Byte) (m : Fin 4096) (s : State), s.Arrives k p → src.mod = s.modId →
    let u := s.taken k
    (∀ op, p.body = .rrep src id (.ok x) → (s.slot src.who).wait = .remote id op →
      exec (.remoteReply k) s = .next (u.modSlot src.who fun sl => { sl with reply := some (.data x) })) ∧
    (∀ o, ((s.slot src.who).outst.find? (·.id == id)) = some o → o.fails = [] →
      (o.left = [m] → (srcMod p.src).getD s.modId = m → p.body = .rack src id none → exec (.remoteWriteAck k) s =
        .next (u.modSlot src.who fun sl => { sl with outst := sl.outst.filter fun y => y.id != id })) ∧
      (m ∈ o.left → (∃ m' ∈ o.left, m' ≠ m) → p.src = .mdl m → p.body = .rack src id none → exec (.remoteWriteAck k) s =
        .next (u.modSlot src.who fun sl => { sl with
          outst := sl.outst.map fun y => if y.id = id then { o with left := o.left.filter (· ≠ m) } else y })) ∧
      (o.left ≠ [] → m ∉ o.left → p.src = .mdl m → p.body = .rack src id none → exec (.remoteWriteAck k) s = .next u) ∧
      (∀ e, o.left = [m] → p.body = .rack src id (some e) → e.peer = m → o.home = none → ∃ t, exec (.remoteWriteFail k) s = .next t ∧
        (t.slot src.who).errq = (s.slot src.who).errq ++ [⟨o.addr, errInfo ⟨e.cause, m, 1⟩ o.kind, s.cycle⟩] ∧
        (t.slot src.who).outst = (s.slot src.who).outst.filter fun y => y.id != id))

/-- 12 R254, R256 to R258: remote requests at their target, and their answers. -/
def Obligations.RemoteEvents : Prop := Claims.RequestAtTarget ∧ Claims.Answers

/-- 08 R176, 12 R260: `mbinc` adds to its counter, at once on its own core where the slot has nothing posted; in its remote form it sends a
posted packet, to the counter's core on its own module, to another module, or to the members of a group; `mbwait` goes on once the counter
has reached its operand and else parks; `mbrd` reads. -/
def Claims.Mailboxes : Prop :=
  ∀ (h : Hdr) (d a : SReg) (b : SI) (n : MbIdx) (c : CoreId) (j : MbIdx) (s : State), AtHome h s →
    let v := (s.me.rsi b).setWidth 32
    let x := s.me.rs a
    let own := x.getLsbD 51 = false ∧ tileMod x = s.modId
    (s.me.Quiet → exec (.mbincLocal h n b) s = .next ((s.mbAdd s.cur.core n v).mod Slot.next)) ∧
    (s.remoteFull s.cur = false → s.mbName x = .inr (c, j) → exec (.mbincRemote h a b) s = .next
      ((s.post ⟨.slot (s.agent s.cur), if own then .core c else remoteDst x, .notice,
          .mbInc c j v (some (s.agent s.cur, s.me.nextId, s.jobOf s.cur))⟩ (s.holdOf s.cur)).mod fun sl =>
        let sl := sl.openWrite (if x.getLsbD 51 then 4 else 2) x 0 (s.targets x)
        (if own then { sl with tbm := sl.tbm ||| (1#49 <<< (c.stack.val * 8 + c.y.val / 4)) } else sl).next)) ∧
    (NoRelease s →
      Completes (.mbrd h d n) s (fun sl => sl.ws d (s.myCore.mb[n].setWidth 64)) ∧
      ((s.myCore.mb[n] - v).toNat < 2 ^ 31 → exec (.mbwait h n b) s = .next ((s.acquire s.cur.core .mdl).mod Slot.next)) ∧
      (2 ^ 31 ≤ (s.myCore.mb[n] - v).toNat → exec (.mbwait h n b) s =
        .next ((s.park .mailbox (.mailbox n v)).mod fun sl => { sl with object := BitVec.ofNat 64 n.val })))

/-- 08 R176, 12 R260: an increment that arrives is performed at its counter, and changes no other counter and no scratchpad; one that a slot of
the module counts is then no longer counted. -/
def Claims.MailboxIncrement : Prop :=
  ∀ (k : Nat) (p : Packet) (c c' : CoreId) (i : MbIdx) (v : BitVec 32) (e : Option (Agent × Nat × BitVec 32)) (s : State),
    s.Arrives k p → p.dst = .core c → p.body = .mbInc c' i v e → s.noticeOpen c = true →
    (e = none ∨ ∃ a n q, e = some (a, n, q) ∧ a.mod = s.modId ∧ n ∈ (s.slot a.who).incs) →
    ∃ t, exec (.mailboxIncrement k) s = .next t ∧ (t.core c).mb[i] = (s.core c).mb[i] + v ∧
      (∀ j : MbIdx, j ≠ i → (t.core c).mb[j] = (s.core c).mb[j]) ∧ (∀ c'', (t.core c'').sp = (s.core c'').sp) ∧ t.mem = s.mem ∧
      ∀ a n q, e = some (a, n, q) → n ∉ (t.slot a.who).incs

/-- 08 R176, 12 R260: the mailbox instructions and the arrival of an increment. -/
def Obligations.MailboxCounters : Prop := Claims.Mailboxes ∧ Claims.MailboxIncrement

/-! ## The network and the Erg ports (06 R134 to R139, 12 R246 to R253) -/

/-- 06 R134, R135, R139, 12 R248: a head that has stood for the ageing threshold is promoted, in a router and in a switch; one that stands
still goes to the escape channel and pins its flow; a UCIe link replays up to eight times, retrains, and is restored or lost. The loss is
stated for a module with no access in flight. -/
def Claims.Network : Prop :=
  ∀ (b : BufId) (k n input c0 : Nat) (cls : TClass) (f : Flight) (x : SwPacket) (l : LinkId) (s : State),
    (s.bufHead b = some k → s.net[k]? = some f → f.esc = false → f.headAt = some c0 →
      (c0 + s.agethr b.die ≤ s.cycle →
        exec (.packetPromotion (.router b)) s = .next { s with net := s.net.set k { f with promoted := true } }) ∧
      (s.cycle < c0 + s.agethr b.die → exec (.packetPromotion (.router b)) s = .next s)) ∧
    ((s.switch n).head input cls = some k → (s.switch n).queue[k]? = some x → x.headAt = some c0 →
      c0 + s.settings.barchanAge ≤ s.cycle → ∃ t y, exec (.packetPromotion (.switch n input cls)) s = .next t ∧
        (t.switch n).queue[k]? = some y ∧ y.pkt = x.pkt ∧ y.promoted = true) ∧
    (s.bufHead { b with esc := false } = some k → s.net[k]? = some f → f.headAt = some c0 → c0 + s.dlkthr b.die ≤ s.cycle →
      ∃ t, exec (.deadlockEscape (.router b)) s = .next t ∧ flowOf f.pkt ∈ t.pins ∧
        ∃ g, t.net[k]? = some g ∧ g.pkt = f.pkt ∧ g.esc = true) ∧
    ((s.link l).st = .up →
      ((s.link l).replays < 8 → exec (.ucieReplay l) s = .next (s.setLink l ⟨.up, (s.link l).replays + 1⟩)) ∧
      (8 ≤ (s.link l).replays → exec (.ucieRetrain l) s = .next (s.setLink l ⟨.retrain s.cycle, 0⟩))) ∧
    ((s.link l).st = .retrain n →
      (s.cycle < n + 100000 → exec (.ucieLinkRestored l) s = .next (s.setLink l ⟨.up, 0⟩)) ∧
      (n + 100000 ≤ s.cycle → s.Still → s.pins = [] → exec (.ucieLinkLost l) s = .next (s.setLink l ⟨.lost, 0⟩)))

/-- 12 R249 to R251: a flit that fails its check is discarded and counted; an empty data flit in order moves the receiver on by one; a
NAK is counted; a gap is asked for again; a port retrains after eight, and is restored or lost. The loss is stated for a port and a plane that
hold nothing, where another port is left. -/
def Claims.ErgPorts : Prop :=
  ∀ (i : Fin 16) (f : Flit) (q : Fin 4096) (n c m : Nat) (s : State),
    let p := s.ports[i]
    let put (p : Port) : State := { s with ports := s.ports.set i p }
    (p.st = .up →
      exec (.ergFlitReceive i f false) s = .next (put { p with discarded := p.discarded + 1 }) ∧
      (f.ty = 0 → f.payload = [] → f.nak = none → f.seq = p.expect → p.held = [] → p.gaps = [] → p.unacked = [] →
        ∃ t, exec (.ergFlitReceive i f true) s = .next t ∧ t.ports[i].expect = p.expect + 1 ∧ t.ports[i].held = []) ∧
      exec (.ergNak i q) s = .next (put (p.naked q)) ∧
      (p.eight = true → exec (.ergPortRetrain i) s = .next (put { p with st := .retrain s.cycle, line := none }))) ∧
    (p.gaps = [(q, c, m)] →
      (2048 * s.clock ≤ 1000 * (s.cycle - c) → exec (.ergGapRenak i q) s = .next (put { p with
        toNak := if q ∈ p.toNak then p.toNak else p.toNak ++ [q], gaps := [(q, s.cycle, m + 1)] })) ∧
      (1000 * (s.cycle - c) < 2048 * s.clock → exec (.ergGapRenak i q) s = .next (put p))) ∧
    (p.st = .retrain n →
      (s.cycle < n + 200000 → exec (.ergPortRestored i) s = .next
        (put { p with st := .up, naks := [], gaps := p.gaps.map fun g => (g.1, s.cycle, 1) })) ∧
      (n + 200000 ≤ s.cycle → p.waiting = [] → p.unacked = [] →
        (∀ x ∈ s.planeSwitches i.val, x.2.queue = [] ∧ x.2.wait = [] ∧ x.2.replies = []) → (∃ j, j ≠ i ∧ s.ports[j].st ≠ .lost) →
        ∃ t, exec (.ergPortLost i) s = .next t ∧ t.ports[i].st = .lost))

/-- 12 R247, R252, R253: two additions of one queue and one launch are combined into one; the reply to it answers both, and one to no combined
request goes on; a packet at the head of its channel reserves every output it needs at once, passes them in turn to the next stage, and
leaves the last stage for its module. -/
def Claims.Switches : Prop :=
  ∀ (n i j k o : Nat) (os : List Nat) (x y : SwPacket) (a b p : Packet) (sa sb : Agent) (ia ib : Nat) (job : BitVec 32) (va : Word)
    (w : Width) (xa xb : Word) (bs : List Byte) (s : State),
    let sw := s.switch n
    (i < j → sw.queue[i]? = some x → sw.queue[j]? = some y → x.pkt.body = .rreq sa ia job va (.amo .add w xa) false →
      y.pkt.body = .rreq sb ib job va (.amo .add w xb) false → x.pkt.dst = y.pkt.dst → x.out = y.out → x.reserved = [] →
      y.reserved = [] → s.oneLaunch x.pkt.body y.pkt.body = true → sw.wait.length < 512 →
      (sw.queue.take j).any (fun z => y.pkt.sameFlow z.pkt) = false → ∃ t, exec (.switchCombine n i j) s = .next t ∧
        (t.switch n).wait = sw.wait ++ [⟨x.pkt, y.pkt, xa⟩] ∧
        (t.switch n).queue.map (·.pkt) =
          ((sw.queue.map (·.pkt)).set i { x.pkt with body := .rreq sa ia job va (.amo .add w (xa + xb)) false }).eraseIdx j) ∧
    (sw.replies[k]? = some p →
      (p.body = .rrep sa ia (.ok bs) → sw.wait = [⟨a, b, xa⟩] → a.body = .rreq sa ia job va (.amo .add w xa) false →
        b.body = .rreq sb ib job va (.amo .add w xb) false → ∃ t, exec (.combinedReply n k) s = .next t ∧
          (t.switch n).replies = sw.replies.eraseIdx k ++ [{ p with body := .rrep sa ia (.ok (leBytes w.bytes (leNat bs))) },
            { p with body := .rrep sb ib (.ok (leBytes w.bytes (leNat bs + xa.toNat))) }] ∧
          (t.switch n).wait = []) ∧
      (sw.wait = [] → exec (.combinedReply n k) s = .next ((s.setSwitch n { sw with replies := sw.replies.eraseIdx k }).arriveAt (n / 96)
        ((srcMod p.src).getD s.modId) p))) ∧
    (sw.queue[k]? = some x → sw.isHead k = true →
      (x.reserved = [] → s.oldTag x.pkt = false → s.needs n x = o :: os → (∀ y ∈ sw.queue, ∀ u ∈ o :: os, u ∉ y.reserved) →
        ∃ t z, exec (.multicastForward n k) s = .next t ∧ (t.switch n).queue[k]? = some z ∧ z.pkt = x.pkt ∧ z.reserved = o :: os) ∧
      (x.reserved = [o] → n / 32 % 3 = 2 → Fin.ofNat 4096 (n % 32 * 128 + o) ≠ s.modId → ∃ t, exec (.multicastForward n k) s = .next t ∧
        (t.switch n).out = sw.out ++ [((Fin.ofNat 4096 (n % 32 * 128 + o)).val, x.pkt)] ∧
        (t.switch n).queue.map (·.pkt) = (sw.queue.eraseIdx k).map (·.pkt)) ∧
      (x.reserved = [o] → n / 32 % 3 < 2 → ∃ t z, exec (.multicastForward n k) s = .next t ∧
        z ∈ (t.switch (nextSwitch n o).1).queue ∧ z.pkt = x.pkt ∧ z.input = (nextSwitch n o).2))

/-- 06 R134, R135, R139, 12 R249 to R253: the on-chip network, the module's ports and its switches. -/
def Obligations.NetworkEvents : Prop := Claims.Network ∧ Claims.ErgPorts ∧ Claims.Switches

/-! ## Collectives, repartition, views (13 R264 to R289) -/

/-- The instruction issues the operation `o` in the slot's collective context. -/
def IssuesColl (i : Instr) (s : State) (d : SReg) (o : CollOp) : Prop :=
  Completes i s fun sl => { sl.ws d o.num with xctx := { sl.xctx with last := o.num, report := none, ops := sl.xctx.ops ++ [o] } }

/-- 13 R280, R281, R284, 02 R33: an operation whose descriptor passes the checks is issued by a member whose context is not stale; a bad
field traps with its detail, a stale context with sub-cause 3, a module outside the view with sub-cause 4. That an isolated module counts as
outside the view is the model's reading (log entry 15). -/
def Claims.CollectiveIssue : Prop :=
  ∀ (h : Hdr) (d a b : SReg) (desc : List Byte) (s : State), AtHome h s → s.myCore.descriptor (s.me.rs a) 64 = .inr desc →
    let v := s.viewOf (s.ownJob s.cur)
    let n := s.me.xctx.last + 1
    let o := collFields desc (s.me.rs b) n (s.release s.cur)
    let r := repartFields desc n (s.release s.cur)
    let traps (i : Instr) (sub : Nat) (x : Word) : Prop := exec i s = .next (s.mod fun sl => sl.takeTrap 0xA sub x sl.pc)
    (collDetail desc o v.view = none → s.me.xctx.stale = false → v.inside = true → s.me.xctx.outstanding < 8 →
      IssuesColl (.coll h false d a b) s d o) ∧
    (repartDetail desc r = none → s.me.xctx.stale = false → v.inside = true → s.me.xctx.outstanding < 8 →
      IssuesColl (.repart h false d a) s d r) ∧
    (collDetail desc o v.view = none → s.me.xctx.stale = false → v.inside = true → s.me.xctx.outstanding < 8 →
      exec (.coll h true d a b) s = .next ((s.mod fun sl => { sl.ws d n with
        xctx := { sl.xctx with last := n, report := none, ops := sl.xctx.ops ++ [o] } }).park .timeline (.timeline .x n .sync))) ∧
    (repartDetail desc r = none → s.me.xctx.stale = false → v.inside = true → s.me.xctx.outstanding < 8 →
      exec (.repart h true d a) s = .next ((s.mod fun sl => { sl.ws d n with
        xctx := { sl.xctx with last := n, report := none, ops := sl.xctx.ops ++ [r] } }).park .timeline (.timeline .x n .sync))) ∧
    (collDetail desc o v.view = none → s.me.xctx.stale = false → v.inside = true → 8 ≤ s.me.xctx.outstanding →
      Parks (.coll h false d a b) s .engineQueue (.again (.engine .x))) ∧
    (s.me.state ≠ .handler →
      (∀ x, collDetail desc o v.view = some x → traps (.coll h false d a b) 1 (BitVec.ofNat 64 x)) ∧
      (∀ x, repartDetail desc r = some x → traps (.repart h false d a) 1 (BitVec.ofNat 64 x)) ∧
      (collDetail desc o v.view = none → s.me.xctx.stale = true → traps (.coll h false d a b) 3 0) ∧
      (collDetail desc o v.view = none → s.me.xctx.stale = false → v.inside = false → traps (.coll h false d a b) 4 0))

/-- 13 R282, R283: `viewrd` parks for the view's part, which it then reads; `viewack` clears a stale context with code 0 where it names the
view installed, else answers 2, and 1 where the context is not stale. -/
def Claims.ViewInstructions : Prop :=
  ∀ (h : Hdr) (p : Fin 8) (d a : SReg) (q : Option SReg) (s : State), AtHome h s →
    let num := (s.viewOf (s.ownJob s.cur)).view.num
    let i := ((q.map s.me.rs).getD 0).toNat % 64
    Parks (.viewrd h p d q) s .view (.view p d i) ∧
    (s.me.state ≠ .spilled → ∃ t, Leads [.viewrd h p d q, .parkReasonMet s.cur] s t ∧ (t.slot s.cur).pc = s.me.pc + 1 ∧
      (d ≠ 0 → (t.slot s.cur).rs d = s.viewPart (s.jobOf s.cur) p i) ∧ t.mem = s.mem) ∧
    (∀ w i, (s.slot w).state ≠ .spilled → (s.slot w).wait = .view p d i →
      exec (.parkReasonMet w) s = .next (s.modSlot w fun sl => (sl.unpark.ws d (s.viewPart (s.jobOf w) p i)).next)) ∧
    (s.me.xctx.stale = false → Completes (.viewack h d a) s (fun sl => sl.ws d 1)) ∧
    (s.me.xctx.stale = true → (s.me.rs a).setWidth 32 = num →
      Completes (.viewack h d a) s (fun sl => { sl.ws d 0 with xctx := { sl.xctx with stale := false } })) ∧
    (s.me.xctx.stale = true → (s.me.rs a).setWidth 32 ≠ num → Completes (.viewack h d a) s (fun sl => sl.ws d 2))

/-- 13 R280 to R284: the collective and view instructions. -/
def Obligations.CollectiveInstructions : Prop := Claims.CollectiveIssue ∧ Claims.ViewInstructions

/-- 13 R265, R272, R276: the steps of a collective at its unit: it leaves the queue with the next sequence number of its channel; the final
result reaches it; the leader's release lets it write; written, the timeline takes its number. -/
def Claims.CollectiveSteps : Prop :=
  ∀ (w : Who) (num : Word) (o : CollOp) (x : List (BitVec 32)) (s : State), s.collOp w num = some o → o.num = num →
    let v := s.viewOf (s.ownJob w)
    (o.st = .queued → v.standing = .member → (s.slot w).xctx.ops.head? = some o → s.storesDone o.rel = true →
      s.stagingUsed + ({ o with st := CollSt.matching }).staged ≤ s.settings.staging * 2 ^ 20 →
      ∃ t, exec (.collMatch w num) s = .next t ∧ t.collOp w num = some { o with
        st := .matching, seq := v.chans[o.chan], issueView := v.view.num, view := v.view.num, members := v.view.count
        rank := v.view.rank s.modId }) ∧
    (o.st = .running → finalOf (s.mail (o.tag (s.ownJob w))) = some x → o.view = v.view.num → v.standing = .member →
      ∃ t, exec (.collFinal w num) s = .next t ∧ t.collOp w num = some { o with st := .final, result := x }) ∧
    (o.st = .final → s.collLeader w ≠ s.modId → .release ∈ s.mail (o.tag (s.ownJob w)) →
      exec (.collRelease w num) s = .next (s.modColl w num fun y => { y with st := .writing })) ∧
    (o.st = .writing → o.p.repart = false → o.p.kind = 3 → o.record = 0 → o.notify = none → o.status = 0 →
      (s.slot w).xctx.ops = [o] → ∃ t, exec (.collWriteDone w num) s = .next t ∧ (t.slot w).xctx.tl = num ∧
        (t.slot w).xctx.ops = [])

/-- 13 R272, 03 R66: two partials of one operation that meet in the tree are combined in the order of their ranks. -/
def Claims.CollectiveCombine : Prop :=
  ∀ (t : CollTag) (i j lo hi hi' : Nat) (x y : List (BitVec 32)) (w : Who) (o : CollOp) (s : State),
    ((s.jobColls t.job).find? fun z => decide (z.2.tag t.job = t)) = some (w, o) → t.view = (s.viewOf t.job).view.num →
    (s.viewOf t.job).inbox[i]? = some (t, .part lo hi x) → (s.viewOf t.job).inbox[j]? = some (t, .part hi hi' y) →
    siblings o.members lo hi hi hi' = true →
    exec (.collCombine t i j) s =
      .next (s.modView t.job fun v => { v with inbox := (v.inbox.set i (t, .part lo hi' (collStep o.p x y))).eraseIdx j })

/-- 13 R284 to R288, 18 R386: the steps of a repartition: splitters from the histograms, or from the host; each member's counts; the records
received. The host reads the staged histogram. That the staged W is the sum modulo 2^64 is the model's reading (log entry 16). -/
def Claims.RepartitionSteps : Prop :=
  ∀ (w : Who) (num : Word) (o : CollOp) (g ks : List Word) (job : BitVec 32) (chan : Fin 16) (seq host len : Nat) (r : SplitReq)
    (s : State),
    (s.collOp w num = some o → o.num = num → o.st = .running → o.p.repart = true → o.view = (s.viewOf (s.ownJob w)).view.num →
      (s.viewOf (s.ownJob w)).standing = .member →
      let tag := o.tag (s.ownJob w)
      (s.collLeader w = s.modId → histSum (s.mail tag) o.members o.p.h = some g → s.hostSplits (s.ownJob w) = true →
        ∃ t, exec (.splitterCompute w num) s = .next t ∧
          t.splitReqs = s.splitReqs ++ [⟨s.ownJob w, o.chan, o.seq, g, BitVec.ofNat 64 (g.map (·.toNat)).sum⟩]) ∧
      (o.split = [] → (s.mail tag).head? = some (.splits ks) → ∃ t o', exec (.repartCounts w num) s = .next t ∧
        t.collOp w num = some o' ∧ o'.split = 0 :: ks.dropLast ++ [BitVec.ofNat 64 (2 ^ 63)] ∧ o'.weight = ks.getLastD 0) ∧
      (o.grants = o.members →
        let rs := (s.mail tag).filterMap fun b => match b with | .recs q x => some (q, x) | _ => none
        o.members ≤ rs.length → ∃ t, exec (.repartRecords w num) s = .next t ∧
          t.collOp w num = some { o with recsIn := rs })) ∧
    (s.splitReq job chan seq = some r → s.keysOk job ks = true → exec (.supplySplitters job chan seq ks) s = .next
      (({ s with splitReqs := s.splitReqs.filter fun x => decide (x ≠ r) }).collSendAll ⟨job, chan, seq, (s.viewOf job).view.num⟩
        (s.viewOf job).view.members (.splits (ks ++ [r.w])))) ∧
    (s.splitReq job chan seq = some r → exec (.readCollectiveStaging job chan seq host len) s = .next
      (s.hostWrite host ((((r.g ++ [r.w]).map fun x => leBytes 8 x.toNat).flatten).take len)))

/-- 13 R265, R272, R276, R284 to R288: the steps of collectives and repartitions. -/
def Obligations.CollectiveUnit : Prop := Claims.CollectiveSteps ∧ Claims.CollectiveCombine ∧ Claims.RepartitionSteps

/-- 13 R267 to R269, R271: suspicion: a member not heard for the interval, or reported by the host, is suspected; a module's own fatal fault is
told to the leader; heartbeats go out; a module cut off for the isolation interval is isolated. -/
def Claims.Suspicion : Prop :=
  ∀ (job : BitVec 32) (m l : Fin 4096) (s : State),
    let v := s.viewOf job
    let v' : JobView := { v with suspects := v.suspects ++ [m] }
    (s.hostViews job = false → v'.leader ≠ some s.modId →
      (s.silent v m = true → exec (.suspectIntervalExpiry job m) s =
        .next (s.modView job fun v => { v with suspects := v.suspects ++ [m] })) ∧
      (m ≠ s.modId → v.view.has m = true → m ∉ v.suspects → v.inside = true → exec (.hostFailureReport job m) s =
        .next (s.modView job fun v => { v with suspects := v.suspects ++ [m] }))) ∧
    (v.leader = some l → l ≠ s.modId → v.inside = true → exec (.fatalFaultReport job s.modId) s =
      .next (s.sendView job l (.fatal s.modId))) ∧
    (s.beatDue v = true → ∃ t, exec (.heartbeat job) s = .next t ∧ (t.viewOf job).lastBeat = s.cycle) ∧
    (s.cutOff v = true → ∃ t, exec (.isolation job) s = .next t ∧ (t.viewOf job).standing = .isolated)

/-- 13 R269, R271: agreement: a proposal above every number seen is accepted; acceptances are gathered and with the last of them the view is
committed; a join not agreed in time, or abandoned by its leader, is given up; a joiner is noted by the leader, which while a campaign is open
is the model's reading (log entry 14). -/
def Claims.Agreement : Prop :=
  ∀ (job num : BitVec 32) (bm : BitVec 4096) (jn : Bool) (md : BitVec 2) (l src : Fin 4096) (fs : List (Fin 16 × Nat))
    (c : Campaign) (p : Proposal) (s : State), s.net = [] →
    let v := s.viewOf job
    (s.accepts job l num jn = true → ∃ t, exec (.propose job (.propose l num bm jn md)) s = .next t ∧
      (t.viewOf job).accepted = some ⟨l, num, bm, jn⟩ ∧ (t.viewOf job).best = some (num, l) ∧
      (t.viewOf job).standing = (if v.standing = .joining then .joining else .changing)) ∧
    (v.campaign = some c → c.prop.num = num → c.prop.bitmap.getLsbD src.val = true → (∀ x ∈ c.accepts, x.1 ≠ src) →
      let ms := View.members ⟨num, c.prop.bitmap⟩
      ((∃ m ∈ ms, m ≠ src ∧ ∀ x ∈ c.accepts, x.1 ≠ m) → ∃ t, exec (.accept job (.accept src num fs)) s = .next t ∧
        (t.viewOf job).campaign = some { c with accepts := c.accepts ++ [(src, fs)] }) ∧
      ((∀ m ∈ ms, m = src ∨ ∃ x ∈ c.accepts, x.1 = m) → v.view.count < 2 * ms.length →
        ∃ t, exec (.accept job (.accept src num fs)) s = .next t ∧ (t.viewOf job).campaign = none)) ∧
    (v.campaign = some c → c.prop.join = true → c.at_ + s.settings.agree ≤ s.cycle →
      ∃ t, exec (.agreementTimeout job) s = .next t ∧ (t.viewOf job).campaign = none) ∧
    (v.leader = some s.modId → v.inside = true → v.view.has src = false → v.campaign = some c →
      exec (.joinRequest job (.join src)) s = .next
        (s.modView job fun v => { v with joiners := if src ∈ v.joiners then v.joiners else v.joiners ++ [src] })) ∧
    (v.accepted = some p → p.num = num → p.join = true → ∃ t, exec (.abandon job num) s = .next t ∧
      (t.viewOf job).accepted = none ∧ (v.standing = .changing → (t.viewOf job).standing = .member))

/-- 13 R267, R269, 18 R386: a commit of a higher number installs the view it names in a changing module that accepted it and in a joining one,
isolates a changing one it does not name, and is ignored where the number is not higher; so a view the host installs; an isolated module
marked ready asks to join. Stated for a module with no collective of the job under way and a view that drops no member. That a job's first view
is installed by the host's command in either mode is the model's reading (log entry 23). -/
def Claims.Installation : Prop :=
  ∀ (job num : BitVec 32) (bm : BitVec 4096) (jn : Bool) (md : BitVec 2) (fs : List (Fin 16 × Nat × Fin 4096))
    (jv : JobView) (s : State), s.net = [] →
    let v := s.viewOf job
    let new : View := ⟨num, bm⟩
    let commit : Instr := .viewCommit job (.commit num bm jn md fs)
    let installed (t : State) : Prop := (t.viewOf job).view = new ∧ (t.viewOf job).standing = .member ∧
      (t.viewOf job).accepted = none ∧ (t.viewOf job).suspects = []
    (v.view.num < num →
      (v.standing = .joining ∨ (v.standing = .changing ∧ ∃ p, v.accepted = some p ∧ p.num = num ∧ p.bitmap = bm) →
        bm.getLsbD s.modId.val = true → s.jobColls job = [] → (∀ m ∈ v.view.members, new.has m = true) →
        ∃ t, exec commit s = .next t ∧ installed t) ∧
      (v.standing = .changing → bm.getLsbD s.modId.val = false → ∃ t, exec commit s = .next t ∧
        (t.viewOf job).standing = .isolated)) ∧
    (num ≤ v.view.num → exec commit s = .next s) ∧
    (v.view.num = 0 → 0 < num → v.standing ≠ .isolated → bm.getLsbD s.modId.val = true → s.jobColls job = [] →
      (∀ m ∈ v.view.members, new.has m = true) → ∃ t, exec (.installView job num bm) s = .next t ∧ installed t) ∧
    (s.views = [jv] → jv.standing = .isolated → ∃ t, exec (.markModuleReady s.modId) s = .next t ∧
      (t.viewOf jv.job).standing = .joining)

/-- 13 R267 to R271, 18 R386: suspicion, agreement, installation. -/
def Obligations.ViewEvents : Prop := Claims.Suspicion ∧ Claims.Agreement ∧ Claims.Installation

/-! ## Branches, blocks, the steward (15 R310 to R331) -/

/-- 15 R318 to R320: a branch taken goes to its target, out of a block, with a fetch bubble where fetch followed the other path: taken by the
hint, or without a hint where the offset is negative; `jal` and `jalr` save the next pc in s31; `loop` counts down and falls through
at zero; a branch whose guard is false falls through. A branch taken out of a broadcast block ends it (15 R323). That no bubble is lost where
both paths lead to the same pc, nor inside a block, is the model's reading (log entry 34). -/
def Obligations.Branches : Prop :=
  ∀ (h : Hdr) (off : BitVec 40) (a b d : SReg) (s : State),
    let pc := s.me.pc
    let at_ := pc + off.signExtend 64
    let path := if h.bh = 1 ∨ (h.bh ≠ 2 ∧ off.msb = true) then at_ else pc + 1
    (Runs h s →
      exec (.br h off) s = .next (s.mod fun sl => sl.jump at_ (decide (path ≠ at_))) ∧
      exec (.jal h off) s = .next (s.mod fun sl => (sl.ws 31 (pc + 1)).jump at_ (decide (path ≠ at_))) ∧
      exec (.jr h a) s = .next (s.mod fun sl => sl.jump (sl.rs a) (decide (pc + 1 ≠ sl.rs a))) ∧
      exec (.jalr h a) s = .next (s.mod fun sl => (sl.ws 31 (pc + 1)).jump (sl.rs a) (decide (pc + 1 ≠ sl.rs a))) ∧
      (s.me.hosting = none →
        let x := pc + 1 + (if (s.me.rs a).toNat < (s.me.rs b).toNat then s.me.rs a else s.me.rs b)
        exec (.brx h a b) s = .next (s.mod fun sl => sl.jump x (decide (pc + 1 ≠ x)))) ∧
      (s.me.rs d ≠ 1 →
        exec (.loop h d off) s = .next (s.mod fun sl => (sl.ws d (sl.rs d - 1)).jump at_ (decide (path ≠ at_)))) ∧
      (s.me.rs d = 1 → exec (.loop h d off) s = .next (s.mod fun sl =>
        { (sl.ws d 0).next with bubble := sl.block.isNone && decide (path ≠ pc + 1) })) ∧
      Completes (.nop h) s id) ∧
    (holds h s.me = false →
      (∀ i ∈ [Instr.br h off, .jal h off, .loop h d off],
        exec i s = .next (s.mod fun sl => { sl.next with bubble := sl.block.isNone && decide (path ≠ pc + 1) })) ∧
      (∀ i ∈ [Instr.jr h a, .jalr h a, .brx h a b], exec i s = .next (s.mod fun sl => { sl.next with bubble := false })))

/-- 15 R324, R326, R330: `stop` sends its slot to pool, or the steward to exit, with its registers kept; `pause` parks for its rotations;
a halt request acted on sends the slot to pool; a pause that has run out completes. -/
def Claims.StopsAndPauses : Prop :=
  ∀ (h : Hdr) (a : SI) (w : Who) (n : Nat) (s : State),
    (AtHome h s →
      (∃ t, exec (.stop h) s = .next t ∧ (t.slot s.cur).state = (if s.cur.slot = 0 then .exit else .pool) ∧
        (t.slot s.cur).pc = s.me.pc + 1 ∧ (t.slot s.cur).s = s.me.s ∧ (t.slot s.cur).v = s.me.v ∧ (t.slot s.cur).resv = []) ∧
      ((s.me.rsi a).toNat % 65536 = 0 → Completes (.pause h a) s id) ∧
      ((s.me.rsi a).toNat % 65536 ≠ 0 → Parks (.pause h a) s .pause (.pause (s.rot + (s.me.rsi a).toNat % 65536)))) ∧
    ((s.slot w).haltReq = true → (s.slot w).state ≠ .pool → (s.slot w).hosting = none → w.slot ≠ 0 →
      ∃ t, exec (.halt w) s = .next t ∧ (t.slot w).state = .pool ∧ (t.slot w).haltReq = false ∧ (t.slot w).pc = (s.slot w).pc ∧
        (t.slot w).s = (s.slot w).s) ∧
    ((s.slot w).wait = .pause n → n ≤ s.rot → exec (.pauseExpiry w) s = .next (s.modSlot w fun sl => sl.unpark.next))

/-- 15 R321, R322: `fetchb` loads a block whose words the instruction cache holds into a buffer not in use, and else parks; `bcast` with a
block in a buffer and its slots in pool starts them all at the block; with no slot named it has no effect; a parked one starts at the end of
a rotation. -/
def Claims.Blocks : Prop :=
  ∀ (h : Hdr) (a : SReg) (q : Fin 2) (n : Fin 8) (off : BitVec 40) (ws : List IWord) (c : CoreId) (s : State),
    (AsSteward h s →
      let b := s.me.pc + off.signExtend 64
      let m := (s.me.rs a).setWidth 16
      (s.myCore.blockWords b (n.val + 1) = some ws → s.myCore.bufBusy q = false →
        exec (.fetchb h q n off) s = .next ((s.modMyCore fun c =>
          { c with blockBuf := c.blockBuf.set q (some ⟨b, ws.length, ws⟩) }).mod Slot.next)) ∧
      (s.myCore.blockWords b (n.val + 1) = none →
        Parks (.fetchb h q n off) s .fetch (.again (.block b (n.val + 1) (some q)))) ∧
      (m &&& 0xFFFE = 0 → Completes (.bcast h a n off) s id) ∧
      (m &&& 0xFFFE ≠ 0 → s.myCore.blockReady m b (n.val + 1) = true → ∃ t, exec (.bcast h a n off) s = .next t ∧
        (∀ i : Fin 16, i ≠ 0 → m.getLsbD i.val = true →
          (t.slot ⟨s.cur.core, i⟩).state = .block ∧ (t.slot ⟨s.cur.core, i⟩).pc = b) ∧
        (∀ i : Fin 16, i ≠ 0 → m.getLsbD i.val = false → t.slot ⟨s.cur.core, i⟩ = s.slot ⟨s.cur.core, i⟩) ∧
        (t.slot s.cur).pc = s.me.pc + 1) ∧
      (m &&& 0xFFFE ≠ 0 → (s.myCore.bufOf b (n.val + 1)).isSome = true → s.myCore.blockReady m b (n.val + 1) = false →
        ∃ t, exec (.bcast h a n off) s = .next t ∧ (t.slot s.cur).wait = .bcast m b (n.val + 1) ∧
          (t.slot s.cur).reason = .slotPool)) ∧
    (∀ m b len, (s.slot ⟨c, 0⟩).wait = .bcast m b len → (s.core c).blockReady m b len = true →
      ∃ t, exec (.blockStart c) s = .next t ∧ (∀ i : Fin 16, i ≠ 0 → m.getLsbD i.val = true →
        (t.slot ⟨c, i⟩).state = .block ∧ (t.slot ⟨c, i⟩).pc = b) ∧ (t.slot ⟨c, 0⟩).wait = .none)

/-- 15 R314, R325, R327 to R329: the steward's commands; in any other slot each of them is illegal, whatever its guard. -/
def Claims.Steward : Prop :=
  ∀ (h : Hdr) (d a b : SReg) (p : Fin 4) (q : Fin 2) (n : Fin 8) (off : BitVec 40) (s : State),
    let w : Who := ⟨s.cur.core, Fin.ofNat 16 (s.me.rs a).toNat⟩
    let m := (s.me.rs a).setWidth 16
    (AsSteward h s →
      (w.slot = 0 → Completes (.slgo h d a b) s (fun sl => sl.ws d 2)) ∧
      (w.slot ≠ 0 → (s.slot w).state ≠ .pool ∨ (s.slot w).reserved = true → Completes (.slgo h d a b) s (fun sl => sl.ws d 1)) ∧
      (w.slot ≠ 0 → (s.slot w).state = .pool → (s.slot w).reserved = false → ∃ t, exec (.slgo h d a b) s = .next t ∧
        (t.slot w).state = .running ∧ (t.slot w).pc = s.me.rs b ∧ (t.slot w).s = (s.slot w).s ∧
        (d ≠ 0 → (t.slot s.cur).rs d = 0) ∧ (t.slot s.cur).pc = s.me.pc + 1) ∧
      (∃ t, exec (.slhalt h d a) s = .next t ∧ (d ≠ 0 → (t.slot s.cur).rs d = s.myCore.busyMask m) ∧
        (t.slot s.cur).pc = s.me.pc + 1 ∧ ∀ i : Fin 16, i ≠ 0 → (t.slot ⟨s.cur.core, i⟩).haltReq =
          ((s.slot ⟨s.cur.core, i⟩).haltReq || (m.getLsbD i.val && decide ((s.slot ⟨s.cur.core, i⟩).state ≠ .pool)))) ∧
      (s.myCore.busyMask m = 0 → Completes (.slwait h d a) s (fun sl => sl.ws d s.myCore.poolMask)) ∧
      (s.myCore.busyMask m ≠ 0 → exec (.slwait h d a) s =
        .next ((s.park .slotWait (.slotWait m d)).mod fun sl => { sl with object := m.setWidth 64 })) ∧
      Completes (.slpoll h p d a) s (fun sl => sl.ws d (
        if p = 0 then BitVec.ofNat 64 ((s.slot w).state.code * 256 + (s.slot w).reason.code)
        else if p = 1 then (s.slot w).pc else (s.slot w).tcause.setWidth 64)) ∧
      Completes (.slpool h d) s (fun sl => sl.ws d s.myCore.poolMask)) ∧
    (s.cur.slot ≠ 0 → s.me.hosting = none → s.me.state ≠ .handler →
      ∀ i ∈ [Instr.fetchb h q n off, .bcast h a n off, .slgo h d a b, .slhalt h d a, .slwait h d a, .slpoll h p d a, .slpool h d],
        exec i s = .next (s.mod fun sl => sl.takeTrap 1 8 0 sl.pc))

/-- 02 R27, R34, 15 R320: words that are fetched enter the instruction cache; a fetch fault and an illegal word trap with classes 2 and 1. -/
def Claims.FetchEvents : Prop :=
  ∀ (w : Who) (pc : Word) (x : IWord) (sub : Fin 10) (va : Word) (s : State),
    (pc ∈ fetchPcs (s.slot w) → s.fetchWord w pc = .word x → ∃ t, exec (.fetchFill w pc) s = .next t ∧
      (pc, x) ∈ (t.core w.core).icache ∧ t.slot w = s.slot w) ∧
    (s.me.hosting = none → s.me.state ≠ .handler →
      exec (.instructionFetchFault sub va) s = .next (s.mod fun sl => sl.takeTrap 2 sub.val va sl.pc) ∧
      exec (.illegalInstruction sub) s = .next (s.mod fun sl => sl.takeTrap 1 sub.val 0 sl.pc))

/-- 15 R314, R320 to R330, 02 R27, R34: stops, pauses, blocks, the steward's instructions and fetch. -/
def Obligations.StewardInstructions : Prop := Claims.StopsAndPauses ∧ Claims.Blocks ∧ Claims.Steward ∧ Claims.FetchEvents

/-! ## Tasks and barriers (16 R340 to R357) -/

/-- A task operation is performed: `u` is the state with its effects; with the sync bit the slot parks until its timeline has the number,
where it has not already. -/
def IssuesTask (i : Instr) (s u : State) (num : Word) (sync : Bool) : Prop :=
  exec i s = .next (if sync = true ∧ u.me.tctx.acc.ult num = true then u.park .timeline (.timeline .t num .sync) else u.mod Slot.next)

/-- The slot as a `spawn`, `spawnd` or `tqpush` of `n` copies to a module leaves it before it completes: the number taken, the operation counted. -/
def spawned (s : State) (d : SReg) (m : Fin 4096) (n : Nat) : State :=
  let num := s.me.tctx.last + 1
  s.mod fun sl => { sl.ws d num with tctx := TaskCtx.settle { sl.tctx with last := num, ops := sl.tctx.ops ++ [⟨num, n, m⟩] } }

/-- 16 R347 to R351: a spawn whose descriptor and target pass the checks takes a number and sends a task to each core; `fork` and `tqpush`
put a task into the slot's own core's queue; a bad descriptor traps with its detail. A descriptor is read once the slot's posted releases are
performed (14 R293). -/
def Claims.Spawns : Prop :=
  ∀ (h : Hdr) (d a b : SReg) (k : KReg) (p : Fin 4) (pin sy : Bool) (off : BitVec 40) (t : Task) (m : Fin 4096) (cs : List CoreId)
    (s : State), AtHome h s →
    let x := s.me.rs b
    let num := s.me.tctx.last + 1
    let rel := s.release s.cur
    let here := tileMod x = s.modId
    let packet (page : Bool) : Packet := ⟨.slot (s.agent s.cur), if here then .io else .mdl (tileMod x), .notice,
      .spawnd (s.agent s.cur) num (s.jobOf s.cur) page x { t with pinned := true } (if here then rel else [])⟩
    let sent (page : Bool) : State :=
      if here then (spawned s d (tileMod x) 1).send (packet page) else (spawned s d (tileMod x) 1).post (packet page) ⟨s.cur, rel, []⟩
    (s.myCore.readTask (s.me.rs a) = .inr t → s.me.tctx.outstanding < 8 → NoRelease s →
      (x.extractLsb' 38 26 = 0 → x.setWidth 32 &&& 0xF0008800#32 = 0 → s.spawnTarget x = some (m, cs) →
        IssuesTask (.spawn h sy d a b) s (cs.foldl (fun u c => u.sendTask num c m t) (spawned s d m cs.length)) num sy) ∧
      (s.inView s.cur (tileMod x) = true →
        (x.toNat / 2 ^ 48 % 16 = 0 → IssuesTask (.spawndPage h sy d a b) s (sent true) num sy) ∧
        IssuesTask (.spawndTile h sy d a b) s (sent false) num sy) ∧
      (x = 0 → t.gated = false → s.myCore.queueRoom t.prio = true → IssuesTask (.tqpush h sy d a b) s
        (((spawned s d s.modId 1).enqueue s.cur.core ⟨t, false, false, false, rel⟩).mod fun sl => sl.copyDone num true)
        num sy)) ∧
    (s.myCore.queueRoom p = true → exec (.fork h p pin k a b off) s =
      .next ((s.enqueue s.cur.core ⟨⟨s.me.pc + off.signExtend 64, s.me.rs a, s.me.rs b, p, pin, false, 0, 0⟩, false, false, false,
        rel⟩).mod fun sl => (sl.wk k true).next)) ∧
    (s.myCore.queueRoom p = false → Completes (.fork h p pin k a b off) s (fun sl => sl.wk k false)) ∧
    (∀ x, s.me.state ≠ .handler → NoRelease s → s.myCore.readTask (s.me.rs a) = .inl x →
      ∀ i ∈ [Instr.spawn h false d a b, .spawndPage h false d a b, .spawndTile h false d a b, .tqpush h false d a b],
        exec i s = .next (s.mod fun sl => sl.takeTrap 0xB 1 (BitVec.ofNat 64 x) sl.pc))

/-- 16 R352 to R355: `tqpop` takes the bottom task of the first allowed queue, answers 1 or parks where there is none; `tqctl` exchanges the
control word; `tqrd` reads; a local `join` on a count above 1 lowers it and answers 0, on a count of 1 answers 1 and puts the record's
continuation into the core's queue, on a count of 0 answers 2. -/
def Claims.TaskInstructions : Prop :=
  ∀ (h : Hdr) (nw : Bool) (mask : BitVec 4) (p : Fin 4) (d a : SReg) (off : BitVec 41) (pq : Fin 4) (q : QEntry) (s : State),
    AtHome h s →
    let y : Word := s.me.rs a &&& 0x3FFFF#64
    let x := (s.me.rs a + off.signExtend 64).toNat
    let m := s.myCore.sp
    let n := m.num x 4
    let fl := m.num (x + 4) 4
    let next : Task := ⟨m.word (x + 8), m.word (x + 16), m.word (x + 24), Fin.ofNat 4 fl, fl / 4 % 2 == 1, false, 0, 0⟩
    (LocalOk y 64 64 → NoRelease s →
      (s.myCore.bottom (popMask mask) = some (pq, q) →
        exec (.tqpop h nw mask d a) s = .next ((s.popTask s.cur d y.toNat pq q).mod Slot.next)) ∧
      (s.myCore.bottom (popMask mask) = none →
        Completes (.tqpop h true mask d a) s (fun sl => sl.ws d 1) ∧
        Parks (.tqpop h false mask d a) s .taskQueue (.tqpop mask d y.toNat))) ∧
    exec (.tqctl h d a) s = .next ((s.modMyCore fun c => { c with taskCtl := s.me.rs a &&& 0xF0F7#64 }).mod fun sl =>
      (sl.ws d s.myCore.taskCtl).next) ∧
    Completes (.tqrd h p d) s (fun sl => sl.ws d (if p = 0 then BitVec.ofNat 64 s.myCore.taskCounts
      else if p = 1 then s.myCore.taskCtl else if p = 2 then sl.tctx.last else sl.tctx.acc)) ∧
    (x % 32 = 0 → x + 32 ≤ 0x30000 → s.clean s.cur = true → fl < 8 →
      (n = 0 → Completes (.join h d a none off) s (fun sl => sl.ws d 2)) ∧
      (n = 1 → s.myCore.queueRoom next.prio = true → exec (.join h d a none off) s =
        .next (((s.modMyCore fun c => { c with sp := c.sp.write x (leBytes 4 0) }).enqueue s.cur.core ⟨next, false, false, false, []⟩).mod
          fun sl => (sl.ws d 1).next)) ∧
      (1 < n → exec (.join h d a none off) s = .next ((s.modMyCore fun c => { c with sp := c.sp.write x (leBytes 4 (n - 1)) }).mod
        fun sl => (sl.ws d 0).next))) ∧
    (s.me.state ≠ .handler → x % 32 ≠ 0 ∨ 0x30000 < x + 32 →
      exec (.join h d a none off) s = .next (s.mod fun sl => sl.takeTrap 0xB 3 (s.me.rs a + off.signExtend 64) sl.pc))

/-- 16 R347 to R355: spawns and the task queue's instructions. -/
def Obligations.TaskForms : Prop := Claims.Spawns ∧ Claims.TaskInstructions

/-- 16 R342 to R345, R352: the events of the task units: a task packet is accepted, or fails where its core has no launch of the job; a free slot
starts the bottom task of the core's queues with its arguments; a thief's slot starts the task it took; a gate's notice queues its task; a
remote join is performed at its core. That a task from another module is counted as sent when it is accepted is log entry 53. -/
def Claims.TaskEvents : Prop :=
  ∀ (k : Nat) (p : Packet) (c c' : CoreId) (src : Agent) (num : Word) (job : BitVec 32) (q : QEntry) (g : GateEntry)
    (i : Fin 16) (is : List (Fin 16)) (pq : Fin 4) (cl : ClusterId) (j n gid id a code : Nat) (posted : Bool) (s t : State),
    (s.Arrives k p →
      let u := s.taken k
      (p.dst = .core c → p.body = .task src num job c' q →
        (s.jobLaunchOf job c = none → exec (.taskAccept k) s = .next (u.taskAck src num false)) ∧
        ((s.jobLaunchOf job c).isSome = true → s.noticeOpen c = true → (s.core c).taskRoom q = true →
          let v := u.takeTask c q
          exec (.taskAccept k) s = .next ((v.countTask c (if src.mod = v.modId then 0 else 1) 1).taskAck src num true))) ∧
      (p.body = .gate c gid false → s.noticeOpen c = true → ((s.core c).gates.find? (·.gid == gid)) = some g →
        (s.core c).queueRoom g.q.task.prio = true → exec (.gateNotice k) s =
          .next (((u.modCore c fun y => { y with gates := y.gates.filter fun z => z.gid != gid }).enqueue c
            { g.q with wasGated := true }).serveInbound c)) ∧
      (p.dst = .core c → p.body = .join src id job c' a posted → s.noticeOpen c = true → (s.jobLaunchOf job c).isSome = true →
        u.joinStep c a = some (code, t) →
        exec (.joinStep k) s = .next (t.joinReply src id posted code))) ∧
    ((s.core c).dispatches = true → (s.core c).freeSlots s.cycle = i :: is → is = [] → (s.core c).inbound = [] →
      (s.core c).bottom (s.core c).enabledQueue = some (pq, q) → ∃ t, exec (.taskStart c) s = .next t ∧
        (t.slot ⟨c, i⟩).state = .running ∧ (t.slot ⟨c, i⟩).pc = q.task.entry ∧ (t.slot ⟨c, i⟩).rs 1 = q.task.arg0 ∧
        (t.slot ⟨c, i⟩).rs 2 = q.task.arg1) ∧
    exec (.taskSteal cl) s =
      .next ((List.range 8).foldl (fun v y => v.steal cl (((s.engine cl).thief + 1 + y) % 8)) s) ∧
    (let thief := (coresOf cl).getD j ⟨cl.stack, 0, 0⟩
     s.thief thief = true → s.victim cl j = some (c, pq, n, q) → (s.core thief).freeSlots s.cycle = i :: is →
      ((s.steal cl j).slot ⟨thief, i⟩).pc = q.task.entry ∧ ((s.steal cl j).slot ⟨thief, i⟩).state = .running ∧
      ((s.steal cl j).slot ⟨thief, i⟩).rs 1 = q.task.arg0)

/-- 16 R356, R357: `bar.cfg` sets a barrier's owner and count, or answers 1 while slots have arrived; `bar.rd` reads it; an arrival raises
the count, the last one moves to the next generation; `bar.arr` waits for it, `bar.sig` does not; another launch's barrier traps. -/
def Claims.Barriers : Prop :=
  ∀ (h : Hdr) (d b : SReg) (a : SI) (s : State), AtHome h s →
    let i : Fin 16 := Fin.ofNat 16 (s.me.rsi a).toNat
    let r := s.barrier s.cur i
    let put (x : Barrier) : State := s.modEngine (clusterOf s.cur.core) fun e => { e with barriers := e.barriers.set i x }
    (r.owner = none ∨ r.owner = s.myCore.launch →
      (r.arrived ≠ 0 → Completes (.barCfg h d a b) s (fun sl => sl.ws d 1)) ∧
      (r.arrived = 0 → exec (.barCfg h d a b) s =
        .next ((put { r with owner := s.myCore.launch, count := (s.me.rs b).setWidth 16 }).mod fun sl => (sl.ws d 0).next)) ∧
      Completes (.barRd h d a) s (fun sl =>
        sl.ws d (BitVec.ofNat 64 (r.gen.toNat * 2 ^ 32 + r.arrived.toNat * 2 ^ 16 + r.count.toNat))) ∧
      (r.count ≠ 0 → s.clean s.cur = true →
        (r.arrived + 1 ≠ r.count →
          exec (.barSig h d a) s =
            .next ((put { r with arrived := r.arrived + 1 }).mod fun sl => (sl.unpark.ws d (r.gen.setWidth 64)).next) ∧
          ∃ t, exec (.barArr h d a) s = .next t ∧ t.barrier s.cur i = { r with arrived := r.arrived + 1 } ∧
            (t.slot s.cur).wait = .barrier i r.gen ∧ (d ≠ 0 → (t.slot s.cur).rs d = r.gen.setWidth 64)) ∧
        (r.arrived + 1 = r.count →
          (∃ t, exec (.barArr h d a) s = .next t ∧ t.barrier s.cur i = { r with gen := r.gen + 1, arrived := 0 } ∧
            (t.slot s.cur).pc = s.me.pc + 1 ∧ (t.slot s.cur).wait = .none ∧ (d ≠ 0 → (t.slot s.cur).rs d = r.gen.setWidth 64)) ∧
          exec (.barSig h d a) s = .next ((put { r with gen := r.gen + 1, arrived := 0 }).mod fun sl =>
            (sl.unpark.ws d (r.gen.setWidth 64)).next)))) ∧
    (r.owner ≠ none → r.owner ≠ s.myCore.launch → s.me.state ≠ .handler →
      ∀ j ∈ [Instr.barCfg h d a b, .barRd h d a, .barArr h d a, .barSig h d a],
        exec j s = .next (s.mod fun sl => sl.takeTrap 0xB 4 (BitVec.ofNat 64 i.val) sl.pc))

/-- 16 R342 to R345, R352, R356, R357: the events of the task units, and barriers. -/
def Obligations.TasksAndBarriers : Prop := Claims.TaskEvents ∧ Claims.Barriers

/-! ## Traps, control registers, messages, watchdogs, spills (17 R359 to R382) -/

/-- 17 R365: `trap` takes class 3, sub-cause 1, with the immediate as `tval` and the next pc as `epc`; `brk` sub-cause 2 with its own pc; both
where the guard holds, and else only the pc goes on; in handler state each is a double trap. -/
def Obligations.TrapInstructions : Prop :=
  ∀ (h : Hdr) (n : BitVec 32) (s : State), s.me.hosting = none →
    (¬ Runs h s → Completes (.trap h n) s id ∧ Completes (.brk h n) s id) ∧
    (Runs h s →
      (s.me.state ≠ .handler →
        exec (.trap h n) s = .next (s.mod fun sl => sl.takeTrap 3 1 (n.setWidth 64) (sl.pc + 1)) ∧
        exec (.brk h n) s = .next (s.mod fun sl => sl.takeTrap 3 2 (n.setWidth 64) sl.pc)) ∧
      (s.me.state = .handler → ∀ i ∈ [Instr.trap h n, .brk h n], ∃ t, exec i s = .next t ∧
        (t.slot s.cur).tcause = 0x0F03 ∧ (t.slot s.cur).tval = n.setWidth 64 ∧
        (t.slot s.cur).state = (if s.cur.slot = 0 then .exit else .pool) ∧ (t.slot s.cur).s = s.me.s ∧
        (t.slot s.cur).epc = s.me.epc)) ∧
    (s.me.state ≠ .handler → ∀ pc : Word, ∀ c : BitVec 8 × BitVec 8, 
      let sl := s.me.takeTrap c.1.toNat c.2.toNat (n.setWidth 64) pc
      sl.epc = pc ∧ sl.tcause = c.1 ++ c.2 ∧ sl.tval = n.setWidth 64 ∧ sl.state = .handler ∧ sl.pc = s.me.tvec)

/-- 17 R366: `eret` in a handler goes on at `epc` in running state, or to pool where a halt is requested; outside a handler it is illegal,
whatever its guard. -/
def Claims.TrapReturn : Prop :=
  ∀ (h : Hdr) (s : State), s.me.hosting = none →
    (s.me.state ≠ .handler → exec (.eret h) s = .next (s.mod fun sl => sl.takeTrap 1 8 0 sl.pc)) ∧
    (s.me.state = .handler → Runs h s →
      (s.me.haltReq = false → ∃ t, exec (.eret h) s = .next t ∧ (t.slot s.cur).pc = s.me.epc ∧ (t.slot s.cur).state = .running ∧
        (t.slot s.cur).s = s.me.s ∧ (t.slot s.cur).tcause = s.me.tcause) ∧
      (s.me.haltReq = true → s.cur.slot ≠ 0 → ∃ t, exec (.eret h) s = .next t ∧ (t.slot s.cur).pc = s.me.epc ∧
        (t.slot s.cur).state = .pool))

/-- 17 R360, R362: the entry to a trap: `epc`, `tcause`, `tval`, handler state and the pc at `tvec`, the registers kept and the reservations
lost. A trap in handler state is a double trap: the slot goes to pool, the steward to exit, with `tcause` 0x0F and the new class. -/
def Claims.TrapEntry : Prop :=
  ∀ (w : Who) (cls sub : Nat) (tval epc : Word) (s : State), (s.slot w).hosting = none →
    let sl := s.slot w
    let u := (s.trapAt w cls sub tval epc).slot w
    (sl.state ≠ .handler → u.epc = epc ∧ u.tcause = BitVec.ofNat 16 (cls * 256 + sub) ∧ u.tval = tval ∧ u.state = .handler ∧
      u.pc = sl.tvec ∧ u.resv = [] ∧ u.s = sl.s ∧ u.f = sl.f ∧ u.v = sl.v ∧ u.k = sl.k ∧ u.y = sl.y ∧ u.tvec = sl.tvec ∧
      u.storeQ = sl.storeQ ∧ u.outst = sl.outst ∧ u.cctx = sl.cctx ∧ u.mctx = sl.mctx ∧ u.xctx = sl.xctx) ∧
    (sl.state = .handler → u.tcause = BitVec.ofNat 16 (0x0F00 + cls) ∧ u.tval = tval ∧
      u.state = (if w.slot = 0 then .exit else .pool) ∧ u.s = sl.s ∧ u.pc = sl.pc ∧ u.epc = sl.epc)

/-- 17 R360, R362, R366: the entry to a trap and the return from one. -/
def Obligations.TrapEntryAndReturn : Prop := Claims.TrapEntry ∧ Claims.TrapReturn

/-- 02 R38, 17 R367, R368: what each control register reads as; a write to one of the nine a program may write, read back with its reserved bits
zero; `ctlx` writes the old value first and then what its source holds; a write to any other is illegal, whatever its guard. -/
def Obligations.ControlRegisters : Prop :=
  ∀ (h : Hdr) (d a : SReg) (c : Fin 18) (s : State), s.me.hosting = none →
    let sl := s.me
    (List.finRange 18).map (s.ctl s.cur) = [sl.pc, BitVec.ofNat 64 s.cur.slot.val, (coreWord s.modId s.cur.core).setWidth 64,
      sl.flags.setWidth 64, sl.fen.setWidth 64, sl.tbm.setWidth 64, BitVec.ofNat 64 sl.errq.length,
      (s.viewOf (s.jobOf s.cur)).view.word, sl.tmr.setWidth 64, s.myCore.sstat, sl.tvec, sl.tcause.setWidth 64, sl.tval, sl.epc,
      sl.tsave, sl.sup.setWidth 64, BitVec.ofNat 64 s.cycle, sl.rmode.setWidth 64] ∧
    (Runs h s → Completes (.ctlr h d c) s (fun sl => sl.ws d (s.ctl s.cur c))) ∧
    (ctlWritable c = true ↔ c.val ∈ [3, 4, 8, 10, 11, 12, 13, 14, 17]) ∧
    (Runs h s → ctlWritable c = true →
      let mask : Word := if c.val = 3 ∨ c.val = 4 then 0x1F else if c.val = 8 then 0xFFFFFFFF else if c.val = 11 then 0xFFFF
        else if c.val = 14 then 0xFFFFFFFFFFFFF000 else if c.val = 17 then 3 else 0xFFFFFFFFFFFFFFFF
      (∃ t, exec (.ctlw h c a) s = .next t ∧ t.ctl s.cur c = s.me.rs a &&& mask ∧ (t.slot s.cur).s = s.me.s ∧
        (t.slot s.cur).pc = s.me.pc + 1) ∧
      (∃ t, exec (.ctlx h d c a) s = .next t ∧ t.ctl s.cur c = (s.me.ws d (s.ctl s.cur c)).rs a &&& mask ∧
        (d ≠ 0 → (t.slot s.cur).rs d = s.ctl s.cur c))) ∧
    (s.me.state ≠ .handler → ctlWritable c = false → ∀ i ∈ [Instr.ctlw h c a, .ctlx h d c a],
      exec i s = .next (s.mod fun sl => sl.takeTrap 1 9 0 sl.pc))

/-- 17 R368 to R370: the timer's writes answer its old value; `tmrclr` also clears a pending timer trap; `icinv` empties the instruction cache
and the block buffers, `rcinv` the read-only cache; `sleep` with no event chosen answers 0, else parks. -/
def Claims.TimersAndCaches : Prop :=
  ∀ (h : Hdr) (d a : SReg) (e b : Option SReg) (n : BitVec 32) (m : BitVec 4) (s : State), AtHome h s →
    let old : Word := s.me.tmr.setWidth 64
    Completes (.tmrWrite h e a) s (fun sl =>
      let y := sl.ws (e.getD 0) old
      { y with tmr := (y.rs a).setWidth 32, tmrAt := s.rot }) ∧
    Completes (.tmrset h d b n) s (fun sl =>
      ({ sl with tmr := (match b with | some r => (sl.rs r).setWidth 32 | none => n), tmrAt := s.rot }).ws d old) ∧
    Completes (.tmrclr h d) s (fun sl => ({ sl with tmr := 0, tmrAt := s.rot, pendTimer := false }).ws d old) ∧
    exec (.icinv h) s = .next ((s.modMyCore fun c => { c with icache := [], blockBuf := #v[none, none] }).mod Slot.next) ∧
    exec (.rcinv h) s = .next ((s.modMyCore fun c => { c with ro := [] }).mod Slot.next) ∧
    Completes (.sleep h d 0) s (fun sl => sl.ws d 0) ∧
    (m ≠ 0 → Parks (.sleep h d m) s .sleep (.sleep m 0 d))

/-- 17 R371 to R374: `smsg` sends a message behind what the slot has posted, or answers a floating-point exception; one that names no core of the job
on the module traps with sub-cause 3; a message that arrives is written into the ring and counted in its mailbox, at once or from the
buffer; the host answers an exception too. -/
def Claims.Messages : Prop :=
  ∀ (h : Hdr) (a b : SReg) (tag : BitVec 16) (t w : Who) (trp : Bool) (en : BitVec 5) (pc : Word) (k : Nat) (p : Packet) (c c' : CoreId)
    (m : Msg) (ms : List Msg) (s : State),
    (AtHome h s →
      (s.smsgTarget (s.me.rs a) = some t →
        exec (.smsgMsg h a b tag) s = .next ((s.injectHeld ⟨.slot (s.agent s.cur), .core t.core, .notice,
          .msg t.core ⟨coreWord s.modId s.cur.core, s.cur.slot, 0, tag, s.me.rs b⟩⟩
          (s.holdOf s.cur)).mod Slot.next) ∧
        ((s.slot t).wait = .fpEx en pc → (s.slot t).reply = none →
          exec (.smsgRes h a b) s = .next ((s.modSlot t fun sl => { sl with reply := some (.fp false) }).mod Slot.next) ∧
          exec (.smsgTrp h a b) s = .next ((s.modSlot t fun sl => { sl with reply := some (.fp true) }).mod Slot.next))) ∧
      (s.smsgTarget (s.me.rs a) = none → s.me.state ≠ .handler →
        ∀ i ∈ [Instr.smsgMsg h a b tag, .smsgRes h a b, .smsgTrp h a b],
          exec i s = .next (s.mod fun sl => sl.takeTrap 3 3 (sl.rs a) sl.pc))) ∧
    ((s.slot w).wait = .fpEx en pc → (s.slot w).reply = none →
      exec (.answerAnException w trp) s = .next (s.modSlot w fun sl => { sl with reply := some (.fp trp) })) ∧
    ((s.core c).sp.wf = true → (s.core c).ringOpen = true →
      let entered (t : State) : Prop := (t.core c).mb[(62 : MbIdx)] = (s.core c).mb[(62 : MbIdx)] + 1 ∧
        (t.core c).sp.read (0x2F800 + 16 * ((s.core c).mb[(62 : MbIdx)].toNat % 64)) 16 = msgBytes m
      (s.Arrives k p → p.dst = .core c → p.body = .msg c' m → s.noticeOpen c = true → (s.core c).msgIn = [] →
        ∃ t, exec (.messageArrival k) s = .next t ∧ entered t ∧ (t.core c).msgIn = []) ∧
      ((s.core c).msgIn = m :: ms → ∃ t, exec (.messageBufferAccept c) s = .next t ∧ entered t ∧ (t.core c).msgIn = ms))

/-- 17 R368 to R374: timers, cache control, sleep and messages. -/
def Obligations.TimersCachesMessages : Prop := Claims.TimersAndCaches ∧ Claims.Messages

/-- 17 R363, R368, R375: a timer that passes from 1 to 0 makes its trap pending; the four asynchronous traps are taken by a slot in rotation,
with their class, sub-cause and `tval`; the watchdog traps a slot overdue with its reason and object. -/
def Obligations.AsynchronousTraps : Prop :=
  ∀ (w : Who) (x obj epc pc : Word) (keep : Bool) (s : State),
    let sl := s.slot w
    let taken (i : Instr) (cause : BitVec 16) (tval at_ : Word) : Prop := ∃ t, exec i s = .next t ∧ (t.slot w).tcause = cause ∧
      (t.slot w).tval = tval ∧ (t.slot w).epc = at_ ∧ (t.slot w).pc = sl.tvec ∧ (t.slot w).state = .handler ∧ (t.slot w).s = sl.s
    (sl.counting s.rot = true → sl.tmr = 1 →
      exec (.timerExpiry w) s = .next (s.modSlot w fun sl => { sl with tmr := 0, pendTimer := true })) ∧
    (sl.hosting = none → sl.state = .running → sl.wait = .none →
      (sl.pendTimer = true → taken (.timerTrap w) 0x0D01 0 sl.pc) ∧
      (sl.pendCopy = some x → taken (.copyFaultTrap w) 0x0604 x sl.pc) ∧
      (sl.pendMember = some x → taken (.membershipChangeTrap w) 0x0A02 x sl.pc) ∧
      (sl.pendSpawn = some x → taken (.spawnFailureTrap w) 0x0B05 x sl.pc)) ∧
    (sl.hosting = none → sl.state = .parked → sl.watched = some (obj, epc) → s.overdue w = true → sl.stand = .now pc keep →
      taken (.watchdog w) (BitVec.ofNat 16 (0x0C00 + sl.reason.code)) obj epc)

/-- 17 R376 to R380, 18 R386: `spill` answers 2 for the slot itself, 1 where there is nothing to spill, 3 with the queue full, else queues a request;
`unspill` queues one, parks, and once its turn comes puts back a spilled slot from a well-formed area; the spill engine saves a slot in
rotation; the host's request is queued. What of a restored area is taken from it and what from the slot is in part the model's reading (log
entry 42). -/
def Obligations.Spills : Prop :=
  ∀ (h : Hdr) (d a : SReg) (b : Option SReg) (w : Who) (r : SpillReq) (rs : List SpillReq) (segs : List Seg) (s : State),
    let x := s.me.rs a
    let i : Fin 16 := Fin.ofNat 16 x.toNat
    let c := s.myCore
    let idle (sl : Slot) : Prop := sl.state = .pool ∨ sl.state = .exit ∨ sl.state = .spilled
    let put (r : SpillReq) : State := s.modMyCore fun c => { c with spillQ := c.spillQ ++ [r] }
    (AtHome h s →
      (i = s.cur.slot → Completes (.spill h d a) s (fun sl => sl.ws d 2)) ∧
      (i ≠ s.cur.slot → idle c.slots[i] ∨ c.requested i = true → Completes (.spill h d a) s (fun sl => sl.ws d 1)) ∧
      (i ≠ s.cur.slot → ¬ idle c.slots[i] → c.requested i = false → 16 ≤ c.spillQ.length →
        Completes (.spill h d a) s (fun sl => sl.ws d 3)) ∧
      (i ≠ s.cur.slot → ¬ idle c.slots[i] → c.requested i = false → c.spillQ.length < 16 →
        exec (.spill h d a) s = .next ((put ⟨i, false, none, notifyOf x, some s.cur⟩).mod fun sl => (sl.ws d 0).next)) ∧
      (16 ≤ c.spillQ.length → Completes (.unspill h d a b) s (fun sl => sl.ws d 3)) ∧
      (c.spillQ.length < 16 → exec (.unspill h d a b) s =
        .next (((put ⟨i, true, b.map s.me.rs, notifyOf x, some s.cur⟩).park .fence (.sys (.unspill d x (b.map s.me.rs)))).mod
          fun sl => { sl with object := x })) ∧
      (c.spillQ = [] → i ≠ s.cur.slot → c.slots[i].state = .spilled → s.me.state ≠ .spilled → s.me.Quiet →
        s.areaSegs s.cur ((b.map s.me.rs).getD c.slots[i].tsave) .load = some segs →
        let m : Memory := Memory.write [] 0 (segs.map fun g => s.gread g.pa g.len).flatten
        areaOk m = true → ∃ t, Leads [.unspill h d a b, .parkReasonMet s.cur] s t ∧ (d ≠ 0 → (t.slot s.cur).rs d = 0) ∧
          (t.slot s.cur).pc = s.me.pc + 1 ∧ (t.core s.cur.core).spillQ = [] ∧
          (t.slot ⟨s.cur.core, i⟩).s = (c.slots[i].restore m).s ∧ (t.slot ⟨s.cur.core, i⟩).pc = (c.slots[i].restore m).pc ∧
          (t.slot ⟨s.cur.core, i⟩).state = (c.slots[i].restore m).state)) ∧
    ((s.core w.core).spillQ = r :: rs → r.slot = w.slot → r.resume = false → (s.slot w).hosting = none →
      (idle (s.slot w) → exec (.preemption w) s = .next (s.endRequest w.core)) ∧
      ((s.slot w).state = .running → (s.slot w).wait = .none → (s.slot w).draining? = false →
        s.areaSegs w (s.slot w).tsave .store = some segs → ∃ t, exec (.preemption w) s = .next t ∧ (t.slot w).state = .spilled ∧
          (t.slot w).spilledAs = .running ∧ (t.slot w).pc = (s.slot w).pc ∧ (t.slot w).resv = [] ∧ (t.core w.core).spillQ = rs)) ∧
    ((s.core w.core).spillQ = [] → ¬ idle (s.slot w) → exec (.spillOrResumeASlot w false) s =
      .next (s.modCore w.core fun c => { c with spillQ := [⟨w.slot, false, none, none, none⟩] }))

/-! ## Launches, the host link, dies (16 R332 to R339, 18 R383 to R392) -/

/-- 16 R332, R334, R335, R339, 02 R36: a launch whose descriptor fails a check is rejected with the number of the first that fails; one that
passes starts the steward of every core of its rectangle at the entry, in running state, with the launch's `tvec` and save area; a launch at
its end leaves the module. -/
def Claims.Launches : Prop :=
  ∀ (q : Fin 64) (tag : BitVec 32) (d img pre : List Byte) (n id : Nat) (l : Launch) (s : State),
    let k := launchOfDesc s.nextLaunch q tag d
    (s.launchCheck k d = .inl n → ∃ t x, exec (.launch q tag d) s = .next t ∧ t.launches = s.launches ∧ t.cores = s.cores ∧
      (t.qpairs[q]).pending = (s.qpairs[q]).pending ++ [⟨tag, none, s.cycle, 0, some (1, n, 0, x)⟩]) ∧
    (s.launchCheck k d = .inr (img, pre) → (∀ c ∈ k.cores, (s.slot ⟨c, 0⟩).hosting = none) →
      ∃ t, exec (.launch q tag d) s = .next t ∧ t.launches = s.launches ++ [k] ∧ ∀ c ∈ k.cores,
        (t.core c).launch = some s.nextLaunch ∧ (t.slot ⟨c, 0⟩).state = .running ∧ (t.slot ⟨c, 0⟩).pc = word64 d 0 ∧
        (t.slot ⟨c, 0⟩).tvec = word64 d 24 ∧ (t.slot ⟨c, 0⟩).tsave = k.saveArea (k.rank c) 0 ∧ (t.slot ⟨c, 0⟩).k = kReset) ∧
    ((s.launches.find? fun l => l.id == id) = some l → s.launchOver l = true → ∃ t, exec (.launchEnd id) s = .next t ∧
      t.launches = s.launches.filter (fun y => y.id != l.id) ∧ ∀ x ∈ t.cores, x.2.launch ≠ some l.id)

/-- 18 R383 to R386, R391: the host's queues and commands: a doorbell with no new entry has no effect; of a new launch submission the descriptor is
read from the host's memory, and the launch is rejected with the reason of the first check that fails, or accepted and started; a descriptor
that is not aligned to 64 is rejected with reason 1 (log entry 25); a ready completion record is written to the ring; a page is committed or
denied; events move to the queue; a frame that is not whole is discarded, and frames are delivered once and in order (log entry 54); a mode
changes only while no launch runs. -/
def Claims.HostLink : Prop :=
  ∀ (q : Fin 64) (tail : BitVec 16) (x : Pending) (xs : List Pending) (status reason failed cycles : Nat) (job : BitVec 32)
    (page frame : Word) (st : Fin 6) (die : DieId) (n : Nat) (data : List Byte) (fn : ModeFn) (on : Bool) (s : State),
    let p := s.qpairs[q]
    let e := s.hostMem.read (p.sub + 64 * (p.head % 2 ^ p.n)) 64
    let tag := BitVec.ofNat 32 (numAt e 4 4)
    let d := s.hostMem.read (numAt e 8 8) 192
    let l := launchOfDesc s.nextLaunch q tag d
    (p.head % 2 ^ p.n = tail.toNat % 2 ^ p.n → exec (.doorbell q tail) s = .next s) ∧
    (p.head % 2 ^ p.n ≠ tail.toNat % 2 ^ p.n → (p.head + 1) % 2 ^ p.n = tail.toNat % 2 ^ p.n → numAt e 8 8 % 64 ≠ 0 →
      ∃ t y, exec (.doorbell q tail) s = .next t ∧ (t.qpairs[q]).head = p.head + 1 ∧
        (t.qpairs[q]).pending = p.pending ++ [⟨tag, none, s.cycle, 0, some (1, 1, 0, y)⟩]) ∧
    (p.head % 2 ^ p.n ≠ tail.toNat % 2 ^ p.n → (p.head + 1) % 2 ^ p.n = tail.toNat % 2 ^ p.n → numAt e 8 8 % 64 = 0 → numAt e 0 1 = 1 →
      (∀ k, s.launchCheck l d = .inl k → ∃ t y, exec (.doorbell q tail) s = .next t ∧ (t.qpairs[q]).head = p.head + 1 ∧
        (t.qpairs[q]).pending = p.pending ++ [⟨tag, none, s.cycle, 0, some (1, k, 0, y)⟩] ∧ t.cores = s.cores ∧ t.launches = s.launches) ∧
      (∀ img pre, s.launchCheck l d = .inr (img, pre) → ∃ t, exec (.doorbell q tail) s = .next t ∧ (t.qpairs[q]).head = p.head + 1 ∧
        (t.qpairs[q]).pending = p.pending ++ [⟨tag, some s.nextLaunch, s.cycle, 0, none⟩] ∧ t.launches = s.launches ++ [l] ∧
        ∀ c ∈ l.cores, (t.core c).launch = some s.nextLaunch)) ∧
    (p.pending = x :: xs → x.done = some (status, reason, failed, cycles) → 0 < p.cplFree →
      exec (.completionRecord q) s = .next {
        s.hostWrite (p.cpl + 32 * (p.cplTail % 2 ^ p.n)) (recordBytes x.tag status reason failed cycles) with
        qpairs := s.qpairs.set q { p with cplTail := p.cplTail + 1, cplFree := p.cplFree - 1, pending := xs } }) ∧
    (let root := (((s.jobLaunches job).head?).map (·.root)).getD 0
     (s.pendStack root (page.toNat / 32768) = some st →
        exec (.commitOrDenyAPage job page frame) s = .next (s.commitPage root page frame st).2) ∧
     (s.pendStack root (page.toNat / 32768) = none → exec (.commitOrDenyAPage job page frame) s = .next s)) ∧
    ((s.dieBuf[die]).length ≤ s.eventRoom → 0 < s.eventRoom → s.dieHeld[die] = [] → ∃ t, exec (.eventBufferDrain die) s = .next t ∧
      t.events = s.events ++ s.dieBuf[die] ∧ t.dieBuf[die] = [] ∧ t.eventRoom = s.eventRoom - (s.dieBuf[die]).length) ∧
    (exec (.jormalFrame n data false) s = .next s ∧ (data.length ≠ 256 → exec (.jormalFrame n data true) s = .next s) ∧
      ∀ ack nak, data.length = 256 → Config.jormalHeader data = (ack, nak, false) → ∃ t, exec (.jormalFrame n data true) s = .next t ∧
        (Fin.ofNat 4096 n = s.jormal.expect → s.jormal.held = [] →
          t.jormal.delivered = s.jormal.delivered ++ [data] ∧ t.jormal.expect = s.jormal.expect + 1) ∧
        (1024 ≤ (Fin.ofNat 4096 n - s.jormal.expect).val →
          t.jormal.delivered = s.jormal.delivered ∧ t.jormal.expect = s.jormal.expect ∧ t.jormal.held = s.jormal.held)) ∧
    (s.launches = [] → exec (.modeChange fn on) s = .next { s with modes := Modes.set s.modes fn on }) ∧
    (s.launches ≠ [] → exec (.modeChange fn on) s = .next s)

/-- 18 R387 to R389: an image is taken when both signatures verify its SHA-384 digest and its version is not below the fuses, and else changes
nothing; a report is signed over the digest of its body under both schemes; module reset takes the settings the running image fixes, where
they are in range, else their reset values, clears the module's own state and keeps HBM4, the host's memory and the fuses. The one image
digest kept, the digest as what is signed and one leaf of the LMS key for each report are log entry 28; what a module reset keeps is log
entry 29. -/
def Claims.Firmware : Prop :=
  ∀ (body ecdsa lms : List Byte) (version : Nat) (nonce : BitVec 256) (s : State),
    let d := sha384 body
    exec (.firmwareImage body version ecdsa lms) s = .next (
      if ecdsaOk Config.imageEcdsa d ecdsa = true ∧ lmsOk Config.imageLms d lms = true ∧ s.firmware.fuse ≤ version then
        { s with firmware := { s.firmware with images := [BitVec.ofNat 384 (beNat d)], fuse := version } }
      else s) ∧
    (s.firmware.leaf < 2 ^ 20 → ∃ t b k c, exec (.attestationReport nonce) s = .next t ∧ 0 < k ∧ k < p384N ∧
      t.firmware.report = some (b, ecdsaSign Config.deviceEcdsa k (sha384 b), deviceLms.sign s.firmware.leaf c (sha384 b)) ∧
      t.firmware.images = s.firmware.images ∧ t.firmware.leaf = s.firmware.leaf + 1 ∧ t.mem = s.mem) ∧
    (∃ t, exec .moduleReset s = .next t ∧ t.mem = s.mem ∧ t.hostMem = s.hostMem ∧ t.firmware = s.firmware ∧ t.modId = s.modId ∧
      t.cores = [] ∧ t.engines = [] ∧ t.launches = [] ∧ t.cycle = 0 ∧ t.names = [] ∧ t.views = [] ∧ t.settings.ok = true ∧
      (s.firmware.images = [] → t.settings = .reset) ∧
      (∀ g r, s.firmware.images = g :: r → t.settings = if (Config.firmwareSettings g).ok = true then (Config.firmwareSettings g).plain else .reset) ∧
      t.modes = .reset ∧ t.powered = true)

/-- 18 R390, R392: a die reset drains its links, and after the limit fences the die with what it held failed; a fenced die marked ready is up;
above 95 degrees the clock falls by steps of 100 MHz to no less than 1,200, at 105 every die begins to drain, and once all are fenced and the
records written the module powers down. How the shutdown is staged is log entry 18. -/
def Claims.Dies : Prop :=
  ∀ (d : DieId) (n x : Nat) (s : State),
    (s.dies[d] = .up → s.net = [] → s.pins = [] → exec (.resetADie d) s = .next { s with dies := s.dies.set d (.draining s.cycle) }) ∧
    (s.dies[d] = .draining n → n + 100000 ≤ s.cycle → ∃ t, exec (.dieDrainTimeout d) s = .next t ∧ t.dies[d] = .fenced) ∧
    (s.dies[d] = .draining n → s.cycle < n + 100000 → exec (.dieDrainTimeout d) s = .next s) ∧
    (s.dies[d] = .fenced → s.hot = false → exec (.markDieReady d) s = .next { s with dies := s.dies.set d .up }) ∧
    (95 < x → x < 105 → exec (.thermalThrottle x) s = .next { s with celsius := x, clock := max 1200 (s.clock - 100) }) ∧
    (x ≤ 95 → exec (.thermalThrottle x) s = .next { s with celsius := x }) ∧
    (105 ≤ x → s.hot = false → ∃ t, exec (.thermalThrottle x) s = .next t ∧ t.hot = true ∧ t.powered = s.powered ∧
      ∀ e : DieId, s.dies[e] = .up → t.dies[e] = .draining s.cycle) ∧
    (s.shutReady = true → exec (.thermalShutdown x) s = .next { s with celsius := x, powered := false }) ∧
    (s.shutReady = false → 105 ≤ x → s.hot = true → exec (.thermalShutdown x) s = .next { s with celsius := x })

/-- 16 R332 to R339, 18 R383 to R392: launches, the host link, firmware and dies. -/
def Obligations.LaunchesAndHost : Prop := Claims.Launches ∧ Claims.HostLink ∧ Claims.Firmware ∧ Claims.Dies

/-! ## All instructions -/

/-- 09 R186: division never traps; its borderline cases; and in every case the quotient times the divisor plus the remainder is the dividend
modulo 2^64. -/
def Obligations.Division : Prop :=
  ∀ (h : Hdr) (d a b : SReg) (s : State), Runs h s →
    let x := s.me.rs a
    let y := s.me.rs b
    ∃ q uq r ur : Word,
      Completes (.div h d a b) s (fun sl => sl.ws d q) ∧ Completes (.udiv h d a b) s (fun sl => sl.ws d uq) ∧
      Completes (.rem h d a b) s (fun sl => sl.ws d r) ∧ Completes (.urem h d a b) s (fun sl => sl.ws d ur) ∧
      (y = 0 → q = 0xFFFFFFFFFFFFFFFF ∧ uq = 0xFFFFFFFFFFFFFFFF ∧ r = x ∧ ur = x) ∧
      (x = 0x8000000000000000 → y = -1 → q = 0x8000000000000000 ∧ r = 0) ∧
      (x = 7 → y = -2 → q = -3 ∧ r = 1) ∧ (x = -7 → y = 2 → q = -3 ∧ r = -1) ∧ x = q * y + r ∧ x = uq * y + ur

/-- The instructions only the steward may issue (15 R314). -/
def stewards : Instr → Bool
  | .fetchb _ _ _ _ => true
  | .bcast _ _ _ _ => true
  | .slgo _ _ _ _ => true
  | .slhalt _ _ _ => true
  | .slwait _ _ _ => true
  | .slpoll _ _ _ _ => true
  | .slpool _ _ => true
  | _ => false

/-- A write to a control register that a program may only read (17 R367). -/
def writesReadOnly : Instr → Bool
  | .ctlw _ c _ => !ctlWritable c
  | .ctlx _ _ c _ => !ctlWritable c
  | _ => false

/-- The instruction is legal whatever its guard in this slot (02 R34). -/
def legalHere (i : Instr) (s : State) : Prop :=
  (stewards i = true → s.cur.slot = 0) ∧ writesReadOnly i = false ∧ ((∃ h, i = .eret h) → s.me.state = .handler)

/-- 02 R30, 15 R318: an instruction whose guard is false, where it is legal, completes with no effect but the pc's advance: every register file,
every special register, every other slot, and everything else of the module are as before. -/
def Obligations.FalseGuard : Prop :=
  ∀ (i : Instr) (r : Raw) (s : State), i.raw = some r → xor (s.me.rk ⟨r.pred.toNat, r.pred.isLt⟩) r.neg = false → legalHere i s →
    ∃ t, exec i s = .next t ∧ (t.slot s.cur).pc = s.me.pc + 1 ∧ (t.slot s.cur).s = s.me.s ∧ (t.slot s.cur).f = s.me.f ∧
      (t.slot s.cur).v = s.me.v ∧ (t.slot s.cur).k = s.me.k ∧ (t.slot s.cur).y = s.me.y ∧ Slot.SpecialKept s.me (t.slot s.cur) ∧
      OthersKept s t ∧ OffCoresKept s t ∧ CoresKept s t ∧ ∀ a, t.mem.get a = s.mem.get a

/-- 12 R261: instructions outside a guest's set, issued by a slot that hosts a thread, send the thread home with a trap of class 9, sub-cause 4;
the slot goes to pool with its own registers, which only the core's sleepers note (17 R370). -/
def Obligations.GuestTraps : Prop :=
  ∀ (h : Hdr) (d a b : SReg) (n : BitVec 32) (m : MbIdx) (x : SI) (all mdl pg : Bool) (off : BitVec 41) (g : Hosting) (s : State),
    Runs h s → s.me.hosting = some g → s.Whole →
    ∀ i ∈ [Instr.stop h, .pause h x, .trap h n, .brk h n, .mbincLocal h m x, .mbwait h m x, .mbrd h d m, .cpy h false d a b,
        .coll h false d a b, .repart h false d a, .spawn h false d a b, .tqctl h d a, .barCfg h d x b, .icinv h, .smsgMsg h a b 0,
        .spill h d a, .lkput h 0 a, .tlbinv h all mdl a off, .wback h pg a off],
      ∃ t, exec i s = .next t ∧ (t.slot s.cur).state = .pool ∧ (t.slot s.cur).hosting = none ∧ (t.slot s.cur).s = g.own.s ∧
        (t.slot s.cur).k = g.own.k ∧ (∃ f ∈ t.net, f.pkt.body = .home (s.me.pack g.home g.job s.me.pc) (.trap 9 4 0)) ∧
        (∀ w : Who, w ≠ s.cur → w.core ≠ s.cur.core ∨ (∀ m e r, (s.slot w).wait ≠ .sleep m e r) → t.slot w = s.slot w) ∧ t.mem = s.mem

/-- 09 R185 to R192: the frame of the integer and predicate instructions that write one scalar or predicate register: no other register, no
special register, no other slot, nothing of the core or the module beside, no byte of memory; the pc goes on by one. -/
def Claims.RegisterFrames : Prop :=
  ∀ (h : Hdr) (d a b c : SReg) (bo : Option SReg) (sh : BitVec 3) (k k' : KReg) (cd : Cond) (x : BitVec 48) (z : BitVec 45)
    (y : BitVec 16) (n p : BitVec 6) (sg : Bool) (w : BitVec 44) (s t : State),
    let kept : Prop := (t.slot s.cur).f = s.me.f ∧ (t.slot s.cur).v = s.me.v ∧ (t.slot s.cur).y = s.me.y ∧
      Slot.SpecialKept s.me (t.slot s.cur) ∧ OthersKept s t ∧ OffCoresKept s t ∧ CoresKept s t ∧ (t.slot s.cur).pc = s.me.pc + 1 ∧
      ∀ a, t.mem.get a = s.mem.get a
    (∀ i ∈ [Instr.add h d a b, .sub h d a b, .mul h d a b, .mulh h d a b, .umulh h d a b, .div h d a b, .udiv h d a b, .rem h d a b,
        .urem h d a b, .min h d a b, .max h d a b, .umin h d a b, .umax h d a b, .madd h d a b c, .msub h d a b c, .and h d a b,
        .or h d a b, .xor h d a b, .andn h d a b, .orn h d a b, .shl h d a b, .shr h d a b, .sra h d a b, .rol h d a b, .ror h d a b,
        .clz h d a, .ctz h d a, .popc h d a, .bswap h d a, .sel h d a b k, .cmp h cd (.s d) a b, .addi h d a x, .andi h d a x,
        .ori h d a x, .xori h d a x, .shli h d a n, .shri h d a n, .srai h d a n, .li h d x, .lih h d a y, .lea h d a bo sh z,
        .cmpi h cd (.s d) a w, .ext h sg d a p n, .ins h d a p n, .pgetb h d k, .pgetbAll h d],
      exec i s = .next t → kept ∧ (t.slot s.cur).k = s.me.k ∧ ∀ r, r ≠ d → (t.slot s.cur).rs r = s.me.rs r) ∧
    (∀ i ∈ [Instr.cmp h cd (.k k) a b, .cmpi h cd (.k k) a w, .pand h k k' k', .por h k k' k', .pxor h k k' k', .pandn h k k' k',
        .psetb h k a n], exec i s = .next t → kept ∧ (t.slot s.cur).s = s.me.s ∧ ∀ r, r ≠ k → (t.slot s.cur).rk r = s.me.rk r)

/-- 08 R173, R178, R181: the frame of the scratchpad's stores and atomics that are performed: every byte of the scratchpad outside the bytes
stored, every tag, counter and format register, every other core, every register but an atomic's destination, and global memory. -/
def Claims.StoreFrames : Prop :=
  ∀ (h : Hdr) (op : AmoOp) (a b d : SReg) (e : SF) (v : VReg) (m : MemArgs) (q : AmoArgs) (s t : State), AtHome h s → NoStreams s →
    s.myCore.sp.wf = true →
    let kept (i : Instr) (x n : Nat) : Prop := exec i s = .next t →
      (∀ y, y < x ∨ x + n ≤ y → (t.core s.cur.core).sp.get y = s.myCore.sp.get y) ∧
      { t.core s.cur.core with slots := s.myCore.slots, sp := s.myCore.sp } = s.myCore ∧
      (∀ c, c ≠ s.cur.core → t.core c = s.core c) ∧ OthersKept s t ∧ OffCoresKept s t ∧ (t.slot s.cur).f = s.me.f ∧
      (t.slot s.cur).v = s.me.v ∧ (t.slot s.cur).k = s.me.k ∧ (t.slot s.cur).y = s.me.y ∧ Slot.SpecialKept s.me (t.slot s.cur)
    (LocalOk (memAddr s.me a m) m.width.bytes m.width.align →
      (kept (.stl h e a m) (memAddr s.me a m).toNat m.width.bytes ∧ kept (.stlv h v a m) (memAddr s.me a m).toNat m.width.bytes) ∧
      ((exec (.stl h e a m) s = .next t ∨ exec (.stlv h v a m) s = .next t) → (t.slot s.cur).s = s.me.s)) ∧
    (LocalOk (amoAddr s.me a q) q.width.bytes q.width.bytes →
      (kept (.lamo h op d a b q) (amoAddr s.me a q).toNat q.width.bytes ∧
        kept (.lamox h op a b q) (amoAddr s.me a q).toNat q.width.bytes ∧
        kept (.lamocas h d a b q) (amoAddr s.me a q).toNat q.width.bytes) ∧
      ((exec (.lamo h op d a b q) s = .next t ∨ exec (.lamocas h d a b q) s = .next t) →
        ∀ r, r ≠ d → (t.slot s.cur).rs r = s.me.rs r) ∧
      (exec (.lamox h op a b q) s = .next t → (t.slot s.cur).s = s.me.s))

/-- 08 R173, R178, R181, 09 R185 to R192: what the instructions of one shape leave alone. -/
def Obligations.Frames : Prop := Claims.RegisterFrames ∧ Claims.StoreFrames

/-- 02 R27, R34, 01 R25, 17 R363: where the module's next event is the issue cycle of a slot in rotation with nothing before its instruction,
the step performs the instruction its next word decodes to, in that slot, and passes the turn; a word that decodes to nothing takes the
illegal-instruction trap with its sub-cause; a slot that issues again, with nothing before its instruction, performs its word. Which event is
next is the model's choice (log entry 1). -/
def Obligations.StepRunsInstruction : Prop :=
  ∀ (s : State) (c : CoreId) (k : Core) (x : IWord) (i : Instr) (w' : Who) (r : List Todo), s.powered = true →
    let t := (s.pick (s.enabled.length + 1)).2
    let w : Who := ⟨c, Fin.ofNat 16 t.cycle⟩
    let sl := s.slot w
    let u : State := { t.modSlot w fun sl => { sl with word := x } with cur := w }
    (s.todo = [] → s.agenda = [] → s.enabled[(s.pick (s.enabled.length + 1)).1]? = none → s.cores[s.turn]? = some (c, k) →
      sl.inRotation = true → s.wanted w = false → sl.halts = false → sl.pending w = none → sl.bubble = false →
      sl.fetchFault.filter (fun y => decide (y.1 = sl.pc)) = none → s.nextWord w = some x →
      (decode x = .ok i → (∀ v, exec (issued sl i) u = .next v → step s = .next (v.passTurn t w)) ∧
        (sl.repCont = false → issued sl i = i)) ∧
      (∀ e, decode x = .error e → ∀ v, exec (.illegalInstruction e.sub) u = .next v → step s = .next (v.passTurn t w))) ∧
    (s.todo = .issue w' :: r → decode (s.slot w').word = .ok i → (s.slot w').repCont = false → s.wanted w' = false →
      (s.slot w').halts = false → (s.slot w').pending w' = none →
      let z : State := { s with todo := r }
      step s = exec i { z.modSlot w' fun sl => { sl with word := (s.slot w').word } with cur := w' })

/-- 02 R27 to R35: words written out from the manual's encodings, decoded. -/
def Obligations.DecodedWords : Prop :=
  let h : Hdr := ⟨false, 0, 0, 0, false, false⟩
  decode 0x01D00003_04050000_06000000 = .ok (.madd h 3 4 5 6) ∧
  decode 0x03800004_00E00000_00003FF8 = .ok (.lih h 4 0 0x3FF8) ∧
  decode 0x010B0005_06070000_E0000000 = .ok (.add { h with neg := true, pred := 3 } 5 6 7) ∧
  decode 0xA81000E0_E0E00000_00000000 = .ok (.eret h) ∧
  decode 0x98500009_E0E000FF_FFFFFFFB = .ok (.loop h 9 (-5)) ∧
  decode 0xA0000005_06070000_00000000 = .ok (.spawn h false 5 6 7) ∧
  decode 0x98900005_E3C10000_E0000000 = .ok (.lkget h 5 (.imm 3) 1) ∧
  decode 0xA8800000_E0E00000_00000003 = .ok (.tmrset h 0 none 3)

/-- 02 R27 to R35: the decoder reads back every well-formed instruction from its word: no bit of an encoding is dropped. -/
def Obligations.DecodeOfEncode : Prop :=
  ∀ (i : Instr) (w : IWord), i.wf = true → encode i = some w → decode w = .ok i

/-- Every instruction and every event completes in every state: none stops the machine. -/
def Obligations.EveryInstructionCompletes : Prop := ∀ (i : Instr) (s : State), ∃ t, exec i s = .next t

/-- Every step keeps global memory and the host's memory in canonical form, so that equal memories are equal data. -/
def Obligations.StepKeepsMemory : Prop := ∀ s t : State, s.MemOk → step s = .next t → t.MemOk

/-- Every step keeps every scratchpad and every B-store in canonical form, so that equal ones are equal data. -/
def Obligations.StepKeepsPads : Prop := ∀ s t : State, s.PadsOk → step s = .next t → t.PadsOk

/-- 02 R36 to R38, 18 R387: module reset as the machine starts: no launch and no thread, the clock at 1.7 GHz, the cycle count at zero, the
dies, links and ports up, the memories in canonical form. That memory reads as zero is the model's choice (log entry 2), as are the slots' states
before a launch (log entry 3) and the registers and counters that read as zero (log entry 4). -/
def Obligations.ResetState : Prop :=
  State.reset.MemOk ∧ State.reset.PadsOk ∧ State.reset.Whole ∧ State.reset.cycle = 0 ∧ State.reset.launches = [] ∧ State.reset.clock = 1700 ∧ State.reset.powered = true ∧
  State.reset.names = [] ∧ State.reset.views = [] ∧ State.reset.net = [] ∧ (∀ a, State.reset.mem.get a = 0) ∧
  (∀ i : Fin 16, State.reset.ports[i].st = .up) ∧ (∀ w : Who, (State.reset.slot w).state = (if w.slot = 0 then .exit else .pool)) ∧
  (∀ w : Who, ∀ r, (State.reset.slot w).rs r = 0) ∧ ∀ (c : CoreId) (i : MbIdx), (State.reset.core c).mb[i] = 0
end

