-- ==== Sys2Proof/Laws/Memory.lean ====
section
/-! SUPPORT. Sparse memories: read after write, and that every operation keeps the canonical form. -/

namespace Sys2Proof.Machine

/-! ## The canonical form -/

theorem Memory.wfFrom_mono (m : Memory) (a b : Nat) (h : m.wfFrom a = true) (l : b ≤ a) : m.wfFrom b = true := by
  cases m with
  | nil => rfl
  | cons p r =>
    simp only [Memory.wfFrom, Bool.and_eq_true, decide_eq_true_eq] at h ⊢
    exact ⟨⟨by omega, h.1.2⟩, h.2⟩

theorem Memory.put_wfFrom (m : Memory) (lo a : Nat) (x : Byte) (h : m.wfFrom lo = true) (l : lo ≤ a) : (m.put a x).wfFrom lo = true := by
  induction m generalizing lo with
  | nil =>
    unfold Memory.put
    by_cases e : x = 0
    · rw [if_pos e]
      rfl
    · rw [if_neg e]
      simp only [Memory.wfFrom, Bool.and_eq_true, decide_eq_true_eq, Bool.and_true]
      exact ⟨l, e⟩
  | cons p r ih =>
    obtain ⟨k, b⟩ := p
    simp only [Memory.wfFrom, Bool.and_eq_true, decide_eq_true_eq] at h
    obtain ⟨⟨h1, h2⟩, h3⟩ := h
    unfold Memory.put
    by_cases c : a < k
    · by_cases e : x = 0
      · simp only [if_pos c, if_pos e, Memory.wfFrom, Bool.and_eq_true, decide_eq_true_eq]
        exact ⟨⟨h1, h2⟩, h3⟩
      · simp only [if_pos c, if_neg e, Memory.wfFrom, Bool.and_eq_true, decide_eq_true_eq]
        exact ⟨⟨l, e⟩, ⟨c, h2⟩, h3⟩
    · by_cases d : a = k
      · subst d
        by_cases e : x = 0
        · simp only [if_neg c, if_pos e, if_true]
          exact Memory.wfFrom_mono r _ _ h3 (by omega)
        · simp only [if_neg c, if_neg e, if_true, Memory.wfFrom, Bool.and_eq_true, decide_eq_true_eq]
          exact ⟨⟨l, e⟩, h3⟩
      · simp only [if_neg c, if_neg d, Memory.wfFrom, Bool.and_eq_true, decide_eq_true_eq]
        exact ⟨⟨h1, h2⟩, ih (k + 1) h3 (by omega)⟩

theorem Memory.put_wf (m : Memory) (a : Nat) (x : Byte) (h : m.wf = true) : (m.put a x).wf = true :=
  m.put_wfFrom 0 a x h (Nat.zero_le a)

theorem Memory.write_wf (m : Memory) (a : Nat) (bs : List Byte) (h : m.wf = true) : (m.write a bs).wf = true := by
  induction bs generalizing m a with
  | nil => exact h
  | cons b r ih => exact ih _ _ (m.put_wf a b h)

theorem Memory.setNum_wf (m : Memory) (a n x : Nat) (h : m.wf = true) : (m.setNum a n x).wf = true := m.write_wf a _ h

theorem Memory.filter_wfFrom (m : Memory) (lo : Nat) (p : Host.Cell → Bool) (h : m.wfFrom lo = true) :
    Memory.wfFrom lo (m.filter p) = true := by
  induction m generalizing lo with
  | nil => rfl
  | cons q r ih =>
    obtain ⟨k, b⟩ := q
    simp only [Memory.wfFrom, Bool.and_eq_true, decide_eq_true_eq] at h
    by_cases c : p (k, b) = true
    · rw [List.filter_cons_of_pos c]
      simp only [Memory.wfFrom, Bool.and_eq_true, decide_eq_true_eq]
      exact ⟨h.1, ih _ h.2⟩
    · rw [List.filter_cons_of_neg c]
      exact ih _ (Memory.wfFrom_mono r _ _ h.2 (by omega))

theorem Memory.filter_wf (m : Memory) (p : Host.Cell → Bool) (h : m.wf = true) : Memory.wf (m.filter p) = true := Memory.filter_wfFrom m 0 p h

theorem Memory.nil_wf : Memory.wf [] = true := rfl

theorem State.reset_mem_wf : State.reset.mem.wf = true := by rfl

/-! ## Read after write -/

theorem Memory.get_below (m : Memory) (lo a : Nat) (h : m.wfFrom lo = true) (l : a < lo) : m.get a = 0 := by
  induction m generalizing lo with
  | nil => rfl
  | cons p r ih =>
    obtain ⟨k, b⟩ := p
    simp only [Memory.wfFrom, Bool.and_eq_true, decide_eq_true_eq] at h
    rw [Memory.get, if_neg (by omega)]
    exact ih (k + 1) h.2 (by omega)

/-- A byte written is read back, and every other byte is as before. -/
theorem Memory.get_put (m : Memory) (lo a c : Nat) (x : Byte) (h : m.wfFrom lo = true) :
    (m.put a x).get c = if c = a then x else m.get c := by
  induction m generalizing lo with
  | nil =>
    unfold Memory.put
    by_cases e : x = 0
    · subst e
      rw [if_pos rfl]
      exact (ite_self _).symm
    · rw [if_neg e]
      by_cases d : c = a
      · simp [Memory.get, d]
      · simp [Memory.get, d, Ne.symm d]
  | cons p r ih =>
    obtain ⟨k, b⟩ := p
    simp only [Memory.wfFrom, Bool.and_eq_true, decide_eq_true_eq] at h
    obtain ⟨⟨h1, h2⟩, h3⟩ := h
    unfold Memory.put
    by_cases q : a < k
    · by_cases e : x = 0
      · subst e
        rw [if_pos q, if_pos rfl]
        by_cases d : c = a
        · subst d
          rw [if_pos rfl]
          refine Memory.get_below _ k c ?_ q
          simp only [Memory.wfFrom, Bool.and_eq_true, decide_eq_true_eq]
          exact ⟨⟨Nat.le_refl k, h2⟩, h3⟩
        · rw [if_neg d]
      · rw [if_pos q, if_neg e]
        by_cases d : c = a
        · simp [Memory.get, d]
        · simp [Memory.get, d, Ne.symm d]
    · by_cases f : a = k
      · subst f
        rw [if_neg q, if_pos rfl]
        by_cases e : x = 0
        · subst e
          rw [if_pos rfl]
          by_cases d : c = a
          · subst d
            rw [if_pos rfl]
            exact Memory.get_below _ _ _ h3 (by omega)
          · rw [if_neg d, Memory.get, if_neg (Ne.symm d)]
        · rw [if_neg e]
          by_cases d : c = a
          · simp [Memory.get, d]
          · simp [Memory.get, d, Ne.symm d]
      · rw [if_neg q, if_neg f]
        rw [Memory.get, Memory.get, ih (k + 1) h3]
        by_cases d : c = a
        · subst d
          simp [Ne.symm f]
        · simp [d]

theorem Memory.get_put_wf (m : Memory) (a c : Nat) (x : Byte) (h : m.wf = true) : (m.put a x).get c = if c = a then x else m.get c :=
  m.get_put 0 a c x h

/-- Bytes written are read back, and every other byte is as before. -/
theorem Memory.get_write (m : Memory) (a c : Nat) (bs : List Byte) (h : m.wf = true) :
    (m.write a bs).get c = if l : a ≤ c ∧ c < a + bs.length then bs[c - a]'(by omega) else m.get c := by
  induction bs generalizing m a with
  | nil =>
    have n : ¬ (a ≤ c ∧ c < a + ([] : List Byte).length) := by simp
    rw [dif_neg n]
    rfl
  | cons b r ih =>
    rw [Memory.write, ih _ _ (m.put_wf a b h), m.get_put_wf a c b h]
    by_cases e : c = a
    · subst e
      rw [dif_neg (by omega), dif_pos (by simp)]
      simp
    · by_cases l : a + 1 ≤ c ∧ c < a + 1 + r.length
      · have k : a ≤ c ∧ c < a + (b :: r).length := by simp only [List.length_cons]; omega
        rw [dif_pos l, dif_pos k]
        have j : c - a = (c - (a + 1)) + 1 := by omega
        simp only [j, List.getElem_cons_succ]
      · have k : ¬ (a ≤ c ∧ c < a + (b :: r).length) := by simp only [List.length_cons]; omega
        rw [dif_neg l, dif_neg k, if_neg e]

theorem Memory.read_length (m : Memory) (a n : Nat) : (m.read a n).length = n := by
  induction n generalizing a with
  | zero => rfl
  | succ n ih => simp [Memory.read, ih]

end Sys2Proof.Machine
end

