-- ==== Sys2Proof/Laws/State.lean ====
section
/-! SUPPORT. What each update of a state, a core or a slot leaves alone: one lemma per field, so that no proof unfolds a record. -/

namespace Sys2Proof.Machine

/-! ## Association lists -/

theorem assocD_set_self {κ ν : Type} [DecidableEq κ] (l : List (κ × ν)) (a : κ) (x d : ν) : assocD (assocSet l a x) a d = x := by
  induction l with
  | nil => simp [assocSet, assocD]
  | cons p r ih =>
    obtain ⟨k, v⟩ := p
    by_cases e : k = a
    · simp [assocSet, assocD, e]
    · simp [assocSet, assocD, e, ih]

theorem assocD_set_ne {κ ν : Type} [DecidableEq κ] (l : List (κ × ν)) (a b : κ) (x d : ν) (n : b ≠ a) :
    assocD (assocSet l a x) b d = assocD l b d := by
  induction l with
  | nil => simp [assocSet, assocD, n.symm]
  | cons p r ih =>
    obtain ⟨k, v⟩ := p
    by_cases e : k = a
    · subst e
      simp [assocSet, assocD, n.symm]
    · by_cases f : k = b
      · subst f
        simp [assocSet, assocD, e]
      · simp [assocSet, assocD, e, f, ih]

theorem assocSet_set {κ ν : Type} [DecidableEq κ] (l : List (κ × ν)) (a : κ) (x y : ν) :
    assocSet (assocSet l a x) a y = assocSet l a y := by
  induction l with
  | nil => simp [assocSet]
  | cons p r ih =>
    obtain ⟨k, v⟩ := p
    by_cases e : k = a
    · simp [assocSet, e]
    · simp [assocSet, e, ih]

/-! ## The module -/

@[simp] theorem State.modCore_modId (s : State) (c : CoreId) (f : Core → Core) : (s.modCore c f).modId = s.modId := rfl
@[simp] theorem State.modCore_domainMax (s : State) (c : CoreId) (f : Core → Core) : (s.modCore c f).domainMax = s.domainMax := rfl
@[simp] theorem State.modCore_engines (s : State) (c : CoreId) (f : Core → Core) : (s.modCore c f).engines = s.engines := rfl
@[simp] theorem State.modCore_launches (s : State) (c : CoreId) (f : Core → Core) : (s.modCore c f).launches = s.launches := rfl
@[simp] theorem State.modCore_nextLaunch (s : State) (c : CoreId) (f : Core → Core) : (s.modCore c f).nextLaunch = s.nextLaunch := rfl
@[simp] theorem State.modCore_cycle (s : State) (c : CoreId) (f : Core → Core) : (s.modCore c f).cycle = s.cycle := rfl
@[simp] theorem State.modCore_mem (s : State) (c : CoreId) (f : Core → Core) : (s.modCore c f).mem = s.mem := rfl
@[simp] theorem State.modCore_stale (s : State) (c : CoreId) (f : Core → Core) : (s.modCore c f).stale = s.stale := rfl
@[simp] theorem State.modCore_poison (s : State) (c : CoreId) (f : Core → Core) : (s.modCore c f).poison = s.poison := rfl
@[simp] theorem State.modCore_resTabs (s : State) (c : CoreId) (f : Core → Core) : (s.modCore c f).resTabs = s.resTabs := rfl
@[simp] theorem State.modCore_pools (s : State) (c : CoreId) (f : Core → Core) : (s.modCore c f).pools = s.pools := rfl
@[simp] theorem State.modCore_pend (s : State) (c : CoreId) (f : Core → Core) : (s.modCore c f).pend = s.pend := rfl
@[simp] theorem State.modCore_names (s : State) (c : CoreId) (f : Core → Core) : (s.modCore c f).names = s.names := rfl
@[simp] theorem State.modCore_deliveries (s : State) (c : CoreId) (f : Core → Core) : (s.modCore c f).deliveries = s.deliveries := rfl
@[simp] theorem State.modCore_nextDid (s : State) (c : CoreId) (f : Core → Core) : (s.modCore c f).nextDid = s.nextDid := rfl
@[simp] theorem State.modCore_tileSeq (s : State) (c : CoreId) (f : Core → Core) : (s.modCore c f).tileSeq = s.tileSeq := rfl
@[simp] theorem State.modCore_tileHeld (s : State) (c : CoreId) (f : Core → Core) : (s.modCore c f).tileHeld = s.tileHeld := rfl
@[simp] theorem State.modCore_net (s : State) (c : CoreId) (f : Core → Core) : (s.modCore c f).net = s.net := rfl
@[simp] theorem State.modCore_pins (s : State) (c : CoreId) (f : Core → Core) : (s.modCore c f).pins = s.pins := rfl
@[simp] theorem State.modCore_flowSeq (s : State) (c : CoreId) (f : Core → Core) : (s.modCore c f).flowSeq = s.flowSeq := rfl
@[simp] theorem State.modCore_ucieNb (s : State) (c : CoreId) (f : Core → Core) : (s.modCore c f).ucieNb = s.ucieNb := rfl
@[simp] theorem State.modCore_ucieIo (s : State) (c : CoreId) (f : Core → Core) : (s.modCore c f).ucieIo = s.ucieIo := rfl
@[simp] theorem State.modCore_ports (s : State) (c : CoreId) (f : Core → Core) : (s.modCore c f).ports = s.ports := rfl
@[simp] theorem State.modCore_switches (s : State) (c : CoreId) (f : Core → Core) : (s.modCore c f).switches = s.switches := rfl
@[simp] theorem State.modCore_views (s : State) (c : CoreId) (f : Core → Core) : (s.modCore c f).views = s.views := rfl
@[simp] theorem State.modCore_splitReqs (s : State) (c : CoreId) (f : Core → Core) : (s.modCore c f).splitReqs = s.splitReqs := rfl
@[simp] theorem State.modCore_qpairs (s : State) (c : CoreId) (f : Core → Core) : (s.modCore c f).qpairs = s.qpairs := rfl
@[simp] theorem State.modCore_events (s : State) (c : CoreId) (f : Core → Core) : (s.modCore c f).events = s.events := rfl
@[simp] theorem State.modCore_eventRoom (s : State) (c : CoreId) (f : Core → Core) : (s.modCore c f).eventRoom = s.eventRoom := rfl
@[simp] theorem State.modCore_dieBuf (s : State) (c : CoreId) (f : Core → Core) : (s.modCore c f).dieBuf = s.dieBuf := rfl
@[simp] theorem State.modCore_dieHeld (s : State) (c : CoreId) (f : Core → Core) : (s.modCore c f).dieHeld = s.dieHeld := rfl
@[simp] theorem State.modCore_dies (s : State) (c : CoreId) (f : Core → Core) : (s.modCore c f).dies = s.dies := rfl
@[simp] theorem State.modCore_hostMem (s : State) (c : CoreId) (f : Core → Core) : (s.modCore c f).hostMem = s.hostMem := rfl
@[simp] theorem State.modCore_jormal (s : State) (c : CoreId) (f : Core → Core) : (s.modCore c f).jormal = s.jormal := rfl
@[simp] theorem State.modCore_firmware (s : State) (c : CoreId) (f : Core → Core) : (s.modCore c f).firmware = s.firmware := rfl
@[simp] theorem State.modCore_settings (s : State) (c : CoreId) (f : Core → Core) : (s.modCore c f).settings = s.settings := rfl
@[simp] theorem State.modCore_modes (s : State) (c : CoreId) (f : Core → Core) : (s.modCore c f).modes = s.modes := rfl
@[simp] theorem State.modCore_clock (s : State) (c : CoreId) (f : Core → Core) : (s.modCore c f).clock = s.clock := rfl
@[simp] theorem State.modCore_celsius (s : State) (c : CoreId) (f : Core → Core) : (s.modCore c f).celsius = s.celsius := rfl
@[simp] theorem State.modCore_hot (s : State) (c : CoreId) (f : Core → Core) : (s.modCore c f).hot = s.hot := rfl
@[simp] theorem State.modCore_powered (s : State) (c : CoreId) (f : Core → Core) : (s.modCore c f).powered = s.powered := rfl
@[simp] theorem State.modCore_corrected (s : State) (c : CoreId) (f : Core → Core) : (s.modCore c f).corrected = s.corrected := rfl
@[simp] theorem State.modCore_discards (s : State) (c : CoreId) (f : Core → Core) : (s.modCore c f).discards = s.discards := rfl
@[simp] theorem State.modCore_agenda (s : State) (c : CoreId) (f : Core → Core) : (s.modCore c f).agenda = s.agenda := rfl
@[simp] theorem State.modCore_todo (s : State) (c : CoreId) (f : Core → Core) : (s.modCore c f).todo = s.todo := rfl
@[simp] theorem State.modCore_cur (s : State) (c : CoreId) (f : Core → Core) : (s.modCore c f).cur = s.cur := rfl
@[simp] theorem State.modCore_turn (s : State) (c : CoreId) (f : Core → Core) : (s.modCore c f).turn = s.turn := rfl
@[simp] theorem State.modCore_fresh (s : State) (c : CoreId) (f : Core → Core) : (s.modCore c f).fresh = s.fresh := rfl

@[simp] theorem State.modSlot_modId (s : State) (w : Who) (f : Slot → Slot) : (s.modSlot w f).modId = s.modId := rfl
@[simp] theorem State.modSlot_domainMax (s : State) (w : Who) (f : Slot → Slot) : (s.modSlot w f).domainMax = s.domainMax := rfl
@[simp] theorem State.modSlot_engines (s : State) (w : Who) (f : Slot → Slot) : (s.modSlot w f).engines = s.engines := rfl
@[simp] theorem State.modSlot_launches (s : State) (w : Who) (f : Slot → Slot) : (s.modSlot w f).launches = s.launches := rfl
@[simp] theorem State.modSlot_nextLaunch (s : State) (w : Who) (f : Slot → Slot) : (s.modSlot w f).nextLaunch = s.nextLaunch := rfl
@[simp] theorem State.modSlot_cycle (s : State) (w : Who) (f : Slot → Slot) : (s.modSlot w f).cycle = s.cycle := rfl
@[simp] theorem State.modSlot_mem (s : State) (w : Who) (f : Slot → Slot) : (s.modSlot w f).mem = s.mem := rfl
@[simp] theorem State.modSlot_stale (s : State) (w : Who) (f : Slot → Slot) : (s.modSlot w f).stale = s.stale := rfl
@[simp] theorem State.modSlot_poison (s : State) (w : Who) (f : Slot → Slot) : (s.modSlot w f).poison = s.poison := rfl
@[simp] theorem State.modSlot_resTabs (s : State) (w : Who) (f : Slot → Slot) : (s.modSlot w f).resTabs = s.resTabs := rfl
@[simp] theorem State.modSlot_pools (s : State) (w : Who) (f : Slot → Slot) : (s.modSlot w f).pools = s.pools := rfl
@[simp] theorem State.modSlot_pend (s : State) (w : Who) (f : Slot → Slot) : (s.modSlot w f).pend = s.pend := rfl
@[simp] theorem State.modSlot_names (s : State) (w : Who) (f : Slot → Slot) : (s.modSlot w f).names = s.names := rfl
@[simp] theorem State.modSlot_deliveries (s : State) (w : Who) (f : Slot → Slot) : (s.modSlot w f).deliveries = s.deliveries := rfl
@[simp] theorem State.modSlot_nextDid (s : State) (w : Who) (f : Slot → Slot) : (s.modSlot w f).nextDid = s.nextDid := rfl
@[simp] theorem State.modSlot_tileSeq (s : State) (w : Who) (f : Slot → Slot) : (s.modSlot w f).tileSeq = s.tileSeq := rfl
@[simp] theorem State.modSlot_tileHeld (s : State) (w : Who) (f : Slot → Slot) : (s.modSlot w f).tileHeld = s.tileHeld := rfl
@[simp] theorem State.modSlot_net (s : State) (w : Who) (f : Slot → Slot) : (s.modSlot w f).net = s.net := rfl
@[simp] theorem State.modSlot_pins (s : State) (w : Who) (f : Slot → Slot) : (s.modSlot w f).pins = s.pins := rfl
@[simp] theorem State.modSlot_flowSeq (s : State) (w : Who) (f : Slot → Slot) : (s.modSlot w f).flowSeq = s.flowSeq := rfl
@[simp] theorem State.modSlot_ucieNb (s : State) (w : Who) (f : Slot → Slot) : (s.modSlot w f).ucieNb = s.ucieNb := rfl
@[simp] theorem State.modSlot_ucieIo (s : State) (w : Who) (f : Slot → Slot) : (s.modSlot w f).ucieIo = s.ucieIo := rfl
@[simp] theorem State.modSlot_ports (s : State) (w : Who) (f : Slot → Slot) : (s.modSlot w f).ports = s.ports := rfl
@[simp] theorem State.modSlot_switches (s : State) (w : Who) (f : Slot → Slot) : (s.modSlot w f).switches = s.switches := rfl
@[simp] theorem State.modSlot_views (s : State) (w : Who) (f : Slot → Slot) : (s.modSlot w f).views = s.views := rfl
@[simp] theorem State.modSlot_splitReqs (s : State) (w : Who) (f : Slot → Slot) : (s.modSlot w f).splitReqs = s.splitReqs := rfl
@[simp] theorem State.modSlot_qpairs (s : State) (w : Who) (f : Slot → Slot) : (s.modSlot w f).qpairs = s.qpairs := rfl
@[simp] theorem State.modSlot_events (s : State) (w : Who) (f : Slot → Slot) : (s.modSlot w f).events = s.events := rfl
@[simp] theorem State.modSlot_eventRoom (s : State) (w : Who) (f : Slot → Slot) : (s.modSlot w f).eventRoom = s.eventRoom := rfl
@[simp] theorem State.modSlot_dieBuf (s : State) (w : Who) (f : Slot → Slot) : (s.modSlot w f).dieBuf = s.dieBuf := rfl
@[simp] theorem State.modSlot_dieHeld (s : State) (w : Who) (f : Slot → Slot) : (s.modSlot w f).dieHeld = s.dieHeld := rfl
@[simp] theorem State.modSlot_dies (s : State) (w : Who) (f : Slot → Slot) : (s.modSlot w f).dies = s.dies := rfl
@[simp] theorem State.modSlot_hostMem (s : State) (w : Who) (f : Slot → Slot) : (s.modSlot w f).hostMem = s.hostMem := rfl
@[simp] theorem State.modSlot_jormal (s : State) (w : Who) (f : Slot → Slot) : (s.modSlot w f).jormal = s.jormal := rfl
@[simp] theorem State.modSlot_firmware (s : State) (w : Who) (f : Slot → Slot) : (s.modSlot w f).firmware = s.firmware := rfl
@[simp] theorem State.modSlot_settings (s : State) (w : Who) (f : Slot → Slot) : (s.modSlot w f).settings = s.settings := rfl
@[simp] theorem State.modSlot_modes (s : State) (w : Who) (f : Slot → Slot) : (s.modSlot w f).modes = s.modes := rfl
@[simp] theorem State.modSlot_clock (s : State) (w : Who) (f : Slot → Slot) : (s.modSlot w f).clock = s.clock := rfl
@[simp] theorem State.modSlot_celsius (s : State) (w : Who) (f : Slot → Slot) : (s.modSlot w f).celsius = s.celsius := rfl
@[simp] theorem State.modSlot_hot (s : State) (w : Who) (f : Slot → Slot) : (s.modSlot w f).hot = s.hot := rfl
@[simp] theorem State.modSlot_powered (s : State) (w : Who) (f : Slot → Slot) : (s.modSlot w f).powered = s.powered := rfl
@[simp] theorem State.modSlot_corrected (s : State) (w : Who) (f : Slot → Slot) : (s.modSlot w f).corrected = s.corrected := rfl
@[simp] theorem State.modSlot_discards (s : State) (w : Who) (f : Slot → Slot) : (s.modSlot w f).discards = s.discards := rfl
@[simp] theorem State.modSlot_agenda (s : State) (w : Who) (f : Slot → Slot) : (s.modSlot w f).agenda = s.agenda := rfl
@[simp] theorem State.modSlot_todo (s : State) (w : Who) (f : Slot → Slot) : (s.modSlot w f).todo = s.todo := rfl
@[simp] theorem State.modSlot_cur (s : State) (w : Who) (f : Slot → Slot) : (s.modSlot w f).cur = s.cur := rfl
@[simp] theorem State.modSlot_turn (s : State) (w : Who) (f : Slot → Slot) : (s.modSlot w f).turn = s.turn := rfl
@[simp] theorem State.modSlot_fresh (s : State) (w : Who) (f : Slot → Slot) : (s.modSlot w f).fresh = s.fresh := rfl

@[simp] theorem State.mod_modId (s : State) (f : Slot → Slot) : (s.mod f).modId = s.modId := rfl
@[simp] theorem State.mod_domainMax (s : State) (f : Slot → Slot) : (s.mod f).domainMax = s.domainMax := rfl
@[simp] theorem State.mod_engines (s : State) (f : Slot → Slot) : (s.mod f).engines = s.engines := rfl
@[simp] theorem State.mod_launches (s : State) (f : Slot → Slot) : (s.mod f).launches = s.launches := rfl
@[simp] theorem State.mod_nextLaunch (s : State) (f : Slot → Slot) : (s.mod f).nextLaunch = s.nextLaunch := rfl
@[simp] theorem State.mod_cycle (s : State) (f : Slot → Slot) : (s.mod f).cycle = s.cycle := rfl
@[simp] theorem State.mod_mem (s : State) (f : Slot → Slot) : (s.mod f).mem = s.mem := rfl
@[simp] theorem State.mod_stale (s : State) (f : Slot → Slot) : (s.mod f).stale = s.stale := rfl
@[simp] theorem State.mod_poison (s : State) (f : Slot → Slot) : (s.mod f).poison = s.poison := rfl
@[simp] theorem State.mod_resTabs (s : State) (f : Slot → Slot) : (s.mod f).resTabs = s.resTabs := rfl
@[simp] theorem State.mod_pools (s : State) (f : Slot → Slot) : (s.mod f).pools = s.pools := rfl
@[simp] theorem State.mod_pend (s : State) (f : Slot → Slot) : (s.mod f).pend = s.pend := rfl
@[simp] theorem State.mod_names (s : State) (f : Slot → Slot) : (s.mod f).names = s.names := rfl
@[simp] theorem State.mod_deliveries (s : State) (f : Slot → Slot) : (s.mod f).deliveries = s.deliveries := rfl
@[simp] theorem State.mod_nextDid (s : State) (f : Slot → Slot) : (s.mod f).nextDid = s.nextDid := rfl
@[simp] theorem State.mod_tileSeq (s : State) (f : Slot → Slot) : (s.mod f).tileSeq = s.tileSeq := rfl
@[simp] theorem State.mod_tileHeld (s : State) (f : Slot → Slot) : (s.mod f).tileHeld = s.tileHeld := rfl
@[simp] theorem State.mod_net (s : State) (f : Slot → Slot) : (s.mod f).net = s.net := rfl
@[simp] theorem State.mod_pins (s : State) (f : Slot → Slot) : (s.mod f).pins = s.pins := rfl
@[simp] theorem State.mod_flowSeq (s : State) (f : Slot → Slot) : (s.mod f).flowSeq = s.flowSeq := rfl
@[simp] theorem State.mod_ucieNb (s : State) (f : Slot → Slot) : (s.mod f).ucieNb = s.ucieNb := rfl
@[simp] theorem State.mod_ucieIo (s : State) (f : Slot → Slot) : (s.mod f).ucieIo = s.ucieIo := rfl
@[simp] theorem State.mod_ports (s : State) (f : Slot → Slot) : (s.mod f).ports = s.ports := rfl
@[simp] theorem State.mod_switches (s : State) (f : Slot → Slot) : (s.mod f).switches = s.switches := rfl
@[simp] theorem State.mod_views (s : State) (f : Slot → Slot) : (s.mod f).views = s.views := rfl
@[simp] theorem State.mod_splitReqs (s : State) (f : Slot → Slot) : (s.mod f).splitReqs = s.splitReqs := rfl
@[simp] theorem State.mod_qpairs (s : State) (f : Slot → Slot) : (s.mod f).qpairs = s.qpairs := rfl
@[simp] theorem State.mod_events (s : State) (f : Slot → Slot) : (s.mod f).events = s.events := rfl
@[simp] theorem State.mod_eventRoom (s : State) (f : Slot → Slot) : (s.mod f).eventRoom = s.eventRoom := rfl
@[simp] theorem State.mod_dieBuf (s : State) (f : Slot → Slot) : (s.mod f).dieBuf = s.dieBuf := rfl
@[simp] theorem State.mod_dieHeld (s : State) (f : Slot → Slot) : (s.mod f).dieHeld = s.dieHeld := rfl
@[simp] theorem State.mod_dies (s : State) (f : Slot → Slot) : (s.mod f).dies = s.dies := rfl
@[simp] theorem State.mod_hostMem (s : State) (f : Slot → Slot) : (s.mod f).hostMem = s.hostMem := rfl
@[simp] theorem State.mod_jormal (s : State) (f : Slot → Slot) : (s.mod f).jormal = s.jormal := rfl
@[simp] theorem State.mod_firmware (s : State) (f : Slot → Slot) : (s.mod f).firmware = s.firmware := rfl
@[simp] theorem State.mod_settings (s : State) (f : Slot → Slot) : (s.mod f).settings = s.settings := rfl
@[simp] theorem State.mod_modes (s : State) (f : Slot → Slot) : (s.mod f).modes = s.modes := rfl
@[simp] theorem State.mod_clock (s : State) (f : Slot → Slot) : (s.mod f).clock = s.clock := rfl
@[simp] theorem State.mod_celsius (s : State) (f : Slot → Slot) : (s.mod f).celsius = s.celsius := rfl
@[simp] theorem State.mod_hot (s : State) (f : Slot → Slot) : (s.mod f).hot = s.hot := rfl
@[simp] theorem State.mod_powered (s : State) (f : Slot → Slot) : (s.mod f).powered = s.powered := rfl
@[simp] theorem State.mod_corrected (s : State) (f : Slot → Slot) : (s.mod f).corrected = s.corrected := rfl
@[simp] theorem State.mod_discards (s : State) (f : Slot → Slot) : (s.mod f).discards = s.discards := rfl
@[simp] theorem State.mod_agenda (s : State) (f : Slot → Slot) : (s.mod f).agenda = s.agenda := rfl
@[simp] theorem State.mod_todo (s : State) (f : Slot → Slot) : (s.mod f).todo = s.todo := rfl
@[simp] theorem State.mod_cur (s : State) (f : Slot → Slot) : (s.mod f).cur = s.cur := rfl
@[simp] theorem State.mod_turn (s : State) (f : Slot → Slot) : (s.mod f).turn = s.turn := rfl
@[simp] theorem State.mod_fresh (s : State) (f : Slot → Slot) : (s.mod f).fresh = s.fresh := rfl

@[simp] theorem State.modMyCore_modId (s : State) (f : Core → Core) : (s.modMyCore f).modId = s.modId := rfl
@[simp] theorem State.modMyCore_domainMax (s : State) (f : Core → Core) : (s.modMyCore f).domainMax = s.domainMax := rfl
@[simp] theorem State.modMyCore_engines (s : State) (f : Core → Core) : (s.modMyCore f).engines = s.engines := rfl
@[simp] theorem State.modMyCore_launches (s : State) (f : Core → Core) : (s.modMyCore f).launches = s.launches := rfl
@[simp] theorem State.modMyCore_nextLaunch (s : State) (f : Core → Core) : (s.modMyCore f).nextLaunch = s.nextLaunch := rfl
@[simp] theorem State.modMyCore_cycle (s : State) (f : Core → Core) : (s.modMyCore f).cycle = s.cycle := rfl
@[simp] theorem State.modMyCore_mem (s : State) (f : Core → Core) : (s.modMyCore f).mem = s.mem := rfl
@[simp] theorem State.modMyCore_stale (s : State) (f : Core → Core) : (s.modMyCore f).stale = s.stale := rfl
@[simp] theorem State.modMyCore_poison (s : State) (f : Core → Core) : (s.modMyCore f).poison = s.poison := rfl
@[simp] theorem State.modMyCore_resTabs (s : State) (f : Core → Core) : (s.modMyCore f).resTabs = s.resTabs := rfl
@[simp] theorem State.modMyCore_pools (s : State) (f : Core → Core) : (s.modMyCore f).pools = s.pools := rfl
@[simp] theorem State.modMyCore_pend (s : State) (f : Core → Core) : (s.modMyCore f).pend = s.pend := rfl
@[simp] theorem State.modMyCore_names (s : State) (f : Core → Core) : (s.modMyCore f).names = s.names := rfl
@[simp] theorem State.modMyCore_deliveries (s : State) (f : Core → Core) : (s.modMyCore f).deliveries = s.deliveries := rfl
@[simp] theorem State.modMyCore_nextDid (s : State) (f : Core → Core) : (s.modMyCore f).nextDid = s.nextDid := rfl
@[simp] theorem State.modMyCore_tileSeq (s : State) (f : Core → Core) : (s.modMyCore f).tileSeq = s.tileSeq := rfl
@[simp] theorem State.modMyCore_tileHeld (s : State) (f : Core → Core) : (s.modMyCore f).tileHeld = s.tileHeld := rfl
@[simp] theorem State.modMyCore_net (s : State) (f : Core → Core) : (s.modMyCore f).net = s.net := rfl
@[simp] theorem State.modMyCore_pins (s : State) (f : Core → Core) : (s.modMyCore f).pins = s.pins := rfl
@[simp] theorem State.modMyCore_flowSeq (s : State) (f : Core → Core) : (s.modMyCore f).flowSeq = s.flowSeq := rfl
@[simp] theorem State.modMyCore_ucieNb (s : State) (f : Core → Core) : (s.modMyCore f).ucieNb = s.ucieNb := rfl
@[simp] theorem State.modMyCore_ucieIo (s : State) (f : Core → Core) : (s.modMyCore f).ucieIo = s.ucieIo := rfl
@[simp] theorem State.modMyCore_ports (s : State) (f : Core → Core) : (s.modMyCore f).ports = s.ports := rfl
@[simp] theorem State.modMyCore_switches (s : State) (f : Core → Core) : (s.modMyCore f).switches = s.switches := rfl
@[simp] theorem State.modMyCore_views (s : State) (f : Core → Core) : (s.modMyCore f).views = s.views := rfl
@[simp] theorem State.modMyCore_splitReqs (s : State) (f : Core → Core) : (s.modMyCore f).splitReqs = s.splitReqs := rfl
@[simp] theorem State.modMyCore_qpairs (s : State) (f : Core → Core) : (s.modMyCore f).qpairs = s.qpairs := rfl
@[simp] theorem State.modMyCore_events (s : State) (f : Core → Core) : (s.modMyCore f).events = s.events := rfl
@[simp] theorem State.modMyCore_eventRoom (s : State) (f : Core → Core) : (s.modMyCore f).eventRoom = s.eventRoom := rfl
@[simp] theorem State.modMyCore_dieBuf (s : State) (f : Core → Core) : (s.modMyCore f).dieBuf = s.dieBuf := rfl
@[simp] theorem State.modMyCore_dieHeld (s : State) (f : Core → Core) : (s.modMyCore f).dieHeld = s.dieHeld := rfl
@[simp] theorem State.modMyCore_dies (s : State) (f : Core → Core) : (s.modMyCore f).dies = s.dies := rfl
@[simp] theorem State.modMyCore_hostMem (s : State) (f : Core → Core) : (s.modMyCore f).hostMem = s.hostMem := rfl
@[simp] theorem State.modMyCore_jormal (s : State) (f : Core → Core) : (s.modMyCore f).jormal = s.jormal := rfl
@[simp] theorem State.modMyCore_firmware (s : State) (f : Core → Core) : (s.modMyCore f).firmware = s.firmware := rfl
@[simp] theorem State.modMyCore_settings (s : State) (f : Core → Core) : (s.modMyCore f).settings = s.settings := rfl
@[simp] theorem State.modMyCore_modes (s : State) (f : Core → Core) : (s.modMyCore f).modes = s.modes := rfl
@[simp] theorem State.modMyCore_clock (s : State) (f : Core → Core) : (s.modMyCore f).clock = s.clock := rfl
@[simp] theorem State.modMyCore_celsius (s : State) (f : Core → Core) : (s.modMyCore f).celsius = s.celsius := rfl
@[simp] theorem State.modMyCore_hot (s : State) (f : Core → Core) : (s.modMyCore f).hot = s.hot := rfl
@[simp] theorem State.modMyCore_powered (s : State) (f : Core → Core) : (s.modMyCore f).powered = s.powered := rfl
@[simp] theorem State.modMyCore_corrected (s : State) (f : Core → Core) : (s.modMyCore f).corrected = s.corrected := rfl
@[simp] theorem State.modMyCore_discards (s : State) (f : Core → Core) : (s.modMyCore f).discards = s.discards := rfl
@[simp] theorem State.modMyCore_agenda (s : State) (f : Core → Core) : (s.modMyCore f).agenda = s.agenda := rfl
@[simp] theorem State.modMyCore_todo (s : State) (f : Core → Core) : (s.modMyCore f).todo = s.todo := rfl
@[simp] theorem State.modMyCore_cur (s : State) (f : Core → Core) : (s.modMyCore f).cur = s.cur := rfl
@[simp] theorem State.modMyCore_turn (s : State) (f : Core → Core) : (s.modMyCore f).turn = s.turn := rfl
@[simp] theorem State.modMyCore_fresh (s : State) (f : Core → Core) : (s.modMyCore f).fresh = s.fresh := rfl

@[simp] theorem State.soon_modId (s : State) (t : Todo) : (s.soon t).modId = s.modId := rfl
@[simp] theorem State.soon_domainMax (s : State) (t : Todo) : (s.soon t).domainMax = s.domainMax := rfl
@[simp] theorem State.soon_cores (s : State) (t : Todo) : (s.soon t).cores = s.cores := rfl
@[simp] theorem State.soon_engines (s : State) (t : Todo) : (s.soon t).engines = s.engines := rfl
@[simp] theorem State.soon_launches (s : State) (t : Todo) : (s.soon t).launches = s.launches := rfl
@[simp] theorem State.soon_nextLaunch (s : State) (t : Todo) : (s.soon t).nextLaunch = s.nextLaunch := rfl
@[simp] theorem State.soon_cycle (s : State) (t : Todo) : (s.soon t).cycle = s.cycle := rfl
@[simp] theorem State.soon_mem (s : State) (t : Todo) : (s.soon t).mem = s.mem := rfl
@[simp] theorem State.soon_stale (s : State) (t : Todo) : (s.soon t).stale = s.stale := rfl
@[simp] theorem State.soon_poison (s : State) (t : Todo) : (s.soon t).poison = s.poison := rfl
@[simp] theorem State.soon_resTabs (s : State) (t : Todo) : (s.soon t).resTabs = s.resTabs := rfl
@[simp] theorem State.soon_pools (s : State) (t : Todo) : (s.soon t).pools = s.pools := rfl
@[simp] theorem State.soon_pend (s : State) (t : Todo) : (s.soon t).pend = s.pend := rfl
@[simp] theorem State.soon_names (s : State) (t : Todo) : (s.soon t).names = s.names := rfl
@[simp] theorem State.soon_deliveries (s : State) (t : Todo) : (s.soon t).deliveries = s.deliveries := rfl
@[simp] theorem State.soon_nextDid (s : State) (t : Todo) : (s.soon t).nextDid = s.nextDid := rfl
@[simp] theorem State.soon_tileSeq (s : State) (t : Todo) : (s.soon t).tileSeq = s.tileSeq := rfl
@[simp] theorem State.soon_tileHeld (s : State) (t : Todo) : (s.soon t).tileHeld = s.tileHeld := rfl
@[simp] theorem State.soon_net (s : State) (t : Todo) : (s.soon t).net = s.net := rfl
@[simp] theorem State.soon_pins (s : State) (t : Todo) : (s.soon t).pins = s.pins := rfl
@[simp] theorem State.soon_flowSeq (s : State) (t : Todo) : (s.soon t).flowSeq = s.flowSeq := rfl
@[simp] theorem State.soon_ucieNb (s : State) (t : Todo) : (s.soon t).ucieNb = s.ucieNb := rfl
@[simp] theorem State.soon_ucieIo (s : State) (t : Todo) : (s.soon t).ucieIo = s.ucieIo := rfl
@[simp] theorem State.soon_ports (s : State) (t : Todo) : (s.soon t).ports = s.ports := rfl
@[simp] theorem State.soon_switches (s : State) (t : Todo) : (s.soon t).switches = s.switches := rfl
@[simp] theorem State.soon_views (s : State) (t : Todo) : (s.soon t).views = s.views := rfl
@[simp] theorem State.soon_splitReqs (s : State) (t : Todo) : (s.soon t).splitReqs = s.splitReqs := rfl
@[simp] theorem State.soon_qpairs (s : State) (t : Todo) : (s.soon t).qpairs = s.qpairs := rfl
@[simp] theorem State.soon_events (s : State) (t : Todo) : (s.soon t).events = s.events := rfl
@[simp] theorem State.soon_eventRoom (s : State) (t : Todo) : (s.soon t).eventRoom = s.eventRoom := rfl
@[simp] theorem State.soon_dieBuf (s : State) (t : Todo) : (s.soon t).dieBuf = s.dieBuf := rfl
@[simp] theorem State.soon_dieHeld (s : State) (t : Todo) : (s.soon t).dieHeld = s.dieHeld := rfl
@[simp] theorem State.soon_dies (s : State) (t : Todo) : (s.soon t).dies = s.dies := rfl
@[simp] theorem State.soon_hostMem (s : State) (t : Todo) : (s.soon t).hostMem = s.hostMem := rfl
@[simp] theorem State.soon_jormal (s : State) (t : Todo) : (s.soon t).jormal = s.jormal := rfl
@[simp] theorem State.soon_firmware (s : State) (t : Todo) : (s.soon t).firmware = s.firmware := rfl
@[simp] theorem State.soon_settings (s : State) (t : Todo) : (s.soon t).settings = s.settings := rfl
@[simp] theorem State.soon_modes (s : State) (t : Todo) : (s.soon t).modes = s.modes := rfl
@[simp] theorem State.soon_clock (s : State) (t : Todo) : (s.soon t).clock = s.clock := rfl
@[simp] theorem State.soon_celsius (s : State) (t : Todo) : (s.soon t).celsius = s.celsius := rfl
@[simp] theorem State.soon_hot (s : State) (t : Todo) : (s.soon t).hot = s.hot := rfl
@[simp] theorem State.soon_powered (s : State) (t : Todo) : (s.soon t).powered = s.powered := rfl
@[simp] theorem State.soon_corrected (s : State) (t : Todo) : (s.soon t).corrected = s.corrected := rfl
@[simp] theorem State.soon_discards (s : State) (t : Todo) : (s.soon t).discards = s.discards := rfl
@[simp] theorem State.soon_agenda (s : State) (t : Todo) : (s.soon t).agenda = s.agenda := rfl
@[simp] theorem State.soon_cur (s : State) (t : Todo) : (s.soon t).cur = s.cur := rfl
@[simp] theorem State.soon_turn (s : State) (t : Todo) : (s.soon t).turn = s.turn := rfl
@[simp] theorem State.soon_fresh (s : State) (t : Todo) : (s.soon t).fresh = s.fresh := rfl

@[simp] theorem State.launchPacket_modId (s : State) (p : Packet) (h : Option Hold) (r : List Hop) : (s.launchPacket p h r).modId = s.modId := rfl
@[simp] theorem State.launchPacket_domainMax (s : State) (p : Packet) (h : Option Hold) (r : List Hop) : (s.launchPacket p h r).domainMax = s.domainMax := rfl
@[simp] theorem State.launchPacket_cores (s : State) (p : Packet) (h : Option Hold) (r : List Hop) : (s.launchPacket p h r).cores = s.cores := rfl
@[simp] theorem State.launchPacket_engines (s : State) (p : Packet) (h : Option Hold) (r : List Hop) : (s.launchPacket p h r).engines = s.engines := rfl
@[simp] theorem State.launchPacket_launches (s : State) (p : Packet) (h : Option Hold) (r : List Hop) : (s.launchPacket p h r).launches = s.launches := rfl
@[simp] theorem State.launchPacket_nextLaunch (s : State) (p : Packet) (h : Option Hold) (r : List Hop) : (s.launchPacket p h r).nextLaunch = s.nextLaunch := rfl
@[simp] theorem State.launchPacket_cycle (s : State) (p : Packet) (h : Option Hold) (r : List Hop) : (s.launchPacket p h r).cycle = s.cycle := rfl
@[simp] theorem State.launchPacket_mem (s : State) (p : Packet) (h : Option Hold) (r : List Hop) : (s.launchPacket p h r).mem = s.mem := rfl
@[simp] theorem State.launchPacket_stale (s : State) (p : Packet) (h : Option Hold) (r : List Hop) : (s.launchPacket p h r).stale = s.stale := rfl
@[simp] theorem State.launchPacket_poison (s : State) (p : Packet) (h : Option Hold) (r : List Hop) : (s.launchPacket p h r).poison = s.poison := rfl
@[simp] theorem State.launchPacket_resTabs (s : State) (p : Packet) (h : Option Hold) (r : List Hop) : (s.launchPacket p h r).resTabs = s.resTabs := rfl
@[simp] theorem State.launchPacket_pools (s : State) (p : Packet) (h : Option Hold) (r : List Hop) : (s.launchPacket p h r).pools = s.pools := rfl
@[simp] theorem State.launchPacket_pend (s : State) (p : Packet) (h : Option Hold) (r : List Hop) : (s.launchPacket p h r).pend = s.pend := rfl
@[simp] theorem State.launchPacket_names (s : State) (p : Packet) (h : Option Hold) (r : List Hop) : (s.launchPacket p h r).names = s.names := rfl
@[simp] theorem State.launchPacket_deliveries (s : State) (p : Packet) (h : Option Hold) (r : List Hop) : (s.launchPacket p h r).deliveries = s.deliveries := rfl
@[simp] theorem State.launchPacket_nextDid (s : State) (p : Packet) (h : Option Hold) (r : List Hop) : (s.launchPacket p h r).nextDid = s.nextDid := rfl
@[simp] theorem State.launchPacket_tileHeld (s : State) (p : Packet) (h : Option Hold) (r : List Hop) : (s.launchPacket p h r).tileHeld = s.tileHeld := rfl
@[simp] theorem State.launchPacket_tileSeq (s : State) (p : Packet) (h : Option Hold) (r : List Hop) : (s.launchPacket p h r).tileSeq = s.tileSeq := rfl
@[simp] theorem State.launchPacket_ucieNb (s : State) (p : Packet) (h : Option Hold) (r : List Hop) : (s.launchPacket p h r).ucieNb = s.ucieNb := rfl
@[simp] theorem State.launchPacket_ucieIo (s : State) (p : Packet) (h : Option Hold) (r : List Hop) : (s.launchPacket p h r).ucieIo = s.ucieIo := rfl
@[simp] theorem State.launchPacket_ports (s : State) (p : Packet) (h : Option Hold) (r : List Hop) : (s.launchPacket p h r).ports = s.ports := rfl
@[simp] theorem State.launchPacket_switches (s : State) (p : Packet) (h : Option Hold) (r : List Hop) : (s.launchPacket p h r).switches = s.switches := rfl
@[simp] theorem State.launchPacket_views (s : State) (p : Packet) (h : Option Hold) (r : List Hop) : (s.launchPacket p h r).views = s.views := rfl
@[simp] theorem State.launchPacket_splitReqs (s : State) (p : Packet) (h : Option Hold) (r : List Hop) : (s.launchPacket p h r).splitReqs = s.splitReqs := rfl
@[simp] theorem State.launchPacket_qpairs (s : State) (p : Packet) (h : Option Hold) (r : List Hop) : (s.launchPacket p h r).qpairs = s.qpairs := rfl
@[simp] theorem State.launchPacket_events (s : State) (p : Packet) (h : Option Hold) (r : List Hop) : (s.launchPacket p h r).events = s.events := rfl
@[simp] theorem State.launchPacket_eventRoom (s : State) (p : Packet) (h : Option Hold) (r : List Hop) : (s.launchPacket p h r).eventRoom = s.eventRoom := rfl
@[simp] theorem State.launchPacket_dieBuf (s : State) (p : Packet) (h : Option Hold) (r : List Hop) : (s.launchPacket p h r).dieBuf = s.dieBuf := rfl
@[simp] theorem State.launchPacket_dieHeld (s : State) (p : Packet) (h : Option Hold) (r : List Hop) : (s.launchPacket p h r).dieHeld = s.dieHeld := rfl
@[simp] theorem State.launchPacket_dies (s : State) (p : Packet) (h : Option Hold) (r : List Hop) : (s.launchPacket p h r).dies = s.dies := rfl
@[simp] theorem State.launchPacket_hostMem (s : State) (p : Packet) (h : Option Hold) (r : List Hop) : (s.launchPacket p h r).hostMem = s.hostMem := rfl
@[simp] theorem State.launchPacket_jormal (s : State) (p : Packet) (h : Option Hold) (r : List Hop) : (s.launchPacket p h r).jormal = s.jormal := rfl
@[simp] theorem State.launchPacket_firmware (s : State) (p : Packet) (h : Option Hold) (r : List Hop) : (s.launchPacket p h r).firmware = s.firmware := rfl
@[simp] theorem State.launchPacket_settings (s : State) (p : Packet) (h : Option Hold) (r : List Hop) : (s.launchPacket p h r).settings = s.settings := rfl
@[simp] theorem State.launchPacket_modes (s : State) (p : Packet) (h : Option Hold) (r : List Hop) : (s.launchPacket p h r).modes = s.modes := rfl
@[simp] theorem State.launchPacket_clock (s : State) (p : Packet) (h : Option Hold) (r : List Hop) : (s.launchPacket p h r).clock = s.clock := rfl
@[simp] theorem State.launchPacket_celsius (s : State) (p : Packet) (h : Option Hold) (r : List Hop) : (s.launchPacket p h r).celsius = s.celsius := rfl
@[simp] theorem State.launchPacket_hot (s : State) (p : Packet) (h : Option Hold) (r : List Hop) : (s.launchPacket p h r).hot = s.hot := rfl
@[simp] theorem State.launchPacket_powered (s : State) (p : Packet) (h : Option Hold) (r : List Hop) : (s.launchPacket p h r).powered = s.powered := rfl
@[simp] theorem State.launchPacket_corrected (s : State) (p : Packet) (h : Option Hold) (r : List Hop) : (s.launchPacket p h r).corrected = s.corrected := rfl
@[simp] theorem State.launchPacket_discards (s : State) (p : Packet) (h : Option Hold) (r : List Hop) : (s.launchPacket p h r).discards = s.discards := rfl
@[simp] theorem State.launchPacket_agenda (s : State) (p : Packet) (h : Option Hold) (r : List Hop) : (s.launchPacket p h r).agenda = s.agenda := rfl
@[simp] theorem State.launchPacket_todo (s : State) (p : Packet) (h : Option Hold) (r : List Hop) : (s.launchPacket p h r).todo = s.todo := rfl
@[simp] theorem State.launchPacket_cur (s : State) (p : Packet) (h : Option Hold) (r : List Hop) : (s.launchPacket p h r).cur = s.cur := rfl
@[simp] theorem State.launchPacket_turn (s : State) (p : Packet) (h : Option Hold) (r : List Hop) : (s.launchPacket p h r).turn = s.turn := rfl
@[simp] theorem State.launchPacket_fresh (s : State) (p : Packet) (h : Option Hold) (r : List Hop) : (s.launchPacket p h r).fresh = s.fresh := rfl

@[simp] theorem State.modEngine_modId (s : State) (c : ClusterId) (f : Engine → Engine) : (s.modEngine c f).modId = s.modId := rfl
@[simp] theorem State.modEngine_domainMax (s : State) (c : ClusterId) (f : Engine → Engine) : (s.modEngine c f).domainMax = s.domainMax := rfl
@[simp] theorem State.modEngine_cores (s : State) (c : ClusterId) (f : Engine → Engine) : (s.modEngine c f).cores = s.cores := rfl
@[simp] theorem State.modEngine_launches (s : State) (c : ClusterId) (f : Engine → Engine) : (s.modEngine c f).launches = s.launches := rfl
@[simp] theorem State.modEngine_nextLaunch (s : State) (c : ClusterId) (f : Engine → Engine) : (s.modEngine c f).nextLaunch = s.nextLaunch := rfl
@[simp] theorem State.modEngine_cycle (s : State) (c : ClusterId) (f : Engine → Engine) : (s.modEngine c f).cycle = s.cycle := rfl
@[simp] theorem State.modEngine_mem (s : State) (c : ClusterId) (f : Engine → Engine) : (s.modEngine c f).mem = s.mem := rfl
@[simp] theorem State.modEngine_stale (s : State) (c : ClusterId) (f : Engine → Engine) : (s.modEngine c f).stale = s.stale := rfl
@[simp] theorem State.modEngine_poison (s : State) (c : ClusterId) (f : Engine → Engine) : (s.modEngine c f).poison = s.poison := rfl
@[simp] theorem State.modEngine_resTabs (s : State) (c : ClusterId) (f : Engine → Engine) : (s.modEngine c f).resTabs = s.resTabs := rfl
@[simp] theorem State.modEngine_pools (s : State) (c : ClusterId) (f : Engine → Engine) : (s.modEngine c f).pools = s.pools := rfl
@[simp] theorem State.modEngine_pend (s : State) (c : ClusterId) (f : Engine → Engine) : (s.modEngine c f).pend = s.pend := rfl
@[simp] theorem State.modEngine_names (s : State) (c : ClusterId) (f : Engine → Engine) : (s.modEngine c f).names = s.names := rfl
@[simp] theorem State.modEngine_deliveries (s : State) (c : ClusterId) (f : Engine → Engine) : (s.modEngine c f).deliveries = s.deliveries := rfl
@[simp] theorem State.modEngine_nextDid (s : State) (c : ClusterId) (f : Engine → Engine) : (s.modEngine c f).nextDid = s.nextDid := rfl
@[simp] theorem State.modEngine_tileSeq (s : State) (c : ClusterId) (f : Engine → Engine) : (s.modEngine c f).tileSeq = s.tileSeq := rfl
@[simp] theorem State.modEngine_tileHeld (s : State) (c : ClusterId) (f : Engine → Engine) : (s.modEngine c f).tileHeld = s.tileHeld := rfl
@[simp] theorem State.modEngine_net (s : State) (c : ClusterId) (f : Engine → Engine) : (s.modEngine c f).net = s.net := rfl
@[simp] theorem State.modEngine_pins (s : State) (c : ClusterId) (f : Engine → Engine) : (s.modEngine c f).pins = s.pins := rfl
@[simp] theorem State.modEngine_flowSeq (s : State) (c : ClusterId) (f : Engine → Engine) : (s.modEngine c f).flowSeq = s.flowSeq := rfl
@[simp] theorem State.modEngine_ucieNb (s : State) (c : ClusterId) (f : Engine → Engine) : (s.modEngine c f).ucieNb = s.ucieNb := rfl
@[simp] theorem State.modEngine_ucieIo (s : State) (c : ClusterId) (f : Engine → Engine) : (s.modEngine c f).ucieIo = s.ucieIo := rfl
@[simp] theorem State.modEngine_ports (s : State) (c : ClusterId) (f : Engine → Engine) : (s.modEngine c f).ports = s.ports := rfl
@[simp] theorem State.modEngine_switches (s : State) (c : ClusterId) (f : Engine → Engine) : (s.modEngine c f).switches = s.switches := rfl
@[simp] theorem State.modEngine_views (s : State) (c : ClusterId) (f : Engine → Engine) : (s.modEngine c f).views = s.views := rfl
@[simp] theorem State.modEngine_splitReqs (s : State) (c : ClusterId) (f : Engine → Engine) : (s.modEngine c f).splitReqs = s.splitReqs := rfl
@[simp] theorem State.modEngine_qpairs (s : State) (c : ClusterId) (f : Engine → Engine) : (s.modEngine c f).qpairs = s.qpairs := rfl
@[simp] theorem State.modEngine_events (s : State) (c : ClusterId) (f : Engine → Engine) : (s.modEngine c f).events = s.events := rfl
@[simp] theorem State.modEngine_eventRoom (s : State) (c : ClusterId) (f : Engine → Engine) : (s.modEngine c f).eventRoom = s.eventRoom := rfl
@[simp] theorem State.modEngine_dieBuf (s : State) (c : ClusterId) (f : Engine → Engine) : (s.modEngine c f).dieBuf = s.dieBuf := rfl
@[simp] theorem State.modEngine_dieHeld (s : State) (c : ClusterId) (f : Engine → Engine) : (s.modEngine c f).dieHeld = s.dieHeld := rfl
@[simp] theorem State.modEngine_dies (s : State) (c : ClusterId) (f : Engine → Engine) : (s.modEngine c f).dies = s.dies := rfl
@[simp] theorem State.modEngine_hostMem (s : State) (c : ClusterId) (f : Engine → Engine) : (s.modEngine c f).hostMem = s.hostMem := rfl
@[simp] theorem State.modEngine_jormal (s : State) (c : ClusterId) (f : Engine → Engine) : (s.modEngine c f).jormal = s.jormal := rfl
@[simp] theorem State.modEngine_firmware (s : State) (c : ClusterId) (f : Engine → Engine) : (s.modEngine c f).firmware = s.firmware := rfl
@[simp] theorem State.modEngine_settings (s : State) (c : ClusterId) (f : Engine → Engine) : (s.modEngine c f).settings = s.settings := rfl
@[simp] theorem State.modEngine_modes (s : State) (c : ClusterId) (f : Engine → Engine) : (s.modEngine c f).modes = s.modes := rfl
@[simp] theorem State.modEngine_clock (s : State) (c : ClusterId) (f : Engine → Engine) : (s.modEngine c f).clock = s.clock := rfl
@[simp] theorem State.modEngine_celsius (s : State) (c : ClusterId) (f : Engine → Engine) : (s.modEngine c f).celsius = s.celsius := rfl
@[simp] theorem State.modEngine_hot (s : State) (c : ClusterId) (f : Engine → Engine) : (s.modEngine c f).hot = s.hot := rfl
@[simp] theorem State.modEngine_powered (s : State) (c : ClusterId) (f : Engine → Engine) : (s.modEngine c f).powered = s.powered := rfl
@[simp] theorem State.modEngine_corrected (s : State) (c : ClusterId) (f : Engine → Engine) : (s.modEngine c f).corrected = s.corrected := rfl
@[simp] theorem State.modEngine_discards (s : State) (c : ClusterId) (f : Engine → Engine) : (s.modEngine c f).discards = s.discards := rfl
@[simp] theorem State.modEngine_agenda (s : State) (c : ClusterId) (f : Engine → Engine) : (s.modEngine c f).agenda = s.agenda := rfl
@[simp] theorem State.modEngine_todo (s : State) (c : ClusterId) (f : Engine → Engine) : (s.modEngine c f).todo = s.todo := rfl
@[simp] theorem State.modEngine_cur (s : State) (c : ClusterId) (f : Engine → Engine) : (s.modEngine c f).cur = s.cur := rfl
@[simp] theorem State.modEngine_turn (s : State) (c : ClusterId) (f : Engine → Engine) : (s.modEngine c f).turn = s.turn := rfl
@[simp] theorem State.modEngine_fresh (s : State) (c : ClusterId) (f : Engine → Engine) : (s.modEngine c f).fresh = s.fresh := rfl

@[simp] theorem State.core_modCore_self (s : State) (c : CoreId) (f : Core → Core) : (s.modCore c f).core c = f (s.core c) :=
  assocD_set_self _ _ _ _

theorem State.core_modCore_ne (s : State) (c d : CoreId) (f : Core → Core) (n : d ≠ c) : (s.modCore c f).core d = s.core d :=
  assocD_set_ne _ _ _ _ _ n

@[simp] theorem State.core_modSlot_self (s : State) (w : Who) (f : Slot → Slot) :
    (s.modSlot w f).core w.core = { s.core w.core with slots := (s.core w.core).slots.set w.slot (f (s.slot w)) } :=
  s.core_modCore_self _ _

theorem State.core_modSlot_ne (s : State) (w : Who) (f : Slot → Slot) (d : CoreId) (n : d ≠ w.core) :
    (s.modSlot w f).core d = s.core d := s.core_modCore_ne _ _ _ n

@[simp] theorem State.slot_modSlot_self (s : State) (w : Who) (f : Slot → Slot) : (s.modSlot w f).slot w = f (s.slot w) := by
  unfold State.slot
  rw [State.core_modSlot_self]
  simp [State.slot]

theorem State.slot_modSlot_ne (s : State) (w v : Who) (f : Slot → Slot) (n : v ≠ w) : (s.modSlot w f).slot v = s.slot v := by
  unfold State.slot
  by_cases e : v.core = w.core
  · have m : w.slot ≠ v.slot := fun q => n (by cases v; cases w; simp_all)
    rw [e, State.core_modSlot_self]
    simp [m, Fin.val_inj]
  · rw [s.core_modSlot_ne w f v.core e]

@[simp] theorem State.me_mod (s : State) (f : Slot → Slot) : (s.mod f).me = f s.me := s.slot_modSlot_self s.cur f

@[simp] theorem State.slot_mod_cur (s : State) (f : Slot → Slot) : (s.mod f).slot s.cur = f s.me := s.slot_modSlot_self s.cur f

theorem State.slot_mod_ne (s : State) (f : Slot → Slot) (v : Who) (n : v ≠ s.cur) : (s.mod f).slot v = s.slot v :=
  s.slot_modSlot_ne s.cur v f n

@[simp] theorem State.myCore_modMyCore (s : State) (f : Core → Core) : (s.modMyCore f).myCore = f s.myCore :=
  s.core_modCore_self _ _

@[simp] theorem State.park_cur (s : State) (r : Reason) (x : Wait) : (s.park r x).cur = s.cur := rfl

@[simp] theorem State.slot_park (s : State) (r : Reason) (x : Wait) : (s.park r x).slot s.cur = s.me.park r x s.rot :=
  s.slot_modSlot_self s.cur _

/-! ## A slot -/

@[simp] theorem Slot.ws_f (sl : Slot) (r : SReg) (x : Word) : (sl.ws r x).f = sl.f := by
  unfold Slot.ws; split <;> rfl
@[simp] theorem Slot.ws_v (sl : Slot) (r : SReg) (x : Word) : (sl.ws r x).v = sl.v := by
  unfold Slot.ws; split <;> rfl
@[simp] theorem Slot.ws_k (sl : Slot) (r : SReg) (x : Word) : (sl.ws r x).k = sl.k := by
  unfold Slot.ws; split <;> rfl
@[simp] theorem Slot.ws_y (sl : Slot) (r : SReg) (x : Word) : (sl.ws r x).y = sl.y := by
  unfold Slot.ws; split <;> rfl
@[simp] theorem Slot.ws_pc (sl : Slot) (r : SReg) (x : Word) : (sl.ws r x).pc = sl.pc := by
  unfold Slot.ws; split <;> rfl
@[simp] theorem Slot.ws_state (sl : Slot) (r : SReg) (x : Word) : (sl.ws r x).state = sl.state := by
  unfold Slot.ws; split <;> rfl
@[simp] theorem Slot.ws_reason (sl : Slot) (r : SReg) (x : Word) : (sl.ws r x).reason = sl.reason := by
  unfold Slot.ws; split <;> rfl
@[simp] theorem Slot.ws_wait (sl : Slot) (r : SReg) (x : Word) : (sl.ws r x).wait = sl.wait := by
  unfold Slot.ws; split <;> rfl
@[simp] theorem Slot.ws_reply (sl : Slot) (r : SReg) (x : Word) : (sl.ws r x).reply = sl.reply := by
  unfold Slot.ws; split <;> rfl
@[simp] theorem Slot.ws_word (sl : Slot) (r : SReg) (x : Word) : (sl.ws r x).word = sl.word := by
  unfold Slot.ws; split <;> rfl
@[simp] theorem Slot.ws_walks (sl : Slot) (r : SReg) (x : Word) : (sl.ws r x).walks = sl.walks := by
  unfold Slot.ws; split <;> rfl
@[simp] theorem Slot.ws_parkedAt (sl : Slot) (r : SReg) (x : Word) : (sl.ws r x).parkedAt = sl.parkedAt := by
  unfold Slot.ws; split <;> rfl
@[simp] theorem Slot.ws_atHome (sl : Slot) (r : SReg) (x : Word) : (sl.ws r x).atHome = sl.atHome := by
  unfold Slot.ws; split <;> rfl
@[simp] theorem Slot.ws_deadline (sl : Slot) (r : SReg) (x : Word) : (sl.ws r x).deadline = sl.deadline := by
  unfold Slot.ws; split <;> rfl
@[simp] theorem Slot.ws_retryAt (sl : Slot) (r : SReg) (x : Word) : (sl.ws r x).retryAt = sl.retryAt := by
  unfold Slot.ws; split <;> rfl
@[simp] theorem Slot.ws_flags (sl : Slot) (r : SReg) (x : Word) : (sl.ws r x).flags = sl.flags := by
  unfold Slot.ws; split <;> rfl
@[simp] theorem Slot.ws_fen (sl : Slot) (r : SReg) (x : Word) : (sl.ws r x).fen = sl.fen := by
  unfold Slot.ws; split <;> rfl
@[simp] theorem Slot.ws_rmode (sl : Slot) (r : SReg) (x : Word) : (sl.ws r x).rmode = sl.rmode := by
  unfold Slot.ws; split <;> rfl
@[simp] theorem Slot.ws_tbm (sl : Slot) (r : SReg) (x : Word) : (sl.ws r x).tbm = sl.tbm := by
  unfold Slot.ws; split <;> rfl
@[simp] theorem Slot.ws_tmr (sl : Slot) (r : SReg) (x : Word) : (sl.ws r x).tmr = sl.tmr := by
  unfold Slot.ws; split <;> rfl
@[simp] theorem Slot.ws_tvec (sl : Slot) (r : SReg) (x : Word) : (sl.ws r x).tvec = sl.tvec := by
  unfold Slot.ws; split <;> rfl
@[simp] theorem Slot.ws_tcause (sl : Slot) (r : SReg) (x : Word) : (sl.ws r x).tcause = sl.tcause := by
  unfold Slot.ws; split <;> rfl
@[simp] theorem Slot.ws_tval (sl : Slot) (r : SReg) (x : Word) : (sl.ws r x).tval = sl.tval := by
  unfold Slot.ws; split <;> rfl
@[simp] theorem Slot.ws_epc (sl : Slot) (r : SReg) (x : Word) : (sl.ws r x).epc = sl.epc := by
  unfold Slot.ws; split <;> rfl
@[simp] theorem Slot.ws_tsave (sl : Slot) (r : SReg) (x : Word) : (sl.ws r x).tsave = sl.tsave := by
  unfold Slot.ws; split <;> rfl
@[simp] theorem Slot.ws_sup (sl : Slot) (r : SReg) (x : Word) : (sl.ws r x).sup = sl.sup := by
  unfold Slot.ws; split <;> rfl
@[simp] theorem Slot.ws_errq (sl : Slot) (r : SReg) (x : Word) : (sl.ws r x).errq = sl.errq := by
  unfold Slot.ws; split <;> rfl
@[simp] theorem Slot.ws_storeQ (sl : Slot) (r : SReg) (x : Word) : (sl.ws r x).storeQ = sl.storeQ := by
  unfold Slot.ws; split <;> rfl
@[simp] theorem Slot.ws_nextStore (sl : Slot) (r : SReg) (x : Word) : (sl.ws r x).nextStore = sl.nextStore := by
  unfold Slot.ws; split <;> rfl
@[simp] theorem Slot.ws_resv (sl : Slot) (r : SReg) (x : Word) : (sl.ws r x).resv = sl.resv := by
  unfold Slot.ws; split <;> rfl
@[simp] theorem Slot.ws_outst (sl : Slot) (r : SReg) (x : Word) : (sl.ws r x).outst = sl.outst := by
  unfold Slot.ws; split <;> rfl
@[simp] theorem Slot.ws_nextId (sl : Slot) (r : SReg) (x : Word) : (sl.ws r x).nextId = sl.nextId := by
  unfold Slot.ws; split <;> rfl
@[simp] theorem Slot.ws_incs (sl : Slot) (r : SReg) (x : Word) : (sl.ws r x).incs = sl.incs := by
  unfold Slot.ws; split <;> rfl
@[simp] theorem Slot.ws_tileId (sl : Slot) (r : SReg) (x : Word) : (sl.ws r x).tileId = sl.tileId := by
  unfold Slot.ws; split <;> rfl
@[simp] theorem Slot.ws_roamed (sl : Slot) (r : SReg) (x : Word) : (sl.ws r x).roamed = sl.roamed := by
  unfold Slot.ws; split <;> rfl
@[simp] theorem Slot.ws_streams (sl : Slot) (r : SReg) (x : Word) : (sl.ws r x).streams = sl.streams := by
  unfold Slot.ws; split <;> rfl
@[simp] theorem Slot.ws_draining (sl : Slot) (r : SReg) (x : Word) : (sl.ws r x).draining = sl.draining := by
  unfold Slot.ws; split <;> rfl
@[simp] theorem Slot.ws_repCont (sl : Slot) (r : SReg) (x : Word) : (sl.ws r x).repCont = sl.repCont := by
  unfold Slot.ws; split <;> rfl
@[simp] theorem Slot.ws_repPc (sl : Slot) (r : SReg) (x : Word) : (sl.ws r x).repPc = sl.repPc := by
  unfold Slot.ws; split <;> rfl
@[simp] theorem Slot.ws_cctx (sl : Slot) (r : SReg) (x : Word) : (sl.ws r x).cctx = sl.cctx := by
  unfold Slot.ws; split <;> rfl
@[simp] theorem Slot.ws_mctx (sl : Slot) (r : SReg) (x : Word) : (sl.ws r x).mctx = sl.mctx := by
  unfold Slot.ws; split <;> rfl
@[simp] theorem Slot.ws_xctx (sl : Slot) (r : SReg) (x : Word) : (sl.ws r x).xctx = sl.xctx := by
  unfold Slot.ws; split <;> rfl
@[simp] theorem Slot.ws_tctx (sl : Slot) (r : SReg) (x : Word) : (sl.ws r x).tctx = sl.tctx := by
  unfold Slot.ws; split <;> rfl
@[simp] theorem Slot.ws_pendCopy (sl : Slot) (r : SReg) (x : Word) : (sl.ws r x).pendCopy = sl.pendCopy := by
  unfold Slot.ws; split <;> rfl
@[simp] theorem Slot.ws_pendMember (sl : Slot) (r : SReg) (x : Word) : (sl.ws r x).pendMember = sl.pendMember := by
  unfold Slot.ws; split <;> rfl
@[simp] theorem Slot.ws_pendSpawn (sl : Slot) (r : SReg) (x : Word) : (sl.ws r x).pendSpawn = sl.pendSpawn := by
  unfold Slot.ws; split <;> rfl
@[simp] theorem Slot.ws_pendTimer (sl : Slot) (r : SReg) (x : Word) : (sl.ws r x).pendTimer = sl.pendTimer := by
  unfold Slot.ws; split <;> rfl
@[simp] theorem Slot.ws_haltReq (sl : Slot) (r : SReg) (x : Word) : (sl.ws r x).haltReq = sl.haltReq := by
  unfold Slot.ws; split <;> rfl
@[simp] theorem Slot.ws_haltNow (sl : Slot) (r : SReg) (x : Word) : (sl.ws r x).haltNow = sl.haltNow := by
  unfold Slot.ws; split <;> rfl
@[simp] theorem Slot.ws_cancel (sl : Slot) (r : SReg) (x : Word) : (sl.ws r x).cancel = sl.cancel := by
  unfold Slot.ws; split <;> rfl
@[simp] theorem Slot.ws_tmrAt (sl : Slot) (r : SReg) (x : Word) : (sl.ws r x).tmrAt = sl.tmrAt := by
  unfold Slot.ws; split <;> rfl
@[simp] theorem Slot.ws_reserved (sl : Slot) (r : SReg) (x : Word) : (sl.ws r x).reserved = sl.reserved := by
  unfold Slot.ws; split <;> rfl
@[simp] theorem Slot.ws_haltedAt (sl : Slot) (r : SReg) (x : Word) : (sl.ws r x).haltedAt = sl.haltedAt := by
  unfold Slot.ws; split <;> rfl
@[simp] theorem Slot.ws_block (sl : Slot) (r : SReg) (x : Word) : (sl.ws r x).block = sl.block := by
  unfold Slot.ws; split <;> rfl
@[simp] theorem Slot.ws_bubble (sl : Slot) (r : SReg) (x : Word) : (sl.ws r x).bubble = sl.bubble := by
  unfold Slot.ws; split <;> rfl
@[simp] theorem Slot.ws_fetchFault (sl : Slot) (r : SReg) (x : Word) : (sl.ws r x).fetchFault = sl.fetchFault := by
  unfold Slot.ws; split <;> rfl
@[simp] theorem Slot.ws_object (sl : Slot) (r : SReg) (x : Word) : (sl.ws r x).object = sl.object := by
  unfold Slot.ws; split <;> rfl
@[simp] theorem Slot.ws_carry (sl : Slot) (r : SReg) (x : Word) : (sl.ws r x).carry = sl.carry := by
  unfold Slot.ws; split <;> rfl
@[simp] theorem Slot.ws_hosting (sl : Slot) (r : SReg) (x : Word) : (sl.ws r x).hosting = sl.hosting := by
  unfold Slot.ws; split <;> rfl
@[simp] theorem Slot.ws_away (sl : Slot) (r : SReg) (x : Word) : (sl.ws r x).away = sl.away := by
  unfold Slot.ws; split <;> rfl
@[simp] theorem Slot.ws_awayAt (sl : Slot) (r : SReg) (x : Word) : (sl.ws r x).awayAt = sl.awayAt := by
  unfold Slot.ws; split <;> rfl
@[simp] theorem Slot.ws_spillTl (sl : Slot) (r : SReg) (x : Word) : (sl.ws r x).spillTl = sl.spillTl := by
  unfold Slot.ws; split <;> rfl
@[simp] theorem Slot.ws_spilledAs (sl : Slot) (r : SReg) (x : Word) : (sl.ws r x).spilledAs = sl.spilledAs := by
  unfold Slot.ws; split <;> rfl

@[simp] theorem Slot.wf_s (sl : Slot) (r : FReg) (x : Word) : (sl.wf r x).s = sl.s := rfl
@[simp] theorem Slot.wf_v (sl : Slot) (r : FReg) (x : Word) : (sl.wf r x).v = sl.v := rfl
@[simp] theorem Slot.wf_k (sl : Slot) (r : FReg) (x : Word) : (sl.wf r x).k = sl.k := rfl
@[simp] theorem Slot.wf_y (sl : Slot) (r : FReg) (x : Word) : (sl.wf r x).y = sl.y := rfl
@[simp] theorem Slot.wf_pc (sl : Slot) (r : FReg) (x : Word) : (sl.wf r x).pc = sl.pc := rfl
@[simp] theorem Slot.wf_state (sl : Slot) (r : FReg) (x : Word) : (sl.wf r x).state = sl.state := rfl
@[simp] theorem Slot.wf_reason (sl : Slot) (r : FReg) (x : Word) : (sl.wf r x).reason = sl.reason := rfl
@[simp] theorem Slot.wf_wait (sl : Slot) (r : FReg) (x : Word) : (sl.wf r x).wait = sl.wait := rfl
@[simp] theorem Slot.wf_reply (sl : Slot) (r : FReg) (x : Word) : (sl.wf r x).reply = sl.reply := rfl
@[simp] theorem Slot.wf_word (sl : Slot) (r : FReg) (x : Word) : (sl.wf r x).word = sl.word := rfl
@[simp] theorem Slot.wf_walks (sl : Slot) (r : FReg) (x : Word) : (sl.wf r x).walks = sl.walks := rfl
@[simp] theorem Slot.wf_parkedAt (sl : Slot) (r : FReg) (x : Word) : (sl.wf r x).parkedAt = sl.parkedAt := rfl
@[simp] theorem Slot.wf_atHome (sl : Slot) (r : FReg) (x : Word) : (sl.wf r x).atHome = sl.atHome := rfl
@[simp] theorem Slot.wf_deadline (sl : Slot) (r : FReg) (x : Word) : (sl.wf r x).deadline = sl.deadline := rfl
@[simp] theorem Slot.wf_retryAt (sl : Slot) (r : FReg) (x : Word) : (sl.wf r x).retryAt = sl.retryAt := rfl
@[simp] theorem Slot.wf_flags (sl : Slot) (r : FReg) (x : Word) : (sl.wf r x).flags = sl.flags := rfl
@[simp] theorem Slot.wf_fen (sl : Slot) (r : FReg) (x : Word) : (sl.wf r x).fen = sl.fen := rfl
@[simp] theorem Slot.wf_rmode (sl : Slot) (r : FReg) (x : Word) : (sl.wf r x).rmode = sl.rmode := rfl
@[simp] theorem Slot.wf_tbm (sl : Slot) (r : FReg) (x : Word) : (sl.wf r x).tbm = sl.tbm := rfl
@[simp] theorem Slot.wf_tmr (sl : Slot) (r : FReg) (x : Word) : (sl.wf r x).tmr = sl.tmr := rfl
@[simp] theorem Slot.wf_tvec (sl : Slot) (r : FReg) (x : Word) : (sl.wf r x).tvec = sl.tvec := rfl
@[simp] theorem Slot.wf_tcause (sl : Slot) (r : FReg) (x : Word) : (sl.wf r x).tcause = sl.tcause := rfl
@[simp] theorem Slot.wf_tval (sl : Slot) (r : FReg) (x : Word) : (sl.wf r x).tval = sl.tval := rfl
@[simp] theorem Slot.wf_epc (sl : Slot) (r : FReg) (x : Word) : (sl.wf r x).epc = sl.epc := rfl
@[simp] theorem Slot.wf_tsave (sl : Slot) (r : FReg) (x : Word) : (sl.wf r x).tsave = sl.tsave := rfl
@[simp] theorem Slot.wf_sup (sl : Slot) (r : FReg) (x : Word) : (sl.wf r x).sup = sl.sup := rfl
@[simp] theorem Slot.wf_errq (sl : Slot) (r : FReg) (x : Word) : (sl.wf r x).errq = sl.errq := rfl
@[simp] theorem Slot.wf_storeQ (sl : Slot) (r : FReg) (x : Word) : (sl.wf r x).storeQ = sl.storeQ := rfl
@[simp] theorem Slot.wf_nextStore (sl : Slot) (r : FReg) (x : Word) : (sl.wf r x).nextStore = sl.nextStore := rfl
@[simp] theorem Slot.wf_resv (sl : Slot) (r : FReg) (x : Word) : (sl.wf r x).resv = sl.resv := rfl
@[simp] theorem Slot.wf_outst (sl : Slot) (r : FReg) (x : Word) : (sl.wf r x).outst = sl.outst := rfl
@[simp] theorem Slot.wf_nextId (sl : Slot) (r : FReg) (x : Word) : (sl.wf r x).nextId = sl.nextId := rfl
@[simp] theorem Slot.wf_incs (sl : Slot) (r : FReg) (x : Word) : (sl.wf r x).incs = sl.incs := rfl
@[simp] theorem Slot.wf_tileId (sl : Slot) (r : FReg) (x : Word) : (sl.wf r x).tileId = sl.tileId := rfl
@[simp] theorem Slot.wf_roamed (sl : Slot) (r : FReg) (x : Word) : (sl.wf r x).roamed = sl.roamed := rfl
@[simp] theorem Slot.wf_streams (sl : Slot) (r : FReg) (x : Word) : (sl.wf r x).streams = sl.streams := rfl
@[simp] theorem Slot.wf_draining (sl : Slot) (r : FReg) (x : Word) : (sl.wf r x).draining = sl.draining := rfl
@[simp] theorem Slot.wf_repCont (sl : Slot) (r : FReg) (x : Word) : (sl.wf r x).repCont = sl.repCont := rfl
@[simp] theorem Slot.wf_repPc (sl : Slot) (r : FReg) (x : Word) : (sl.wf r x).repPc = sl.repPc := rfl
@[simp] theorem Slot.wf_cctx (sl : Slot) (r : FReg) (x : Word) : (sl.wf r x).cctx = sl.cctx := rfl
@[simp] theorem Slot.wf_mctx (sl : Slot) (r : FReg) (x : Word) : (sl.wf r x).mctx = sl.mctx := rfl
@[simp] theorem Slot.wf_xctx (sl : Slot) (r : FReg) (x : Word) : (sl.wf r x).xctx = sl.xctx := rfl
@[simp] theorem Slot.wf_tctx (sl : Slot) (r : FReg) (x : Word) : (sl.wf r x).tctx = sl.tctx := rfl
@[simp] theorem Slot.wf_pendCopy (sl : Slot) (r : FReg) (x : Word) : (sl.wf r x).pendCopy = sl.pendCopy := rfl
@[simp] theorem Slot.wf_pendMember (sl : Slot) (r : FReg) (x : Word) : (sl.wf r x).pendMember = sl.pendMember := rfl
@[simp] theorem Slot.wf_pendSpawn (sl : Slot) (r : FReg) (x : Word) : (sl.wf r x).pendSpawn = sl.pendSpawn := rfl
@[simp] theorem Slot.wf_pendTimer (sl : Slot) (r : FReg) (x : Word) : (sl.wf r x).pendTimer = sl.pendTimer := rfl
@[simp] theorem Slot.wf_haltReq (sl : Slot) (r : FReg) (x : Word) : (sl.wf r x).haltReq = sl.haltReq := rfl
@[simp] theorem Slot.wf_haltNow (sl : Slot) (r : FReg) (x : Word) : (sl.wf r x).haltNow = sl.haltNow := rfl
@[simp] theorem Slot.wf_cancel (sl : Slot) (r : FReg) (x : Word) : (sl.wf r x).cancel = sl.cancel := rfl
@[simp] theorem Slot.wf_tmrAt (sl : Slot) (r : FReg) (x : Word) : (sl.wf r x).tmrAt = sl.tmrAt := rfl
@[simp] theorem Slot.wf_reserved (sl : Slot) (r : FReg) (x : Word) : (sl.wf r x).reserved = sl.reserved := rfl
@[simp] theorem Slot.wf_haltedAt (sl : Slot) (r : FReg) (x : Word) : (sl.wf r x).haltedAt = sl.haltedAt := rfl
@[simp] theorem Slot.wf_block (sl : Slot) (r : FReg) (x : Word) : (sl.wf r x).block = sl.block := rfl
@[simp] theorem Slot.wf_bubble (sl : Slot) (r : FReg) (x : Word) : (sl.wf r x).bubble = sl.bubble := rfl
@[simp] theorem Slot.wf_fetchFault (sl : Slot) (r : FReg) (x : Word) : (sl.wf r x).fetchFault = sl.fetchFault := rfl
@[simp] theorem Slot.wf_object (sl : Slot) (r : FReg) (x : Word) : (sl.wf r x).object = sl.object := rfl
@[simp] theorem Slot.wf_carry (sl : Slot) (r : FReg) (x : Word) : (sl.wf r x).carry = sl.carry := rfl
@[simp] theorem Slot.wf_hosting (sl : Slot) (r : FReg) (x : Word) : (sl.wf r x).hosting = sl.hosting := rfl
@[simp] theorem Slot.wf_away (sl : Slot) (r : FReg) (x : Word) : (sl.wf r x).away = sl.away := rfl
@[simp] theorem Slot.wf_awayAt (sl : Slot) (r : FReg) (x : Word) : (sl.wf r x).awayAt = sl.awayAt := rfl
@[simp] theorem Slot.wf_spillTl (sl : Slot) (r : FReg) (x : Word) : (sl.wf r x).spillTl = sl.spillTl := rfl
@[simp] theorem Slot.wf_spilledAs (sl : Slot) (r : FReg) (x : Word) : (sl.wf r x).spilledAs = sl.spilledAs := rfl

@[simp] theorem Slot.wv_s (sl : Slot) (r : VReg) (x : VWord) : (sl.wv r x).s = sl.s := rfl
@[simp] theorem Slot.wv_f (sl : Slot) (r : VReg) (x : VWord) : (sl.wv r x).f = sl.f := rfl
@[simp] theorem Slot.wv_k (sl : Slot) (r : VReg) (x : VWord) : (sl.wv r x).k = sl.k := rfl
@[simp] theorem Slot.wv_y (sl : Slot) (r : VReg) (x : VWord) : (sl.wv r x).y = sl.y := rfl
@[simp] theorem Slot.wv_pc (sl : Slot) (r : VReg) (x : VWord) : (sl.wv r x).pc = sl.pc := rfl
@[simp] theorem Slot.wv_state (sl : Slot) (r : VReg) (x : VWord) : (sl.wv r x).state = sl.state := rfl
@[simp] theorem Slot.wv_reason (sl : Slot) (r : VReg) (x : VWord) : (sl.wv r x).reason = sl.reason := rfl
@[simp] theorem Slot.wv_wait (sl : Slot) (r : VReg) (x : VWord) : (sl.wv r x).wait = sl.wait := rfl
@[simp] theorem Slot.wv_reply (sl : Slot) (r : VReg) (x : VWord) : (sl.wv r x).reply = sl.reply := rfl
@[simp] theorem Slot.wv_word (sl : Slot) (r : VReg) (x : VWord) : (sl.wv r x).word = sl.word := rfl
@[simp] theorem Slot.wv_walks (sl : Slot) (r : VReg) (x : VWord) : (sl.wv r x).walks = sl.walks := rfl
@[simp] theorem Slot.wv_parkedAt (sl : Slot) (r : VReg) (x : VWord) : (sl.wv r x).parkedAt = sl.parkedAt := rfl
@[simp] theorem Slot.wv_atHome (sl : Slot) (r : VReg) (x : VWord) : (sl.wv r x).atHome = sl.atHome := rfl
@[simp] theorem Slot.wv_deadline (sl : Slot) (r : VReg) (x : VWord) : (sl.wv r x).deadline = sl.deadline := rfl
@[simp] theorem Slot.wv_retryAt (sl : Slot) (r : VReg) (x : VWord) : (sl.wv r x).retryAt = sl.retryAt := rfl
@[simp] theorem Slot.wv_flags (sl : Slot) (r : VReg) (x : VWord) : (sl.wv r x).flags = sl.flags := rfl
@[simp] theorem Slot.wv_fen (sl : Slot) (r : VReg) (x : VWord) : (sl.wv r x).fen = sl.fen := rfl
@[simp] theorem Slot.wv_rmode (sl : Slot) (r : VReg) (x : VWord) : (sl.wv r x).rmode = sl.rmode := rfl
@[simp] theorem Slot.wv_tbm (sl : Slot) (r : VReg) (x : VWord) : (sl.wv r x).tbm = sl.tbm := rfl
@[simp] theorem Slot.wv_tmr (sl : Slot) (r : VReg) (x : VWord) : (sl.wv r x).tmr = sl.tmr := rfl
@[simp] theorem Slot.wv_tvec (sl : Slot) (r : VReg) (x : VWord) : (sl.wv r x).tvec = sl.tvec := rfl
@[simp] theorem Slot.wv_tcause (sl : Slot) (r : VReg) (x : VWord) : (sl.wv r x).tcause = sl.tcause := rfl
@[simp] theorem Slot.wv_tval (sl : Slot) (r : VReg) (x : VWord) : (sl.wv r x).tval = sl.tval := rfl
@[simp] theorem Slot.wv_epc (sl : Slot) (r : VReg) (x : VWord) : (sl.wv r x).epc = sl.epc := rfl
@[simp] theorem Slot.wv_tsave (sl : Slot) (r : VReg) (x : VWord) : (sl.wv r x).tsave = sl.tsave := rfl
@[simp] theorem Slot.wv_sup (sl : Slot) (r : VReg) (x : VWord) : (sl.wv r x).sup = sl.sup := rfl
@[simp] theorem Slot.wv_errq (sl : Slot) (r : VReg) (x : VWord) : (sl.wv r x).errq = sl.errq := rfl
@[simp] theorem Slot.wv_storeQ (sl : Slot) (r : VReg) (x : VWord) : (sl.wv r x).storeQ = sl.storeQ := rfl
@[simp] theorem Slot.wv_nextStore (sl : Slot) (r : VReg) (x : VWord) : (sl.wv r x).nextStore = sl.nextStore := rfl
@[simp] theorem Slot.wv_resv (sl : Slot) (r : VReg) (x : VWord) : (sl.wv r x).resv = sl.resv := rfl
@[simp] theorem Slot.wv_outst (sl : Slot) (r : VReg) (x : VWord) : (sl.wv r x).outst = sl.outst := rfl
@[simp] theorem Slot.wv_nextId (sl : Slot) (r : VReg) (x : VWord) : (sl.wv r x).nextId = sl.nextId := rfl
@[simp] theorem Slot.wv_incs (sl : Slot) (r : VReg) (x : VWord) : (sl.wv r x).incs = sl.incs := rfl
@[simp] theorem Slot.wv_tileId (sl : Slot) (r : VReg) (x : VWord) : (sl.wv r x).tileId = sl.tileId := rfl
@[simp] theorem Slot.wv_roamed (sl : Slot) (r : VReg) (x : VWord) : (sl.wv r x).roamed = sl.roamed := rfl
@[simp] theorem Slot.wv_streams (sl : Slot) (r : VReg) (x : VWord) : (sl.wv r x).streams = sl.streams := rfl
@[simp] theorem Slot.wv_draining (sl : Slot) (r : VReg) (x : VWord) : (sl.wv r x).draining = sl.draining := rfl
@[simp] theorem Slot.wv_repCont (sl : Slot) (r : VReg) (x : VWord) : (sl.wv r x).repCont = sl.repCont := rfl
@[simp] theorem Slot.wv_repPc (sl : Slot) (r : VReg) (x : VWord) : (sl.wv r x).repPc = sl.repPc := rfl
@[simp] theorem Slot.wv_cctx (sl : Slot) (r : VReg) (x : VWord) : (sl.wv r x).cctx = sl.cctx := rfl
@[simp] theorem Slot.wv_mctx (sl : Slot) (r : VReg) (x : VWord) : (sl.wv r x).mctx = sl.mctx := rfl
@[simp] theorem Slot.wv_xctx (sl : Slot) (r : VReg) (x : VWord) : (sl.wv r x).xctx = sl.xctx := rfl
@[simp] theorem Slot.wv_tctx (sl : Slot) (r : VReg) (x : VWord) : (sl.wv r x).tctx = sl.tctx := rfl
@[simp] theorem Slot.wv_pendCopy (sl : Slot) (r : VReg) (x : VWord) : (sl.wv r x).pendCopy = sl.pendCopy := rfl
@[simp] theorem Slot.wv_pendMember (sl : Slot) (r : VReg) (x : VWord) : (sl.wv r x).pendMember = sl.pendMember := rfl
@[simp] theorem Slot.wv_pendSpawn (sl : Slot) (r : VReg) (x : VWord) : (sl.wv r x).pendSpawn = sl.pendSpawn := rfl
@[simp] theorem Slot.wv_pendTimer (sl : Slot) (r : VReg) (x : VWord) : (sl.wv r x).pendTimer = sl.pendTimer := rfl
@[simp] theorem Slot.wv_haltReq (sl : Slot) (r : VReg) (x : VWord) : (sl.wv r x).haltReq = sl.haltReq := rfl
@[simp] theorem Slot.wv_haltNow (sl : Slot) (r : VReg) (x : VWord) : (sl.wv r x).haltNow = sl.haltNow := rfl
@[simp] theorem Slot.wv_cancel (sl : Slot) (r : VReg) (x : VWord) : (sl.wv r x).cancel = sl.cancel := rfl
@[simp] theorem Slot.wv_tmrAt (sl : Slot) (r : VReg) (x : VWord) : (sl.wv r x).tmrAt = sl.tmrAt := rfl
@[simp] theorem Slot.wv_reserved (sl : Slot) (r : VReg) (x : VWord) : (sl.wv r x).reserved = sl.reserved := rfl
@[simp] theorem Slot.wv_haltedAt (sl : Slot) (r : VReg) (x : VWord) : (sl.wv r x).haltedAt = sl.haltedAt := rfl
@[simp] theorem Slot.wv_block (sl : Slot) (r : VReg) (x : VWord) : (sl.wv r x).block = sl.block := rfl
@[simp] theorem Slot.wv_bubble (sl : Slot) (r : VReg) (x : VWord) : (sl.wv r x).bubble = sl.bubble := rfl
@[simp] theorem Slot.wv_fetchFault (sl : Slot) (r : VReg) (x : VWord) : (sl.wv r x).fetchFault = sl.fetchFault := rfl
@[simp] theorem Slot.wv_object (sl : Slot) (r : VReg) (x : VWord) : (sl.wv r x).object = sl.object := rfl
@[simp] theorem Slot.wv_carry (sl : Slot) (r : VReg) (x : VWord) : (sl.wv r x).carry = sl.carry := rfl
@[simp] theorem Slot.wv_hosting (sl : Slot) (r : VReg) (x : VWord) : (sl.wv r x).hosting = sl.hosting := rfl
@[simp] theorem Slot.wv_away (sl : Slot) (r : VReg) (x : VWord) : (sl.wv r x).away = sl.away := rfl
@[simp] theorem Slot.wv_awayAt (sl : Slot) (r : VReg) (x : VWord) : (sl.wv r x).awayAt = sl.awayAt := rfl
@[simp] theorem Slot.wv_spillTl (sl : Slot) (r : VReg) (x : VWord) : (sl.wv r x).spillTl = sl.spillTl := rfl
@[simp] theorem Slot.wv_spilledAs (sl : Slot) (r : VReg) (x : VWord) : (sl.wv r x).spilledAs = sl.spilledAs := rfl

@[simp] theorem Slot.wk_s (sl : Slot) (r : KReg) (x : Bool) : (sl.wk r x).s = sl.s := by
  unfold Slot.wk; split <;> rfl
@[simp] theorem Slot.wk_f (sl : Slot) (r : KReg) (x : Bool) : (sl.wk r x).f = sl.f := by
  unfold Slot.wk; split <;> rfl
@[simp] theorem Slot.wk_v (sl : Slot) (r : KReg) (x : Bool) : (sl.wk r x).v = sl.v := by
  unfold Slot.wk; split <;> rfl
@[simp] theorem Slot.wk_y (sl : Slot) (r : KReg) (x : Bool) : (sl.wk r x).y = sl.y := by
  unfold Slot.wk; split <;> rfl
@[simp] theorem Slot.wk_pc (sl : Slot) (r : KReg) (x : Bool) : (sl.wk r x).pc = sl.pc := by
  unfold Slot.wk; split <;> rfl
@[simp] theorem Slot.wk_state (sl : Slot) (r : KReg) (x : Bool) : (sl.wk r x).state = sl.state := by
  unfold Slot.wk; split <;> rfl
@[simp] theorem Slot.wk_reason (sl : Slot) (r : KReg) (x : Bool) : (sl.wk r x).reason = sl.reason := by
  unfold Slot.wk; split <;> rfl
@[simp] theorem Slot.wk_wait (sl : Slot) (r : KReg) (x : Bool) : (sl.wk r x).wait = sl.wait := by
  unfold Slot.wk; split <;> rfl
@[simp] theorem Slot.wk_reply (sl : Slot) (r : KReg) (x : Bool) : (sl.wk r x).reply = sl.reply := by
  unfold Slot.wk; split <;> rfl
@[simp] theorem Slot.wk_word (sl : Slot) (r : KReg) (x : Bool) : (sl.wk r x).word = sl.word := by
  unfold Slot.wk; split <;> rfl
@[simp] theorem Slot.wk_walks (sl : Slot) (r : KReg) (x : Bool) : (sl.wk r x).walks = sl.walks := by
  unfold Slot.wk; split <;> rfl
@[simp] theorem Slot.wk_parkedAt (sl : Slot) (r : KReg) (x : Bool) : (sl.wk r x).parkedAt = sl.parkedAt := by
  unfold Slot.wk; split <;> rfl
@[simp] theorem Slot.wk_atHome (sl : Slot) (r : KReg) (x : Bool) : (sl.wk r x).atHome = sl.atHome := by
  unfold Slot.wk; split <;> rfl
@[simp] theorem Slot.wk_deadline (sl : Slot) (r : KReg) (x : Bool) : (sl.wk r x).deadline = sl.deadline := by
  unfold Slot.wk; split <;> rfl
@[simp] theorem Slot.wk_retryAt (sl : Slot) (r : KReg) (x : Bool) : (sl.wk r x).retryAt = sl.retryAt := by
  unfold Slot.wk; split <;> rfl
@[simp] theorem Slot.wk_flags (sl : Slot) (r : KReg) (x : Bool) : (sl.wk r x).flags = sl.flags := by
  unfold Slot.wk; split <;> rfl
@[simp] theorem Slot.wk_fen (sl : Slot) (r : KReg) (x : Bool) : (sl.wk r x).fen = sl.fen := by
  unfold Slot.wk; split <;> rfl
@[simp] theorem Slot.wk_rmode (sl : Slot) (r : KReg) (x : Bool) : (sl.wk r x).rmode = sl.rmode := by
  unfold Slot.wk; split <;> rfl
@[simp] theorem Slot.wk_tbm (sl : Slot) (r : KReg) (x : Bool) : (sl.wk r x).tbm = sl.tbm := by
  unfold Slot.wk; split <;> rfl
@[simp] theorem Slot.wk_tmr (sl : Slot) (r : KReg) (x : Bool) : (sl.wk r x).tmr = sl.tmr := by
  unfold Slot.wk; split <;> rfl
@[simp] theorem Slot.wk_tvec (sl : Slot) (r : KReg) (x : Bool) : (sl.wk r x).tvec = sl.tvec := by
  unfold Slot.wk; split <;> rfl
@[simp] theorem Slot.wk_tcause (sl : Slot) (r : KReg) (x : Bool) : (sl.wk r x).tcause = sl.tcause := by
  unfold Slot.wk; split <;> rfl
@[simp] theorem Slot.wk_tval (sl : Slot) (r : KReg) (x : Bool) : (sl.wk r x).tval = sl.tval := by
  unfold Slot.wk; split <;> rfl
@[simp] theorem Slot.wk_epc (sl : Slot) (r : KReg) (x : Bool) : (sl.wk r x).epc = sl.epc := by
  unfold Slot.wk; split <;> rfl
@[simp] theorem Slot.wk_tsave (sl : Slot) (r : KReg) (x : Bool) : (sl.wk r x).tsave = sl.tsave := by
  unfold Slot.wk; split <;> rfl
@[simp] theorem Slot.wk_sup (sl : Slot) (r : KReg) (x : Bool) : (sl.wk r x).sup = sl.sup := by
  unfold Slot.wk; split <;> rfl
@[simp] theorem Slot.wk_errq (sl : Slot) (r : KReg) (x : Bool) : (sl.wk r x).errq = sl.errq := by
  unfold Slot.wk; split <;> rfl
@[simp] theorem Slot.wk_storeQ (sl : Slot) (r : KReg) (x : Bool) : (sl.wk r x).storeQ = sl.storeQ := by
  unfold Slot.wk; split <;> rfl
@[simp] theorem Slot.wk_nextStore (sl : Slot) (r : KReg) (x : Bool) : (sl.wk r x).nextStore = sl.nextStore := by
  unfold Slot.wk; split <;> rfl
@[simp] theorem Slot.wk_resv (sl : Slot) (r : KReg) (x : Bool) : (sl.wk r x).resv = sl.resv := by
  unfold Slot.wk; split <;> rfl
@[simp] theorem Slot.wk_outst (sl : Slot) (r : KReg) (x : Bool) : (sl.wk r x).outst = sl.outst := by
  unfold Slot.wk; split <;> rfl
@[simp] theorem Slot.wk_nextId (sl : Slot) (r : KReg) (x : Bool) : (sl.wk r x).nextId = sl.nextId := by
  unfold Slot.wk; split <;> rfl
@[simp] theorem Slot.wk_incs (sl : Slot) (r : KReg) (x : Bool) : (sl.wk r x).incs = sl.incs := by
  unfold Slot.wk; split <;> rfl
@[simp] theorem Slot.wk_tileId (sl : Slot) (r : KReg) (x : Bool) : (sl.wk r x).tileId = sl.tileId := by
  unfold Slot.wk; split <;> rfl
@[simp] theorem Slot.wk_roamed (sl : Slot) (r : KReg) (x : Bool) : (sl.wk r x).roamed = sl.roamed := by
  unfold Slot.wk; split <;> rfl
@[simp] theorem Slot.wk_streams (sl : Slot) (r : KReg) (x : Bool) : (sl.wk r x).streams = sl.streams := by
  unfold Slot.wk; split <;> rfl
@[simp] theorem Slot.wk_draining (sl : Slot) (r : KReg) (x : Bool) : (sl.wk r x).draining = sl.draining := by
  unfold Slot.wk; split <;> rfl
@[simp] theorem Slot.wk_repCont (sl : Slot) (r : KReg) (x : Bool) : (sl.wk r x).repCont = sl.repCont := by
  unfold Slot.wk; split <;> rfl
@[simp] theorem Slot.wk_repPc (sl : Slot) (r : KReg) (x : Bool) : (sl.wk r x).repPc = sl.repPc := by
  unfold Slot.wk; split <;> rfl
@[simp] theorem Slot.wk_cctx (sl : Slot) (r : KReg) (x : Bool) : (sl.wk r x).cctx = sl.cctx := by
  unfold Slot.wk; split <;> rfl
@[simp] theorem Slot.wk_mctx (sl : Slot) (r : KReg) (x : Bool) : (sl.wk r x).mctx = sl.mctx := by
  unfold Slot.wk; split <;> rfl
@[simp] theorem Slot.wk_xctx (sl : Slot) (r : KReg) (x : Bool) : (sl.wk r x).xctx = sl.xctx := by
  unfold Slot.wk; split <;> rfl
@[simp] theorem Slot.wk_tctx (sl : Slot) (r : KReg) (x : Bool) : (sl.wk r x).tctx = sl.tctx := by
  unfold Slot.wk; split <;> rfl
@[simp] theorem Slot.wk_pendCopy (sl : Slot) (r : KReg) (x : Bool) : (sl.wk r x).pendCopy = sl.pendCopy := by
  unfold Slot.wk; split <;> rfl
@[simp] theorem Slot.wk_pendMember (sl : Slot) (r : KReg) (x : Bool) : (sl.wk r x).pendMember = sl.pendMember := by
  unfold Slot.wk; split <;> rfl
@[simp] theorem Slot.wk_pendSpawn (sl : Slot) (r : KReg) (x : Bool) : (sl.wk r x).pendSpawn = sl.pendSpawn := by
  unfold Slot.wk; split <;> rfl
@[simp] theorem Slot.wk_pendTimer (sl : Slot) (r : KReg) (x : Bool) : (sl.wk r x).pendTimer = sl.pendTimer := by
  unfold Slot.wk; split <;> rfl
@[simp] theorem Slot.wk_haltReq (sl : Slot) (r : KReg) (x : Bool) : (sl.wk r x).haltReq = sl.haltReq := by
  unfold Slot.wk; split <;> rfl
@[simp] theorem Slot.wk_haltNow (sl : Slot) (r : KReg) (x : Bool) : (sl.wk r x).haltNow = sl.haltNow := by
  unfold Slot.wk; split <;> rfl
@[simp] theorem Slot.wk_cancel (sl : Slot) (r : KReg) (x : Bool) : (sl.wk r x).cancel = sl.cancel := by
  unfold Slot.wk; split <;> rfl
@[simp] theorem Slot.wk_tmrAt (sl : Slot) (r : KReg) (x : Bool) : (sl.wk r x).tmrAt = sl.tmrAt := by
  unfold Slot.wk; split <;> rfl
@[simp] theorem Slot.wk_reserved (sl : Slot) (r : KReg) (x : Bool) : (sl.wk r x).reserved = sl.reserved := by
  unfold Slot.wk; split <;> rfl
@[simp] theorem Slot.wk_haltedAt (sl : Slot) (r : KReg) (x : Bool) : (sl.wk r x).haltedAt = sl.haltedAt := by
  unfold Slot.wk; split <;> rfl
@[simp] theorem Slot.wk_block (sl : Slot) (r : KReg) (x : Bool) : (sl.wk r x).block = sl.block := by
  unfold Slot.wk; split <;> rfl
@[simp] theorem Slot.wk_bubble (sl : Slot) (r : KReg) (x : Bool) : (sl.wk r x).bubble = sl.bubble := by
  unfold Slot.wk; split <;> rfl
@[simp] theorem Slot.wk_fetchFault (sl : Slot) (r : KReg) (x : Bool) : (sl.wk r x).fetchFault = sl.fetchFault := by
  unfold Slot.wk; split <;> rfl
@[simp] theorem Slot.wk_object (sl : Slot) (r : KReg) (x : Bool) : (sl.wk r x).object = sl.object := by
  unfold Slot.wk; split <;> rfl
@[simp] theorem Slot.wk_carry (sl : Slot) (r : KReg) (x : Bool) : (sl.wk r x).carry = sl.carry := by
  unfold Slot.wk; split <;> rfl
@[simp] theorem Slot.wk_hosting (sl : Slot) (r : KReg) (x : Bool) : (sl.wk r x).hosting = sl.hosting := by
  unfold Slot.wk; split <;> rfl
@[simp] theorem Slot.wk_away (sl : Slot) (r : KReg) (x : Bool) : (sl.wk r x).away = sl.away := by
  unfold Slot.wk; split <;> rfl
@[simp] theorem Slot.wk_awayAt (sl : Slot) (r : KReg) (x : Bool) : (sl.wk r x).awayAt = sl.awayAt := by
  unfold Slot.wk; split <;> rfl
@[simp] theorem Slot.wk_spillTl (sl : Slot) (r : KReg) (x : Bool) : (sl.wk r x).spillTl = sl.spillTl := by
  unfold Slot.wk; split <;> rfl
@[simp] theorem Slot.wk_spilledAs (sl : Slot) (r : KReg) (x : Bool) : (sl.wk r x).spilledAs = sl.spilledAs := by
  unfold Slot.wk; split <;> rfl

@[simp] theorem Slot.next_s (sl : Slot)  : (sl.next ).s = sl.s := by
  unfold Slot.next; split <;> (try split) <;> rfl
@[simp] theorem Slot.next_f (sl : Slot)  : (sl.next ).f = sl.f := by
  unfold Slot.next; split <;> (try split) <;> rfl
@[simp] theorem Slot.next_v (sl : Slot)  : (sl.next ).v = sl.v := by
  unfold Slot.next; split <;> (try split) <;> rfl
@[simp] theorem Slot.next_k (sl : Slot)  : (sl.next ).k = sl.k := by
  unfold Slot.next; split <;> (try split) <;> rfl
@[simp] theorem Slot.next_y (sl : Slot)  : (sl.next ).y = sl.y := by
  unfold Slot.next; split <;> (try split) <;> rfl
@[simp] theorem Slot.next_reason (sl : Slot)  : (sl.next ).reason = sl.reason := by
  unfold Slot.next; split <;> (try split) <;> rfl
@[simp] theorem Slot.next_wait (sl : Slot)  : (sl.next ).wait = sl.wait := by
  unfold Slot.next; split <;> (try split) <;> rfl
@[simp] theorem Slot.next_reply (sl : Slot)  : (sl.next ).reply = sl.reply := by
  unfold Slot.next; split <;> (try split) <;> rfl
@[simp] theorem Slot.next_word (sl : Slot)  : (sl.next ).word = sl.word := by
  unfold Slot.next; split <;> (try split) <;> rfl
@[simp] theorem Slot.next_parkedAt (sl : Slot)  : (sl.next ).parkedAt = sl.parkedAt := by
  unfold Slot.next; split <;> (try split) <;> rfl
@[simp] theorem Slot.next_deadline (sl : Slot)  : (sl.next ).deadline = sl.deadline := by
  unfold Slot.next; split <;> (try split) <;> rfl
@[simp] theorem Slot.next_retryAt (sl : Slot)  : (sl.next ).retryAt = sl.retryAt := by
  unfold Slot.next; split <;> (try split) <;> rfl
@[simp] theorem Slot.next_flags (sl : Slot)  : (sl.next ).flags = sl.flags := by
  unfold Slot.next; split <;> (try split) <;> rfl
@[simp] theorem Slot.next_fen (sl : Slot)  : (sl.next ).fen = sl.fen := by
  unfold Slot.next; split <;> (try split) <;> rfl
@[simp] theorem Slot.next_rmode (sl : Slot)  : (sl.next ).rmode = sl.rmode := by
  unfold Slot.next; split <;> (try split) <;> rfl
@[simp] theorem Slot.next_tbm (sl : Slot)  : (sl.next ).tbm = sl.tbm := by
  unfold Slot.next; split <;> (try split) <;> rfl
@[simp] theorem Slot.next_tmr (sl : Slot)  : (sl.next ).tmr = sl.tmr := by
  unfold Slot.next; split <;> (try split) <;> rfl
@[simp] theorem Slot.next_tvec (sl : Slot)  : (sl.next ).tvec = sl.tvec := by
  unfold Slot.next; split <;> (try split) <;> rfl
@[simp] theorem Slot.next_tcause (sl : Slot)  : (sl.next ).tcause = sl.tcause := by
  unfold Slot.next; split <;> (try split) <;> rfl
@[simp] theorem Slot.next_tval (sl : Slot)  : (sl.next ).tval = sl.tval := by
  unfold Slot.next; split <;> (try split) <;> rfl
@[simp] theorem Slot.next_epc (sl : Slot)  : (sl.next ).epc = sl.epc := by
  unfold Slot.next; split <;> (try split) <;> rfl
@[simp] theorem Slot.next_tsave (sl : Slot)  : (sl.next ).tsave = sl.tsave := by
  unfold Slot.next; split <;> (try split) <;> rfl
@[simp] theorem Slot.next_sup (sl : Slot)  : (sl.next ).sup = sl.sup := by
  unfold Slot.next; split <;> (try split) <;> rfl
@[simp] theorem Slot.next_errq (sl : Slot)  : (sl.next ).errq = sl.errq := by
  unfold Slot.next; split <;> (try split) <;> rfl
@[simp] theorem Slot.next_storeQ (sl : Slot)  : (sl.next ).storeQ = sl.storeQ := by
  unfold Slot.next; split <;> (try split) <;> rfl
@[simp] theorem Slot.next_nextStore (sl : Slot)  : (sl.next ).nextStore = sl.nextStore := by
  unfold Slot.next; split <;> (try split) <;> rfl
@[simp] theorem Slot.next_resv (sl : Slot)  : (sl.next ).resv = sl.resv := by
  unfold Slot.next; split <;> (try split) <;> rfl
@[simp] theorem Slot.next_outst (sl : Slot)  : (sl.next ).outst = sl.outst := by
  unfold Slot.next; split <;> (try split) <;> rfl
@[simp] theorem Slot.next_nextId (sl : Slot)  : (sl.next ).nextId = sl.nextId := by
  unfold Slot.next; split <;> (try split) <;> rfl
@[simp] theorem Slot.next_incs (sl : Slot)  : (sl.next ).incs = sl.incs := by
  unfold Slot.next; split <;> (try split) <;> rfl
@[simp] theorem Slot.next_tileId (sl : Slot)  : (sl.next ).tileId = sl.tileId := by
  unfold Slot.next; split <;> (try split) <;> rfl
@[simp] theorem Slot.next_streams (sl : Slot)  : (sl.next ).streams = sl.streams := by
  unfold Slot.next; split <;> (try split) <;> rfl
@[simp] theorem Slot.next_draining (sl : Slot)  : (sl.next ).draining = sl.draining := by
  unfold Slot.next; split <;> (try split) <;> rfl
@[simp] theorem Slot.next_repCont (sl : Slot)  : (sl.next ).repCont = sl.repCont := by
  unfold Slot.next; split <;> (try split) <;> rfl
@[simp] theorem Slot.next_repPc (sl : Slot)  : (sl.next ).repPc = sl.repPc := by
  unfold Slot.next; split <;> (try split) <;> rfl
@[simp] theorem Slot.next_cctx (sl : Slot)  : (sl.next ).cctx = sl.cctx := by
  unfold Slot.next; split <;> (try split) <;> rfl
@[simp] theorem Slot.next_mctx (sl : Slot)  : (sl.next ).mctx = sl.mctx := by
  unfold Slot.next; split <;> (try split) <;> rfl
@[simp] theorem Slot.next_xctx (sl : Slot)  : (sl.next ).xctx = sl.xctx := by
  unfold Slot.next; split <;> (try split) <;> rfl
@[simp] theorem Slot.next_tctx (sl : Slot)  : (sl.next ).tctx = sl.tctx := by
  unfold Slot.next; split <;> (try split) <;> rfl
@[simp] theorem Slot.next_pendCopy (sl : Slot)  : (sl.next ).pendCopy = sl.pendCopy := by
  unfold Slot.next; split <;> (try split) <;> rfl
@[simp] theorem Slot.next_pendMember (sl : Slot)  : (sl.next ).pendMember = sl.pendMember := by
  unfold Slot.next; split <;> (try split) <;> rfl
@[simp] theorem Slot.next_pendSpawn (sl : Slot)  : (sl.next ).pendSpawn = sl.pendSpawn := by
  unfold Slot.next; split <;> (try split) <;> rfl
@[simp] theorem Slot.next_pendTimer (sl : Slot)  : (sl.next ).pendTimer = sl.pendTimer := by
  unfold Slot.next; split <;> (try split) <;> rfl
@[simp] theorem Slot.next_haltReq (sl : Slot)  : (sl.next ).haltReq = sl.haltReq := by
  unfold Slot.next; split <;> (try split) <;> rfl
@[simp] theorem Slot.next_haltNow (sl : Slot)  : (sl.next ).haltNow = sl.haltNow := by
  unfold Slot.next; split <;> (try split) <;> rfl
@[simp] theorem Slot.next_cancel (sl : Slot)  : (sl.next ).cancel = sl.cancel := by
  unfold Slot.next; split <;> (try split) <;> rfl
@[simp] theorem Slot.next_tmrAt (sl : Slot)  : (sl.next ).tmrAt = sl.tmrAt := by
  unfold Slot.next; split <;> (try split) <;> rfl
@[simp] theorem Slot.next_reserved (sl : Slot)  : (sl.next ).reserved = sl.reserved := by
  unfold Slot.next; split <;> (try split) <;> rfl
@[simp] theorem Slot.next_haltedAt (sl : Slot)  : (sl.next ).haltedAt = sl.haltedAt := by
  unfold Slot.next; split <;> (try split) <;> rfl
@[simp] theorem Slot.next_bubble (sl : Slot)  : (sl.next ).bubble = sl.bubble := by
  unfold Slot.next; split <;> (try split) <;> rfl
@[simp] theorem Slot.next_fetchFault (sl : Slot)  : (sl.next ).fetchFault = sl.fetchFault := by
  unfold Slot.next; split <;> (try split) <;> rfl
@[simp] theorem Slot.next_object (sl : Slot)  : (sl.next ).object = sl.object := by
  unfold Slot.next; split <;> (try split) <;> rfl
@[simp] theorem Slot.next_carry (sl : Slot)  : (sl.next ).carry = sl.carry := by
  unfold Slot.next; split <;> (try split) <;> rfl
@[simp] theorem Slot.next_hosting (sl : Slot)  : (sl.next ).hosting = sl.hosting := by
  unfold Slot.next; split <;> (try split) <;> rfl
@[simp] theorem Slot.next_away (sl : Slot)  : (sl.next ).away = sl.away := by
  unfold Slot.next; split <;> (try split) <;> rfl
@[simp] theorem Slot.next_awayAt (sl : Slot)  : (sl.next ).awayAt = sl.awayAt := by
  unfold Slot.next; split <;> (try split) <;> rfl
@[simp] theorem Slot.next_spillTl (sl : Slot)  : (sl.next ).spillTl = sl.spillTl := by
  unfold Slot.next; split <;> (try split) <;> rfl
@[simp] theorem Slot.next_spilledAs (sl : Slot)  : (sl.next ).spilledAs = sl.spilledAs := by
  unfold Slot.next; split <;> (try split) <;> rfl

@[simp] theorem Slot.jump_s (sl : Slot) (t : Word) (b : Bool) : (sl.jump t b).s = sl.s := rfl
@[simp] theorem Slot.jump_f (sl : Slot) (t : Word) (b : Bool) : (sl.jump t b).f = sl.f := rfl
@[simp] theorem Slot.jump_v (sl : Slot) (t : Word) (b : Bool) : (sl.jump t b).v = sl.v := rfl
@[simp] theorem Slot.jump_k (sl : Slot) (t : Word) (b : Bool) : (sl.jump t b).k = sl.k := rfl
@[simp] theorem Slot.jump_y (sl : Slot) (t : Word) (b : Bool) : (sl.jump t b).y = sl.y := rfl
@[simp] theorem Slot.jump_reason (sl : Slot) (t : Word) (b : Bool) : (sl.jump t b).reason = sl.reason := rfl
@[simp] theorem Slot.jump_wait (sl : Slot) (t : Word) (b : Bool) : (sl.jump t b).wait = sl.wait := rfl
@[simp] theorem Slot.jump_reply (sl : Slot) (t : Word) (b : Bool) : (sl.jump t b).reply = sl.reply := rfl
@[simp] theorem Slot.jump_word (sl : Slot) (t : Word) (b : Bool) : (sl.jump t b).word = sl.word := rfl
@[simp] theorem Slot.jump_parkedAt (sl : Slot) (t : Word) (b : Bool) : (sl.jump t b).parkedAt = sl.parkedAt := rfl
@[simp] theorem Slot.jump_atHome (sl : Slot) (t : Word) (b : Bool) : (sl.jump t b).atHome = sl.atHome := rfl
@[simp] theorem Slot.jump_deadline (sl : Slot) (t : Word) (b : Bool) : (sl.jump t b).deadline = sl.deadline := rfl
@[simp] theorem Slot.jump_retryAt (sl : Slot) (t : Word) (b : Bool) : (sl.jump t b).retryAt = sl.retryAt := rfl
@[simp] theorem Slot.jump_flags (sl : Slot) (t : Word) (b : Bool) : (sl.jump t b).flags = sl.flags := rfl
@[simp] theorem Slot.jump_fen (sl : Slot) (t : Word) (b : Bool) : (sl.jump t b).fen = sl.fen := rfl
@[simp] theorem Slot.jump_rmode (sl : Slot) (t : Word) (b : Bool) : (sl.jump t b).rmode = sl.rmode := rfl
@[simp] theorem Slot.jump_tbm (sl : Slot) (t : Word) (b : Bool) : (sl.jump t b).tbm = sl.tbm := rfl
@[simp] theorem Slot.jump_tmr (sl : Slot) (t : Word) (b : Bool) : (sl.jump t b).tmr = sl.tmr := rfl
@[simp] theorem Slot.jump_tvec (sl : Slot) (t : Word) (b : Bool) : (sl.jump t b).tvec = sl.tvec := rfl
@[simp] theorem Slot.jump_tcause (sl : Slot) (t : Word) (b : Bool) : (sl.jump t b).tcause = sl.tcause := rfl
@[simp] theorem Slot.jump_tval (sl : Slot) (t : Word) (b : Bool) : (sl.jump t b).tval = sl.tval := rfl
@[simp] theorem Slot.jump_epc (sl : Slot) (t : Word) (b : Bool) : (sl.jump t b).epc = sl.epc := rfl
@[simp] theorem Slot.jump_tsave (sl : Slot) (t : Word) (b : Bool) : (sl.jump t b).tsave = sl.tsave := rfl
@[simp] theorem Slot.jump_sup (sl : Slot) (t : Word) (b : Bool) : (sl.jump t b).sup = sl.sup := rfl
@[simp] theorem Slot.jump_errq (sl : Slot) (t : Word) (b : Bool) : (sl.jump t b).errq = sl.errq := rfl
@[simp] theorem Slot.jump_storeQ (sl : Slot) (t : Word) (b : Bool) : (sl.jump t b).storeQ = sl.storeQ := rfl
@[simp] theorem Slot.jump_nextStore (sl : Slot) (t : Word) (b : Bool) : (sl.jump t b).nextStore = sl.nextStore := rfl
@[simp] theorem Slot.jump_resv (sl : Slot) (t : Word) (b : Bool) : (sl.jump t b).resv = sl.resv := rfl
@[simp] theorem Slot.jump_outst (sl : Slot) (t : Word) (b : Bool) : (sl.jump t b).outst = sl.outst := rfl
@[simp] theorem Slot.jump_nextId (sl : Slot) (t : Word) (b : Bool) : (sl.jump t b).nextId = sl.nextId := rfl
@[simp] theorem Slot.jump_incs (sl : Slot) (t : Word) (b : Bool) : (sl.jump t b).incs = sl.incs := rfl
@[simp] theorem Slot.jump_tileId (sl : Slot) (t : Word) (b : Bool) : (sl.jump t b).tileId = sl.tileId := rfl
@[simp] theorem Slot.jump_streams (sl : Slot) (t : Word) (b : Bool) : (sl.jump t b).streams = sl.streams := rfl
@[simp] theorem Slot.jump_draining (sl : Slot) (t : Word) (b : Bool) : (sl.jump t b).draining = sl.draining := rfl
@[simp] theorem Slot.jump_repCont (sl : Slot) (t : Word) (b : Bool) : (sl.jump t b).repCont = sl.repCont := rfl
@[simp] theorem Slot.jump_repPc (sl : Slot) (t : Word) (b : Bool) : (sl.jump t b).repPc = sl.repPc := rfl
@[simp] theorem Slot.jump_cctx (sl : Slot) (t : Word) (b : Bool) : (sl.jump t b).cctx = sl.cctx := rfl
@[simp] theorem Slot.jump_mctx (sl : Slot) (t : Word) (b : Bool) : (sl.jump t b).mctx = sl.mctx := rfl
@[simp] theorem Slot.jump_xctx (sl : Slot) (t : Word) (b : Bool) : (sl.jump t b).xctx = sl.xctx := rfl
@[simp] theorem Slot.jump_tctx (sl : Slot) (t : Word) (b : Bool) : (sl.jump t b).tctx = sl.tctx := rfl
@[simp] theorem Slot.jump_pendCopy (sl : Slot) (t : Word) (b : Bool) : (sl.jump t b).pendCopy = sl.pendCopy := rfl
@[simp] theorem Slot.jump_pendMember (sl : Slot) (t : Word) (b : Bool) : (sl.jump t b).pendMember = sl.pendMember := rfl
@[simp] theorem Slot.jump_pendSpawn (sl : Slot) (t : Word) (b : Bool) : (sl.jump t b).pendSpawn = sl.pendSpawn := rfl
@[simp] theorem Slot.jump_pendTimer (sl : Slot) (t : Word) (b : Bool) : (sl.jump t b).pendTimer = sl.pendTimer := rfl
@[simp] theorem Slot.jump_haltReq (sl : Slot) (t : Word) (b : Bool) : (sl.jump t b).haltReq = sl.haltReq := rfl
@[simp] theorem Slot.jump_haltNow (sl : Slot) (t : Word) (b : Bool) : (sl.jump t b).haltNow = sl.haltNow := rfl
@[simp] theorem Slot.jump_cancel (sl : Slot) (t : Word) (b : Bool) : (sl.jump t b).cancel = sl.cancel := rfl
@[simp] theorem Slot.jump_tmrAt (sl : Slot) (t : Word) (b : Bool) : (sl.jump t b).tmrAt = sl.tmrAt := rfl
@[simp] theorem Slot.jump_reserved (sl : Slot) (t : Word) (b : Bool) : (sl.jump t b).reserved = sl.reserved := rfl
@[simp] theorem Slot.jump_haltedAt (sl : Slot) (t : Word) (b : Bool) : (sl.jump t b).haltedAt = sl.haltedAt := rfl
@[simp] theorem Slot.jump_fetchFault (sl : Slot) (t : Word) (b : Bool) : (sl.jump t b).fetchFault = sl.fetchFault := rfl
@[simp] theorem Slot.jump_object (sl : Slot) (t : Word) (b : Bool) : (sl.jump t b).object = sl.object := rfl
@[simp] theorem Slot.jump_carry (sl : Slot) (t : Word) (b : Bool) : (sl.jump t b).carry = sl.carry := rfl
@[simp] theorem Slot.jump_hosting (sl : Slot) (t : Word) (b : Bool) : (sl.jump t b).hosting = sl.hosting := rfl
@[simp] theorem Slot.jump_away (sl : Slot) (t : Word) (b : Bool) : (sl.jump t b).away = sl.away := rfl
@[simp] theorem Slot.jump_awayAt (sl : Slot) (t : Word) (b : Bool) : (sl.jump t b).awayAt = sl.awayAt := rfl
@[simp] theorem Slot.jump_spillTl (sl : Slot) (t : Word) (b : Bool) : (sl.jump t b).spillTl = sl.spillTl := rfl
@[simp] theorem Slot.jump_spilledAs (sl : Slot) (t : Word) (b : Bool) : (sl.jump t b).spilledAs = sl.spilledAs := rfl

@[simp] theorem Slot.park_s (sl : Slot) (r : Reason) (x : Wait) (n : Nat) : (sl.park r x n).s = sl.s := rfl
@[simp] theorem Slot.park_f (sl : Slot) (r : Reason) (x : Wait) (n : Nat) : (sl.park r x n).f = sl.f := rfl
@[simp] theorem Slot.park_v (sl : Slot) (r : Reason) (x : Wait) (n : Nat) : (sl.park r x n).v = sl.v := rfl
@[simp] theorem Slot.park_k (sl : Slot) (r : Reason) (x : Wait) (n : Nat) : (sl.park r x n).k = sl.k := rfl
@[simp] theorem Slot.park_y (sl : Slot) (r : Reason) (x : Wait) (n : Nat) : (sl.park r x n).y = sl.y := rfl
@[simp] theorem Slot.park_pc (sl : Slot) (r : Reason) (x : Wait) (n : Nat) : (sl.park r x n).pc = sl.pc := rfl
@[simp] theorem Slot.park_word (sl : Slot) (r : Reason) (x : Wait) (n : Nat) : (sl.park r x n).word = sl.word := rfl
@[simp] theorem Slot.park_walks (sl : Slot) (r : Reason) (x : Wait) (n : Nat) : (sl.park r x n).walks = sl.walks := rfl
@[simp] theorem Slot.park_deadline (sl : Slot) (r : Reason) (x : Wait) (n : Nat) : (sl.park r x n).deadline = sl.deadline := rfl
@[simp] theorem Slot.park_retryAt (sl : Slot) (r : Reason) (x : Wait) (n : Nat) : (sl.park r x n).retryAt = sl.retryAt := rfl
@[simp] theorem Slot.park_flags (sl : Slot) (r : Reason) (x : Wait) (n : Nat) : (sl.park r x n).flags = sl.flags := rfl
@[simp] theorem Slot.park_atHome (sl : Slot) (r : Reason) (x : Wait) (n : Nat) : (sl.park r x n).atHome = sl.atHome := rfl
@[simp] theorem Slot.park_fen (sl : Slot) (r : Reason) (x : Wait) (n : Nat) : (sl.park r x n).fen = sl.fen := rfl
@[simp] theorem Slot.park_rmode (sl : Slot) (r : Reason) (x : Wait) (n : Nat) : (sl.park r x n).rmode = sl.rmode := rfl
@[simp] theorem Slot.park_tbm (sl : Slot) (r : Reason) (x : Wait) (n : Nat) : (sl.park r x n).tbm = sl.tbm := rfl
@[simp] theorem Slot.park_tmr (sl : Slot) (r : Reason) (x : Wait) (n : Nat) : (sl.park r x n).tmr = sl.tmr := rfl
@[simp] theorem Slot.park_tvec (sl : Slot) (r : Reason) (x : Wait) (n : Nat) : (sl.park r x n).tvec = sl.tvec := rfl
@[simp] theorem Slot.park_tcause (sl : Slot) (r : Reason) (x : Wait) (n : Nat) : (sl.park r x n).tcause = sl.tcause := rfl
@[simp] theorem Slot.park_tval (sl : Slot) (r : Reason) (x : Wait) (n : Nat) : (sl.park r x n).tval = sl.tval := rfl
@[simp] theorem Slot.park_epc (sl : Slot) (r : Reason) (x : Wait) (n : Nat) : (sl.park r x n).epc = sl.epc := rfl
@[simp] theorem Slot.park_tsave (sl : Slot) (r : Reason) (x : Wait) (n : Nat) : (sl.park r x n).tsave = sl.tsave := rfl
@[simp] theorem Slot.park_sup (sl : Slot) (r : Reason) (x : Wait) (n : Nat) : (sl.park r x n).sup = sl.sup := rfl
@[simp] theorem Slot.park_errq (sl : Slot) (r : Reason) (x : Wait) (n : Nat) : (sl.park r x n).errq = sl.errq := rfl
@[simp] theorem Slot.park_storeQ (sl : Slot) (r : Reason) (x : Wait) (n : Nat) : (sl.park r x n).storeQ = sl.storeQ := rfl
@[simp] theorem Slot.park_nextStore (sl : Slot) (r : Reason) (x : Wait) (n : Nat) : (sl.park r x n).nextStore = sl.nextStore := rfl
@[simp] theorem Slot.park_resv (sl : Slot) (r : Reason) (x : Wait) (n : Nat) : (sl.park r x n).resv = sl.resv := rfl
@[simp] theorem Slot.park_outst (sl : Slot) (r : Reason) (x : Wait) (n : Nat) : (sl.park r x n).outst = sl.outst := rfl
@[simp] theorem Slot.park_nextId (sl : Slot) (r : Reason) (x : Wait) (n : Nat) : (sl.park r x n).nextId = sl.nextId := rfl
@[simp] theorem Slot.park_incs (sl : Slot) (r : Reason) (x : Wait) (n : Nat) : (sl.park r x n).incs = sl.incs := rfl
@[simp] theorem Slot.park_tileId (sl : Slot) (r : Reason) (x : Wait) (n : Nat) : (sl.park r x n).tileId = sl.tileId := rfl
@[simp] theorem Slot.park_roamed (sl : Slot) (r : Reason) (x : Wait) (n : Nat) : (sl.park r x n).roamed = sl.roamed := rfl
@[simp] theorem Slot.park_streams (sl : Slot) (r : Reason) (x : Wait) (n : Nat) : (sl.park r x n).streams = sl.streams := rfl
@[simp] theorem Slot.park_draining (sl : Slot) (r : Reason) (x : Wait) (n : Nat) : (sl.park r x n).draining = sl.draining := rfl
@[simp] theorem Slot.park_repCont (sl : Slot) (r : Reason) (x : Wait) (n : Nat) : (sl.park r x n).repCont = sl.repCont := rfl
@[simp] theorem Slot.park_repPc (sl : Slot) (r : Reason) (x : Wait) (n : Nat) : (sl.park r x n).repPc = sl.repPc := rfl
@[simp] theorem Slot.park_cctx (sl : Slot) (r : Reason) (x : Wait) (n : Nat) : (sl.park r x n).cctx = sl.cctx := rfl
@[simp] theorem Slot.park_mctx (sl : Slot) (r : Reason) (x : Wait) (n : Nat) : (sl.park r x n).mctx = sl.mctx := rfl
@[simp] theorem Slot.park_xctx (sl : Slot) (r : Reason) (x : Wait) (n : Nat) : (sl.park r x n).xctx = sl.xctx := rfl
@[simp] theorem Slot.park_tctx (sl : Slot) (r : Reason) (x : Wait) (n : Nat) : (sl.park r x n).tctx = sl.tctx := rfl
@[simp] theorem Slot.park_pendCopy (sl : Slot) (r : Reason) (x : Wait) (n : Nat) : (sl.park r x n).pendCopy = sl.pendCopy := rfl
@[simp] theorem Slot.park_pendMember (sl : Slot) (r : Reason) (x : Wait) (n : Nat) : (sl.park r x n).pendMember = sl.pendMember := rfl
@[simp] theorem Slot.park_pendSpawn (sl : Slot) (r : Reason) (x : Wait) (n : Nat) : (sl.park r x n).pendSpawn = sl.pendSpawn := rfl
@[simp] theorem Slot.park_pendTimer (sl : Slot) (r : Reason) (x : Wait) (n : Nat) : (sl.park r x n).pendTimer = sl.pendTimer := rfl
@[simp] theorem Slot.park_haltReq (sl : Slot) (r : Reason) (x : Wait) (n : Nat) : (sl.park r x n).haltReq = sl.haltReq := rfl
@[simp] theorem Slot.park_haltNow (sl : Slot) (r : Reason) (x : Wait) (n : Nat) : (sl.park r x n).haltNow = sl.haltNow := rfl
@[simp] theorem Slot.park_cancel (sl : Slot) (r : Reason) (x : Wait) (n : Nat) : (sl.park r x n).cancel = sl.cancel := rfl
@[simp] theorem Slot.park_tmrAt (sl : Slot) (r : Reason) (x : Wait) (n : Nat) : (sl.park r x n).tmrAt = sl.tmrAt := rfl
@[simp] theorem Slot.park_reserved (sl : Slot) (r : Reason) (x : Wait) (n : Nat) : (sl.park r x n).reserved = sl.reserved := rfl
@[simp] theorem Slot.park_haltedAt (sl : Slot) (r : Reason) (x : Wait) (n : Nat) : (sl.park r x n).haltedAt = sl.haltedAt := rfl
@[simp] theorem Slot.park_bubble (sl : Slot) (r : Reason) (x : Wait) (n : Nat) : (sl.park r x n).bubble = sl.bubble := rfl
@[simp] theorem Slot.park_fetchFault (sl : Slot) (r : Reason) (x : Wait) (n : Nat) : (sl.park r x n).fetchFault = sl.fetchFault := rfl
@[simp] theorem Slot.park_object (sl : Slot) (r : Reason) (x : Wait) (n : Nat) : (sl.park r x n).object = sl.object := rfl
@[simp] theorem Slot.park_carry (sl : Slot) (r : Reason) (x : Wait) (n : Nat) : (sl.park r x n).carry = sl.carry := rfl
@[simp] theorem Slot.park_hosting (sl : Slot) (r : Reason) (x : Wait) (n : Nat) : (sl.park r x n).hosting = sl.hosting := rfl
@[simp] theorem Slot.park_away (sl : Slot) (r : Reason) (x : Wait) (n : Nat) : (sl.park r x n).away = sl.away := rfl
@[simp] theorem Slot.park_awayAt (sl : Slot) (r : Reason) (x : Wait) (n : Nat) : (sl.park r x n).awayAt = sl.awayAt := rfl
@[simp] theorem Slot.park_spillTl (sl : Slot) (r : Reason) (x : Wait) (n : Nat) : (sl.park r x n).spillTl = sl.spillTl := rfl
@[simp] theorem Slot.park_spilledAs (sl : Slot) (r : Reason) (x : Wait) (n : Nat) : (sl.park r x n).spilledAs = sl.spilledAs := rfl

@[simp] theorem Slot.unpark_s (sl : Slot)  : (sl.unpark ).s = sl.s := rfl
@[simp] theorem Slot.unpark_f (sl : Slot)  : (sl.unpark ).f = sl.f := rfl
@[simp] theorem Slot.unpark_v (sl : Slot)  : (sl.unpark ).v = sl.v := rfl
@[simp] theorem Slot.unpark_k (sl : Slot)  : (sl.unpark ).k = sl.k := rfl
@[simp] theorem Slot.unpark_y (sl : Slot)  : (sl.unpark ).y = sl.y := rfl
@[simp] theorem Slot.unpark_pc (sl : Slot)  : (sl.unpark ).pc = sl.pc := rfl
@[simp] theorem Slot.unpark_word (sl : Slot)  : (sl.unpark ).word = sl.word := rfl
@[simp] theorem Slot.unpark_walks (sl : Slot)  : (sl.unpark ).walks = sl.walks := rfl
@[simp] theorem Slot.unpark_parkedAt (sl : Slot)  : (sl.unpark ).parkedAt = sl.parkedAt := rfl
@[simp] theorem Slot.unpark_atHome (sl : Slot)  : (sl.unpark ).atHome = sl.atHome := rfl
@[simp] theorem Slot.unpark_flags (sl : Slot)  : (sl.unpark ).flags = sl.flags := rfl
@[simp] theorem Slot.unpark_fen (sl : Slot)  : (sl.unpark ).fen = sl.fen := rfl
@[simp] theorem Slot.unpark_rmode (sl : Slot)  : (sl.unpark ).rmode = sl.rmode := rfl
@[simp] theorem Slot.unpark_tbm (sl : Slot)  : (sl.unpark ).tbm = sl.tbm := rfl
@[simp] theorem Slot.unpark_tmr (sl : Slot)  : (sl.unpark ).tmr = sl.tmr := rfl
@[simp] theorem Slot.unpark_tvec (sl : Slot)  : (sl.unpark ).tvec = sl.tvec := rfl
@[simp] theorem Slot.unpark_tcause (sl : Slot)  : (sl.unpark ).tcause = sl.tcause := rfl
@[simp] theorem Slot.unpark_tval (sl : Slot)  : (sl.unpark ).tval = sl.tval := rfl
@[simp] theorem Slot.unpark_epc (sl : Slot)  : (sl.unpark ).epc = sl.epc := rfl
@[simp] theorem Slot.unpark_tsave (sl : Slot)  : (sl.unpark ).tsave = sl.tsave := rfl
@[simp] theorem Slot.unpark_sup (sl : Slot)  : (sl.unpark ).sup = sl.sup := rfl
@[simp] theorem Slot.unpark_errq (sl : Slot)  : (sl.unpark ).errq = sl.errq := rfl
@[simp] theorem Slot.unpark_storeQ (sl : Slot)  : (sl.unpark ).storeQ = sl.storeQ := rfl
@[simp] theorem Slot.unpark_nextStore (sl : Slot)  : (sl.unpark ).nextStore = sl.nextStore := rfl
@[simp] theorem Slot.unpark_resv (sl : Slot)  : (sl.unpark ).resv = sl.resv := rfl
@[simp] theorem Slot.unpark_outst (sl : Slot)  : (sl.unpark ).outst = sl.outst := rfl
@[simp] theorem Slot.unpark_nextId (sl : Slot)  : (sl.unpark ).nextId = sl.nextId := rfl
@[simp] theorem Slot.unpark_incs (sl : Slot)  : (sl.unpark ).incs = sl.incs := rfl
@[simp] theorem Slot.unpark_tileId (sl : Slot)  : (sl.unpark ).tileId = sl.tileId := rfl
@[simp] theorem Slot.unpark_roamed (sl : Slot)  : (sl.unpark ).roamed = sl.roamed := rfl
@[simp] theorem Slot.unpark_streams (sl : Slot)  : (sl.unpark ).streams = sl.streams := rfl
@[simp] theorem Slot.unpark_draining (sl : Slot)  : (sl.unpark ).draining = sl.draining := rfl
@[simp] theorem Slot.unpark_repCont (sl : Slot)  : (sl.unpark ).repCont = sl.repCont := rfl
@[simp] theorem Slot.unpark_repPc (sl : Slot)  : (sl.unpark ).repPc = sl.repPc := rfl
@[simp] theorem Slot.unpark_cctx (sl : Slot)  : (sl.unpark ).cctx = sl.cctx := rfl
@[simp] theorem Slot.unpark_mctx (sl : Slot)  : (sl.unpark ).mctx = sl.mctx := rfl
@[simp] theorem Slot.unpark_xctx (sl : Slot)  : (sl.unpark ).xctx = sl.xctx := rfl
@[simp] theorem Slot.unpark_tctx (sl : Slot)  : (sl.unpark ).tctx = sl.tctx := rfl
@[simp] theorem Slot.unpark_pendCopy (sl : Slot)  : (sl.unpark ).pendCopy = sl.pendCopy := rfl
@[simp] theorem Slot.unpark_pendMember (sl : Slot)  : (sl.unpark ).pendMember = sl.pendMember := rfl
@[simp] theorem Slot.unpark_pendSpawn (sl : Slot)  : (sl.unpark ).pendSpawn = sl.pendSpawn := rfl
@[simp] theorem Slot.unpark_pendTimer (sl : Slot)  : (sl.unpark ).pendTimer = sl.pendTimer := rfl
@[simp] theorem Slot.unpark_haltReq (sl : Slot)  : (sl.unpark ).haltReq = sl.haltReq := rfl
@[simp] theorem Slot.unpark_haltNow (sl : Slot)  : (sl.unpark ).haltNow = sl.haltNow := rfl
@[simp] theorem Slot.unpark_tmrAt (sl : Slot)  : (sl.unpark ).tmrAt = sl.tmrAt := rfl
@[simp] theorem Slot.unpark_reserved (sl : Slot)  : (sl.unpark ).reserved = sl.reserved := rfl
@[simp] theorem Slot.unpark_haltedAt (sl : Slot)  : (sl.unpark ).haltedAt = sl.haltedAt := rfl
@[simp] theorem Slot.unpark_block (sl : Slot)  : (sl.unpark ).block = sl.block := rfl
@[simp] theorem Slot.unpark_bubble (sl : Slot)  : (sl.unpark ).bubble = sl.bubble := rfl
@[simp] theorem Slot.unpark_fetchFault (sl : Slot)  : (sl.unpark ).fetchFault = sl.fetchFault := rfl
@[simp] theorem Slot.unpark_object (sl : Slot)  : (sl.unpark ).object = sl.object := rfl
@[simp] theorem Slot.unpark_carry (sl : Slot)  : (sl.unpark ).carry = sl.carry := rfl
@[simp] theorem Slot.unpark_hosting (sl : Slot)  : (sl.unpark ).hosting = sl.hosting := rfl
@[simp] theorem Slot.unpark_away (sl : Slot)  : (sl.unpark ).away = sl.away := rfl
@[simp] theorem Slot.unpark_awayAt (sl : Slot)  : (sl.unpark ).awayAt = sl.awayAt := rfl
@[simp] theorem Slot.unpark_spillTl (sl : Slot)  : (sl.unpark ).spillTl = sl.spillTl := rfl
@[simp] theorem Slot.unpark_spilledAs (sl : Slot)  : (sl.unpark ).spilledAs = sl.spilledAs := rfl

@[simp] theorem Slot.takeTrap_s (sl : Slot) (c e : Nat) (v p : Word) : (sl.takeTrap c e v p).s = sl.s := rfl
@[simp] theorem Slot.takeTrap_f (sl : Slot) (c e : Nat) (v p : Word) : (sl.takeTrap c e v p).f = sl.f := rfl
@[simp] theorem Slot.takeTrap_v (sl : Slot) (c e : Nat) (v p : Word) : (sl.takeTrap c e v p).v = sl.v := rfl
@[simp] theorem Slot.takeTrap_k (sl : Slot) (c e : Nat) (v p : Word) : (sl.takeTrap c e v p).k = sl.k := rfl
@[simp] theorem Slot.takeTrap_y (sl : Slot) (c e : Nat) (v p : Word) : (sl.takeTrap c e v p).y = sl.y := rfl
@[simp] theorem Slot.takeTrap_word (sl : Slot) (c e : Nat) (v p : Word) : (sl.takeTrap c e v p).word = sl.word := rfl
@[simp] theorem Slot.takeTrap_parkedAt (sl : Slot) (c e : Nat) (v p : Word) : (sl.takeTrap c e v p).parkedAt = sl.parkedAt := rfl
@[simp] theorem Slot.takeTrap_flags (sl : Slot) (c e : Nat) (v p : Word) : (sl.takeTrap c e v p).flags = sl.flags := rfl
@[simp] theorem Slot.takeTrap_fen (sl : Slot) (c e : Nat) (v p : Word) : (sl.takeTrap c e v p).fen = sl.fen := rfl
@[simp] theorem Slot.takeTrap_rmode (sl : Slot) (c e : Nat) (v p : Word) : (sl.takeTrap c e v p).rmode = sl.rmode := rfl
@[simp] theorem Slot.takeTrap_tbm (sl : Slot) (c e : Nat) (v p : Word) : (sl.takeTrap c e v p).tbm = sl.tbm := rfl
@[simp] theorem Slot.takeTrap_tmr (sl : Slot) (c e : Nat) (v p : Word) : (sl.takeTrap c e v p).tmr = sl.tmr := rfl
@[simp] theorem Slot.takeTrap_tvec (sl : Slot) (c e : Nat) (v p : Word) : (sl.takeTrap c e v p).tvec = sl.tvec := rfl
@[simp] theorem Slot.takeTrap_tsave (sl : Slot) (c e : Nat) (v p : Word) : (sl.takeTrap c e v p).tsave = sl.tsave := rfl
@[simp] theorem Slot.takeTrap_sup (sl : Slot) (c e : Nat) (v p : Word) : (sl.takeTrap c e v p).sup = sl.sup := rfl
@[simp] theorem Slot.takeTrap_errq (sl : Slot) (c e : Nat) (v p : Word) : (sl.takeTrap c e v p).errq = sl.errq := rfl
@[simp] theorem Slot.takeTrap_storeQ (sl : Slot) (c e : Nat) (v p : Word) : (sl.takeTrap c e v p).storeQ = sl.storeQ := rfl
@[simp] theorem Slot.takeTrap_nextStore (sl : Slot) (c e : Nat) (v p : Word) : (sl.takeTrap c e v p).nextStore = sl.nextStore := rfl
@[simp] theorem Slot.takeTrap_outst (sl : Slot) (c e : Nat) (v p : Word) : (sl.takeTrap c e v p).outst = sl.outst := rfl
@[simp] theorem Slot.takeTrap_nextId (sl : Slot) (c e : Nat) (v p : Word) : (sl.takeTrap c e v p).nextId = sl.nextId := rfl
@[simp] theorem Slot.takeTrap_incs (sl : Slot) (c e : Nat) (v p : Word) : (sl.takeTrap c e v p).incs = sl.incs := rfl
@[simp] theorem Slot.takeTrap_tileId (sl : Slot) (c e : Nat) (v p : Word) : (sl.takeTrap c e v p).tileId = sl.tileId := rfl
@[simp] theorem Slot.takeTrap_streams (sl : Slot) (c e : Nat) (v p : Word) : (sl.takeTrap c e v p).streams = sl.streams := rfl
@[simp] theorem Slot.takeTrap_draining (sl : Slot) (c e : Nat) (v p : Word) : (sl.takeTrap c e v p).draining = sl.draining := rfl
@[simp] theorem Slot.takeTrap_repCont (sl : Slot) (c e : Nat) (v p : Word) : (sl.takeTrap c e v p).repCont = sl.repCont := rfl
@[simp] theorem Slot.takeTrap_repPc (sl : Slot) (c e : Nat) (v p : Word) : (sl.takeTrap c e v p).repPc = sl.repPc := rfl
@[simp] theorem Slot.takeTrap_cctx (sl : Slot) (c e : Nat) (v p : Word) : (sl.takeTrap c e v p).cctx = sl.cctx := rfl
@[simp] theorem Slot.takeTrap_mctx (sl : Slot) (c e : Nat) (v p : Word) : (sl.takeTrap c e v p).mctx = sl.mctx := rfl
@[simp] theorem Slot.takeTrap_xctx (sl : Slot) (c e : Nat) (v p : Word) : (sl.takeTrap c e v p).xctx = sl.xctx := rfl
@[simp] theorem Slot.takeTrap_tctx (sl : Slot) (c e : Nat) (v p : Word) : (sl.takeTrap c e v p).tctx = sl.tctx := rfl
@[simp] theorem Slot.takeTrap_pendCopy (sl : Slot) (c e : Nat) (v p : Word) : (sl.takeTrap c e v p).pendCopy = sl.pendCopy := rfl
@[simp] theorem Slot.takeTrap_pendMember (sl : Slot) (c e : Nat) (v p : Word) : (sl.takeTrap c e v p).pendMember = sl.pendMember := rfl
@[simp] theorem Slot.takeTrap_pendSpawn (sl : Slot) (c e : Nat) (v p : Word) : (sl.takeTrap c e v p).pendSpawn = sl.pendSpawn := rfl
@[simp] theorem Slot.takeTrap_pendTimer (sl : Slot) (c e : Nat) (v p : Word) : (sl.takeTrap c e v p).pendTimer = sl.pendTimer := rfl
@[simp] theorem Slot.takeTrap_haltReq (sl : Slot) (c e : Nat) (v p : Word) : (sl.takeTrap c e v p).haltReq = sl.haltReq := rfl
@[simp] theorem Slot.takeTrap_haltNow (sl : Slot) (c e : Nat) (v p : Word) : (sl.takeTrap c e v p).haltNow = sl.haltNow := rfl
@[simp] theorem Slot.takeTrap_tmrAt (sl : Slot) (c e : Nat) (v p : Word) : (sl.takeTrap c e v p).tmrAt = sl.tmrAt := rfl
@[simp] theorem Slot.takeTrap_reserved (sl : Slot) (c e : Nat) (v p : Word) : (sl.takeTrap c e v p).reserved = sl.reserved := rfl
@[simp] theorem Slot.takeTrap_haltedAt (sl : Slot) (c e : Nat) (v p : Word) : (sl.takeTrap c e v p).haltedAt = sl.haltedAt := rfl
@[simp] theorem Slot.takeTrap_object (sl : Slot) (c e : Nat) (v p : Word) : (sl.takeTrap c e v p).object = sl.object := rfl
@[simp] theorem Slot.takeTrap_carry (sl : Slot) (c e : Nat) (v p : Word) : (sl.takeTrap c e v p).carry = sl.carry := rfl
@[simp] theorem Slot.takeTrap_hosting (sl : Slot) (c e : Nat) (v p : Word) : (sl.takeTrap c e v p).hosting = sl.hosting := rfl
@[simp] theorem Slot.takeTrap_away (sl : Slot) (c e : Nat) (v p : Word) : (sl.takeTrap c e v p).away = sl.away := rfl
@[simp] theorem Slot.takeTrap_awayAt (sl : Slot) (c e : Nat) (v p : Word) : (sl.takeTrap c e v p).awayAt = sl.awayAt := rfl
@[simp] theorem Slot.takeTrap_spillTl (sl : Slot) (c e : Nat) (v p : Word) : (sl.takeTrap c e v p).spillTl = sl.spillTl := rfl
@[simp] theorem Slot.takeTrap_spilledAs (sl : Slot) (c e : Nat) (v p : Word) : (sl.takeTrap c e v p).spilledAs = sl.spilledAs := rfl

@[simp] theorem Slot.next_pc (sl : Slot) : sl.next.pc = sl.pc + 1 := by
  unfold Slot.next; split <;> (try split) <;> rfl

@[simp] theorem Slot.rs_zero (sl : Slot) : sl.rs 0 = 0 := rfl

@[simp] theorem Slot.rk_zero (sl : Slot) : sl.rk 0 = true := rfl

theorem Slot.rs_ws (sl : Slot) (r : SReg) (x : Word) (n : r ≠ 0) : (sl.ws r x).rs r = x := by
  simp [Slot.rs, Slot.ws, n]

theorem Slot.rs_ws_ne (sl : Slot) (r q : SReg) (x : Word) (n : q ≠ r) : (sl.ws r x).rs q = sl.rs q := by
  have m : (r : Nat) ≠ q := fun e => n (Fin.ext e.symm)
  by_cases a : r = 0 <;> simp [Slot.rs, Slot.ws, a, m]

theorem Slot.rk_wk (sl : Slot) (r : KReg) (x : Bool) (n : r ≠ 0) : (sl.wk r x).rk r = x := by
  simp [Slot.rk, Slot.wk, n]

theorem Slot.rk_wk_ne (sl : Slot) (r q : KReg) (x : Bool) (n : q ≠ r) : (sl.wk r x).rk q = sl.rk q := by
  have m : (r : Nat) ≠ q := fun e => n (Fin.ext e.symm)
  by_cases a : r = 0 <;> simp [Slot.rk, Slot.wk, a, m]

@[simp] theorem Slot.rs_next (sl : Slot) (r : SReg) : sl.next.rs r = sl.rs r := by simp [Slot.rs]

@[simp] theorem Slot.rk_next (sl : Slot) (r : KReg) : sl.next.rk r = sl.rk r := by simp [Slot.rk]

end Sys2Proof.Machine
end

