-- ==== Sys2Proof/Laws/Ops.lean ====
section
/-! SUPPORT. What each shared operation of the meanings can do. -/

namespace Sys2Proof.Machine

/-! ## Replacing the running slot -/

theorem State.mod_congr (s : State) (f g : Slot → Slot) (e : f s.me = g s.me) : s.mod f = s.mod g := by
  unfold State.mod State.modSlot State.modCore
  show State.mk .. = State.mk ..
  unfold State.me State.slot at e
  simp only [e]

/-- Two updates of the running slot are one. -/
theorem State.mod_mod (s : State) (f g : Slot → Slot) : (s.mod f).mod g = s.mod fun sl => g (f sl) := by
  refine Eq.trans (b := (s.mod f).modSlot s.cur g) rfl ?_
  unfold State.mod State.modSlot State.modCore
  simp only [State.core, assocD_set_self]
  congr 1
  refine Eq.trans (assocSet_set _ _ _ _) ?_
  simp only [Vector.set_set, Vector.getElem_set_self, Fin.getElem_fin]

/-! ## Traps -/

/-- A trap of a slot's own thread outside a handler enters the handler and changes nothing but the slot (17 R360). -/
theorem trap_enters (s : State) (c e : Nat) (v : Word) (h : s.me.hosting = none) (n : s.me.state ≠ .handler) :
    trap s c e v = .next (s.mod fun sl => sl.takeTrap c e v sl.pc) := by
  unfold trap State.trapAt
  show Host.Outcome.next (if s.me.hosting.isSome then _ else if s.me.state = _ then _ else _) = _
  rw [h, if_neg (by simp), if_neg n]
  exact congrArg _ (State.mod_congr _ _ _ rfl)

/-! ## Guards -/

theorem guarded_runs (h : Hdr) (s : State) (k : Out) (r : Runs h s) : guarded h s k = k := if_pos r

theorem guarded_off (h : Hdr) (s : State) (k : Out) (r : holds h s.me = false) : guarded h s k = .next (s.mod Slot.next) := by
  simp [guarded, r]

theorem homeOnly_runs (h : Hdr) (s : State) (k : Out) (c e : Nat) (r : AtHome h s) : homeOnly h s k c e = k := by
  unfold homeOnly
  rw [guarded_runs h s _ r.1, r.2]
  rfl

theorem homeOnly_guest (h : Hdr) (s : State) (k : Out) (c e : Nat) (r : Runs h s) (g : s.me.hosting.isSome = true) :
    homeOnly h s k c e = trap s c e 0 := by
  unfold homeOnly
  rw [guarded_runs h s _ r, g]
  rfl

theorem stewardOnly_runs (h : Hdr) (s : State) (k : Out) (r : AsSteward h s) : stewardOnly h s k = k := by
  unfold stewardOnly
  rw [if_pos r.2, homeOnly_runs h s k _ _ r.1]

theorem stewardOnly_other (h : Hdr) (s : State) (k : Out) (r : s.cur.slot ≠ 0) : stewardOnly h s k = trap s 1 8 0 := if_neg r

/-! ## Floating completion -/

theorem State.fpPark_off (s : State) (fl : BitVec 5) (pc : Word) (e : fl &&& s.me.fen = 0) : s.fpPark fl pc = s := by
  simp [State.fpPark, e]

theorem retireFp_off (s : State) (fl : BitVec 5) (f : Slot → Slot) (k : (f s.me).fen = s.me.fen) (e : fl &&& s.me.fen = 0) :
    retireFp s fl f = .next (s.mod fun sl => { (f sl).next with flags := sl.flags ||| fl }) := by
  unfold retireFp
  dsimp only
  rw [State.fpPark_off]
  rw [State.me_mod]
  simp [k, e]

/-! ## Stream operands and the scratchpad -/

theorem gates_nil (sl : Slot) : gates sl [] [] = .go := rfl

theorem Slot.stream_none (sl : Slot) (r : VReg) (e : sl.streams = #v[none, none, none, none]) : sl.stream r = none := by
  unfold Slot.stream
  rw [e]
  have k : ∀ i : Fin 4, (#v[none, none, none, none] : Vector (Option Stream) 4)[i] = none := by decide
  split
  · exact k _
  · rfl

theorem gateRead_none (sl : Slot) (r : VReg) (e : sl.streams = #v[none, none, none, none]) : gateRead sl r = .go := by
  unfold gateRead
  rw [sl.stream_none r e]

theorem gateWrite_none (sl : Slot) (r : VReg) (e : sl.streams = #v[none, none, none, none]) : gateWrite sl r = .go := by
  unfold gateWrite
  rw [sl.stream_none r e]

theorem gates_none (sl : Slot) (a b : List VReg) (e : sl.streams = #v[none, none, none, none]) : gates sl a b = .go := by
  unfold gates
  have h : ∀ g ∈ a.map (gateRead sl) ++ b.map (gateWrite sl), g = .go := by
    intro g m
    simp only [List.mem_append, List.mem_map] at m
    obtain ⟨r, _, rfl⟩ | ⟨r, _, rfl⟩ := m
    · exact gateRead_none sl r e
    · exact gateWrite_none sl r e
  have n : ∀ p : Gate → Bool, p .go = false → (a.map (gateRead sl) ++ b.map (gateWrite sl)).find? p = none := by
    intro p q
    rw [List.find?_eq_none]
    intro g m
    simp [h g m, q]
  dsimp only
  rw [n _ rfl]
  dsimp only
  rw [n _ rfl]
  rfl

theorem streamGate_go (s : State) (a b : List VReg) (k : Out) (e : gates s.me a b = .go) : streamGate s a b k = k := by
  unfold streamGate
  rw [e]

theorem withLocal_ok (s : State) (x : Word) (n al : Nat) (k : Nat → Out) (e : LocalOk x n al) : withLocal s x n al k = k x.toNat := by
  have a : ¬ 0x30000 < x.toNat + n := by omega
  simp only [withLocal, localFault, if_neg a, e.2, ne_eq, not_true_eq_false, if_false]

theorem Slot.pop_none (sl : Slot) (r : VReg) (e : sl.stream r = none) : sl.pop r = sl := by
  unfold Slot.pop
  rw [e]

theorem Slot.pops_none (sl : Slot) (l : List VReg) (e : sl.streams = #v[none, none, none, none]) : sl.pops l = sl := by
  unfold Slot.pops
  induction l.eraseDups with
  | nil => rfl
  | cons r l ih => rw [List.foldl_cons, sl.pop_none r (sl.stream_none r e), ih]

end Sys2Proof.Machine
end

