-- ==== Sys2Proof/Tests/Slice0.lean ====
section
/-! SUPPORT. Small checks of the model: ill-formed terms, words written out from the manual's encodings, single instructions, and
for every statement with hypotheses states and operands that meet them. -/

namespace Sys2Proof.Tests

set_option Elab.async false

open Sys2Proof Sys2Proof.Machine

/-! ## Ill-formed terms (02 R29 to R34) -/

def hd : Hdr := ⟨false, 0, 0, 0, false, false⟩

/-- A guard "not k0", a hint where none is allowed: branch, eviction, roam, repeat. -/
theorem test_wf_headers :
    [Instr.add { hd with neg := true } 1 2 3, .add { hd with bh := 1 } 1 2 3, .add { hd with ev := 1 } 1 2 3,
      .add { hd with roam := true } 1 2 3, .add { hd with rep := true } 1 2 3].map Instr.wf = [false, false, false, false, false] := by
  decide

/-- A shift without an index, a field beyond bit 63, a type with no such form, rounding of a form that does not round. -/
theorem test_wf_scalars :
    [Instr.lea hd 1 2 none 1 0, .ext hd false 1 2 60 4, .ins hd 1 2 1 63, .fadd hd .bf16 .rne 1 2 3, .fclass hd .t8 1 2,
      .fcvt hd .i32 .fp32 .rne 1 2, .fcvt hd .t8 .fp32 .rz 1 2, .fcvti hd .i8 .int64 .rne 1 2, .ficvt hd .t6 false .dyn 1 2].map Instr.wf =
      List.replicate 9 false := by decide

/-- A scope a local access does not take, a width its register does not fit, a signed full width, an odd pair. -/
theorem test_wf_accesses :
    [Instr.ldl hd (.s 1) 2 ⟨.cluster, .d, false, 0⟩, .ldl hd (.s 1) 2 ⟨.slot, .v, false, 0⟩, .ldl hd (.s 1) 2 ⟨.slot, .d, true, 0⟩,
      .stl hd (.f 1) 2 ⟨.slot, .b, false, 0⟩, .ldlv hd 3 2 ⟨.slot, .vv, false, 0⟩, .ldlp hd 3 2 ⟨.slot, .d, false, 0⟩,
      .tagrd hd 1 2 ⟨.slot, .h, false, 0⟩, .lamo hd .add 1 2 3 ⟨.slot, .b, 0⟩, .ldres hd (.s 1) 2 ⟨.fabric, .d, false, 0⟩,
      .cmstore hd .fabric 1 2 3 0, .vgath hd ⟨.slot, .d, false, 0⟩ 1 2 3].map Instr.wf = List.replicate 11 false := by decide

/-- Two versions, a tile beyond the scratchpad, a misplaced tile, a count of zero, a bank above 11, an element type without lanes, an odd pair
of a block conversion. -/
theorem test_wf_units :
    [Instr.tload hd 1 2 ⟨0, 0, 1, some 3, 5⟩, .tstore hd 2 ⟨0x2FF80, 1, 1, none, 0⟩, .tload hd 1 2 ⟨64, 0, 1, none, 0⟩,
      .tnew hd 1 2 ⟨0, 0, 0, none, 0⟩, .tlimit hd 1 2 0, .bfmtr hd 1 (.imm 12), .bload hd false .fp32 false false 1 2 3,
      .vfadd hd ⟨.i32, .rne, none⟩ 1 2 (.v 3), .vadd hd ⟨.i32, .rz, none⟩ 1 2 (.v 3), .vcvts hd .t8 .fp32 1 3].map Instr.wf =
      List.replicate 10 false := by decide

/-! ## Words written out from the manual's encodings (02 R27 to R35) -/

theorem test_decode_scalar :
    decode 0x01D00003_04050000_06000000 = .ok (.madd hd 3 4 5 6) ∧
    decode 0x010B0005_06070000_E0000000 = .ok (.add { hd with neg := true, pred := 3 } 5 6 7) ∧
    decode 0x03800004_00E00000_00003FF8 = .ok (.lih hd 4 0 0x3FF8) ∧
    decode 0x03A00062_07E04000_00000064 = .ok (.cmpi hd .ltu (.k 2) 7 100) :=
  ⟨rfl, rfl, rfl, rfl⟩

theorem test_decode_local :
    decode 0x30500004_02E02C00_00000010 = .ok (.ldf hd (.s 4) 2 ⟨.core, .d, false, 0x10⟩) ∧
    decode 0x98900005_E3C10000_E0000000 = .ok (.lkget hd 5 (.imm 3) 1) ∧
    decode 0x888000A8_E0E18000_E0000000 = .ok (.mbincLocal hd 40 (.imm 1)) :=
  ⟨rfl, rfl, rfl⟩

theorem test_decode_global :
    decode 0x40001004_09E08A00_00000040 = .ok (.ldg { hd with ev := 1 } (.s 4) 9 ⟨.mdl, .w, true, 0x40⟩) ∧
    decode 0x40400007_0C088C00_00000100 = .ok (.amo hd .add 7 12 8 ⟨.mdl, .d, 0x100⟩) ∧
    decode 0x40900044_0AE09400_00000080 = .ok (.ldres hd (.v 4) 10 ⟨.mdl, .vv, false, 0x80⟩) ∧
    decode 0x40A00003_06058000_00000400 = .ok (.cmstore hd .mdl 3 6 5 0x400) :=
  ⟨rfl, rfl, rfl, rfl⟩

theorem test_decode_tiles_copies :
    decode 0x50200007_04E02000_10040005 = .ok (.tload hd 7 4 ⟨0x8000, 4, 1, none, 5⟩) ∧
    decode 0x58000009_04054000_00000000 = .ok (.cpy hd true 9 4 5) :=
  ⟨rfl, rfl⟩

theorem test_decode_vector_matrix :
    decode 0x62000048_42430452_E0000000 = .ok (.vcmp hd .lt ⟨.i32, .rne, some 1⟩ 8 2 (.v 3)) ∧
    decode 0x63800046_40410400_42000000 = .ok (.vzord hd false false 6 0 1 (some 2)) ∧
    decode 0x63900045_03472800_00000100 = .ok (.vgath hd ⟨.core, .w, false, 0x100⟩ 5 3 7) ∧
    decode 0x80100005_06070800_00000000 = .ok (.mma hd 0 true false 5 6 7) :=
  ⟨rfl, rfl, rfl, rfl⟩

theorem test_decode_fabric_views :
    decode 0x88000004_09E0AC00_00000040 = .ok (.rld hd (.s 4) 9 ⟨.fabric, .d, false, 0x40⟩) ∧
    decode 0x88C00007_04054000_00000000 = .ok (.coll hd true 7 4 5) ∧
    decode 0x88D00009_04000000_00000000 = .ok (.repart hd false 9 4) ∧
    decode 0x88E00005_06E00003_00000000 = .ok (.viewrd hd 3 5 (some 6)) :=
  ⟨rfl, rfl, rfl, rfl⟩

theorem test_decode_control :
    decode 0x980240E0_E0E000FF_FFFFFFFD = .ok (.br { hd with pred := 2, bh := 1 } (-3)) ∧
    decode 0x98500009_E0E000FF_FFFFFFFB = .ok (.loop hd 9 (-5)) ∧
    decode 0x986000E0_04E00500_00000014 = .ok (.bcast hd 4 5 20) :=
  ⟨rfl, rfl, rfl⟩

theorem test_decode_tasks :
    decode 0xA0000005_06070000_00000000 = .ok (.spawn hd false 5 6 7) ∧
    decode 0xA0500003_04E00001_E0000000 = .ok (.tqpop hd true 0 3 4) ∧
    decode 0xA0300006_02E00000_00000040 = .ok (.join hd 6 2 none 0x40) ∧
    decode 0xA0200062_04050100_00000009 = .ok (.fork hd 1 false 2 4 5 9) ∧
    decode 0x88B00000_E3E00000_E0000000 = .ok (.barArr hd 0 (.imm 3)) :=
  ⟨rfl, rfl, rfl, rfl, rfl⟩

theorem test_decode_system :
    decode 0xA81000E0_E0E00000_00000000 = .ok (.eret hd) ∧
    decode 0xA8200004_8BE00000_00000000 = .ok (.ctlr hd 4 11) ∧
    decode 0xA8500003_02E00000_00000000 = .ok (.spill hd 3 2) ∧
    decode 0xA8600004_02E00000_00000000 = .ok (.unspill hd 4 2 none) ∧
    decode 0xA87000E0_05060002_00000000 = .ok (.smsgTrp hd 5 6) ∧
    decode 0xA8800000_E0E00000_00000003 = .ok (.tmrset hd 0 none 3) :=
  ⟨rfl, rfl, rfl, rfl, rfl, rfl⟩

/-- The words of zeros and of ones, the guard "not k0", a hint where none is allowed, a condition above 9, a field beyond bit 63. -/
theorem test_decode_refused :
    [(0 : IWord), 0xFFFFFFFF_FFFFFFFF_FFFFFFFF, 0x01080005_06070000_E0000000, 0x01004005_06070000_E0000000, 0x02F00062_0708000A_E0000000,
      0x03A00062_07E0A000_00000064, 0x03B00004_05E00000_0000007F].map
      (fun w => match decode w with | .ok _ => 0 | .error e => e.sub.val) = [1, 1, 3, 4, 7, 7, 7] := by decide

/-! ## Single instructions -/

/-- A steward of a launch of one core, changed by `f`. -/
def st (f : Slot → Slot) : State := (State.reset.withFetchWord 96 0).modSlot whoReset f

/-- The slot after an instruction. -/
def ran (i : Instr) (f : Slot → Slot) : Slot :=
  (stateOf State.reset (exec i (st f))).slot whoReset

/-- Scalar registers 1, 2 and 3. -/
def regs (a b c : Word) (sl : Slot) : Slot := ((sl.ws 1 a).ws 2 b).ws 3 c

/-- 09 R186: the table's cases of division. -/
theorem test_division :
    (ran (.div hd 4 1 2) (regs 7 0 0)).rs 4 = -1 ∧ (ran (.urem hd 4 1 2) (regs 7 0 0)).rs 4 = 7 ∧
    (ran (.div hd 4 1 2) (regs 0x8000000000000000 (-1) 0)).rs 4 = 0x8000000000000000 ∧
    (ran (.rem hd 4 1 2) (regs 0x8000000000000000 (-1) 0)).rs 4 = 0 ∧
    (ran (.div hd 4 1 2) (regs 7 (-2) 0)).rs 4 = -3 ∧ (ran (.rem hd 4 1 2) (regs (-7) 2 0)).rs 4 = -1 := by decide

/-- 09 R185: the upper half of a product, signed and unsigned; a product and a sum into one of the sources. -/
theorem test_products :
    (ran (.mulh hd 4 1 2) (regs (-1) (-1) 0)).rs 4 = 0 ∧ (ran (.umulh hd 4 1 2) (regs (-1) (-1) 0)).rs 4 = -2 ∧
    (ran (.madd hd 1 1 2 3) (regs 5 6 7)).rs 1 = 37 ∧ (ran (.msub hd 3 1 2 3) (regs 5 6 7)).rs 3 = -23 := by decide

/-- 09 R187: a shift by 65 is one by 1; counts of zero; the bytes in reverse order. -/
theorem test_bits :
    (ran (.shl hd 4 1 2) (regs 1 65 0)).rs 4 = 2 ∧ (ran (.sra hd 4 1 2) (regs (-8) 1 0)).rs 4 = -4 ∧
    (ran (.clz hd 4 1) (regs 0 0 0)).rs 4 = 64 ∧ (ran (.ctz hd 4 1) (regs 8 0 0)).rs 4 = 3 ∧
    (ran (.bswap hd 4 1) (regs 0x0102030405060708 0 0)).rs 4 = 0x0807060504030201 := by decide

/-- 09 R189 to R191: the top 16 bits, an address, a field with its sign, a field put in. -/
theorem test_immediates :
    (ran (.lih hd 4 0 0x3FF8) id).rs 4 = 0x3FF8000000000000 ∧ (ran (.lea hd 4 1 (some 2) 3 (-8)) (regs 16 2 0)).rs 4 = 24 ∧
    (ran (.ext hd true 4 1 4 3) (regs 0xF0 0 0)).rs 4 = -1 ∧ (ran (.ins hd 1 2 4 3) (regs 0xFFF 0 0)).rs 1 = 0xF0F := by decide

/-- 02 R36: s0 keeps reading zero; 02 R30: a false guard leaves all but the pc. -/
theorem test_wired_and_guard :
    (ran (.li hd 0 5) id).rs 0 = 0 ∧ (ran (.li { hd with pred := 1 } 4 5) id).rs 4 = 0 ∧
    (ran (.li { hd with pred := 1 } 4 5) id).pc = 1 ∧ (ran (.li { hd with pred := 1, neg := true } 4 5) id).rs 4 = 5 := by decide

/-- 03 R48, R49: 1.5 + 2.25 as fp32; one third to nearest with its flag; the canonical NaN of 0 / 0. -/
theorem test_floats :
    (ran (.fadd hd .fp32 .rne 3 1 2) (fun sl => (sl.wf 1 0x3FC00000).wf 2 0x40100000)).rf 3 = 0x40700000 ∧
    (ran (.fdiv hd .fp32 .rne 3 1 2) (fun sl => (sl.wf 1 0x3F800000).wf 2 0x40400000)).rf 3 = 0x3EAAAAAB ∧
    (ran (.fdiv hd .fp32 .rne 3 1 2) (fun sl => (sl.wf 1 0x3F800000).wf 2 0x40400000)).flags = 1 ∧
    (ran (.fdiv hd .fp32 .rne 3 1 2) id).rf 3 = 0x7FC00000 ∧ (ran (.fdiv hd .fp32 .rne 3 1 2) id).flags = 16 := by decide

/-- 08 R178: a store and a load of the scratchpad; the last byte is inside, the one beyond traps. -/
theorem test_scratchpad :
    ((stateOf State.reset (exec (.stl hd (.s 2) 1 ⟨.slot, .b, false, 0⟩) (st (regs 0x2FFFF 0x1AB 0)))).core ⟨0, 0, 0⟩).sp = [(0x2FFFF, 0xAB)] ∧
    (ran (.ldl hd (.s 4) 1 ⟨.slot, .b, false, 0⟩) (regs 0x30000 0 0)).tcause = 0x0701 ∧
    (ran (.ldl hd (.s 4) 1 ⟨.slot, .h, false, 0⟩) (regs 1 0 0)).tcause = 0x0702 := by decide

/-- 15 R318, R319: a taken branch, a call, a loop's last turn. -/
theorem test_branches :
    (ran (.br hd (-1)) (fun sl => { sl with pc := 5 })).pc = 4 ∧ (ran (.jal hd 8) id).rs 31 = 1 ∧ (ran (.jal hd 8) id).pc = 8 ∧
    (ran (.loop hd 1 (-5)) (regs 1 0 0)).pc = 1 ∧ (ran (.loop hd 1 (-5)) (regs 2 0 0)).rs 1 = 1 := by decide

/-- 17 R360 to R366: the entry to a trap, a double trap, the return. -/
theorem test_traps :
    (ran (.trap hd 9) id).tcause = 0x0301 ∧ (ran (.trap hd 9) id).epc = 1 ∧ (ran (.trap hd 9) id).tval = 9 ∧
    (ran (.brk hd 9) (fun sl => { sl with state := .handler })).tcause = 0x0F03 ∧
    (ran (.eret hd) (fun sl => { sl with state := .handler, epc := 77 })).pc = 77 ∧ (ran (.eret hd) id).tcause = 0x0108 := by decide

/-- 17 R367: the low bits of `tsave` are written as zero; a read-only register traps. -/
theorem test_control_registers :
    (ran (.ctlw hd 14 1) (regs 0x12345FFF 0 0)).tsave = 0x12345000 ∧ (ran (.ctlw hd 16 1) id).tcause = 0x0109 ∧
    (ran (.ctlr hd 4 1) id).rs 4 = 0 := by decide

/-- 10 R214: the lanes of an addition wrap alone. -/
theorem test_lanes :
    (ran (.vadd hd ⟨.i8, .rne, none⟩ 3 1 (.v 2)) (fun sl => (sl.wv 1 0x01FF).wv 2 0x0101)).rv 3 = 0x0200 := by decide +kernel

/-- The step of a placed word is the instruction's (log entry 30). -/
theorem test_step :
    let t := stateOf State.reset (step (State.reset.withFetchWord 96 0x03700004_E0E00000_00000007))
    (t.slot whoReset).rs 4 = 7 ∧ (t.slot whoReset).pc = 1 := by decide

/-- 18 R388: the digests of "abc" (the examples of FIPS 180-4). -/
theorem test_digests :
    beNat (sha256 [0x61, 0x62, 0x63]) = 0xba7816bf8f01cfea414140de5dae2223b00361a396177a9cb410ff61f20015ad ∧
    beNat (sha384 [0x61, 0x62, 0x63]) =
      0xcb00753f45a35e8bb5a03d699ac65007272c32ab0eded1631a8b605a43ff5bed8086072ba1e7cc2358baeca134c825a7 := by decide +kernel

/-- 18 R388: a signature of the digest of "sample" (RFC 6979, appendix A.2.6). -/
theorem test_signature :
    ecdsaOk (0xec3a4e415b4e19a4568618029f427fa5da9a8bc4ae92e02e06aae5286b300c64def8f0ea9055866064a254515480bc13,
        0x8015d9b72d7d57244ea8ef9ac0c621896708a59367f9dfb9f54ca84b3f1c9db1288b231c3ae0d4fe7344fd2533264720)
      (sha384 [0x73, 0x61, 0x6d, 0x70, 0x6c, 0x65])
      (beBytes 48 0x94edbb92a5ecb8aad4736e56c691916b3f88140666ce9fa73d64c4ea95ad133c81a648152e44acf96e36dd1e80fabe46 ++
        beBytes 48 0x99ef4aeb15f178cea1fe40db2603138f130e740a19624526203b6351d0a3a94fa329c145786e679e7b82c71a38628ac8) = true := by
  decide +kernel

/-! ## States and operands that meet the hypotheses of the statements -/

/-- The plain access: 8 bytes at its base register. -/
def m8 : MemArgs := ⟨.slot, .d, false, 0⟩
def q8 : AmoArgs := ⟨.slot, .d, 0⟩
def s0 : State := st id

/-- What holds of a slot at reset and of every slot of the listed cores holds of every slot. -/
theorem slots_all (s : State) (P : Slot → Prop) (h : ∀ x ∈ s.cores, ∀ i : Fin 16, P x.2.slots[i]) (hr : ∀ i : Fin 16, P Core.reset.slots[i]) :
    ∀ w : Who, P (s.slot w) := by
  intro w
  have go : ∀ l : List (CoreId × Core), (∀ x ∈ l, ∀ i : Fin 16, P x.2.slots[i]) →
      ∀ i : Fin 16, P (assocD l w.core Core.reset).slots[i] := by
    intro l
    induction l with
    | nil => intro _ i; exact hr i
    | cons x r ih =>
      intro hl i
      obtain ⟨k, v⟩ := x
      simp only [assocD]
      split
      · exact hl _ (List.mem_cons_self ..) i
      · exact ih (fun y hy => hl y (List.mem_cons_of_mem _ hy)) i
  exact go s.cores h w.slot

/-- The slot holds nothing in flight. -/
abbrev Idle (sl : Slot) : Prop := sl.storeQ = [] ∧ sl.wait.translated = false ∧ ∀ o ∈ sl.cctx.ops, o.out = []

theorem still_of (s : State) (hn : s.net = []) (h : ∀ x ∈ s.cores, ∀ i : Fin 16, Idle x.2.slots[i]) : s.Still :=
  ⟨hn, slots_all s Idle h (by decide +kernel)⟩

/-- The packet at the head of the network, with nothing that holds it back. -/
theorem arrives_head (s : State) (f : Flight) (p : Packet) (h : s.net[0]? = some f ∧ f.pkt = p ∧ f.hold = none)
    (r : f.route.all (fun x => match x with | .link l _ => (s.link l).st == .up | .router _ _ _ => true) = true) : s.Arrives 0 p := by
  refine ⟨f, h.1, h.2.1, h.2.2, by simp, fun l m hm => ?_⟩
  simpa using List.all_eq_true.mp r _ hm

/-- Every statement that asks only that the instruction runs, at home, in the steward, without streams, enables or a handler; the forms with
sources in any register, s0, f0, v0 and k0 among them, which the hypotheses do not shut out. -/
theorem witness_runs :
    Runs hd s0 ∧ AtHome hd s0 ∧ AsSteward hd s0 ∧ NoStreams s0 ∧ PlainVector hd s0 ∧ s0.me.fen = 0 ∧ s0.me.state ≠ .handler ∧
    isInt .fp32 = false ∧ Runs { hd with pred := 1, neg := true } s0 ∧ ¬ Runs { hd with pred := 1 } s0 := by decide +kernel

theorem witness_Comparison :
    decode 0x02F00062_07080002_E0000000 = .ok (.cmp hd .lt (.k 2) 7 8) ∧
    decode 0x03A00062_07E04000_00000064 = .ok (.cmpi hd .ltu (.k 2) 7 100) ∧ 9 < (10 : BitVec 8).toNat ∧ 9 < (10 : BitVec 4).toNat :=
  ⟨rfl, rfl, by decide +kernel⟩

/-- Inexact sums, a product, a quotient and a root; comparisons of a signalling NaN; conversions that round. -/
theorem witness_FpExceptions :
    let s := st fun sl => { ((sl.wf 1 0x3F800001).wf 2 0x30000003).wf 3 0x7F800001 with fen := 31 }
    let dir := rndDir .rne s.me.rmode
    let x := s.me.fval .fp32 1
    let y := s.me.fval .fp32 2
    AtHome hd s ∧ s.me.state ≠ .handler ∧ s.modes.fpException = false ∧ isInt .bf16 = false ∧
    (∀ o ∈ [fAdd dir x y, fAdd dir x y.neg, fMul x y, fDiv x y, fSqrt x, fFma dir false false x y x, fFma dir false true x y x,
      fFma dir true false x y x], (finish .fp32 dir o).2 &&& s.me.fen ≠ 0) ∧
    (∀ g : Bool, (fMinMax (fmtOf .fp32) g (s.me.fbits .fp32 1) (s.me.fbits .fp32 3)).2 &&& s.me.fen ≠ 0) ∧
    (fCmp .lt x (s.me.fval .fp32 3)).2 &&& s.me.fen ≠ 0 ∧
    (finish .bf16 dir (tyDecode .fp32 (s.me.fbits .fp32 1), sigFlag [tyDecode .fp32 (s.me.fbits .fp32 1)])).2 &&& s.me.fen ≠ 0 ∧
    (toInt dir (idstRange .int64).1 (idstRange .int64).2 x).2 &&& s.me.fen ≠ 0 ∧
    (tyEncode .fp32 dir (.ofInt 0x1000001)).2 &&& s.me.fen ≠ 0 := by decide +kernel

/-- The last aligned word is inside, a misaligned one and one beyond are not. -/
theorem witness_LocalAccesses :
    NoRelease s0 ∧ LocalOk (memAddr (st (regs 0x2FFF8 0 0)).me 1 m8) 8 8 ∧ LocalOk (memAddr s0.me 1 m8) (2 * 8) 8 ∧
    0x30000 < (memAddr (st (regs 0x2FFFC 0 0)).me 1 m8).toNat + 8 ∧
    (memAddr (st (regs 4 0 0)).me 1 m8).toNat + 8 ≤ 0x30000 ∧ (memAddr (st (regs 4 0 0)).me 1 m8).toNat % 8 ≠ 0 := by decide +kernel

/-- The state with words of the core empty. -/
def emptied (l : List Nat) : State := s0.modMyCore fun c => { c with empties := l }

theorem witness_TagAccesses :
    AtHome hd (emptied [0]) ∧ NoStreams (emptied [0]) ∧ LocalOk (memAddr (emptied [0]).me 0 m8) 8 8 ∧
    (∀ w ∈ wordsOf 0 8, w ∉ s0.myCore.empties) ∧ (∀ w ∈ wordsOf 0 8, w ∈ (emptied [0]).myCore.empties) ∧
    (∃ w ∈ wordsOf 0 8, w ∈ (emptied [0]).myCore.empties) ∧ LocalOk (memAddr s0.me 0 ⟨.slot, .b, false, 0⟩) 1 (tagAlign .b) ∧
    (memAddr s0.me 0 ⟨.slot, .b, false, 0⟩).toNat < 0x30000 := by decide +kernel

/-- A slot parked for the tag of word 0, with words of the core empty. -/
def tagging (a : TagAcc) (l : List Nat) : State :=
  (st fun sl => sl.park .tag (.tag a 0 8) 0).modMyCore fun c => { c with empties := l }

def tagged : State := { st (fun sl => sl.park .tag (.tagged 3) 0) with cycle := 4 }

theorem witness_TagWaiters :
    (∀ a ∈ [TagAcc.ldf (.s 4) .d false, .ldfe (.s 4) .d false], ((tagging a []).slot whoReset).streams = #v[none, none, none, none] ∧
      ((tagging a []).slot whoReset).wait = .tag a 0 8 ∧ ∀ y ∈ wordsOf 0 8, y ∉ ((tagging a []).core whoReset.core).empties) ∧
    ((tagging (.stwe (.s 4) .d) [0]).slot whoReset).wait = .tag (.stwe (.s 4) .d) 0 8 ∧
    (∀ y ∈ wordsOf 0 8, y ∈ ((tagging (.stwe (.s 4) .d) [0]).core whoReset.core).empties) ∧
    (∃ y ∈ wordsOf 0 8, y ∈ ((tagging (.ldf (.s 4) .d false) [0]).core whoReset.core).empties) ∧
    (tagged.slot whoReset).wait = .tagged 3 ∧ (tagged.slot whoReset).state ≠ .spilled ∧ 3 < tagged.cycle := by decide +kernel

/-- A writable leaf for the first page, from a walk the instruction has made. -/
def mapped (sl : Slot) : Slot := { sl with walks := [(0, .leaf 0xC800000000000000 1)] }

def oneSeg : Seg := ⟨0, 0x100, 8, 0xC800000000000000, 1⟩
def at100 (f : Slot → Slot) : State := st fun sl => f (mapped (regs 0x100 1 2 sl))
def queued : StoreEntry := ⟨0, none, [⟨0x100, [1, 2, 3, 4, 5, 6, 7, 8], false⟩], false, []⟩

theorem witness_GlobalAccesses_checks :
    let s := at100 id
    s.check whoReset (memAddr s.me 1 m8) 8 .load 8 false = (s, .ok [oneSeg]) ∧
    s.check whoReset (memAddr s.me 1 m8) 8 .store 8 false = (s, .ok [oneSeg]) ∧
    s.check whoReset (amoAddr s.me 1 q8) 8 .atomic 8 (winAmo (some .add) .d false) = (s, .ok [oneSeg]) ∧
    s.check whoReset (amoAddr s.me 1 q8) 8 .atomic 8 (winAmo none .d false) = (s, .ok [oneSeg]) ∧
    s.check whoReset (amoAddr s.me 1 q8) 8 .atomic 8 (winAmo (some .add) .d true) = (s, .ok [oneSeg]) := ⟨rfl, rfl, rfl, rfl, rfl⟩

theorem witness_GlobalLoads :
    let s := at100 fun sl => { sl with storeQ := [queued] }
    s.check whoReset 0x100 8 .load 8 false = (s, .ok [oneSeg]) ∧ AtHome hd s ∧ NoStreams s ∧ s.carried s.me = false ∧
    s.me.forward [oneSeg] = some [1, 2, 3, 4, 5, 6, 7, 8] ∧
    (at100 id).me.forward [oneSeg] = none ∧ (at100 id).me.overlapping [oneSeg] = [] ∧ (at100 id).myCore.ro = [] ∧ 0 < oneSeg.len :=
  ⟨rfl, by decide +kernel⟩

theorem witness_GlobalStores :
    let s := at100 fun sl => { sl with storeQ := List.replicate 16 queued }
    s.check whoReset 0x100 8 .store 8 false = (s, .ok [oneSeg]) ∧ AtHome hd s ∧ NoStreams s ∧ s.carried s.me = false ∧
    16 ≤ s.me.storeQ.length ∧ (at100 id).carried (at100 id).me = false ∧ (at100 id).me.storeQ.length < 16 := ⟨rfl, by decide +kernel⟩

theorem witness_GlobalAtomics :
    let s := at100 id
    Runs hd s ∧ s.carried s.me = false ∧ s.me.overlapping [oneSeg] = [] ∧ s.me.storeQ.length < 16 := by decide +kernel

/-- The last eight bytes of the address space, one byte further on, and the first address beyond. -/
theorem witness_CheckOrder :
    let e : Word := 0xC800000000000000
    let s := st fun sl => { sl with walks := [(0x1FFFFFFFF, .leaf e 1)] }
    2 ^ 48 ≤ (0x1000000000000 : Word).toNat ∧ (0xFFFFFFFFFFF9 : Word).toNat < 2 ^ 48 ∧ 2 ^ 48 < (0xFFFFFFFFFFF9 : Word).toNat + 8 ∧
    (0xFFFFFFFFFFF8 : Word).toNat + 8 ≤ 2 ^ 48 ∧ pagesOf (0xFFFFFFFFFFF8 : Word).toNat 8 = [0x1FFFFFFFF] ∧
    (s.slot whoReset).walks.find? (fun r => r.1 == 0x1FFFFFFFF) = some (0x1FFFFFFFF, .leaf e 1) := by decide +kernel

/-- A good page before the one that fails: each failure alone, after which the access goes on, waits for a commit, or is misaligned. -/
theorem witness_CheckOrder_pages :
    let e : Word := 0xC800000000000000
    let good : Nat × Walk := (0, .leaf e 1)
    let fixed : Word := 0xC000000000000000
    let away : Word := 0xC8FFFFFF00000000
    (∀ x ∈ [Walk.fault 2, .leaf fixed 1, .sparse fixed, .fault 5, .fault 6, .leaf away 1, .sparse e, .leaf e 1],
      [good, (1, x)] = [good] ++ (1, x) :: []) ∧
    (∀ n ∈ [2, 5, 6], good.2 ≠ .fault n) ∧ e.getLsbD 59 = true ∧ fixed.getLsbD 59 = false ∧
    (0x7FFC : Nat) % 8 ≠ 0 ∧ (0x7FE0 : Nat) % 32 = 0 ∧ badPa false (paOf e 1 (max 0x7FE0 (0 * 32768))) = false ∧
    badPa false (paOf e 1 (max 0x7FE0 (1 * 32768))) = false ∧ badPa false (paOf away 1 (max 0x7FE0 (1 * 32768))) = true ∧
    badPa true (paOf away 1 (max 0x7FE0 (1 * 32768))) = true := by decide +kernel

theorem witness_GlobalFaults :
    let u := st fun sl => { mapped (regs 4 0 0 sl) with walks := [(0, .fault 2)] }
    u.check whoReset 4 8 .load 8 false = (u, .trap 2 4) ∧
    (st fun sl => mapped (regs 4 0 0 sl)).check whoReset 4 8 .store 8 false = (st fun sl => mapped (regs 4 0 0 sl), .trap 4 4) ∧
    (st (regs 0x100 0 0)).check whoReset 0x100 8 .load 8 false = (st (regs 0x100 0 0), .miss) ∧
    2 ^ 48 ≤ (memAddr (st (regs 0x1000000000000 0 0)).me 1 m8).toNat := ⟨rfl, rfl, rfl, by decide +kernel⟩

theorem witness_StorePerformed :
    let s := st fun sl => { sl with storeQ := [queued] }
    s.mem.wf = true ∧ s.poison = [] ∧ (s.slot whoReset).storeQ = [queued] ∧ queued.op = none ∧
    inWindow 0x100 = false ∧ s.storeReady whoReset 0 0 = true ∧ s.way (some 0) 0x100 = .clear := by decide +kernel

def asking (op : GOp) : GReq := ⟨op, 0x100, false, [(0, 0x100, 8, false)], [], none⟩
def asked (op : GOp) : State := st fun sl => sl.park .globalLoad (.glob (asking op)) 0

theorem witness_LoadPerformed :
    ∀ op ∈ [GOp.ld (.s 4) .d false .slot false, .amo .add 4 .d 1 .slot],
      ((asked op).slot whoReset).wait = .glob (asking op) ∧ (asked op).poison = [] ∧ (asked op).way (some 0) 0x100 = .clear ∧
      inWindow 0x100 = false ∧ (asked op).loadReady whoReset 0 = true := by decide +kernel

theorem witness_LoadAnswered :
    ∀ op ∈ [GOp.ld (.s 4) .d false .slot false, .amo .add 4 .d 1 .slot],
      let s := (asked op).mod fun sl => { sl with reply := some (.data [1]) }
      (s.slot whoReset).wait = .glob (asking op) ∧ (s.slot whoReset).reply = some (.data [1]) ∧
      (s.slot whoReset).state ≠ .spilled := by decide +kernel

def fencing (un pr : List (Fin 48)) : State := st fun sl => sl.park .fence (.fence .mdl un pr) 0

theorem witness_FenceForms :
    s0.myCore.tlb = [] ∧ Scope.mdl ≠ .slot ∧ ((fencing [3] [5]).slot whoReset).wait = .fence .mdl [3] [5] ∧
    (fencing [3] [5]).groupClean whoReset 5 = true ∧ ((fencing [] []).slot whoReset).wait = .fence .mdl [] [] ∧
    ((fencing [] []).slot whoReset).state ≠ .spilled ∧ ((fencing [] []).slot whoReset).Quiet := by decide +kernel

/-- Bits of groups 3 and 40 and the remote one. -/
theorem witness_FenceCompletes :
    let s := st fun sl => { sl with tbm := 1 <<< 3 ||| 1 <<< 40 ||| 1 <<< 48 }
    AtHome hd s ∧ s.me.Quiet ∧ s.me.errq = [] ∧ s.net = [] ∧ s.me.state ≠ .spilled ∧
    ((List.finRange 48).filter fun g => s.me.tbm.getLsbD g.val) = [3, 40] := by decide +kernel

/-- Counts of 0 and 5 and a misaligned address are turned away. -/
theorem witness_ReservedStores :
    NoRelease s0 ∧ (s0.me.rs 2).toNat < 1 ∧ 4 < ((st (regs 0 5 0)).me.rs 2).toNat ∧ (((st (regs 8 1 0)).me.rs 1) + (0 : BitVec 41).signExtend 64).toNat % 16 ≠ 0 ∧
    0x30000 < ((st (regs 0x30000 1 0)).me.rs 1 + (0 : BitVec 41).signExtend 64).toNat + 144 * 1 := by decide +kernel

def cmLine : CmLine := ⟨0, 1, List.replicate 128 7, false⟩
def storing (r : List Resv) : State :=
  { st fun sl => { sl.park .globalLoad (.sys (.cmstore 4 [cmLine] .mdl)) 0 with resv := r } with
    resTabs := Vector.replicate 192 ⟨[⟨0, 5, 9⟩], 6⟩ }

theorem witness_CmstorePerformed :
    ((storing []).slot whoReset).reply = none ∧
    ((storing []).slot whoReset).wait = .sys (.cmstore 4 [cmLine] .mdl) ∧ ((storing []).slot whoReset).state ≠ .spilled ∧
    ((storing []).slot whoReset).Quiet ∧ ((((storing []).slot whoReset).resv).find? fun r => r.line == 0) = none ∧
    (storing []).way (some 0) 0 = .clear ∧ cmLine.data.length = 128 ∧ (storing []).mem.wf = true ∧ (storing []).poison = [] ∧
    ((((storing [⟨0, 5, 9⟩]).slot whoReset).resv).find? fun r => r.line == 0) = some ⟨0, 5, 9⟩ ∧
    ∃ e ∈ (storing []).resTabs[(storing []).resIdx 0].lines, e.line = 0 ∧ e.serial = 5 ∧ e.stamp = 9 := by decide +kernel

/-- A launch at core (0, 0, 0) of the given job, with its translation table at 0x4000. -/
def launch0 (job : BitVec 32) : Launch := ⟨0, 0, 0, job, 0, 0, 0, 0, 0, 0x4000, 0, 0, 0, 0⟩

/-- The four levels of a table whose only entry is that of the first page. -/
def table (e : Nat) : Memory :=
  ((Memory.setNum [] 0x4000 8 (0x8000000000000000 + 0x80)).setNum 0x8000 8 (0x8000000000000000 + 0xC0)).setNum 0xC000 8
    (0x8000000000000000 + 0x100) |>.setNum 0x10000 8 e

/-- A table of one committed sparse page at address 0x4000. -/
def sparseLeaf : Word := 0xF810000000000200
def sparsePage : State := { st (regs 0 0 0) with launches := [launch0 0], mem := table 0xF810000000000200 }

/-- The slot with register 1 at 0x100 of that page, whose leaf the core's translation cache holds. -/
def paged (f : Slot → Slot) : State :=
  { (st fun sl => f (regs 0x100 1 2 sl)).modMyCore fun c => { c with tlb := [⟨0, 1, sparseLeaf, 0x4000⟩] } with
    launches := [launch0 0], mem := table 0xF810000000000200 }

theorem paged_maps (f : Slot → Slot) (va : Word) (n align : Nat) (wr : Bool) (hn : 0 < n ∧ va.toNat + n ≤ 32768) (ha : va.toNat % align = 0)
    (hw : (paged f).me.walks = []) (ht : tlbFind (paged f).myCore.tlb ((paged f).rootOf (paged f).cur) 0 = some ⟨0, 1, sparseLeaf, 0x4000⟩)
    (hl : ((paged f).walk ((paged f).rootOf (paged f).cur) 0).1 = .leaf sparseLeaf 1) (hp : pagesOf va.toNat n = [0])
    (hm : inHbm (paOf sparseLeaf 1 (max va.toNat 0)) = true) : (paged f).Maps va n align wr := by
  refine ⟨hn.1, by omega, ha, hw, fun p h => ?_⟩
  rw [hp] at h
  obtain rfl := List.mem_singleton.mp h
  exact ⟨_, ht, hl, fun _ => by decide, hm⟩

/-- Loads, stores and atomics of the word at 0x100; a load and a store whose 64 bytes cross a 256-byte unit. -/
theorem witness_GlobalCompletions :
    let s := paged id
    AtHome hd s ∧ NoStreams s ∧ s.me.Quiet ∧ s.mem.wf = true ∧ s.poison = [] ∧ s.myCore.ro = [] ∧
    s.Open (s.placed (memAddr s.me 1 m8) 8) ∧ (s.placed (memAddr s.me 1 m8) 8).length = 1 ∧
    s.placed (amoAddr s.me 1 q8) 8 = [⟨0, 0x20100, 8, sparseLeaf, 1⟩] ∧ s.Open [⟨0, 0x20100, 8, sparseLeaf, 1⟩] ∧ q8.width = .d ∧
    (s.placed (0xE0 : Word) 64).length = 2 ∧ s.Open (s.placed (0xE0 : Word) 64) := by decide +kernel

theorem witness_GlobalCompletions_maps :
    (paged id).Maps (memAddr (paged id).me 1 m8) 8 8 false ∧ (paged id).Maps (memAddr (paged id).me 1 m8) 8 8 true ∧
    (paged id).Maps (amoAddr (paged id).me 1 q8) 8 8 true ∧ (paged id).Maps 0xE0 64 32 true := by
  refine ⟨?_, ?_, ?_, ?_⟩ <;> exact paged_maps _ _ _ _ _ (by decide +kernel) (by decide +kernel) (by decide +kernel) (by decide +kernel)
    (by decide +kernel) (by decide +kernel) (by decide +kernel)

/-- The descriptor of a line at address 0 with its first word selected, at 0x400 of the scratchpad, and the line reserved. -/
def reserving : State :=
  { (paged fun sl => { regs 0x400 1 0 sl with resv := [⟨0x20000, 5, 9⟩] }).modMyCore fun c =>
      { c with sp := (c.sp.write 0x408 [1]).write 0x410 [7, 8] } with resTabs := Vector.replicate 192 ⟨[⟨0x20000, 5, 9⟩], 6⟩ }

theorem witness_CmstoreCompletes :
    let s := reserving
    let x := (s.me.rs 1 + (0 : BitVec 41).signExtend 64).toNat
    AtHome hd s ∧ s.me.Quiet ∧ s.mem.wf = true ∧ s.poison = [] ∧ (s.me.rs 2).toNat = 1 ∧ x % 16 = 0 ∧ x + 144 ≤ 0x30000 ∧
    s.myCore.sp.num (x + 10) 6 = 0 ∧ s.myCore.sp.word x = 0 ∧ BitVec.ofNat 16 (s.myCore.sp.num (x + 8) 2) ≠ 0 ∧
    s.placed 0 128 = [⟨0, 0x20000, 128, sparseLeaf, 1⟩] ∧ s.Open [⟨0, 0x20000, 128, sparseLeaf, 1⟩] ∧
    (s.me.resv.find? fun r => r.line == 0x20000) = some ⟨0x20000, 5, 9⟩ ∧
    ∃ e ∈ s.resTabs[s.resIdx 0x20000].lines, e.line = 0x20000 ∧ e.serial = 5 ∧ e.stamp = 9 := by decide +kernel

theorem witness_CmstoreCompletes_maps : reserving.Maps 0 128 1 true := by
  refine ⟨by decide, by decide, by decide, by decide +kernel, fun p h => ?_⟩
  rw [show pagesOf (0 : Word).toNat 128 = [0] by decide] at h
  obtain rfl := List.mem_singleton.mp h
  exact ⟨⟨0, 1, sparseLeaf, 0x4000⟩, by decide +kernel, by decide +kernel, fun _ => by decide, by decide +kernel⟩

theorem witness_PageRequests :
    2 ^ 48 ≤ ((st (regs 0x1000000000000 0 0)).me.rs 1 + (0 : BitVec 41).signExtend 64).toNat ∧
    (sparsePage.me.rs 1 + (0 : BitVec 41).signExtend 64).toNat < 2 ^ 48 ∧ (0xF810000000000200 : Word).getLsbD 61 = true ∧
    sparsePage.walk (sparsePage.rootOf whoReset) 0 = (.leaf 0xF810000000000200 1, 0x10000) := by decide +kernel

def waiting (op : SysOp) : State := { st fun sl => sl.park .globalLoad (.sys op) 0 with pools := (Vector.replicate 7 []).set 2 [32768] }

theorem witness_PagePerformed :
    let s := waiting (.palloc 4 2)
    (s.slot whoReset).state ≠ .spilled ∧ (s.slot whoReset).reply = none ∧ (s.slot whoReset).Quiet ∧
    (s.slot whoReset).wait = .sys (.palloc 4 2) ∧
    s.pools[2] = [32768] ∧ s.pools[1] = [] ∧ (7 : Nat) % 32768 ≠ 0 ∧ (65536 : Word).toNat % 32768 = 0 ∧ inHbm 65536 = true ∧
    65536 ∉ s.pools[s.poolOf 65536] ∧ 2 ^ 48 ≤ (0x1000000000000 : Word).toNat := by decide +kernel

theorem witness_TranslationControl :
    (∃ g, (at100 id).check whoReset ((at100 id).me.rs 1 + (0 : BitVec 41).signExtend 64) 1 .load 1 false = (at100 id, .ok [g])) ∧
    (st fun sl => { sl with walks := [(0, .sparse 0)] }).check whoReset 0 1 .load 1 false =
      (st fun sl => { sl with walks := [(0, .sparse 0)] }, .sparse [0]) := ⟨⟨⟨0, 0x100, 1, 0xC800000000000000, 1⟩, rfl⟩, rfl⟩

/-- A table whose first page is not committed, with nothing in flight and free frames in a pool. -/
def opened (e : Nat) (r : Slot → Slot) (pool : List Nat) : State :=
  { st r with launches := [launch0 0], mem := table e, pools := Vector.replicate 7 pool }

/-- The first page not committed and committed, registers 1 and 2 at the page and a frame of the interleaved region; pools empty and of one
frame; the hardware pools 0 and 6. -/
theorem witness_PageCompletions :
    let s := opened 0xE810000000000200 (regs 0 0x30000 0) [0x40000]
    let u := opened 0xF810000000000200 (regs 6 0 0) []
    AtHome hd s ∧ s.me.Quiet ∧ s.mem.wf = true ∧ s.poison = [] ∧ AtHome hd u ∧ u.me.Quiet ∧ u.mem.wf = true ∧ u.poison = [] ∧
    (s.me.rs 1 + (0 : BitVec 41).signExtend 64).toNat < 2 ^ 48 ∧ s.walk (s.rootOf s.cur) 0 = (.sparse 0xE810000000000200, 0x10000) ∧
    s.me.rs 2 ≠ 0 ∧ s.me.rs 2 ≠ 0xFFFFFFFFFFFFFFFF ∧ (s.me.rs 2).toNat % 32768 = 0 ∧ inHbm (s.me.rs 2).toNat = true ∧
    (0xE810000000000200 : Word).getLsbD 52 = decide ((s.me.rs 2).toNat < s.ilvTop) ∧ s.me.rs 4 = 0 ∧
    s.pools[poolFor 0xE810000000000200 s.cur.core.stack] = [0x40000] ∧ u.pools[poolFor 0xE810000000000200 u.cur.core.stack] = [] ∧
    u.walk (u.rootOf u.cur) 6 = (.leaf 0xF810000000000200 1, 0x10000) ∧ (0xF810000000000200 : Word).getLsbD 61 = true ∧
    (s.me.rs 1).toNat % 8 = (0 : Fin 7).val ∧ (u.me.rs 1).toNat % 8 = (6 : Fin 7).val ∧ s.pools[(0 : Fin 7)] = [0x40000] ∧
    u.pools[(6 : Fin 7)] = [] ∧ 0x30000 ∉ s.pools[s.poolOf 0x30000] := by decide +kernel

theorem witness_PageCompletions_still : (opened 0xE810000000000200 (regs 0 0x30000 0) [0x40000]).Still ∧
    (opened 0xF810000000000200 (regs 6 0 0) []).Still ∧ (paged id).Still ∧
    (paged id).Maps ((paged id).me.rs 1 + (0 : BitVec 41).signExtend 64) 1 1 false :=
  ⟨still_of _ rfl (by
    show ∀ x ∈ [(_, _)], _
    simp only [List.mem_singleton, forall_eq]
    decide +kernel), still_of _ rfl (by
    show ∀ x ∈ [(_, _)], _
    simp only [List.mem_singleton, forall_eq]
    decide +kernel), still_of _ rfl (by
    show ∀ x ∈ [(_, _)], _
    simp only [List.mem_singleton, forall_eq]
    decide +kernel), paged_maps _ _ _ _ _ (by decide +kernel) (by decide +kernel) (by decide +kernel) (by decide +kernel)
    (by decide +kernel) (by decide +kernel) (by decide +kernel)⟩

theorem witness_WalksAndScrub :
    let s := sparsePage.mod fun sl => sl.park .translate (.again (.walk 0 1 .load 1)) 0
    let u := opened 0xE810000000000200 (fun sl => sl.park .pageCommit (.again (.page 0 [0] .load)) 0) []
    let v := { asked (.ld (.s 4) .d false .slot false) with poison := [0x20] }
    (s.slot whoReset).wait = .again (.walk 0 1 .load 1) ∧ (s.slot whoReset).walks = [] ∧ (s.core whoReset.core).tlb = [] ∧
    s.walk (s.rootOf whoReset) 0 = (.leaf 0xF810000000000200 1, 0x10000) ∧
    (u.slot whoReset).wait = .again (.page 0 [0] .load) ∧ u.walk (u.rootOf whoReset) (0 * 32768) = (.sparse 0xE810000000000200, 0x10000) ∧
    ⟨u.rootOf whoReset, 0⟩ ∉ u.pend[(0 : Fin 6)] ∧ u.pend[(0 : Fin 6)].length < 64 ∧ 0x100 < hbmTop ∧
    v.loadReady whoReset 0 = true ∧ v.way (some 0) 0x100 = .clear ∧ inWindow 0x100 = false ∧ v.poisoned 0x100 8 = true := by decide +kernel

def t128 : TileArgs := ⟨0x8000, 4, 1, none, 5⟩
def me0 : Agent := ⟨0, whoReset⟩

theorem witness_TileInstructions :
    AtHome hd s0 ∧ s0.me.Quiet ∧ s0.Whole ∧ s0.net = [] ∧ tileStack (s0.me.rs 1) ≤ 5 ∧ tileMod (s0.me.rs 1) = s0.modId ∧
    verOperand s0.me t128.b t128.imm = some 5 ∧ verOperand s0.me (some 2) 0 = some 0 ∧ (s0.me.rs 4).toNat < 2 ^ 32 ∧
    5 < tileStack ((st (regs 0xC000000000000 0 0)).me.rs 1) ∧ tileStack ((st (regs 0xA000000000000 0 0)).me.rs 1) = 5 ∧
    2 ^ 32 ≤ ((st (regs 0 0x100000000 0)).me.rs 2).toNat := by decide +kernel

/-- A packet in flight on the module, on no link. -/
def flight (p : Packet) : Flight := ⟨p, 0, [], none, none, false, false, none, false, none⟩

/-- The name 0 with size code 4, floor 2 and a limit of 2. -/
def rec0 (v : List VerEntry) : NameRec := ⟨0, 4, 2, 2, false, v, [], []⟩
def named (v : List VerEntry) (net : List Flight) : State := { s0 with names := [rec0 v], net := net }
def present : VerEntry := ⟨5, .present, false, 3, 0, .pool, 0, List.replicate 2048 1, [], me0, 0, 0, 0, 1, false, 0, 0⟩
def filling : VerEntry := { present with st := .filling, count := 0, data := [] }

/-- Versions at the floor and below it, a count dropped by part, the greatest count. -/
theorem witness_TileQuestions :
    let s := named [] []
    let u := named [present] []
    AtHome hd s0 ∧ s0.me.Quiet ∧ s0.Whole ∧ s0.net = [] ∧ s0.names = [] ∧ s0.tileHeld = [] ∧ s.Whole ∧ u.Whole ∧ s.names = [rec0 []] ∧ u.names = [rec0 [present]] ∧ (rec0 []).name = s.me.rs 1 ∧ (rec0 []).pend = [] ∧
    (rec0 []).parked = [] ∧ (∀ x ∈ (rec0 [present]).vers, x.spilled = false) ∧ (rec0 []).exhausted = false ∧
    (2 : BitVec 32).toNat ≤ (rec0 []).floor.toNat ∧ (rec0 []).floor.toNat < (3 : BitVec 32).toNat ∧
    verOperand s.me none 5 = some 5 ∧ verOperand s.me none 2 = some 2 ∧ present.v = 5 ∧ present.st = .present ∧ present.persistent = false ∧
    present.spilled = false ∧ (rec0 []).floor.toNat ≤ (5 : BitVec 32).toNat ∧ 0 < (2 : BitVec 8).toNat ∧ (2 : BitVec 8).toNat < present.count ∧
    present.count + (255 : BitVec 8).toNat ≤ 65535 := by decide +kernel

theorem witness_TileTransfers :
    let u := named [present] []
    u.me.Quiet ∧ u.Whole ∧ u.tileHeld = [] ∧ u.myCore.msgIn = [] ∧ (rec0 []).c = t128.c.val ∧
    (rec0 []).floor.toNat ≤ (5 : BitVec 32).toNat ∧ 0 < (rec0 []).limit ∧ tileBytes 4 ≤ u.settings.tilePool * 524288 ∧
    0 < present.count ∧ present.outst < 255 ∧ (u.me.rs 4).toNat < 2 ^ 32 := by decide +kernel

theorem witness_TileTransfers_data : present.data.length = tileBytes 4 := by
  show (List.replicate 2048 1).length = _
  rw [List.length_replicate]
  decide

/-- One request for name 0 on the network. -/
def reqPacket (op : TileOp) : Packet := ⟨.slot me0, .slice 0 0, .request, .treq ⟨me0, 0, 0, 7, op⟩⟩
def asking1 (v : List VerEntry) (op : TileOp) : State := named v [flight (reqPacket op)]

theorem one_request (s : State) (p : Packet) (q : TileReq) (h : s.net = [flight p]) (b : p.body = .treq q) (d : s.outbound p = false) :
    OneRequest s q := ⟨p, arrives_head s (flight p) p ⟨by rw [h]; rfl, rfl, rfl⟩ rfl, by rw [h]; rfl, b, d⟩

theorem witness_ClaimsAndLoads :
    (named [] []).Whole ∧ (rec0 []).parked = [] ∧ (rec0 []).pend = [] ∧ (rec0 []).exhausted = false ∧
    (named [] []).names = [rec0 []] ∧ (rec0 []).floor.toNat ≤ (5 : BitVec 32).toNat ∧ (rec0 []).c = 4 ∧
    (named [] []).modId = me0.mod ∧ tileMod 0 = (named [] []).modId ∧ 0 < (rec0 []).limit ∧ (named [] []).tileHeld = [] ∧
    tileBytes 4 ≤ (named [] []).settings.tilePool * 524288 := by decide +kernel

theorem witness_ClaimsAndLoads_requests :
    OneRequest (asking1 [] (.claim 5 4 1 0 0x8000)) ⟨me0, 0, 0, 7, .claim 5 4 1 0 0x8000⟩ ∧
    OneRequest (asking1 [] (.load 5 4 1 0x8000 false)) ⟨me0, 0, 0, 7, .load 5 4 1 0x8000 false⟩ :=
  ⟨one_request _ (reqPacket _) _ rfl rfl rfl, one_request _ (reqPacket _) _ rfl rfl rfl⟩

theorem witness_LoadOfPresent :
    (named [present] []).names = [rec0 [present]] ∧ present.st = .present ∧ present.persistent = false ∧ present.spilled = false ∧
    0 < present.count ∧ present.outst = 0 ∧ (rec0 [present]).parked = [] ∧ (rec0 [present]).pend = [] ∧ (rec0 [present]).exhausted = false ∧
    (named [present] []).tileHeld = [] ∧ me0.mod = (named [present] []).modId ∧
    (rec0 []).floor.toNat ≤ present.v.toNat ∧ (named [present] []).Whole := ⟨rfl, by decide +kernel⟩

theorem witness_LoadOfPresent_request : OneRequest (asking1 [present] (.load 5 4 1 0x8000 false)) ⟨me0, 0, 0, 7, .load 5 4 1 0x8000 false⟩ :=
  one_request _ (reqPacket _) _ rfl rfl rfl

theorem witness_Fills :
    (named [filling] []).names = [rec0 [filling]] ∧ filling.st = .filling ∧ filling.waiters = [] ∧ (rec0 [filling]).parked = [] ∧
    (rec0 [filling]).pend = [] ∧ (named [filling] []).tileHeld = [] ∧
    filling.producer.mod = (named [filling] []).modId := ⟨rfl, by decide +kernel⟩

def corePacket (b : Body) : Packet := ⟨.slice 0 0, .core ⟨0, 0, 0⟩, .bulk, b⟩
def loading (b : Body) : State :=
  { st fun sl => { sl.park .versionWait (.tile (.load 4 5 4 1 0 false) 0) 0 with tileId := 7 } with net := [flight (corePacket b)] }

theorem arrives1 (s : State) (p : Packet) (h : s.net = [flight p]) : s.Arrives 0 p :=
  arrives_head s (flight p) p ⟨by rw [h]; rfl, rfl, rfl⟩ rfl

theorem witness_Deliveries :
    let s := loading (.notice me0 3 0 7 0 7)
    let u := st fun sl => sl.park .versionWait (.tile (.load 4 5 4 1 0 false) 0x10000000000000) 0
    (s.slot me0.who).wait = .tile (.load 4 5 4 1 0 false) 0 ∧ (s.slot me0.who).tileId = 7 ∧ (s.slot me0.who).reply = none ∧
    s.noticeOpen me0.who.core = true ∧ me0.mod = s.modId ∧ s.Whole ∧ tileMod 0 = s.modId ∧ s.names = [] ∧ s.net.length = 1 ∧
    (s.core me0.who.core).empties.Nodup ∧
    (u.slot me0.who).wait = .tile (.load 4 5 4 1 0 false) 0x10000000000000 ∧ tileMod 0x10000000000000 ≠ u.modId ∧
    (u.slot me0.who).reply = none := by decide +kernel

theorem witness_Deliveries_arrive :
    (∀ b ∈ [Body.tdata me0 0 [1], .notice me0 3 0 7 0 7, .tack 3 true], (loading b).Arrives 0 (corePacket b)) ∧
    (∀ n : Bool, { loading (.tack 3 true) with deliveries := [⟨3, 0, 0, 0, me0, 0, 7, n⟩] }.deliveries = [⟨3, 0, 0, 0, me0, 0, 7, n⟩]) ∧
    ∀ m, (corePacket (.tack 3 true)).dst ≠ .mdl m :=
  ⟨fun b _ => arrives1 _ _ rfl, fun _ => rfl, by intro m h; cases h⟩

/-- A waiter whose retry and whose timeout are due in rotation 0. -/
def waiting1 (e : VerEntry) (p : Packet) : State :=
  { st fun sl => { sl.park .versionWait (.tile (.load 4 5 4 1 0x8000 true) 0) 0 with
      retryAt := some 0, deadline := some 0, tileId := 7 } with names := [rec0 [e]], net := [flight p] }

theorem witness_TileWaiters :
    let e : VerEntry := { filling with st := .absent, waiters := [.load me0 0 7 0x8000 1] }
    let s := { waiting1 e (reqPacket (.cancel 5 7)) with net := [] }
    let z := { s with net := [] }.mod fun sl => { sl with retryAt := none }
    (s.slot whoReset).wait = .tile (.load 4 5 4 1 0x8000 true) 0 ∧ (s.slot whoReset).cancel = 0 ∧ (s.slot whoReset).tileId = 7 ∧ s.Whole ∧
    s.net = [] ∧ (s.slot whoReset).retryAt = some 0 ∧ 0 ≤ s.rot ∧ (s.core whoReset.core).gates = [] ∧ (z.slot whoReset).retryAt = none ∧
    (z.slot whoReset).reply = none ∧ (z.slot whoReset).deadline = some 0 ∧ s.names = [rec0 [e]] ∧ s.tileHeld = [] ∧ (rec0 [e]).parked = [] ∧
    e.st = .absent ∧ e.v = 5 ∧ e.waiters = [.load (s.agent whoReset) 0 7 0x8000 1] ∧ present.idle = true ∧ tileMod 0 = s.modId ∧
    tileKey 0 = (0 : Fin 6).val * 32 + (0 : Fin 32).val ∧
    (∀ k ∈ [TileWait.new 4, .read 4, .change 4],
      let u := st fun sl => { sl.park .versionWait (.tile k 0) 0 with reply := some (.val 1) }
      (u.slot whoReset).wait = .tile k 0 ∧ (u.slot whoReset).reply = some (.val 1) ∧ (u.slot whoReset).state ≠ .spilled) :=
  ⟨by decide +kernel, by decide +kernel, by decide +kernel, by decide +kernel, rfl, by decide +kernel, by decide +kernel, by decide +kernel,
    by decide +kernel, by decide +kernel, by decide +kernel, rfl, by decide +kernel⟩

theorem witness_TileWaiters_request :
    OneRequest (waiting1 filling (reqPacket (.cancel 5 7))) ⟨State.agent (waiting1 filling (reqPacket (.cancel 5 7))) whoReset, 0, 0, 7, .cancel 5 7⟩ :=
  one_request _ (reqPacket _) _ rfl rfl rfl

/-- Banks 0 and 11; a format of type 7 is not legal. -/
theorem witness_BankFormats :
    (s0.me.rsi (.imm 0)).toNat = (0 : Fin 12).val ∧ (s0.me.rsi (.imm 11)).toNat = (11 : Fin 12).val ∧
    fmtLegal ((st (regs 0 0 0)).me.rs 2) = true ∧ fmtLegal ((st (regs 0 7 0)).me.rs 2) = false := by decide +kernel

/-- A copy of one element: from the scratchpad to address 0. -/
def desc64 : List Byte := List.replicate 16 0 ++ [1, 0, 1, 0, 1, 0, 1, 0] ++ List.replicate 40 0
/-- The scratchpad holds the descriptor at 0x400, which register 1 names. -/
def describing (d : List Byte) (f : Slot → Slot) : State :=
  (st fun sl => f (regs 0x400 0 0 sl)).modMyCore fun c => { c with sp := c.sp.write 0x400 d }

theorem witness_CopyIssue :
    let s := describing desc64 id
    AtHome hd s ∧ s.me.cctx.outstanding < 8 ∧ s.myCore.descriptor (s.me.rs 1) 64 = .inr desc64 ∧
    copyDetail .cpy desc64 (s.me.rs 2) s.myCore.fmt = none ∧ copyDetail (.cpyf 0) desc64 (s.me.rs 2) s.myCore.fmt = none ∧
    (s.myCore.descriptor (s.me.rs 1) 128 = .inr (desc64 ++ List.replicate 64 0)) ∧
    qdualDetail (0x4000 * 2 ^ 18 + 0x8000 * 2 ^ 36) (4 + 4 * 2 ^ 16) (#v[0, 2 + 2 ^ 16 + 4 * 2 ^ 18 + 0x1000 * 2 ^ 32,
      2 + 2 * 2 ^ 16 + 4 * 2 ^ 18 + 0x1000 * 2 ^ 32, 8, 8, 8, 8, 8, 8, 8, 8, 8]) = none ∧
    bloadDetail false .bf16 false 0 (16 * 2 ^ 21 + 16 * 2 ^ 34) = none ∧ streamDetail false true desc64 0 = none := by decide +kernel

theorem witness_CopyIssueOtherwise :
    let s := describing (List.replicate 64 1) id
    let o : CopyOp := .fresh 1 .cpy 0 0 [] s.myCore.fmt []
    let u := describing desc64 fun sl => { sl with cctx := ⟨8, 0, List.replicate 8 o⟩ }
    AtHome hd s ∧ s.me.state ≠ .handler ∧ s.myCore.descriptor (s.me.rs 1) 64 = .inr (List.replicate 64 1) ∧
    copyDetail .cpy (List.replicate 64 1) (s.me.rs 2) s.myCore.fmt = some 1 ∧
    copyDetail .cpy desc64 (u.me.rs 2) u.myCore.fmt = none ∧ 8 ≤ u.me.cctx.outstanding := by decide +kernel

def copying (o : CopyOp) : State := st fun sl => { sl with cctx := ⟨1, 0, [o]⟩ }
def op1 (k : CopyKind) (t : CopySt) : CopyOp := { CopyOp.fresh 1 k 0 0 desc64 (Vector.replicate 12 fmtRaw) [] with st := t }

theorem witness_CopyUnit :
    (∀ o ∈ [op1 .cpy .queued, op1 .qdual .running, op1 .cpy .running, op1 .cpy .complete, op1 (.cpyf 0) .running,
        { op1 .cpy .commitWait with denied := some 0 }],
      ((copying o).slot whoReset).cctx.ops = [o] ∧ ((copying o).slot whoReset).state ≠ .spilled ∧ o.out = []) ∧
    (copying (op1 .cpy .queued)).storesDone (op1 .cpy .queued).rel = true ∧ (copying (op1 .qdual .running)).copyTurn whoReset = true ∧
    (copying (op1 .cpy .running)).copyTurn whoReset = true ∧ (copying (op1 (.cpyf 0) .running)).copyTurn whoReset = true ∧
    (copying (op1 .cpy .running)).servable whoReset (op1 .cpy .running) = true ∧
    (op1 (.cpyf 0) .running).ahead = [] ∧ (op1 (.cpyf 0) .running).sector = 0 ∧
    (op1 (.cpyf 0) .running).desc = List.replicate 16 0 ++ [1, 0, 1, 0, 1, 0, 1, 0] ++ List.replicate 40 0 := by decide +kernel

def stream1 : Stream := streamOf 1 false true desc64 0

theorem witness_StreamSteps :
    let s := st fun sl => { sl with streams := sl.streams.set 2 (some { stream1 with pos := 1 }) }
    let u := st fun sl => { sl with draining := [{ stream1 with wr := true }], cctx := ⟨1, 0, []⟩ }
    let v := st fun sl => { sl with streams := sl.streams.set 2 (some { stream1 with wr := true }) }
    let o := op1 (.stream 2) .running
    let x := st fun sl => { sl with streams := sl.streams.set 2 (some { stream1 with pos := 1 }), cctx := ⟨1, 0, [o]⟩ }
    (s.slot whoReset).streams[(2 : Fin 4)] = some { stream1 with pos := 1 } ∧ stream1.wr = false ∧ { stream1 with pos := 1 }.total ≤ 1 ∧
    (u.slot whoReset).draining = [{ stream1 with wr := true }] ∧ stream1.buf = [] ∧ u.mayStart whoReset 1 = false ∧
    (u.slot whoReset).streams[(2 : Fin 4)] = none ∧ (u.slot whoReset).state ≠ .spilled ∧
    x.me.streams[(2 : Fin 4)] = some { stream1 with pos := 1 } ∧ x.me.cctx.ops = [o] ∧ o.num = { stream1 with pos := 1 }.num ∧
    v.me.streams[(2 : Fin 4)] = some { stream1 with wr := true } ∧ v.me.cctx.ops = [] ∧ s.me.streams[(1 : Fin 4)] = none := by decide +kernel

/-- Numbers 1, 3 and 5 with the timeline at 3 and 4 the last one issued: reached, at the value, not reached, not issued. -/
theorem witness_Timelines :
    let s (n : Word) := st fun sl => { (regs 0 n 0 sl) with cctx := ⟨4, 3, []⟩, mctx := ⟨4, 3, [], []⟩ }
    let w := st fun sl => { sl.park .timeline (.timeline .c 3 .wait) 0 with cctx := ⟨4, 3, []⟩ }
    let v := st fun sl => { sl.park .timeline (.timeline .c 4 .sync) 0 with cctx := ⟨4, 3, []⟩ }
    ((s 5).me.tlLast (tlName .c)).toNat < ((s 5).me.rs 2).toNat ∧ ((s 4).me.rs 2).toNat ≤ ((s 4).me.tlLast (tlName .c)).toNat ∧
    ((s 4).me.tlVal (tlName .c)).toNat < ((s 4).me.rs 2).toNat ∧ ((s 3).me.rs 2).toNat ≤ ((s 3).me.tlVal (tlName .c)).toNat ∧
    (s 0).me.cctx.faulted = none ∧ (w.slot whoReset).wait = .timeline .c 3 .wait ∧ (3 : Word).toNat ≤ (w.slot whoReset).cctx.tl.toNat ∧
    (v.slot whoReset).wait = .timeline .c 4 .sync ∧ (v.slot whoReset).cctx.tl.toNat < (4 : Word).toNat ∧
    (v.slot whoReset).state ≠ .spilled := by decide +kernel

/-- Offsets of a gather: lane 0 at 0x80 and the others switched off; lane 0 beyond the scratchpad. -/
theorem witness_VectorMemory :
    let off : VWord := BitVec.allOnes 512 - 0xFFFFFFFF + 0x80
    let s := st fun sl => sl.wv 1 off
    let u := st fun sl => regs 0x30000 0 0 sl
    PlainVector hd s ∧ laneBits .i32 = 8 * Width.w.bytes ∧ laneAt 32 (s.me.rv 1) 0 = 0x80 ∧
    (∀ j < 16, j ≠ 0 → laneAt 32 (s.me.rv 1) j = 0xFFFFFFFF) ∧ LocalOk 0x80 4 4 ∧ laneAt 32 (u.me.rv 1) 0 ≠ 0xFFFFFFFF ∧
    0x30000 < (u.me.rs 1 + (0 : BitVec 41).signExtend 64 + BitVec.ofNat 64 (laneAt 32 (u.me.rv 1) 0)).toNat + 4 := by decide +kernel

theorem witness_VectorRepeat :
    let p : Strip := ⟨0, 1, none, 0⟩
    let s := st fun sl => { sl with streams := #v[some { stream1 with buf := [p] }, none, none, none] }
    AtHome { hd with rep := true } s0 ∧ NoStreams s0 ∧ AtHome hd s ∧
    s.me.streams = #v[some { stream1 with buf := [p] }, none, none, none] ∧ stream1.wr = false ∧ p.fault = none ∧
    stream1.pos + p.n ≤ stream1.total ∧ 0 < p.n ∧ (3 : VReg).val < 12 ∧ s.me.fen = 0 := by decide +kernel

/-- A job of 16 by 16 by 16 in bf16, as `mma`'s words and as a descriptor; a drain of 16 by 16 to the core's own scratchpad. -/
def mmaW0 : Word := 256 * 2 ^ 36
def mmaW1 : Word := 16 + 16 * 2 ^ 7 + 16 * 2 ^ 14 + 1 * 2 ^ 48
def mjobDesc : List Byte := List.replicate 8 0 ++ [0, 1, 0, 0, 1, 16, 16, 0, 16] ++ List.replicate 47 0
def drainW0 : Word := 16 * 2 ^ 55 + 16 * 2 ^ 48 + 64 * 2 ^ 18
def matrixCore (f : Slot → Slot) : State :=
  (st f).modMyCore fun c => { c with fmt := c.fmt.set 0 1, sp := c.sp.write 0x400 mjobDesc }

theorem witness_MatrixIssue :
    let s := matrixCore (regs 0x400 0 mmaW0)
    let o : MatOp := ⟨1, .abort, s.myCore.fmt, .issued, [], .clean, none⟩
    let u := matrixCore fun sl => { sl with mctx := ⟨4, 3, [o], []⟩ }
    AtHome hd s ∧ s.me.mctx.outstanding < 8 ∧ (s.me.rs 2).extractLsb' 18 46 = 0 ∧ s.myCore.descriptor (s.me.rs 1) 64 = .inr mjobDesc ∧
    mjobReserved mjobDesc = false ∧ (mjobOf 0 false mjobDesc 0).detail s.myCore.fmt = none ∧
    mmaW0.extractLsb' 55 9 = 0 ∧ mmaW1.extractLsb' 53 11 = 0 ∧ (mmaOf 0 true mmaW0 mmaW1).detail s.myCore.fmt = none ∧
    ((match s.drainCheck ⟨0, 0, false, false, 0, false⟩ drainW0 0 with | .inr _ => true | .inl _ => false) = true) ∧
    (15 : Word).extractLsb' 4 60 = 0 ∧ (3 : Word).toNat ≤ u.me.mctx.tl.toNat ∧ u.me.mctx.tl.toNat ≤ u.me.mctx.last.toNat ∧
    u.me.mctx.tl.toNat < (4 : Word).toNat ∧ (4 : Word).toNat ≤ u.me.mctx.last.toNat ∧ u.me.mctx.last.toNat < (5 : Word).toNat := by
  decide +kernel

def guest0 : Guest := ⟨me0, 0, 9, Vector.replicate 32 5, Vector.replicate 8 true, 0, 0, 0, false⟩

def inSlot (i : Fin 16) (f : Slot → Slot) : State := { s0.modSlot ⟨⟨0, 0, 0⟩, i⟩ f with cur := ⟨⟨0, 0, 0⟩, i⟩ }

/-- One example of each detail; sizes at both ends of their ranges. -/
theorem witness_MatrixTraps :
    let f : Vector Word 12 := (matrixCore id).myCore.fmt
    let j : JobF := mmaOf 0 true mmaW0 mmaW1
    let legal (t : Nat) : Bool := decide (t = 1 ∨ t = 2 ∨ t = 3)
    let sizes (x : JobF) : Bool := decide (16 ≤ x.m ∧ x.m ≤ 64 ∧ 16 ≤ x.n ∧ x.n ≤ 64 ∧ x.k % 16 = 0 ∧ 16 ≤ x.k ∧ x.k ≤ 4096)
    let types (x : JobF) : Bool := decide ((x.a0 < 0x30000 → legal (fmtType (x.fmtA f))) ∧ legal x.bty ∧ (x.scaled = true → x.bty ≠ 1))
    (2 ^ 18 : Word).extractLsb' 18 46 ≠ 0 ∧ (2 ^ 55 : Word).extractLsb' 55 9 ≠ 0 ∧ (2 ^ 53 : Word).extractLsb' 53 11 ≠ 0 ∧
    (16 : Word).extractLsb' 4 60 ≠ 0 ∧ mjobReserved (List.replicate 64 255) = true ∧
    ¬ types { j with bty := 4 } ∧ ¬ types { j with scaled := true } ∧ types j ∧ types { j with a0 := 0x30000 } ∧
    (∀ x ∈ [{ j with m := 15 }, { j with m := 65 }, { j with n := 15 }, { j with k := 0 }, { j with k := 24 }, { j with k := 4112 }],
      ¬ sizes x) ∧ (∀ x ∈ [j, { j with m := 64, n := 64, k := 4096 }], sizes x) ∧
    j.badA f = false ∧ { j with a0 := 0x30000 }.badA f = true ∧ { j with a1 := 1 }.badA f = true ∧
    j.boff + spanBytes j.bty j.k ≤ 0x1F00 ∧ j.scaled = false ∧ j.boff % codeBytes j.bty = 0 ∧
    0x1F00 < 0x1EF0 + spanBytes j.bty j.k ∧ 1 % codeBytes j.bty ≠ 0 := by decide +kernel

/-- A descriptor that is misaligned; eight operations outstanding; a guest. -/
theorem witness_MatrixTraps_states :
    let s := matrixCore (regs 1 0 0)
    let r := matrixCore (regs 0x400 0 0)
    let o : MatOp := ⟨1, .abort, s.myCore.fmt, .issued, [], .clean, none⟩
    let e := matrixCore fun sl => { sl with mctx := ⟨8, 0, List.replicate 8 o, []⟩ }
    let u := inSlot 3 fun sl => { sl with state := .guest, hosting := some ⟨⟨1, whoReset⟩, 0, guest0⟩ }
    AtHome hd s ∧ s.me.state ≠ .handler ∧ (s.myCore.descriptor (s.me.rs 1) 64).isLeft = true ∧
    r.myCore.descriptor (r.me.rs 1) 64 = .inr mjobDesc ∧ (s.drainCheck ⟨0, 0, false, false, 0, false⟩ 0 0).isLeft = true ∧
    8 ≤ e.me.mctx.outstanding ∧ AtHome hd e ∧ Runs hd u ∧ u.me.hosting.isSome = true := by decide +kernel

def clr0 (t : MatSt) : MatOp := ⟨1, .clr 0, Vector.replicate 12 fmtRaw, t, [], .clean, none⟩
def cl0 : ClusterId := clusterOf ⟨0, 0, 0⟩
def engined (o : MatOp) (f : Engine → Engine) : State := (st fun sl => { sl with mctx := ⟨1, 0, [o], []⟩ }).modEngine cl0 f

/-- A job of no rows: what the engine has read of it is what stands now. -/
def job0 : JobF := { mmaOf 0 true mmaW0 mmaW1 with m := 0, n := 0, k := 0 }

theorem witness_MatrixUnits :
    let s := engined (clr0 .issued) id
    let a := engined (clr0 .accepted) fun e => { e with queue := [(whoReset, 1)] }
    let r := engined (clr0 .running) fun e => { e with job := some ⟨whoReset, 1⟩ }
    let o : MatOp := { clr0 .running with kind := .job job0, read := some ([], []) }
    let q := engined o fun e => { e with job := some ⟨whoReset, 1⟩ }
    let d := engined (clr0 .running) fun e => { e with drain := some ⟨whoReset, 1, 4, 3⟩ }
    (s.engine cl0).queue.length < 32 ∧ s.matNext cl0 = some (0, clr0 .issued) ∧ (s.engine cl0).claims[(0 : Fin 4)] = none ∧
    a.matReady cl0 false = some ((whoReset, 1), clr0 .accepted) ∧
    (r.engine cl0).job = some ⟨whoReset, 1⟩ ∧ r.matOp (whoReset, 1) = some (clr0 .running) ∧
    q.matOp (whoReset, 1) = some o ∧ o.over = false ∧ q.storesDone o.rel = true ∧ clusterOf whoReset.core = cl0 ∧
    o.read = some (job0.now q whoReset.core o.fmts) ∧
    (d.engine cl0).drain = some ⟨whoReset, 1, 4, 3⟩ ∧ d.drainFlying cl0 = false ∧ 3 < 4 := by decide +kernel

/-! ### Across modules -/

/-- A job with members 0 and 1, of which this module is the first. -/
def view01 : JobView := { JobView.fresh 0 with standing := .member, view := ⟨1, 3⟩ }
def viewed (f : Slot → Slot) : State := { st f with views := [view01] }

/-- A posted write of eight bytes at 0x40 of module 1. -/
def write1 (n : Nat) : Outst := ⟨n, 0, 0x10000000000040, 8, none, [1], [1], []⟩

theorem witness_RemoteAccesses :
    let x : Word := 0x10000000000040
    let s := viewed (regs x 0 0)
    let u := viewed fun sl => { regs x 0 0 sl with outst := List.replicate 8 (write1 0) }
    AtHome hd s ∧ NoStreams s ∧ Stays hd s x ∧ memAddr s.me 1 m8 = x ∧ amoAddr s.me 1 q8 = x ∧ s.remoteFault x false = none ∧
    s.remoteFault x true = none ∧ tileMod x ≠ s.modId ∧ s.me.behindWrites x 8 = [] ∧ u.me.behindWrites x 8 ≠ [] ∧
    s.remoteFull s.cur = false ∧ u.remoteFull u.cur = true ∧ s.me.state ≠ .handler ∧ (0x1000000000000 : Word).extractLsb' 48 3 ≠ 0 ∧
    (0x7FF0000000000040 : Word).extractLsb' 48 3 = 0 ∧ (0x7FF0000000000040 : Word).getLsbD 51 = false ∧
    s.inView s.cur (tileMod 0x7FF0000000000040) = false := by decide +kernel

/-- An entry that arrived before the cycle of the issue, and one of that cycle. -/
theorem witness_ErrorQueue :
    let s (n : Nat) := viewed fun sl => { sl with errq := [⟨0x40, 7, n⟩] }
    AtHome hd (s 0) ∧ (s 0).me.errq = [⟨0x40, 7, 0⟩] ∧ (0 : Nat) = (s 0).cycle ∧ (1 : Nat) ≠ (s 1).cycle := by decide +kernel

/-- The slot on module 0 of a job with members 0 and 1, whose register 1 names the word 0x100 of its own module. -/
def looping (f : Slot → Slot) : State := { paged f with views := [view01] }

theorem witness_RemoteCompletions :
    let s := looping id
    let x := memAddr s.me 1 m8
    AtHome hd s ∧ NoStreams s ∧ s.me.Quiet ∧ s.Whole ∧ s.net = [] ∧ s.poison = [] ∧ s.mem.wf = true ∧
    s.jobLaunches (s.jobOf s.cur) = [launch0 0] ∧ tileMod x = s.modId ∧ Stays hd s x ∧ s.remoteFault x false = none ∧
    amoAddr s.me 1 q8 = x ∧ s.remoteCheck (launch0 0).root x (.ld .d) = .ok [⟨0, 0x20100, 8, sparseLeaf, 1⟩] ∧
    s.remoteCheck (launch0 0).root x (.amo .add .d 1) = .ok [⟨0, 0x20100, 8, sparseLeaf, 1⟩] ∧
    s.remoteCheck (launch0 0).root x (.cas .d 0 1) = .ok [⟨0, 0x20100, 8, sparseLeaf, 1⟩] ∧ inWindow 0x20100 = false ∧
    s.me.rs 2 = 1 := by decide +kernel

/-- To its own module and to another, by the instruction and by the roam hint. -/
theorem witness_Roaming :
    let s := viewed (regs 0x10000000000040 0 0)
    let hr : Hdr := { hd with roam := true }
    AtHome hr s ∧ s.remoteFault (s.me.rs 0) false = none ∧ tileMod (s.me.rs 0) = s.modId ∧ s.remoteFault (s.me.rs 1) false = none ∧
    tileMod (s.me.rs 1) ≠ s.modId ∧ s.me.Quiet ∧ s.me.errq = [] ∧ s.remoteFault (memAddr s.me 1 m8) false = none ∧
    tileMod (memAddr s.me 1 m8) ≠ s.modId := by decide +kernel

/-- The packet on module 0, from module 1. -/
def fromOther (b : Body) (d : Dst) : Packet := ⟨.mdl 1, d, .notice, b⟩
def netted (f : Slot → Slot) (b : Body) (d : Dst) : State := { viewed f with net := [flight (fromOther b d)] }

theorem netted_arrives (f : Slot → Slot) (b : Body) (d : Dst) : (netted f b d).Arrives 0 (fromOther b d) := arrives1 _ _ rfl

theorem witness_Guests :
    let s := s0.modCore ⟨0, 0, 0⟩ fun c => { c with arrivals := [guest0] }
    let u := netted (fun sl => sl.park .roam .roam 0) (.home guest0 .plain) (.core ⟨0, 0, 0⟩)
    let v : State := { s0.modSlot ⟨⟨0, 0, 0⟩, 3⟩ fun sl => { sl with state := .guest, hosting := some ⟨⟨0, ⟨⟨0, 0, 0⟩, 5⟩⟩, 0, guest0⟩ } with
      cur := ⟨⟨0, 0, 0⟩, 3⟩ }
    s.net = [] ∧ (s.core ⟨0, 0, 0⟩).arrivals = [guest0] ∧ (s.core ⟨0, 0, 0⟩).poolSlots 0 ≠ [] ∧
    u.Arrives 0 (fromOther (.home guest0 .plain) (.core ⟨0, 0, 0⟩)) ∧ guest0.home.mod = u.modId ∧
    u.noticeOpen guest0.home.who.core = true ∧ (u.slot guest0.home.who).wait = .roam ∧ (u.slot whoReset).hosting = none ∧
    (u.slot whoReset).state ≠ .handler ∧ Runs hd v ∧ v.me.hosting = some ⟨⟨0, ⟨⟨0, 0, 0⟩, 5⟩⟩, 0, guest0⟩ ∧ v.me.Quiet ∧
    (v.slot ⟨⟨0, 0, 0⟩, 5⟩).errq = [] ∧ v.cur.slot ≠ 0 :=
  ⟨by decide +kernel, by decide +kernel, by decide +kernel, netted_arrives .., by decide +kernel⟩

def asksHere (op : ROp) (p : Bool) (m : Fin 4096) : State := netted id (.rreq ⟨m, whoReset⟩ 0 7 0x100 op p) (.mdl 0)
/-- The job of the request has a launch here, whose table maps its page. -/
def tree (s : State) : State := { s with launches := [launch0 7], mem := table 0xF810000000000200 }

theorem witness_RequestAtTarget :
    let s := tree (asksHere (.ld .d) false 0)
    let st := ROp.st .d [1, 2, 3, 4, 5, 6, 7, 8]
    ((asksHere (.ld .d) false 1).net[0]?.bind (·.work)) = none ∧ (asksHere (.ld .d) false 1).jobLaunches 7 = [] ∧
    s.jobLaunches 7 = [launch0 7] ∧ s.mem.wf = true ∧ s.poison = [] ∧ inWindow 0x20100 = false ∧ s.way none 0x20100 = .clear ∧
    s.remoteCheck (launch0 7).root 0x100 (.ld .d) = .ok [⟨0, 0x20100, 8, sparseLeaf, 1⟩] ∧
    s.remoteCheck (launch0 7).root 0x100 st = .ok [⟨0, 0x20100, 8, sparseLeaf, 1⟩] := by decide +kernel

theorem witness_RequestAtTarget_arrive :
    (asksHere (.ld .d) false 1).Arrives 0 (fromOther (.rreq ⟨1, whoReset⟩ 0 7 0x100 (.ld .d) false) (.mdl 0)) ∧
    (tree (asksHere (.ld .d) false 0)).Arrives 0 (fromOther (.rreq me0 0 7 0x100 (.ld .d) false) (.mdl 0)) := ⟨arrives1 _ _ rfl, arrives1 _ _ rfl⟩

/-- One target of one left, one of two left, and the report of a failure. -/
theorem witness_Answers :
    let rep := netted (fun sl => sl.park .remoteLoad (.remote 0 (.ld (.s 4) .d false .fabric false)) 0) (.rrep me0 0 (.ok [1])) (.core ⟨0, 0, 0⟩)
    let o (l : List (Fin 4096)) : Outst := ⟨0, 3, 0x100, 8, none, [1, 2], l, []⟩
    let ack (l : List (Fin 4096)) (r : Option WFail) := netted (fun sl => { sl with outst := [o l] }) (.rack me0 0 r) (.core ⟨0, 0, 0⟩)
    me0.mod = rep.modId ∧ (rep.slot whoReset).wait = .remote 0 (.ld (.s 4) .d false .fabric false) ∧
    ((ack [1] none).slot whoReset).outst.find? (·.id == 0) = some (o [1]) ∧ (o [1]).fails = [] ∧ (o [1]).left = [1] ∧
    ((ack [1, 2] none).slot whoReset).outst.find? (·.id == 0) = some (o [1, 2]) ∧ (1 : Fin 4096) ∈ (o [1, 2]).left ∧
    (2 : Fin 4096) ∈ (o [1, 2]).left ∧ (2 : Fin 4096) ≠ 1 ∧ (fromOther (.rack me0 0 none) .io).src = .mdl 1 ∧
    (srcMod (fromOther (.rack me0 0 none) .io).src).getD (ack [1] none).modId = 1 ∧ (1 : Fin 4096) ∉ (o [2]).left ∧ (o [2]).left ≠ [] ∧
    ((ack [2] none).slot whoReset).outst.find? (·.id == 0) = some (o [2]) ∧ (⟨0x21, 1, 1⟩ : WFail).peer = 1 ∧
    ((ack [1] (some ⟨0x21, 1, 1⟩)).slot whoReset).outst.find? (·.id == 0) = some (o [1]) ∧ (o [1]).home = none := by decide +kernel

theorem witness_Answers_arrive (f : Slot → Slot) :
    (netted f (.rrep me0 0 (.ok [1])) (.core ⟨0, 0, 0⟩)).Arrives 0 (fromOther (.rrep me0 0 (.ok [1])) (.core ⟨0, 0, 0⟩)) ∧
    (netted f (.rack me0 0 none) (.core ⟨0, 0, 0⟩)).Arrives 0 (fromOther (.rack me0 0 none) (.core ⟨0, 0, 0⟩)) :=
  ⟨netted_arrives .., netted_arrives ..⟩

/-- A counter at 5: reached by 5, not by 6; half the range away counts as not reached. -/
theorem witness_MailboxCounters :
    let s := (viewed (regs 0x10000000000005 0 0)).modMyCore fun c => { c with mb := c.mb.set 3 5 }
    let u := netted (fun sl => { sl with incs := [4] }) (.mbInc ⟨0, 0, 0⟩ 3 1 (some (me0, 4, 0))) (.core ⟨0, 0, 0⟩)
    AtHome hd s ∧ s.me.Quiet ∧ NoRelease s ∧ s.remoteFull s.cur = false ∧ s.mbName (s.me.rs 1) = .inr (⟨0, 0, 0⟩, 5) ∧
    s.mbName 7 = .inr (⟨0, 0, 0⟩, 7) ∧ tileMod 7 = s.modId ∧
    (s.me.rs 1).getLsbD 51 = false ∧ tileMod (s.me.rs 1) ≠ s.modId ∧ (s.myCore.mb[(3 : MbIdx)] - 5).toNat < 2 ^ 31 ∧
    2 ^ 31 ≤ (s.myCore.mb[(3 : MbIdx)] - 6).toNat ∧ u.noticeOpen ⟨0, 0, 0⟩ = true ∧ me0.mod = u.modId ∧ 4 ∈ (u.slot me0.who).incs := by
  decide +kernel

theorem witness_MailboxIncrement (f : Slot → Slot) (e : Option (Agent × Nat × BitVec 32)) :
    (netted f (.mbInc ⟨0, 0, 0⟩ 3 1 e) (.core ⟨0, 0, 0⟩)).Arrives 0 (fromOther (.mbInc ⟨0, 0, 0⟩ 3 1 e) (.core ⟨0, 0, 0⟩)) := netted_arrives ..

def buf0 : BufId := ⟨0, 0, 0, 0, .request, false⟩
def headed (n : Nat) : Flight := { flight (reqPacket .info) with buf := some buf0, headAt := some n }
def atSwitch : SwPacket := ⟨0, reqPacket .info, 5, some 1, 0, [], some 0, false, false⟩

theorem witness_Network :
    let s : State := { s0 with net := [headed 0], cycle := 70000 }
    let u : State := { s0 with net := [headed 70000], cycle := 70000 }
    let x : State := { s0 with switches := [(4, { Switch.reset with queue := [atSwitch] })], cycle := 70000 }
    let l (x : Ucie) : State := { s0 with ucieNb := s0.ucieNb.set 0 x, cycle := 100000 }
    s.bufHead buf0 = some 0 ∧ s.net[0]? = some (headed 0) ∧ (headed 0).esc = false ∧ (headed 0).headAt = some 0 ∧
    0 + s.agethr buf0.die ≤ s.cycle ∧ u.cycle < 70000 + u.agethr buf0.die ∧ s.bufHead { buf0 with esc := false } = some 0 ∧
    0 + s.dlkthr buf0.die ≤ s.cycle ∧ (x.switch 4).head 5 .request = some 0 ∧ (x.switch 4).queue[0]? = some atSwitch ∧
    atSwitch.headAt = some 0 ∧ 0 + x.settings.barchanAge ≤ x.cycle ∧
    ((l ⟨.up, 7⟩).link (.nb 0)).st = .up ∧ ((l ⟨.up, 7⟩).link (.nb 0)).replays < 8 ∧ 8 ≤ ((l ⟨.up, 8⟩).link (.nb 0)).replays ∧
    ((l ⟨.retrain 1, 0⟩).link (.nb 0)).st = .retrain 1 ∧ (l ⟨.retrain 1, 0⟩).cycle < 1 + 100000 ∧
    0 + 100000 ≤ (l ⟨.retrain 0, 0⟩).cycle ∧ (l ⟨.retrain 0, 0⟩).pins = [] := by decide +kernel

theorem witness_Network_still : ({ s0 with ucieNb := s0.ucieNb.set 0 ⟨.retrain 0, 0⟩, cycle := 100000 } : State).Still :=
  still_of _ rfl (by
    show ∀ x ∈ [(_, _)], _
    simp only [List.mem_singleton, forall_eq]
    decide +kernel)

theorem witness_ErgPorts :
    let s (p : Port) (n : Nat) : State := { s0 with ports := s0.ports.set 2 p, cycle := n }
    let f : Flit := ⟨0, 0, none, 0, []⟩
    let p := Port.reset
    (s p 0).ports[(2 : Fin 16)].st = .up ∧ f.ty = 0 ∧ f.payload = [] ∧ f.nak = none ∧ f.seq = p.expect ∧ p.held = [] ∧ p.gaps = [] ∧
    p.waiting = [] ∧ { p with naks := [(0, 8)] }.eight = true ∧ { p with naks := [(0, 7)] }.eight = false ∧
    2048 * (s p 4000).clock ≤ 1000 * ((s p 4000).cycle - 0) ∧ 1000 * ((s p 3000).cycle - 0) < 2048 * (s p 3000).clock ∧
    (s p 199999).cycle < 0 + 200000 ∧ 0 + 200000 ≤ (s p 200000).cycle ∧ p.unacked = [] ∧
    (∀ x ∈ (s p 0).planeSwitches (2 : Fin 16).val, x.2.queue = [] ∧ x.2.wait = [] ∧ x.2.replies = []) ∧
    ∃ j : Fin 16, j ≠ 2 ∧ (s p 0).ports[j].st ≠ .lost := by decide +kernel

def ramo (i : Fin 16) (x : Word) : Packet :=
  ⟨.slot ⟨0, ⟨⟨0, 0, 0⟩, i⟩⟩, .mdl 1, .request, .rreq ⟨0, ⟨⟨0, 0, 0⟩, i⟩⟩ 0 0 0x100 (.amo .add .d x) false⟩

/-- Two additions of two slots in one queue; the reply to the combined one, and one to no combined request; a multicast of two outputs, a packet of
the last stage bound for another module, one of the first stage. -/
theorem witness_Switches :
    let at_ (p : Packet) (o : Option Nat) (r : List Nat) : SwPacket := ⟨0, p, 5, o, 0, r, some 0, false, false⟩
    let rep : Packet := ⟨.mdl 1, .mdl 2, .reply, .rrep ⟨0, whoReset⟩ 0 (.ok [1])⟩
    let cast : Packet := { ramo 2 1 with dst := .group 4 }
    let put (n : Nat) (q : List SwPacket) (w : List Combined) : State :=
      { s0 with switches := [(n, ⟨q, w, [rep], [(4, [0, 1])], []⟩)] }
    let s := put 4 [at_ (ramo 2 5) (some 1) [], at_ (ramo 3 6) (some 1) []] [⟨ramo 0 5, ramo 3 6, 5⟩]
    let z := put 4 [at_ cast none []] []
    let y := put 70 [at_ (ramo 2 5) (some 1) [1]] []
    let x := put 4 [at_ (ramo 2 5) (some 1) [1]] []
    (0 : Nat) < 1 ∧ (s.switch 4).queue[0]? = some (at_ (ramo 2 5) (some 1) []) ∧
    (s.switch 4).queue[1]? = some (at_ (ramo 3 6) (some 1) []) ∧ (ramo 2 5).dst = (ramo 3 6).dst ∧
    s.oneLaunch (ramo 2 5).body (ramo 3 6).body = true ∧ (s.switch 4).wait.length < 512 ∧
    (((s.switch 4).queue.take 1).any fun q => (ramo 3 6).sameFlow q.pkt) = false ∧ (s.switch 4).replies[0]? = some rep ∧
    (s.switch 4).wait = [⟨ramo 0 5, ramo 3 6, 5⟩] ∧ (z.switch 4).wait = [] ∧ (z.switch 4).queue[0]? = some (at_ cast none []) ∧
    (z.switch 4).isHead 0 = true ∧ z.oldTag cast = false ∧ z.needs 4 (at_ cast none []) = [0, 1] ∧ (y.switch 70).queue[0]? = some (at_ (ramo 2 5) (some 1) [1]) ∧
    (y.switch 70).isHead 0 = true ∧ 70 / 32 % 3 = 2 ∧ Fin.ofNat 4096 (70 % 32 * 128 + 1) ≠ y.modId ∧
    (x.switch 4).queue[0]? = some (at_ (ramo 2 5) (some 1) [1]) ∧ (x.switch 4).isHead 0 = true ∧ 4 / 32 % 3 < 2 := by decide +kernel

/-! ### Collectives and views -/

def barDesc : List Byte := List.replicate 28 0 ++ [3, 7] ++ List.replicate 34 0
def repDesc : List Byte := List.replicate 32 0 ++ [0, 0, 0, 0, 1, 0, 0, 0, 16, 0, 0, 0, 0, 4] ++ List.replicate 18 0
def collOp0 : CollOp := collFields barDesc 0 1 []
def collecting (d : List Byte) (f : Slot → Slot) : State := { describing d f with views := [view01] }

theorem witness_CollectiveIssue :
    let s := collecting barDesc id
    let r := collecting repDesc id
    let u := collecting barDesc fun sl => { sl with xctx := ⟨8, 0, List.replicate 8 collOp0, false, none⟩ }
    let v := collecting barDesc fun sl => { sl with xctx := ⟨0, 0, [], true, none⟩ }
    let i : State := { s with views := [{ view01 with standing := .isolated }] }
    AtHome hd s ∧ s.myCore.descriptor (s.me.rs 1) 64 = .inr barDesc ∧
    collDetail barDesc (collFields barDesc (s.me.rs 2) 1 (s.release s.cur)) (s.viewOf (s.ownJob s.cur)).view = none ∧
    s.me.xctx.stale = false ∧ (s.viewOf (s.ownJob s.cur)).inside = true ∧ s.me.xctx.outstanding < 8 ∧
    r.myCore.descriptor (r.me.rs 1) 64 = .inr repDesc ∧ repartDetail repDesc (repartFields repDesc 1 []) = none ∧
    8 ≤ u.me.xctx.outstanding ∧ v.me.xctx.stale = true ∧ (i.viewOf (i.ownJob i.cur)).inside = false ∧
    collDetail repDesc (collFields repDesc 0 1 []) view01.view ≠ none ∧ repartDetail barDesc (repartFields barDesc 1 []) ≠ none := by
  decide +kernel

theorem witness_ViewInstructions :
    let s := collecting barDesc fun sl => { (sl.ws 3 1) with xctx := ⟨0, 0, [], true, none⟩ }
    let u := viewed fun sl => sl.park .view (.view 3 5 0) 0
    (u.slot whoReset).wait = .view 3 5 0 ∧ (u.slot whoReset).state ≠ .spilled ∧ s.me.xctx.stale = true ∧
    (s.me.rs 3).setWidth 32 = (s.viewOf (s.ownJob s.cur)).view.num ∧ (s.me.rs 2).setWidth 32 ≠ (s.viewOf (s.ownJob s.cur)).view.num := by
  decide +kernel

def unitColl (o : CollOp) (m : Fin 4096) (box : List (CollTag × CollBody)) : State :=
  { st fun sl => { sl with xctx := ⟨1, 0, [o], false, none⟩ } with
    modId := m, views := [{ view01 with inbox := box }], net := [] }

theorem witness_CollectiveSteps :
    let q := unitColl collOp0 0 []
    let o : CollOp := { collOp0 with st := .running, view := 1, members := 2 }
    let r := unitColl o 0 [(o.tag 0, .final [])]
    let f : CollOp := { o with st := .final }
    let l := unitColl f 1 [(o.tag 0, .release)]
    let w : CollOp := { o with st := .writing }
    q.collOp whoReset 1 = some collOp0 ∧ collOp0.num = 1 ∧ collOp0.st = .queued ∧ (q.viewOf (q.ownJob whoReset)).standing = .member ∧
    (q.slot whoReset).xctx.ops.head? = some collOp0 ∧ q.storesDone collOp0.rel = true ∧
    q.stagingUsed + ({ collOp0 with st := CollSt.matching }).staged ≤ q.settings.staging * 2 ^ 20 ∧
    finalOf (r.mail (o.tag (r.ownJob whoReset))) = some [] ∧ o.view = (r.viewOf (r.ownJob whoReset)).view.num ∧
    l.collLeader whoReset ≠ l.modId ∧ .release ∈ l.mail (f.tag (l.ownJob whoReset)) ∧
    w.p.repart = false ∧ w.p.kind = 3 ∧ w.record = 0 ∧ w.notify = none ∧ w.status = 0 ∧
    ((unitColl w 0 []).slot whoReset).xctx.ops = [w] ∧ (r.viewOf (r.ownJob whoReset)).standing = .member := by decide +kernel

theorem witness_CollectiveCombine :
    let o : CollOp := { collOp0 with st := .running, view := 1, members := 2 }
    let t := o.tag 0
    let s := unitColl o 0 [(t, .part 0 1 []), (t, .part 1 2 [])]
    ((s.jobColls t.job).find? fun z => decide (z.2.tag t.job = t)) = some (whoReset, o) ∧ t.view = (s.viewOf t.job).view.num ∧
    (s.viewOf t.job).inbox[0]? = some (t, .part 0 1 []) ∧ (s.viewOf t.job).inbox[1]? = some (t, .part 1 2 []) ∧
    siblings o.members 0 1 1 2 = true := by decide +kernel

theorem witness_RepartitionSteps :
    let o : CollOp := { repartFields repDesc 1 [] with st := .running, view := 1, members := 2 }
    let t := o.tag 0
    let g : List Word := List.replicate 16 1
    let s := unitColl o 0 [(t, .hist 0 g), (t, .hist 1 g)]
    let h : State := { s with modes := Modes.set s.modes .splitters true }
    let k := unitColl o 0 [(t, .splits [5, 9])]
    let r := unitColl { o with grants := 2 } 0 [(t, .recs 0 []), (t, .recs 1 [])]
    let q : State := { viewed id with splitReqs := [⟨0, 3, 4, g, 16⟩] }
    s.collOp whoReset 1 = some o ∧ o.num = 1 ∧ o.st = .running ∧ o.p.repart = true ∧ s.collLeader whoReset = s.modId ∧
    (histSum (s.mail (o.tag (s.ownJob whoReset))) o.members o.p.h).isSome = true ∧ h.hostSplits (h.ownJob whoReset) = true ∧
    o.split = [] ∧ (k.mail (o.tag (k.ownJob whoReset))).head? = some (.splits [5, 9]) ∧
    o.members ≤ ((r.mail (o.tag (r.ownJob whoReset))).filterMap fun b => match b with | .recs q x => some (q, x) | _ => none).length ∧
    q.splitReq 0 3 4 = some ⟨0, 3, 4, g, 16⟩ ∧ q.keysOk 0 [7] = true := by decide +kernel

theorem witness_Suspicion :
    let s : State := { viewed id with cycle := 2 ^ 40 }
    let u : State := { s with modId := 1, views := [view01] }
    let x : State := { s with views := [{ view01 with standing := .changing }] }
    s.hostViews 0 = false ∧ ({ view01 with suspects := [1] }.leader = some 0) ∧ s.silent view01 1 = true ∧ (1 : Fin 4096) ≠ s.modId ∧
    view01.view.has 1 = true ∧ (1 : Fin 4096) ∉ view01.suspects ∧ view01.inside = true ∧
    (u.hostViews 0 = false) ∧ ({ view01 with suspects := [5] }.leader ≠ some u.modId) ∧
    (u.viewOf 0).leader = some 0 ∧ (0 : Fin 4096) ≠ u.modId ∧ s.beatDue view01 = true ∧ x.cutOff (x.viewOf 0) = true := by decide +kernel

theorem members_three : View.members ⟨2, 7⟩ = [0, 1, 2] := by decide +kernel
theorem members_two : View.members ⟨1, 3⟩ = [0, 1] := by decide +kernel
theorem members_two' : View.members ⟨2, 3⟩ = [0, 1] := by decide +kernel

theorem witness_Agreement_members :
    (∃ m ∈ View.members ⟨2, 7⟩, m ≠ 1 ∧ ∀ x ∈ [((0 : Fin 4096), ([] : List (Fin 16 × Nat)))], x.1 ≠ m) ∧
    (∀ m ∈ View.members ⟨2, 3⟩, m = 1 ∨ ∃ x ∈ [((0 : Fin 4096), ([] : List (Fin 16 × Nat)))], x.1 = m) ∧
    (View.members ⟨1, 3⟩).length < 2 * (View.members ⟨2, 3⟩).length := by
  rw [members_three, members_two, members_two']
  exact ⟨⟨2, by simp, by decide⟩, by simp, by decide⟩

theorem witness_Agreement :
    let s := viewed id
    let p : Proposal := ⟨0, 2, 7, true⟩
    let c : Campaign := ⟨p, 0, [(0, [])]⟩
    let u : State := { s with views := [{ view01 with campaign := some c, accepted := some p, standing := .changing }], cycle := 2 ^ 40 }
    s.net = [] ∧ s.accepts 0 1 2 false = true ∧ (u.viewOf 0).campaign = some c ∧ c.prop.num = 2 ∧ c.prop.bitmap.getLsbD 1 = true ∧
    c.accepts = [(0, [])] ∧ view01.view = ⟨1, 3⟩ ∧ c.prop.join = true ∧ c.at_ + u.settings.agree ≤ u.cycle ∧ (u.viewOf 0).leader = some u.modId ∧ (u.viewOf 0).inside = true ∧
    (u.viewOf 0).view.has 2 = false ∧ (u.viewOf 0).accepted = some p ∧ p.num = 2 ∧ p.join = true := by decide +kernel

/-- A changing module that accepted the view, a joining one, one the new view does not name, one with no view, an isolated one. -/
theorem witness_Installation :
    let p : Proposal := ⟨0, 2, 3, false⟩
    let s : State := { viewed id with views := [{ view01 with standing := .changing, accepted := some p }] }
    let j : State := { viewed id with views := [{ view01 with standing := .joining }] }
    let u : State := { viewed id with views := [{ view01 with standing := .isolated }] }
    s.net = [] ∧ (s.viewOf 0).standing = .changing ∧ (s.viewOf 0).accepted = some p ∧ p.num = 2 ∧ p.bitmap = 3 ∧
    (j.viewOf 0).standing = .joining ∧ (3 : BitVec 4096).getLsbD s.modId.val = true ∧ s.jobColls 0 = [] ∧ (s.viewOf 0).view = ⟨1, 3⟩ ∧
    (1 : BitVec 32) < 2 ∧ (1 : BitVec 32) ≤ 1 ∧ (2 : BitVec 4096).getLsbD s.modId.val = false ∧ (s0.viewOf 0).view = ⟨0, 0⟩ ∧
    (s0.viewOf 0).standing ≠ .isolated ∧ s0.jobColls 0 = [] ∧ u.views = [{ view01 with standing := .isolated }] := by
  decide +kernel

theorem witness_Installation_members :
    (∀ m ∈ View.members ⟨1, 3⟩, (⟨2, 3⟩ : View).has m = true) ∧ ∀ m ∈ View.members ⟨0, 0⟩, (⟨1, 3⟩ : View).has m = true := by
  refine ⟨?_, ?_⟩
  · rw [members_two]
    simp [View.has]
  · rw [show View.members ⟨0, 0⟩ = [] by decide +kernel]
    simp

/-! ### Control flow, tasks, barriers -/

theorem witness_Branches :
    (st (regs 1 0 0)).me.rs 1 = 1 ∧ (st (regs 2 0 0)).me.rs 1 ≠ 1 ∧ holds { hd with pred := 1 } s0.me = false := by decide +kernel

theorem witness_StopsAndPauses :
    let w : Who := ⟨⟨0, 0, 0⟩, 3⟩
    let s := inSlot 3 fun sl => { sl with haltReq := true, state := .running }
    (s.slot w).haltReq = true ∧ (s.slot w).state ≠ .pool ∧ (s.slot w).hosting = none ∧ w.slot ≠ 0 ∧
    ((st fun sl => sl.park .pause (.pause 0) 0).slot whoReset).wait = .pause 0 ∧ 0 ≤ s0.rot ∧
    (s0.me.rsi (.imm 0)).toNat % 65536 = 0 ∧ ((st (regs 0x1FFFF 0 0)).me.rsi (.s 1)).toNat % 65536 ≠ 0 := by decide +kernel

theorem witness_Blocks :
    let b : BlockBuf := ⟨4, 2, [1, 2]⟩
    let s := s0.modMyCore fun c => { c with icache := [(4, 1), (5, 2)], blockBuf := #v[some b, none] }
    let u := inSlot 3 fun sl => { sl with state := .running }
    AsSteward hd s ∧ s.myCore.blockWords 4 2 = some [1, 2] ∧ s.myCore.bufBusy 1 = false ∧ s.myCore.blockWords 9 2 = none ∧
    (0x0001 : BitVec 16) &&& 0xFFFE = 0 ∧ (0x0008 : BitVec 16) &&& 0xFFFE ≠ 0 ∧ s.myCore.blockReady 8 4 2 = true ∧
    (s.myCore.bufOf 4 2).isSome = true ∧
    ({ u.myCore with blockBuf := #v[some b, none] } : Core).blockReady 8 4 2 = false ∧
    ((s.mod fun sl => sl.park .slotPool (.bcast 8 4 2) 0).slot whoReset).wait = .bcast 8 4 2 := by decide +kernel

theorem witness_Steward :
    let u := inSlot 3 fun sl => { sl with state := .running }
    (Fin.ofNat 16 (s0.me.rs 0).toNat : Fin 16) = 0 ∧ (s0.slot ⟨⟨0, 0, 0⟩, 5⟩).state = .pool ∧ (s0.slot ⟨⟨0, 0, 0⟩, 5⟩).reserved = false ∧
    (u.slot ⟨⟨0, 0, 0⟩, 3⟩).state ≠ .pool ∧ s0.myCore.busyMask 8 = 0 ∧ u.myCore.busyMask 8 ≠ 0 ∧
    u.cur.slot ≠ 0 ∧ u.me.hosting = none ∧ u.me.state ≠ .handler := by decide +kernel

theorem witness_FetchEvents :
    let s := sparsePage.mod fun sl => sl.park .fetch (.fetch 5) 0
    5 ∈ fetchPcs (s.slot whoReset) ∧ s.fetchWord whoReset 5 = .word 0 := by decide +kernel

def taskDesc : List Byte := List.replicate 64 0

theorem witness_Spawns :
    let s := describing taskDesc id
    let t : Task := ⟨0, 0, 0, 0, false, false, 0, 0⟩
    NoRelease s ∧ s.myCore.readTask (s.me.rs 1) = .inr t ∧ s.me.tctx.outstanding < 8 ∧ (s.me.rs 2).extractLsb' 38 26 = 0 ∧
    (s.me.rs 2).setWidth 32 &&& 0xF0008800#32 = 0 ∧ s.spawnTarget (s.me.rs 2) = some (0, [⟨0, 0, 0⟩]) ∧
    s.inView s.cur (tileMod (s.me.rs 2)) = true ∧ AtHome hd s ∧ (s.me.rs 2).toNat / 2 ^ 48 % 16 = 0 ∧ s.me.rs 2 = 0 ∧
    t.gated = false ∧ s.myCore.queueRoom t.prio = true ∧
    ({ s.myCore with
        queues := s.myCore.queues.set 1 (List.replicate 32 ⟨t, false, false, false, []⟩)
        overflow := s.myCore.overflow.set 1 (List.replicate 4096 ⟨t, false, false, false, []⟩) } : Core).queueRoom 1 = false ∧
    (st (regs 7 0 0)).myCore.readTask 7 = .inl 2 := by decide +kernel

def task1 : QEntry := ⟨⟨40, 1, 2, 0, false, false, 0, 0⟩, false, false, false, []⟩

theorem witness_TaskInstructions :
    let s := s0.modMyCore fun c => { c with queues := c.queues.set 0 [task1], sp := c.sp.write 0x40 [2] }
    LocalOk (s.me.rs 1 &&& 0x3FFFF#64) 64 64 ∧ NoRelease s ∧ s.clean s.cur = true ∧ s.myCore.bottom (popMask 0) = some (0, task1) ∧ s0.myCore.bottom (popMask 0) = none ∧
    (0x40 : Nat) % 32 = 0 ∧ 0x40 + 32 ≤ 0x30000 ∧ s.myCore.sp.num (0x40 + 4) 4 < 8 ∧ 1 < s.myCore.sp.num 0x40 4 ∧
    s.myCore.sp.num 0x80 4 = 0 ∧ (s0.modMyCore fun c => { c with sp := c.sp.write 0xC0 [1] }).myCore.sp.num 0xC0 4 = 1 ∧
    s.myCore.queueRoom 0 = true ∧ (0x10 : Nat) % 32 ≠ 0 ∧ 0x30000 < 0x2FFF0 + 32 := by decide +kernel

theorem witness_TaskEvents :
    let b (q : QEntry) : Body := .task me0 1 0 ⟨0, 0, 0⟩ q
    let s := netted id (b task1) (.core ⟨0, 0, 0⟩)
    let u := netted id (.task me0 1 9 ⟨0, 0, 0⟩ task1) (.core ⟨0, 0, 0⟩)
    let g := (netted id (.gate ⟨0, 0, 0⟩ 4 false) (.core ⟨0, 0, 0⟩)).modCore ⟨0, 0, 0⟩ fun c => { c with gates := [⟨4, task1, none⟩] }
    let j := netted id (.join me0 1 0 ⟨0, 0, 0⟩ 0x40 false) (.core ⟨0, 0, 0⟩)
    let r := s0.modMyCore fun c => { c with queues := c.queues.set 0 [task1], taskCtl := c.taskCtl ||| 0xF7, slots := c.slots.set 0 { c.slots[0] with state := .running } }
    (u.jobLaunchOf 9 ⟨0, 0, 0⟩) = none ∧ (s.jobLaunchOf 0 ⟨0, 0, 0⟩).isSome = true ∧
    s.noticeOpen ⟨0, 0, 0⟩ = true ∧ (s.core ⟨0, 0, 0⟩).inbound = [] ∧ (s.core ⟨0, 0, 0⟩).taskRoom task1 = true ∧
    ((g.core ⟨0, 0, 0⟩).gates.find? (·.gid == 4)) = some ⟨4, task1, none⟩ ∧ (g.core ⟨0, 0, 0⟩).queueRoom 0 = true ∧
    (j.joinStep ⟨0, 0, 0⟩ 0x40).isSome = true ∧ (j.jobLaunchOf 0 ⟨0, 0, 0⟩).isSome = true ∧ j.noticeOpen ⟨0, 0, 0⟩ = true ∧
    g.noticeOpen ⟨0, 0, 0⟩ = true ∧
    (r.core ⟨0, 0, 0⟩).dispatches = true ∧ (r.core ⟨0, 0, 0⟩).freeSlots 0 ≠ [] ∧
    (r.core ⟨0, 0, 0⟩).bottom (r.core ⟨0, 0, 0⟩).enabledQueue = some (0, task1) ∧ r.thief ⟨0, 0, 0⟩ = true ∧
    (r.victim cl0 0).isSome = true := by decide +kernel

theorem witness_TaskEvents_arrive (job : BitVec 32) :
    let c : CoreId := ⟨0, 0, 0⟩
    (netted id (.task me0 1 job c task1) (.core c)).Arrives 0 (fromOther (.task me0 1 job c task1) (.core c)) ∧
    (netted id (.gate c 4 false) (.core c)).Arrives 0 (fromOther (.gate c 4 false) (.core c)) ∧
    (netted id (.join me0 1 0 c 0x40 false) (.core c)).Arrives 0 (fromOther (.join me0 1 0 c 0x40 false) (.core c)) :=
  ⟨netted_arrives .., netted_arrives .., netted_arrives ..⟩

theorem witness_Barriers :
    let b (x : Barrier) := s0.modEngine cl0 fun e => { e with barriers := e.barriers.set 3 x }
    ((b ⟨none, 2, 1, 0⟩).barrier whoReset 3).owner = none ∧ ((b ⟨none, 2, 1, 0⟩).barrier whoReset 3).arrived ≠ 0 ∧
    ((b ⟨some 0, 2, 0, 0⟩).barrier whoReset 3).owner = s0.myCore.launch ∧ ((b ⟨some 0, 2, 0, 0⟩).barrier whoReset 3).arrived = 0 ∧
    ((b ⟨some 0, 2, 0, 0⟩).barrier whoReset 3).count ≠ 0 ∧
    ((b ⟨some 0, 2, 0, 0⟩).barrier whoReset 3).arrived + 1 ≠ ((b ⟨some 0, 2, 0, 0⟩).barrier whoReset 3).count ∧
    ((b ⟨some 0, 2, 1, 0⟩).barrier whoReset 3).arrived + 1 = ((b ⟨some 0, 2, 1, 0⟩).barrier whoReset 3).count ∧
    ((b ⟨some 9, 2, 1, 0⟩).barrier whoReset 3).owner ≠ none ∧ ((b ⟨some 9, 2, 1, 0⟩).barrier whoReset 3).owner ≠ s0.myCore.launch := by
  decide +kernel

/-! ### Traps, the host, all instructions -/

def handling (f : Slot → Slot) : State := st fun sl => { f sl with state := .handler }

theorem witness_Traps :
    s0.me.hosting = none ∧ s0.me.state ≠ .handler ∧ Runs hd (handling id) ∧ (handling id).me.state = .handler ∧
    (handling id).me.haltReq = false ∧ (handling fun sl => { sl with haltReq := true }).me.haltReq = true ∧
    (inSlot 3 fun sl => { sl with state := .handler, haltReq := true }).cur.slot ≠ 0 ∧
    (inSlot 3 fun sl => { sl with state := .handler, haltReq := true }).me.haltReq = true := by decide +kernel

theorem witness_ControlRegisters : ctlWritable 14 = true ∧ ctlWritable 3 = true ∧ ctlWritable 17 = true ∧ ctlWritable 0 = false := by decide

theorem witness_Messages :
    let e := st fun sl => sl.park .fpException (.fpEx 1 5) 0
    let m : Msg := ⟨0, 0, 0, 7, 9⟩
    let n := netted id (.msg ⟨0, 0, 0⟩ m) (.core ⟨0, 0, 0⟩)
    let b := s0.modMyCore fun c => { c with msgIn := [m] }
    s0.smsgTarget (s0.me.rs 1) = some whoReset ∧ (e.slot whoReset).wait = .fpEx 1 5 ∧ (e.slot whoReset).reply = none ∧
    s0.smsgTarget 0x800 = none ∧ n.noticeOpen ⟨0, 0, 0⟩ = true ∧ (n.core ⟨0, 0, 0⟩).sp.wf = true ∧ (n.core ⟨0, 0, 0⟩).ringOpen = true ∧
    (n.core ⟨0, 0, 0⟩).msgIn = [] ∧ (b.core ⟨0, 0, 0⟩).msgIn = [m] ∧ (1 : BitVec 4) ≠ 0 := by decide +kernel

theorem witness_Messages_arrive (m : Msg) :
    (netted id (.msg ⟨0, 0, 0⟩ m) (.core ⟨0, 0, 0⟩)).Arrives 0 (fromOther (.msg ⟨0, 0, 0⟩ m) (.core ⟨0, 0, 0⟩)) := netted_arrives ..

theorem witness_AsynchronousTraps :
    let t : State := { st fun sl => { sl with tmr := 1 } with cycle := 16 }
    let p := st fun sl => { sl with pendTimer := true, pendCopy := some 1, pendMember := some 2, pendSpawn := some 3 }
    let w : State := { st fun sl => sl.park .mailbox (.mailbox 3 5) 0 with cycle := 2 ^ 40 }
    (t.slot whoReset).counting t.rot = true ∧ (t.slot whoReset).tmr = 1 ∧ (p.slot whoReset).hosting = none ∧
    (p.slot whoReset).state = .running ∧ (p.slot whoReset).wait = .none ∧ (p.slot whoReset).pendTimer = true ∧
    (p.slot whoReset).pendCopy = some 1 ∧ (p.slot whoReset).pendMember = some 2 ∧ (p.slot whoReset).pendSpawn = some 3 ∧
    (w.slot whoReset).state = .parked ∧ (w.slot whoReset).watched = some (3, 0) ∧ w.overdue whoReset = true ∧
    (w.slot whoReset).stand = .now 0 false := by decide +kernel

theorem witness_Spills :
    let u := inSlot 0 id
    let r : SpillReq := ⟨3, false, none, none, none⟩
    let q (n : Nat) := (s0.modSlot ⟨⟨0, 0, 0⟩, 3⟩ fun sl => { sl with state := .running }).modMyCore fun c =>
      { c with spillQ := List.replicate n r }
    let v : State := { q 1 with launches := sparsePage.launches, mem := sparsePage.mem }
    u.cur.slot = 0 ∧ (3 : Fin 16) ≠ u.cur.slot ∧ (s0.myCore.slots[(3 : Fin 16)]).state = .pool ∧
    ((q 0).myCore.slots[(3 : Fin 16)]).state = .running ∧ (q 0).myCore.requested 3 = false ∧ (q 1).myCore.requested 3 = true ∧
    16 ≤ ((q 16).myCore).spillQ.length ∧ (q 16).myCore.requested 5 = false ∧ ((q 0).myCore).spillQ.length < 16 ∧
    ((v.core ⟨0, 0, 0⟩).spillQ = [r]) ∧ (v.slot ⟨⟨0, 0, 0⟩, 3⟩).hosting = none ∧ (v.slot ⟨⟨0, 0, 0⟩, 3⟩).wait = .none ∧
    (v.slot ⟨⟨0, 0, 0⟩, 3⟩).draining? = false ∧ (v.areaSegs ⟨⟨0, 0, 0⟩, 3⟩ (v.slot ⟨⟨0, 0, 0⟩, 3⟩).tsave .store).isSome = true := by
  decide +kernel

/-- Slot 3 of the steward's core spilled, its area at address 0 of the first page. -/
def spilled3 : State :=
  { (paged fun sl => { sl with s := sl.s.set 1 3 }).modSlot ⟨⟨0, 0, 0⟩, 3⟩ fun sl => { sl with state := .spilled } with
    cur := whoReset, mem := (table 0xF810000000000200).put 0x20678 2 }

theorem witness_Spills_unspill :
    let s := spilled3
    let i : Fin 16 := Fin.ofNat 16 (s.me.rs 1).toNat
    s.myCore.spillQ = [] ∧ i ≠ s.cur.slot ∧ s.myCore.slots[i].state = .spilled ∧ s.me.state ≠ .spilled ∧ s.me.Quiet ∧
    s.areaSegs s.cur s.myCore.slots[i].tsave .load =
      some ((List.range 16).map fun i => ⟨256 * i, 0x20000 + 256 * i, 256, sparseLeaf, 1⟩) := by decide +kernel

theorem write_zeros : ∀ (n a k : Nat) (b : Byte), (Memory.write [] a (List.replicate n 0) = []) ∧
    (k < a → Memory.write [(k, b)] a (List.replicate n 0) = [(k, b)])
  | 0, _, _, _ => ⟨rfl, fun _ => rfl⟩
  | n + 1, a, k, b => by
    refine ⟨(write_zeros n (a + 1) k b).1, fun h => ?_⟩
    have h1 : ¬ a < k := by omega
    have h2 : ¬ a = k := by omega
    simpa [List.replicate_succ, Memory.write, Memory.put, h1, h2] using (write_zeros n (a + 1) k b).2 (by omega)

theorem write_append (m : Memory) (a : Nat) (x y : List Byte) :
    Memory.write m a (x ++ y) = Memory.write (Memory.write m a x) (a + x.length) y := by
  induction x generalizing m a with
  | nil => rfl
  | cons b r ih => simp only [List.cons_append, Memory.write, List.length_cons, ih, Nat.add_assoc, Nat.add_comm 1]

/-- The saved state code 2, every other byte of the area zero. -/
theorem witness_Spills_area :
    areaOk (Memory.write [] 0 (((List.range 16).map fun i => (⟨256 * i, 0x20000 + 256 * i, 256, sparseLeaf, 1⟩ : Seg)).map fun g =>
      spilled3.gread g.pa g.len).flatten) = true := by
  have hb : (((List.range 16).map fun i => (⟨256 * i, 0x20000 + 256 * i, 256, sparseLeaf, 1⟩ : Seg)).map fun g => spilled3.gread g.pa g.len) =
      List.replicate 6 (List.replicate 256 0) ++ ((List.replicate 0x78 0 ++ 2 :: List.replicate 0x87 0) :: List.replicate 9 (List.replicate 256 0)) := by
    decide +kernel
  have hf : (List.replicate 6 (List.replicate 256 (0 : Byte)) ++ ((List.replicate 0x78 0 ++ 2 :: List.replicate 0x87 0) ::
      List.replicate 9 (List.replicate 256 0))).flatten = List.replicate 0x678 0 ++ 2 :: List.replicate 0x987 0 := by
    rw [List.flatten_append, List.flatten_cons, List.flatten_replicate_replicate, List.flatten_replicate_replicate,
      show 0x678 = 6 * 256 + 0x78 from rfl, show 0x987 = 0x87 + 9 * 256 from rfl]
    simp only [List.append_assoc, List.cons_append, List.replicate_append_replicate, ← List.append_assoc]
    rw [List.append_assoc, List.cons_append, List.replicate_append_replicate]
  rw [hb, hf, write_append, (write_zeros _ _ 0 0).1, List.length_replicate, Memory.write,
    show Memory.put [] (0 + 0x678) 2 = [(0x678, 2)] from rfl, (write_zeros _ _ 0x678 2).2 (by decide)]
  decide +kernel

/-- A launch of core (1, 0, 0) with its image at address 0 and no preload; one with an unaligned root. -/
def launchDesc (root : Byte) : List Byte :=
  [0, 0, 0, 0, 0, 0, 0, 0, root, 0x40, 0, 0, 0, 0, 0, 0] ++ List.replicate 28 0 ++ [1] ++ List.replicate 27 0 ++
    (List.replicate 12 [8, 0, 0, 0, 0, 0, 0, 0]).flatten ++ List.replicate 24 0

def launching : State := { State.reset with mem := sparsePage.mem.put 0x20000 1 }

theorem witness_Launches :
    let k (r : Byte) := launchOfDesc State.reset.nextLaunch 0 7 (launchDesc r)
    let e : State := { s0 with launches := [⟨0, 0, 0, 0, 0, 0, 0, 0, 0, 0, 0, 0, 0, 0⟩] }
    let x := e.modMyCore fun c => { c with slots := Vector.replicate 16 (Slot.reset .pool) |>.set 0 (Slot.reset .exit) }
    State.reset.launchCheck (k 1) (launchDesc 1) = .inl 1 ∧
    (match launching.launchCheck (k 0) (launchDesc 0) with | .inr _ => true | .inl _ => false) = true ∧
    (∀ c ∈ (k 0).cores, (launching.slot ⟨c, 0⟩).hosting = none) ∧
    (x.launches.find? fun l => l.id == 0) = some ⟨0, 0, 0, 0, 0, 0, 0, 0, 0, 0, 0, 0, 0, 0⟩ ∧
    x.launchOver ⟨0, 0, 0, 0, 0, 0, 0, 0, 0, 0, 0, 0, 0, 0⟩ = true := by decide +kernel

theorem witness_HostLink :
    let p : QueuePair := s0.qpairs[(0 : Fin 64)]
    let s : State := { s0 with hostMem := [(8, 9)] }
    let x : Pending := ⟨7, none, 0, 0, some (0, 0, 0, 5)⟩
    let u : State := { s0 with pend := s0.pend.set 2 [⟨0, 7⟩] }
    let v : State := { s0 with eventRoom := 1 }
    p.head % 2 ^ p.n = (0 : BitVec 16).toNat % 2 ^ p.n ∧ p.head % 2 ^ p.n ≠ (1 : BitVec 16).toNat % 2 ^ p.n ∧
    (p.head + 1) % 2 ^ p.n = (1 : BitVec 16).toNat % 2 ^ p.n ∧ numAt (s.hostMem.read (p.sub + 64 * (p.head % 2 ^ p.n)) 64) 8 8 % 64 ≠ 0 ∧
    x.done = some (0, 0, 0, 5) ∧ 0 < p.cplFree ∧ u.pendStack 0 (0x38000 / 32768) = some 2 ∧ u.pendStack 0 8 = none ∧
    (v.dieBuf[(0 : DieId)]).length ≤ v.eventRoom ∧ 0 < v.eventRoom ∧ v.dieHeld[(0 : DieId)] = [] ∧
    s0.jormal.expect = Fin.ofNat 4096 4096 ∧ s0.jormal.held = [] ∧ 1024 ≤ (Fin.ofNat 4096 1024 - s0.jormal.expect).val ∧
    1024 ≤ (Fin.ofNat 4096 4095 - s0.jormal.expect).val ∧ (List.replicate 256 (0 : Byte)).length = 256 ∧ State.reset.launches = [] ∧
    s0.launches ≠ [] := by decide +kernel

/-- A submission entry at the start of the ring whose descriptor of a launch lies at 0x100. -/
def submitting (root : Byte) : State :=
  { launching with hostMem := (Memory.write [] 0 [1, 0, 0, 0, 7, 0, 0, 0, 0, 1]).write 0x100 (launchDesc root) }

theorem witness_HostLink_launch :
    let e (r : Byte) := (submitting r).hostMem.read 0 64
    let d (r : Byte) := (submitting r).hostMem.read (numAt (e r) 8 8) 192
    (submitting 0).qpairs[(0 : Fin 64)].sub = 0 ∧ numAt (e 0) 8 8 % 64 = 0 ∧ numAt (e 0) 0 1 = 1 ∧
    (submitting 1).launchCheck (launchOfDesc 0 0 7 (d 1)) (d 1) = .inl 1 ∧
    ((submitting 0).launchCheck (launchOfDesc 0 0 7 (d 0)) (d 0)).isRight = true := by decide +kernel

theorem witness_Firmware : State.reset.firmware.leaf < 2 ^ 20 := by decide

theorem witness_Dies :
    let s (d : DieSt) (n : Nat) : State := { s0 with dies := s0.dies.set 2 d, cycle := n }
    let hot : State := { s0 with hot := true }
    let shut : State := { hot with dies := Vector.replicate 7 .fenced }
    s0.pins = [] ∧ s0.hot = false ∧ 104 < 105 ∧ shut.shutReady = true ∧ hot.shutReady = false ∧ hot.hot = true ∧
    s0.dies[(2 : DieId)] = .up ∧ s0.net = [] ∧ (s (.draining 5) 100005).dies[(2 : DieId)] = .draining 5 ∧ 5 + 100000 ≤ (s (.draining 5) 100005).cycle ∧
    (s (.draining 5) 100004).cycle < 5 + 100000 ∧ (s .fenced 0).dies[(2 : DieId)] = .fenced ∧ 95 < 96 ∧ 105 ≤ 105 := by decide +kernel

theorem witness_FalseGuard :
    (Instr.add { hd with pred := 1 } 1 2 3).raw.isSome = true ∧ s0.me.rk 1 = false ∧
    legalHere (.add { hd with pred := 1 } 1 2 3) s0 ∧ legalHere (.slpool { hd with pred := 1 } 1) s0 ∧
    legalHere (.eret { hd with pred := 1 }) (handling id) := by
  refine ⟨by decide +kernel, by decide +kernel, ⟨by decide, by decide, ?_⟩, ⟨by decide, by decide, ?_⟩, ⟨by decide, by decide, fun _ => by decide⟩⟩ <;>
    rintro ⟨h, e⟩ <;> cases e

theorem witness_GuestTraps :
    let s := inSlot 3 fun sl => { sl with state := .guest, hosting := some ⟨⟨1, whoReset⟩, 0, guest0⟩ }
    Runs hd s ∧ s.me.hosting = some ⟨⟨1, whoReset⟩, 0, guest0⟩ ∧ s.Whole := by decide +kernel

theorem witness_StoreFrames :
    AtHome hd s0 ∧ NoStreams s0 ∧ s0.myCore.sp.wf = true ∧ LocalOk (memAddr s0.me 1 m8) 8 8 ∧ LocalOk (amoAddr s0.me 1 q8) 8 8 := by decide

theorem witness_DecodeOfEncode :
    Instr.wf (.madd hd 3 4 5 6) = true ∧ encode (.madd hd 3 4 5 6) = some 0x01D00003_04050000_06000000 := by decide +kernel

theorem witness_StepKeepsMemory : State.reset.MemOk ∧ (State.reset.withFetchWord 96 0).MemOk :=
  ⟨⟨by decide, by decide⟩, ⟨by decide, by decide⟩⟩

/-- The reset state, and one with bytes in a scratchpad and a B-store. -/
theorem witness_StepKeepsPads :
    let s := (s0.modMyCore fun c => { c with sp := [(3, 1), (8, 2)] }).modEngine cl0 fun e => { e with bstore := [(5, 7)] }
    State.reset.PadsOk ∧ s.PadsOk := by
  refine ⟨⟨by simp [State.reset], by simp [State.reset]⟩, ?_, ?_⟩ <;> decide +kernel

theorem witness_StepRunsInstruction :
    let s := State.reset.withFetchWord 96 0x03700004_E0E00000_00000007
    let u : State := { s.modSlot whoReset fun sl => { sl with word := 0x03700004_E0E00000_00000007 } with todo := [.issue whoReset] }
    s.powered = true ∧ s.todo = [] ∧ s.agenda = [] ∧ s.enabled[(s.pick (s.enabled.length + 1)).1]?.isNone = true ∧
    (s.cores[s.turn]?).map (·.1) = some whoReset.core ∧ (Fin.ofNat 16 s.cycle : Fin 16) = whoReset.slot ∧
    (s.slot whoReset).inRotation = true ∧ s.wanted whoReset = false ∧ (s.slot whoReset).halts = false ∧
    ((s.slot whoReset).pending whoReset).isNone = true ∧ (s.slot whoReset).bubble = false ∧
    ((s.slot whoReset).fetchFault.filter fun y => decide (y.1 = (s.slot whoReset).pc)).isNone = true ∧
    s.nextWord whoReset = some 0x03700004_E0E00000_00000007 ∧ u.todo = [.issue whoReset] ∧ (u.slot whoReset).repCont = false ∧
    u.wanted whoReset = false ∧ (u.slot whoReset).halts = false ∧ ((u.slot whoReset).pending whoReset).isNone = true := by
  decide +kernel

theorem witness_StepRunsInstruction_words :
    decode 0x03700004_E0E00000_00000007 = .ok (.li hd 4 7) ∧ decode 0 = .error .unassigned := ⟨rfl, rfl⟩

end Sys2Proof.Tests
end

section
/-! SUPPORT. Scalar division (09 R186). -/

namespace Sys2Proof.Machine

/-! ## What an instruction completes to -/

/-- Two updates that agree on the slot that runs are the same completion. -/
theorem Completes.congr {i : Instr} {s : State} {f g : Slot → Slot} (hf : Completes i s f) (e : f s.me = g s.me) : Completes i s g :=
  hf.trans (congrArg _ (s.mod_congr _ _ (congrArg Slot.next e)))

/-- An instruction whose meaning is a function of two s registers writes its value for what they hold at issue. -/
theorem completes_of_exec_eq_int2 {i : Instr} {h : Hdr} {d a b : SReg} {f : Word → Word → Word} {s : State}
    (e : exec i s = int2 h d a b f s) (r : Runs h s) : Completes i s fun sl => sl.ws d (f (s.me.rs a) (s.me.rs b)) :=
  Completes.congr (f := fun sl => sl.ws d (f (sl.rs a) (sl.rs b))) (e.trans (guarded_runs h s _ r)) rfl

/-! ## Quotients and remainders of every width -/

theorem sdivW_zero {n : Nat} (x : BitVec n) : sdivW x 0 = BitVec.allOnes n := if_pos rfl
theorem udivW_zero {n : Nat} (x : BitVec n) : udivW x 0 = BitVec.allOnes n := if_pos rfl
theorem sremW_zero {n : Nat} (x : BitVec n) : sremW x 0 = x := if_pos rfl
theorem uremW_zero {n : Nat} (x : BitVec n) : uremW x 0 = x := if_pos rfl

/-- Only the least number divided by −1 leaves the range, and there the product wraps back with it. -/
theorem sdiv_mul_add_srem {n : Nat} (x y : BitVec n) : x.sdiv y * y + x.srem y = x := by
  apply BitVec.eq_of_toInt_eq
  calc (x.sdiv y * y + x.srem y).toInt
      = (((x.toInt.tdiv y.toInt).bmod (2 ^ n) * y.toInt).bmod (2 ^ n) + x.toInt.tmod y.toInt).bmod (2 ^ n) := by
        rw [BitVec.toInt_add, BitVec.toInt_mul, BitVec.toInt_sdiv, BitVec.toInt_srem]
    _ = (x.toInt.tdiv y.toInt * y.toInt + x.toInt.tmod y.toInt).bmod (2 ^ n) := by
        rw [Int.bmod_mul_bmod, Int.bmod_add_bmod]
    _ = x.toInt := by rw [Int.tdiv_mul_add_tmod, BitVec.toInt_bmod_cancel]

theorem udiv_mul_add_umod {n : Nat} (x y : BitVec n) : x / y * y + x % y = x := by
  apply BitVec.eq_of_toNat_eq
  rw [BitVec.toNat_add, BitVec.toNat_mul, BitVec.toNat_udiv, BitVec.toNat_umod, Nat.mod_add_mod, Nat.div_add_mod', Nat.mod_eq_of_lt x.isLt]

theorem sdivW_mul_add_sremW {n : Nat} (x y : BitVec n) : sdivW x y * y + sremW x y = x := by
  by_cases hy : y = 0
  · rw [hy, sdivW_zero, sremW_zero, BitVec.ofNat_eq_ofNat, BitVec.mul_zero, BitVec.zero_add]
  · rw [sdivW, sremW, if_neg hy, if_neg hy, sdiv_mul_add_srem]

theorem udivW_mul_add_uremW {n : Nat} (x y : BitVec n) : udivW x y * y + uremW x y = x := by
  by_cases hy : y = 0
  · rw [hy, udivW_zero, uremW_zero, BitVec.ofNat_eq_ofNat, BitVec.mul_zero, BitVec.zero_add]
  · rw [udivW, uremW, if_neg hy, if_neg hy, udiv_mul_add_umod]

/-- Settles O50: each of the four completes with the quotient or remainder of the operands, and the borderline cases are values of these. -/
theorem division : Obligations.Division := by
  intro h d a b s r x y
  refine ⟨sdivW x y, udivW x y, sremW x y, uremW x y, completes_of_exec_eq_int2 rfl r, completes_of_exec_eq_int2 rfl r,
    completes_of_exec_eq_int2 rfl r, completes_of_exec_eq_int2 rfl r, ?zeroDivisor, ?leastByMinusOne, ?sevenByMinusTwo, ?minusSevenByTwo,
    (sdivW_mul_add_sremW x y).symm, (udivW_mul_add_uremW x y).symm⟩
  case zeroDivisor =>
    intro hy
    rw [hy]
    exact ⟨sdivW_zero x, udivW_zero x, sremW_zero x, uremW_zero x⟩
  all_goals
    intro hx hy
    rw [hx, hy]
    decide

end Sys2Proof.Machine
end

section
/-! SUPPORT. What decoding a word says of its fields (02 R27, R34, R35), and what replacing a field leaves alone. -/

namespace Sys2Proof

/-! ## The place of an instruction in the opcode map -/

/-- The major and the minor an instruction is encoded in. -/
def Instr.opcode (i : Instr) : Option (BitVec 8 × BitVec 4) := i.raw.map fun q => (q.major, q.minor)

/-- The rows of a major build instructions of that major, the row at each place those of its minor. -/
def BuildsAt (major : Nat) (l : List Row) : Prop :=
  ∀ r, l.map (fun w => (w.build r).opcode) = (List.range l.length).map fun m => some (BitVec.ofNat 8 major, BitVec.ofNat 4 m)

theorem rows01_buildsAt : BuildsAt 0x01 rows01 := fun _ => rfl
theorem rows02_buildsAt : BuildsAt 0x02 rows02 := fun _ => rfl
theorem rows03_buildsAt : BuildsAt 0x03 rows03 := fun _ => rfl
theorem rows20_buildsAt : BuildsAt 0x20 rows20 := fun _ => rfl
theorem rows30_buildsAt : BuildsAt 0x30 rows30 := fun _ => rfl
theorem rows40_buildsAt : BuildsAt 0x40 rows40 := fun _ => rfl
theorem rows41_buildsAt : BuildsAt 0x41 rows41 := fun _ => rfl
theorem rows50_buildsAt : BuildsAt 0x50 rows50 := fun _ => rfl
theorem rows60_buildsAt : BuildsAt 0x60 rows60 := fun _ => rfl
theorem rows61_buildsAt : BuildsAt 0x61 rows61 := fun _ => rfl
theorem rows62_buildsAt : BuildsAt 0x62 rows62 := fun _ => rfl
theorem rows80_buildsAt : BuildsAt 0x80 rows80 := fun _ => rfl
theorem rows98_buildsAt : BuildsAt 0x98 rows98 := fun _ => rfl
theorem rows99_buildsAt : BuildsAt 0x99 rows99 := fun _ => rfl

/-- The majors in which some minors build one of several instructions, by a subfield: each of them is encoded in that minor. -/
theorem rows_with_choices_buildsAt :
    BuildsAt 0x04 rows04 ∧ BuildsAt 0x21 rows21 ∧ BuildsAt 0x58 rows58 ∧ BuildsAt 0x63 rows63 ∧ BuildsAt 0x88 rows88 ∧
    BuildsAt 0xa0 rowsA0 ∧ BuildsAt 0xa8 rowsA8 := by
  refine ⟨?_, ?_, ?_, ?_, ?_, ?_, ?_⟩
  all_goals
    intro r
    simp only [rows04, rows21, rows58, rows63, rows88, rowsA0, rowsA8, List.map_cons]
    repeat' split
    all_goals rfl

theorem BuildsAt.ite {major k : Nat} {l l' : List Row} (h : BuildsAt k l) (h' : BuildsAt major l') :
    BuildsAt major (if major = k then l else l') := by
  split
  next e => exact e ▸ h
  next => exact h'

theorem rowsOf_buildsAt (major : Nat) : BuildsAt major (rowsOf major) := by
  obtain ⟨h04, h21, h58, h63, h88, hA0, hA8⟩ := rows_with_choices_buildsAt
  exact .ite rows01_buildsAt <| .ite rows02_buildsAt <| .ite rows03_buildsAt <| .ite h04 <| .ite rows20_buildsAt <| .ite h21 <|
    .ite rows30_buildsAt <| .ite rows40_buildsAt <| .ite rows41_buildsAt <| .ite rows50_buildsAt <| .ite h58 <| .ite rows60_buildsAt <|
    .ite rows61_buildsAt <| .ite rows62_buildsAt <| .ite h63 <| .ite rows80_buildsAt <| .ite h88 <| .ite rows98_buildsAt <|
    .ite rows99_buildsAt <| .ite hA0 <| .ite hA8 fun _ => rfl

theorem build_opcode {major minor : Nat} {w : Row} (hw : (rowsOf major)[minor]? = some w) (r : Raw) :
    (w.build r).opcode = some (BitVec.ofNat 8 major, BitVec.ofNat 4 minor) := by
  obtain ⟨hl, rfl⟩ := List.getElem?_eq_some_iff.mp hw
  simpa [hl] using congrArg (·[minor]?) (rowsOf_buildsAt major r)

/-! ## Decoding inverted -/

theorem firstFail_eq_none {l : List Illegal} : firstFail l = none ↔ l = [] := by
  cases l with
  | nil => exact ⟨fun _ => rfl, fun _ => rfl⟩
  | cons e r => cases hr : firstFail r <;> simp [firstFail, hr]

theorem decodeRaw_eq_ok {r : Raw} {i : Instr} (hi : decodeRaw r = .ok i) :
    ∃ w, (rowsOf r.major.toNat)[r.minor.toNat]? = some w ∧ w.fails r = [] ∧ w.build r = i := by
  unfold decodeRaw at hi
  split at hi
  · cases hi
  next w hw =>
    split at hi
    · cases hi
    next hf =>
      split at hi
      · exact ⟨w, hw, firstFail_eq_none.mp hf, Except.ok.inj hi⟩
      · cases hi

theorem decodeRaw_eq_error {r : Raw} {w : Row} {e : Illegal} (hw : (rowsOf r.major.toNat)[r.minor.toNat]? = some w)
    (he : w.fails r = [e]) : decodeRaw r = .error e := by
  simp [decodeRaw, hw, he, firstFail]

/-- The word of a decoded instruction has the major and the minor the instruction is encoded in. -/
theorem opcode_of_decodeRaw {r : Raw} {i : Instr} (hi : decodeRaw r = .ok i) : i.opcode = some (r.major, r.minor) := by
  obtain ⟨w, hw, -, rfl⟩ := decodeRaw_eq_ok hi
  simpa using build_opcode hw r

/-- A word that decodes passes every check of the row at its instruction's opcode. -/
theorem fails_of_decodeRaw {r : Raw} {i : Instr} {major : BitVec 8} {minor : BitVec 4} {w : Row} (hi : decodeRaw r = .ok i)
    (ho : i.opcode = some (major, minor)) (hw : (rowsOf major.toNat)[minor.toNat]? = some w) :
    r.major = major ∧ r.minor = minor ∧ w.fails r = [] := by
  obtain ⟨hmaj, hmin⟩ := Prod.mk.inj (Option.some.inj ((opcode_of_decodeRaw hi).symm.trans ho))
  obtain ⟨v, hv, hf, -⟩ := decodeRaw_eq_ok hi
  rw [hmaj, hmin, hw] at hv
  exact ⟨hmaj, hmin, Option.some.inj hv ▸ hf⟩

/-! ## Replacing a field -/

/-- A word with the `n` bits from bit `p` on replaced. -/
def setField {m n : Nat} (p : Nat) (x : BitVec n) (y : BitVec m) : BitVec m :=
  (y &&& ~~~((BitVec.allOnes n).setWidth m <<< p)) ||| (x.setWidth m <<< p)

theorem getElem_setField {m n p : Nat} (x : BitVec n) (y : BitVec m) (i : Nat) (hi : i < m) :
    (setField p x y)[i] = if p ≤ i ∧ i < p + n then x.getLsbD (i - p) else y[i] := by
  by_cases hp : p ≤ i
  · by_cases hn : i < p + n
    · simp [setField, hp, hn, show i - p < n by omega, show ¬ i < p by omega]
    · simp [setField, hn, show ¬ i - p < n by omega, BitVec.getLsbD_of_ge x (i - p) (by omega)]
  · simp [setField, hp, show i < p by omega]

theorem extractLsb'_setField_self {m n p : Nat} (x : BitVec n) (y : BitVec m) (h : p + n ≤ m) :
    (setField p x y).extractLsb' p n = x := by
  apply BitVec.eq_of_getElem_eq
  intro i hi
  simp [getElem_setField, hi, show p + i < m by omega]

theorem extractLsb'_setField_of_disjoint {m n p q k : Nat} (x : BitVec n) (y : BitVec m) (h : q + k ≤ p ∨ p + n ≤ q) (hk : q + k ≤ m) :
    (setField p x y).extractLsb' q k = y.extractLsb' q k := by
  apply BitVec.eq_of_getElem_eq
  intro i hi
  simp [getElem_setField, show q + i < m by omega, show ¬ (p ≤ q + i ∧ q + i < p + n) by omega]

theorem extractLsb'_setField_low {m n p k : Nat} (x : BitVec n) (y : BitVec m) (h : k ≤ m) :
    (setField p x y).extractLsb' 0 k = setField p x (y.extractLsb' 0 k) := by
  apply BitVec.eq_of_getElem_eq
  intro i hi
  simp [getElem_setField, show i < m by omega]

/-- Replacing bits of the extension leaves the other fields of a word alone. -/
theorem ofWord_setField {n p : Nat} (x : BitVec n) (w : IWord) (h : p + n ≤ 48) :
    Raw.ofWord (setField p x w) = { Raw.ofWord w with ext := setField p x (Raw.ofWord w).ext } := by
  have hx : ∀ q k, 48 ≤ q → q + k ≤ 96 → (setField p x w).extractLsb' q k = w.extractLsb' q k := fun q k hq =>
    extractLsb'_setField_of_disjoint x w (.inr (Nat.le_trans h hq))
  have hb : ∀ i (hi : i < 96), 48 ≤ i → (setField p x w)[i] = w[i] := fun i hi hq =>
    (getElem_setField x w i hi).trans (if_neg (by omega))
  simp [Raw.ofWord, hx, hb, extractLsb'_setField_low]

/-! ## Words of cmp and cmpi with another condition code (09 R188) -/

/-- The checks of a form that do not look at the extension; `cmpRow_fails` and `cmpiRow_fails` set them apart from the others. -/
def Row.headFails (w : Row) (r : Raw) : List Illegal :=
  flag (decide (r.rsv ≠ 0)) .reserved ++ flag (r.neg && decide (r.pred = 0)) .notK0 ++ hintX w.hints r ++
    operand w.d r.d ++ operand w.a r.a ++ operand w.b r.b

/-- The row of `cmp` in the opcode map. -/
noncomputable def cmpRow : Row := rows02[15]'(by decide)

/-- The row of `cmpi` in the opcode map. -/
noncomputable def cmpiRow : Row := rows03[10]'(by decide)

theorem cmpRow_fails (r : Raw) : cmpRow.fails r =
    cmpRow.headFails r ++ operand [.none] r.c ++ (regX false false 0xFF r ++ flag (decide (9 < r.fn.toNat)) .subfield) := rfl

theorem cmpiRow_fails (r : Raw) : cmpiRow.fails r =
    cmpiRow.headFails r ++ [] ++ flag (decide (9 < (r.ext.extractLsb' 44 4).toNat)) .subfield := rfl

/-- A form that takes the whole function byte looks at no bit of it. -/
theorem regX_setField_fn (x : BitVec 8) (r : Raw) :
    regX false false 0xFF { r with ext := setField 32 x r.ext } = regX false false 0xFF r := by
  have hlow : (setField 32 x r.ext).extractLsb' 0 24 = r.ext.extractLsb' 0 24 := extractLsb'_setField_of_disjoint x _ (by decide) (by decide)
  have hrnd : Raw.rnd { r with ext := setField 32 x r.ext } = r.rnd := extractLsb'_setField_of_disjoint x _ (by decide) (by decide)
  have hty : Raw.tyCode { r with ext := setField 32 x r.ext } = r.tyCode := extractLsb'_setField_of_disjoint x _ (by decide) (by decide)
  have hmh : Raw.mh { r with ext := setField 32 x r.ext } = r.mh := getElem_setField x r.ext 47 (by decide)
  have hmask : ∀ y : BitVec 8, y &&& ~~~0xFF = 0 := fun y => BitVec.and_zero
  simp only [regX, regBase, hlow, hrnd, hty, hmh, hmask, Bool.and_false, Bool.false_and]

/-- A word of `cmp` with another code in its function byte fails only where the code is above 9. -/
theorem cmpRow_fails_setField {r : Raw} (hf : cmpRow.fails r = []) (x : BitVec 8) :
    cmpRow.fails { r with ext := setField 32 x r.ext } = flag (decide (9 < x.toNat)) .subfield := by
  rw [cmpRow_fails] at hf
  simp only [List.append_eq_nil_iff] at hf
  obtain ⟨⟨hhead, hc⟩, hreg, -⟩ := hf
  have hc' : Raw.c { r with ext := setField 32 x r.ext } = r.c := extractLsb'_setField_of_disjoint x _ (by decide) (by decide)
  have hfn : Raw.fn { r with ext := setField 32 x r.ext } = x := extractLsb'_setField_self x _ (by decide)
  rw [cmpRow_fails, regX_setField_fn, hreg, hc', hc, hfn, show cmpRow.headFails { r with ext := setField 32 x r.ext } = [] from hhead]
  rfl

/-- The same for `cmpi`, whose code is the top of its immediate. -/
theorem cmpiRow_fails_setField {r : Raw} (hf : cmpiRow.fails r = []) (x : BitVec 4) :
    cmpiRow.fails { r with ext := setField 44 x r.ext } = flag (decide (9 < x.toNat)) .subfield := by
  rw [cmpiRow_fails, List.append_eq_nil_iff, List.append_nil] at hf
  rw [cmpiRow_fails, extractLsb'_setField_self x _ (by decide), show cmpiRow.headFails { r with ext := setField 44 x r.ext } = [] from hf.1]
  rfl

/-- A replaced field makes a word illegal by its value where the checks of its row, passed before, then fail at that value alone. -/
theorem decode_setField_eq_subfield {w : IWord} {i : Instr} {major : BitVec 8} {minor : BitVec 4} {row : Row} {n p : Nat} {x : BitVec n}
    (hw : decode w = .ok i) (ho : i.opcode = some (major, minor)) (hrow : (rowsOf major.toNat)[minor.toNat]? = some row) (hp : p + n ≤ 48)
    (hf : row.fails (Raw.ofWord w) = [] → row.fails { Raw.ofWord w with ext := setField p x (Raw.ofWord w).ext } = [.subfield]) :
    decode (setField p x w) = .error .subfield := by
  obtain ⟨hmaj, hmin, hok⟩ := fails_of_decodeRaw hw ho hrow
  rw [decode, ofWord_setField x w hp]
  refine decodeRaw_eq_error ?_ (hf hok)
  rw [hmaj, hmin, hrow]

theorem decode_cmp_code {w : IWord} {h : Hdr} {c : Cond} {e : SK} {a b : SReg} (hw : decode w = .ok (.cmp h c e a b)) {x : BitVec 8}
    (hx : 9 < x.toNat) : decode (setField 32 x w) = .error .subfield :=
  decode_setField_eq_subfield (row := cmpRow) (minor := 15) hw rfl rfl (by decide) fun hf => by
    rw [cmpRow_fails_setField hf, decide_eq_true hx]
    rfl

theorem decode_cmpi_code {w : IWord} {h : Hdr} {c : Cond} {e : SK} {a : SReg} {i : BitVec 44} (hw : decode w = .ok (.cmpi h c e a i))
    {x : BitVec 4} (hx : 9 < x.toNat) : decode (setField 44 x w) = .error .subfield :=
  decode_setField_eq_subfield (row := cmpiRow) (minor := 10) hw rfl rfl (by decide) fun hf => by
    rw [cmpiRow_fails_setField hf, decide_eq_true hx]
    rfl

end Sys2Proof
end

section
/-! SUPPORT. Scalar comparison (09 R188). -/

namespace Sys2Proof.Machine

/-! ## The conditions -/

theorem not_slt_iff {n : Nat} (a b : BitVec n) : (!a.slt b) = true ↔ b.toInt ≤ a.toInt := by
  rw [Bool.not_eq_true', ← Bool.not_eq_true, BitVec.slt_iff_toInt_lt, Int.not_lt]

theorem decide_lt_iff {n : Nat} (a b : BitVec n) : decide (a < b) = true ↔ a.toNat < b.toNat := decide_eq_true_iff

theorem not_decide_lt_iff {n : Nat} (a b : BitVec n) : (!decide (a < b)) = true ↔ b.toNat ≤ a.toNat := by
  rw [Bool.not_eq_true', ← Bool.not_eq_true, decide_lt_iff, Nat.not_lt]

/-! ## The destinations -/

/-- A write to k0 is discarded (02 R36). -/
theorem Slot.wsk_k (sl : Slot) (k : KReg) (x : Bool) : sl.wsk (.k k) x = if k = 0 then sl else sl.wk k x := by
  split
  next hk => exact if_pos hk
  next => rfl

/-- A write to s0 is discarded (02 R36). -/
theorem Slot.wsk_s (sl : Slot) (d : SReg) (x : Bool) : sl.wsk (.s d) x = if d = 0 then sl else sl.ws d (if x then 1 else 0) := by
  split
  next hd => exact if_pos hd
  next => rfl

theorem cmp_completes {h : Hdr} {s : State} (c : Cond) (e : SK) (a b : SReg) (r : Runs h s) :
    Completes (.cmp h c e a b) s fun sl => sl.wsk e (condW c (sl.rs a) (sl.rs b)) := guarded_runs h s _ r

theorem cmpi_completes {h : Hdr} {s : State} (c : Cond) (e : SK) (a : SReg) (i : BitVec 44) (r : Runs h s) :
    Completes (.cmpi h c e a i) s fun sl => sl.wsk e (condW c (sl.rs a) (i.signExtend 64)) := guarded_runs h s _ r

/-- Settles O3: the conditions are the order of the two words, the completions those of `Slot.wsk`, and a replaced code reaches the one
check of the word that looks at it. -/
theorem comparison : Obligations.Comparison := by
  refine ⟨fun a b => ?conditions, fun h c d a b k i s r => ?completions, fun h c e a b i w => ?codes⟩
  case conditions =>
    exact ⟨decide_eq_true_iff, decide_eq_true_iff, BitVec.slt_iff_toInt_lt, not_slt_iff a b, decide_lt_iff a b, not_decide_lt_iff a b,
      not_slt_iff b a, BitVec.slt_iff_toInt_lt, not_decide_lt_iff b a, decide_lt_iff b a⟩
  case completions =>
    simp only [← Slot.wsk_k, ← Slot.wsk_s]
    exact ⟨cmp_completes c _ a b r, cmp_completes c _ a b r, cmpi_completes c _ a i r, cmpi_completes c _ a i r⟩
  case codes =>
    refine ⟨fun hw x hx => ?_, fun hw x hx => ?_⟩
    · exact congrArg (Except.mapError Illegal.sub) (decode_cmp_code hw hx)
    · exact congrArg (Except.mapError Illegal.sub) (decode_cmpi_code hw hx)

end Sys2Proof.Machine
end

section
/-! SUPPORT. The trap instructions (17 R365), and the entry to a trap in and outside a handler (17 R360, R362). -/

namespace Sys2Proof.Machine

/-! ## A message is a packet of the network: no core changes before it arrives -/

theorem State.slot_congr {s t : State} (e : s.cores = t.cores) (w : Who) : s.slot w = t.slot w := by
  rw [State.slot, State.slot, State.core, State.core, e]

@[simp] theorem State.pick_cores (s : State) (n : Nat) : (s.pick n).2.cores = s.cores := by
  unfold State.pick
  split <;> rfl

@[simp] theorem State.routeFor_cores (s : State) (p : Packet) : (s.routeFor p).2.cores = s.cores := by
  unfold State.routeFor
  cases s.net.find? fun f => f.pkt.sameFlow p with
  | some f => rfl
  | none =>
    show (if _ then (1, _) else State.pick _ 2 : Nat × State).2.cores = _
    rw [apply_ite Prod.snd, apply_ite State.cores, State.pick_cores, ite_self]
    cases srcRouter s.modId p.src with
    | some r => rfl
    | none => exact s.pick_cores 8

@[simp] theorem State.reroute_cores (s : State) (p : Packet) : (s.reroute p).cores = s.cores := s.routeFor_cores p

@[simp] theorem State.again_cores (s : State) (p : Packet) : (s.again p).cores = s.cores := by
  unfold State.again
  split
  · split
    · exact s.reroute_cores p
    · split <;> rfl
  · rfl
  · exact s.reroute_cores p

/-- A message that fails is sent once more: nobody is told. -/
theorem State.failPacket_msg (s : State) (cause sub : Nat) (p : Packet) {c : CoreId} {m : Msg} (e : p.body = .msg c m) :
    s.failPacket cause sub p = s.again p := by
  unfold State.failPacket
  rw [e]

theorem State.route_msg_cores (s : State) (p : Packet) (h : Option Hold) {c : CoreId} {m : Msg} (e : p.body = .msg c m) :
    (s.route p h).cores = s.cores := by
  unfold State.route
  dsimp only
  rw [s.failPacket_msg _ _ p e, s.failPacket_msg _ _ p e]
  split
  · exact s.again_cores p
  split
  · exact s.again_cores p
  · exact s.routeFor_cores p

theorem State.ergSend_msg_cores (s : State) (p : Packet) {c : CoreId} {m : Msg} (e : p.body = .msg c m) :
    (s.ergSend p).cores = s.cores := by
  unfold State.ergSend
  dsimp only
  split
  · rw [s.failPacket_msg _ _ p e, State.again_cores]
  · rfl

theorem State.send_msg_cores (s : State) (p : Packet) {c : CoreId} {m : Msg} (e : p.body = .msg c m) : (s.send p).cores = s.cores := by
  unfold State.send
  split
  · exact s.ergSend_msg_cores p e
  · exact s.route_msg_cores p none e

@[simp] theorem State.message_cores (s : State) (src : CoreId) (rcv : BitVec 32) (m : Msg) : (s.message src rcv m).cores = s.cores := by
  unfold State.message
  split
  · rfl
  · exact s.send_msg_cores _ rfl

@[simp] theorem State.slot_message (s : State) (src : CoreId) (rcv : BitVec 32) (m : Msg) (w : Who) : (s.message src rcv m).slot w = s.slot w :=
  State.slot_congr (s.message_cores src rcv m) w

/-! ## Only a sleeping slot notes an event -/

theorem getElem_mapV {α β : Type} {n : Nat} (f : α → β) (v : Vector α n) (i : Fin n) : (mapV f v)[i] = f v[i] := by
  simp [mapV]

theorem State.slot_wakeSleepers (s : State) (w : Who) (b : Fin 4) : (s.wakeSleepers w.core b).slot w = sawEvent s.cycle b (s.slot w) := by
  unfold State.wakeSleepers State.slot
  rw [State.core_modCore_self]
  exact getElem_mapV _ _ _

/-- A slot that is in pool and waits for nothing does not see the event of its own entry. -/
theorem State.slot_poolEvent (s : State) (w : Who) (e : (s.slot w).state = .pool → (s.slot w).wait = .none) :
    (s.poolEvent w).slot w = s.slot w := by
  unfold State.poolEvent
  split
  next hp => rw [State.slot_wakeSleepers, sawEvent, e hp]
  next => rfl

theorem Slot.doubleTrap_state (sl : Slot) (c : Nat) (v : Word) (b : Bool) : (sl.doubleTrap c v b).state = if b then .exit else .pool := rfl

theorem Slot.doubleTrap_wait (sl : Slot) (c : Nat) (v : Word) (b : Bool) (e : (sl.doubleTrap c v b).state = .pool) :
    (sl.doubleTrap c v b).wait = .none := by
  cases b with
  | false => rfl
  | true => cases e

/-! ## The trap of a slot's own thread -/

theorem State.trapAt_enters (s : State) (w : Who) (c e : Nat) (v p : Word) (h : (s.slot w).hosting = none) (n : (s.slot w).state ≠ .handler) :
    s.trapAt w c e v p = s.modSlot w (·.takeTrap c e v p) := by
  simp [State.trapAt, h, n]

/-- In handler state, neither the message to the supervisor nor the event of a slot in pool adds to the slot's double trap (17 R362). -/
theorem State.slot_trapAt_handler (s : State) (w : Who) (c e : Nat) (v p : Word) (h : (s.slot w).hosting = none)
    (n : (s.slot w).state = .handler) : (s.trapAt w c e v p).slot w = (s.slot w).doubleTrap c v (w.slot == 0) := by
  simp only [State.trapAt, h, n, Option.isSome_none, Bool.false_eq_true, if_false, if_true]
  rw [State.slot_poolEvent, State.slot_message, State.slot_modSlot_self]
  simpa using Slot.doubleTrap_wait _ _ _ _

/-- What a slot holds after a double trap: the cause and value of the second trap, the `epc` of the first (17 R362). -/
theorem State.slot_trapAt_handler_fields (s : State) (w : Who) (c e : Nat) (v p : Word) (h : (s.slot w).hosting = none)
    (n : (s.slot w).state = .handler) :
    let u := (s.trapAt w c e v p).slot w
    u.tcause = BitVec.ofNat 16 (0x0F00 + c) ∧ u.tval = v ∧ u.state = (if w.slot = 0 then .exit else .pool) ∧ u.s = (s.slot w).s ∧
      u.epc = (s.slot w).epc := by
  dsimp only
  rw [s.slot_trapAt_handler w _ _ _ _ h n]
  refine ⟨rfl, rfl, ?_, rfl, rfl⟩
  simp only [Slot.doubleTrap_state, beq_iff_eq]

theorem Slot.takeTrap_tcause (sl : Slot) (c e : BitVec 8) (v p : Word) : (sl.takeTrap c.toNat e.toNat v p).tcause = c ++ e := by
  apply BitVec.eq_of_toNat_eq
  rw [BitVec.toNat_append, Nat.shiftLeft_eq, Nat.mul_comm, ← Nat.two_pow_add_eq_or_of_lt e.isLt]
  show (c.toNat * 256 + e.toNat) % 2 ^ 16 = _
  omega

/-! ## `trap` and `brk` -/

theorem homeOnly_off (h : Hdr) (s : State) (k : Out) (c e : Nat) (r : ¬ Runs h s) : homeOnly h s k c e = .next (s.mod Slot.next) :=
  guarded_off h s _ (eq_false_of_ne_true r)

theorem exec_trap_runs {h : Hdr} {s : State} (n : BitVec 32) (r : AtHome h s) :
    exec (.trap h n) s = .next (s.trapAt s.cur 3 1 (n.setWidth 64) (s.me.pc + 1)) := homeOnly_runs h s _ _ _ r

theorem exec_brk_runs {h : Hdr} {s : State} (n : BitVec 32) (r : AtHome h s) :
    exec (.brk h n) s = .next (s.trapAt s.cur 3 2 (n.setWidth 64) s.me.pc) := homeOnly_runs h s _ _ _ r

theorem exec_trap_enters {h : Hdr} {s : State} (n : BitVec 32) (r : AtHome h s) (q : s.me.state ≠ .handler) :
    exec (.trap h n) s = .next (s.mod fun sl => sl.takeTrap 3 1 (n.setWidth 64) (sl.pc + 1)) := by
  rw [exec_trap_runs n r, s.trapAt_enters s.cur _ _ _ _ r.2 q]
  exact congrArg _ (s.mod_congr _ _ rfl)

theorem exec_brk_enters {h : Hdr} {s : State} (n : BitVec 32) (r : AtHome h s) (q : s.me.state ≠ .handler) :
    exec (.brk h n) s = .next (s.mod fun sl => sl.takeTrap 3 2 (n.setWidth 64) sl.pc) :=
  (homeOnly_runs h s _ _ _ r).trans (trap_enters s 3 2 _ r.2 q)

/-- Settles O43: where the guard holds each of the two is its trap, which enters the handler or in a handler is the double trap. -/
theorem trapInstructions : Obligations.TrapInstructions := by
  refine fun h n s g => ⟨fun r => ?guardFails, fun r => ⟨fun q => ?enters, fun q i m => ?double⟩, fun _ pc c => ?entry⟩
  case guardFails => exact ⟨homeOnly_off h s _ _ _ r, homeOnly_off h s _ _ _ r⟩
  case enters => exact ⟨exec_trap_enters n ⟨r, g⟩ q, exec_brk_enters n ⟨r, g⟩ q⟩
  case double =>
    simp only [List.mem_cons, List.not_mem_nil, or_false] at m
    obtain rfl | rfl := m
    · exact ⟨_, exec_trap_runs n ⟨r, g⟩, s.slot_trapAt_handler_fields s.cur _ _ _ _ g q⟩
    · exact ⟨_, exec_brk_runs n ⟨r, g⟩, s.slot_trapAt_handler_fields s.cur _ _ _ _ g q⟩
  case entry => exact ⟨rfl, Slot.takeTrap_tcause _ _ _ _ _, rfl, rfl, rfl⟩

end Sys2Proof.Machine
end

section
/-! SUPPORT. Integer, logic, immediate and predicate instructions, and the wired registers (02 R36, 09 R185 to R192). -/

namespace Sys2Proof.Machine

/-! ## Integer arithmetic, logic and immediates -/

/-- Settles O1: each of them is its function of the operands, behind the guard. -/
theorem integerArithmetic : Obligations.IntegerArithmetic := by
  intro h d a b c s r
  have runs (k : Out) : guarded h s k = k := guarded_runs h s k r
  exact ⟨runs _, runs _, runs _, runs _, runs _, runs _, runs _, runs _, runs _, runs _, runs _, runs _, runs _, runs _, runs _⟩

/-- Settles O2: each of them is its function of the operands, behind the guard. -/
theorem integerLogic : Obligations.IntegerLogic := by
  intro h d a b k c e s r
  have runs (k : Out) : guarded h s k = k := guarded_runs h s k r
  exact ⟨runs _, runs _, runs _, runs _, runs _, runs _, runs _, runs _, runs _, runs _, runs _, runs _, runs _, runs _, runs _, runs _⟩

/-- The word of `lih`: its immediate above the low 48 bits of the source (09 R190). -/
theorem append_extractLsb'_eq_ofNat (y : BitVec 16) (x : Word) :
    y ++ x.extractLsb' 0 48 = BitVec.ofNat 64 (y.toNat * 2 ^ 48 + x.toNat % 2 ^ 48) := by
  apply BitVec.eq_of_toNat_eq
  have hx : x.toNat % 2 ^ 48 < 2 ^ 48 := Nat.mod_lt _ (by decide)
  rw [BitVec.toNat_append, BitVec.extractLsb'_toNat, BitVec.toNat_ofNat, Nat.shiftRight_zero, Nat.shiftLeft_eq, Nat.mul_comm,
    ← Nat.two_pow_add_eq_or_of_lt hx]
  have hy := y.isLt
  omega

/-- Settles O4: each of them is its function of the operands, behind the guard. -/
theorem integerImmediate : Obligations.IntegerImmediate := by
  intro h d a b x y n p sh z c e i sg s r
  have runs (k : Out) : guarded h s k = k := guarded_runs h s k r
  refine ⟨runs _, runs _, runs _, runs _, runs _, runs _, runs _, runs _, ?lih, runs _, runs _, runs _, runs _⟩
  exact Completes.congr (runs _) (congrArg (s.me.ws d) (append_extractLsb'_eq_ofNat y _))

/-! ## Predicates -/

/-- Writing predicates from the bits of a word: those of the list hold their bits, the scalar registers stay. -/
theorem Slot.foldl_wk (x : Word) (l : List KReg) (sl : Slot) :
    (l.foldl (fun t i => t.wk i (x.getLsbD i.val)) sl).s = sl.s ∧
    ∀ k : KReg, k ≠ 0 → (l.foldl (fun t i => t.wk i (x.getLsbD i.val)) sl).rk k = if k ∈ l then x.getLsbD k.val else sl.rk k := by
  induction l generalizing sl with
  | nil => exact ⟨rfl, fun k _ => by simp⟩
  | cons i l ih =>
    obtain ⟨hs, hk⟩ := ih (sl.wk i (x.getLsbD i.val))
    refine ⟨hs.trans (Slot.wk_s _ _ _), fun k n => (hk k n).trans ?_⟩
    by_cases e : k = i
    · subst e
      simp [Slot.rk_wk _ _ _ n]
    · simp [e, Slot.rk_wk_ne _ _ _ _ e]

/-- The bits collected from predicates: a bit is set where it was or where a listed predicate of its number holds. -/
theorem getLsbD_foldl_rk (sl : Slot) (l : List KReg) (x : Word) (i : Nat) (hi : i < 64) :
    (l.foldl (fun (x : Word) (k : KReg) => if sl.rk k then x ||| (1#64 <<< k.val) else x) x).getLsbD i =
      (x.getLsbD i || l.any fun k => sl.rk k && decide (k.val = i)) := by
  induction l generalizing x with
  | nil => simp
  | cons k l ih =>
    rw [List.foldl_cons, ih, List.any_cons]
    by_cases q : sl.rk k
    · have e : (1#64 <<< k.val).getLsbD i = decide (k.val = i) := by
        rw [BitVec.getLsbD_shiftLeft, BitVec.getLsbD_one]
        by_cases e : k.val = i
        · simp [e, hi]
        · simp [e, hi]
          omega
      simp [q, e, Bool.or_assoc]
    · simp [q]

theorem Slot.getLsbD_preds (sl : Slot) (i : Nat) (hi : i < 64) :
    sl.preds.getLsbD i = if q : i < 8 then sl.rk ⟨i, q⟩ else false := by
  rw [Slot.preds, getLsbD_foldl_rk _ _ _ _ hi, BitVec.ofNat_eq_ofNat, BitVec.getLsbD_zero, Bool.false_or, Bool.eq_iff_iff, List.any_eq_true]
  split
  next q => exact ⟨fun ⟨k, _, hk⟩ => by
      simp only [Bool.and_eq_true, decide_eq_true_eq] at hk
      obtain ⟨hk, rfl⟩ := hk
      exact hk, fun hk => ⟨⟨i, q⟩, List.mem_finRange _, by simp [hk]⟩⟩
  next q => exact ⟨fun ⟨k, _, hk⟩ => by
      simp only [Bool.and_eq_true, decide_eq_true_eq] at hk
      omega, fun f => by cases f⟩

/-- Settles O5: the six with one destination are their functions behind the guard; the other two go through the eight predicates. -/
theorem predicates : Obligations.Predicates := by
  intro h d a b r n s g
  have runs (k : Out) : guarded h s k = k := guarded_runs h s k g
  refine ⟨runs _, runs _, runs _, runs _, runs _, runs _, ⟨_, runs _, ?setAll⟩, ⟨_, runs _, ?getAll⟩⟩
  case setAll =>
    obtain ⟨hs, hk⟩ := Slot.foldl_wk (s.me.rs r) (List.finRange 8) s.me
    rw [State.slot_mod_cur, Slot.next_s]
    exact ⟨fun k n => by rw [Slot.rk_next, hk k n, if_pos (List.mem_finRange k)], rfl, hs⟩
  case getAll =>
    rw [State.slot_mod_cur, Slot.next_k, Slot.ws_k]
    exact ⟨fun n i hi => by rw [Slot.rs_next, Slot.rs_ws _ _ _ n, Slot.getLsbD_preds _ _ hi], rfl⟩

/-- Settles O6: the wired registers are the first case of each accessor, the others are read back. -/
theorem wiredRegisters : Obligations.WiredRegisters := fun sl x q =>
  ⟨rfl, rfl, rfl, rfl, fun r n => ⟨sl.rs_ws r x n, fun _ m => sl.rs_ws_ne r _ x m⟩,
    fun r n => ⟨sl.rk_wk r q n, fun _ m => sl.rk_wk_ne r _ q m⟩⟩

end Sys2Proof.Machine
end

section
/-! SUPPORT. Scalar floating instructions: completion with flags, and the park of an enabled exception (09 R193 to R204, 17 R374). -/

namespace Sys2Proof.Machine

/-! ## Completion with flags -/

/-- What the result of a floating instruction leaves alone in its slot: the enables, the program counter, the state, the hosted thread. -/
def Slot.KeepsControl (a b : Slot) : Prop := b.fen = a.fen ∧ b.pc = a.pc ∧ b.state = a.state ∧ b.hosting = a.hosting ∧ b.block = a.block

theorem Slot.keepsControl_wf (sl : Slot) (d : FReg) (x : Word) : sl.KeepsControl (sl.wf d x) := ⟨rfl, rfl, rfl, rfl, rfl⟩

theorem Slot.keepsControl_ws (sl : Slot) (d : SReg) (x : Word) : sl.KeepsControl (sl.ws d x) :=
  ⟨sl.ws_fen d x, sl.ws_pc d x, sl.ws_state d x, sl.ws_hosting d x, sl.ws_block d x⟩

theorem Slot.keepsControl_wk (sl : Slot) (d : KReg) (x : Bool) : sl.KeepsControl (sl.wk d x) :=
  ⟨sl.wk_fen d x, sl.wk_pc d x, sl.wk_state d x, sl.wk_hosting d x, sl.wk_block d x⟩

theorem Slot.keepsControl_wsk (sl : Slot) (d : SK) (x : Bool) : sl.KeepsControl (sl.wsk d x) := by
  cases d with
  | s d => exact sl.keepsControl_ws d _
  | k d => exact sl.keepsControl_wk d x

/-- A floating instruction of a slot with no exception enabled completes with its flags. -/
theorem completesFp_of_exec {i : Instr} {h : Hdr} {s : State} {fl : FFlags} {f : Slot → Slot} (e : exec i s = homeOnly h s (retireFp s fl f))
    (r : AtHome h s) (z : s.me.fen = 0) (c : s.me.KeepsControl (f s.me)) : CompletesFp i s fl f := by
  rw [CompletesFp, e, homeOnly_runs h s _ _ _ r, retireFp_off s fl f c.1]
  rw [z]
  exact BitVec.and_zero

/-- Settles O7: the operation's exact result, rounded once, is what the instruction writes. -/
theorem floatArithmetic : Obligations.FloatArithmetic := by
  intro h t m d a b c s r z dir x y w rounds
  have written (i : Instr) (o : FRes) (e : exec i s = homeOnly h s (floatResult s d (finish t dir o))) : rounds i o :=
    completesFp_of_exec e r z (s.me.keepsControl_wf d _)
  exact ⟨written _ _ rfl, written _ _ rfl, written _ _ rfl, written _ _ rfl, written _ _ rfl, written _ _ rfl, written _ _ rfl,
    written _ _ rfl⟩

/-- Settles O8: the three that raise flags complete with them, the others behind the guard. -/
theorem floatComparisons : Obligations.FloatComparisons := by
  intro h t d a b p k e c g s r z sign lo hi q
  have runs (o : Out) : homeOnly h s o = o := homeOnly_runs h s o _ _ r
  refine ⟨completesFp_of_exec rfl r z (s.me.keepsControl_wf d _), completesFp_of_exec rfl r z (s.me.keepsControl_wf d _),
    Completes.congr (runs _) rfl, Completes.congr (runs _) rfl, ?fsgnj, ?fcmp, runs _, runs _⟩
  case fsgnj => cases g <;> exact Completes.congr (runs _) rfl
  case fcmp => exact completesFp_of_exec (f := fun sl => sl.wsk e q.1) rfl r z (s.me.keepsControl_wsk e q.1)

theorem setWidth_eq_ofNat {n : Nat} (x : BitVec n) : x.setWidth 64 = BitVec.ofNat 64 x.toNat := by
  apply BitVec.eq_of_toNat_eq
  rw [BitVec.toNat_setWidth, BitVec.toNat_ofNat]

/-- The word of `fli.fp64`: its immediate in the upper 47 bits (09 R202). -/
theorem setWidth_shiftLeft_eq_ofNat (y : BitVec 47) : y.setWidth 64 <<< 17 = BitVec.ofNat 64 (y.toNat * 2 ^ 17) := by
  apply BitVec.eq_of_toNat_eq
  rw [BitVec.toNat_shiftLeft, BitVec.toNat_setWidth, BitVec.toNat_ofNat, Nat.shiftLeft_eq, Nat.mod_mul_mod]

theorem convert_of_not_isInt {t : ETy} (u : ETy) (dir : Dir) (x : Nat) (e : isInt t = false) :
    convert t u dir x = finish t dir (tyDecode u x, sigFlag [tyDecode u x]) := by
  simp [convert, e]

/-- Settles O9: a conversion is one rounding of the value decoded; the moves, literals and flag instructions complete behind the guard. -/
theorem floatConversions : Obligations.FloatConversions := by
  intro h t u i nat m d a r q x y s g z dir cv iv fv
  have runs (o : Out) : homeOnly h s o = o := homeOnly_runs h s o _ _ g
  refine ⟨fun e => ?fcvt, completesFp_of_exec rfl g z (s.me.keepsControl_ws q _), completesFp_of_exec rfl g z (s.me.keepsControl_wf d _),
    runs _, runs _, ?fli32, ?fli64, ?fflg, ?fenw⟩
  case fcvt =>
    refine completesFp_of_exec ?_ g z (s.me.keepsControl_wf d _)
    exact congrArg (fun o => homeOnly h s (floatResult s d o)) (convert_of_not_isInt u dir _ e)
  case fli32 => exact Completes.congr (runs _) (congrArg (s.me.wf d) (setWidth_eq_ofNat x))
  case fli64 => exact Completes.congr (runs _) (congrArg (s.me.wf d) (setWidth_shiftLeft_eq_ofNat y))
  case fflg => exact Completes.congr (runs _) (congrArg (Slot.ws _ q) (setWidth_eq_ofNat s.me.flags))
  case fenw => exact Completes.congr (runs _) (congrArg (Slot.ws _ q) (setWidth_eq_ofNat s.me.fen))

/-! ## The park of an enabled exception -/

theorem Slot.next_state_ne_handler {sl : Slot} (n : sl.state ≠ .handler) : sl.next.state ≠ .handler := by
  unfold Slot.next
  split
  · exact n
  · split
    · exact n
    · exact nofun

/-- The slot that an enabled exception parks: its registers and flags, and the wait with the exceptions it met (17 R374). -/
theorem State.slot_fpPark_on (s : State) (fl : BitVec 5) (pc : Word) (g : s.me.hosting = none) (on : fl &&& s.me.fen ≠ 0)
    (m : s.modes.fpException = false) :
    (s.fpPark fl pc).slot s.cur = { s.me.park .fpException (.fpEx (fl &&& s.me.fen) pc) s.rot with epc := s.me.pc, block := none } := by
  unfold State.fpPark
  dsimp only
  rw [if_neg on, g, if_neg (by simp), if_neg (by simp [m]), State.slot_message, State.slot_mod_cur]

/-- What a floating instruction leaves in its slot where it raises an enabled flag (09 R204). -/
theorem excepts_of_exec {i : Instr} {h : Hdr} {s : State} {fl : FFlags} {f : Slot → Slot} (e : exec i s = homeOnly h s (retireFp s fl f))
    (r : AtHome h s) (n : s.me.state ≠ .handler) (m : s.modes.fpException = false) (c : s.me.KeepsControl (f s.me))
    (on : fl &&& s.me.fen ≠ 0) : ∃ v, exec i s = .next v ∧
      (v.slot s.cur).s = (f s.me).s ∧ (v.slot s.cur).f = (f s.me).f ∧ (v.slot s.cur).k = (f s.me).k ∧
      (v.slot s.cur).flags = s.me.flags ||| fl ∧ (v.slot s.cur).state = .parked ∧ (v.slot s.cur).reason = .fpException ∧
      (v.slot s.cur).epc = s.me.pc + 1 ∧ (v.slot s.cur).wait = .fpEx (fl &&& s.me.fen) s.me.pc := by
  obtain ⟨hfen, hpc, hstate, hhost, -⟩ := c
  refine ⟨_, e.trans (homeOnly_runs h s _ _ _ r), ?_⟩
  have hslot := State.slot_fpPark_on (s.mod fun sl => { (f sl).next with flags := sl.flags ||| fl }) fl s.me.pc
    (by simp [hhost, r.2]) (by simpa [hfen] using on) m
  rw [State.mod_cur] at hslot
  have parked : (f s.me).next.state ≠ .handler := Slot.next_state_ne_handler (by rwa [hstate])
  rw [hslot]
  simp [Slot.park, hfen, hpc, parked]

/-- Settles O10: every one of them writes its result and flags before the exception parks its slot. -/
theorem fpExceptions : Obligations.FpExceptions := by
  intro h t u i nat m d a b c p q e k s r n md dir x y z excepts rounds lo hi cv iv fv
  have written (j : Instr) (o : Nat × FFlags) (ex : exec j s = homeOnly h s (floatResult s d o)) :
      excepts j o.2 (fun sl => sl.wf d (BitVec.ofNat 64 o.1)) := excepts_of_exec ex r n md (s.me.keepsControl_wf d _)
  refine ⟨written _ _ rfl, written _ _ rfl, written _ _ rfl, written _ _ rfl, written _ _ rfl, written _ _ rfl, written _ _ rfl,
    written _ _ rfl, written _ _ rfl, written _ _ rfl, ?fcmp, fun ht => written _ _ ?fcvt, ?fcvti, written _ _ rfl⟩
  case fcmp =>
    exact excepts_of_exec (f := fun sl => sl.wsk e (fCmp k x y).1) rfl r n md (s.me.keepsControl_wsk e _)
  case fcvt => exact congrArg (fun o => homeOnly h s (floatResult s d o)) (convert_of_not_isInt u dir _ ht)
  case fcvti => exact excepts_of_exec (f := fun sl => sl.ws q (BitVec.ofInt 64 iv.1)) rfl r n md (s.me.keepsControl_ws q _)

end Sys2Proof.Machine
end

section
/-! SUPPORT. The scratchpad's loads, stores, tags, atomics and link registers (08 R171 to R182). -/

namespace Sys2Proof.Machine

/-! ## What an access to the scratchpad passes before it is performed -/

theorem afterRelease_go {s : State} (k : Out) (q : NoRelease s) : afterRelease s k = k := by
  rw [afterRelease, q]
  rfl

/-- With its guard, its releases and its stream operands out of the way, an access is what follows its local checks. -/
theorem localGates_go {h : Hdr} {s : State} (reads writes : List VReg) (k : Out) (r : AtHome h s) (q : NoRelease s)
    (e : gates s.me reads writes = .go) : homeOnly h s (afterRelease s (streamGate s reads writes k)) = k := by
  rw [homeOnly_runs h s _ _ _ r, afterRelease_go _ q, streamGate_go s _ _ k e]

theorem withLocal_beyond (s : State) (x : Word) (n al : Nat) (k : Nat → Out) (e : 0x30000 < x.toNat + n) :
    withLocal s x n al k = trap s 7 1 x := by
  simp only [withLocal, localFault, if_pos e]

theorem withLocal_misaligned (s : State) (x : Word) (n al : Nat) (k : Nat → Out) (e : x.toNat + n ≤ 0x30000) (m : x.toNat % al ≠ 0) :
    withLocal s x n al k = trap s 7 2 x := by
  simp only [withLocal, localFault, if_neg (Nat.not_lt.mpr e), if_pos m]

/-- An s or f operand names no vector register. -/
theorem SF.vs_toSFV (d : SF) (w : Width) : d.toSFV.vs w = [] := by cases d <;> rfl

theorem Slot.pops_nil (sl : Slot) : sl.pops [] = sl := rfl

/-! ## Cores whose slots are kept -/

theorem State.slot_modCore {s : State} {c : CoreId} {f : Core → Core} (e : (f (s.core c)).slots = (s.core c).slots) (w : Who) :
    (s.modCore c f).slot w = s.slot w := by
  unfold State.slot
  by_cases q : w.core = c
  · rw [q, State.core_modCore_self, e]
  · rw [s.core_modCore_ne c w.core f q]

theorem State.me_modMyCore {s : State} {f : Core → Core} (e : (f s.myCore).slots = s.myCore.slots) : (s.modMyCore f).me = s.me :=
  State.slot_modCore e s.cur

/-! ## Loads and stores -/

theorem localLoad_completes {h : Hdr} {s : State} (d : SFV) (a : SReg) (m : MemArgs) (r : AtHome h s) (q : NoRelease s)
    (g : gates s.me [] (d.vs m.width) = .go) (l : LocalOk (memAddr s.me a m) m.width.bytes m.width.align) :
    localLoad h s d a m = .next (s.mod fun sl => (sl.wLoad d m.sg (s.myCore.sp.read (memAddr s.me a m).toNat m.width.bytes)).next) :=
  (localGates_go _ _ _ r q g).trans (withLocal_ok s _ _ _ _ l)

theorem localStore_completes {h : Hdr} {s : State} (b : SFV) (a : SReg) (m : MemArgs) (r : AtHome h s) (q : NoRelease s)
    (g : gates s.me (b.vs m.width) [] = .go) (p : s.me.pops (b.vs m.width) = s.me)
    (l : LocalOk (memAddr s.me a m) m.width.bytes m.width.align) :
    localStore h s b a m = .next ((s.modMyCore fun c =>
      { c with sp := c.sp.write (memAddr s.me a m).toNat (s.me.rStore b m.width) }).mod Slot.next) := by
  refine ((localGates_go _ _ _ r q g).trans (withLocal_ok s _ _ _ _ l)).trans (congrArg Host.Outcome.next (State.mod_congr _ _ _ ?_))
  show (Slot.pops _ (b.vs m.width)).next = _
  rw [State.me_modMyCore (by rfl), p]

theorem localLoadsStores : Claims.LocalLoadsStores := by
  intro h a p d v m s r q x n
  refine ⟨fun l => ⟨?ldl, ?stl⟩, fun l z => ⟨?ldlv, ?stlv⟩, fun l => ?ldlp⟩
  case ldl => exact localLoad_completes d.toSFV a m r q (by rw [SF.vs_toSFV, gates_nil]) l
  case stl => exact localStore_completes d.toSFV a m r q (by rw [SF.vs_toSFV, gates_nil]) (by rw [SF.vs_toSFV, Slot.pops_nil]) l
  case ldlv => exact localLoad_completes (.v v) a m r q (gates_none _ _ _ z) l
  case stlv => exact localStore_completes (.v v) a m r q (gates_none _ _ _ z) (Slot.pops_none _ _ z) l
  case ldlp =>
    exact ((homeOnly_runs h s _ _ _ r).trans (afterRelease_go _ q)).trans (withLocal_ok s _ _ _ _ l)

theorem localFaults : Claims.LocalFaults := by
  intro h a d m s r q n x
  have load (k : Out) : homeOnly h s (afterRelease s (streamGate s [] (d.toSFV.vs m.width) k)) = k :=
    localGates_go _ _ k r q (by rw [SF.vs_toSFV, gates_nil])
  have store (k : Out) : homeOnly h s (afterRelease s (streamGate s (d.toSFV.vs m.width) [] k)) = k :=
    localGates_go _ _ k r q (by rw [SF.vs_toSFV, gates_nil])
  simp only [List.mem_cons, List.not_mem_nil, or_false, forall_eq_or_imp, forall_eq]
  refine ⟨fun l => ?beyond, fun l k => ?misaligned⟩
  case beyond =>
    have t := fun k => (withLocal_beyond s x m.width.bytes m.width.align k l).trans (trap_enters s 7 1 x r.2 n)
    exact ⟨(load _).trans (t _), (store _).trans (t _)⟩
  case misaligned =>
    have t := fun j => (withLocal_misaligned s x m.width.bytes m.width.align j l k).trans (trap_enters s 7 2 x r.2 n)
    exact ⟨(load _).trans (t _), (store _).trans (t _)⟩

/-- Settles O11: past their gates the accesses are their local checks, and these give the access or its trap. -/
theorem localAccesses : Obligations.LocalAccesses := ⟨localLoadsStores, localFaults⟩

/-! ## Tags -/

theorem Core.isFull_iff (c : Core) (w : Nat) : c.isFull w = true ↔ w ∉ c.empties := by simp [Core.isFull]

theorem Core.all_isFull {c : Core} {ws : List Nat} (e : ∀ w ∈ ws, w ∉ c.empties) : ws.all c.isFull = true :=
  List.all_eq_true.mpr fun w m => (c.isFull_iff w).mpr (e w m)

theorem Core.not_all_isFull {c : Core} {ws : List Nat} (e : ∃ w ∈ ws, w ∈ c.empties) : ws.all c.isFull = false := by
  obtain ⟨w, m, i⟩ := e
  exact List.all_eq_false.mpr ⟨w, m, by rw [c.isFull_iff]; exact fun n => n i⟩

theorem Core.all_empty {c : Core} {ws : List Nat} (e : ∀ w ∈ ws, w ∈ c.empties) : (ws.all fun w => !c.isFull w) = true :=
  List.all_eq_true.mpr fun w m => by simpa [Core.isFull] using e w m

theorem tagForm_checked {h : Hdr} {s : State} (t : TagAcc) (a : SReg) (m : MemArgs) (reads writes : List VReg) (r : AtHome h s)
    (q : NoRelease s) (z : NoStreams s) (l : LocalOk (memAddr s.me a m) m.width.bytes m.width.align) :
    tagForm h s t a m reads writes =
      let x := (memAddr s.me a m).toNat
      let n := m.width.bytes
      if t.cond s.myCore (wordsOf x n) then .next (s.tagPerform s.cur t x n)
      else .next ((s.park .tag (.tag t x n)).mod fun sl => { sl with object := BitVec.ofNat 64 x }) :=
  (localGates_go _ _ _ r q (gates_none _ _ _ z)).trans (withLocal_ok s _ _ _ _ l)

theorem tagForms : Claims.TagForms := by
  intro h a d m s r z q x n ws c l
  have checked := fun t reads writes => tagForm_checked (h := h) t a m reads writes r q z l
  refine ⟨fun e => ⟨?ldf, ?ldfe⟩, fun e => ?stwe, fun e => ?parks⟩
  case ldf => exact (checked (.ldf d m.width m.sg) _ _).trans (if_pos (Core.all_isFull e))
  case ldfe => exact (checked (.ldfe d m.width m.sg) _ _).trans (if_pos (Core.all_isFull e))
  case stwe =>
    refine ((checked (.stwe d m.width) _ _).trans (if_pos (Core.all_empty e))).trans
      (congrArg Host.Outcome.next (State.mod_congr (s.modMyCore _) _ _ ?_))
    show (Slot.pops _ (d.vs m.width)).next = _
    rw [State.me_modMyCore (by rfl), Slot.pops_none _ _ z]
  case parks =>
    refine (checked (.ldf d m.width m.sg) _ _).trans (if_neg ?_)
    exact ne_true_of_eq_false (Core.not_all_isFull e)

/-! ## The tag unit -/

/-- Outside stream mode a destination is its register. -/
theorem Slot.wvS_none (sl : Slot) (r : VReg) (x : VWord) (z : sl.streams = #v[none, none, none, none]) : sl.wvS r x = sl.wv r x := by
  rw [Slot.wvS, Slot.wvM, sl.stream_none r z]

@[simp] theorem Slot.wvS_pc (sl : Slot) (r : VReg) (x : VWord) : (sl.wvS r x).pc = sl.pc := by
  unfold Slot.wvS Slot.wvM Slot.setStream
  split <;> (try split) <;> (try split) <;> rfl

theorem Slot.wLoad_v (sl : Slot) (r : VReg) (sg : Bool) (bs : List Byte) : sl.wLoad (.v r) sg bs =
    if bs.length ≤ 64 then sl.wvS r (vOf bs) else (sl.wvS r (vOf (bs.take 64))).wvS (r + 1) (vOf (bs.drop 64)) := rfl

theorem Slot.ws_s (sl : Slot) (r : SReg) (x : Word) : (sl.ws r x).s = if r = 0 then sl.s else sl.s.set r x := by
  unfold Slot.ws
  split <;> rfl

@[simp] theorem Slot.wLoad_pc (sl : Slot) (d : SFV) (sg : Bool) (bs : List Byte) : (sl.wLoad d sg bs).pc = sl.pc := by
  cases d with
  | s r => exact sl.ws_pc r _
  | f r => rfl
  | v r =>
    rw [Slot.wLoad_v]
    split <;> simp

/-- A load writes the same registers in a slot that has just left its park. -/
theorem Slot.wLoad_unpark (sl : Slot) (d : SFV) (sg : Bool) (bs : List Byte) (z : sl.streams = #v[none, none, none, none]) :
    (sl.unpark.wLoad d sg bs).s = (sl.wLoad d sg bs).s ∧ (sl.unpark.wLoad d sg bs).f = (sl.wLoad d sg bs).f ∧
      (sl.unpark.wLoad d sg bs).v = (sl.wLoad d sg bs).v := by
  have zu : sl.unpark.streams = #v[none, none, none, none] := z
  cases d with
  | s r => exact ⟨(sl.unpark.ws_s r _).trans (sl.ws_s r _).symm, (sl.unpark.ws_f r _).trans (sl.ws_f r _).symm,
      (sl.unpark.ws_v r _).trans (sl.ws_v r _).symm⟩
  | f r => exact ⟨rfl, rfl, rfl⟩
  | v r =>
    rw [Slot.wLoad_v, Slot.wLoad_v]
    split
    · rw [Slot.wvS_none _ r _ zu, Slot.wvS_none _ r _ z]
      exact ⟨rfl, rfl, rfl⟩
    · rw [Slot.wvS_none _ r _ zu, Slot.wvS_none _ r _ z, Slot.wvS_none (sl.unpark.wv r _) _ _ zu, Slot.wvS_none (sl.wv r _) _ _ z]
      exact ⟨rfl, rfl, rfl⟩

/-- A store reads the same bytes in a slot that has just left its park. -/
theorem Slot.rStore_unpark (sl : Slot) (d : SFV) (w : Width) : sl.unpark.rStore d w = sl.rStore d w := rfl

@[simp] theorem Core.setTags_slots (c : Core) (b : Bool) (ws : List Nat) : (c.setTags b ws).slots = c.slots := rfl
@[simp] theorem Core.setTags_sp (c : Core) (b : Bool) (ws : List Nat) : (c.setTags b ws).sp = c.sp := rfl
@[simp] theorem Core.spWrite_slots (c : Core) (a : Nat) (bs : List Byte) : (c.spWrite a bs).slots = c.slots := rfl
@[simp] theorem Core.spWrite_sp (c : Core) (a : Nat) (bs : List Byte) : (c.spWrite a bs).sp = c.sp.write a bs := rfl

/-- The slot, the scratchpad and the tags after a load that left its words full. -/
theorem State.tagPerform_ldf (s : State) (w : Who) (d : SFV) (wd : Width) (sg : Bool) (x n : Nat) :
    (s.tagPerform w (.ldf d wd sg) x n).slot w = ((s.slot w).wLoad d sg ((s.core w.core).sp.read x n)).next ∧
    ((s.tagPerform w (.ldf d wd sg) x n).core w.core).sp = (s.core w.core).sp ∧
    ((s.tagPerform w (.ldf d wd sg) x n).core w.core).empties = (s.core w.core).empties := by
  simp [State.tagPerform]

/-- The same after one that empties them. -/
theorem State.tagPerform_ldfe (s : State) (w : Who) (d : SFV) (wd : Width) (sg : Bool) (x n : Nat) :
    (s.tagPerform w (.ldfe d wd sg) x n).slot w = ((s.slot w).wLoad d sg ((s.core w.core).sp.read x n)).next ∧
    ((s.tagPerform w (.ldfe d wd sg) x n).core w.core).sp = (s.core w.core).sp ∧
    ((s.tagPerform w (.ldfe d wd sg) x n).core w.core).empties = ((s.core w.core).setTags false (wordsOf x n)).empties := by
  have hslot := State.slot_modCore (s := s) (c := w.core) (f := (·.setTags false (wordsOf x n))) rfl w
  simp [State.tagPerform, hslot]

/-- The same after a store that fills them. -/
theorem State.tagPerform_stwe (s : State) (w : Who) (b : SFV) (wd : Width) (x n : Nat) :
    (s.tagPerform w (.stwe b wd) x n).slot w = ((s.slot w).pops (b.vs wd)).next ∧
    ((s.tagPerform w (.stwe b wd) x n).core w.core).sp = (s.core w.core).sp.write x ((s.slot w).rStore b wd) ∧
    ((s.tagPerform w (.stwe b wd) x n).core w.core).empties = ((s.core w.core).setTags true (wordsOf x n)).empties := by
  have hslot := State.slot_modCore (s := s) (c := w.core)
    (f := fun c => (c.spWrite x ((s.slot w).rStore b wd)).setTags true (wordsOf x n)) rfl w
  simp [State.tagPerform, hslot]
  rfl

theorem execTagWaitPerform_met {w : Who} {s : State} {t : TagAcc} {x n : Nat} (p : (s.slot w).wait = .tag t x n)
    (e : t.cond (s.core w.core) (wordsOf x n) = true) : exec (.tagWaitPerform w) s =
      .next (((s.modSlot w Slot.unpark).tagPerform w t x n).modSlot w fun u => { u with
        state := (s.slot w).state, reason := (s.slot w).reason, wait := .tagged (s.cycle + 6) }) := by
  show execTagWaitPerform w s = _
  unfold execTagWaitPerform
  dsimp only
  rw [p]
  exact if_pos e

theorem execTagWaitPerform_unmet {w : Who} {s : State} {t : TagAcc} {x n : Nat} (p : (s.slot w).wait = .tag t x n)
    (e : t.cond (s.core w.core) (wordsOf x n) = false) : exec (.tagWaitPerform w) s = .next s := by
  show execTagWaitPerform w s = _
  unfold execTagWaitPerform
  dsimp only
  rw [p]
  exact if_neg (by rw [e]; exact Bool.false_ne_true)

/-- A slot whose tag wait ends a cycle after its access returns to rotation. -/
theorem execParkReasonMet_tagged {w : Who} {s : State} {u : Nat} (p : (s.slot w).wait = .tagged u) (n : (s.slot w).state ≠ .spilled)
    (l : u < s.cycle) : exec (.parkReasonMet w) s = .next (s.modSlot w Slot.unpark) := by
  show Host.Outcome.next ((s.unparked w).getD s) = _
  unfold State.unparked
  dsimp only
  rw [if_neg n, p]
  dsimp only
  rw [if_pos l]
  rfl

theorem tagWaiters_claim : Claims.TagWaiters := by
  intro w d wd sg x n u s z sl c ws performed loaded
  refine ⟨fun e => ⟨fun p => ?ldf, fun p => ?ldfe⟩, fun e p => ?stwe, fun e p => ?unmet, fun p n l => ?returned⟩
  case ldf =>
    refine ⟨_, execTagWaitPerform_met p (Core.all_isFull e), ?_⟩
    obtain ⟨hslot, hsp, hempties⟩ := (s.modSlot w Slot.unpark).tagPerform_ldf w d wd sg x n
    obtain ⟨hs, hf, hv⟩ := (s.slot w).wLoad_unpark d sg ((s.core w.core).sp.read x n) z
    simp [loaded, performed, hslot, hsp, hempties, hs, hf, hv, c, sl]
  case ldfe =>
    refine ⟨_, execTagWaitPerform_met p (Core.all_isFull e), ?_⟩
    obtain ⟨hslot, hsp, hempties⟩ := (s.modSlot w Slot.unpark).tagPerform_ldfe w d wd sg x n
    obtain ⟨hs, hf, hv⟩ := (s.slot w).wLoad_unpark d sg ((s.core w.core).sp.read x n) z
    simp [loaded, performed, hslot, hsp, hempties, hs, hf, hv, c, sl]
    rfl
  case stwe =>
    refine ⟨_, execTagWaitPerform_met p (Core.all_empty e), ?_⟩
    obtain ⟨hslot, hsp, hempties⟩ := (s.modSlot w Slot.unpark).tagPerform_stwe w d wd x n
    simp [performed, hslot, hsp, hempties, Slot.pops_none (s.slot w).unpark _ z, Slot.rStore_unpark, c, sl]
    rfl
  case unmet => exact execTagWaitPerform_unmet p (Core.not_all_isFull e)
  case returned => exact execParkReasonMet_tagged p n l

/-! ## Tag-only forms -/

/-- The bits collected from the tags of a block. -/
theorem getLsbD_foldl_isFull (f : Nat → Bool) (n : Nat) (hn : n ≤ 64) (i : Nat) (hi : i < 64) :
    ((List.range n).foldl (fun (b : Word) i => if f i then b ||| (1#64 <<< i) else b) 0).getLsbD i = (decide (i < n) && f i) := by
  induction n with
  | zero => simp
  | succ n ih =>
    rw [List.range_succ, List.foldl_append, List.foldl_cons, List.foldl_nil]
    have e : (1#64 <<< n).getLsbD i = decide (i = n) := by
      rw [BitVec.getLsbD_shiftLeft, BitVec.getLsbD_one]
      by_cases e : i = n
      · simp [e]
        omega
      · simp [e, hi]
        omega
    by_cases q : f n
    · rw [if_pos q, BitVec.getLsbD_or, ih (by omega), e]
      by_cases g : i = n
      · simp [g, q]
      · simp [g, show i < n + 1 ↔ i < n by omega]
    · rw [if_neg q, ih (by omega)]
      by_cases g : i = n
      · simp [g, q]
      · simp [show i < n + 1 ↔ i < n by omega]

theorem tagOnly_claim : Claims.TagOnly := by
  intro h a p m s r q x
  have gated (k : Out) : homeOnly h s (afterRelease s k) = k := (homeOnly_runs h s _ _ _ r).trans (afterRelease_go _ q)
  refine ⟨fun l => ?marks, fun l n => ?tagrd⟩
  case marks => exact ⟨(gated _).trans (withLocal_ok s _ _ _ _ l), (gated _).trans (withLocal_ok s _ _ _ _ l)⟩
  case tagrd =>
    refine ⟨_, (gated _).trans (withLocal_ok s x 1 1 _ ⟨l, Nat.mod_one _⟩), fun i hi => ?_⟩
    rw [State.slot_mod_cur, Slot.rs_next, Slot.rs_ws _ _ _ n]
    exact (getLsbD_foldl_isFull _ 64 (Nat.le_refl _) i hi).trans (by rw [decide_eq_true hi, Bool.true_and])

/-- Settles O12: the forms at issue, the unit's event on what they left parked, and the forms that touch tags alone. -/
theorem tagAccesses : Obligations.TagAccesses := ⟨tagForms, tagWaiters_claim, tagOnly_claim⟩

/-! ## Local atomics and link registers -/

theorem localAmo_completes {h : Hdr} {s : State} (a : SReg) (m : AmoArgs) (new : Nat → Nat) (k : Slot → Word → Slot) (r : AtHome h s)
    (q : NoRelease s) (l : LocalOk (amoAddr s.me a m) m.width.bytes m.width.bytes) :
    localAmo h s a m new k =
      let x := (amoAddr s.me a m).toNat
      let n := m.width.bytes
      let old := s.myCore.sp.num x n
      retire (s.modMyCore (·.spWrite x (leBytes n (new old)))) fun sl => k sl (BitVec.ofNat 64 old) :=
  ((homeOnly_runs h s _ _ _ r).trans (afterRelease_go _ q)).trans (withLocal_ok s _ _ _ _ l)

theorem localAtomics : Claims.LocalAtomics := by
  intro h op d a b m s r q x n old put l
  exact ⟨localAmo_completes a m (fun old => amoNew op m.width old (s.me.rs b).toNat) (fun sl x => sl.ws d x) r q l,
    localAmo_completes a m (fun old => amoNew op m.width old (s.me.rs b).toNat) (fun sl _ => sl) r q l,
    localAmo_completes a m _ (fun sl x => sl.ws d x) r q l⟩

theorem linkRegisters : Claims.LinkRegisters := by
  intro h y a d j s r q
  have gated (k : Out) : homeOnly h s (afterRelease s k) = k := (homeOnly_runs h s _ _ _ r).trans (afterRelease_go _ q)
  exact ⟨gated _, gated _⟩

/-- Settles O13: an atomic that passes its local checks is one read and one write of its word; the link registers need no check. -/
theorem localAtomicsAndLinks : Obligations.LocalAtomicsAndLinks := ⟨localAtomics, linkRegisters⟩

end Sys2Proof.Machine
end

section
/-! SUPPORT. Module reset, decoded words, and the step of a slot in rotation (02 R27 to R38, 01 R25, 17 R363, R387). -/

namespace Sys2Proof.Machine

/-! ## Module reset -/

theorem Core.reset_slots_state : ∀ i : Fin 16, Core.reset.slots[i].state = if i = 0 then .exit else .pool := by decide

theorem Core.reset_slots_s : ∀ i : Fin 16, Core.reset.slots[i].s = Vector.replicate 32 0 := by decide

theorem Core.reset_mb : ∀ i : MbIdx, Core.reset.mb[i] = 0 := by decide

/-- Settles O59: the reset state lists no core, so that every core is a reset core. -/
theorem resetState : Obligations.ResetState := by
  refine ⟨⟨rfl, rfl⟩, ⟨nofun, nofun⟩, ⟨by decide, by decide⟩, rfl, rfl, rfl, rfl, rfl, rfl, rfl, fun _ => rfl, by decide,
    fun w => Core.reset_slots_state w.slot, fun w r => ?registers, fun _ i => Core.reset_mb i⟩
  have hs : (State.reset.slot w).s = Vector.replicate 32 0 := Core.reset_slots_s w.slot
  rw [Slot.rs, hs]
  simp

end Sys2Proof.Machine

namespace Sys2Proof

/-- Settles O55: each word decodes by evaluation of the decoder. -/
theorem decodedWords : Obligations.DecodedWords := ⟨rfl, rfl, rfl, rfl, rfl, rfl, rfl, rfl⟩

end Sys2Proof

namespace Sys2Proof.Machine

/-! ## One issue cycle -/

/-- A choice changes nothing but the counter of choices. -/
theorem State.pick_eq (s : State) (n : Nat) : ∃ k, (s.pick n).2 = { s with fresh := k } := by
  unfold State.pick
  split
  · exact ⟨s.fresh, rfl⟩
  · exact ⟨s.fresh + 1, rfl⟩

/-- What issues at a pc does not depend on the word kept in the slot. -/
theorem issued_word (sl : Slot) (x : IWord) (i : Instr) : issued { sl with word := x } i = issued sl i := rfl

theorem issued_of_not_repCont {sl : Slot} {i : Instr} (e : sl.repCont = false) : issued sl i = i := by
  unfold issued
  split
  · rw [e, Bool.and_false, Bool.false_and]
    rfl
  · rfl

/-- A word performed in a slot that holds it. -/
theorem State.perform_ok (s : State) (w : Who) (x : IWord) (i : Instr) (e : decode x = .ok i) :
    s.perform w x = exec (issued (s.slot w) i) { s.modSlot w (fun sl => { sl with word := x }) with cur := w } := by
  have hslot : ({ s.modSlot w (fun sl => { sl with word := x }) with cur := w } : State).slot w = { s.slot w with word := x } :=
    s.slot_modSlot_self w fun sl => { sl with word := x }
  unfold State.perform
  dsimp only
  rw [e]
  dsimp only
  rw [hslot, issued_word]

theorem State.perform_error (s : State) (w : Who) (x : IWord) (e : Illegal) (h : decode x = .error e) :
    s.perform w x = exec (.illegalInstruction e.sub) { s.modSlot w (fun sl => { sl with word := x }) with cur := w } := by
  unfold State.perform
  dsimp only
  rw [h]

/-- Nothing comes before the instruction of a slot in rotation: its next word is performed (17 R363). -/
theorem State.rotation_performs {s : State} {w : Who} {x : IWord} (wanted : s.wanted w = false) (halts : (s.slot w).halts = false)
    (pending : (s.slot w).pending w = none) (bubble : (s.slot w).bubble = false)
    (fault : (s.slot w).fetchFault.filter (fun y => decide (y.1 = (s.slot w).pc)) = none) (word : s.nextWord w = some x) :
    s.rotation w = s.perform w x := by
  unfold State.rotation
  dsimp only
  rw [wanted, if_neg Bool.false_ne_true, halts, if_neg Bool.false_ne_true, pending]
  dsimp only
  rw [bubble, if_neg Bool.false_ne_true, fault]
  dsimp only
  rw [word]

/-- The clock's step at a core whose slot is in rotation is that slot's rotation, and then the turn passes. -/
theorem State.clockStep_rotation {s : State} {x : CoreId × Core} (turn : s.cores[s.turn]? = some x)
    (inRotation : (s.slot ⟨x.1, Fin.ofNat 16 s.cycle⟩).inRotation = true) {v : State}
    (e : s.rotation ⟨x.1, Fin.ofNat 16 s.cycle⟩ = .next v) : s.clockStep = .next (v.passTurn s ⟨x.1, Fin.ofNat 16 s.cycle⟩) := by
  unfold State.clockStep
  rw [turn]
  dsimp only
  rw [State.issue, if_pos inRotation, e]

/-- With nothing left over, nothing from outside and no unit chosen, the step is the clock's. -/
theorem step_clock {s : State} (powered : s.powered = true) (todo : s.todo = []) (agenda : s.agenda = [])
    (chosen : s.enabled[(s.pick (s.enabled.length + 1)).1]? = none) : step s = (s.pick (s.enabled.length + 1)).2.clockStep := by
  unfold step State.oneStep
  rw [if_neg (by simp [powered]), todo, agenda]
  show s.free = _
  unfold State.free
  dsimp only
  rw [chosen]

/-- A slot that issues again, with nothing before its instruction, performs its word. -/
theorem step_issueAgain {s : State} {w : Who} {r : List Todo} (powered : s.powered = true) (todo : s.todo = .issue w :: r)
    (wanted : s.wanted w = false) (halts : (s.slot w).halts = false) (pending : (s.slot w).pending w = none) :
    step s = ({ s with todo := r } : State).perform w (s.slot w).word := by
  unfold step State.oneStep
  rw [if_neg (by simp [powered]), todo]
  show State.issueAgain { s with todo := r } w = _
  have hw : State.wanted { s with todo := r } w = false := wanted
  have hs : State.slot { s with todo := r } w = s.slot w := rfl
  unfold State.issueAgain
  dsimp only
  rw [hs, hw, halts, pending]
  rfl

/-- Settles O54: the clock gives the slot its cycle, and what comes before an instruction is ruled out by hypothesis. -/
theorem stepRunsInstruction : Obligations.StepRunsInstruction := by
  intro s c k x i w' r powered t w sl u
  obtain ⟨n, ht⟩ : ∃ n, t = { s with fresh := n } := s.pick_eq _
  have hslot : t.slot w = sl := by rw [ht]; rfl
  refine ⟨fun todo agenda chosen turn inRotation wanted halts pending bubble fault word => ?rotation,
    fun todo ok rep wanted halts pending => ?again⟩
  case rotation =>
    have turn' : t.cores[t.turn]? = some (c, k) := by rw [ht]; exact turn
    have performs : t.rotation w = t.perform w x := by
      have wanted' : t.wanted w = false := by rw [ht]; exact wanted
      have word' : t.nextWord w = some x := by rw [ht]; exact word
      rw [← hslot] at halts pending bubble fault
      exact State.rotation_performs wanted' halts pending bubble fault word'
    have stepped (v : State) (e : t.perform w x = .next v) : step s = .next (v.passTurn t w) :=
      (step_clock powered todo agenda chosen).trans
        (State.clockStep_rotation turn' (by rw [hslot]; exact inRotation) (performs.trans e))
    refine ⟨fun ok => ⟨fun v e => stepped v ?_, issued_of_not_repCont⟩, fun err bad v e => stepped v ?_⟩
    · rw [t.perform_ok w x i ok, hslot]
      exact e
    · rw [t.perform_error w x err bad]
      exact e
  case again =>
    intro z
    rw [step_issueAgain powered todo wanted halts pending, State.perform_ok _ w' _ i ok]
    exact congrArg (exec · _) (issued_of_not_repCont rep)

end Sys2Proof.Machine
end

section
/-! SUPPORT. Frames: what an update of the running slot leaves alone; instructions whose guard is false; branches (02 R30, 15 R318 to R320). -/

namespace Sys2Proof.Machine

/-! ## An update of the running slot -/

theorem State.othersKept_mod (s : State) (f : Slot → Slot) : OthersKept s (s.mod f) := fun w n => s.slot_mod_ne f w n

theorem State.coresKept_mod (s : State) (f : Slot → Slot) : CoresKept s (s.mod f) := by
  intro c
  by_cases e : c = s.cur.core
  · subst e
    rw [State.mod, State.core_modSlot_self]
  · rw [State.mod, s.core_modSlot_ne s.cur f c e]

theorem State.offCoresKept_mod (s : State) (f : Slot → Slot) : OffCoresKept s (s.mod f) := rfl

theorem Slot.specialKept_next (sl : Slot) : sl.SpecialKept sl.next := by simp [Slot.SpecialKept]

/-! ## Instructions whose guard is false -/

/-- A branch that is not taken completes like any other instruction, but for the fetch bubble. -/
theorem branch_off (h : Hdr) (s : State) (path : Word) (k : Out) (r : holds h s.me = false) :
    branch h s path k = .next (s.mod fun sl => { sl.next with bubble := sl.block.isNone && missed path (sl.pc + 1) }) := by
  simp [branch, r, Slot.fallThrough]

theorem branch_runs (h : Hdr) (s : State) (path : Word) (k : Out) (r : Runs h s) : branch h s path k = k := if_pos r

theorem stewardOnly_off (h : Hdr) (s : State) (k : Out) (r : holds h s.me = false) (z : s.cur.slot = 0) :
    stewardOnly h s k = .next (s.mod Slot.next) := (if_pos z).trans (homeOnly_off h s k _ _ (ne_true_of_eq_false r))

/-- The instruction only completes, with a fetch bubble or none. -/
def Skips (i : Instr) (s : State) : Prop := ∃ b : Slot → Bool, exec i s = .next (s.mod fun sl => { sl.next with bubble := b sl })

theorem skips_of_next {i : Instr} {s : State} (e : exec i s = .next (s.mod Slot.next)) : Skips i s := ⟨fun sl => sl.next.bubble, e⟩

/-- A legal instruction whose guard is false skips: each form looks at its guard before anything else it may do. -/
theorem skips_of_guard_false {i : Instr} {r : Raw} {s : State} (e : i.raw = some r)
    (g : xor (s.me.rk ⟨r.pred.toNat, r.pred.isLt⟩) r.neg = false) (l : legalHere i s) : Skips i s := by
  obtain ⟨steward, readOnly, handler⟩ := l
  cases i
  case fetchb | bcast | slgo | slhalt | slwait | slpoll | slpool =>
    cases e
    exact skips_of_next (stewardOnly_off _ s _ g (steward rfl))
  case br | jal | jr | jalr | brx | loop =>
    cases e
    exact ⟨_, branch_off _ s _ _ g⟩
  case eret h =>
    cases e
    exact skips_of_next ((if_pos (handler ⟨h, rfl⟩)).trans (guarded_off _ s _ g))
  case ctlw h c a | ctlx h d c b =>
    cases e
    have w : ctlWritable c = true := by simpa [writesReadOnly] using readOnly
    exact skips_of_next ((if_pos w).trans (homeOnly_off _ s _ _ _ (ne_true_of_eq_false g)))
  case tmrWrite h d a =>
    cases d <;> cases e <;> exact skips_of_next (homeOnly_off _ s _ _ _ (ne_true_of_eq_false g))
  all_goals cases e
  all_goals first
    | exact skips_of_next (guarded_off _ s _ g)
    | exact skips_of_next (homeOnly_off _ s _ _ _ (ne_true_of_eq_false g))

/-- Settles O51: the instruction skips, and a skip changes the program counter and what fetch keeps in the running slot alone. -/
theorem falseGuard : Obligations.FalseGuard := by
  intro i r s e g l
  obtain ⟨b, hb⟩ := skips_of_guard_false e g l
  refine ⟨_, hb, ?_⟩
  rw [State.slot_mod_cur]
  exact ⟨s.me.next_pc, s.me.next_s, s.me.next_f, s.me.next_v, s.me.next_k, s.me.next_y, s.me.specialKept_next, s.othersKept_mod _,
    s.offCoresKept_mod _, s.coresKept_mod _, fun _ => rfl⟩

/-! ## The frame of a vector store -/

/-- A reset core whose running slot holds 2^8 in v0. -/
def vectorStoring : State := State.reset.modSlot whoReset fun sl => sl.wv 0 256

/-- An access of one byte at address 0; no word of `stlv` decodes to this width. -/
def byteAt0 : MemArgs := ⟨.slot, .b, false, 0⟩

def plainHdr : Hdr := ⟨false, 0, 0, 0, false, false⟩

/-- It stores all 64 bytes of its register: byte 1 of the scratchpad becomes 1. -/
theorem exec_stlv_byteAt0 : ∃ t, exec (.stlv plainHdr 0 0 byteAt0) vectorStoring = .next t ∧ (t.core whoReset.core).sp.get 1 = 1 := by
  refine ⟨_, localStore_completes (h := plainHdr) (s := vectorStoring) (.v 0) 0 byteAt0 ?_ ?_ ?_ ?_ ?_, ?_⟩
  all_goals decide +kernel

/-- Refutes O53: the frame of `stlv` is stated for every width, and one below that of a vector register still stores the whole register, so
that byte 1 changes where the width says one byte at address 0. -/
theorem not_frames : ¬ Obligations.Frames := by
  rintro ⟨-, stores⟩
  obtain ⟨t, stored, changed⟩ := exec_stlv_byteAt0
  obtain ⟨frame, -⟩ := stores plainHdr .add 0 0 0 (.s 0) 0 byteAt0 ⟨.slot, .d, 0⟩ vectorStoring t ⟨rfl, rfl⟩ rfl rfl
  obtain ⟨⟨-, kept⟩, -⟩ := frame (by decide +kernel)
  have same := (kept stored).1 1 (.inr (by decide +kernel))
  exact absurd (changed.symm.trans same) (by decide +kernel)

end Sys2Proof.Machine
end

section
/-! SUPPORT. Branches, the entry to a trap and the return from one, control registers (15 R318 to R320, 17 R360 to R368). -/

namespace Sys2Proof.Machine

/-! ## Branches -/

/-- The path fetch follows, with the hint's codes spelled out (15 R319). -/
theorem predictedPath_eq (h : Hdr) (off : BitVec 40) (pc : Word) :
    predictedPath h off pc = if h.bh = 1 ∨ (h.bh ≠ 2 ∧ off.msb = true) then pc + off.signExtend 64 else pc + 1 := by
  have p : predicted h off = decide (h.bh = 1 ∨ (h.bh ≠ 2 ∧ off.msb = true)) := by
    unfold predicted
    by_cases h1 : h.bh = 1
    · simp [h1]
    · by_cases h2 : h.bh = 2 <;> simp [h1, h2]
  rw [predictedPath, p]
  simp only [decide_eq_true_eq]
  rfl

theorem ult_iff (a b : Word) : a.ult b = true ↔ a.toNat < b.toNat := decide_eq_true_iff

/-- Two updates that agree on the running slot give the same next state. -/
theorem next_mod_congr {s : State} {f g : Slot → Slot} (e : f s.me = g s.me) :
    (Host.Outcome.next (s.mod f) : Out) = .next (s.mod g) := congrArg _ (s.mod_congr f g e)

/-- A branch not taken from its own next pc loses no bubble. -/
theorem not_missed_next (pc : Word) : missed (pc + 1) (pc + 1) = false := decide_eq_false fun n => n rfl

theorem Slot.fallThrough_ws (sl : Slot) (d : SReg) (x path : Word) : (sl.ws d x).fallThrough path =
    { (sl.ws d x).next with bubble := sl.block.isNone && decide (path ≠ sl.pc + 1) } := by
  rw [Slot.fallThrough, Slot.ws_block, Slot.ws_pc, missed]

/-- Settles O39: past its guard each form goes where its target is, and else falls through. -/
theorem branches : Obligations.Branches := by
  intro h off a b d s pc at_ path
  have hpath : predictedPath h off s.me.pc = path := predictedPath_eq h off s.me.pc
  refine ⟨fun r => ?taken, fun r => ⟨?offsets, ?registers⟩⟩
  case taken =>
    have runs (p : Word) (k : Out) : branch h s p k = k := branch_runs h s p k r
    refine ⟨(runs _ _).trans (next_mod_congr ?_), (runs _ _).trans (next_mod_congr ?_), (runs _ _).trans (next_mod_congr rfl),
      (runs _ _).trans (next_mod_congr rfl), fun g => ?brx, fun n => ?counts, fun n => ?ends, guarded_runs h s _ r⟩
    · rw [← hpath]
      rfl
    · rw [← hpath]
      rfl
    case brx =>
      refine ((runs _ _).trans (if_neg (by simp [g]))).trans (next_mod_congr ?_)
      dsimp only
      simp only [ult_iff]
      rfl
    case counts =>
      refine (runs _ _).trans (next_mod_congr ?_)
      have n' : s.me.rs d - 1 ≠ 0 := fun z => n (by bv_omega)
      dsimp only
      rw [if_pos n', ← hpath]
      rfl
    case ends =>
      refine (runs _ _).trans (next_mod_congr ?_)
      dsimp only
      have z : ¬ s.me.rs d - 1 ≠ 0 := by
        rw [n]
        decide
      have z' : s.me.rs d - 1 = 0 := Classical.not_not.mp z
      rw [if_neg z, z', ← hpath, Slot.fallThrough_ws]
  case offsets =>
    simp only [List.forall_mem_cons, List.not_mem_nil, false_imp_iff, implies_true, and_true]
    refine ⟨?_, ?_, ?_⟩
    all_goals
      refine (branch_off h s _ _ r).trans (next_mod_congr ?_)
      rw [← hpath]
      rfl
  case registers =>
    simp only [List.forall_mem_cons, List.not_mem_nil, false_imp_iff, implies_true, and_true]
    refine ⟨?_, ?_, ?_⟩
    all_goals
      refine (branch_off h s _ _ r).trans (next_mod_congr ?_)
      dsimp only
      rw [not_missed_next, Bool.and_false]

/-! ## The entry to a trap and the return from one -/

theorem trapEntry : Claims.TrapEntry := by
  intro w cls sub tval epc s g sl u
  refine ⟨fun n => ?enters, fun n => ?double⟩
  case enters =>
    have hu : u = sl.takeTrap cls sub tval epc := by
      show (s.trapAt w cls sub tval epc).slot w = _
      rw [s.trapAt_enters w _ _ _ _ g n, State.slot_modSlot_self]
    rw [hu]
    exact ⟨rfl, rfl, rfl, rfl, rfl, rfl, rfl, rfl, rfl, rfl, rfl, rfl, rfl, rfl, rfl, rfl, rfl⟩
  case double =>
    obtain ⟨hcause, hval, hstate, hs, hepc⟩ := s.slot_trapAt_handler_fields w cls sub tval epc g n
    refine ⟨hcause, hval, hstate, hs, ?_, hepc⟩
    rw [show u = _ from s.slot_trapAt_handler w cls sub tval epc g n]
    rfl

/-- No sleeper of the slot itself notes that it has gone to pool, and a slot that has not is unchanged. -/
theorem State.slot_poolEvent_mod (s : State) (f : Slot → Slot) (e : (f s.me).state = .pool → (f s.me).wait = .none) :
    ((s.mod f).poolEvent s.cur).slot s.cur = f s.me := by
  rw [State.slot_poolEvent, State.slot_mod_cur]
  rwa [State.slot_mod_cur]

theorem trapReturn : Claims.TrapReturn := by
  intro h s g
  refine ⟨fun n => ?outside, fun n r => ?inside⟩
  case outside => exact (if_neg n).trans (trap_enters s 1 8 0 g n)
  case inside =>
    have runs : exec (.eret h) s = .next ((s.mod (·.eret (s.cur.slot == 0))).poolEvent s.cur) :=
      (if_pos n).trans (guarded_runs h s _ r)
    refine ⟨fun q => ⟨_, runs, ?_⟩, fun q z => ⟨_, runs, ?_⟩⟩
    · have e : ∃ c b, s.me.eret (s.cur.slot == 0) =
          { s.me with pc := s.me.epc, state := .running, cctx := c, walks := [], repCont := b } := ⟨_, _, if_neg (by simp [q])⟩
      obtain ⟨c, b, e⟩ := e
      rw [State.slot_poolEvent_mod s _ (by rw [e]; exact nofun), e]
      exact ⟨rfl, rfl, rfl, rfl⟩
    · have e : ∃ sl : Slot, sl.pc = s.me.epc ∧ s.me.eret (s.cur.slot == 0) = sl.toPool false :=
        ⟨_, rfl, (if_pos q).trans (congrArg _ (beq_eq_false_iff_ne.mpr z))⟩
      obtain ⟨sl, hpc, e⟩ := e
      rw [State.slot_poolEvent_mod s _ (by rw [e]; exact fun _ => rfl), e]
      exact ⟨hpc, rfl⟩

/-- Settles O44: the entry of each kind, and `eret` in and outside a handler. -/
theorem trapEntryAndReturn : Obligations.TrapEntryAndReturn := ⟨trapEntry, trapReturn⟩

/-! ## Control registers -/

/-- The bits a program may write of a control register (17 R367). -/
def ctlMask (c : Fin 18) : Word :=
  if c.val = 3 ∨ c.val = 4 then 0x1F else if c.val = 8 then 0xFFFFFFFF else if c.val = 11 then 0xFFFF
    else if c.val = 14 then 0xFFFFFFFFFFFFF000 else if c.val = 17 then 3 else 0xFFFFFFFFFFFFFFFF

theorem ctlWritable_iff (c : Fin 18) : ctlWritable c = true ↔ c.val ∈ [3, 4, 8, 10, 11, 12, 13, 14, 17] := decide_eq_true_iff

theorem setWidth_setWidth_eq_and (x : Word) (n : Nat) : (x.setWidth n).setWidth 64 = x &&& (BitVec.allOnes n).setWidth 64 := by
  ext i hi
  simp only [BitVec.getElem_setWidth, BitVec.getLsbD_setWidth, BitVec.getElem_and, BitVec.getLsbD_allOnes, BitVec.getLsbD_eq_getElem hi]
  exact Bool.and_comm _ _

theorem Slot.setCtl_s (sl : Slot) (c : Fin 18) (x : Word) (n : Nat) : (sl.setCtl c x n).s = sl.s := by
  unfold Slot.setCtl
  split <;> rfl

theorem Slot.setCtl_pc (sl : Slot) (c : Fin 18) (x : Word) (n : Nat) : (sl.setCtl c x n).pc = sl.pc := by
  unfold Slot.setCtl
  split <;> rfl

/-- What a control register written reads as afterwards. -/
theorem State.ctl_setCtl {s : State} {w : Who} {sl : Slot} {c : Fin 18} {x : Word} {n : Nat} (q : ctlWritable c = true)
    (e : s.slot w = (sl.setCtl c x n).next) : s.ctl w c = x &&& ctlMask c := by
  have q := (ctlWritable_iff c).mp q
  simp only [List.mem_cons, List.not_mem_nil, or_false] at q
  obtain ⟨k, hk⟩ := c
  unfold State.ctl
  dsimp only at q ⊢
  rw [e]
  obtain rfl | rfl | rfl | rfl | rfl | rfl | rfl | rfl | rfl := q
  all_goals simp only [Slot.next_flags, Slot.next_fen, Slot.next_tmr, Slot.next_tvec, Slot.next_tcause, Slot.next_tval, Slot.next_epc,
    Slot.next_tsave, Slot.next_rmode]
  · exact setWidth_setWidth_eq_and x _
  · exact setWidth_setWidth_eq_and x _
  · exact setWidth_setWidth_eq_and x _
  · exact (BitVec.and_allOnes (x := x)).symm
  · exact setWidth_setWidth_eq_and x _
  · exact (BitVec.and_allOnes (x := x)).symm
  · exact (BitVec.and_allOnes (x := x)).symm
  · rfl
  · exact setWidth_setWidth_eq_and x _

/-- Settles O45: the registers are read as listed; what `setCtl` writes is read back, and in the other registers nothing is written. -/
theorem controlRegisters : Obligations.ControlRegisters := by
  intro h d a c s g sl
  refine ⟨rfl, fun r => homeOnly_runs h s _ _ _ ⟨r, g⟩, ctlWritable_iff c, fun r q => ?writable, fun n q => ?readOnly⟩
  case writable =>
    intro mask
    have runs (k : Out) : homeOnly h s k = k := homeOnly_runs h s k _ _ ⟨r, g⟩
    refine ⟨⟨_, (if_pos q).trans (runs _), ?_⟩, ⟨_, (if_pos q).trans (runs _), ?_⟩⟩
    · refine ⟨State.ctl_setCtl q (s.slot_mod_cur _), ?_, ?_⟩
      · rw [State.slot_mod_cur, Slot.next_s, Slot.setCtl_s]
      · rw [State.slot_mod_cur, Slot.next_pc, Slot.setCtl_pc]
    · refine ⟨State.ctl_setCtl q (s.slot_mod_cur _), fun z => ?_⟩
      rw [State.slot_mod_cur, Slot.rs_next, Slot.rs, Slot.setCtl_s]
      exact Slot.rs_ws _ _ _ z
  case readOnly =>
    simp only [List.forall_mem_cons, List.not_mem_nil, false_imp_iff, implies_true, and_true]
    have off : ¬ ctlWritable c = true := by simp [q]
    have traps := trap_enters s 1 9 0 g n
    exact ⟨(if_neg off).trans traps, (if_neg off).trans traps⟩

end Sys2Proof.Machine
end

section
/-! SUPPORT. Every function of the model keeps the memories in canonical form, and every instruction completes: one lemma for each function
that gives a state, in the order of the definitions. -/

namespace Sys2Proof.Machine

/-- What is claimed of a core. -/
def Core.Canon (P : Prop) (c : Core) : Prop := P → c.sp.wf = true

/-- What is claimed of a cluster's engine. -/
def Engine.Canon (P : Prop) (e : Engine) : Prop := P → e.bstore.wf = true

/-- The four memories of a state in canonical form: global and host memory where `M` holds, scratchpads and B-stores where `P` does. With both
false nothing is claimed. -/
structure Stores (M P : Prop) (mem host : Memory) (cores : List (CoreId × Core)) (engines : List (ClusterId × Engine)) : Prop where
  mem : M → mem.wf = true
  host : M → host.wf = true
  cores : ∀ x ∈ cores, x.2.Canon P
  engines : ∀ x ∈ engines, x.2.Canon P

def State.Canon (M P : Prop) (s : State) : Prop := Stores M P s.mem s.hostMem s.cores s.engines

/-- A completion whose state is in canonical form. -/
def Out.Canon (M P : Prop) (o : Out) : Prop := ∃ t, o = .next t ∧ t.Canon M P

/-- A state that there may be. -/
def May.Canon (M P : Prop) (o : Option State) : Prop := ∀ t, o = some t → t.Canon M P

/-- A tile request handled, or what it lacks. -/
def Handled.Canon (M P : Prop) (o : Handled) : Prop := ∀ t, o = .done t → t.Canon M P

variable {M P : Prop} {s : State}

/-! ## How the claim passes through the language's own forms -/

theorem Stores.congr {mem host mem' host' : Memory} {cores cores' : List (CoreId × Core)} {engines engines' : List (ClusterId × Engine)}
    (h : Stores M P mem host cores engines) (e : (mem', host', cores', engines') = (mem, host, cores, engines)) :
    Stores M P mem' host' cores' engines' := by
  cases e
  exact h

theorem State.Canon.keep {t u : State} (hs : t.Canon M P)
    (e : (u.mem, u.hostMem, u.cores, u.engines) = (t.mem, t.hostMem, t.cores, t.engines)) : u.Canon M P := Stores.congr hs e

theorem State.Canon.ite {c : Prop} [Decidable c] {a b : State} (ha : a.Canon M P) (hb : b.Canon M P) : (if c then a else b).Canon M P := by
  split
  · exact ha
  · exact hb

theorem State.Canon.foldl {α : Type} {f : State → α → State} {l : List α} (hs : s.Canon M P)
    (hf : ∀ t x, t.Canon M P → (f t x).Canon M P) : (l.foldl f s).Canon M P := by
  induction l generalizing s with
  | nil => exact hs
  | cons x xs ih => exact ih (hf _ _ hs)

theorem State.Canon.ofFst {β : Type} {x : State × β} {t : State} {b : β} (e : x = (t, b)) (hs : x.1.Canon M P) : t.Canon M P := by
  rwa [e] at hs

theorem State.Canon.ofSnd {α : Type} {x : α × State} {a : α} {t : State} (e : x = (a, t)) (hs : x.2.Canon M P) : t.Canon M P := by
  rwa [e] at hs

theorem State.Canon.ofNext {o : Out} {t : State} (e : o = .next t) (ho : o.Canon M P) : t.Canon M P := by
  obtain ⟨u, hu, hs⟩ := ho
  exact Host.Outcome.next.inj (hu.symm.trans e) ▸ hs

theorem State.Canon.iteFst {β : Type} {c : Prop} [Decidable c] {a b : State × β} (ha : a.1.Canon M P) (hb : b.1.Canon M P) :
    (if c then a else b).1.Canon M P := by
  split
  · exact ha
  · exact hb

theorem State.Canon.iteSnd {α : Type} {c : Prop} [Decidable c] {a b : α × State} (ha : a.2.Canon M P) (hb : b.2.Canon M P) :
    (if c then a else b).2.Canon M P := by
  split
  · exact ha
  · exact hb

theorem State.Canon.foldlFst {α β : Type} {f : State × β → α → State × β} {l : List α} {a : State × β} (ha : a.1.Canon M P)
    (hf : ∀ t x, t.1.Canon M P → (f t x).1.Canon M P) : (l.foldl f a).1.Canon M P := by
  induction l generalizing a with
  | nil => exact ha
  | cons x xs ih => exact ih (hf _ _ ha)

theorem State.Canon.foldlSnd {α β : Type} {f : β × State → α → β × State} {l : List α} {a : β × State} (ha : a.2.Canon M P)
    (hf : ∀ t x, t.2.Canon M P → (f t x).2.Canon M P) : (l.foldl f a).2.Canon M P := by
  induction l generalizing a with
  | nil => exact ha
  | cons x xs ih => exact ih (hf _ _ ha)

theorem Core.Canon.foldl {α : Type} {f : Core → α → Core} {l : List α} {c : Core} (hs : c.Canon P)
    (hf : ∀ t x, t.Canon P → (f t x).Canon P) : (l.foldl f c).Canon P := by
  induction l generalizing c with
  | nil => exact hs
  | cons x xs ih => exact ih (hf _ _ hs)

theorem Core.Canon.ite {c : Prop} [Decidable c] {a b : Core} (ha : a.Canon P) (hb : b.Canon P) : (if c then a else b).Canon P := by
  split
  · exact ha
  · exact hb

theorem Out.Canon.next (hs : s.Canon M P) : Out.Canon M P (.next s) := ⟨s, rfl, hs⟩

theorem Out.Canon.ite {c : Prop} [Decidable c] {a b : Out} (ha : a.Canon M P) (hb : b.Canon M P) : (if c then a else b : Out).Canon M P := by
  split
  · exact ha
  · exact hb

theorem May.Canon.none : May.Canon M P none := fun t e => absurd e (Option.some_ne_none t).symm

theorem May.Canon.some (hs : s.Canon M P) : May.Canon M P (some s) := fun _ e => Option.some.inj e ▸ hs

theorem Handled.Canon.done (hs : s.Canon M P) : Handled.Canon M P (.done s) := fun _ e => Handled.done.inj e ▸ hs

theorem Handled.Canon.lacks {n} : Handled.Canon M P (.lacks n) := fun _ e => by cases e

theorem Handled.Canon.ite {c : Prop} [Decidable c] {a b : Handled} (ha : a.Canon M P) (hb : b.Canon M P) :
    (if c then a else b).Canon M P := by
  split
  · exact ha
  · exact hb

theorem Handled.Canon.of {x : Handled} {t : State} (e : x = .done t) (h : x.Canon M P) : t.Canon M P := h t e

theorem May.Canon.ite {c : Prop} [Decidable c] {a b : Option State} (ha : May.Canon M P a) (hb : May.Canon M P b) :
    May.Canon M P (if c then a else b) := by
  split
  · exact ha
  · exact hb

theorem State.Canon.getD {o : Option State} (ho : May.Canon M P o) (hs : s.Canon M P) : (o.getD s).Canon M P := by
  cases o with
  | none => exact hs
  | some t => exact ho t rfl

/-! ## The cores and the engines -/

theorem assocSet_forall {κ ν : Type} [DecidableEq κ] {q : ν → Prop} {l : List (κ × ν)} {a : κ} {x : ν} (hl : ∀ y ∈ l, q y.2) (hx : q x) :
    ∀ y ∈ assocSet l a x, q y.2 := by
  induction l with
  | nil => simpa [assocSet] using hx
  | cons y r ih =>
    obtain ⟨hy, hr⟩ := List.forall_mem_cons.mp hl
    unfold assocSet
    split
    · exact List.forall_mem_cons.mpr ⟨hx, hr⟩
    · exact List.forall_mem_cons.mpr ⟨hy, ih hr⟩

theorem assocD_of_forall {κ ν : Type} [DecidableEq κ] {q : ν → Prop} {l : List (κ × ν)} {a : κ} {d : ν} (hl : ∀ y ∈ l, q y.2) (hd : q d) :
    q (assocD l a d) := by
  induction l with
  | nil => exact hd
  | cons y r ih =>
    obtain ⟨hy, hr⟩ := List.forall_mem_cons.mp hl
    unfold assocD
    split
    · exact hy
    · exact ih hr

theorem Core.Canon.reset : Core.reset.Canon P := fun _ => Memory.nil_wf

theorem Engine.Canon.reset : Engine.reset.Canon P := fun _ => Memory.nil_wf

theorem State.Canon.core {c : CoreId} (hs : s.Canon M P) : (s.core c).Canon P := assocD_of_forall hs.cores .reset

theorem State.Canon.engine {c : ClusterId} (hs : s.Canon M P) : (s.engine c).Canon P := assocD_of_forall hs.engines .reset

theorem State.Canon.modCore {c} {f} (hs : s.Canon M P) (hk : ∀ x, x.Canon P → (f x).Canon P) : (s.modCore c f).Canon M P :=
  ⟨hs.mem, hs.host, assocSet_forall hs.cores (hk _ hs.core), hs.engines⟩

theorem State.Canon.modEngine {c} {f} (hs : s.Canon M P) (hk : ∀ x, x.Canon P → (f x).Canon P) : (s.modEngine c f).Canon M P :=
  ⟨hs.mem, hs.host, hs.cores, assocSet_forall hs.engines (hk _ hs.engine)⟩

theorem Core.Canon.spWrite {c : Core} {a bs} (hs : c.Canon P) : (c.spWrite a bs).Canon P := fun p => Memory.write_wf _ _ _ (hs p)

theorem Core.Canon.of_sp {c d : Core} (hs : c.Canon P) (e : d.sp = c.sp) : d.Canon P := fun p => (congrArg Memory.wf e).trans (hs p)

section
variable {c : Core} {p : Fin 4}

theorem Core.Canon.ringPut {m} (hs : c.Canon P) : (c.ringPut m).Canon P := .of_sp (.spWrite hs) rfl

theorem Core.Canon.setTags {b ws} (hs : c.Canon P) : (c.setTags b ws).Canon P := hs.of_sp rfl

theorem Core.Canon.roKeep {ws} (hs : c.Canon P) : (c.roKeep ws).Canon P := hs.of_sp (by rw [Core.roKeep])

theorem Core.Canon.roUpdate {a bs} (hs : c.Canon P) : (c.roUpdate a bs).Canon P := hs.of_sp (by rw [Core.roUpdate])

theorem Core.Canon.cacheWord {pc x} (hs : c.Canon P) : (c.cacheWord pc x).Canon P := hs.of_sp (by rw [Core.cacheWord])

theorem Core.Canon.shed (hs : c.Canon P) : (c.shed p).Canon P := .ite hs (.of_sp hs rfl)

theorem Core.Canon.unshed (hs : c.Canon P) : (c.unshed p).Canon P := .ite (.of_sp hs rfl) hs

theorem Core.Canon.makeTop (hs : c.Canon P) : (c.makeTop p).Canon P := .ite hs (.of_sp hs rfl)

theorem Core.Canon.pushBottom {q} (hs : c.Canon P) : (c.pushBottom p q).Canon P := .of_sp hs.shed rfl

theorem Core.Canon.pushTop {q} (hs : c.Canon P) : (c.pushTop p q).Canon P := .ite (.of_sp hs.shed rfl) (.of_sp hs.shed.makeTop rfl)

theorem Core.Canon.dropBottom (hs : c.Canon P) : (c.dropBottom p).Canon P :=
  .unshed (.of_sp (.ite hs.unshed hs : (if c.queues[p].isEmpty then c.unshed p else c).Canon P) rfl)

theorem Core.Canon.dropAt {i} (hs : c.Canon P) : (c.dropAt p i).Canon P := .ite (.of_sp hs rfl) (.unshed (.of_sp hs rfl))

end

theorem State.Canon.keepCore {c} {f : Core → Core} (hs : s.Canon M P) (e : ∀ x, (f x).sp = x.sp) : (s.modCore c f).Canon M P :=
  .modCore hs fun _ hc => hc.of_sp (e _)

theorem State.Canon.keepMyCore {f : Core → Core} (hs : s.Canon M P) (e : ∀ x, (f x).sp = x.sp) : (s.modMyCore f).Canon M P := .keepCore hs e

theorem State.Canon.keepEngine {c} {f : Engine → Engine} (hs : s.Canon M P) (e : ∀ x, (f x).bstore = x.bstore) : (s.modEngine c f).Canon M P :=
  .modEngine hs fun _ he p => (congrArg Memory.wf (e _)).trans (he p)

/-- Global memory and the host's replaced, the cores and engines kept. -/
theorem State.Canon.withMem {t u : State} (hs : t.Canon M P) (hm : M → u.mem.wf = true) (hh : M → u.hostMem.wf = true)
    (e : (u.cores, u.engines) = (t.cores, t.engines)) : u.Canon M P :=
  (congrArg (fun x : List (CoreId × Core) × List (ClusterId × Engine) => Stores M P u.mem u.hostMem x.1 x.2) e).mpr ⟨hm, hh, hs.cores, hs.engines⟩

/-- The cores and engines replaced, global memory and the host's kept. -/
theorem State.Canon.withPads {t u : State} (hs : t.Canon M P) (hc : ∀ x ∈ u.cores, x.2.Canon P) (he : ∀ x ∈ u.engines, x.2.Canon P)
    (e : (u.mem, u.hostMem) = (t.mem, t.hostMem)) : u.Canon M P :=
  (congrArg (fun x : Memory × Memory => Stores M P x.1 x.2 u.cores u.engines) e).mpr ⟨hs.mem, hs.host, hc, he⟩

theorem forall_map_snd {κ ν : Type} {q : ν → Prop} {l : List (κ × ν)} {f : κ × ν → κ × ν} (hl : ∀ y ∈ l, q y.2)
    (hf : ∀ y, q y.2 → q (f y).2) : ∀ y ∈ l.map f, q y.2 := by
  intro y m
  obtain ⟨x, hx, rfl⟩ := List.mem_map.mp m
  exact hf x (hl x hx)

/-! ## The functions of the model -/


theorem State.Canon.modSlot {w f} (hs : s.Canon M P) : (s.modSlot w f).Canon M P := .keepCore hs fun _ => rfl

theorem State.Canon.pick {n} (hs : s.Canon M P) : (s.pick n).2.Canon M P := .iteSnd hs (.keep hs rfl)

theorem State.Canon.freeWord (hs : s.Canon M P) : (s.freeWord).2.Canon M P := .keep hs rfl

theorem State.Canon.soon {t} (hs : s.Canon M P) : (s.soon t).Canon M P := .keep hs rfl

theorem State.Canon.setLink {l u} (hs : s.Canon M P) : (s.setLink l u).Canon M P := by
  unfold State.setLink
  split <;> exact .keep hs rfl

theorem State.Canon.linkWorks {l} (hs : s.Canon M P) : (s.linkWorks l).Canon M P := .ite hs (.setLink hs)

theorem State.Canon.routeFor {p} (hs : s.Canon M P) : (s.routeFor p).2.Canon M P := by
  unfold State.routeFor
  split
  · exact hs
  · refine .iteSnd (a := (_, _)) ?_ (.pick ?_) <;>
    · split
      · exact hs
      · exact .pick hs

theorem State.Canon.livePins (hs : s.Canon M P) : (s.livePins).Canon M P := .keep hs rfl

theorem State.Canon.setNet {net} (hs : s.Canon M P) : (s.setNet net).Canon M P := .livePins (.keep hs rfl)

theorem State.Canon.launchPacket {p h route} (hs : s.Canon M P) : (s.launchPacket p h route).Canon M P := .setNet (.keep hs rfl)

theorem State.Canon.replace {p} (hs : s.Canon M P) : (s.replace p).Canon M P := .launchPacket hs

theorem State.Canon.reroute {p} (hs : s.Canon M P) : (s.reroute p).Canon M P := .launchPacket (.routeFor hs)

theorem State.Canon.tell {a b} (hs : s.Canon M P) : (s.tell a b).Canon M P := by
  unfold State.tell
  refine .ite ?_ (.ite hs (.soon hs))
  split
  · exact .replace hs
  · exact .replace hs
  · exact .replace hs
  · exact .replace hs
  · exact .soon hs

theorem State.Canon.again {p} (hs : s.Canon M P) : (s.again p).Canon M P := by
  unfold State.again
  split
  · exact .ite (.reroute hs) (.ite hs (.soon hs))
  · exact hs
  · exact .reroute hs

theorem State.Canon.loseGrant {a name id} (hs : s.Canon M P) : (s.loseGrant a name id).Canon M P := by
  unfold State.loseGrant
  refine .ite ?_ ?_
  · split
    · exact .soon hs
    · exact hs
  · split
    · exact .again hs
    · exact hs

theorem State.Canon.dropGuest {home} (hs : s.Canon M P) : (s.dropGuest home).Canon M P := .ite (.soon hs) (.tell hs)

theorem State.Canon.countTask {c sent accepted} (hs : s.Canon M P) : (s.countTask c sent accepted).Canon M P := .keep hs rfl

theorem State.Canon.uncountTask {c src} (hs : s.Canon M P) : (s.uncountTask c src).Canon M P := .ite hs (.keep hs rfl)

theorem State.Canon.failPacket {cause sub p} (hs : s.Canon M P) : (s.failPacket cause sub p).Canon M P := by
  unfold State.failPacket
  dsimp only
  split
  · exact .ite (.foldl hs (fun _ _ hs => .tell hs)) (.tell hs)
  · exact .ite (.foldl hs (fun _ _ hs => .tell hs)) (.tell hs)
  · exact hs
  · exact .ite (.foldl hs (fun _ _ hs => .tell hs)) (.tell hs)
  · exact .tell hs
  · exact .tell hs
  · exact .tell hs
  · split
    · exact .ite (.replace hs) (.tell hs)
    · exact .tell hs
  · exact .tell (.ite (.loseGrant hs) hs)
  · refine .ite (.soon ?_) (.again ?_)
    · split
      · exact .tell hs
      · exact hs
    · split
      · exact .tell hs
      · exact hs
  · exact .again hs
  · exact hs
  · exact .ite (.ite (.soon hs) (.again hs)) (.tell (.ite (.soon hs) (.again hs)))
  · exact .again hs
  · exact .again hs
  · refine .tell ?_
    split
    · exact .uncountTask hs
    · exact hs
  · exact .tell hs
  · exact .tell hs
  · exact .dropGuest hs
  · exact .dropGuest hs
  · exact .dropGuest hs
  · exact .again hs
  · exact .again hs
  · exact .again hs
  · exact hs
  · exact hs
  · exact .again hs
  · exact .again hs

theorem State.Canon.route {p h} (hs : s.Canon M P) : (s.route p h).Canon M P :=
    .ite (.failPacket hs) (.ite (.failPacket hs) (.launchPacket (.routeFor hs)))

theorem State.Canon.inject {p} (hs : s.Canon M P) : (s.inject p).Canon M P := .route hs

theorem State.Canon.injectHeld {p h} (hs : s.Canon M P) : (s.injectHeld p h).Canon M P := .route hs

theorem State.Canon.ergSend {p} (hs : s.Canon M P) : (s.ergSend p).Canon M P := by
  unfold State.ergSend
  dsimp only
  split
  · exact .failPacket hs
  · exact .keep hs rfl

theorem State.Canon.send {p} (hs : s.Canon M P) : (s.send p).Canon M P := .ite (.ergSend hs) (.inject hs)

theorem State.Canon.post {p h} (hs : s.Canon M P) : (s.post p h).Canon M P := .ite (.send hs) (.injectHeld hs)

theorem State.Canon.sendAll {ps} (hs : s.Canon M P) : (s.sendAll ps).Canon M P := .foldl hs (fun _ _ hs => .send hs)

theorem State.Canon.take {k q t} (hs : s.Canon M P) (e : s.take k = some (q, t)) : t.Canon M P := by
  unfold State.take at e
  split at e
  · cases e
  · split at e
    · cases e
      refine .setNet (.foldl hs fun _ _ hs => ?_)
      split
      · exact .linkWorks hs
      · exact hs
    · cases e

theorem State.Canon.gateOut (hs : s.Canon M P) : (s.gateOut).Canon M P := by
  refine .foldl hs fun t k ht => .ite ?_ ht
  have hp : (t.pick 2).2.Canon M P := .pick ht
  dsimp only
  split
  · next e =>
    have e := (Option.ite_none_left_eq_some.mp e).2
    exact .ergSend (.take hp e)
  · exact hp

theorem State.Canon.mod {f} (hs : s.Canon M P) : (s.mod f).Canon M P := .modSlot hs

theorem State.Canon.modMyCore {f} (hs : s.Canon M P) (hk : ∀ x, x.Canon P → (f x).Canon P) : (s.modMyCore f).Canon M P := .modCore hs hk

theorem State.Canon.drainStep {c} (hs : s.Canon M P) : (s.drainStep c).Canon M P := .keepEngine hs fun _ => rfl

theorem State.Canon.failItems {c n} (hs : s.Canon M P) : (s.failItems c n).Canon M P := by
  unfold State.failItems
  split
  · exact hs
  · exact .keep hs rfl

theorem Out.Canon.retire {f} (hs : s.Canon M P) : (retire s f).Canon M P := .next (.mod hs)

theorem Out.Canon.guarded {h k} (hs : s.Canon M P) (hk : k.Canon M P) : (guarded h s k).Canon M P := .ite hk (.next (.mod hs))

theorem State.Canon.message {src rcv m} (hs : s.Canon M P) : (s.message src rcv m).Canon M P := by
  unfold State.message
  split
  · exact hs
  · exact .send hs

theorem State.Canon.park {r w} (hs : s.Canon M P) : (s.park r w).Canon M P := .mod hs

theorem Out.Canon.parkAgain {r c} (hs : s.Canon M P) : (parkAgain s r c).Canon M P := .next (.park hs)

theorem State.Canon.wakeSleepers {c bit} (hs : s.Canon M P) : (s.wakeSleepers c bit).Canon M P := .keepCore hs fun _ => rfl

theorem State.Canon.poolEvent {w} (hs : s.Canon M P) : (s.poolEvent w).Canon M P := .ite (.wakeSleepers hs) hs

theorem State.Canon.errClear {w} (hs : s.Canon M P) : (s.errClear w).2.Canon M P := by
  unfold State.errClear
  split
  · exact hs
  · exact .keep hs rfl

theorem State.Canon.sendHome {w why pc roamed} (hs : s.Canon M P) : (s.sendHome w why pc roamed).Canon M P := by
  unfold State.sendHome
  dsimp only
  split
  · exact hs
  · exact .poolEvent (.injectHeld (.modSlot hs))

theorem State.Canon.trapAt {w cls sub tval epc} (hs : s.Canon M P) : (s.trapAt w cls sub tval epc).Canon M P :=
    .ite (.sendHome hs) (.ite (.poolEvent (.message (.modSlot hs))) (.modSlot hs))

theorem Out.Canon.trap {cls sub tval} (hs : s.Canon M P) : (trap s cls sub tval).Canon M P := .next (.trapAt hs)

theorem Out.Canon.homeOnly {h k cls sub} (hs : s.Canon M P) (hk : k.Canon M P) : (homeOnly h s k cls sub).Canon M P :=
    .guarded hs (.ite (.trap hs) hk)

theorem Out.Canon.stewardOnly {h k} (hs : s.Canon M P) (hk : k.Canon M P) : (stewardOnly h s k).Canon M P := .ite (.homeOnly hs hk) (.trap hs)

theorem State.Canon.mbAdd {c i n} (hs : s.Canon M P) : (s.mbAdd c i n).Canon M P := .ite hs (.wakeSleepers (.keepCore hs fun _ => rfl))

theorem State.Canon.hostWrite {addr d} (hs : s.Canon M P) : (s.hostWrite addr d).Canon M P :=
  .withMem hs hs.mem (fun p => Memory.write_wf _ _ _ (hs.host p)) rfl

theorem State.Canon.queueEvents {es} (hs : s.Canon M P) : (s.queueEvents es).Canon M P := .foldl hs (fun _ _ hs => .hostWrite (.keep hs rfl))

theorem State.Canon.raise {k die detail} (hs : s.Canon M P) : (s.raise k die detail).Canon M P := .ite (.queueEvents hs) (.keep hs rfl)

theorem State.Canon.crossed {st pa} (hs : s.Canon M P) : (s.crossed st pa).Canon M P := .foldl hs (fun _ _ hs => .linkWorks hs)

theorem State.Canon.bumpLine {line} (hs : s.Canon M P) : (s.bumpLine line).Canon M P := .keep hs rfl

theorem State.Canon.writeWord {pa bs through} (hs : s.Canon M P) : (s.writeWord pa bs through).Canon M P :=
  .ite (.raise hs) (.withMem hs (fun p => Memory.write_wf _ _ _ (hs.mem p)) hs.host rfl)

theorem State.Canon.gwrite {pa bs through} (hs : s.Canon M P) : (s.gwrite pa bs through).Canon M P :=
    .foldl (.foldl hs (fun _ _ hs => .writeWord hs)) (fun _ _ hs => .bumpLine hs)

theorem State.Canon.zeroFrame {frame} (hs : s.Canon M P) : (s.zeroFrame frame).Canon M P :=
  .withMem hs (fun p => Memory.filter_wf _ _ (hs.mem p)) hs.host rfl

theorem State.Canon.check {w va n kind align win} (hs : s.Canon M P) : (s.check w va n kind align win).1.Canon M P :=
  .iteFst hs (.iteFst hs (.iteFst (.iteSnd (.pick hs) hs) (.iteSnd (.pick hs) hs)))

theorem State.Canon.takeFrame {p f t} (hs : s.Canon M P) (e : s.takeFrame p = some (f, t)) : t.Canon M P := by
  unfold State.takeFrame at e
  dsimp only at e
  split at e
  · cases e
  · cases e
    exact .keep (.pick hs) rfl

theorem State.Canon.setCommit {ea frame} (hs : s.Canon M P) : (s.setCommit ea frame).Canon M P := .gwrite hs

theorem State.Canon.dropPend {root page} (hs : s.Canon M P) : (s.dropPend root page).Canon M P := .keep hs rfl

theorem State.Canon.autoCommit {root page st} (hs : s.Canon M P) : (s.autoCommit root page st).Canon M P := by
  unfold State.autoCommit
  split
  · refine .ite ?_ hs
    split
    · exact .dropPend (.setCommit (.zeroFrame (.takeFrame hs ‹_›)))
    · exact hs
  · exact hs

theorem State.Canon.addPend {st root page sup src slot from_ kind} (hs : s.Canon M P) :
    (s.addPend st root page sup src slot from_ kind).Canon M P := .ite hs (.ite (.raise (.keep hs rfl)) (.message (.keep hs rfl)))

theorem State.Canon.pendPages {w pages kind} (hs : s.Canon M P) : (s.pendPages w pages kind).Canon M P := .foldl hs (fun _ _ hs => .addPend hs)

theorem State.Canon.parkPage {w pages kind wait} (hs : s.Canon M P) : (s.parkPage w pages kind wait).Canon M P := .pendPages (.modSlot hs)

theorem State.Canon.takeWalks {w rs} (hs : s.Canon M P) : (s.takeWalks w rs).Canon M P := .modSlot (.keepCore hs fun _ => rfl)

theorem State.Canon.autoCommits {w ps} (hs : s.Canon M P) : (s.autoCommits w ps).Canon M P := .foldl hs (fun _ _ hs => .autoCommit hs)

theorem State.Canon.shareWalks {st root rs} (hs : s.Canon M P) : (s.shareWalks st root rs).Canon M P :=
    .foldl hs (fun _ _ hs => .ite hs (.takeWalks hs))

theorem State.Canon.access {w va n kind align win} (hs : s.Canon M P) : (s.access w va n kind align win).1.Canon M P := by
  unfold State.access
  split
  · have ht := State.Canon.ofFst ‹_› (State.Canon.check hs)
    split
    · exact ht
    · exact .check (.takeWalks (.autoCommits ht))
  · exact .check hs

theorem Out.Canon.streamGate {reads writes k} (hs : s.Canon M P) (hk : k.Canon M P) : (streamGate s reads writes k).Canon M P := by
  unfold Machine.streamGate
  split
  · exact hk
  · exact .trap (.mod hs)
  · exact .parkAgain hs
  · exact .next (.parkPage (.mod hs))

theorem Out.Canon.afterRelease {k} (hs : s.Canon M P) (hk : k.Canon M P) : (afterRelease s k).Canon M P := .ite (.parkAgain hs) hk

theorem Out.Canon.withCheck {va n kind align win k} (hs : s.Canon M P) (hk : ∀ x0 x1, x0.Canon M P → (k x0 x1).Canon M P) :
    (withCheck s va n kind align win k).Canon M P := by
  unfold Machine.withCheck
  split
  · exact .ite (.parkAgain (.ofFst ‹_› (.access hs))) (hk _ _ (.ofFst ‹_› (.access hs)))
  · exact .trap (.ofFst ‹_› (.access hs))
  · exact .parkAgain (.ofFst ‹_› (.access hs))
  · exact .next (.parkPage (.ofFst ‹_› (.access hs)))

theorem Out.Canon.postStore {segs bs op rel fabric pops} (hs : s.Canon M P) : (postStore s segs bs op rel fabric pops).Canon M P :=
    .ite (.parkAgain hs) (.retire hs)

theorem Out.Canon.globalLoad {d w sg sc va segs} (hs : s.Canon M P) : (globalLoad s d w sg sc va segs).Canon M P := by
  unfold Machine.globalLoad
  dsimp only
  split
  · exact .retire hs
  · exact .ite (.next (.mod (.park hs))) (.ite (.retire (.iteSnd (.pick hs) hs)) (.next (.park (.iteSnd (.pick hs) hs))))

theorem Out.Canon.doLoad {h d a m} (hs : s.Canon M P) : (doLoad h s d a m).Canon M P :=
    .guarded hs (.streamGate hs (.withCheck hs (fun _ _ hs => .globalLoad hs)))

theorem Out.Canon.doStore {h b a m} (hs : s.Canon M P) : (doStore h s b a m).Canon M P :=
    .guarded hs (.streamGate hs (.withCheck hs (fun _ _ hs => .postStore hs)))

theorem Out.Canon.guestF {isF k tval} (hs : s.Canon M P) (hk : k.Canon M P) : (guestF s isF k tval).Canon M P := .ite (.trap hs) hk

theorem Out.Canon.execLdg {h d a m} (hs : s.Canon M P) : (execLdg h d a m s).Canon M P := .guarded hs (.guestF hs (.doLoad hs))

theorem Out.Canon.execStg {h b a m} (hs : s.Canon M P) : (execStg h b a m s).Canon M P := .guarded hs (.guestF hs (.doStore hs))

theorem Out.Canon.execLdgv {h d a m} (hs : s.Canon M P) : (execLdgv h d a m s).Canon M P := .guarded hs (.guestF hs (.doLoad hs))

theorem Out.Canon.execStgv {h b a m} (hs : s.Canon M P) : (execStgv h b a m s).Canon M P := .guarded hs (.guestF hs (.doStore hs))

theorem Out.Canon.doAmo {g op a m} (hs : s.Canon M P) : (doAmo s g op a m).Canon M P :=
    .withCheck hs (fun _ _ hs => .ite (.parkAgain hs) (.next (.park hs)))

theorem Out.Canon.execAmo {h op d a b m} (hs : s.Canon M P) : (execAmo h op d a b m s).Canon M P := .guarded hs (.doAmo hs)

theorem Out.Canon.execAmocas {h d a b m} (hs : s.Canon M P) : (execAmocas h d a b m s).Canon M P := .guarded hs (.doAmo hs)

theorem Out.Canon.execAmox {h op a b m} (hs : s.Canon M P) : (execAmox h op a b m s).Canon M P :=
    .guarded hs (.withCheck hs (fun _ _ hs => .ite (.parkAgain hs) (.postStore hs)))

theorem Out.Canon.execPref {h ro a off} (hs : s.Canon M P) : (execPref h ro a off s).Canon M P := by
  unfold Machine.execPref
  refine .guarded hs (.retire ?_)
  split
  · exact .modMyCore hs (fun _ hs => .roKeep hs)
  · exact hs

theorem State.Canon.roFresh {c old} (hs : s.Canon M P) : (s.roFresh c old).Canon M P := .keepCore hs fun _ => rfl

theorem State.Canon.acquire {c sc} (hs : s.Canon M P) : (s.acquire c sc).Canon M P := .ite (.keepCore hs fun _ => rfl) hs

theorem Out.Canon.execFence {h sc} (hs : s.Canon M P) : (execFence h sc s).Canon M P := .guarded hs (.ite (.retire hs) (.next (.mod (.park hs))))

theorem Out.Canon.execLdres {h d a m} (hs : s.Canon M P) : (execLdres h d a m s).Canon M P :=
    .guarded hs (.guestF hs (.streamGate hs (.withCheck hs (fun _ _ hs => .ite (.parkAgain hs) (.next (.park hs))))))

theorem State.Canon.reserve {w pa} (hs : s.Canon M P) : (s.reserve w pa).Canon M P := .ite hs (.modSlot (.keep hs rfl))

theorem State.Canon.cmScan {es} (hs : s.Canon M P) : (s.cmScan es).1.Canon M P := .foldlFst hs fun _ _ hs => .check hs

theorem Out.Canon.cmChecks {es k} (hs : s.Canon M P) (hk : ∀ t ls, t.Canon M P → (k t ls).Canon M P) : (cmChecks s es k).Canon M P := by
  have hc : (s.cmScan es).1.Canon M P := .cmScan hs
  unfold Machine.cmChecks
  dsimp only
  split
  · exact .parkAgain hc
  · split
    · exact .trap hc
    · have ha : (if (cmSparse (s.cmScan es).2).isEmpty then s.cmScan es else
          (((s.cmScan es).1.autoCommits (s.cmScan es).1.cur (cmSparse (s.cmScan es).2)).takeWalks (s.cmScan es).1.cur
            (((s.cmScan es).1.autoCommits (s.cmScan es).1.cur (cmSparse (s.cmScan es).2)).walks
              (((s.cmScan es).1.autoCommits (s.cmScan es).1.cur (cmSparse (s.cmScan es).2)).rootOf (s.cmScan es).1.cur)
              (cmSparse (s.cmScan es).2))).cmScan es).1.Canon M P :=
        .iteFst hc (.cmScan (.takeWalks (.autoCommits hc)))
      split
      · exact .next (.parkPage ha)
      · exact .ite (.parkAgain ha) (hk _ _ ha)

theorem Out.Canon.cmCode {d code} (hs : s.Canon M P) : (cmCode s d code).Canon M P := .retire hs

theorem Out.Canon.execCmstore {h sc d a b off} (hs : s.Canon M P) : (execCmstore h sc d a b off s).Canon M P := by
  refine .guarded hs (.afterRelease hs (.ite (.cmCode hs) (.ite (.cmCode hs) (.cmChecks hs fun _ _ hs => ?_))))
  split
  · exact .cmCode hs
  · exact .ite (.cmCode hs) (.next (.park hs))

theorem State.Canon.cmPerform {w ls} (hs : s.Canon M P) : (s.cmPerform w ls).2.Canon M P := by
  refine .iteSnd hs (.iteSnd hs ?_)
  have hw := State.Canon.foldl (f := State.bumpLine) (l := ((ls.filter fun l => l.mask ≠ 0).map (·.line)).eraseDups)
    (State.Canon.foldl (l := ls) hs fun t l ht => State.Canon.foldl (l := List.range 16)
      (f := fun s i => if l.mask.getLsbD i then s.writeWord (l.line + 8 * i) ((l.data.drop (8 * i)).take 8) l.through else s) ht
      fun _ _ ht => .ite (.writeWord ht) ht) fun _ _ ht => .bumpLine ht
  exact .modCore hw fun _ _ => .foldl hw.core fun _ _ hc => .foldl hc fun _ _ hc => .ite (.roUpdate hc) hc

theorem Out.Canon.execCommit {h d a b off} (hs : s.Canon M P) : (execCommit h d a b off s).Canon M P := .homeOnly hs (.next (.park hs))

theorem State.Canon.denyPage {root page} (hs : s.Canon M P) : (s.denyPage root page).Canon M P :=
    .sendAll (.setNet (.foldl (.dropPend hs) (fun _ _ hs => .ite (.modSlot hs) hs)))

theorem State.Canon.commitPage {root va frame st} (hs : s.Canon M P) : (s.commitPage root va frame st).2.Canon M P := by
  unfold State.commitPage
  dsimp only
  refine .iteSnd hs ?_
  split
  · exact .iteSnd hs hs
  · refine .iteSnd (.denyPage hs) (.iteSnd ?_ (.iteSnd hs (.dropPend (.setCommit hs))))
    split
    · exact hs
    · exact .dropPend (.setCommit (.zeroFrame (.takeFrame hs ‹_›)))
  · exact hs

theorem State.Canon.dropTlb {only root page} (hs : s.Canon M P) : (s.dropTlb only root page).Canon M P := by
  unfold State.dropTlb
  extract_lets keep hit t u
  have ht : t.Canon M P := .withPads hs (forall_map_snd hs.cores fun _ hc => by split <;> exact hc) hs.engines rfl
  have hu : u.Canon M P := .foldl ht fun _ _ ht => .ite (.modSlot ht) ht
  exact .ite hu (.withPads hu hu.cores (forall_map_snd hu.engines fun _ he => he) rfl)

theorem State.Canon.dropFrame {frame} (hs : s.Canon M P) : (s.dropFrame frame).Canon M P := by
  refine .withMem hs (fun p => ?_) hs.host rfl
  exact List.foldlRecOn (motive := fun m => Memory.wf m = true) _ _ (hs.mem p) fun _ hm _ _ => Memory.setNum_wf _ _ _ _ hm

theorem Out.Canon.execDecommit {h d a off} (hs : s.Canon M P) : (execDecommit h d a off s).Canon M P := by
  unfold Machine.execDecommit
  refine .homeOnly hs ?_
  dsimp only
  split
  · exact .next (.park hs)
  · exact .next (.park (.dropTlb (.roFresh (.gwrite hs))))

theorem Out.Canon.execPalloc {h d a} (hs : s.Canon M P) : (execPalloc h d a s).Canon M P := .homeOnly hs (.next (.park hs))

theorem Out.Canon.execPfree {h d a} (hs : s.Canon M P) : (execPfree h d a s).Canon M P := .homeOnly hs (.next (.park hs))

theorem State.Canon.addFrame {p f} (hs : s.Canon M P) : (s.addFrame p f).2.Canon M P := .iteSnd hs (.keep hs rfl)

theorem State.Canon.freeFrame {frame} (hs : s.Canon M P) : (s.freeFrame frame).2.Canon M P := .iteSnd hs (.addFrame hs)

theorem Out.Canon.execXlat {h d a off} (hs : s.Canon M P) : (execXlat h d a off s).Canon M P := .guarded hs (.retire hs)

theorem Out.Canon.execTlbinv {h all mdl a off} (hs : s.Canon M P) : (execTlbinv h all mdl a off s).Canon M P :=
    .homeOnly hs (.next (.park (.dropTlb hs)))

theorem Out.Canon.execWback {h page a off} (hs : s.Canon M P) : (execWback h page a off s).Canon M P := by
  unfold Machine.execWback
  refine .homeOnly hs ?_
  dsimp only
  split
  · exact .next (.park (.ofFst ‹_› (.check hs)))
  · exact .retire (.ofFst ‹_› (.check hs))
  · exact .trap (.ofFst ‹_› (.check hs))
  · exact .parkAgain (.ofFst ‹_› (.check hs))
  · exact .retire (.ofFst ‹_› (.check hs))

theorem State.Canon.writeBack {lo n} (hs : s.Canon M P) : (s.writeBack lo n).Canon M P := .keep hs rfl

theorem Out.Canon.execTranslationWalk {w} (hs : s.Canon M P) : (execTranslationWalk w s).Canon M P := .next (.shareWalks hs)

theorem Out.Canon.execPendingCommitRetry {w} (hs : s.Canon M P) : (execPendingCommitRetry w s).Canon M P := by
  unfold Machine.execPendingCommitRetry
  split
  · exact .next (.pendPages hs)
  · exact .ite (.next (.pendPages hs)) (.next hs)
  · exact .next hs

theorem State.Canon.setCounter {pa x} (hs : s.Canon M P) : (s.setCounter pa x).Canon M P := by
  rw [show State.setCounter = _ from (by delta State.setCounter; exact rfl)]
  generalize counterAt pa = k
  split
  · exact .ite hs (.wakeSleepers (.keepCore hs fun _ => by dsimp only))
  · exact hs

theorem State.Canon.writeAt {c pa bs through} (hs : s.Canon M P) : (s.writeAt c pa bs through).Canon M P :=
  .ite (.setCounter hs) (.modCore (.gwrite hs) fun _ hc => .foldl hc fun _ _ hc => .roUpdate hc)

theorem State.Canon.performStore {w k part} (hs : s.Canon M P) : (s.performStore w k part).Canon M P := by
  unfold State.performStore
  split
  · exact hs
  · split
    · exact hs
    · refine .modSlot (.ite (.failItems hs) ?_)
      dsimp only
      split
      · exact .writeAt (.crossed hs)
      · exact .ite (.raise (.crossed hs)) (.writeAt (.crossed hs))

theorem State.Canon.performLoad {w part} (hs : s.Canon M P) : (s.performLoad w part).Canon M P := by
  unfold State.performLoad
  split
  · split
    · exact hs
    · refine .ite (.modSlot hs) (.ite (.modSlot hs) (.modSlot ?_))
      split
      · refine .acquire ?_
        split
        · exact .ite (.reserve (.crossed hs)) (.ite (.modCore (.crossed hs) (fun _ hs => .roKeep hs)) (.crossed hs))
        · exact .writeAt (.crossed hs)
        · exact .ite (.writeAt (.crossed hs)) (.crossed hs)
      · refine .acquire ?_
        split
        · exact .ite (.reserve (.crossed hs)) (.ite (.modCore (.crossed hs) (fun _ hs => .roKeep hs)) (.crossed hs))
        · exact .writeAt (.crossed hs)
        · exact .ite (.writeAt (.crossed hs)) (.crossed hs)
      · split
        · exact .ite (.reserve (.crossed hs)) (.ite (.modCore (.crossed hs) (fun _ hs => .roKeep hs)) (.crossed hs))
        · exact .writeAt (.crossed hs)
        · exact .ite (.writeAt (.crossed hs)) (.crossed hs)
  · exact hs

theorem Out.Canon.execGlobalAccessAtSlice {a} (hs : s.Canon M P) : (execGlobalAccessAtSlice a s).Canon M P := by
  unfold Machine.execGlobalAccessAtSlice
  split
  · exact .ite (.next (.performStore hs)) (.next hs)
  · exact .ite (.next (.performLoad hs)) (.next hs)
  · exact .next (.writeBack hs)
  · exact .next (.keepCore hs fun _ => rfl)

theorem Out.Canon.execFenceProbe {w g} (hs : s.Canon M P) : (execFenceProbe w g s).Canon M P := .next (.modSlot hs)

theorem Out.Canon.execFenceEcho {w g} (hs : s.Canon M P) : (execFenceEcho w g s).Canon M P := by
  unfold Machine.execFenceEcho
  split
  · exact .ite (.next (.modSlot hs)) (.next hs)
  · exact .next hs

theorem Out.Canon.execPatrolScrub {pa r} (hs : s.Canon M P) : (execPatrolScrub pa r s).Canon M P := by
  unfold Machine.execPatrolScrub
  split
  · exact .next hs
  · exact .next (.keep hs rfl)
  · exact .ite (.next (.raise (.keep hs rfl))) (.next hs)

theorem Out.Canon.withLocal {a n align k} (hs : s.Canon M P) (hk : ∀ x0, (k x0).Canon M P) : (withLocal s a n align k).Canon M P := by
  unfold Machine.withLocal
  split
  · exact .trap hs
  · exact hk _

theorem Out.Canon.localLoad {h d a m} (hs : s.Canon M P) : (localLoad h s d a m).Canon M P :=
    .homeOnly hs (.afterRelease hs (.streamGate hs (.withLocal hs (fun _ => .retire hs))))

theorem Out.Canon.localStore {h b a m} (hs : s.Canon M P) : (localStore h s b a m).Canon M P :=
    .homeOnly hs (.afterRelease hs (.streamGate hs (.withLocal hs (fun _ => .retire (.modMyCore hs (fun _ hs => .spWrite hs))))))

theorem Out.Canon.execLdl {h d a m} (hs : s.Canon M P) : (execLdl h d a m s).Canon M P := .localLoad hs

theorem Out.Canon.execStl {h b a m} (hs : s.Canon M P) : (execStl h b a m s).Canon M P := .localStore hs

theorem Out.Canon.execLdlv {h d a m} (hs : s.Canon M P) : (execLdlv h d a m s).Canon M P := .localLoad hs

theorem Out.Canon.execStlv {h b a m} (hs : s.Canon M P) : (execStlv h b a m s).Canon M P := .localStore hs

theorem Out.Canon.execLdlp {h d a m} (hs : s.Canon M P) : (execLdlp h d a m s).Canon M P :=
    .homeOnly hs (.afterRelease hs (.withLocal hs (fun _ => .retire hs)))

theorem State.Canon.tagPerform {w t x n} (hs : s.Canon M P) : (s.tagPerform w t x n).Canon M P := by
  unfold State.tagPerform
  dsimp only
  split
  · exact .modSlot hs
  · exact .modSlot (.modCore hs (fun _ hs => .setTags hs))
  · exact .modSlot (.modCore hs (fun _ hs => .setTags (.spWrite hs)))

theorem Out.Canon.tagForm {h t a m reads writes} (hs : s.Canon M P) : (tagForm h s t a m reads writes).Canon M P :=
    .homeOnly hs (.afterRelease hs (.streamGate hs (.withLocal hs (fun _ => .ite (.next (.tagPerform hs)) (.next (.mod (.park hs)))))))

theorem Out.Canon.execLdf {h d a m} (hs : s.Canon M P) : (execLdf h d a m s).Canon M P := .tagForm hs

theorem Out.Canon.execLdfe {h d a m} (hs : s.Canon M P) : (execLdfe h d a m s).Canon M P := .tagForm hs

theorem Out.Canon.execStwe {h b a m} (hs : s.Canon M P) : (execStwe h b a m s).Canon M P := .tagForm hs

theorem Out.Canon.execTagWaitPerform {w} (hs : s.Canon M P) : (execTagWaitPerform w s).Canon M P := by
  unfold Machine.execTagWaitPerform
  dsimp only
  split
  · exact .ite (.next (.modSlot (.tagPerform (.modSlot hs)))) (.next hs)
  · exact .next hs

theorem State.Canon.tagPass {c} (hs : s.Canon M P) : (s.tagPass c).Canon M P := by
  unfold State.tagPass
  refine .foldl hs (fun _ _ hs => ?_)
  split
  · exact (.ofNext ‹_› (.execTagWaitPerform hs))
  · exact hs

theorem Out.Canon.tagOnly {h full a m} (hs : s.Canon M P) : (tagOnly h s full a m).Canon M P :=
    .homeOnly hs (.afterRelease hs (.withLocal hs (fun _ => .retire (.modMyCore hs (fun _ hs => .setTags hs)))))

theorem Out.Canon.execSete {h a m} (hs : s.Canon M P) : (execSete h a m s).Canon M P := .tagOnly hs

theorem Out.Canon.execSetf {h a m} (hs : s.Canon M P) : (execSetf h a m s).Canon M P := .tagOnly hs

theorem Out.Canon.execTagrd {h d a m} (hs : s.Canon M P) : (execTagrd h d a m s).Canon M P :=
    .homeOnly hs (.afterRelease hs (.withLocal hs (fun _ => .retire hs)))

theorem Out.Canon.localAmo {h a m new k} (hs : s.Canon M P) : (localAmo h s a m new k).Canon M P :=
    .homeOnly hs (.afterRelease hs (.withLocal hs (fun _ => .retire (.modMyCore hs (fun _ hs => .spWrite hs)))))

theorem Out.Canon.execLamo {h op d a b m} (hs : s.Canon M P) : (execLamo h op d a b m s).Canon M P := .localAmo hs

theorem Out.Canon.execLamox {h op a b m} (hs : s.Canon M P) : (execLamox h op a b m s).Canon M P := .localAmo hs

theorem Out.Canon.execLamocas {h d a b m} (hs : s.Canon M P) : (execLamocas h d a b m s).Canon M P := .localAmo hs

theorem Out.Canon.execLkput {h d a} (hs : s.Canon M P) : (execLkput h d a s).Canon M P := .homeOnly hs (.afterRelease hs (.retire hs))

theorem Out.Canon.execLkget {h d a b} (hs : s.Canon M P) : (execLkget h d a b s).Canon M P := .homeOnly hs (.afterRelease hs (.retire hs))

theorem Out.Canon.branch {h path k} (hs : s.Canon M P) (hk : k.Canon M P) : (branch h s path k).Canon M P := .ite hk (.next (.mod hs))

theorem Out.Canon.execBr {h off} (hs : s.Canon M P) : (execBr h off s).Canon M P := .branch hs (.next (.mod hs))

theorem Out.Canon.execJal {h off} (hs : s.Canon M P) : (execJal h off s).Canon M P := .branch hs (.next (.mod hs))

theorem Out.Canon.execJr {h a} (hs : s.Canon M P) : (execJr h a s).Canon M P := .branch hs (.next (.mod hs))

theorem Out.Canon.execJalr {h a} (hs : s.Canon M P) : (execJalr h a s).Canon M P := .branch hs (.next (.mod hs))

theorem Out.Canon.execBrx {h a b} (hs : s.Canon M P) : (execBrx h a b s).Canon M P := .branch hs (.ite (.trap hs) (.next (.mod hs)))

theorem Out.Canon.execLoop {h d off} (hs : s.Canon M P) : (execLoop h d off s).Canon M P := .branch hs (.next (.mod hs))

theorem Out.Canon.execNop {h} (hs : s.Canon M P) : (execNop h s).Canon M P := .guarded hs (.retire hs)

theorem State.Canon.stopSlot {w} (hs : s.Canon M P) : (s.stopSlot w).Canon M P := .poolEvent (.modSlot hs)

theorem Out.Canon.execStop {h} (hs : s.Canon M P) : (execStop h s).Canon M P := .homeOnly hs (.next (.stopSlot (.mod hs)))

theorem Out.Canon.execHalt {w} (hs : s.Canon M P) : (execHalt w s).Canon M P :=
    .ite (.next hs) (.ite (.next (.modSlot (.sendHome hs))) (.next (.modSlot (.stopSlot hs))))

theorem Out.Canon.execPause {h a} (hs : s.Canon M P) : (execPause h a s).Canon M P := .homeOnly hs (.ite (.retire hs) (.next (.park hs)))

theorem Out.Canon.execPauseExpiry {w} (hs : s.Canon M P) : (execPauseExpiry w s).Canon M P := by
  unfold Machine.execPauseExpiry
  split
  · exact .ite (.next (.modSlot hs)) (.next hs)
  · exact .next hs

theorem Out.Canon.execFetchb {h q len1 off} (hs : s.Canon M P) : (execFetchb h q len1 off s).Canon M P := by
  unfold Machine.execFetchb
  refine .stewardOnly hs ?_
  dsimp only
  split
  · exact .ite (.parkAgain hs) (.retire (.keepMyCore hs fun _ => rfl))
  · exact .parkAgain hs

theorem State.Canon.startBlock {w m b len late} (hs : s.Canon M P) : (s.startBlock w m b len late).Canon M P := by
  unfold State.startBlock
  dsimp only
  split
  · exact hs
  · exact .foldl hs (fun _ _ hs => .modSlot hs)

theorem Out.Canon.execBcast {h a len1 off} (hs : s.Canon M P) : (execBcast h a len1 off s).Canon M P := by
  unfold Machine.execBcast
  refine .stewardOnly hs (.ite (.retire hs) (.ite (.retire (.startBlock (.ite hs ?_))) (.next (.mod (.park (.foldl (.ite hs ?_) (fun _ _ hs =>
      .modSlot hs)))))))
  · split
    · exact .keepMyCore hs fun _ => rfl
    · exact hs
  · split
    · exact .keepMyCore hs fun _ => rfl
    · exact hs

theorem Out.Canon.execBlockStart {c} (hs : s.Canon M P) : (execBlockStart c s).Canon M P := by
  unfold Machine.execBlockStart
  dsimp only
  split
  · refine .ite (.next (.modSlot (.startBlock (.ite hs ?_)))) (.next (.foldl (.ite hs ?_) (fun _ _ hs => .modSlot hs)))
    · split
      · exact .keepCore hs fun _ => rfl
      · exact hs
    · split
      · exact .keepCore hs fun _ => rfl
      · exact hs
  · exact .next hs

theorem State.Canon.unreserve {c m} (hs : s.Canon M P) : (s.unreserve c m).Canon M P := .foldl hs (fun _ _ hs => .modSlot hs)

theorem Out.Canon.execSlgo {h d a b} (hs : s.Canon M P) : (execSlgo h d a b s).Canon M P :=
    .stewardOnly hs (.ite (.retire hs) (.ite (.retire hs) (.retire (.modSlot hs))))

theorem Out.Canon.execSlhalt {h d a} (hs : s.Canon M P) : (execSlhalt h d a s).Canon M P :=
    .stewardOnly hs (.retire (.foldl hs (fun _ _ hs => .modSlot hs)))

theorem Out.Canon.execSlwait {h d a} (hs : s.Canon M P) : (execSlwait h d a s).Canon M P :=
    .stewardOnly hs (.ite (.retire hs) (.next (.mod (.park hs))))

theorem Out.Canon.execSlpoll {h part d a} (hs : s.Canon M P) : (execSlpoll h part d a s).Canon M P := .stewardOnly hs (.retire hs)

theorem Out.Canon.execSlpool {h d} (hs : s.Canon M P) : (execSlpool h d s).Canon M P := .stewardOnly hs (.retire hs)

theorem Out.Canon.execFetchFill {w pc} (hs : s.Canon M P) : (execFetchFill w pc s).Canon M P := by
  unfold Machine.execFetchFill
  dsimp only
  refine .ite ?_ (.next hs)
  split
  · refine .next (.modCore (.shareWalks ?_) (fun _ hs => .cacheWord hs))
    split
    · exact .autoCommits hs
    · exact hs
  · refine .next (.modSlot (.shareWalks ?_))
    split
    · exact .autoCommits hs
    · exact hs
  · split
    · refine .ite (.next (.shareWalks ?_)) (.next (.parkPage (.shareWalks ?_)))
      · split
        · exact .autoCommits hs
        · exact hs
      · split
        · exact .autoCommits hs
        · exact hs
    · refine .next (.parkPage (.unreserve (.shareWalks ?_)))
      split
      · exact .autoCommits hs
      · exact hs
    · refine .next (.parkPage (.shareWalks ?_))
      split
      · exact .autoCommits hs
      · exact hs

theorem Out.Canon.execInstructionFetchFault {sub addr} (hs : s.Canon M P) : (execInstructionFetchFault sub addr s).Canon M P :=
    .next (.trapAt (.mod hs))

theorem Out.Canon.execIllegalInstruction {sub} (hs : s.Canon M P) : (execIllegalInstruction sub s).Canon M P := .trap hs

theorem Out.Canon.execTrap {h n} (hs : s.Canon M P) : (execTrap h n s).Canon M P := .homeOnly hs (.next (.trapAt hs))

theorem Out.Canon.execBrk {h n} (hs : s.Canon M P) : (execBrk h n s).Canon M P := .homeOnly hs (.trap hs)

theorem Out.Canon.execEret {h} (hs : s.Canon M P) : (execEret h s).Canon M P := .ite (.guarded hs (.next (.poolEvent (.mod hs)))) (.trap hs)

theorem Out.Canon.execCtlr {h d c} (hs : s.Canon M P) : (execCtlr h d c s).Canon M P := .homeOnly hs (.retire hs)

theorem Out.Canon.execCtlw {h c a} (hs : s.Canon M P) : (execCtlw h c a s).Canon M P := .ite (.homeOnly hs (.retire hs)) (.trap hs)

theorem Out.Canon.execCtlx {h d c b} (hs : s.Canon M P) : (execCtlx h d c b s).Canon M P := .ite (.homeOnly hs (.retire hs)) (.trap hs)

theorem Out.Canon.execTmrWrite {h d a} (hs : s.Canon M P) : (execTmrWrite h d a s).Canon M P := .homeOnly hs (.retire hs)

theorem Out.Canon.execTmrset {h d a n} (hs : s.Canon M P) : (execTmrset h d a n s).Canon M P := .homeOnly hs (.retire hs)

theorem Out.Canon.execTmrclr {h d} (hs : s.Canon M P) : (execTmrclr h d s).Canon M P := .homeOnly hs (.retire hs)

theorem Out.Canon.execTimerExpiry {w} (hs : s.Canon M P) : (execTimerExpiry w s).Canon M P := .ite (.next (.modSlot hs)) (.next hs)

theorem Out.Canon.execIcinv {h} (hs : s.Canon M P) : (execIcinv h s).Canon M P := .homeOnly hs (.retire (.keepMyCore hs fun _ => rfl))

theorem Out.Canon.execRcinv {h} (hs : s.Canon M P) : (execRcinv h s).Canon M P := .homeOnly hs (.retire (.keepMyCore hs fun _ => rfl))

theorem Out.Canon.execSleep {h d mask} (hs : s.Canon M P) : (execSleep h d mask s).Canon M P := .homeOnly hs (.ite (.retire hs) (.next (.park hs)))

theorem Out.Canon.execSmsgMsg {h a b tag} (hs : s.Canon M P) : (execSmsgMsg h a b tag s).Canon M P := by
  unfold Machine.execSmsgMsg
  refine .homeOnly hs ?_
  split
  · exact .trap hs
  · exact .retire (.injectHeld hs)

theorem May.Canon.answerFp {w trp} (hs : s.Canon M P) : May.Canon M P (s.answerFp w trp) := by
  unfold State.answerFp
  split
  · exact .some (.modSlot hs)
  · exact .none

theorem Out.Canon.smsgAnswer {h a trp} (hs : s.Canon M P) : (smsgAnswer h a trp s).Canon M P := by
  refine .homeOnly hs ?_
  split
  · exact .trap hs
  · exact .retire (.getD (.answerFp hs) (.keep hs rfl))

theorem Out.Canon.execSmsgRes {h a b} (hs : s.Canon M P) : (execSmsgRes h a b s).Canon M P := .smsgAnswer hs

theorem Out.Canon.execSmsgTrp {h a b} (hs : s.Canon M P) : (execSmsgTrp h a b s).Canon M P := .smsgAnswer hs

theorem Out.Canon.execAnswerAnException {w trp} (hs : s.Canon M P) : (execAnswerAnException w trp s).Canon M P := .next (.getD (.answerFp hs) hs)

theorem Out.Canon.execMessageArrival {k} (hs : s.Canon M P) : (execMessageArrival k s).Canon M P := by
  unfold Machine.execMessageArrival
  split
  · exact .next hs
  · split
    · refine .ite (.next hs) ?_
      split
      · exact .next hs
      · exact .ite (.next (.wakeSleepers (.wakeSleepers (.modCore (.take hs ‹_›) (fun _ hs => .ringPut hs))))) (.next (.wakeSleepers (.keepCore
          (.take hs ‹_›) fun _ => by dsimp only)))
    · split
      · exact .next hs
      · exact .next (.ergSend (.take hs ‹_›))
    · exact .next hs

theorem Out.Canon.execMessageBufferAccept {c} (hs : s.Canon M P) : (execMessageBufferAccept c s).Canon M P := by
  unfold Machine.execMessageBufferAccept
  dsimp only
  split
  · exact .next hs
  · next m _ _ => exact .ite (.next (.wakeSleepers (.modCore hs fun _ hs => .of_sp (Core.Canon.ringPut (m := m) hs) rfl))) (.next hs)

theorem State.Canon.askCancel {w name v why} (hs : s.Canon M P) : (s.askCancel w name v why).Canon M P := .ite (.modSlot hs) (.send (.modSlot hs))

theorem State.Canon.dropWait {w pc} (hs : s.Canon M P) : (s.dropWait w pc).Canon M P := by
  unfold State.dropWait
  dsimp only
  refine .modSlot ?_
  split
  · exact .unreserve hs
  · exact hs

theorem State.Canon.takeAsync {w cls sub tval clear sync} (hs : s.Canon M P) : (s.takeAsync w cls sub tval clear sync).Canon M P := by
  unfold State.takeAsync
  dsimp only
  refine .ite hs ?_
  split
  · exact .ite hs (.trapAt (.modSlot (.dropWait hs)))
  · exact .askCancel hs
  · exact hs

theorem Out.Canon.execTimerTrap {w} (hs : s.Canon M P) : (execTimerTrap w s).Canon M P := .ite (.next (.takeAsync hs)) (.next hs)

theorem Out.Canon.execCopyFaultTrap {w} (hs : s.Canon M P) : (execCopyFaultTrap w s).Canon M P := by
  unfold Machine.execCopyFaultTrap
  split
  · exact .next (.takeAsync hs)
  · exact .next hs

theorem Out.Canon.execMembershipChangeTrap {w} (hs : s.Canon M P) : (execMembershipChangeTrap w s).Canon M P := by
  unfold Machine.execMembershipChangeTrap
  split
  · exact .next (.takeAsync hs)
  · exact .next hs

theorem Out.Canon.execSpawnFailureTrap {w} (hs : s.Canon M P) : (execSpawnFailureTrap w s).Canon M P := by
  unfold Machine.execSpawnFailureTrap
  split
  · exact .next (.takeAsync hs)
  · exact .next hs

theorem Out.Canon.execWatchdog {w} (hs : s.Canon M P) : (execWatchdog w s).Canon M P := by
  unfold Machine.execWatchdog
  dsimp only
  split
  · exact .next hs
  · refine .ite (.next hs) ?_
    split
    · exact .next (.trapAt (.dropWait hs))
    · exact .next (.askCancel hs)
    · exact .next hs

theorem State.Canon.endRequest {c} (hs : s.Canon M P) : (s.endRequest c).Canon M P := by
  unfold State.endRequest
  split
  · exact hs
  · dsimp only
    split
    · exact .mbAdd (.keepCore hs fun _ => rfl)
    · exact .keepCore hs fun _ => rfl

theorem State.Canon.saveBytes {w off bs} (hs : s.Canon M P) : (s.saveBytes w off bs).Canon M P := by
  unfold State.saveBytes
  dsimp only
  refine .ite hs ?_
  split
  · exact hs
  · exact .foldl hs (fun _ _ hs => .ite (.gwrite hs) hs)

theorem State.Canon.savePend {w} (hs : s.Canon M P) : (s.savePend w).Canon M P := .saveBytes hs

theorem Out.Canon.execPreemption {w} (hs : s.Canon M P) : (execPreemption w s).Canon M P := by
  unfold Machine.execPreemption
  split
  · exact .next hs
  · refine .ite (.next hs) (.ite ?_ (.ite (.next (.endRequest hs)) ?_))
    · split
      · exact .next (.endRequest (.sendHome hs))
      · exact .next hs
    · split
      · exact .next hs
      · exact .next (.endRequest (.raise hs))
      · exact .next (.askCancel hs)
      · refine .ite (.next hs) (.next (.endRequest (.modSlot (.foldl ?_ (fun _ _ hs => .gwrite hs)))))
        split
        · exact .unreserve hs
        · exact hs

theorem Out.Canon.execSpill {h d a} (hs : s.Canon M P) : (execSpill h d a s).Canon M P :=
    .homeOnly hs (.ite (.retire hs) (.ite (.retire hs) (.ite (.retire hs) (.retire (.keepMyCore hs fun _ => rfl)))))

theorem Out.Canon.execUnspill {h d a b} (hs : s.Canon M P) : (execUnspill h d a b s).Canon M P :=
    .homeOnly hs (.ite (.retire hs) (.next (.mod (.park (.keepMyCore hs fun _ => rfl)))))

theorem State.Canon.resume {asker w area rot} (hs : s.Canon M P) : (s.resume asker w area rot).2.Canon M P := by
  unfold State.resume
  dsimp only
  refine .iteSnd hs ?_
  split
  · exact hs
  · exact .iteSnd (.modSlot hs) hs

theorem State.Canon.hostResumes {n c} (hs : s.Canon M P) : (State.hostResumes n s c).Canon M P := by
  induction n generalizing s with
  | zero => exact hs
  | succ n ih =>
    unfold State.hostResumes
    split
    · exact ih (.endRequest (.resume hs))
    · exact hs

theorem Out.Canon.execSpillOrResumeASlot {w resume} (hs : s.Canon M P) : (execSpillOrResumeASlot w resume s).Canon M P :=
    .ite (.next hs) (.next (.hostResumes (.keepCore hs fun _ => rfl)))

theorem State.Canon.fpPark {raised pc} (hs : s.Canon M P) : (s.fpPark raised pc).Canon M P :=
    .ite hs (.ite (.sendHome hs) (.ite (.raise (.mod hs)) (.message (.mod hs))))

theorem Out.Canon.retireFp {fl f} (hs : s.Canon M P) : (retireFp s fl f).Canon M P := .next (.fpPark (.mod hs))

theorem State.Canon.setRec {r} (hs : s.Canon M P) : (s.setRec r).Canon M P := .keep hs rfl

theorem May.Canon.makeRoom {key back} (hs : s.Canon M P) : May.Canon M P (s.makeRoom key back) := by
  unfold State.makeRoom
  refine .ite (.some hs) (.ite .none (.ite .none ?_))
  dsimp only
  split
  · exact .none
  · split
    · exact .none
    · split
      · exact .none
      · exact .some (.setRec hs)

theorem May.Canon.bringBack {name v} (hs : s.Canon M P) : May.Canon M P (s.bringBack name v) := by
  unfold State.bringBack
  split
  · exact .some hs
  · refine .ite (.some hs) ?_
    split
    · exact .none
    · split
      · exact .some (.setRec ((May.Canon.makeRoom hs _ ‹_›)))
      · exact .none

theorem State.Canon.relievePool {name c} (hs : s.Canon M P) : (s.relievePool name c).Canon M P := by
  unfold State.relievePool
  dsimp only
  refine .ite hs ?_
  split
  · exact hs
  · exact .ite (.setRec hs) hs

theorem State.Canon.tileAnswer {w name id r} (hs : s.Canon M P) : (s.tileAnswer w name id r).Canon M P := by
  unfold State.tileAnswer
  dsimp only
  refine .ite hs ?_
  split
  · exact .modSlot hs
  · exact .failItems (.modSlot hs)
  · exact .modSlot hs
  · exact .modSlot hs
  · exact .modSlot hs
  · split
    · exact .ite (.modSlot hs) (.sendAll (.modSlot hs))
    · exact .modSlot hs

theorem State.Canon.tileReply {a name id r} (hs : s.Canon M P) : (s.tileReply a name id r).Canon M P := .send hs

theorem State.Canon.gateReply {md c gid name refused} (hs : s.Canon M P) : (s.gateReply md c gid name refused).Canon M P := .send hs

theorem State.Canon.deliver {r e src job id addr j} (hs : s.Canon M P) : (s.deliver r e src job id addr j).Canon M P := by
  exact .send (.sendAll (.keep hs rfl))

theorem State.Canon.serve {n name v} (hs : s.Canon M P) : (State.serve n s name v).Canon M P := by
  induction n generalizing s with
  | zero => exact hs
  | succ n ih =>
    unfold State.serve
    split
    · exact hs
    · split
      · exact hs
      · refine .ite hs ?_
        split
        · exact hs
        · exact ih (.gateReply (.setRec hs))
        · exact .ite (ih (.deliver (.setRec hs))) (ih (.tileReply (.setRec hs)))

theorem State.Canon.serveAll {name v} (hs : s.Canon M P) : (s.serveAll name v).Canon M P := .serve hs

theorem State.Canon.grant {r e st c} (hs : s.Canon M P) : (s.grant r e st c).Canon M P := .tileReply (.relievePool (.setRec hs))

theorem Handled.Canon.tryGrant {r c} (hs : s.Canon M P) : (s.tryGrant r c).Canon M P := by
  unfold State.tryGrant
  dsimp only
  split
  · refine .ite (.done (.tileReply hs)) ?_
    split
    · exact .lacks
    · exact .done (.grant hs)
  · split
    · exact .lacks
    · split
      · exact .lacks
      · split
        · exact .lacks
        · exact .done (.grant ((May.Canon.makeRoom hs _ ‹_›)))

theorem State.Canon.turnAway {name ws cs} (hs : s.Canon M P) : (s.turnAway name ws cs).Canon M P := by
  refine .foldl (.foldl hs fun _ _ hs => ?_) fun _ _ hs => .tileReply hs
  split
  · exact .tileReply hs
  · exact .gateReply hs

theorem State.Canon.dropWaiting {name} (hs : s.Canon M P) : (s.dropWaiting name).Canon M P := by
  refine .foldl (.keep hs rfl) fun _ _ hs => ?_
  split
  · exact .gateReply hs
  · exact .tileReply hs

theorem State.Canon.pendDone {name} (hs : s.Canon M P) : (s.pendDone name).Canon M P := by
  unfold State.pendDone
  split
  · exact hs
  · dsimp only
    split
    · exact hs
    · exact .ite hs (.tileReply (.foldl (.dropWaiting (.turnAway (.keep hs rfl))) (fun _ _ hs => .tileReply hs)))
    · exact .ite hs (.ite (.tileReply (.setRec hs)) (.tileReply (.turnAway (.setRec hs))))

theorem State.Canon.settleTile {name} (hs : s.Canon M P) : (s.settleTile name).Canon M P := by
  unfold State.settleTile
  dsimp only
  refine .foldl ?_ (fun _ _ hs => .pendDone hs)
  split
  · exact .setRec hs
  · exact hs

theorem State.Canon.putVer {r e} (hs : s.Canon M P) : (s.putVer r e).Canon M P := .settleTile (.setRec hs)

theorem Handled.Canon.handleClaim {r c cl} (hs : s.Canon M P) : (s.handleClaim r c cl).Canon M P := by
  unfold State.handleClaim
  refine .ite (.done (.tileReply hs)) (.ite (.done (.tileReply hs)) ?_)
  split
  · exact .done (.tileReply hs)
  · exact .done (.tileReply hs)
  · exact .done (.tileReply hs)
  · exact .ite (.done (.tileReply (.setRec hs))) (.tryGrant hs)

theorem Handled.Canon.register {r v w} (hs : s.Canon M P) : (s.register r v w).Canon M P := by
  unfold State.register
  dsimp only
  split
  · refine .ite (.done (.setRec hs)) ?_
    split
    · exact .done (.tileReply hs)
    · exact .done (.gateReply hs)
  · split
    · exact .lacks
    · split
      · exact .lacks
      · refine .ite (.done (.setRec ((May.Canon.makeRoom hs _ ‹_›)))) ?_
        split
        · exact .done (.tileReply ((May.Canon.makeRoom hs _ ‹_›)))
        · exact .done (.gateReply ((May.Canon.makeRoom hs _ ‹_›)))

theorem Handled.Canon.handleLoad {r q v c j addr now} (hs : s.Canon M P) : (s.handleLoad r q v c j addr now).Canon M P := by
  unfold State.handleLoad
  dsimp only
  refine .ite (.done (.tileReply hs)) (.ite (.done (.tileReply hs)) ?_)
  split
  · exact .ite (.done (.tileReply hs)) (.register hs)
  · split
    · exact .ite (.done (.tileReply hs)) (.register hs)
    · exact .ite (.done (.tileReply hs)) (.register hs)
    · exact .done (.tileReply hs)
    · exact .ite (.done (.tileReply hs)) (.ite (.ite (.done (.tileReply hs)) .lacks) (.ite .lacks (.done (.deliver hs))))

theorem State.Canon.handleRefs {r src id v f} (hs : s.Canon M P) : (s.handleRefs r src id v f).Canon M P := by
  unfold State.handleRefs
  refine .ite (.tileReply hs) ?_
  split
  · exact .tileReply hs
  · exact .tileReply (.putVer hs)

theorem Handled.Canon.handleAt {q arr} (hs : s.Canon M P) : (s.handleAt q arr).Canon M P := by
  have hr {x} : (s.tileReply q.src q.name q.id x).Canon M P := .tileReply hs
  have hg {m c g n b} : (s.gateReply m c g n b).Canon M P := .gateReply hs
  unfold State.handleAt
  dsimp only
  generalize s.rec? q.name = r
  generalize q.op = op
  cases op with
  | new =>
    cases r with
    | some => exact .done hr
    | none =>
      dsimp only
      split
      · exact .lacks
      · next e => exact .done (.tileReply (.keep (May.Canon.makeRoom hs _ e) rfl))
  | poll | info => exact .done hr
  | cancel => exact .done hs
  | gate =>
    cases r with
    | none => exact .done hg
    | some =>
      refine .ite (.done hg) ?_
      split
      · exact .done hg
      · exact .done hg
      · exact .register hs
  | claim =>
    cases r with
    | none => exact .done hr
    | some => exact .handleClaim hs
  | load =>
    cases r with
    | none => exact .done hr
    | some => exact .handleLoad hs
  | drop | ref =>
    cases r with
    | none => exact .done hr
    | some => exact .done (.handleRefs hs)
  | floor =>
    cases r with
    | none => exact .done hr
    | some => exact .ite (.done hr) (.done (.settleTile (.setRec hs)))
  | limit =>
    cases r with
    | none => exact .done hr
    | some => exact .done (.tileReply (.settleTile (.setRec hs)))
  | del =>
    cases r with
    | none => exact .done hr
    | some => exact .done (.settleTile (.setRec hs))

theorem Handled.Canon.handleTile {q arr} (hs : s.Canon M P) : (s.handleTile q arr).Canon M P := by
  unfold State.handleTile
  split
  · exact .handleAt hs
  · next e =>
    obtain ⟨v, -, e⟩ := Option.map_eq_some_iff.mp e
    exact .handleAt (May.Canon.bringBack hs _ e)
  · split
    · exact .handleAt hs
    · exact .handleAt hs
    · exact .lacks

theorem State.Canon.noteLack {key code} (hs : s.Canon M P) : (s.noteLack key code).Canon M P := .ite (.raise hs) hs

theorem Handled.Canon.tryTile {q arr} (hs : s.Canon M P) : (s.tryTile q arr).Canon M P := by
  unfold State.tryTile
  split
  · exact .lacks
  · exact .ite .lacks (.handleTile hs)

theorem Handled.Canon.tryParked {r c} (hs : s.Canon M P) : (s.tryParked r c).Canon M P :=
    .ite (.done (.tileReply hs)) (.ite .lacks (.ite .lacks (.tryGrant hs)))

theorem State.Canon.tellWait {q code} (hs : s.Canon M P) : (s.tellWait q code).Canon M P := by
  unfold State.tellWait
  split
  · exact hs
  · exact .ite (.tileReply hs) hs

theorem May.Canon.retryAt {at_} (hs : s.Canon M P) : May.Canon M P (s.retryAt at_) := by
  unfold State.retryAt
  split
  · exact .none
  · split
    · exact .none
    · split
      · next e => exact .some (Handled.Canon.of e (.tryTile (.keep hs rfl)))
      · exact .ite .none (.some (.tellWait (.keep (.noteLack hs) rfl)))
  · split
    · exact .none
    · split
      · exact .none
      · split
        · next e => exact .some (Handled.Canon.of e (.tryParked (.setRec hs)))
        · exact .ite .none (.some (.tileReply (.setRec (.noteLack hs))))

theorem State.Canon.retryTiles {n key} (hs : s.Canon M P) : (State.retryTiles n s key).Canon M P := by
  induction n generalizing s with
  | zero => exact hs
  | succ n ih =>
    unfold State.retryTiles
    split
    · exact hs
    · next e =>
      obtain ⟨_, -, e⟩ := List.exists_of_findSome?_eq_some e
      exact ih (May.Canon.retryAt hs _ e)

theorem State.Canon.retryAll {key} (hs : s.Canon M P) : (s.retryAll key).Canon M P := .retryTiles hs

theorem State.Canon.holdTile {q code} (hs : s.Canon M P) : (s.holdTile q code).Canon M P := .tellWait (.keep (.noteLack hs) rfl)

theorem State.Canon.arriveTile {q} (hs : s.Canon M P) : (s.arriveTile q).Canon M P := by
  unfold State.arriveTile
  dsimp only
  split
  · next e => exact .retryAll (.keep (Handled.Canon.of e (.tryTile (.retryAll hs))) rfl)
  · exact .retryAll (.keep (State.Canon.holdTile (.retryAll hs)) rfl)

theorem State.Canon.performTile {at_} (hs : s.Canon M P) : (s.performTile at_).Canon M P := by
  unfold State.performTile
  split
  · split
    · exact hs
    · refine .ite (.ergSend (.take hs ‹_›)) ?_
      split
      · exact .arriveTile (.take hs ‹_›)
      · exact .tileAnswer (.take hs ‹_›)
      · exact hs
  · split
    · exact hs
    · exact .retryAll hs
  · exact .retryAll hs

theorem Out.Canon.execVersionClaim {a} (hs : s.Canon M P) : (execVersionClaim a s).Canon M P := .next (.performTile hs)

theorem Out.Canon.execVersionLoadRequest {a} (hs : s.Canon M P) : (execVersionLoadRequest a s).Canon M P := .next (.performTile hs)

theorem May.Canon.withdraw {src id name v} (hs : s.Canon M P) : May.Canon M P (s.withdraw src id name v) := by
  unfold State.withdraw
  dsimp only
  refine .ite (.some (.keep hs rfl)) ?_
  split
  · exact .none
  · refine .ite (.some (.settleTile (.setRec hs))) ?_
    split
    · exact .none
    · exact .ite (.some (.settleTile (.ite (.setRec hs) (.setRec hs)))) .none

theorem Out.Canon.execTloadCancel {k} (hs : s.Canon M P) : (execTloadCancel k s).Canon M P := by
  unfold Machine.execTloadCancel
  split
  · exact .next hs
  · split
    · split
      · exact .next hs
      · refine .ite (.next (.ergSend (.take hs ‹_›))) ?_
        split
        · exact .next (.retryAll (.tileReply ((May.Canon.withdraw (.take hs ‹_›) _ ‹_›))))
        · exact .next (.take hs ‹_›)
    · exact .next hs

theorem Out.Canon.execTloadtTimeout {w} (hs : s.Canon M P) : (execTloadtTimeout w s).Canon M P := by
  unfold Machine.execTloadtTimeout
  dsimp only
  split
  · exact .ite (.next (.askCancel hs)) (.next hs)
  · exact .next hs

theorem State.Canon.askGate {c g} (hs : s.Canon M P) : (s.askGate c g).Canon M P := .send hs

theorem Out.Canon.execWaiterRetry {w} (hs : s.Canon M P) : (execWaiterRetry w s).Canon M P := by
  unfold Machine.execWaiterRetry
  dsimp only
  refine .next (.foldl (.keepCore ?_ fun _ => rfl) (fun _ _ hs => .askGate hs))
  split
  · exact .ite (.send (.modSlot hs)) hs
  · exact hs

theorem State.Canon.filled {r e data} (hs : s.Canon M P) : (s.filled r e data).Canon M P :=
    .retryAll (.settleTile (.serveAll (.tileReply (.setRec hs))))

theorem Out.Canon.execFillComplete {name v} (hs : s.Canon M P) : (execFillComplete name v s).Canon M P := by
  unfold Machine.execFillComplete
  dsimp only
  split
  · exact .next (.filled hs)
  · split
    · exact .next hs
    · next e =>
      obtain ⟨_, -, e⟩ := Option.bind_eq_some_iff.mp e
      have ht := State.Canon.take hs e
      split
      · exact .ite (.next (.ite (.setRec ht) (.filled ht))) (.next ht)
      · exact .next ht

theorem Out.Canon.execFillFail {name v} (hs : s.Canon M P) : (execFillFail name v s).Canon M P := by
  unfold Machine.execFillFail
  split
  · exact .next hs
  · split
    · exact .next hs
    · exact .ite (.next hs) (.next (.retryAll (.settleTile (.tileReply (.ite (.setRec hs) (.setRec hs))))))

theorem State.Canon.closeDelivery {did failed} (hs : s.Canon M P) : (s.closeDelivery did failed).Canon M P := by
  unfold State.closeDelivery
  split
  · exact hs
  · dsimp only
    split
    · exact .keep hs rfl
    · split
      · exact .keep hs rfl
      · split
        · split
          · exact .retryAll (.putVer (.serveAll (.setRec (.keep hs rfl))))
          · exact .serveAll (.setRec (.keep hs rfl))
        · exact .serveAll (.setRec (.keep hs rfl))

theorem Out.Canon.execArrivalNotice {k} (hs : s.Canon M P) : (execArrivalNotice k s).Canon M P := by
  unfold Machine.execArrivalNotice
  split
  · exact .next hs
  · split
    · refine .ite (.next hs) ?_
      split
      · exact .next hs
      · exact .next (.send (.keep (.tileAnswer (.take hs ‹_›)) rfl))
    · exact .next hs

theorem Out.Canon.execDeliveryAck {k} (hs : s.Canon M P) : (execDeliveryAck k s).Canon M P := by
  unfold Machine.execDeliveryAck
  split
  · exact .next hs
  · split
    · refine .next ?_
      split
      · exact .ergSend (.take hs ‹_›)
      · exact hs
    · split
      · exact .next hs
      · exact .next (.closeDelivery (.take hs ‹_›))
    · exact .next hs

theorem Out.Canon.execDeliveryFail {e} (hs : s.Canon M P) : (execDeliveryFail e s).Canon M P := by
  unfold Machine.execDeliveryFail
  split
  · split
    · exact .next hs
    · exact .ite (.next hs) (.next (.closeDelivery (.ite (.tileAnswer hs) hs)))
  · dsimp only
    split
    · exact .next (.ite hs (.tileAnswer hs))
    · exact .next hs

theorem Out.Canon.execSharedPortWrite {k} (hs : s.Canon M P) : (execSharedPortWrite k s).Canon M P := by
  unfold Machine.execSharedPortWrite
  split
  · exact .next hs
  · split
    · refine .ite (.next hs) ?_
      split
      · exact .next hs
      · exact .next (.modCore (.take hs ‹_›) (fun _ hs => .setTags (.spWrite hs)))
    · split
      · exact .next hs
      · exact .next (.modCore (.drainStep (.take hs ‹_›)) (fun _ hs => .ite (.setTags (.spWrite hs)) (.spWrite hs)))
    · exact .next hs

theorem State.Canon.sendTile {name op r k release} (hs : s.Canon M P) : (sendTile s name op r k release).Canon M P := .post (.mod (.park hs))

theorem Out.Canon.tileForm {h a v? k} (hs : s.Canon M P) (hk : ∀ x0 x1, (k x0 x1).Canon M P) : (tileForm h s a v? k).Canon M P := by
  unfold Machine.tileForm
  refine .homeOnly hs (.ite (.trap hs) ?_)
  split
  · exact .trap hs
  · exact .ite (hk _ _) (.trap hs)

theorem Out.Canon.execTnew {h d a t} (hs : s.Canon M P) : (execTnew h d a t s).Canon M P := .tileForm hs (fun _ _ => .next (.sendTile hs))

theorem Out.Canon.execTstore {h a t} (hs : s.Canon M P) : (execTstore h a t s).Canon M P := .tileForm hs (fun _ _ => .next (.sendTile hs))

theorem Out.Canon.execTload {h d a t} (hs : s.Canon M P) : (execTload h d a t s).Canon M P := .tileForm hs (fun _ _ => .next (.sendTile hs))

theorem Out.Canon.execTloadt {h d a t} (hs : s.Canon M P) : (execTloadt h d a t s).Canon M P := .tileForm hs (fun _ _ => .next (.mod (.sendTile hs)))

theorem Out.Canon.execTpoll {h d a b imm} (hs : s.Canon M P) : (execTpoll h d a b imm s).Canon M P := .tileForm hs (fun _ _ => .next (.sendTile hs))

theorem Out.Canon.execTdrop {h d a b imm j} (hs : s.Canon M P) : (execTdrop h d a b imm j s).Canon M P :=
    .tileForm hs (fun _ _ => .next (.sendTile hs))

theorem Out.Canon.execTref {h d a b imm j} (hs : s.Canon M P) : (execTref h d a b imm j s).Canon M P := .tileForm hs (fun _ _ => .next (.sendTile hs))

theorem Out.Canon.execTinfo {h d a} (hs : s.Canon M P) : (execTinfo h d a s).Canon M P := .tileForm hs (fun _ _ => .next (.sendTile hs))

theorem Out.Canon.execTfloor {h d a b imm} (hs : s.Canon M P) : (execTfloor h d a b imm s).Canon M P := .tileForm hs (fun _ _ => .next (.sendTile hs))

theorem Out.Canon.execTlimit {h d a n} (hs : s.Canon M P) : (execTlimit h d a n s).Canon M P := .tileForm hs (fun _ _ => .next (.sendTile hs))

theorem Out.Canon.execTdel {h d a} (hs : s.Canon M P) : (execTdel h d a s).Canon M P := .tileForm hs (fun _ _ => .next (.sendTile hs))

theorem Out.Canon.execMoveOrReclaimVersionEntries {stack slice entries reclaim} (hs : s.Canon M P) :
    (execMoveOrReclaimVersionEntries stack slice entries reclaim s).Canon M P := by
  refine .next (.retryAll (.foldl hs fun _ _ hs => .ite hs ?_))
  split
  · exact hs
  · split
    · exact hs
    · exact .ite (.getD (.bringBack hs) hs) (.ite (.setRec hs) hs)

theorem State.Canon.taskAck {a num ok} (hs : s.Canon M P) : (s.taskAck a num ok).Canon M P :=
    .ite (.ite (.failItems (.modSlot hs)) (.savePend (.failItems (.modSlot hs)))) (.ergSend hs)

theorem State.Canon.acceptTask {c src num} (hs : s.Canon M P) : (s.acceptTask c src num).Canon M P := .taskAck (.countTask hs)

theorem State.Canon.enqueue {c q} (hs : s.Canon M P) : (s.enqueue c q).Canon M P := .wakeSleepers (.modCore hs (fun _ hs => .pushBottom hs))

theorem State.Canon.takeTask {c q} (hs : s.Canon M P) : (s.takeTask c q).Canon M P :=
    .ite (.ite (.askGate (.keepCore hs fun _ => rfl)) (.inject (.keepCore hs fun _ => rfl))) (.enqueue hs)

theorem State.Canon.drainInbound {l c} (hs : s.Canon M P) : (State.drainInbound l s c).Canon M P := by
  induction l generalizing s with
  | nil => exact hs
  | cons t r ih =>
    refine .ite (ih ?_) (ih (.modCore hs fun _ hs => .of_sp hs rfl))
    split
    · exact .acceptTask (.takeTask hs)
    · exact .takeTask hs

theorem State.Canon.serveInbound {c} (hs : s.Canon M P) : (s.serveInbound c).Canon M P := .drainInbound (.keepCore hs fun _ => rfl)

theorem State.Canon.arriveTask {c q src} (hs : s.Canon M P) : (s.arriveTask c q src).Canon M P :=
    .ite (.acceptTask (.takeTask hs)) (.keepCore hs fun _ => rfl)

theorem Out.Canon.execTaskAccept {k} (hs : s.Canon M P) : (execTaskAccept k s).Canon M P := by
  unfold Machine.execTaskAccept
  split
  · exact .next hs
  · split
    · refine .ite (.next ?_) (.ite (.next hs) (.next ?_))
      · split
        · exact .taskAck (.take hs ‹_›)
        · exact hs
      · split
        · exact .arriveTask (.take hs ‹_›)
        · exact hs
    · split
      · exact .next hs
      · split
        · exact .next (.taskAck (.take hs ‹_›))
        · exact .next (.ite (.inject (.countTask (.take hs ‹_›))) (.injectHeld (.countTask (.take hs ‹_›))))
    · refine .next ?_
      split
      · exact .ergSend (.take hs ‹_›)
      · exact hs
    · refine .next ?_
      split
      · exact .ergSend (.take hs ‹_›)
      · exact hs
    · exact .next hs

theorem Out.Canon.execGateNotice {k} (hs : s.Canon M P) : (execGateNotice k s).Canon M P := by
  unfold Machine.execGateNotice
  split
  · exact .next hs
  · split
    · refine .ite (.next hs) ?_
      split
      · refine .next ?_
        split
        · exact (.take hs ‹_›)
        · exact hs
      · refine .ite (.next ?_) (.ite (.next hs) (.next ?_))
        · split
          · exact .keepCore (.take hs ‹_›) fun _ => rfl
          · exact hs
        · split
          · exact .serveInbound (.enqueue (.keepCore (.take hs ‹_›) fun _ => rfl))
          · exact hs
    · exact .next hs

theorem State.Canon.startTasks {l c} (hs : s.Canon M P) : (State.startTasks l s c).Canon M P := by
  induction l generalizing s with
  | nil => exact hs
  | cons t r ih =>
    unfold State.startTasks
    dsimp only
    split
    · exact hs
    · exact ih (.modSlot (.modCore hs fun _ hs => .of_sp (.dropBottom hs) rfl))

theorem Out.Canon.execTaskStart {c} (hs : s.Canon M P) : (execTaskStart c s).Canon M P := .ite (.next (.serveInbound (.startTasks hs))) (.next hs)

theorem State.Canon.steal {cl i} (hs : s.Canon M P) : (s.steal cl i).Canon M P := by
  unfold State.steal
  dsimp only
  refine .ite ?_ hs
  split
  · exact .keepEngine (.modSlot (.keepCore (.serveInbound (.modCore hs (fun _ hs => .dropAt hs))) fun _ => rfl)) fun _ => rfl
  · exact hs

theorem Out.Canon.execTaskSteal {c} (hs : s.Canon M P) : (execTaskSteal c s).Canon M P := .next (.foldl hs (fun _ _ hs => .steal hs))

theorem Out.Canon.withTask {a k} (hs : s.Canon M P) (hk : ∀ x0, (k x0).Canon M P) : (withTask s a k).Canon M P := by
  unfold Machine.withTask
  refine .afterRelease hs ?_
  split
  · exact .trap hs
  · exact hk _

theorem Out.Canon.spawnIssue {d m n sync k} (hs : s.Canon M P) (hk : ∀ x0 x1, x1.Canon M P → (k x0 x1).Canon M P) :
    (spawnIssue s d m n sync k).Canon M P := .ite (.parkAgain hs) (.ite (.next (.park (hk _ _ (.mod hs)))) (.retire (hk _ _ (.mod hs))))

theorem State.Canon.sendTask {num c m t} (hs : s.Canon M P) : (s.sendTask num c m t).Canon M P :=
    .ite (.send (.ite (.countTask hs) hs)) (.post (.ite (.countTask hs) hs))

theorem Out.Canon.execSpawn {h sync d a b} (hs : s.Canon M P) : (execSpawn h sync d a b s).Canon M P := by
  unfold Machine.execSpawn
  refine .homeOnly hs (.withTask hs (fun _ => .ite (.trap hs) ?_))
  split
  · exact .trap hs
  · exact .spawnIssue hs (fun _ _ hs => .foldl hs (fun _ _ hs => .sendTask hs))

theorem Out.Canon.spawnd {h page sync d a b} (hs : s.Canon M P) : (spawnd h page sync d a b s).Canon M P :=
    .homeOnly hs (.withTask hs (fun _ => .ite (.trap hs) (.spawnIssue hs (fun _ _ hs => .ite (.send hs) (.post hs)))))

theorem Out.Canon.execSpawndPage {h sync d a b} (hs : s.Canon M P) : (execSpawndPage h sync d a b s).Canon M P := .spawnd hs

theorem Out.Canon.execSpawndTile {h sync d a b} (hs : s.Canon M P) : (execSpawndTile h sync d a b s).Canon M P := .spawnd hs

theorem Out.Canon.execFork {h prio pin d a b off} (hs : s.Canon M P) : (execFork h prio pin d a b off s).Canon M P :=
    .homeOnly hs (.ite (.retire (.enqueue hs)) (.retire hs))

theorem Out.Canon.execTqpush {h sync d a b} (hs : s.Canon M P) : (execTqpush h sync d a b s).Canon M P :=
    .homeOnly hs (.withTask hs (fun _ => .ite (.trap hs) (.ite (.next (.mod (.park hs))) (.spawnIssue hs (fun _ _ hs => .mod (.ite (.wakeSleepers
        (.modCore hs (fun _ hs => .pushTop hs))) (.takeTask hs)))))))

theorem State.Canon.popTask {w d addr p q} (hs : s.Canon M P) : (s.popTask w d addr p q).Canon M P :=
    .serveInbound (.modSlot (.modCore hs (fun _ hs => .spWrite (.dropBottom hs))))

theorem Out.Canon.execTqpop {h nw mask d a} (hs : s.Canon M P) : (execTqpop h nw mask d a s).Canon M P := by
  unfold Machine.execTqpop
  refine .homeOnly hs (.afterRelease hs (.withLocal hs (fun _ => ?_)))
  split
  · exact .retire (.popTask hs)
  · exact .ite (.retire hs) (.next (.park hs))

theorem Out.Canon.execTqctl {h d a} (hs : s.Canon M P) : (execTqctl h d a s).Canon M P := .homeOnly hs (.retire (.keepMyCore hs fun _ => rfl))

theorem Out.Canon.execTqrd {h part d} (hs : s.Canon M P) : (execTqrd h part d s).Canon M P := .homeOnly hs (.retire hs)

theorem State.Canon.joinStep {c a k t} (hs : s.Canon M P) (e : s.joinStep c a = some (k, t)) : t.Canon M P := by
  have dec {x bs} : (s.modCore c (·.spWrite x bs)).Canon M P := .modCore hs fun _ hc => .spWrite hc
  unfold State.joinStep at e
  dsimp only at e
  split at e
  · cases e
    exact hs
  split at e
  · cases e
    exact hs
  split at e
  · cases e
    exact dec
  split at e
  · cases e
    exact .enqueue dec
  split at e
  · cases e
    exact .modCore dec fun _ hc => hc
  · cases e

theorem Out.Canon.localJoin {d a} (hs : s.Canon M P) : (localJoin s d a).Canon M P := by
  unfold Machine.localJoin
  split
  · exact .retire (.joinStep hs ‹_›)
  · exact .next (.mod (.park hs))

theorem Out.Canon.withPlace {k} (hs : s.Canon M P) (hk : ∀ x0, x0.Canon M P → (k x0).Canon M P) : (withPlace s k).Canon M P :=
    .ite (.parkAgain (.iteSnd hs (.keep hs rfl))) (hk _ (.iteSnd hs (.keep hs rfl)))

theorem Out.Canon.execJoin {h d a b off} (hs : s.Canon M P) : (execJoin h d a b off s).Canon M P := by
  unfold Machine.execJoin
  refine .homeOnly hs ?_
  dsimp only
  split
  · exact .trap hs
  · exact .ite (.trap hs) (.ite (.ite (.localJoin hs) (.next (.park hs))) (.ite (.withPlace hs (fun _ hs => .retire (.post hs))) (.ite (.retire
      (.post hs)) (.next (.park (.mod (.post hs)))))))

theorem State.Canon.joinStray {a id job posted} (hs : s.Canon M P) : (s.joinStray a id job posted).Canon M P :=
    .ite (.ite hs (.modSlot hs)) (.ite (.ergSend hs) (.ergSend hs))

theorem State.Canon.joinReply {a id posted code} (hs : s.Canon M P) : (s.joinReply a id posted code).Canon M P :=
    .ite (.ite hs (.modSlot hs)) (.ite (.ergSend hs) (.ergSend hs))

theorem Out.Canon.execJoinStep {k} (hs : s.Canon M P) : (execJoinStep k s).Canon M P := by
  unfold Machine.execJoinStep
  split
  · exact .next hs
  · split
    · refine .ite (.next hs) ?_
      split
      · exact .next hs
      · refine .ite (.next (.joinStray (.take hs ‹_›))) ?_
        split
        · exact .next hs
        · exact .next (.joinReply ((.joinStep (.take hs ‹_›) ‹_›)))
    · refine .next ?_
      split
      · exact .ergSend (.take hs ‹_›)
      · exact hs
    · exact .next hs

theorem State.Canon.setBarrier {w i b} (hs : s.Canon M P) : (s.setBarrier w i b).Canon M P := .keepEngine hs fun _ => rfl

theorem Out.Canon.barForm {h a k} (hs : s.Canon M P) (hk : ∀ x0 x1, (k x0 x1).Canon M P) : (barForm h s a k).Canon M P :=
    .homeOnly hs (.ite (.trap hs) (hk _ _))

theorem Out.Canon.execBarCfg {h d a b} (hs : s.Canon M P) : (execBarCfg h d a b s).Canon M P :=
    .barForm hs (fun _ _ => .ite (.retire hs) (.retire (.setBarrier hs)))

theorem Out.Canon.execBarRd {h d a} (hs : s.Canon M P) : (execBarRd h d a s).Canon M P := .barForm hs (fun _ _ => .retire hs)

theorem State.Canon.barArrive {w arr d i} (hs : s.Canon M P) : (s.barArrive w arr d i).Canon M P :=
    .ite (.modSlot (.setBarrier hs)) (.ite (.modSlot (.modSlot (.setBarrier hs))) (.acquire (.modSlot (.setBarrier hs))))

theorem Out.Canon.barSync {h arr d a} (hs : s.Canon M P) : (barSync h arr d a s).Canon M P :=
    .barForm hs (fun _ _ => .ite (.trap hs) (.ite (.next (.barArrive hs)) (.next (.park hs))))

theorem Out.Canon.execBarArr {h d a} (hs : s.Canon M P) : (execBarArr h d a s).Canon M P := .barSync hs

theorem Out.Canon.execBarSig {h d a} (hs : s.Canon M P) : (execBarSig h d a s).Canon M P := .barSync hs

theorem Out.Canon.leave {k} (hs : s.Canon M P) (hk : ∀ x0, x0.Canon M P → (k x0).Canon M P) : (leave s k).Canon M P :=
    .ite (.parkAgain hs) (.ite (hk _ (.errClear hs)) (.trap (.freeWord (.errClear hs))))

theorem Out.Canon.migrate {a pc hint} (hs : s.Canon M P) : (migrate s a pc hint).Canon M P := by
  unfold Machine.migrate
  refine .leave hs (fun _ hs => ?_)
  dsimp only
  split
  · exact .next (.poolEvent (.send (.ite (.modSlot (.mod hs)) (.send (.mod hs)))))
  · exact .next (.send (.mod (.park hs)))

theorem Out.Canon.execRoam {h a} (hs : s.Canon M P) : (execRoam h a s).Canon M P := by
  unfold Machine.execRoam
  refine .guarded hs ?_
  dsimp only
  split
  · exact .trap hs
  · exact .ite (.retire hs) (.migrate hs)

theorem Out.Canon.execHome {h} (hs : s.Canon M P) : (execHome h s).Canon M P :=
    .guarded hs (.ite (.retire hs) (.leave hs (fun _ hs => .next (.sendHome hs))))

theorem Out.Canon.roamed {h a local_ remote} (hs : s.Canon M P) (hl : local_.Canon M P) (hr : remote.Canon M P) :
    (roamed h s a local_ remote).Canon M P := by
  refine .ite hr (.ite (.ite hl hr) ?_)
  split
  · exact .ite (.leave hs fun _ hs => .next (.sendHome hs)) (.migrate hs)
  · exact .migrate hs

theorem Out.Canon.looped {a k} (hs : s.Canon M P) (hk : k.Canon M P) : (looped s a k).Canon M P := .ite (.parkAgain hs) hk

theorem Out.Canon.sendRemote {k a op release} (hs : s.Canon M P) : (sendRemote s k a op release).Canon M P := .next (.post (.mod (.park hs)))

theorem Out.Canon.remoteValue {h k a op release local_} (hs : s.Canon M P) (hk : local_.Canon M P) :
    (remoteValue h s k a op release local_).Canon M P := by
  unfold Machine.remoteValue
  split
  · exact .trap hs
  · exact .roamed hs hk (.looped hs (.ite (.parkAgain hs) (.sendRemote hs)))

theorem Out.Canon.execRld {h d a m} (hs : s.Canon M P) : (execRld h d a m s).Canon M P :=
    .guarded hs (.guestF hs (.streamGate hs (.remoteValue hs (.withCheck hs (fun _ _ hs => .globalLoad hs)))))

theorem Out.Canon.localAtomic {k op a w} (hs : s.Canon M P) : (localAtomic s k op a w).Canon M P :=
    .withCheck hs (fun _ _ hs => .ite (.parkAgain hs) (.next (.park hs)))

theorem Out.Canon.execRamo {h op d a b m} (hs : s.Canon M P) : (execRamo h op d a b m s).Canon M P := .guarded hs (.remoteValue hs (.localAtomic hs))

theorem Out.Canon.execRamocas {h d a b m} (hs : s.Canon M P) : (execRamocas h d a b m s).Canon M P := .guarded hs (.remoteValue hs (.localAtomic hs))

theorem Out.Canon.postRemote {a kind op cls release pops} (hs : s.Canon M P) : (postRemote s a kind op cls release pops).Canon M P :=
    .looped hs (.withPlace hs (fun _ hs => .retire (.post hs)))

theorem Out.Canon.execRst {h b a m} (hs : s.Canon M P) : (execRst h b a m s).Canon M P := by
  unfold Machine.execRst
  refine .guarded hs (.guestF hs (.streamGate hs ?_))
  split
  · exact .trap hs
  · exact .roamed hs (.withCheck hs (fun _ _ hs => .postStore hs)) (.postRemote hs)

theorem Out.Canon.execRamoPosted {h op a b m} (hs : s.Canon M P) : (execRamoPosted h op a b m s).Canon M P := by
  unfold Machine.execRamoPosted
  refine .guarded hs ?_
  dsimp only
  split
  · exact .trap hs
  · exact .roamed hs (.withCheck hs (fun _ _ hs => .ite (.parkAgain hs) (.postStore hs))) (.postRemote hs)

theorem Out.Canon.atErrHead {k} (hs : s.Canon M P) (hk : ∀ x0 x1 x2 x3, x0.Canon M P → (k x0 x1 x2 x3).Canon M P) : (atErrHead s k).Canon M P := by
  unfold Machine.atErrHead
  split
  · exact hk _ _ _ _ hs
  · exact hk _ _ _ _ (.freeWord hs)

theorem Out.Canon.execEqrd {h info d} (hs : s.Canon M P) : (execEqrd h info d s).Canon M P :=
    .guarded hs (.atErrHead hs (fun _ _ _ _ hs => .retire hs))

theorem Out.Canon.execEqpop {h d} (hs : s.Canon M P) : (execEqpop h d s).Canon M P := by
  refine .guarded hs (.atErrHead hs fun _ _ _ _ hs => ?_)
  split
  · exact .ite (.retire hs) (.retire (.modSlot hs))
  · exact .retire hs

theorem State.Canon.saveErr {w k e} (hs : s.Canon M P) : (s.saveErr w k e).Canon M P := .ite hs (.saveBytes hs)

theorem State.Canon.pushErr {w e} (hs : s.Canon M P) : (s.pushErr w e).Canon M P :=
    .ite (.raise (.failItems (.modSlot (.saveErr hs)))) (.failItems (.modSlot (.saveErr hs)))

theorem State.Canon.closeWrite {a id from_ cause} (hs : s.Canon M P) : (s.closeWrite a id from_ cause).Canon M P := by
  unfold State.closeWrite
  split
  · exact hs
  · refine .ite hs (.ite (.modSlot hs) ?_)
    dsimp only
    split
    · exact .modSlot hs
    · split
      · exact .pushErr (.modSlot hs)
      · exact .ite (.pushErr (.modSlot hs)) (.send (.modSlot hs))

theorem State.Canon.ackArrives {k} (hs : s.Canon M P) : (s.ackArrives k).Canon M P := by
  unfold State.ackArrives
  split
  · exact hs
  · split
    · refine .ite hs ?_
      split
      · exact .closeWrite (.take hs ‹_›)
      · exact hs
    · refine .ite hs ?_
      split
      · exact .pushErr (.take hs ‹_›)
      · exact hs
    · exact hs

theorem Out.Canon.execRemoteWriteAck {k} (hs : s.Canon M P) : (execRemoteWriteAck k s).Canon M P := .next (.ackArrives hs)

theorem Out.Canon.execRemoteWriteFail {k} (hs : s.Canon M P) : (execRemoteWriteFail k s).Canon M P := .next (.ackArrives hs)

theorem Out.Canon.execRemoteReply {k} (hs : s.Canon M P) : (execRemoteReply k s).Canon M P := by
  unfold Machine.execRemoteReply
  split
  · exact .next hs
  · split
    · refine .ite (.next hs) ?_
      split
      · exact .next hs
      · exact .next (.modSlot (.take hs ‹_›))
    · exact .next hs

theorem State.Canon.answerRemote {src id posted r} (hs : s.Canon M P) : (s.answerRemote src id posted r).Canon M P := .send hs

theorem State.Canon.writeIo {pa bs through} (hs : s.Canon M P) : (s.writeIo pa bs through).Canon M P := .ite (.setCounter hs) (.gwrite hs)

theorem State.Canon.remotePart {src op off pa len thr} (hs : s.Canon M P) : (s.remotePart src op off pa len thr).1.Canon M P := by
  unfold State.remotePart
  dsimp only
  split
  · exact .ite (.writeAt hs) (.writeIo hs)
  · exact .iteFst hs hs
  · exact .iteFst hs (.ite (.writeAt hs) (.writeIo hs))
  · exact .iteFst hs (.ite (.ite (.writeAt hs) (.writeIo hs)) hs)

theorem State.Canon.remoteStep {k wk src id op posted} (hs : s.Canon M P) : (s.remoteStep k wk src id op posted).Canon M P := by
  have hp {n} : (s.pick n).2.Canon M P := .pick hs
  unfold State.remoteStep
  split
  · exact hs
  · dsimp only
    split
    · exact hp
    · have fail {c} : (match (s.pick wk.parts.length).2.take k with
          | some (_, t) => t.answerRemote src id posted (.inr (c, 3))
          | none => (s.pick wk.parts.length).2).Canon M P := by
        split
        · exact .answerRemote (.take hp ‹_›)
        · exact hp
      split
      · exact hp
      · exact fail
      · have hw {pa off len thr} : (((s.pick wk.parts.length).2.crossed none pa).remotePart src op off pa len thr).1.Canon M P :=
          .remotePart (.crossed hp)
        refine .ite ?_ (.keep hw rfl)
        split
        · exact .answerRemote (.take hw ‹_›)
        · exact hw

theorem Out.Canon.execRemoteRequestAtTarget {k} (hs : s.Canon M P) : (execRemoteRequestAtTarget k s).Canon M P := by
  have go {c : Prop} [Decidable c] {t : State} {fwd : Option (List Byte)} {wk : Work} {src : Agent} {id : Nat} {op : ROp} {posted : Bool}
      (ht : t.Canon M P) :
      (match (if c then t.pick 2 else (0, t)).1, fwd with
        | 1, some bs => (match (if c then t.pick 2 else (0, t)).2.take k with
          | some (_, u) => u.answerRemote src id posted (.inl bs)
          | none => (if c then t.pick 2 else (0, t)).2)
        | _, _ => (if c then t.pick 2 else (0, t)).2.remoteStep k wk src id op posted).Canon M P := by
    have hp : (if c then t.pick 2 else (0, t)).2.Canon M P := .iteSnd (.pick ht) ht
    split
    · split
      · exact .answerRemote (.take hp ‹_›)
      · exact hp
    · exact .remoteStep hp
  unfold Machine.execRemoteRequestAtTarget
  split
  · exact .next hs
  · split
    · dsimp only
      split
      · exact .next hs
      · have ht := State.Canon.take hs ‹_›
        refine .ite (.next (.ergSend ht)) ?_
        split
        · exact .next (.remoteStep hs)
        · split
          · exact .next (.answerRemote ht)
          · split
            · exact .next (go hs)
            · exact .next (.answerRemote ht)
            · exact .next hs
            · have ha {ps : List Nat} {r st} : (ps.foldl (fun s q => s.autoCommit r q st) s).Canon M P := .foldl hs fun _ _ hs => .autoCommit hs
              split
              · exact .next (go ha)
              · exact .next (.keep (.foldl ha fun _ _ hs => .addPend hs) rfl)
              · exact .next ha
    · exact .next hs

theorem Out.Canon.execMbincLocal {h n b} (hs : s.Canon M P) : (execMbincLocal h n b s).Canon M P :=
    .homeOnly hs (.ite (.retire (.mbAdd hs)) (.retire (.injectHeld hs)))

theorem Out.Canon.execMbincRemote {h a b} (hs : s.Canon M P) : (execMbincRemote h a b s).Canon M P := by
  unfold Machine.execMbincRemote
  refine .guarded hs ?_
  dsimp only
  split
  · exact .trap hs
  · exact .withPlace hs (fun _ hs => .retire (.post hs))

theorem Out.Canon.execMbwait {h n b} (hs : s.Canon M P) : (execMbwait h n b s).Canon M P :=
    .homeOnly hs (.afterRelease hs (.ite (.retire (.acquire hs)) (.next (.mod (.park hs)))))

theorem Out.Canon.execMbrd {h d n} (hs : s.Canon M P) : (execMbrd h d n s).Canon M P := .homeOnly hs (.afterRelease hs (.retire hs))

theorem Out.Canon.execMailboxIncrement {k} (hs : s.Canon M P) : (execMailboxIncrement k s).Canon M P := by
  unfold Machine.execMailboxIncrement
  split
  · exact .next hs
  · split
    · refine .ite (.next hs) ?_
      split
      · exact .next hs
      · split
        · exact .next (.mbAdd (.take hs ‹_›))
        · exact .ite (.next (.modSlot (.mbAdd (.take hs ‹_›)))) (.ite (.next (.answerRemote (.take hs ‹_›))) (.ite (.next (.answerRemote (.take hs
            ‹_›))) (.next (.answerRemote (.mbAdd (.take hs ‹_›))))))
    · split
      · exact .next hs
      · exact .next (.mbAdd (.drainStep (.take hs ‹_›)))
    · exact .next hs
    · refine .next ?_
      split
      · exact .ergSend (.take hs ‹_›)
      · exact hs
    · exact .next hs

theorem State.Canon.assignGuests {l c} (hs : s.Canon M P) : (State.assignGuests l s c).Canon M P := by
  induction l generalizing s with
  | nil => exact hs
  | cons i r ih =>
    unfold State.assignGuests
    split
    · exact hs
    · exact ih (.modSlot (.modCore hs fun _ hs => .of_sp hs rfl))

theorem State.Canon.queueGuests {n c} (hs : s.Canon M P) : (State.queueGuests n s c).Canon M P := by
  induction n generalizing s with
  | zero => exact hs
  | succ n ih =>
    refine .ite hs ?_
    split
    · exact hs
    · split
      · exact hs
      · have ht := State.Canon.take hs ‹_›
        split
        · exact ih (.modCore ht fun _ hs => .of_sp hs rfl)
        · exact ht

theorem Out.Canon.execRoamArrival {c} (hs : s.Canon M P) : (execRoamArrival c s).Canon M P := .next (.assignGuests (.queueGuests hs))

theorem State.Canon.withCur {w} (hs : s.Canon M P) : State.Canon M P { s with cur := w } := .keep hs rfl

theorem Out.Canon.execGuestReturn {k} (hs : s.Canon M P) : (execGuestReturn k s).Canon M P := by
  unfold Machine.execGuestReturn
  split
  · exact .next hs
  · split
    · refine .next ?_
      split
      · exact .ergSend (.take hs ‹_›)
      · exact hs
    · next g why _ _ =>
      refine .ite (.next hs) ?_
      split
      · exact .next hs
      · next t e =>
        have ht : t.Canon M P := .take hs e
        refine .ite (.next ht) ?_
        have hm {f} : ((t.acquire g.home.who.core .fabric).modSlot g.home.who f).Canon M P := .modSlot (.acquire ht)
        dsimp only
        cases why with
        | plain => exact .next hm
        | trap => exact .next (.trapAt hm)
        | fp => exact .next (.withCur (.fpPark (.withCur hm)))
    · exact .next hs

theorem Out.Canon.execGuestLost {w} (hs : s.Canon M P) : (execGuestLost w s).Canon M P := .ite (.next (.trapAt (.modSlot hs))) (.next hs)

theorem State.Canon.failBound {m cause job} (hs : s.Canon M P) : (s.failBound m cause job).Canon M P :=
    .foldl (.setNet (.keep hs rfl)) (fun _ _ hs => .failPacket hs)

theorem State.Canon.loseTasks {w m} (hs : s.Canon M P) : (s.loseTasks w m).Canon M P :=
    .foldl hs (fun _ _ hs => .foldl hs (fun _ _ hs => .taskAck hs))

theorem State.Canon.loseGates {m mine} (hs : s.Canon M P) : (s.loseGates m mine).Canon M P :=
    .foldl hs (fun _ _ hs => .ite hs (.foldl hs (fun _ _ hs => .inject hs)))

theorem State.Canon.loseModule {m cause job} (hs : s.Canon M P) : (s.loseModule m cause job).Canon M P :=
    .ite (.foldl (.loseGates (.foldl (.failBound hs) (fun _ _ hs => .foldl (.loseTasks (.ite (.soon (.modSlot hs)) (.modSlot hs))) (fun _ _ hs =>
        .closeWrite hs)))) (fun _ _ hs => .soon hs)) (.foldl (.foldl (.loseGates (.foldl (.failBound hs) (fun _ _ hs => .foldl (.loseTasks (.ite
            (.soon (.modSlot hs)) (.modSlot hs))) (fun _ _ hs => .closeWrite hs)))) (fun _ _ hs => .soon hs)) (fun _ _ hs => .ite (.closeDelivery
                hs) hs))

theorem State.Canon.setSwitch {n sw} (hs : s.Canon M P) : (s.setSwitch n sw).Canon M P := .keep hs rfl

theorem State.Canon.enterSwitch {n input m p lane?} (hs : s.Canon M P) : (s.enterSwitch n input m p lane?).Canon M P := .setSwitch hs

theorem Out.Canon.execPacketPromotion {c} (hs : s.Canon M P) : (execPacketPromotion c s).Canon M P := by
  unfold Machine.execPacketPromotion
  split
  · split
    · exact .next hs
    · split
      · exact .next hs
      · exact .ite (.next (.keep hs rfl)) (.next hs)
  · dsimp only
    split
    · exact .next hs
    · split
      · exact .next hs
      · exact .ite (.next (.setSwitch hs)) (.next hs)

theorem State.Canon.pin {fl} (hs : s.Canon M P) : (s.pin fl).Canon M P := .keep hs rfl

theorem Out.Canon.execDeadlockEscape {c} (hs : s.Canon M P) : (execDeadlockEscape c s).Canon M P := by
  unfold Machine.execDeadlockEscape
  split
  · split
    · exact .next hs
    · split
      · exact .next hs
      · exact .ite (.next (.setNet (.pin hs))) (.next hs)
  · dsimp only
    split
    · exact .next hs
    · exact .ite (.next (.setSwitch (.pin hs))) (.next hs)

theorem Out.Canon.execUcieReplay {l} (hs : s.Canon M P) : (execUcieReplay l s).Canon M P := .ite (.next (.setLink hs)) (.next hs)

theorem Out.Canon.execUcieRetrain {l} (hs : s.Canon M P) : (execUcieRetrain l s).Canon M P := .ite (.next (.setLink hs)) (.next hs)

theorem Out.Canon.execUcieLinkRestored {l} (hs : s.Canon M P) : (execUcieLinkRestored l s).Canon M P := by
  unfold Machine.execUcieLinkRestored
  split
  · exact .ite (.next (.setLink hs)) (.next hs)
  · exact .next hs

theorem State.Canon.failFlights {bad cause} (hs : s.Canon M P) : (s.failFlights bad cause).Canon M P :=
    .foldl (.setNet hs) (fun _ _ hs => .failPacket hs)

theorem State.Canon.failStores {w l} (hs : s.Canon M P) : (s.failStores w l).Canon M P := .ite hs (.failItems (.modSlot hs))

theorem State.Canon.loseLink {l} (hs : s.Canon M P) : (s.loseLink l).Canon M P :=
    .foldl (.failFlights (.setLink (.foldl hs (fun _ _ hs => .failStores hs)))) (fun _ _ hs => .modSlot hs)

theorem Out.Canon.execUcieLinkLost {l} (hs : s.Canon M P) : (execUcieLinkLost l s).Canon M P := by
  unfold Machine.execUcieLinkLost
  split
  · exact .ite (.next (.loseLink hs)) (.next hs)
  · exact .next hs

theorem State.Canon.modView {job f} (hs : s.Canon M P) : (s.modView job f).Canon M P := .ite (.keep hs rfl) (.keep hs rfl)

theorem State.Canon.mailIn {t b} (hs : s.Canon M P) : (s.mailIn t b).Canon M P := .ite (.modView hs) hs

theorem State.Canon.guestAt {h m} (hs : s.Canon M P) : (s.guestAt h m).Canon M P := .modSlot hs

theorem State.Canon.arrive {p} (hs : s.Canon M P) : (s.arrive p).Canon M P := by
  unfold State.arrive
  split
  · exact .taskAck hs
  · exact .soon hs
  · exact .soon hs
  · exact .guestAt hs
  · exact .mailIn hs
  · exact hs
  · exact .inject hs

theorem State.Canon.giveAnswer {p} (hs : s.Canon M P) : (s.giveAnswer p).Canon M P := by
  unfold State.giveAnswer
  split
  · exact .ite (.arrive hs) (.ergSend hs)
  · exact .arrive hs

theorem State.Canon.arriveAt {plane m p} (hs : s.Canon M P) : (s.arriveAt plane m p).Canon M P := by
  unfold State.arriveAt
  dsimp only
  split
  · exact .setSwitch (.keep hs rfl)
  · split <;> exact .arrive (.keep hs rfl)

theorem Out.Canon.execErgFlitReceive {i f good} (hs : s.Canon M P) : (execErgFlitReceive i f good s).Canon M P :=
    .ite (.next hs) (.ite (.next (.keep hs rfl)) (.next (.foldl (.foldl (.keep hs rfl) (fun _ _ hs => .enterSwitch hs)) (fun _ _ hs => .arriveAt
        hs))))

theorem Out.Canon.execErgNak {i seq} (hs : s.Canon M P) : (execErgNak i seq s).Canon M P := .ite (.next (.keep hs rfl)) (.next hs)

theorem Out.Canon.execErgGapRenak {i seq} (hs : s.Canon M P) : (execErgGapRenak i seq s).Canon M P := .next (.keep hs rfl)

theorem Out.Canon.execErgPortRetrain {i} (hs : s.Canon M P) : (execErgPortRetrain i s).Canon M P := .ite (.next (.keep hs rfl)) (.next hs)

theorem Out.Canon.execErgPortRestored {i} (hs : s.Canon M P) : (execErgPortRestored i s).Canon M P := by
  unfold Machine.execErgPortRestored
  dsimp only
  split
  · exact .ite (.next (.keep hs rfl)) (.next hs)
  · exact .next hs

theorem State.Canon.sendFlits (hs : s.Canon M P) : (s.sendFlits).Canon M P :=
    .ite hs (.foldl hs (fun _ _ hs => .ite hs (.keep (.iteSnd hs (.pick hs)) rfl)))

theorem State.Canon.failPlane {plane} (hs : s.Canon M P) : (s.failPlane plane).Canon M P := by
  refine .foldl (.keep hs rfl) fun _ _ hs => .foldl (.foldl (.foldl hs fun _ _ hs => ?_) fun _ _ hs => .failPacket hs)
    fun _ _ hs => .failPacket hs
  split
  · exact .foldl hs fun _ _ hs => .failPacket hs
  · exact .failPacket hs

theorem Out.Canon.execErgPortLost {i} (hs : s.Canon M P) : (execErgPortLost i s).Canon M P := by
  unfold Machine.execErgPortLost
  dsimp only
  split
  · exact .ite (.next (.raise (.ite (.foldl (.failPlane (.foldl (.keep hs rfl) (fun _ _ hs => .failPacket hs))) (fun _ _ hs => .loseModule hs))
      (.failPlane (.foldl (.keep hs rfl) (fun _ _ hs => .failPacket hs)))))) (.next hs)
  · exact .next hs

theorem Out.Canon.execSwitchCombine {n i j} (hs : s.Canon M P) : (execSwitchCombine n i j s).Canon M P := by
  unfold Machine.execSwitchCombine
  dsimp only
  split
  · split
    · refine .ite ?_ (.next hs)
      split
      · exact .next (.setSwitch hs)
      · exact .next hs
    · exact .next hs
  · exact .next hs

theorem Out.Canon.execCombinedReply {n k} (hs : s.Canon M P) : (execCombinedReply n k s).Canon M P := by
  unfold Machine.execCombinedReply
  dsimp only
  split
  · exact .next hs
  · split
    · exact .next (.arriveAt (.setSwitch hs))
    · split
      · exact .next hs
      · exact .next (.setSwitch hs)

theorem State.Canon.passOut {n o x} (hs : s.Canon M P) : (s.passOut n o x).Canon M P := .ite (.enterSwitch hs) (.ite (.arriveAt hs) (.setSwitch hs))

theorem Out.Canon.execMulticastForward {n k} (hs : s.Canon M P) : (execMulticastForward n k s).Canon M P := by
  unfold Machine.execMulticastForward
  dsimp only
  split
  · exact .next hs
  · refine .ite (.next hs) ?_
    split
    · exact .ite (.next (.livePins (.setSwitch (.iteSnd (.pick hs) hs)))) (.ite (.next (.iteSnd (.pick hs) hs)) (.next (.setSwitch (.iteSnd (.pick
        hs) hs))))
    · exact .next (.livePins (.passOut (.setSwitch hs)))

theorem Out.Canon.withBank {h a k} (hs : s.Canon M P) (hk : ∀ i, (k i).Canon M P) : (withBank h s a k).Canon M P := by
  refine .homeOnly hs ?_
  dsimp only
  split
  · exact hk _
  · exact .trap hs

theorem Out.Canon.execBfmt {h d a b} (hs : s.Canon M P) : (execBfmt h d a b s).Canon M P :=
    .withBank hs (fun _ => .ite (.retire (.keepMyCore hs fun _ => rfl)) (.trap hs))

theorem Out.Canon.execBfmtr {h d a} (hs : s.Canon M P) : (execBfmtr h d a s).Canon M P := .withBank hs (fun _ => .retire hs)

theorem State.Canon.copyWalks {w ps} (hs : s.Canon M P) : (s.copyWalks w ps).1.Canon M P :=
  .ite (.shareWalks (.iteSnd (.pick hs) hs)) (.modEngine (.shareWalks (.iteSnd (.pick hs) hs)) fun _ he => he)

theorem State.Canon.checkSector {w bs} (hs : s.Canon M P) : (s.checkSector w bs).1.Canon M P := by
  unfold State.checkSector
  dsimp only
  split
  · exact .copyWalks (.foldl (.copyWalks hs) fun _ _ hs => .autoCommit hs)
  · exact .copyWalks hs

theorem State.Canon.globWrite {cl thr r} (hs : s.Canon M P) : (s.globWrite cl thr r).Canon M P := by
  have ht {a bs} : (s.gwrite a bs thr).Canon M P := .gwrite hs
  exact .ite ht (.withPads ht (forall_map_snd ht.cores fun _ hc => .ite (.roUpdate hc) hc) ht.engines rfl)

theorem State.Canon.putBytes {w bs} (hs : s.Canon M P) : (s.putBytes w bs).Canon M P := by
  have put {l : List OutByte} {m : Memory} (h : m.wf = true) : (l.foldl (fun (m : Memory) (b : OutByte) => m.put b.addr b.byte) m).wf = true :=
    List.foldlRecOn (motive := fun m => Memory.wf m = true) _ _ h fun _ hm _ _ => Memory.put_wf _ _ _ hm
  refine .foldl (.foldl (.ite (.modEngine ?_ fun _ he p => put (he p)) ?_) fun _ _ hs => .globWrite hs) fun _ _ hs => .globWrite hs
  all_goals exact .ite (.modCore hs fun _ hc p => put (hc p)) hs

theorem State.Canon.putSome {w bs} (hs : s.Canon M P) : (s.putSome w bs).2.Canon M P := by
  have ht {c : Prop} [Decidable c] {k n} : (if c then (k, s) else s.pick n).2.Canon M P := .iteSnd hs (.pick hs)
  unfold State.putSome
  dsimp only
  split <;> exact .putBytes ht

theorem State.Canon.mergeVals {old new} (hs : s.Canon M P) : (s.mergeVals old new).2.Canon M P := .iteSnd hs (.pick hs)

theorem State.Canon.modCopy {w num f} (hs : s.Canon M P) : (s.modCopy w num f).Canon M P := .modSlot hs

theorem State.Canon.settleCopy {w} (hs : s.Canon M P) : (s.settleCopy w).Canon M P := by
  unfold State.settleCopy
  dsimp only
  refine .foldl (.modSlot hs) (fun _ _ hs => ?_)
  split
  · exact .mbAdd hs
  · exact hs

theorem State.Canon.finishCopy {w num} (hs : s.Canon M P) : (s.finishCopy w num).Canon M P := .settleCopy (.modCopy hs)

theorem State.Canon.copyFault {w num va sub} (hs : s.Canon M P) : (s.copyFault w num va sub).Canon M P := .modSlot (.modCopy hs)

theorem State.Canon.copyWait {w num vas} (hs : s.Canon M P) : (s.copyWait w num vas).Canon M P := .foldl (.modCopy hs) (fun _ _ hs => .addPend hs)

theorem State.Canon.copyLost {w num} (hs : s.Canon M P) : (s.copyLost w num).Canon M P := .failItems (.settleCopy (.modSlot (.modCopy hs)))

theorem State.Canon.sectorDone {w o} (hs : s.Canon M P) : (s.sectorDone w o).Canon M P := by
  unfold State.sectorDone
  split
  · exact .finishCopy (.modCore hs (fun _ hs => .setTags hs))
  · exact .ite (.finishCopy (.modCopy (.ite (.modCore (.ite hs (.modCore hs (fun _ hs => .setTags hs))) (fun _ hs => .setTags hs)) (.ite hs
      (.modCore hs (fun _ hs => .setTags hs)))))) (.modCopy (.ite (.modCore (.ite hs (.modCore hs (fun _ hs => .setTags hs))) (fun _ hs => .setTags
          hs)) (.ite hs (.modCore hs (fun _ hs => .setTags hs)))))

theorem State.Canon.outStep {w num bs done} (hs : s.Canon M P) (hk : ∀ x0, x0.Canon M P → (done x0).Canon M P) :
    (s.outStep w num bs done).Canon M P := by
  unfold State.outStep
  split
  · exact .modCopy hs
  · exact .copyLost hs
  · exact .ite (hk _ (.putSome hs)) (.modCopy (.putSome hs))

theorem State.Canon.writeOut {w o bs} (hs : s.Canon M P) : (s.writeOut w o bs).Canon M P := .outStep hs (fun _ hs => .sectorDone hs)

theorem State.Canon.served {w} (hs : s.Canon M P) : (s.served w).Canon M P := .keepEngine hs fun _ => rfl

theorem State.Canon.doSector {w o} (hs : s.Canon M P) : (s.doSector w o).Canon M P := by
  have hc {bs} : (s.checkSector w bs).1.Canon M P := .checkSector hs
  unfold State.doSector
  dsimp only
  split
  · exact .copyFault (.ofFst ‹_› hc)
  · exact .copyWait (.ofFst ‹_› hc)
  · next t _ e =>
    have ht : t.Canon M P := .ofFst e hc
    split
    · exact .copyLost ht
    · exact ht
    · have hm {f} : (t.modCopy w o.num f).Canon M P := .modCopy ht
      split
      · split
        · exact hm
        · exact hm
        · exact .mergeVals hm
        · exact hm
      · refine .writeOut (.served (.modCopy ?_))
        split
        · exact hm
        · exact hm
        · exact .mergeVals hm
        · exact hm

theorem State.Canon.doQdual {w o} (hs : s.Canon M P) : (s.doQdual w o).Canon M P := by
  unfold State.doQdual
  dsimp only
  refine .writeOut (.served ?_)
  split
  · exact .mergeVals hs
  · exact hs

theorem State.Canon.readAhead {w o k} (hs : s.Canon M P) : (s.readAhead w o k).Canon M P := by
  have take {t now} (ht : State.Canon M P t) : (match o.read? k with
      | some d => t.mergeVals d now
      | none => (now, t)).2.Canon M P := by
    split
    · exact .mergeVals ht
    · exact ht
  unfold State.readAhead
  dsimp only
  split
  · exact .ite (.modCopy (take hs)) hs
  · exact .ite hs (.ite (.modCopy (take (.copyWalks hs))) (.copyWalks hs))

theorem Out.Canon.execCopySector {w num ahead} (hs : s.Canon M P) : (execCopySector w num ahead s).Canon M P := by
  unfold Machine.execCopySector
  dsimp only
  split
  · exact .next hs
  · refine .ite (.next hs) (.ite (.next (.settleCopy hs)) (.ite (.next ?_) ?_))
    · split
      · exact hs
      · exact .writeOut hs
    · split
      · exact .next (.ite (.readAhead hs) hs)
      · refine .ite (.ite (.next (.modCopy hs)) (.next hs)) (.ite (.next hs) ?_)
        split
        · exact .next hs
        · exact .next (.doQdual hs)
        · exact .next (.doSector hs)

theorem Out.Canon.execDenialFault {w} (hs : s.Canon M P) : (execDenialFault w s).Canon M P := by
  unfold Machine.execDenialFault
  dsimp only
  refine .ite (.next hs) ?_
  split
  · exact .next hs
  · exact .next (.copyFault hs)

theorem Out.Canon.copyIssue {d sync mk f} (hs : s.Canon M P) : (copyIssue s d sync mk f).Canon M P :=
    .ite (.parkAgain hs) (.ite (.next (.park (.mod hs))) (.retire (.mod hs)))

theorem Out.Canon.copyForm {h k size sync d a b} (hs : s.Canon M P) : (copyForm h k size sync d a b s).Canon M P := by
  unfold Machine.copyForm
  refine .homeOnly hs ?_
  dsimp only
  split
  · exact .trap hs
  · split
    · exact .trap hs
    · exact .copyIssue hs

theorem Out.Canon.execCpy {h sync d a b} (hs : s.Canon M P) : (execCpy h sync d a b s).Canon M P := .copyForm hs

theorem Out.Canon.execCpyt {h sync d a b} (hs : s.Canon M P) : (execCpyt h sync d a b s).Canon M P := .copyForm hs

theorem Out.Canon.execCpyf {h mode sync d a b} (hs : s.Canon M P) : (execCpyf h mode sync d a b s).Canon M P := .copyForm hs

theorem Out.Canon.execQdual {h sync d a b} (hs : s.Canon M P) : (execQdual h sync d a b s).Canon M P := by
  unfold Machine.execQdual
  refine .homeOnly hs ?_
  dsimp only
  split
  · exact .trap hs
  · exact .copyIssue hs

theorem Out.Canon.execBload {h sp t sc sync d a b} (hs : s.Canon M P) : (execBload h sp t sc sync d a b s).Canon M P := by
  unfold Machine.execBload
  refine .homeOnly hs ?_
  dsimp only
  split
  · exact .trap hs
  · exact .copyIssue hs

theorem Out.Canon.execTlwait {h t b} (hs : s.Canon M P) : (execTlwait h t b s).Canon M P :=
    .homeOnly hs (.ite (.trap hs) (.ite (.next (.park hs)) (.retire (.acquire hs))))

theorem State.Canon.abortCopy {w} (hs : s.Canon M P) : (s.abortCopy w).Canon M P := by
  unfold State.abortCopy
  split
  · exact hs
  · exact .settleCopy (.modSlot (.modCopy hs))

theorem Out.Canon.execTlwaitAbort {h t b} (hs : s.Canon M P) : (execTlwaitAbort h t b s).Canon M P := by
  refine .homeOnly hs ?_
  cases t with
  | c => exact .retire (.abortCopy hs)
  | m | x => exact .retire hs

theorem Out.Canon.execTlrd {h f d t} (hs : s.Canon M P) : (execTlrd h f d t s).Canon M P := .homeOnly hs (.retire hs)

theorem Out.Canon.execSstream {h v wr gl sync d a b} (hs : s.Canon M P) : (execSstream h v wr gl sync d a b s).Canon M P := by
  unfold Machine.execSstream
  refine .homeOnly hs ?_
  dsimp only
  split
  · exact .trap hs
  · split
    · exact .trap hs
    · exact .copyIssue hs

theorem Out.Canon.execSstop {h v} (hs : s.Canon M P) : (execSstop h v s).Canon M P := .homeOnly hs (.next (.settleCopy (.mod hs)))

theorem Out.Canon.execSpos {h d v} (hs : s.Canon M P) : (execSpos h d v s).Canon M P := .homeOnly hs (.retire hs)

theorem State.Canon.refill {w v st} (hs : s.Canon M P) : (s.refill w v st).Canon M P := by
  unfold State.refill
  dsimp only
  refine .ite hs ?_
  split
  · split
    · exact (.ofFst ‹_› (.checkSector hs))
    · exact .copyLost (.ofFst ‹_› (.checkSector hs))
    · exact .modSlot (.ite (.modCore (.ofFst ‹_› (.checkSector hs)) (fun _ hs => .setTags hs)) (.ofFst ‹_› (.checkSector hs)))
  · exact .modSlot (.ofFst ‹_› (.checkSector hs))
  · exact .modSlot (.ofFst ‹_› (.checkSector hs))

theorem State.Canon.reread {w v st j} (hs : s.Canon M P) : (s.reread w v st j).Canon M P := by
  unfold State.reread
  split
  · exact hs
  · exact .ite hs (.ite (.modSlot (.mergeVals (.copyWalks hs))) (.copyWalks hs))

theorem Out.Canon.execStreamRefill {w v} (hs : s.Canon M P) : (execStreamRefill w v s).Canon M P := by
  unfold Machine.execStreamRefill
  dsimp only
  split
  · exact .next hs
  · exact .ite (.next hs) (.ite (.next (.finishCopy hs)) (.ite (.next (.modCopy hs)) (.ite (.next hs) (.next (.ite (.refill (.pick hs)) (.ite
      (.refill (.pick hs)) (.reread (.pick hs))))))))

theorem State.Canon.stripDone {w v at_ st p} (hs : s.Canon M P) : (s.stripDone w v at_ st p).Canon M P :=
    .ite (.finishCopy (.modCopy (.modSlot (.ite (.modCore hs (fun _ hs => .setTags hs)) hs)))) (.modCopy (.modSlot (.ite (.modCore hs (fun _ hs =>
        .setTags hs)) hs)))

theorem State.Canon.stripOut {w v at_ st p bs} (hs : s.Canon M P) : (s.stripOut w v at_ st p bs).Canon M P := .outStep hs (fun _ hs => .stripDone hs)

theorem State.Canon.drainStrip {w v at_ st p} (hs : s.Canon M P) : (s.drainStrip w v at_ st p).Canon M P := by
  unfold State.drainStrip
  dsimp only
  split
  · exact .copyFault ((.ofFst ‹_› (.checkSector (.modCopy hs))))
  · exact .copyWait ((.ofFst ‹_› (.checkSector (.modCopy hs))))
  · split
    · exact (.ofFst ‹_› (.checkSector (.modCopy hs)))
    · exact .copyLost ((.ofFst ‹_› (.checkSector (.modCopy hs))))
    · exact .stripOut ((.ofFst ‹_› (.checkSector (.modCopy hs))))

theorem Out.Canon.execStreamDrain {w v} (hs : s.Canon M P) : (execStreamDrain w v s).Canon M P := by
  have hp {n} : (s.pick n).2.Canon M P := .pick hs
  refine .ite (.next hs) ?_
  dsimp only
  split
  · exact .next hp
  · refine .ite (.next (.modCopy hp)) ?_
    split
    · exact .next (.finishCopy (.modSlot hp))
    · split
      · exact .next (.stripOut hp)
      · exact .next (.drainStrip hp)

theorem State.Canon.modMat {x f} (hs : s.Canon M P) : (s.modMat x f).Canon M P := .modSlot hs

theorem State.Canon.endMat {x next st} (hs : s.Canon M P) : (s.endMat x next st).Canon M P := .failItems (.modSlot (.modMat hs))

theorem State.Canon.finishMat {x st} (hs : s.Canon M P) : (s.finishMat x st).Canon M P := .endMat hs

theorem State.Canon.abortMat {c w num} (hs : s.Canon M P) : (s.abortMat c w num).Canon M P :=
    .foldl (.keepEngine hs fun _ => rfl) (fun _ _ hs => .endMat hs)

theorem Out.Canon.execMatrixAccept {c} (hs : s.Canon M P) : (execMatrixAccept c s).Canon M P := by
  unfold Machine.execMatrixAccept
  dsimp only
  refine .ite (.next hs) ?_
  split
  · exact .next hs
  · split
    · split
      · exact .next (.endMat (.keepEngine (.keepEngine hs fun _ => rfl) fun _ => rfl))
      · exact .next (.endMat (.keepEngine hs fun _ => rfl))
    · exact .next (.endMat (.abortMat (.keepEngine hs fun _ => rfl)))
    · exact .ite (.next (.finishMat (.keepEngine hs fun _ => rfl))) (.next (.keepEngine (.modMat (.keepEngine hs fun _ => rfl)) fun _ => rfl))

theorem State.Canon.startDrain {c x f} (hs : s.Canon M P) : (s.startDrain c x f).Canon M P :=
    .ite (.keepEngine (.modMat hs) fun _ => rfl) (.foldl (.keepEngine (.modMat hs) fun _ => rfl) (fun _ _ hs => .inject hs))

theorem State.Canon.oldOrNew {α : Type} [DecidableEq α] {l m : List α} (hs : s.Canon M P) : (s.oldOrNew l m).2.Canon M P := by
  induction l generalizing s m with
  | nil => exact hs
  | cons x xs ih =>
    cases m with
    | nil => exact hs
    | cons y ys => exact ih (.iteSnd hs (.pick hs))

theorem State.Canon.fetchJob {x} (hs : s.Canon M P) : (s.fetchJob x).Canon M P := by
  unfold State.fetchJob
  split
  · exact hs
  · split
    · refine .ite hs ?_
      dsimp only
      split
      · exact .modMat hs
      · exact .modMat (.oldOrNew (.oldOrNew hs))
    · exact hs

theorem Out.Canon.execMatrixJobStart {c drain} (hs : s.Canon M P) : (execMatrixJobStart c drain s).Canon M P := by
  unfold Machine.execMatrixJobStart
  split
  · exact .next (.ite hs (.foldl hs (fun _ _ hs => .fetchJob hs)))
  · split
    · exact .next (.startDrain hs)
    · exact .next (.keepEngine (.modMat (.fetchJob hs)) fun _ => rfl)

theorem State.Canon.sumJob {c x f} (hs : s.Canon M P) : (s.sumJob c x f).Canon M P := .finishMat (.keepEngine (.fetchJob hs) fun _ => rfl)

theorem Out.Canon.execMatrixJobComplete {c} (hs : s.Canon M P) : (execMatrixJobComplete c s).Canon M P := by
  unfold Machine.execMatrixJobComplete
  split
  · exact .next hs
  · dsimp only
    split
    · exact .next (.keepEngine hs fun _ => rfl)
    · split
      · exact .next (.sumJob hs)
      · exact .next (.finishMat (.keepEngine (.keepEngine hs fun _ => rfl) fun _ => rfl))
      · exact .next (.keepEngine hs fun _ => rfl)

theorem State.Canon.endDrain {c d st} (hs : s.Canon M P) : (s.endDrain c d st).Canon M P := .endMat (.keepEngine hs fun _ => rfl)

theorem Out.Canon.execDrainComplete {c} (hs : s.Canon M P) : (execDrainComplete c s).Canon M P := by
  unfold Machine.execDrainComplete
  split
  · exact .next hs
  · exact .ite (.next (.endDrain hs)) (.next hs)

theorem Out.Canon.execDrainFail {c} (hs : s.Canon M P) : (execDrainFail c s).Canon M P := by
  unfold Machine.execDrainFail
  split
  · exact .next hs
  · exact .ite (.next (.endDrain hs)) (.next hs)

theorem Out.Canon.matTrap {detail} (hs : s.Canon M P) : (matTrap s detail).Canon M P := .trap hs

theorem Out.Canon.matIssue {d sync k} (hs : s.Canon M P) : (matIssue s d sync k).Canon M P :=
    .ite (.parkAgain hs) (.ite (.next (.park (.mod hs))) (.retire (.mod hs)))

theorem Out.Canon.jobIssue {d sync f} (hs : s.Canon M P) : (jobIssue s d sync f).Canon M P := by
  unfold Machine.jobIssue
  split
  · exact .matTrap hs
  · exact .matIssue hs

theorem Out.Canon.matForm {h k} (hs : s.Canon M P) (hk : k.Canon M P) : (matForm h s k).Canon M P := .homeOnly hs hk

theorem Out.Canon.execMjob {h bank z sync d a b} (hs : s.Canon M P) : (execMjob h bank z sync d a b s).Canon M P := by
  unfold Machine.execMjob
  refine .matForm hs (.ite (.matTrap hs) ?_)
  split
  · exact .matTrap hs
  · exact .ite (.matTrap hs) (.jobIssue hs)

theorem Out.Canon.execMma {h bank z sync d a b} (hs : s.Canon M P) : (execMma h bank z sync d a b s).Canon M P :=
    .matForm hs (.ite (.matTrap hs) (.jobIssue hs))

theorem Out.Canon.execMdrain {h m d a b} (hs : s.Canon M P) : (execMdrain h m d a b s).Canon M P := by
  unfold Machine.execMdrain
  refine .matForm hs ?_
  split
  · exact .matTrap hs
  · exact .matIssue hs

theorem Out.Canon.execMwait {h d a} (hs : s.Canon M P) : (execMwait h d a s).Canon M P :=
    .matForm hs (.ite (.trap hs) (.ite (.retire hs) (.ite (.next (.park hs)) (.retire (.acquire hs)))))

theorem Out.Canon.execMcfg {h sync d a} (hs : s.Canon M P) : (execMcfg h sync d a s).Canon M P := .matForm hs (.ite (.matTrap hs) (.matIssue hs))

theorem Out.Canon.execMcfgr {h d} (hs : s.Canon M P) : (execMcfgr h d s).Canon M P := .matForm hs (.retire hs)

theorem Out.Canon.execMclr {h bank sync d} (hs : s.Canon M P) : (execMclr h bank sync d s).Canon M P := .matForm hs (.matIssue hs)

theorem Out.Canon.execMabort {h sync d} (hs : s.Canon M P) : (execMabort h sync d s).Canon M P := .matForm hs (.matIssue hs)

theorem Out.Canon.int2 {h d a b f} (hs : s.Canon M P) : (int2 h d a b f s).Canon M P := .guarded hs (.retire hs)

theorem Out.Canon.int1 {h d a f} (hs : s.Canon M P) : (int1 h d a f s).Canon M P := .guarded hs (.retire hs)

theorem Out.Canon.pred2 {h d a b f} (hs : s.Canon M P) : (pred2 h d a b f s).Canon M P := .guarded hs (.retire hs)

theorem Out.Canon.execAdd {h d a b} (hs : s.Canon M P) : (execAdd h d a b s).Canon M P := .int2 hs

theorem Out.Canon.execSub {h d a b} (hs : s.Canon M P) : (execSub h d a b s).Canon M P := .int2 hs

theorem Out.Canon.execMul {h d a b} (hs : s.Canon M P) : (execMul h d a b s).Canon M P := .int2 hs

theorem Out.Canon.execMulh {h d a b} (hs : s.Canon M P) : (execMulh h d a b s).Canon M P := .int2 hs

theorem Out.Canon.execUmulh {h d a b} (hs : s.Canon M P) : (execUmulh h d a b s).Canon M P := .int2 hs

theorem Out.Canon.execDiv {h d a b} (hs : s.Canon M P) : (execDiv h d a b s).Canon M P := .int2 hs

theorem Out.Canon.execUdiv {h d a b} (hs : s.Canon M P) : (execUdiv h d a b s).Canon M P := .int2 hs

theorem Out.Canon.execRem {h d a b} (hs : s.Canon M P) : (execRem h d a b s).Canon M P := .int2 hs

theorem Out.Canon.execUrem {h d a b} (hs : s.Canon M P) : (execUrem h d a b s).Canon M P := .int2 hs

theorem Out.Canon.execMin {h d a b} (hs : s.Canon M P) : (execMin h d a b s).Canon M P := .int2 hs

theorem Out.Canon.execMax {h d a b} (hs : s.Canon M P) : (execMax h d a b s).Canon M P := .int2 hs

theorem Out.Canon.execUmin {h d a b} (hs : s.Canon M P) : (execUmin h d a b s).Canon M P := .int2 hs

theorem Out.Canon.execUmax {h d a b} (hs : s.Canon M P) : (execUmax h d a b s).Canon M P := .int2 hs

theorem Out.Canon.execMadd {h d a b c} (hs : s.Canon M P) : (execMadd h d a b c s).Canon M P := .guarded hs (.retire hs)

theorem Out.Canon.execMsub {h d a b c} (hs : s.Canon M P) : (execMsub h d a b c s).Canon M P := .guarded hs (.retire hs)

theorem Out.Canon.execAnd {h d a b} (hs : s.Canon M P) : (execAnd h d a b s).Canon M P := .int2 hs

theorem Out.Canon.execOr {h d a b} (hs : s.Canon M P) : (execOr h d a b s).Canon M P := .int2 hs

theorem Out.Canon.execXor {h d a b} (hs : s.Canon M P) : (execXor h d a b s).Canon M P := .int2 hs

theorem Out.Canon.execAndn {h d a b} (hs : s.Canon M P) : (execAndn h d a b s).Canon M P := .int2 hs

theorem Out.Canon.execOrn {h d a b} (hs : s.Canon M P) : (execOrn h d a b s).Canon M P := .int2 hs

theorem Out.Canon.execShl {h d a b} (hs : s.Canon M P) : (execShl h d a b s).Canon M P := .int2 hs

theorem Out.Canon.execShr {h d a b} (hs : s.Canon M P) : (execShr h d a b s).Canon M P := .int2 hs

theorem Out.Canon.execSra {h d a b} (hs : s.Canon M P) : (execSra h d a b s).Canon M P := .int2 hs

theorem Out.Canon.execRol {h d a b} (hs : s.Canon M P) : (execRol h d a b s).Canon M P := .int2 hs

theorem Out.Canon.execRor {h d a b} (hs : s.Canon M P) : (execRor h d a b s).Canon M P := .int2 hs

theorem Out.Canon.execClz {h d a} (hs : s.Canon M P) : (execClz h d a s).Canon M P := .int1 hs

theorem Out.Canon.execCtz {h d a} (hs : s.Canon M P) : (execCtz h d a s).Canon M P := .int1 hs

theorem Out.Canon.execPopc {h d a} (hs : s.Canon M P) : (execPopc h d a s).Canon M P := .int1 hs

theorem Out.Canon.execBswap {h d a} (hs : s.Canon M P) : (execBswap h d a s).Canon M P := .int1 hs

theorem Out.Canon.execSel {h d a b c} (hs : s.Canon M P) : (execSel h d a b c s).Canon M P := .guarded hs (.retire hs)

theorem Out.Canon.execCmp {h c d a b} (hs : s.Canon M P) : (execCmp h c d a b s).Canon M P := .guarded hs (.retire hs)

theorem Out.Canon.execAddi {h d a imm} (hs : s.Canon M P) : (execAddi h d a imm s).Canon M P := .int1 hs

theorem Out.Canon.execAndi {h d a imm} (hs : s.Canon M P) : (execAndi h d a imm s).Canon M P := .int1 hs

theorem Out.Canon.execOri {h d a imm} (hs : s.Canon M P) : (execOri h d a imm s).Canon M P := .int1 hs

theorem Out.Canon.execXori {h d a imm} (hs : s.Canon M P) : (execXori h d a imm s).Canon M P := .int1 hs

theorem Out.Canon.execShli {h d a n} (hs : s.Canon M P) : (execShli h d a n s).Canon M P := .int1 hs

theorem Out.Canon.execShri {h d a n} (hs : s.Canon M P) : (execShri h d a n s).Canon M P := .int1 hs

theorem Out.Canon.execSrai {h d a n} (hs : s.Canon M P) : (execSrai h d a n s).Canon M P := .int1 hs

theorem Out.Canon.execLi {h d imm} (hs : s.Canon M P) : (execLi h d imm s).Canon M P := .guarded hs (.retire hs)

theorem Out.Canon.execLih {h d a imm} (hs : s.Canon M P) : (execLih h d a imm s).Canon M P := .int1 hs

theorem Out.Canon.execLea {h d a b sh disp} (hs : s.Canon M P) : (execLea h d a b sh disp s).Canon M P := .guarded hs (.retire hs)

theorem Out.Canon.execCmpi {h c d a imm} (hs : s.Canon M P) : (execCmpi h c d a imm s).Canon M P := .guarded hs (.retire hs)

theorem Out.Canon.execExt {h sg d a pos len1} (hs : s.Canon M P) : (execExt h sg d a pos len1 s).Canon M P := .int1 hs

theorem Out.Canon.execIns {h d a pos len1} (hs : s.Canon M P) : (execIns h d a pos len1 s).Canon M P := .guarded hs (.retire hs)

theorem Out.Canon.execPand {h d a b} (hs : s.Canon M P) : (execPand h d a b s).Canon M P := .pred2 hs

theorem Out.Canon.execPor {h d a b} (hs : s.Canon M P) : (execPor h d a b s).Canon M P := .pred2 hs

theorem Out.Canon.execPxor {h d a b} (hs : s.Canon M P) : (execPxor h d a b s).Canon M P := .pred2 hs

theorem Out.Canon.execPandn {h d a b} (hs : s.Canon M P) : (execPandn h d a b s).Canon M P := .pred2 hs

theorem Out.Canon.execPsetb {h d a bit} (hs : s.Canon M P) : (execPsetb h d a bit s).Canon M P := .guarded hs (.retire hs)

theorem Out.Canon.execPsetbAll {h a} (hs : s.Canon M P) : (execPsetbAll h a s).Canon M P := .guarded hs (.retire hs)

theorem Out.Canon.execPgetb {h d a} (hs : s.Canon M P) : (execPgetb h d a s).Canon M P := .guarded hs (.retire hs)

theorem Out.Canon.execPgetbAll {h d} (hs : s.Canon M P) : (execPgetbAll h d s).Canon M P := .guarded hs (.retire hs)

theorem Out.Canon.floatResult {d r} (hs : s.Canon M P) : (floatResult s d r).Canon M P := .retireFp hs

theorem Out.Canon.floatOp {h t rm d f} (hs : s.Canon M P) : (floatOp h t rm d f s).Canon M P := .homeOnly hs (.floatResult hs)

theorem Out.Canon.execFadd {h t rm d a b} (hs : s.Canon M P) : (execFadd h t rm d a b s).Canon M P := .floatOp hs

theorem Out.Canon.execFsub {h t rm d a b} (hs : s.Canon M P) : (execFsub h t rm d a b s).Canon M P := .floatOp hs

theorem Out.Canon.execFmul {h t rm d a b} (hs : s.Canon M P) : (execFmul h t rm d a b s).Canon M P := .floatOp hs

theorem Out.Canon.execFdiv {h t rm d a b} (hs : s.Canon M P) : (execFdiv h t rm d a b s).Canon M P := .floatOp hs

theorem Out.Canon.execFsqrt {h t rm d a} (hs : s.Canon M P) : (execFsqrt h t rm d a s).Canon M P := .floatOp hs

theorem Out.Canon.execFmin {h t d a b} (hs : s.Canon M P) : (execFmin h t d a b s).Canon M P := .homeOnly hs (.floatResult hs)

theorem Out.Canon.execFmax {h t d a b} (hs : s.Canon M P) : (execFmax h t d a b s).Canon M P := .homeOnly hs (.floatResult hs)

theorem Out.Canon.execFfma {h t rm d a b c} (hs : s.Canon M P) : (execFfma h t rm d a b c s).Canon M P := .floatOp hs

theorem Out.Canon.execFfms {h t rm d a b c} (hs : s.Canon M P) : (execFfms h t rm d a b c s).Canon M P := .floatOp hs

theorem Out.Canon.execFnma {h t rm d a b c} (hs : s.Canon M P) : (execFnma h t rm d a b c s).Canon M P := .floatOp hs

theorem Out.Canon.execFabs {h t d a} (hs : s.Canon M P) : (execFabs h t d a s).Canon M P := .homeOnly hs (.retire hs)

theorem Out.Canon.execFneg {h t d a} (hs : s.Canon M P) : (execFneg h t d a s).Canon M P := .homeOnly hs (.retire hs)

theorem Out.Canon.execFsgnj {h t m d a b} (hs : s.Canon M P) : (execFsgnj h t m d a b s).Canon M P := .homeOnly hs (.retire hs)

theorem Out.Canon.execFcmp {h t c d a b} (hs : s.Canon M P) : (execFcmp h t c d a b s).Canon M P := .homeOnly hs (.retireFp hs)

theorem Out.Canon.execFclass {h t d a} (hs : s.Canon M P) : (execFclass h t d a s).Canon M P := .homeOnly hs (.retire hs)

theorem Out.Canon.execFsel {h d a b c} (hs : s.Canon M P) : (execFsel h d a b c s).Canon M P := .homeOnly hs (.retire hs)

theorem Out.Canon.execFcvt {h dst src rm d a} (hs : s.Canon M P) : (execFcvt h dst src rm d a s).Canon M P := .homeOnly hs (.floatResult hs)

theorem Out.Canon.execFcvti {h src dst rm d a} (hs : s.Canon M P) : (execFcvti h src dst rm d a s).Canon M P := .homeOnly hs (.retireFp hs)

theorem Out.Canon.execFicvt {h dst nat rm d a} (hs : s.Canon M P) : (execFicvt h dst nat rm d a s).Canon M P := .homeOnly hs (.floatResult hs)

theorem Out.Canon.execFmvs {h d a} (hs : s.Canon M P) : (execFmvs h d a s).Canon M P := .homeOnly hs (.retire hs)

theorem Out.Canon.execFmvf {h d a} (hs : s.Canon M P) : (execFmvf h d a s).Canon M P := .homeOnly hs (.retire hs)

theorem Out.Canon.execFliFp32 {h d imm} (hs : s.Canon M P) : (execFliFp32 h d imm s).Canon M P := .homeOnly hs (.retire hs)

theorem Out.Canon.execFliFp64 {h d imm} (hs : s.Canon M P) : (execFliFp64 h d imm s).Canon M P := .homeOnly hs (.retire hs)

theorem Out.Canon.execFflg {h d a} (hs : s.Canon M P) : (execFflg h d a s).Canon M P := .homeOnly hs (.retire hs)

theorem Out.Canon.execFenw {h d a} (hs : s.Canon M P) : (execFenw h d a s).Canon M P := .homeOnly hs (.retire hs)

theorem State.Canon.applyVRes {o r t fl} (hs : s.Canon M P) (e : applyVRes s o r = .inr (t, fl)) : t.Canon M P := by
  have hp {f} : (s.mod f).Canon M P := .mod hs
  cases r with
  | v | pair | f | s =>
    cases e
    exact .mod hp
  | stores =>
    cases e
    exact .modMyCore hp fun _ hc => .foldl hc fun _ _ hc => .spWrite hc
  | fault => cases e

theorem Out.Canon.vfinish {fl f} (hs : s.Canon M P) : (vfinish s fl f).Canon M P := .next (.fpPark (.mod hs))

theorem Out.Canon.vexecute {o valid run f} (hs : s.Canon M P) : (vexecute s o valid run f).Canon M P := by
  unfold Machine.vexecute
  refine .ite (.parkAgain hs) ?_
  split
  · exact .trap hs
  · exact .vfinish (.applyVRes hs ‹_›)

theorem Out.Canon.vrepeat {o} (hs : s.Canon M P) : (vrepeat s o).Canon M P := .ite (.trap hs) (.ite (.next (.mod hs)) (.streamGate hs (.vexecute hs)))

theorem Out.Canon.vform {h o} (hs : s.Canon M P) : (vform h o s).Canon M P := .homeOnly hs (.ite (.vrepeat hs) (.streamGate hs (.vexecute hs)))

theorem State.Canon.modColl {w num f} (hs : s.Canon M P) : (s.modColl w num f).Canon M P := .modSlot hs

theorem State.Canon.collSend {t rcv b} (hs : s.Canon M P) : (s.collSend t rcv b).Canon M P := .ite (.modView hs) (.send hs)

theorem State.Canon.collSendAll {t rcv b} (hs : s.Canon M P) : (s.collSendAll t rcv b).Canon M P := .foldl hs (fun _ _ hs => .collSend hs)

theorem State.Canon.unmail {t f} (hs : s.Canon M P) : (s.unmail t f).Canon M P := .modView hs

theorem State.Canon.unitAccess {w a n kind page} (hs : s.Canon M P) : (s.unitAccess w a n kind page).1.Canon M P := by
  unfold State.unitAccess
  dsimp only
  split
  · split
    · exact .iteFst hs hs
    · exact .foldl hs fun _ _ hs => .autoCommit hs
  · exact hs

theorem State.Canon.collWait {w num ps} (hs : s.Canon M P) : (s.collWait w num ps).Canon M P := .addPend (.modColl hs)

theorem State.Canon.writeSegs {segs bs} (hs : s.Canon M P) : (s.writeSegs segs bs).Canon M P := .foldl hs (fun _ _ hs => .writeIo hs)

theorem State.Canon.freeBytes {n} (hs : s.Canon M P) : (s.freeBytes n).2.Canon M P := .keep hs rfl

theorem State.Canon.settleColl {w} (hs : s.Canon M P) : (s.settleColl w).Canon M P := by
  unfold State.settleColl
  dsimp only
  split
  · exact hs
  · refine .foldl (.modSlot hs) fun _ _ hs => ?_
    split
    · exact .mbAdd hs
    · exact hs

theorem State.Canon.pendMembership {w num} (hs : s.Canon M P) : (s.pendMembership w num).Canon M P := .savePend (.modSlot hs)

theorem State.Canon.failColls {job status stale} (hs : s.Canon M P) : (s.failColls job status stale).Canon M P :=
    .foldl hs (fun _ _ hs => .ite (.pendMembership (.modSlot hs)) (.modSlot hs))

theorem State.Canon.takeSeq {w o} (hs : s.Canon M P) : (s.takeSeq w o).Canon M P := .ite hs (.collSendAll (.modView (.modColl hs)))

theorem State.Canon.contribute {w o bs} (hs : s.Canon M P) : (s.contribute w o bs).Canon M P :=
    .ite (.modColl hs) (.ite (.collSend (.modColl hs)) (.ite (.modColl hs) (.ite (.ite (.collSendAll (.modColl hs)) (.modColl hs)) (.collSend
        (.modColl hs)))))

theorem State.Canon.inputFault {w o} (hs : s.Canon M P) : (s.inputFault w o).Canon M P := .collSend (.modColl hs)

theorem State.Canon.readInput {o segs} (hs : s.Canon M P) : (s.readInput o segs).2.Canon M P := .iteSnd hs (.oldOrNew hs)

theorem State.Canon.startColl {w o} (hs : s.Canon M P) : (s.startColl w o).Canon M P := by
  unfold State.startColl
  split
  · exact .ite (.inputFault (.ofFst ‹_› (.unitAccess hs))) (.ite (.contribute (.modColl (.iteSnd (.readInput (.ofFst ‹_› (.unitAccess hs))) (.pick
      (.readInput (.ofFst ‹_› (.unitAccess hs))))))) (.modColl (.iteSnd (.readInput (.ofFst ‹_› (.unitAccess hs))) (.pick (.readInput (.ofFst ‹_›
          (.unitAccess hs)))))))
  · exact .collWait (.ofFst ‹_› (.unitAccess hs))
  · exact .inputFault (.ofFst ‹_› (.unitAccess hs))

theorem Out.Canon.execCollMatch {w num} (hs : s.Canon M P) : (execCollMatch w num s).Canon M P := by
  unfold Machine.execCollMatch
  split
  · exact .next hs
  · exact .ite (.next (.takeSeq hs)) (.ite (.ite (.next hs) (.ite (.next (.modColl (.modColl hs))) (.next (.startColl (.modColl hs))))) (.next hs))

theorem Out.Canon.execCollCombine {t i j} (hs : s.Canon M P) : (execCollCombine t i j s).Canon M P := by
  unfold Machine.execCollCombine
  dsimp only
  split
  · exact .ite (.next (.modView hs)) (.next hs)
  · exact .next hs

theorem State.Canon.leadFinal {w o} (hs : s.Canon M P) : (s.leadFinal w o).Canon M P := by
  unfold State.leadFinal
  dsimp only
  refine .ite (.ite (.modColl (.collSendAll hs)) hs) (.ite (.ite (.collSendAll (.unmail hs)) hs) (.ite (.collSendAll hs) ?_))
  split
  · exact .collSendAll (.unmail hs)
  · exact hs

theorem State.Canon.takeFinal {w o} (hs : s.Canon M P) : (s.takeFinal w o).Canon M P := by
  unfold State.takeFinal
  dsimp only
  split
  · exact .ite (.modColl (.unmail hs)) (.ite (.unmail hs) (.collSend (.modColl (.unmail hs))))
  · split
    · exact .ite hs (.modColl hs)
    · exact hs

theorem Out.Canon.execCollFinal {w num} (hs : s.Canon M P) : (execCollFinal w num s).Canon M P := by
  unfold Machine.execCollFinal
  split
  · exact .next hs
  · refine .ite (.next hs) ?_
    dsimp only
    split
    · exact .ite (.next (.takeFinal (.ite (.leadFinal hs) hs))) (.next (.ite (.leadFinal hs) hs))
    · exact .next (.ite (.leadFinal hs) hs)

theorem Out.Canon.execCollRelease {w num} (hs : s.Canon M P) : (execCollRelease w num s).Canon M P := by
  unfold Machine.execCollRelease
  split
  · exact .next hs
  · exact .ite (.next hs) (.ite (.ite (.next (.modColl (.collSendAll hs))) (.next hs)) (.ite (.next (.modColl hs)) (.next hs)))

theorem State.Canon.outputOf {o} (hs : s.Canon M P) : (s.outputOf o).2.Canon M P := .iteSnd (.iteSnd (.keep hs rfl) hs) (.iteSnd hs hs)

theorem State.Canon.collPieces {o} (hs : s.Canon M P) : (s.collPieces o).2.Canon M P := .outputOf hs

theorem State.Canon.putPiece {w o a bs} (hs : s.Canon M P) : (s.putPiece w o a bs).2.Canon M P := by
  unfold State.putPiece
  split
  · exact .writeSegs (.ofFst ‹_› (.unitAccess hs))
  · have ht := State.Canon.ofFst ‹_› (State.Canon.unitAccess hs)
    refine .iteSnd (a := (_, _)) (.pick ht) ?_
    split
    · exact .writeSegs (.ofFst ‹_› (.unitAccess (.pick ht)))
    · exact .ofFst ‹_› (.unitAccess (.pick ht))
  · exact .ofFst ‹_› (.unitAccess hs)

theorem State.Canon.pagesReady {w o l} (hs : s.Canon M P) : (s.pagesReady w o l).1.Canon M P := by
  induction l generalizing s with
  | nil => exact hs
  | cons x r ih =>
    unfold State.pagesReady
    split
    · exact .ofFst ‹_› (.unitAccess hs)
    · exact ih (.ofFst ‹_› (.unitAccess hs))

theorem State.Canon.putPieces {w : Who} {o : CollOp} {ps : List (Nat × List Byte)} {acc : Option Nat × State} (hs : acc.2.Canon M P) :
    (ps.foldl (fun (acc : Option Nat × State) (x : Nat × List Byte) =>
      let (f, s) := acc.2.putPiece w o x.1 x.2
      (acc.1 <|> f, s)) acc).2.Canon M P := .foldlSnd hs fun _ _ hs => .putPiece hs

theorem Out.Canon.execCollWriteDone {w num} (hs : s.Canon M P) : (execCollWriteDone w num s).Canon M P := by
  unfold Machine.execCollWriteDone
  split
  · exact .next hs
  · refine .ite (.next hs) ?_
    have hr {o ps} : ((s.collPieces o).2.pagesReady w o ps).1.Canon M P := .pagesReady (.collPieces hs)
    dsimp only
    split
    · exact .next (.collWait (.ofFst ‹_› hr))
    · next e => exact .next (.failItems (.settleColl (.modColl (.modSlot (.putPieces (.ofFst e hr))))))

theorem Out.Canon.execSplitterCompute {w num} (hs : s.Canon M P) : (execSplitterCompute w num s).Canon M P := by
  unfold Machine.execSplitterCompute
  split
  · exact .next hs
  · refine .ite (.next hs) ?_
    split
    · exact .next hs
    · exact .ite (.next (.raise (.keep (.unmail hs) rfl))) (.next (.collSendAll (.unmail hs)))

theorem Out.Canon.execSupplySplitters {job chan seq keys} (hs : s.Canon M P) : (execSupplySplitters job chan seq keys s).Canon M P := by
  unfold Machine.execSupplySplitters
  dsimp only
  split
  · exact .next hs
  · exact .ite (.next hs) (.next (.collSendAll (.keep hs rfl)))

theorem State.Canon.countRecords {w o ks} (hs : s.Canon M P) : (s.countRecords w o ks).Canon M P :=
    .foldl (.unmail (.modColl hs)) (fun _ _ hs => .collSend hs)

theorem State.Canon.grantQuotas {w o ns} (hs : s.Canon M P) : (s.grantQuotas w o ns).Canon M P :=
    .foldl (.unmail (.modColl hs)) (fun _ _ hs => .collSend hs)

theorem State.Canon.sendGranted {w o r k} (hs : s.Canon M P) : (s.sendGranted w o r k).Canon M P := .collSend (.unmail (.modColl hs))

theorem Out.Canon.execRepartCounts {w num} (hs : s.Canon M P) : (execRepartCounts w num s).Canon M P := by
  unfold Machine.execRepartCounts
  split
  · exact .next hs
  · refine .ite (.next hs) (.ite ?_ ?_)
    · split
      · exact .next (.countRecords hs)
      · exact .next hs
    · split
      · exact .next (.grantQuotas hs)
      · split
        · exact .next (.sendGranted hs)
        · exact .next hs

theorem Out.Canon.execRepartRecords {w num} (hs : s.Canon M P) : (execRepartRecords w num s).Canon M P := by
  unfold Machine.execRepartRecords
  split
  · exact .next hs
  · exact .ite (.next hs) (.next (.collSend (.modColl (.unmail hs))))

theorem State.Canon.forwardFinal {job o new holder} (hs : s.Canon M P) : (s.forwardFinal job o new holder).Canon M P := .ite (.collSendAll hs) hs

theorem State.Canon.countIssues {t members} (hs : s.Canon M P) : (s.countIssues t members).2.Canon M P := .pick hs

theorem State.Canon.applyFate {job new x} (hs : s.Canon M P) : (s.applyFate job new x).Canon M P := by
  obtain ⟨w, o, f⟩ := x
  cases f with
  | keep | rerun => exact hs
  | complete => exact .modColl (.forwardFinal (.iteSnd (.countIssues hs) hs))
  | ends => exact .ite (.pendMembership (.modColl hs)) (.modColl hs)

theorem State.Canon.rerunAll {job new rs} (hs : s.Canon M P) : (s.rerunAll job new rs).Canon M P :=
    .foldl hs (fun _ _ hs => .collSendAll (.modView (.modColl hs)))

theorem State.Canon.changeColls {job new finals} (hs : s.Canon M P) : (s.changeColls job new finals).Canon M P :=
    .rerunAll (.modView (.foldl (.modView (.keep hs rfl)) (fun _ _ hs => .applyFate hs)))

theorem Out.Canon.collIssue {d sync detail o} (hs : s.Canon M P) : (collIssue s d sync detail o).Canon M P := by
  unfold Machine.collIssue
  dsimp only
  split
  · exact .trap hs
  · exact .ite (.trap hs) (.ite (.trap hs) (.ite (.parkAgain hs) (.ite (.next (.park (.mod hs))) (.retire (.mod hs)))))

theorem Out.Canon.execColl {h sync d a b} (hs : s.Canon M P) : (execColl h sync d a b s).Canon M P := by
  unfold Machine.execColl
  refine .homeOnly hs ?_
  dsimp only
  split
  · exact .trap hs
  · exact .collIssue hs

theorem Out.Canon.execRepart {h sync d a} (hs : s.Canon M P) : (execRepart h sync d a s).Canon M P := by
  unfold Machine.execRepart
  refine .homeOnly hs ?_
  dsimp only
  split
  · exact .trap hs
  · exact .collIssue hs

theorem State.Canon.sendView {job rcv m} (hs : s.Canon M P) : (s.sendView job rcv m).Canon M P := .send hs

theorem State.Canon.sendViews {job rcv m} (hs : s.Canon M P) : (s.sendViews job rcv m).Canon M P := .foldl hs (fun _ _ hs => .sendView hs)

theorem State.Canon.takeView {job m} (hs : s.Canon M P) : (s.takeView job m).Canon M P := by
  unfold State.takeView
  split
  · exact hs
  · refine .getD (fun t e => ?_) hs
    obtain ⟨x, hx, rfl⟩ := Option.map_eq_some_iff.mp e
    exact .take (q := x.1) hs hx

theorem Out.Canon.execHeartbeat {job} (hs : s.Canon M P) : (execHeartbeat job s).Canon M P := .ite (.next (.sendViews (.modView hs))) (.next hs)

theorem State.Canon.campaign {job join} (hs : s.Canon M P) : (s.campaign job join).Canon M P := .sendViews (.modView hs)

theorem State.Canon.abandonJoin {job} (hs : s.Canon M P) : (s.abandonJoin job).Canon M P := by
  unfold State.abandonJoin
  split
  · exact .ite (.sendViews (.modView hs)) hs
  · exact hs

theorem State.Canon.actOnSuspects {job ms} (hs : s.Canon M P) : (s.actOnSuspects job ms).Canon M P :=
    .ite (.foldl hs (fun _ _ hs => .raise hs)) (.ite (.campaign (.abandonJoin hs)) hs)

theorem State.Canon.suspect {job m} (hs : s.Canon M P) : (s.suspect job m).Canon M P := .ite hs (.actOnSuspects (.modView hs))

theorem Out.Canon.execSuspectIntervalExpiry {job m} (hs : s.Canon M P) : (execSuspectIntervalExpiry job m s).Canon M P :=
    .ite (.next (.suspect hs)) (.next hs)

theorem Out.Canon.execFatalFaultReport {job m} (hs : s.Canon M P) : (execFatalFaultReport job m s).Canon M P := by
  unfold Machine.execFatalFaultReport
  refine .ite ?_ (.next (.suspect (.takeView hs)))
  split
  · exact .ite (.next hs) (.next (.sendView hs))
  · exact .next hs

theorem Out.Canon.execHostFailureReport {job m} (hs : s.Canon M P) : (execHostFailureReport job m s).Canon M P := .next (.suspect hs)

theorem Out.Canon.execPropose {job m} (hs : s.Canon M P) : (execPropose job m s).Canon M P := by
  unfold Machine.execPropose
  dsimp only
  split
  · exact .ite (.next (.sendView (.modView (.takeView hs)))) (.next (.takeView hs))
  · exact .next (.takeView hs)

theorem State.Canon.tryCommit {job} (hs : s.Canon M P) : (s.tryCommit job).Canon M P := by
  unfold State.tryCommit
  dsimp only
  split
  · exact hs
  · exact .ite (.sendViews (.modView hs)) hs

theorem Out.Canon.execAccept {job m} (hs : s.Canon M P) : (execAccept job m s).Canon M P := by
  unfold Machine.execAccept
  dsimp only
  split
  · exact .next (.tryCommit (.modView (.takeView hs)))
  · exact .next (.takeView hs)

theorem Out.Canon.execAgreementTimeout {job} (hs : s.Canon M P) : (execAgreementTimeout job s).Canon M P := by
  unfold Machine.execAgreementTimeout
  dsimp only
  split
  · exact .ite (.next hs) (.ite (.next (.abandonJoin hs)) (.ite (.next hs) (.next (.actOnSuspects (.modView hs)))))
  · exact .ite (.next (.campaign hs)) (.next hs)

theorem Out.Canon.execJoinRequest {job m} (hs : s.Canon M P) : (execJoinRequest job m s).Canon M P := by
  unfold Machine.execJoinRequest
  dsimp only
  split
  · exact .ite (.next (.takeView hs)) (.ite (.next (.campaign (.modView (.takeView hs)))) (.next (.modView (.takeView hs))))
  · exact .next (.takeView hs)

theorem Out.Canon.execAbandon {job num} (hs : s.Canon M P) : (execAbandon job num s).Canon M P := .next (.modView (.takeView hs))

theorem State.Canon.install {job new finals} (hs : s.Canon M P) : (s.install job new finals).Canon M P :=
    .foldl (.changeColls (.modView hs)) (fun _ _ hs => .loseModule hs)

theorem State.Canon.isolate {job} (hs : s.Canon M P) : (s.isolate job).Canon M P := .modView (.failColls hs)

theorem Out.Canon.execIsolation {job} (hs : s.Canon M P) : (execIsolation job s).Canon M P := .ite (.next (.isolate hs)) (.next hs)

theorem Out.Canon.execViewCommit {job m} (hs : s.Canon M P) : (execViewCommit job m s).Canon M P := by
  unfold Machine.execViewCommit
  dsimp only
  split
  · exact .ite (.next (.takeView hs)) (.ite (.next (.install (.modView (.takeView hs)))) (.ite (.next (.isolate (.takeView hs))) (.next (.takeView
      hs))))
  · exact .next (.takeView hs)

theorem State.Canon.hostFinals {job new} (hs : s.Canon M P) : (s.hostFinals job new).2.Canon M P := by
  refine .foldlSnd hs fun _ _ hs => .iteSnd hs ?_
  split
  · exact hs
  · exact .iteSnd (.pick hs) hs

theorem State.Canon.firstModes {job new} (hs : s.Canon M P) : (s.firstModes job new).2.Canon M P := by
  unfold State.firstModes
  split
  · exact hs
  · exact .iteSnd hs (.keep hs rfl)

theorem Out.Canon.execInstallView {job num bm} (hs : s.Canon M P) : (execInstallView job num bm s).Canon M P := by
  unfold Machine.execInstallView
  refine .ite (.next hs) (.ite (.ite (.next (.isolate hs)) (.next hs)) ?_)
  dsimp only
  have hf : (s.hostFinals job ⟨num, bm⟩).2.Canon M P := .hostFinals hs
  generalize s.hostFinals job ⟨num, bm⟩ = x at hf ⊢
  obtain ⟨finals, t⟩ := x
  have hm : (t.firstModes job ⟨num, bm⟩).2.Canon M P := .firstModes hf
  dsimp only at hm ⊢
  generalize t.firstModes job ⟨num, bm⟩ = y at hm ⊢
  obtain ⟨m, u⟩ := y
  exact .next (.install (.modView hm))

theorem Out.Canon.execMarkModuleReady {m} (hs : s.Canon M P) : (execMarkModuleReady m s).Canon M P := by
  unfold Machine.execMarkModuleReady
  refine .ite (.next hs) (.next (.foldl hs (fun _ _ hs => .ite ?_ hs)))
  dsimp only
  split
  · exact .sendView (.modView hs)
  · exact .modView hs

theorem Out.Canon.execViewrd {h part d a} (hs : s.Canon M P) : (execViewrd h part d a s).Canon M P := .homeOnly hs (.next (.park hs))

theorem Out.Canon.execViewack {h d a} (hs : s.Canon M P) : (execViewack h d a s).Canon M P :=
    .homeOnly hs (.ite (.retire hs) (.ite (.retire hs) (.retire hs)))

theorem State.Canon.launchEngine {c} (hs : s.Canon M P) : (s.launchEngine c).Canon M P := .ite hs (.keepEngine hs fun _ => rfl)

theorem State.Canon.submit {q p} (hs : s.Canon M P) : (s.submit q p).Canon M P := .keep hs rfl

theorem State.Canon.reject {q tag reason} (hs : s.Canon M P) : (s.reject q tag reason).Canon M P := .submit (.freeWord hs)

theorem Core.Canon.launched {c : Core} {l m id d img pre} : (c.launched l m id d img pre).Canon P :=
  fun _ => Memory.write_wf _ _ _ (Memory.write_wf _ _ _ Memory.nil_wf)

theorem State.Canon.startLaunch {q tag d} (hs : s.Canon M P) : (s.startLaunch q tag d).Canon M P := by
  unfold State.startLaunch
  dsimp only
  split
  · exact .reject hs
  · exact .submit (.keep (.foldl (.foldl hs fun _ _ hs => .launchEngine hs) fun _ _ hs => .modCore hs fun _ _ => .launched) rfl)

theorem Out.Canon.execLaunch {q tag d} (hs : s.Canon M P) : (execLaunch q tag d s).Canon M P := .next (.startLaunch hs)

theorem State.Canon.completeLaunch {l status} (hs : s.Canon M P) : (s.completeLaunch l status).Canon M P :=
  .withPads hs (forall_map_snd hs.cores fun _ hc => by split <;> exact hc) (forall_map_snd hs.engines fun _ he => he) rfl

theorem Out.Canon.execLaunchEnd {id} (hs : s.Canon M P) : (execLaunchEnd id s).Canon M P := by
  unfold Machine.execLaunchEnd
  split
  · exact .next hs
  · exact .ite (.next (.completeLaunch hs)) (.next hs)

theorem State.Canon.stateOf {t o} (_ : t.Canon M P) (ho : o.Canon M P) : (stateOf t o).Canon M P := by
  obtain ⟨u, rfl, hu⟩ := ho
  exact hu

theorem State.Canon.failToDie {d} (hs : s.Canon M P) : (s.failToDie d).Canon M P := .failFlights hs

theorem State.Canon.flushStores {w} (hs : s.Canon M P) : (s.flushStores w).Canon M P := .foldl hs (fun _ _ hs => .performStore hs)

theorem State.Canon.endColls {w} (hs : s.Canon M P) : (s.endColls w).Canon M P :=
    .foldl hs (fun _ _ hs => .stateOf hs (.execCollWriteDone (.modColl hs)))

theorem State.Canon.failInbound {c} (hs : s.Canon M P) : (s.failInbound c).Canon M P := by
  refine .foldl hs fun _ _ hs => ?_
  split
  · exact .taskAck hs
  · exact hs

theorem State.Canon.dropName {r} (hs : s.Canon M P) : (s.dropName r).Canon M P := by
  unfold State.dropName
  extract_lets t tell u asked v ds x
  have ht : t.Canon M P := .keep hs rfl
  have hu : u.Canon M P := .foldl ht fun _ _ ht => by split <;> exact .tell ht
  have hv : v.Canon M P := .foldl hu fun _ _ hu => .tell hu
  have hx : x.Canon M P := .keep hv rfl
  exact .foldl hx fun _ _ hx => .tell hx

theorem State.Canon.dropHeld {d} (hs : s.Canon M P) : (s.dropHeld d).Canon M P := .foldl (.keep hs rfl) (fun _ _ hs => .tell hs)

theorem State.Canon.failHeld {d} (hs : s.Canon M P) : (s.failHeld d).Canon M P :=
    .foldl (.foldl (.dropHeld (.foldl (.foldl (.foldl (.foldl (.foldl hs (fun _ _ hs => .flushStores hs)) (fun _ _ hs => .modSlot (.failItems hs)))
        (fun _ _ hs => .endColls hs)) (fun _ _ hs => .failItems (.failInbound hs))) (fun _ _ hs => .dropGuest hs))) (fun _ _ hs => .dropName hs))
            (fun _ _ hs => .closeDelivery hs)

theorem State.Canon.failPorts (hs : s.Canon M P) : (s.failPorts).Canon M P := .foldl (.keep hs rfl) (fun _ _ hs => .failPacket hs)

theorem State.Canon.clearIo (hs : s.Canon M P) : (s.clearIo).Canon M P := .keep (.failPorts hs) rfl

theorem State.Canon.clearDie {d} (hs : s.Canon M P) : (s.clearDie d).Canon M P := by
  have ht : (if d = 6 then s.clearIo else s).Canon M P := .ite (.clearIo hs) hs
  refine .withPads ht (forall_map_snd ht.cores fun _ hc => ?_) (forall_map_snd ht.engines fun _ he => ?_) rfl
  · split
    · exact fun _ => Memory.nil_wf
    · exact hc
  · split
    · exact .reset
    · exact he

theorem State.Canon.finishReset {d} (hs : s.Canon M P) : (s.finishReset d).Canon M P :=
    .keep (.clearDie (.foldl (.ite (.foldl (.failHeld (.failToDie hs)) (fun _ _ hs => .failColls hs)) (.failHeld (.failToDie hs))) (fun _ _ hs =>
        .completeLaunch hs))) rfl

theorem State.Canon.stepReset {d} (hs : s.Canon M P) : (s.stepReset d).Canon M P := by
  unfold State.stepReset
  split
  · exact .failToDie (.keep hs rfl)
  · exact .ite (.failToDie hs) (.finishReset (.failToDie hs))
  · exact .failToDie hs

theorem Out.Canon.execResetADie {d} (hs : s.Canon M P) : (execResetADie d s).Canon M P := .next (.stepReset hs)

theorem Out.Canon.execDieDrainTimeout {d} (hs : s.Canon M P) : (execDieDrainTimeout d s).Canon M P := by
  unfold Machine.execDieDrainTimeout
  split
  · exact .ite (.next (.finishReset (.foldl hs (fun _ _ hs => .loseLink hs)))) (.next hs)
  · exact .next hs

theorem Out.Canon.execMarkDieReady {d} (hs : s.Canon M P) : (execMarkDieReady d s).Canon M P := .ite (.next (.keep hs rfl)) (.next hs)

theorem State.Canon.overheat (hs : s.Canon M P) : (s.overheat).Canon M P := .ite hs (.foldl (.keep hs rfl) (fun _ _ hs => .ite (.stepReset hs) hs))

theorem Out.Canon.execThermalThrottle {celsius} (hs : s.Canon M P) : (execThermalThrottle celsius s).Canon M P :=
    .next (.ite (.overheat (.keep hs rfl)) (.keep hs rfl))

theorem Out.Canon.execThermalShutdown {celsius} (hs : s.Canon M P) : (execThermalShutdown celsius s).Canon M P :=
    .ite (.next (.keep hs rfl)) (.next (.ite (.overheat (.keep hs rfl)) (.keep hs rfl)))

theorem Out.Canon.execCommitOrDenyAPage {job page frame} (hs : s.Canon M P) : (execCommitOrDenyAPage job page frame s).Canon M P := by
  unfold Machine.execCommitOrDenyAPage
  dsimp only
  split
  · exact .next hs
  · exact .next (.commitPage hs)

theorem Out.Canon.execReadCollectiveStaging {job chan seq host len} (hs : s.Canon M P) :
    (execReadCollectiveStaging job chan seq host len s).Canon M P := by
  unfold Machine.execReadCollectiveStaging
  split
  · exact .next hs
  · exact .next (.hostWrite hs)

theorem Out.Canon.execModeChange {f hostAssisted} (hs : s.Canon M P) : (execModeChange f hostAssisted s).Canon M P :=
    .ite (.next (.keep hs rfl)) (.next hs)

theorem State.Canon.manage {code ws} (hs : s.Canon M P) : (s.manage code ws).2.Canon M P := by
  unfold State.manage
  dsimp only
  split
  · exact .stateOf hs (.execCommitOrDenyAPage hs)
  · split
    · exact .stateOf hs (.execMoveOrReclaimVersionEntries hs)
    · exact hs
  · exact .stateOf hs (.execInstallView hs)
  · exact .iteSnd hs (.iteSnd hs (.stateOf hs (.execSupplySplitters hs)))
  · split
    · exact .stateOf hs (.execAnswerAnException hs)
    · exact hs
  · split
    · exact .stateOf hs (.execMarkModuleReady hs)
    · exact hs
  · split
    · exact .stateOf hs (.execSpillOrResumeASlot hs)
    · exact hs
  · split
    · exact .stateOf hs (.execResetADie hs)
    · exact hs
  · exact .iteSnd hs (.stateOf hs (.execReadCollectiveStaging hs))
  · exact hs

theorem State.Canon.command {q tag block} (hs : s.Canon M P) : (s.command q tag block).Canon M P :=
    .submit (.iteSnd (.freeWord (.manage hs)) (.pick (.freeWord (.manage hs))))

theorem State.Canon.accept {q e} (hs : s.Canon M P) : (s.accept q e).Canon M P :=
  .ite (.reject hs) (.ite (.startLaunch hs) (.ite (.command hs) (State.Canon.reject (State.Canon.pick (n := 256) hs) :)))

theorem State.Canon.acceptRing {k q tail} (hs : s.Canon M P) : (State.acceptRing k s q tail).Canon M P := by
  induction k generalizing s with
  | zero => exact hs
  | succ k ih => exact .ite hs (ih (.accept (.keep hs rfl)))

theorem Out.Canon.execDoorbell {q tail} (hs : s.Canon M P) : (execDoorbell q tail s).Canon M P := .next (.acceptRing hs)

theorem State.Canon.withQpairs {q} (hs : s.Canon M P) : State.Canon M P { s with qpairs := q } := .keep hs rfl

theorem Out.Canon.execCompletionRecord {q} (hs : s.Canon M P) : (execCompletionRecord q s).Canon M P := by
  unfold Machine.execCompletionRecord
  dsimp only
  split
  · exact .next hs
  · split
    · exact .next hs
    · exact .ite (.next (.withQpairs (.pick hs))) (.next (.withQpairs (.hostWrite hs)))

theorem Out.Canon.execEventBufferDrain {die} (hs : s.Canon M P) : (execEventBufferDrain die s).Canon M P :=
    .next (.queueEvents (.keep (.iteSnd (.pick hs) hs) rfl))

theorem State.Canon.sendFrame (hs : s.Canon M P) : (s.sendFrame).Canon M P := .ite hs (.keep (.iteSnd hs (.pick hs)) rfl)

theorem Out.Canon.execJormalFrame {seq data good} (hs : s.Canon M P) : (execJormalFrame seq data good s).Canon M P :=
    .ite (.next hs) (.next (.keep hs rfl))

theorem Out.Canon.execFirmwareImage {body version ecdsa lms} (hs : s.Canon M P) : (execFirmwareImage body version ecdsa lms s).Canon M P :=
    .ite (.next (.keep hs rfl)) (.next hs)

theorem Out.Canon.execAttestationReport {nonce} (hs : s.Canon M P) : (execAttestationReport nonce s).Canon M P := by
  unfold Machine.execAttestationReport
  refine .ite (.next hs) ?_
  have hx : (s.pick (p384N - 1)).2.Canon M P := .pick hs
  generalize s.pick (p384N - 1) = x at hx ⊢
  obtain ⟨k, t⟩ := x
  dsimp only at hx ⊢
  have hy : (t.pick (2 ^ 256)).2.Canon M P := .pick hx
  generalize t.pick (2 ^ 256) = y at hy ⊢
  obtain ⟨c, u⟩ := y
  exact .next (.keep hy rfl)

theorem Out.Canon.execModuleReset (hs : s.Canon M P) : (execModuleReset s).Canon M P :=
  .next ⟨hs.mem, hs.host, nofun, nofun⟩

theorem State.Canon.finish {w f} (hs : s.Canon M P) : (s.finish w f).Canon M P := .modSlot hs

theorem State.Canon.reissue {w} (hs : s.Canon M P) : (s.reissue w).Canon M P := .soon (.modSlot hs)

theorem State.Canon.parkTrap {w cls sub tval} (hs : s.Canon M P) : (s.parkTrap w cls sub tval).Canon M P := .trapAt hs

theorem State.Canon.allocFrame {st pool} (hs : s.Canon M P) : (s.allocFrame st pool).2.Canon M P := by
  unfold State.allocFrame
  dsimp only
  split
  · exact (.takeFrame hs ‹_›)
  · exact hs

theorem State.Canon.finishCm {w d ls} (hs : s.Canon M P) : (s.finishCm w d ls).Canon M P := .ite (.parkTrap hs) (.finish (.cmPerform hs))

theorem State.Canon.sysPerform {w op} (hs : s.Canon M P) : (s.sysPerform w op).Canon M P := by
  unfold State.sysPerform
  dsimp only
  split
  · exact .finish (.ite (.roFresh (.commitPage hs)) (.commitPage hs))
  · exact .finish (.ite hs (.roFresh (.dropFrame hs)))
  · exact .finish (.allocFrame hs)
  · exact .finish (.freeFrame hs)
  · exact .finish hs
  · exact .finish (.writeBack hs)
  · exact .finishCm hs
  · exact .finish (.endRequest (.resume hs))
  · next d a =>
    have hj : (localJoin { s.modSlot w Slot.unpark with cur := w } d a).Canon M P := .localJoin (.keep (.modSlot hs) rfl)
    exact .keep (.stateOf hs hj) rfl

theorem May.Canon.dataMet {w op far} (hs : s.Canon M P) : May.Canon M P (s.dataMet w op far) := by
  unfold State.dataMet
  split
  · exact .some (.finish (.ite (.acquire hs) hs))
  · exact .some (.parkTrap hs)
  · exact .none

theorem May.Canon.tileMet {w k name} (hs : s.Canon M P) : May.Canon M P (s.tileMet w k name) := by
  unfold State.tileMet
  generalize (s.slot w).reply = r
  cases r with
  | none => exact .none
  | some r =>
    cases r with
    | val =>
      refine .some ?_
      cases k with
      | new | store | read | change => exact .finish hs
      | load => exact .finish (.acquire hs)
    | trap => exact .some (.parkTrap hs)
    | ok => exact .some (.ite (.parkTrap hs) (.reissue hs))
    | _ => exact .none

theorem May.Canon.fenceMet {w sc} (hs : s.Canon M P) : May.Canon M P (s.fenceMet w sc) :=
    .ite .none (.ite (.some (.finish (.acquire hs))) (.ite .none (.ite (.some (.finish (.acquire (.errClear hs)))) (.some (.parkTrap (.freeWord
        (.errClear hs)))))))

theorem May.Canon.timelineMet {w t n k} (hs : s.Canon M P) : May.Canon M P (s.timelineMet w t n k) := by
  unfold State.timelineMet
  refine .ite .none (.some ?_)
  split
  · exact .finish (.acquire hs)
  · exact .modSlot (.acquire hs)
  · exact .finish (.acquire hs)

theorem May.Canon.fetchMet {w pc} (hs : s.Canon M P) : May.Canon M P (s.fetchMet w pc) := by
  unfold State.fetchMet
  dsimp only
  split
  · exact .some (.parkTrap hs)
  · exact .some (.modSlot hs)
  · exact .ite (.some (.modSlot hs)) .none

theorem May.Canon.fpMet {w raised pc} (hs : s.Canon M P) : May.Canon M P (s.fpMet w raised pc) := by
  unfold State.fpMet
  split
  · exact .some (.modSlot hs)
  · exact .some (.trapAt (.modSlot hs))
  · exact .none

theorem May.Canon.barrierMet {w i gen} (hs : s.Canon M P) : May.Canon M P (s.barrierMet w i gen) := .ite .none (.some (.modSlot (.acquire hs)))

theorem May.Canon.popMet {w mask d addr} (hs : s.Canon M P) : May.Canon M P (s.popMet w mask d addr) := by
  unfold State.popMet
  split
  · exact .some (.finish (.popTask hs))
  · exact .none

theorem May.Canon.unparked {w} (hs : s.Canon M P) : May.Canon M P (s.unparked w) := by
  unfold State.unparked
  dsimp only
  refine .ite .none ?_
  split
  · split
    · exact .some (.parkTrap hs)
    · exact .ite (.some (.reissue hs)) .none
  · exact .dataMet hs
  · split
    · exact .some (.parkTrap hs)
    · exact .ite (.some (.sysPerform hs)) .none
  · exact .ite (.fenceMet hs) .none
  · exact .tileMet hs
  · exact .timelineMet hs
  · exact .ite (.some (.finish (.acquire hs))) .none
  · exact .dataMet hs
  · split
    · exact .some (.finish hs)
    · exact .some (.parkTrap hs)
    · exact .none
  · exact .some (.finish hs)
  · exact .fpMet hs
  · split
    · exact .some (.parkTrap (.unreserve hs))
    · exact .none
  · exact .ite (.some (.finish hs)) .none
  · exact .fetchMet hs
  · exact .ite (.some (.barArrive hs)) .none
  · exact .barrierMet hs
  · exact .popMet hs
  · exact .ite .none (.some (.finish hs))
  · exact .none
  · exact .none
  · exact .ite (.some (.modSlot hs)) .none
  · exact .none
  · exact .none
  · exact .none

theorem Out.Canon.execParkReasonMet {w} (hs : s.Canon M P) : (execParkReasonMet w s).Canon M P := .next (.getD (.unparked hs) hs)

end Sys2Proof.Machine
end

section
/-! SUPPORT. Every instruction, every event and every step keeps the memories in canonical form (04 R67, 08 R170, 14 R291). -/

namespace Sys2Proof.Machine

variable {M P : Prop} {s : State}

/-! ## Every instruction, and the step -/

theorem Out.Canon.exec {i : Instr} (hs : s.Canon M P) : Out.Canon M P (exec i s) := by
  cases i
  case ldg => exact .execLdg hs
  case stg => exact .execStg hs
  case ldgv => exact .execLdgv hs
  case stgv => exact .execStgv hs
  case amo => exact .execAmo hs
  case amocas => exact .execAmocas hs
  case amox => exact .execAmox hs
  case pref => exact .execPref hs
  case fence => exact .execFence hs
  case ldres => exact .execLdres hs
  case cmstore => exact .execCmstore hs
  case commit => exact .execCommit hs
  case decommit => exact .execDecommit hs
  case palloc => exact .execPalloc hs
  case pfree => exact .execPfree hs
  case xlat => exact .execXlat hs
  case tlbinv => exact .execTlbinv hs
  case wback => exact .execWback hs
  case translationWalk => exact .execTranslationWalk hs
  case pendingCommitRetry => exact .execPendingCommitRetry hs
  case globalAccessAtSlice => exact .execGlobalAccessAtSlice hs
  case fenceProbe => exact .execFenceProbe hs
  case fenceEcho => exact .execFenceEcho hs
  case patrolScrub => exact .execPatrolScrub hs
  case ldl => exact .execLdl hs
  case stl => exact .execStl hs
  case ldlv => exact .execLdlv hs
  case stlv => exact .execStlv hs
  case ldlp => exact .execLdlp hs
  case ldf => exact .execLdf hs
  case ldfe => exact .execLdfe hs
  case stwe => exact .execStwe hs
  case tagWaitPerform => exact .execTagWaitPerform hs
  case sete => exact .execSete hs
  case setf => exact .execSetf hs
  case tagrd => exact .execTagrd hs
  case lamo => exact .execLamo hs
  case lamox => exact .execLamox hs
  case lamocas => exact .execLamocas hs
  case lkput => exact .execLkput hs
  case lkget => exact .execLkget hs
  case br => exact .execBr hs
  case jal => exact .execJal hs
  case jr => exact .execJr hs
  case jalr => exact .execJalr hs
  case brx => exact .execBrx hs
  case loop => exact .execLoop hs
  case nop => exact .execNop hs
  case stop => exact .execStop hs
  case halt => exact .execHalt hs
  case pause => exact .execPause hs
  case pauseExpiry => exact .execPauseExpiry hs
  case fetchb => exact .execFetchb hs
  case bcast => exact .execBcast hs
  case blockStart => exact .execBlockStart hs
  case slgo => exact .execSlgo hs
  case slhalt => exact .execSlhalt hs
  case slwait => exact .execSlwait hs
  case slpoll => exact .execSlpoll hs
  case slpool => exact .execSlpool hs
  case fetchFill => exact .execFetchFill hs
  case instructionFetchFault => exact .execInstructionFetchFault hs
  case illegalInstruction => exact .execIllegalInstruction hs
  case trap => exact .execTrap hs
  case brk => exact .execBrk hs
  case eret => exact .execEret hs
  case ctlr => exact .execCtlr hs
  case ctlw => exact .execCtlw hs
  case ctlx => exact .execCtlx hs
  case tmrWrite => exact .execTmrWrite hs
  case tmrset => exact .execTmrset hs
  case tmrclr => exact .execTmrclr hs
  case timerExpiry => exact .execTimerExpiry hs
  case icinv => exact .execIcinv hs
  case rcinv => exact .execRcinv hs
  case sleep => exact .execSleep hs
  case smsgMsg => exact .execSmsgMsg hs
  case answerAnException => exact .execAnswerAnException hs
  case messageArrival => exact .execMessageArrival hs
  case messageBufferAccept => exact .execMessageBufferAccept hs
  case timerTrap => exact .execTimerTrap hs
  case copyFaultTrap => exact .execCopyFaultTrap hs
  case membershipChangeTrap => exact .execMembershipChangeTrap hs
  case spawnFailureTrap => exact .execSpawnFailureTrap hs
  case watchdog => exact .execWatchdog hs
  case preemption => exact .execPreemption hs
  case spill => exact .execSpill hs
  case unspill => exact .execUnspill hs
  case spillOrResumeASlot => exact .execSpillOrResumeASlot hs
  case versionClaim => exact .execVersionClaim hs
  case versionLoadRequest => exact .execVersionLoadRequest hs
  case tloadCancel => exact .execTloadCancel hs
  case tloadtTimeout => exact .execTloadtTimeout hs
  case waiterRetry => exact .execWaiterRetry hs
  case fillComplete => exact .execFillComplete hs
  case fillFail => exact .execFillFail hs
  case arrivalNotice => exact .execArrivalNotice hs
  case deliveryAck => exact .execDeliveryAck hs
  case deliveryFail => exact .execDeliveryFail hs
  case sharedPortWrite => exact .execSharedPortWrite hs
  case tnew => exact .execTnew hs
  case tstore => exact .execTstore hs
  case tload => exact .execTload hs
  case tloadt => exact .execTloadt hs
  case tpoll => exact .execTpoll hs
  case tdrop => exact .execTdrop hs
  case tref => exact .execTref hs
  case tinfo => exact .execTinfo hs
  case tfloor => exact .execTfloor hs
  case tlimit => exact .execTlimit hs
  case tdel => exact .execTdel hs
  case moveOrReclaimVersionEntries => exact .execMoveOrReclaimVersionEntries hs
  case taskAccept => exact .execTaskAccept hs
  case gateNotice => exact .execGateNotice hs
  case taskStart => exact .execTaskStart hs
  case taskSteal => exact .execTaskSteal hs
  case spawn => exact .execSpawn hs
  case spawndPage => exact .execSpawndPage hs
  case spawndTile => exact .execSpawndTile hs
  case fork => exact .execFork hs
  case tqpush => exact .execTqpush hs
  case tqpop => exact .execTqpop hs
  case tqctl => exact .execTqctl hs
  case tqrd => exact .execTqrd hs
  case join => exact .execJoin hs
  case joinStep => exact .execJoinStep hs
  case barCfg => exact .execBarCfg hs
  case barRd => exact .execBarRd hs
  case barArr => exact .execBarArr hs
  case barSig => exact .execBarSig hs
  case roam => exact .execRoam hs
  case home => exact .execHome hs
  case rld => exact .execRld hs
  case ramo => exact .execRamo hs
  case ramocas => exact .execRamocas hs
  case rst => exact .execRst hs
  case ramoPosted => exact .execRamoPosted hs
  case eqrd => exact .execEqrd hs
  case eqpop => exact .execEqpop hs
  case remoteWriteAck => exact .execRemoteWriteAck hs
  case remoteWriteFail => exact .execRemoteWriteFail hs
  case remoteReply => exact .execRemoteReply hs
  case remoteRequestAtTarget => exact .execRemoteRequestAtTarget hs
  case mbincLocal => exact .execMbincLocal hs
  case mbincRemote => exact .execMbincRemote hs
  case mbwait => exact .execMbwait hs
  case mbrd => exact .execMbrd hs
  case mailboxIncrement => exact .execMailboxIncrement hs
  case roamArrival => exact .execRoamArrival hs
  case guestReturn => exact .execGuestReturn hs
  case guestLost => exact .execGuestLost hs
  case packetPromotion => exact .execPacketPromotion hs
  case deadlockEscape => exact .execDeadlockEscape hs
  case ucieReplay => exact .execUcieReplay hs
  case ucieRetrain => exact .execUcieRetrain hs
  case ucieLinkRestored => exact .execUcieLinkRestored hs
  case ucieLinkLost => exact .execUcieLinkLost hs
  case ergFlitReceive => exact .execErgFlitReceive hs
  case ergNak => exact .execErgNak hs
  case ergGapRenak => exact .execErgGapRenak hs
  case ergPortRetrain => exact .execErgPortRetrain hs
  case ergPortRestored => exact .execErgPortRestored hs
  case ergPortLost => exact .execErgPortLost hs
  case switchCombine => exact .execSwitchCombine hs
  case combinedReply => exact .execCombinedReply hs
  case multicastForward => exact .execMulticastForward hs
  case bfmt => exact .execBfmt hs
  case bfmtr => exact .execBfmtr hs
  case copySector => exact .execCopySector hs
  case denialFault => exact .execDenialFault hs
  case cpy => exact .execCpy hs
  case cpyt => exact .execCpyt hs
  case cpyf => exact .execCpyf hs
  case qdual => exact .execQdual hs
  case bload => exact .execBload hs
  case tlwait => exact .execTlwait hs
  case tlrd => exact .execTlrd hs
  case sstream => exact .execSstream hs
  case sstop => exact .execSstop hs
  case spos => exact .execSpos hs
  case streamRefill => exact .execStreamRefill hs
  case streamDrain => exact .execStreamDrain hs
  case matrixAccept => exact .execMatrixAccept hs
  case matrixJobStart => exact .execMatrixJobStart hs
  case matrixJobComplete => exact .execMatrixJobComplete hs
  case drainComplete => exact .execDrainComplete hs
  case drainFail => exact .execDrainFail hs
  case mjob => exact .execMjob hs
  case mma => exact .execMma hs
  case mdrain => exact .execMdrain hs
  case mwait => exact .execMwait hs
  case mcfg => exact .execMcfg hs
  case mcfgr => exact .execMcfgr hs
  case mclr => exact .execMclr hs
  case mabort => exact .execMabort hs
  case add => exact .execAdd hs
  case sub => exact .execSub hs
  case mul => exact .execMul hs
  case mulh => exact .execMulh hs
  case umulh => exact .execUmulh hs
  case div => exact .execDiv hs
  case udiv => exact .execUdiv hs
  case rem => exact .execRem hs
  case urem => exact .execUrem hs
  case min => exact .execMin hs
  case max => exact .execMax hs
  case umin => exact .execUmin hs
  case umax => exact .execUmax hs
  case madd => exact .execMadd hs
  case msub => exact .execMsub hs
  case and => exact .execAnd hs
  case or => exact .execOr hs
  case xor => exact .execXor hs
  case andn => exact .execAndn hs
  case orn => exact .execOrn hs
  case shl => exact .execShl hs
  case shr => exact .execShr hs
  case sra => exact .execSra hs
  case rol => exact .execRol hs
  case ror => exact .execRor hs
  case clz => exact .execClz hs
  case ctz => exact .execCtz hs
  case popc => exact .execPopc hs
  case bswap => exact .execBswap hs
  case sel => exact .execSel hs
  case cmp => exact .execCmp hs
  case addi => exact .execAddi hs
  case andi => exact .execAndi hs
  case ori => exact .execOri hs
  case xori => exact .execXori hs
  case shli => exact .execShli hs
  case shri => exact .execShri hs
  case srai => exact .execSrai hs
  case li => exact .execLi hs
  case lih => exact .execLih hs
  case lea => exact .execLea hs
  case cmpi => exact .execCmpi hs
  case ext => exact .execExt hs
  case ins => exact .execIns hs
  case pand => exact .execPand hs
  case por => exact .execPor hs
  case pxor => exact .execPxor hs
  case pandn => exact .execPandn hs
  case psetb => exact .execPsetb hs
  case psetbAll => exact .execPsetbAll hs
  case pgetb => exact .execPgetb hs
  case pgetbAll => exact .execPgetbAll hs
  case fadd => exact .execFadd hs
  case fsub => exact .execFsub hs
  case fmul => exact .execFmul hs
  case fdiv => exact .execFdiv hs
  case fsqrt => exact .execFsqrt hs
  case fmin => exact .execFmin hs
  case fmax => exact .execFmax hs
  case ffma => exact .execFfma hs
  case ffms => exact .execFfms hs
  case fnma => exact .execFnma hs
  case fabs => exact .execFabs hs
  case fneg => exact .execFneg hs
  case fsgnj => exact .execFsgnj hs
  case fcmp => exact .execFcmp hs
  case fclass => exact .execFclass hs
  case fsel => exact .execFsel hs
  case fcvt => exact .execFcvt hs
  case fcvti => exact .execFcvti hs
  case ficvt => exact .execFicvt hs
  case fmvs => exact .execFmvs hs
  case fmvf => exact .execFmvf hs
  case fliFp32 => exact .execFliFp32 hs
  case fliFp64 => exact .execFliFp64 hs
  case fflg => exact .execFflg hs
  case fenw => exact .execFenw hs
  case vfadd | vfsub | vfmul | vfdiv | vfma | vfms | vfnma | vfmin | vfmax | vfabs | vfneg | vfsqrt | vexp2 | vlog2 | vrcp | vrsq | vadd | vsub |
      vmul | vmulh | vmin | vmax | vand | vor | vxor | vshl | vshr | vsra | vabs | vdiv | vrem | vpopc | vcmp | vfcmp | vsel | vcvt | vcvts |
      vredadd | vredmax | vredmin | vrediadd | vcompress | vexpand | vslideup | vslidedn | vperm | vbcastScalar | vbcastLane | vmovsLane |
      vmovsCnt | vmovsBits | vins | vzord | vgath | vscat => exact .vform hs
  case collMatch => exact .execCollMatch hs
  case collCombine => exact .execCollCombine hs
  case collFinal => exact .execCollFinal hs
  case collRelease => exact .execCollRelease hs
  case collWriteDone => exact .execCollWriteDone hs
  case splitterCompute => exact .execSplitterCompute hs
  case supplySplitters => exact .execSupplySplitters hs
  case repartCounts => exact .execRepartCounts hs
  case repartRecords => exact .execRepartRecords hs
  case coll => exact .execColl hs
  case repart => exact .execRepart hs
  case heartbeat => exact .execHeartbeat hs
  case suspectIntervalExpiry => exact .execSuspectIntervalExpiry hs
  case hostFailureReport => exact .execHostFailureReport hs
  case propose => exact .execPropose hs
  case accept => exact .execAccept hs
  case agreementTimeout => exact .execAgreementTimeout hs
  case joinRequest => exact .execJoinRequest hs
  case abandon => exact .execAbandon hs
  case isolation => exact .execIsolation hs
  case viewCommit => exact .execViewCommit hs
  case installView => exact .execInstallView hs
  case markModuleReady => exact .execMarkModuleReady hs
  case viewrd => exact .execViewrd hs
  case viewack => exact .execViewack hs
  case launch => exact .execLaunch hs
  case launchEnd => exact .execLaunchEnd hs
  case resetADie => exact .execResetADie hs
  case dieDrainTimeout => exact .execDieDrainTimeout hs
  case markDieReady => exact .execMarkDieReady hs
  case thermalThrottle => exact .execThermalThrottle hs
  case thermalShutdown => exact .execThermalShutdown hs
  case commitOrDenyAPage => exact .execCommitOrDenyAPage hs
  case readCollectiveStaging => exact .execReadCollectiveStaging hs
  case modeChange => exact .execModeChange hs
  case doorbell => exact .execDoorbell hs
  case completionRecord => exact .execCompletionRecord hs
  case eventBufferDrain => exact .execEventBufferDrain hs
  case jormalFrame => exact .execJormalFrame hs
  case firmwareImage => exact .execFirmwareImage hs
  case attestationReport => exact .execAttestationReport hs
  case moduleReset => exact .execModuleReset hs
  case parkReasonMet => exact .execParkReasonMet hs
  case smsgRes | smsgTrp => exact .smsgAnswer hs
  case repetition => exact .vrepeat hs
  case fatalFaultReport job m =>
    have ends := Out.Canon.execFatalFaultReport (job := job) (m := m) hs
    exact ends
  case tlwaitAbort h t b => exact .execTlwaitAbort (b := b) hs

theorem Out.Canon.perform {w x} (hs : s.Canon M P) : (s.perform w x).Canon M P := by
  have hm {f : Slot → Slot} : State.Canon M P { s.modSlot w f with cur := w } := .keep (.modSlot hs) rfl
  unfold State.perform
  dsimp only
  split <;> exact .exec hm

theorem Out.Canon.rotation {w} (hs : s.Canon M P) : (s.rotation w).Canon M P := by
  unfold State.rotation
  dsimp only
  refine .ite (.exec hs) (.ite (.exec hs) ?_)
  split
  · exact .exec hs
  · refine .ite (.next (.modSlot hs)) ?_
    split
    · exact .exec (.keep hs rfl)
    · split
      · exact .perform hs
      · exact .next (.modSlot hs)

theorem Out.Canon.waiting {w} (hs : s.Canon M P) : (s.waiting w).Canon M P := by
  unfold State.waiting
  dsimp only
  split
  · exact .exec hs
  · refine .ite (.exec hs) (.ite (.next hs) ?_)
    split
    · exact .ite (.exec hs) (.next hs)
    · exact .exec hs
    · exact .next hs

theorem Out.Canon.issue {w} (hs : s.Canon M P) : (s.issue w).Canon M P :=
  .ite (.rotation hs) (.ite (.ite (.exec hs) (.next hs)) (.waiting hs))

theorem State.Canon.passTurn {t old : State} {w} (hs : t.Canon M P) : (t.passTurn old w).Canon M P := .ite hs (.keep hs rfl)

theorem State.Canon.endSlot {w} (hs : s.Canon M P) : (s.endSlot w).Canon M P := by
  have ht : (Machine.stateOf s (execTimerExpiry w s)).Canon M P := .stateOf hs (.execTimerExpiry hs)
  exact .ite ht (.modSlot ht)

theorem State.Canon.endCore {c} (hs : s.Canon M P) : (s.endCore c).Canon M P := by
  unfold State.endCore
  extract_lets t u v x
  have ht : t.Canon M P := .foldl hs fun _ _ hs => .endSlot hs
  have hu : u.Canon M P := .stateOf ht (.execBlockStart ht)
  have hv : v.Canon M P := .hostResumes hu
  have hx : x.Canon M P := .stateOf hv (.execRoamArrival hv)
  exact .stateOf hx (.execTaskStart hx)

theorem State.Canon.endCycle (hs : s.Canon M P) : s.endCycle.Canon M P := by
  unfold State.endCycle
  extract_lets cs t u v
  have ht : t.Canon M P := .gateOut (.foldl hs fun _ _ hs => .tagPass hs)
  have hu : u.Canon M P := .foldl ht fun _ _ hs => .endCore hs
  have hv : v.Canon M P := .ite (.foldl hu fun _ _ hs => .stateOf hs (.execTaskSteal hs)) ht
  exact .keep (.sendFrame (.sendFlits hv)) rfl

theorem Out.Canon.issueAgain {w} (hs : s.Canon M P) : (s.issueAgain w).Canon M P := .ite (.rotation hs) (.perform hs)

theorem Out.Canon.doTodo {t} (hs : s.Canon M P) : (s.doTodo t).Canon M P := by
  unfold State.doTodo
  split
  · exact .issueAgain hs
  · exact .exec hs
  · exact .exec hs
  · exact .exec hs
  · exact .next (.giveAnswer hs)

theorem Out.Canon.clockStep (hs : s.Canon M P) : s.clockStep.Canon M P := by
  unfold State.clockStep
  split
  · exact .next (.endCycle hs)
  · next x _ =>
    obtain ⟨t, e, ht⟩ := Out.Canon.issue (w := ⟨x.1, Fin.ofNat 16 s.cycle⟩) hs
    dsimp only
    rw [e]
    exact .next (.passTurn ht)

theorem Out.Canon.free (hs : s.Canon M P) : s.free.Canon M P := by
  have hp {n} : (s.pick n).2.Canon M P := .pick hs
  unfold State.free
  dsimp only
  split
  · exact .exec hp
  · exact .clockStep hp

/-- Where the module is powered a step completes. -/
theorem Out.Canon.step_powered (hs : s.Canon M P) (on : s.powered = true) : Out.Canon M P (step s) := by
  have off : ¬ (!s.powered) = true := by simp [on]
  unfold Machine.step State.oneStep
  rw [if_neg off]
  split
  · exact .doTodo (.keep hs rfl)
  · exact .ite (.exec (.keep hs rfl)) (.free hs)
  · exact .free hs

/-- A powered-down module refuses, or is reset, or drops an event from outside. -/
theorem State.Canon.offStep {t : State} (hs : s.Canon M P) (e : offStep s = .next t) : t.Canon M P := by
  unfold Machine.offStep at e
  split at e
  · cases e
  · exact .ofNext e (.execModuleReset (.keep hs rfl))
  · exact .ofNext e (.next (.keep hs rfl))

theorem State.Canon.step {t : State} (hs : s.Canon M P) (e : step s = .next t) : t.Canon M P := by
  by_cases on : s.powered = true
  · exact .ofNext e (.step_powered hs on)
  · exact .offStep hs ((if_pos (by simp [on])).symm.trans e)

/-! ## The claims -/

/-- With nothing claimed of the memories every state meets the claim. -/
theorem State.canon_false (s : State) : s.Canon False False := ⟨nofun, nofun, fun _ _ => nofun, fun _ _ => nofun⟩

theorem State.memOk_iff (s : State) : s.MemOk ↔ s.Canon True False :=
  ⟨fun ⟨hm, hh⟩ => ⟨fun _ => hm, fun _ => hh, fun _ _ => nofun, fun _ _ => nofun⟩, fun h => ⟨h.mem trivial, h.host trivial⟩⟩

theorem State.padsOk_iff (s : State) : s.PadsOk ↔ s.Canon False True :=
  ⟨fun ⟨hc, he⟩ => ⟨nofun, nofun, fun x m _ => hc x m, fun x m _ => he x m⟩,
    fun h => ⟨fun x m => h.cores x m trivial, fun x m => h.engines x m trivial⟩⟩

/-- Settles O57: each instruction and event completes, whatever the state holds. -/
theorem everyInstructionCompletes : Obligations.EveryInstructionCompletes := fun _ s =>
  let ⟨t, e, _⟩ := Out.Canon.exec s.canon_false
  ⟨t, e⟩

/-- Settles O58: a step keeps the claim on the two memories. -/
theorem stepKeepsMemory : Obligations.StepKeepsMemory := fun s t h e => t.memOk_iff.mpr (((s.memOk_iff).mp h).step e)

/-- Settles O60: a step keeps the claim on scratchpads and B-stores. -/
theorem stepKeepsPads : Obligations.StepKeepsPads := fun s t h e => t.padsOk_iff.mpr (((s.padsOk_iff).mp h).step e)

end Sys2Proof.Machine
end

section
/-! SUPPORT. Fields of an encoded word, read back (02 R28 to R32). -/

namespace Sys2Proof

theorem getLsbD_append_of_le {n m i : Nat} {x : BitVec n} {y : BitVec m} (h : m ≤ i) : (x ++ y).getLsbD i = x.getLsbD (i - m) := by
  rw [BitVec.getLsbD_append, if_neg (Nat.not_lt.mpr h)]

theorem getLsbD_append_of_lt {n m i : Nat} {x : BitVec n} {y : BitVec m} (h : i < m) : (x ++ y).getLsbD i = y.getLsbD i := by
  rw [BitVec.getLsbD_append, if_pos h]

/-- A word taken apart is the fields it was put together from. -/
theorem Raw.ofWord_word (r : Raw) : Raw.ofWord r.word = r := by
  obtain ⟨major, minor, neg, pred, bh, ev, roam, rep, rsv, d, a, b, ext⟩ := r
  simp (disch := omega) only [Raw.ofWord, Raw.word, BitVec.extractLsb'_append_eq_of_add_le, BitVec.extractLsb'_append_eq_of_le,
    BitVec.extractLsb'_eq_self, getLsbD_append_of_lt, getLsbD_append_of_le]
  simp

/-! ## Guard and hints -/

section
variable (h : Hdr) (M : BitVec 8) (m : BitVec 4) (d a b : BitVec 8)

@[simp] theorem form_d (ext : BitVec 48) : (h.form M m d a b ext).d = d := rfl
@[simp] theorem form_a (ext : BitVec 48) : (h.form M m d a b ext).a = a := rfl
@[simp] theorem form_b (ext : BitVec 48) : (h.form M m d a b ext).b = b := rfl
@[simp] theorem form_ext (ext : BitVec 48) : (h.form M m d a b ext).ext = ext := rfl

@[simp] theorem form_hdr (ext : BitVec 48) : (h.form M m d a b ext).hdr = h := by
  obtain ⟨neg, pred, bh, ev, roam, rep⟩ := h
  have hbh : Fin.ofNat 3 (BitVec.ofNat 2 bh.val).toNat = bh := by revert bh; decide
  simp only [Hdr.form, Raw.hdr, hbh]

/-! ## The reg format -/

section
variable (mh : Bool) (rnd : BitVec 3) (ty : BitVec 4) (fn c : BitVec 8)

@[simp] theorem form_extReg_mh : (h.form M m d a b (extReg mh rnd ty fn c)).mh = mh := by
  simp (disch := omega) only [Raw.mh, form_ext, extReg, getLsbD_append_of_le, getLsbD_append_of_lt]
  simp

@[simp] theorem form_extReg_rnd : (h.form M m d a b (extReg mh rnd ty fn c)).rnd = rnd := by
  simp (disch := omega) only [Raw.rnd, form_ext, extReg, BitVec.extractLsb'_append_eq_of_add_le, BitVec.extractLsb'_append_eq_of_le]
  simp

@[simp] theorem form_extReg_tyCode : (h.form M m d a b (extReg mh rnd ty fn c)).tyCode = ty := by
  simp (disch := omega) only [Raw.tyCode, form_ext, extReg, BitVec.extractLsb'_append_eq_of_add_le, BitVec.extractLsb'_append_eq_of_le]
  simp

@[simp] theorem form_extReg_fn : (h.form M m d a b (extReg mh rnd ty fn c)).fn = fn := by
  simp (disch := omega) only [Raw.fn, form_ext, extReg, BitVec.extractLsb'_append_eq_of_add_le, BitVec.extractLsb'_append_eq_of_le]
  simp

@[simp] theorem form_extReg_c : (h.form M m d a b (extReg mh rnd ty fn c)).c = c := by
  simp (disch := omega) only [Raw.c, form_ext, extReg, BitVec.extractLsb'_append_eq_of_add_le, BitVec.extractLsb'_append_eq_of_le]
  simp

@[simp] theorem extReg_low : (extReg mh rnd ty fn c).extractLsb' 0 24 = 0 := by
  simp (disch := omega) only [extReg, BitVec.extractLsb'_append_eq_of_add_le, BitVec.extractLsb'_append_eq_of_le]
  simp

end

/-! ## The eng and sys formats -/

section
variable (sync : Bool) (md : BitVec 14) (code : BitVec 15) (imm : BitVec 32)

@[simp] theorem form_extEng_mh : (h.form M m d a b (extEng sync md)).mh = false := by
  simp (disch := omega) only [Raw.mh, form_ext, extEng, getLsbD_append_of_le, getLsbD_append_of_lt]
  simp

@[simp] theorem form_extEng_sync : (h.form M m d a b (extEng sync md)).sync = sync := by
  simp (disch := omega) only [Raw.sync, form_ext, extEng, getLsbD_append_of_le, getLsbD_append_of_lt]
  simp

@[simp] theorem form_extEng_md : (h.form M m d a b (extEng sync md)).md = md := by
  simp (disch := omega) only [Raw.md, form_ext, extEng, BitVec.extractLsb'_append_eq_of_add_le, BitVec.extractLsb'_append_eq_of_le]
  simp

@[simp] theorem form_extEng_imm32 : (h.form M m d a b (extEng sync md)).imm32 = 0 := by
  simp (disch := omega) only [Raw.imm32, form_ext, extEng, BitVec.extractLsb'_append_eq_of_add_le, BitVec.extractLsb'_append_eq_of_le]
  simp

@[simp] theorem form_extSys_mh : (h.form M m d a b (extSys code imm)).mh = false := by
  simp (disch := omega) only [Raw.mh, form_ext, extSys, getLsbD_append_of_le, getLsbD_append_of_lt]
  simp

@[simp] theorem form_extSys_code : (h.form M m d a b (extSys code imm)).code = code := by
  simp (disch := omega) only [Raw.code, form_ext, extSys, BitVec.extractLsb'_append_eq_of_add_le, BitVec.extractLsb'_append_eq_of_le]
  simp

@[simp] theorem form_extSys_imm32 : (h.form M m d a b (extSys code imm)).imm32 = imm := by
  simp (disch := omega) only [Raw.imm32, form_ext, extSys, BitVec.extractLsb'_append_eq_of_add_le, BitVec.extractLsb'_append_eq_of_le]
  simp

end

/-! ## Codes of the tables -/

@[simp] theorem Scope.ofCode_code (sc : Scope) : Scope.ofCode (sc.code % 8) = sc := by cases sc <;> rfl
@[simp] theorem Width.ofCode_code (w : Width) : Width.ofCode (w.code % 8) = w := by cases w <;> rfl
@[simp] theorem AmoOp.ofCode_code (op : AmoOp) : AmoOp.ofCode (op.code % 16) = op := by cases op <;> rfl
@[simp] theorem ETy.ofCode_code (t : ETy) : ETy.ofCode (t.code % 16) = t := by cases t <;> rfl
theorem Scope.code_le (sc : Scope) : sc.code ≤ 5 := by cases sc <;> decide
theorem Width.code_le (w : Width) : w.code ≤ 5 := by cases w <;> decide
theorem AmoOp.code_le (op : AmoOp) : op.code ≤ 9 := by cases op <;> decide
theorem ETy.code_le (t : ETy) : t.code ≤ 7 := by cases t <;> decide

/-! ## The mem format -/

@[simp] theorem memExt_extractLsb_45_3 (x : MemArgs) : x.ext.extractLsb' 45 3 = BitVec.ofNat 3 x.scope.code := by
  simp (disch := omega) only [MemArgs.ext, BitVec.extractLsb'_append_eq_of_add_le, BitVec.extractLsb'_append_eq_of_le]
  simp

@[simp] theorem memExt_extractLsb_42_3 (x : MemArgs) : x.ext.extractLsb' 42 3 = BitVec.ofNat 3 x.width.code := by
  simp (disch := omega) only [MemArgs.ext, BitVec.extractLsb'_append_eq_of_add_le, BitVec.extractLsb'_append_eq_of_le]
  simp

@[simp] theorem memExt_getLsbD_41 (x : MemArgs) : x.ext.getLsbD 41 = x.sg := by
  simp (disch := omega) only [MemArgs.ext, getLsbD_append_of_le, getLsbD_append_of_lt]
  simp

@[simp] theorem memExt_extractLsb_0_41 (x : MemArgs) : x.ext.extractLsb' 0 41 = x.off := by
  simp (disch := omega) only [MemArgs.ext, BitVec.extractLsb'_append_eq_of_add_le, BitVec.extractLsb'_append_eq_of_le]
  simp

@[simp] theorem amoExt_extractLsb_45_3 (x : AmoArgs) (op : Nat) : (x.ext op).extractLsb' 45 3 = BitVec.ofNat 3 x.scope.code := by
  simp (disch := omega) only [AmoArgs.ext, BitVec.extractLsb'_append_eq_of_add_le, BitVec.extractLsb'_append_eq_of_le]
  simp

@[simp] theorem amoExt_extractLsb_42_3 (x : AmoArgs) (op : Nat) : (x.ext op).extractLsb' 42 3 = BitVec.ofNat 3 x.width.code := by
  simp (disch := omega) only [AmoArgs.ext, BitVec.extractLsb'_append_eq_of_add_le, BitVec.extractLsb'_append_eq_of_le]
  simp

@[simp] theorem amoExt_getLsbD_41 (x : AmoArgs) (op : Nat) : (x.ext op).getLsbD 41 = false := by
  simp (disch := omega) only [AmoArgs.ext, getLsbD_append_of_le, getLsbD_append_of_lt]
  simp

@[simp] theorem amoExt_extractLsb_37_4 (x : AmoArgs) (op : Nat) : (x.ext op).extractLsb' 37 4 = BitVec.ofNat 4 op := by
  simp (disch := omega) only [AmoArgs.ext, BitVec.extractLsb'_append_eq_of_add_le, BitVec.extractLsb'_append_eq_of_le]
  simp

@[simp] theorem amoExt_extractLsb_0_37 (x : AmoArgs) (op : Nat) : (x.ext op).extractLsb' 0 37 = x.off := by
  simp (disch := omega) only [AmoArgs.ext, BitVec.extractLsb'_append_eq_of_add_le, BitVec.extractLsb'_append_eq_of_le]
  simp


@[simp] theorem form_mem (x : MemArgs) : (h.form M m d a b x.ext).mem = x := by
  simp [Raw.mem, Raw.scope, Raw.width, Raw.off, -BitVec.getLsbD_eq_getElem]

@[simp] theorem form_amo (x : AmoArgs) (op : Nat) : (h.form M m d a b (x.ext op)).amo = x := by
  simp [Raw.amo, Raw.scope, Raw.width]

@[simp] theorem form_amoOp (x : AmoArgs) (op : Nat) : (h.form M m d a b (x.ext op)).amoOp = BitVec.ofNat 4 op := by
  simp [Raw.amoOp]

theorem code_mod_le {n k : Nat} (j : Nat) (h : n ≤ k) : n % j ≤ k := Nat.le_trans (Nat.mod_le n j) h

@[simp] theorem memX_memExt (x : MemArgs) : memX (h.form M m d a b x.ext) = [] := by
  simp [memX, flag, code_mod_le 8 x.scope.code_le, code_mod_le 8 x.width.code_le]

@[simp] theorem amoX_amoExt (x : AmoArgs) (op : AmoOp) : amoX (h.form M m d a b (x.ext op.code)) = [] := by
  simp [amoX, memX, flag, code_mod_le 8 x.scope.code_le, code_mod_le 8 x.width.code_le, code_mod_le 16 op.code_le, -BitVec.getLsbD_eq_getElem]

@[simp] theorem casX_amoExt (x : AmoArgs) : casX (h.form M m d a b (x.ext 0)) = [] := by
  simp [casX, memX, flag, code_mod_le 8 x.scope.code_le, code_mod_le 8 x.width.code_le, -BitVec.getLsbD_eq_getElem]

/-! ## Tiles -/

@[simp] theorem extTile_addr (addr : BitVec 18) (n : BitVec 4) (cnt : BitVec 8) (imm : BitVec 18) : (extTile addr n cnt imm).extractLsb' 30 18 = addr := by
  simp (disch := omega) only [extTile, BitVec.extractLsb'_append_eq_of_add_le, BitVec.extractLsb'_append_eq_of_le]
  simp

@[simp] theorem extTile_size (addr : BitVec 18) (n : BitVec 4) (cnt : BitVec 8) (imm : BitVec 18) : (extTile addr n cnt imm).extractLsb' 26 4 = n := by
  simp (disch := omega) only [extTile, BitVec.extractLsb'_append_eq_of_add_le, BitVec.extractLsb'_append_eq_of_le]
  simp

@[simp] theorem extTile_cnt (addr : BitVec 18) (n : BitVec 4) (cnt : BitVec 8) (imm : BitVec 18) : (extTile addr n cnt imm).extractLsb' 18 8 = cnt := by
  simp (disch := omega) only [extTile, BitVec.extractLsb'_append_eq_of_add_le, BitVec.extractLsb'_append_eq_of_le]
  simp

@[simp] theorem extTile_imm (addr : BitVec 18) (n : BitVec 4) (cnt : BitVec 8) (imm : BitVec 18) : (extTile addr n cnt imm).extractLsb' 0 18 = imm := by
  simp (disch := omega) only [extTile, BitVec.extractLsb'_append_eq_of_add_le, BitVec.extractLsb'_append_eq_of_le]
  simp

/-! ## Operands -/

@[simp] theorem regS_opS (r : SReg) : regS (opS r) = r := by revert r; decide
@[simp] theorem regS_opF (r : FReg) : regS (opF r) = r := by revert r; decide
@[simp] theorem regV_opV (r : VReg) : regV (opV r) = r := by revert r; decide
@[simp] theorem regK_opK (r : KReg) : regK (opK r) = r := by revert r; decide
@[simp] theorem regY_opY (r : YReg) : regY (opY r) = r := by revert r; decide
@[simp] theorem tlOf_opTl (t : Tl) : tlOf (opTl t) = t := by cases t <;> rfl
@[simp] theorem ctlOf_opCtl (c : Fin 18) : ctlOf (opCtl c) = c := by revert c; decide
@[simp] theorem mbOf_opMb (n : MbIdx) : mbOf (mbHigh n) (opMb n) = n := by revert n; decide
@[simp] theorem cls_opS (r : SReg) : cls (opS r) = 0 := by revert r; decide
@[simp] theorem cls_opF (r : FReg) : cls (opF r) = 1 := by revert r; decide
@[simp] theorem cls_opV (r : VReg) : cls (opV r) = 2 := by revert r; decide
@[simp] theorem cls_opK (r : KReg) : cls (opK r) = 3 := by revert r; decide
@[simp] theorem cls_opMb (n : MbIdx) : cls (opMb n) = 5 := by revert n; decide
@[simp] theorem cls_opImm (n : Fin 32) : cls (opImm n) = 7 := by revert n; decide
@[simp] theorem opS_ne_noOp (r : SReg) : opS r ≠ noOp := by revert r; decide
@[simp] theorem opK_ne_noOp (r : KReg) : opK r ≠ noOp := by revert r; decide
@[simp] theorem opMb_ne_noOp (n : MbIdx) : opMb n ≠ noOp := by revert n; decide
@[simp] theorem opV_ne_noOp (r : VReg) : opV r ≠ noOp := by revert r; decide
@[simp] theorem optS_opOptS (o : Option SReg) : optS (opOptS o) = o := by cases o <;> simp [optS, opOptS]
@[simp] theorem siOf_opSI (x : SI) : siOf (opSI x) = x := by
  cases x with
  | s r => simp [siOf, opSI]
  | imm n => simpa [siOf, opSI] using by revert n; decide
@[simp] theorem skOf_opSK (x : SK) : skOf (opSK x) = x := by cases x <;> simp [skOf, opSK]
@[simp] theorem sfOf_opSF (x : SF) : sfOf (opSF x) = x := by cases x <;> simp [sfOf, opSF]
@[simp] theorem sfvOf_opSFV (x : SFV) : sfvOf (opSFV x) = x := by cases x <;> simp [sfvOf, opSFV]
@[simp] theorem vfOf_opVF (x : VF) : vfOf (opVF x) = x := by cases x <;> simp [vfOf, opVF]
@[simp] theorem vsOf_opVS (x : VS) : vsOf (opVS x) = x := by cases x <;> simp [vsOf, opVS]

/-- A position that lists these classes takes an operand's class bits for the class `c`. -/
def Accepts (cs : List Cls) (c : Cls) : Bool :=
  decide (cs.find? (fun c' => decide (c' ≠ .none) && decide (c'.bits = c.bits)) = some c) && decide (cs ≠ [.none])

/-- An operand of a class its position accepts, its number legal, passes the position's check. -/
theorem operand_of_accepts {cs : List Cls} {c : Cls} {x : BitVec 8} (h : Accepts cs c) (hx : cls x = c.bits)
    (hn : c.has (num x).toNat) : operand cs x = [] := by
  obtain ⟨hf, hcs⟩ : _ = some c ∧ cs ≠ [.none] := by simpa only [Accepts, Bool.and_eq_true, decide_eq_true_eq] using h
  unfold operand
  split
  · rfl
  · simp only [hx, hf, flag, hn, Bool.not_true, Bool.false_eq_true, if_false]

@[simp] theorem operand_noOp {cs : List Cls} (h : .none ∈ cs) : operand cs noOp = [] := by simp [operand, h]

section
variable {cs : List Cls}

@[simp] theorem operand_opS (h : Accepts cs .s) (r : SReg) : operand cs (opS r) = [] := operand_of_accepts h (cls_opS r) rfl
@[simp] theorem operand_opF (h : Accepts cs .f) (r : FReg) : operand cs (opF r) = [] := operand_of_accepts h (cls_opF r) rfl
@[simp] theorem operand_opV (h : Accepts cs .v) (r : VReg) : operand cs (opV r) = [] := operand_of_accepts h (cls_opV r) (by revert r; decide)
@[simp] theorem operand_opK (h : Accepts cs .k) (r : KReg) : operand cs (opK r) = [] := operand_of_accepts h (cls_opK r) (by revert r; decide)
@[simp] theorem operand_opY (h : Accepts cs .y) (r : YReg) : operand cs (opY r) = [] :=
  operand_of_accepts h (by revert r; decide) (by revert r; decide)
@[simp] theorem operand_opTl (h : Accepts cs .tl) (t : Tl) : operand cs (opTl t) = [] :=
  operand_of_accepts h (by cases t <;> decide) (by cases t <;> decide)
@[simp] theorem operand_opCtl (h : Accepts cs .ctl) (c : Fin 18) : operand cs (opCtl c) = [] :=
  operand_of_accepts h (by revert c; decide) (by revert c; decide)
@[simp] theorem operand_opMb (h : Accepts cs .mb) (n : MbIdx) : operand cs (opMb n) = [] := operand_of_accepts h (cls_opMb n) rfl
@[simp] theorem operand_opImm (h : Accepts cs .imm) (n : Fin 32) : operand cs (opImm n) = [] := operand_of_accepts h (cls_opImm n) rfl

@[simp] theorem operand_opOptS (h : Accepts cs .s) (h' : .none ∈ cs) (o : Option SReg) : operand cs (opOptS o) = [] := by
  cases o with
  | none => exact operand_noOp h'
  | some r => exact operand_opS h r

@[simp] theorem operand_opOptV (h : Accepts cs .v) (h' : .none ∈ cs) (o : Option VReg) : operand cs (opOptV o) = [] := by
  cases o with
  | none => exact operand_noOp h'
  | some r => exact operand_opV h r

@[simp] theorem operand_opSI (h : Accepts cs .s) (h' : Accepts cs .imm) (x : SI) : operand cs (opSI x) = [] := by
  cases x with
  | s r => exact operand_opS h r
  | imm n => exact operand_opImm h' n

@[simp] theorem operand_opSK (h : Accepts cs .s) (h' : Accepts cs .k) (x : SK) : operand cs (opSK x) = [] := by
  cases x with
  | s r => exact operand_opS h r
  | k r => exact operand_opK h' r

@[simp] theorem operand_opSF (h : Accepts cs .s) (h' : Accepts cs .f) (x : SF) : operand cs (opSF x) = [] := by
  cases x with
  | s r => exact operand_opS h r
  | f r => exact operand_opF h' r

@[simp] theorem operand_opSFV (h : Accepts cs .s) (h' : Accepts cs .f) (h'' : Accepts cs .v) (x : SFV) : operand cs (opSFV x) = [] := by
  cases x with
  | s r => exact operand_opS h r
  | f r => exact operand_opF h' r
  | v r => exact operand_opV h'' r

@[simp] theorem operand_opVF (h : Accepts cs .v) (h' : Accepts cs .f) (x : VF) : operand cs (opVF x) = [] := by
  cases x with
  | v r => exact operand_opV h r
  | f r => exact operand_opF h' r

@[simp] theorem operand_opVS (h : Accepts cs .v) (h' : Accepts cs .s) (x : VS) : operand cs (opVS x) = [] := by
  cases x with
  | v r => exact operand_opV h r
  | s r => exact operand_opS h' r
end

/-! ## Rounding and the vector modifiers -/

theorem Rnd.ofCode_bits (rm : Rnd) : Rnd.ofCode rm.bits.toNat (rm == .dyn) = rm := by cases rm <;> rfl
@[simp] theorem Rnd.dynBit_getLsbD (rm : Rnd) : rm.dynBit.getLsbD 7 = (rm == .dyn) := by cases rm <;> rfl

/-! ## Rows -/

theorem guard_form {h : Hdr} {br ev roam rep : Bool} (hk : h.ok br ev roam rep) :
    flag (h.neg && decide ((BitVec.ofFin h.pred : BitVec 3) = 0)) .notK0 = [] := by
  have hg : (h.neg && h.pred == 0) = false := by
    simp only [Hdr.ok, Bool.and_eq_true, Bool.not_eq_true'] at hk
    exact hk.1.1.1.1
  have hp : ∀ (neg : Bool) (pred : Fin 8), (neg && pred == 0) = false → (neg && decide ((BitVec.ofFin pred : BitVec 3) = 0)) = false := by
    decide
  rw [hp _ _ hg]
  rfl

theorem hint_form {h : Hdr} {hints : Hints} (hk : h.ok hints.br hints.ev hints.roam hints.rep) (M : BitVec 8) (m : BitVec 4)
    (d a b : BitVec 8) (ext : BitVec 48) : hintX hints (h.form M m d a b ext) = [] := by
  have hthree : ∀ bh : Fin 3, BitVec.ofNat 2 bh.val ≠ 3 := by decide
  have hzero : ∀ ev : Fin 4, ev = 0 → (BitVec.ofFin ev : BitVec 2) = 0 := by decide
  simp only [Hdr.ok, Bool.and_eq_true, Bool.or_eq_true, Bool.not_eq_true', beq_iff_eq] at hk
  obtain ⟨⟨⟨⟨-, hbr⟩, hev⟩, hroam⟩, hrep⟩ := hk
  have hf : (decide (BitVec.ofNat 2 h.bh.val = 3) || (!hints.br && decide (BitVec.ofNat 2 h.bh.val ≠ 0)) ||
      (!hints.ev && decide ((BitVec.ofFin h.ev : BitVec 2) ≠ 0)) || (!hints.roam && h.roam) || (!hints.rep && h.rep)) = false := by
    simp only [Bool.or_eq_false_iff, decide_eq_false_iff_not, Bool.and_eq_false_imp, Bool.not_eq_true', ne_eq, Classical.not_not]
    refine ⟨⟨⟨⟨hthree _, fun e => ?_⟩, fun e => ?_⟩, fun e => ?_⟩, fun e => ?_⟩
    · rw [hbr.resolve_left (by simp [e])]; rfl
    · exact hzero _ (hev.resolve_left (by simp [e]))
    · exact hroam.resolve_left (by simp [e])
    · exact hrep.resolve_left (by simp [e])
  exact congrArg (flag · .hint) hf

/-- A row reads an instruction back from its word where the checks of its operands and its extension pass. -/
theorem decode_form {h : Hdr} {M : BitVec 8} {m : BitVec 4} {d a b : BitVec 8} {ext : BitVec 48} {cd ca cb : List Cls}
    {cc : Option (List Cls)} {hints : Hints} {more : Raw → List Illegal} {build : Raw → Instr} {i : Instr}
    (hrow : (rowsOf M.toNat)[m.toNat]? = some ⟨cd, ca, cb, cc, hints, more, build⟩) (hwf : i.wf)
    (hh : i.wf → h.ok hints.br hints.ev hints.roam hints.rep) (hd : operand cd d = []) (ha : operand ca a = []) (hb : operand cb b = [])
    (hc : ∀ cs ∈ cc, operand cs (h.form M m d a b ext).c = []) (hm : more (h.form M m d a b ext) = [])
    (hi : build (h.form M m d a b ext) = i) : decode (h.form M m d a b ext).word = .ok i := by
  have hf : Row.fails ⟨cd, ca, cb, cc, hints, more, build⟩ (h.form M m d a b ext) = [] := by
    have hg : flag ((h.form M m d a b ext).neg && decide ((h.form M m d a b ext).pred = 0)) .notK0 = [] := guard_form (hh hwf)
    have hx := hint_form (hh hwf) M m d a b ext
    cases cc with
    | none => simp only [Row.fails, hg, hx, form_d, form_a, form_b, hd, ha, hb, hm]; rfl
    | some cs => simp only [Row.fails, hg, hx, form_d, form_a, form_b, hd, ha, hb, hc cs rfl, hm]; rfl
  have hrow' : (rowsOf (h.form M m d a b ext).major.toNat)[(h.form M m d a b ext).minor.toNat]? = _ := hrow
  simp [decode, Raw.ofWord_word, decodeRaw, hrow', hf, firstFail, hi, hwf]
end
end Sys2Proof
end

section
/-! SUPPORT. The checks of each layout pass on what the encoder writes, and its fields are read back (02 R32, R34). -/

namespace Sys2Proof

/-- The decoder reads the instruction back from the word it is encoded in. -/
def ReadBack (i : Instr) : Prop := i.wf → ∀ w, encode i = some w → decode w = .ok i

theorem readBack_of_raw_eq_none {i : Instr} (h : i.raw = none) : ReadBack i := by
  intro _ w hw
  rw [encode, h] at hw
  exact absurd hw.symm (Option.some_ne_none w)

theorem readBack_of_form {i : Instr} {h : Hdr} {M : BitVec 8} {m : BitVec 4} {d a b : BitVec 8} {ext : BitVec 48} {cd ca cb : List Cls}
    {cc : Option (List Cls)} {hints : Hints} {more : Raw → List Illegal} {build : Raw → Instr}
    (hraw : i.raw = some (h.form M m d a b ext))
    (hrow : (rowsOf M.toNat)[m.toNat]? = some ⟨cd, ca, cb, cc, hints, more, build⟩)
    (hh : i.wf → h.ok hints.br hints.ev hints.roam hints.rep) (hd : operand cd d = []) (ha : operand ca a = []) (hb : operand cb b = [])
    (hc : ∀ cs ∈ cc, operand cs (h.form M m d a b ext).c = []) (hm : i.wf → more (h.form M m d a b ext) = [])
    (hi : i.wf → build (h.form M m d a b ext) = i) : ReadBack i := by
  intro hwf w hw
  rw [encode, hraw] at hw
  cases hw
  exact decode_form hrow hwf hh hd ha hb hc (hm hwf) (hi hwf)

/-- The header's part of a well-formed instruction that has further rules. -/
theorem ok_of_and {p q : Bool} (h : p && q) : p := (Bool.and_eq_true_iff.mp h).1

section
variable {h : Hdr} {M : BitVec 8} {m : BitVec 4} {d a b : BitVec 8}

/-! ## The reg format -/

section
variable {mh : Bool} {rnd : BitVec 3} {ty : BitVec 4} {fn : BitVec 8}

theorem c_noOp : ∀ cs ∈ some [Cls.none], operand cs (h.form M m d a b (extReg mh rnd ty fn noOp)).c = [] := by simp

theorem c_none {ext : BitVec 48} : ∀ cs ∈ (none : Option (List Cls)), operand cs (h.form M m d a b ext).c = [] :=
  fun _ hx => absurd hx.symm (Option.some_ne_none _)

@[simp] theorem form_ty (t : ETy) (c : BitVec 8) : (h.form M m d a b (extReg mh rnd (BitVec.ofNat 4 t.code) fn c)).ty = t := by
  simp [Raw.ty]

theorem form_rm {rm : Rnd} (c : BitVec 8) (h7 : fn.getLsbD 7 = (rm == .dyn)) :
    (h.form M m d a b (extReg mh rm.bits ty fn c)).rm = rm := by
  rw [Raw.rm, form_extReg_rnd, form_extReg_fn, h7, Rnd.ofCode_bits]

@[simp] theorem form_rm_dynBit (rm : Rnd) (c : BitVec 8) : (h.form M m d a b (extReg mh rm.bits ty rm.dynBit c)).rm = rm :=
  form_rm c rm.dynBit_getLsbD

theorem regX_plain {fm : BitVec 8} (c : BitVec 8) (hfn : fn &&& ~~~fm = 0) :
    regX false false fm (h.form M m d a b (extReg false 0 0 fn c)) = [] := by
  simp [regX, regBase, flag, hfn]

theorem regX_typed {fm : BitVec 8} (t : ETy) (c : BitVec 8) (hfn : fn &&& ~~~fm = 0) :
    regX false true fm (h.form M m d a b (extReg false 0 (BitVec.ofNat 4 t.code) fn c)) = [] := by
  simp [regX, regBase, flag, hfn, code_mod_le 16 t.code_le]

theorem regX_rounding {fm : BitVec 8} (t : ETy) (rm : Rnd) (c : BitVec 8) (h7 : fn.getLsbD 7 = (rm == .dyn)) (hfn : fn &&& ~~~fm = 0) :
    regX true true fm (h.form M m d a b (extReg false rm.bits (BitVec.ofNat 4 t.code) fn c)) = [] := by
  have hr : (rm == .dyn && decide (rm.bits ≠ 0)) = false := by cases rm <;> rfl
  have hle : decide (3 < rm.bits.toNat) = false := by cases rm <;> rfl
  simp only [regX, regBase, form_ext, extReg_low, form_extReg_rnd, form_extReg_fn, form_extReg_tyCode, form_extReg_mh, h7, hfn, hle, Bool.and_true, hr]
  simp [flag, code_mod_le 16 t.code_le]

theorem dynBit_and_not (rm : Rnd) : rm.dynBit &&& ~~~0x80#8 = 0 := by cases rm <;> rfl

theorem regU_plain {fm : BitVec 8} (c : BitVec 8) (hfn : fn &&& ~~~fm = 0) :
    regU fm (h.form M m d a b (extReg mh 0 0 fn c)) = [] := by
  simp [regU, flag, hfn]

theorem regN_plain {fm : BitVec 8} (c : BitVec 8) (hfn : fn &&& ~~~fm = 0) :
    regN fm (h.form M m d a b (extReg false 0 0 fn c)) = [] := by
  rw [regN, regU_plain c hfn, form_extReg_mh]
  rfl

theorem regT_plain {fm : BitVec 8} (hfn : fn &&& ~~~fm = 0) : regT fm (h.form M m d a b (extReg false 0 0 fn noOp)) = [] := by
  have htop : (extReg false 0 0 fn noOp).extractLsb' 40 8 = 0 := by
    simp (disch := omega) only [extReg, BitVec.extractLsb'_append_eq_of_le]
    decide
  rw [regT, form_extReg_fn, hfn, form_ext, extReg_low, htop]
  rfl
end

/-! ## The vector modifiers -/

section
variable (x : VMod) (low : BitVec 4) (c : BitVec 8)

/-- The bits that name a vector instruction's mask. -/
def VMod.maskBits (x : VMod) : BitVec 2 :=
  match x.mask with
  | none => 0#2
  | some n => BitVec.ofFin n

theorem VMod.fn_eq : x.fn low = BitVec.ofBool (x.rm == .dyn) ++ BitVec.ofBool x.mask.isSome ++ x.maskBits ++ low := rfl

theorem VMod.fn_getLsbD_dyn : (x.fn low).getLsbD 7 = (x.rm == .dyn) := by
  simp (disch := omega) only [VMod.fn_eq, getLsbD_append_of_le]
  simp

theorem VMod.fn_getLsbD_mask : (x.fn low).getLsbD 6 = x.mask.isSome := by
  simp (disch := omega) only [VMod.fn_eq, getLsbD_append_of_le, getLsbD_append_of_lt]
  simp

theorem VMod.fn_low : (x.fn low).extractLsb' 0 4 = low := by
  simp (disch := omega) only [VMod.fn_eq, BitVec.extractLsb'_append_eq_of_add_le, BitVec.extractLsb'_append_eq_of_le]
  simp

theorem VMod.fn_mask : (x.fn low).extractLsb' 4 2 = x.maskBits := by
  simp (disch := omega) only [VMod.fn_eq, BitVec.extractLsb'_append_eq_of_add_le, BitVec.extractLsb'_append_eq_of_le]
  simp

theorem VMod.fn_and_not {lm : BitVec 4} (hlow : low &&& ~~~lm = 0) : x.fn low &&& ~~~(0xF#4 ++ lm) = 0 := by
  have hm : ~~~(0xF#4 ++ lm) = 0#1 ++ 0#1 ++ 0#2 ++ ~~~lm := by rw [BitVec.not_append]; rfl
  rw [VMod.fn_eq, hm, BitVec.and_append, hlow, BitVec.and_append, BitVec.and_append, BitVec.and_zero, BitVec.and_zero, BitVec.and_zero]
  rfl

theorem VMod.fn_and_not_of_rne {lm : BitVec 4} (hlow : low &&& ~~~lm = 0) (hrm : x.rm = .rne) : x.fn low &&& ~~~(0x7#4 ++ lm) = 0 := by
  have hm : ~~~(0x7#4 ++ lm) = 1#1 ++ 0#1 ++ 0#2 ++ ~~~lm := by rw [BitVec.not_append]; rfl
  rw [VMod.fn_eq, hm, BitVec.and_append, hlow, BitVec.and_append, BitVec.and_append, BitVec.and_zero, BitVec.and_zero, hrm]
  rfl

@[simp] theorem form_vmod_fn : (h.form M m d a b (x.ext low c)).fn = x.fn low := form_extReg_fn ..
@[simp] theorem form_vmod_c : (h.form M m d a b (x.ext low c)).c = c := form_extReg_c ..
@[simp] theorem form_vmod_low : (h.form M m d a b (x.ext low c)).low = low := by rw [Raw.low, form_vmod_fn, VMod.fn_low]
@[simp] theorem form_vmod_c_noOp : ∀ cs ∈ some [Cls.none], operand cs (h.form M m d a b (x.ext low noOp)).c = [] := by simp
@[simp] theorem form_vmod_bit : (h.form M m d a b (x.ext low c)).fn.getLsbD 0 = low.getLsbD 0 := by
  simp (disch := omega) only [form_vmod_fn, VMod.fn_eq, getLsbD_append_of_lt]

@[simp] theorem form_vmod : (h.form M m d a b (x.ext low c)).vmod = x := by
  have hty : (h.form M m d a b (x.ext low c)).ty = x.t := form_ty ..
  have hrm : (h.form M m d a b (x.ext low c)).rm = x.rm := form_rm c (x.fn_getLsbD_dyn low)
  rw [Raw.vmod, hty, hrm, form_vmod_fn, x.fn_getLsbD_mask, x.fn_mask]
  obtain ⟨t, rm, mask⟩ := x
  cases mask <;> rfl

@[simp] theorem maskX_vmod : maskX (h.form M m d a b (x.ext low c)) = [] := by
  rw [maskX, form_vmod_fn, x.fn_getLsbD_mask, x.fn_mask]
  obtain ⟨t, rm, mask⟩ := x
  cases mask <;> rfl

theorem regX_vmod {lm : BitVec 4} (hlow : low &&& ~~~lm = 0) : regX true true (0xF#4 ++ lm) (h.form M m d a b (x.ext low c)) = [] :=
  regX_rounding _ _ _ (x.fn_getLsbD_dyn low) (x.fn_and_not low hlow)

theorem regX_vmod_of_rne {lm : BitVec 4} (hlow : low &&& ~~~lm = 0) (hrm : x.rm = .rne) :
    regX false true (0x7#4 ++ lm) (h.form M m d a b (x.ext low c)) = [] := by
  have hb : x.rm.bits = 0 := by rw [hrm]; rfl
  rw [VMod.ext, hb]
  exact regX_typed _ _ (x.fn_and_not_of_rne low hlow hrm)
end

/-! ## The eng and sys formats -/

theorem engX_extEng {mask : BitVec 14} (sync : Bool) {md : BitVec 14} (hmd : md &&& ~~~mask = 0) :
    engX mask (h.form M m d a b (extEng sync md)) = [] := by
  rw [engX, form_extEng_mh, form_extEng_imm32, form_extEng_md, hmd]
  rfl

theorem sysX_extSys {code cm : BitVec 15} {imm im : BitVec 32} (hc : code &&& ~~~cm = 0) (hi : imm &&& ~~~im = 0) :
    sysX cm im (h.form M m d a b (extSys code imm)) = [] := by
  rw [sysX, form_extSys_mh, form_extSys_imm32, form_extSys_code, hc, hi]
  rfl

theorem sysX_zero {cm : BitVec 15} {im : BitVec 32} : sysX cm im (h.form M m d a b 0) = [] :=
  sysX_extSys (code := 0) (imm := 0) BitVec.zero_and BitVec.zero_and

/-! ## Tiles -/

@[simp] theorem form_tCnt (addr : BitVec 18) (n : BitVec 4) (cnt : BitVec 8) (imm : BitVec 18) :
    (h.form M m d a b (extTile addr n cnt imm)).tCnt = cnt := extTile_cnt ..

@[simp] theorem form_tImm (addr : BitVec 18) (n : BitVec 4) (cnt : BitVec 8) (imm : BitVec 18) :
    (h.form M m d a b (extTile addr n cnt imm)).tImm = imm := extTile_imm ..

@[simp] theorem form_tile (t : TileArgs) : (h.form M m d a (opOptS t.b) t.ext).tile = t := by
  rw [Raw.tile, TileArgs.ext, form_tCnt, form_tImm, form_ext, extTile_addr, extTile_size, form_b, optS_opOptS]

/-- A version register leaves the version immediate zero, so a tile form's version passes. -/
theorem version_flag {o : Option SReg} {imm : BitVec 18} (hv : o.isNone || imm == 0) :
    (decide (opOptS o ≠ noOp) && decide (imm ≠ 0)) = false := by
  cases o with
  | none => rfl
  | some r =>
    have : imm = 0 := by simpa using hv
    simp [this]

theorem tileX_extTile {ad sz ct : Bool} {o : Option SReg} {addr imm : BitVec 18} {n : BitVec 4} {cnt : BitVec 8}
    (hv : o.isNone || imm == 0) (ha : ad = false → addr = 0) (hn : sz = false → n = 0) (hc : ct = false → cnt = 0) :
    tileX ad sz ct true (h.form M m d a (opOptS o) (extTile addr n cnt imm)) = [] := by
  have hv' := version_flag hv
  rw [tileX, form_tCnt, form_tImm, form_ext, extTile_addr, extTile_size, form_b]
  cases ad <;> cases sz <;> cases ct <;> simp_all [flag]

end
end Sys2Proof
end

section
/-! SUPPORT. Instructions with fields of their own in the extension, read back (02 R32). -/

namespace Sys2Proof

/-! ## Immediates -/

section
variable {n k : Nat} (x : BitVec n) (y : BitVec k)

theorem extractLsb'_append_high : (x ++ y).extractLsb' k n = x := BitVec.extractLsb'_append_eq_left
theorem extractLsb'_append_low : (x ++ y).extractLsb' 0 k = y := BitVec.extractLsb'_append_eq_right
end

/-- A form whose immediate is a shift count. -/
theorem readBack_shift {F : Hdr → SReg → SReg → BitVec 6 → Instr} {h : Hdr} {d a : SReg} {n : BitVec 6} {M : BitVec 8} {m : BitVec 4}
    (hraw : (F h d a n).raw = some (h.form M m (opS d) (opS a) noOp (0#42 ++ n)))
    (hrow : (rowsOf M.toNat)[m.toNat]? = some ⟨[.s], [.s], [.none], none, hNone,
      fun r => flag (decide (r.ext.extractLsb' 6 42 ≠ 0)) .subfield, fun r => F r.hdr (regS r.d) (regS r.a) (r.ext.extractLsb' 0 6)⟩)
    (hh : (F h d a n).wf → h.ok false false false false) : ReadBack (F h d a n) :=
  readBack_of_form hraw hrow hh (operand_opS rfl d) (operand_opS rfl a) (operand_noOp (by decide)) c_none
    (fun _ => by rw [form_ext, extractLsb'_append_high]; rfl)
    (fun _ => by simp only [form_hdr, form_d, form_a, form_ext, regS_opS, extractLsb'_append_low])

theorem readBack_lih (h : Hdr) (d a : SReg) (n : BitVec 16) : ReadBack (.lih h d a n) :=
  readBack_of_form rfl rfl id (operand_opS rfl d) (operand_opS rfl a) (operand_noOp (by decide)) c_none
    (fun _ => by rw [form_ext, extractLsb'_append_high]; rfl)
    (fun _ => by simp only [form_hdr, form_d, form_a, form_ext, regS_opS, extractLsb'_append_low])

theorem readBack_lea (h : Hdr) (d a : SReg) (b : Option SReg) (sh : BitVec 3) (disp : BitVec 45) : ReadBack (.lea h d a b sh disp) :=
  readBack_of_form rfl rfl ok_of_and (operand_opS rfl d) (operand_opS rfl a) (operand_opOptS rfl (by decide) b) c_none (fun _ => rfl)
    (fun _ => by simp only [form_hdr, form_d, form_a, form_b, form_ext, regS_opS, optS_opOptS, extractLsb'_append_low, extractLsb'_append_high])

theorem Cond.ofCode_code {k : Nat} (hk : 9 < 2 ^ k) (c : Cond) : Cond.ofCode (BitVec.ofNat k c.code).toNat = c := by
  have hc : c.code ≤ 9 := by cases c <;> decide
  rw [BitVec.toNat_ofNat, Nat.mod_eq_of_lt (Nat.lt_of_le_of_lt hc hk)]
  cases c <;> rfl

theorem readBack_cmp (h : Hdr) (c : Cond) (d : SK) (a b : SReg) : ReadBack (.cmp h c d a b) :=
  readBack_of_form rfl rfl id (operand_opSK rfl rfl d) (operand_opS rfl a) (operand_opS rfl b) c_noOp
    (fun _ => by rw [regX_plain _ BitVec.and_zero, form_extReg_fn]; cases c <;> rfl)
    (fun _ => by simp only [form_hdr, form_d, form_a, form_b, form_extReg_fn, regS_opS, skOf_opSK, Cond.ofCode_code (k := 8) (by decide)])

theorem readBack_cmpi (h : Hdr) (c : Cond) (d : SK) (a : SReg) (imm : BitVec 44) : ReadBack (.cmpi h c d a imm) :=
  readBack_of_form rfl rfl id (operand_opSK rfl rfl d) (operand_opS rfl a) (operand_noOp (by decide)) c_none
    (fun _ => by rw [form_ext, extractLsb'_append_high]; cases c <;> rfl)
    (fun _ => by simp only [form_hdr, form_d, form_a, form_ext, extractLsb'_append_high, extractLsb'_append_low, regS_opS, skOf_opSK,
      Cond.ofCode_code (k := 4) (by decide)])

theorem readBack_ext (h : Hdr) (sg : Bool) (d a : SReg) (pos len1 : BitVec 6) : ReadBack (.ext h sg d a pos len1) := by
  have hz : (BitVec.ofBool sg ++ 0#35 ++ len1 ++ pos).extractLsb' 12 35 = 0 := by
    simp (disch := omega) only [BitVec.extractLsb'_append_eq_of_le, BitVec.extractLsb'_append_eq_of_add_le]
    simp
  have hl : (BitVec.ofBool sg ++ 0#35 ++ len1 ++ pos).extractLsb' 6 6 = len1 := by
    simp (disch := omega) only [BitVec.extractLsb'_append_eq_of_le, BitVec.extractLsb'_append_eq_of_add_le]
    simp
  have hs : (BitVec.ofBool sg ++ 0#35 ++ len1 ++ pos).getLsbD 47 = sg := by
    simp (disch := omega) only [getLsbD_append_of_le]
    simp
  exact readBack_of_form rfl rfl ok_of_and (operand_opS rfl d) (operand_opS rfl a) (operand_noOp (by decide)) c_none
    (fun _ => by rw [form_ext, hz]; rfl)
    (fun _ => by simp only [form_hdr, form_d, form_a, form_ext, hl, hs, extractLsb'_append_low, regS_opS])

theorem readBack_ins (h : Hdr) (d a : SReg) (pos len1 : BitVec 6) : ReadBack (.ins h d a pos len1) := by
  have hz : (0#36 ++ len1 ++ pos).extractLsb' 12 36 = 0 := by
    simp (disch := omega) only [BitVec.extractLsb'_append_eq_of_le, BitVec.extractLsb'_append_eq_of_add_le]
    simp
  have hl : (0#36 ++ len1 ++ pos).extractLsb' 6 6 = len1 := by
    simp (disch := omega) only [BitVec.extractLsb'_append_eq_of_le, BitVec.extractLsb'_append_eq_of_add_le]
    simp
  exact readBack_of_form rfl rfl ok_of_and (operand_opS rfl d) (operand_opS rfl a) (operand_noOp (by decide)) c_none
    (fun _ => by rw [form_ext, hz]; rfl)
    (fun _ => by simp only [form_hdr, form_d, form_a, form_ext, hl, extractLsb'_append_low, regS_opS])

end Sys2Proof
end

section
/-! SUPPORT. Predicates, floating and vector instructions with fields of their own, read back. -/

namespace Sys2Proof

/-! ## Predicates -/

theorem readBack_psetb (h : Hdr) (d : KReg) (a : SReg) (bit : BitVec 6) : ReadBack (.psetb h d a bit) := by
  have hm : (0#2 ++ bit) &&& ~~~(0x7F : BitVec 8) = 0 := by revert bit; decide
  have h6 : (0#2 ++ bit).getLsbD 6 = false := by revert bit; decide
  refine readBack_of_form rfl rfl id (operand_opK rfl d) (operand_opS rfl a) (operand_noOp (by decide)) c_noOp (fun _ => ?_) (fun _ => ?_)
  · rw [regX_plain _ hm, form_extReg_fn, h6, form_d, decide_eq_false (opK_ne_noOp d)]
    rfl
  · simp only [form_extReg_fn, h6, form_hdr, form_d, form_a, regK_opK, regS_opS, extractLsb'_append_low, Bool.false_eq_true, if_false]

theorem readBack_pgetb (h : Hdr) (d : SReg) (a : KReg) : ReadBack (.pgetb h d a) := by
  refine readBack_of_form rfl rfl id (operand_opS rfl d) (operand_opK rfl a) (operand_noOp (by decide)) c_noOp (fun _ => ?_) (fun _ => ?_)
  · rw [regX_plain _ rfl, form_extReg_fn, form_a, decide_eq_false (opK_ne_noOp a)]
    rfl
  · simp

theorem readBack_psetbAll (h : Hdr) (a : SReg) : ReadBack (.psetbAll h a) := by
  refine readBack_of_form rfl rfl id (operand_noOp (by decide)) (operand_opS rfl a) (operand_noOp (by decide)) c_noOp (fun _ => ?_) (fun _ => ?_)
  · rw [regX_plain _ rfl, form_extReg_fn, form_d]
    rfl
  · simp only [form_extReg_fn, form_hdr, form_a, regS_opS]
    rfl

theorem readBack_pgetbAll (h : Hdr) (d : SReg) : ReadBack (.pgetbAll h d) := by
  refine readBack_of_form rfl rfl id (operand_opS rfl d) (operand_noOp (by decide)) (operand_noOp (by decide)) c_noOp (fun _ => ?_) (fun _ => ?_)
  · rw [regX_plain _ rfl, form_extReg_fn, form_a]
    rfl
  · simp only [form_extReg_fn, form_hdr, form_d, regS_opS]
    rfl

/-! ## Floating conversions and literals -/

@[simp] theorem SgnMode.ofCode_code (x : SgnMode) : SgnMode.ofCode (x.code % 256) = x := by cases x <;> rfl

theorem FCond.ofCode_code {k : Nat} (hk : 6 < 2 ^ k) (c : FCond) : FCond.ofCode (BitVec.ofNat k c.code).toNat = c := by
  have hc : c.code ≤ 6 := by cases c <;> decide
  rw [BitVec.toNat_ofNat, Nat.mod_eq_of_lt (Nat.lt_of_le_of_lt hc hk)]
  cases c <;> rfl

theorem readBack_fsgnj (h : Hdr) (t : ETy) (x : SgnMode) (d a b : FReg) : ReadBack (.fsgnj h t x d a b) :=
  readBack_of_form rfl rfl ok_of_and (operand_opF rfl d) (operand_opF rfl a) (operand_opF rfl b) c_noOp
    (fun _ => by rw [regX_typed t _ (by cases x <;> rfl), form_extReg_fn]; cases x <;> rfl) (fun _ => by simp)

theorem readBack_fcmp (h : Hdr) (t : ETy) (c : FCond) (d : SK) (a b : FReg) : ReadBack (.fcmp h t c d a b) :=
  readBack_of_form rfl rfl ok_of_and (operand_opSK rfl rfl d) (operand_opF rfl a) (operand_opF rfl b) c_noOp
    (fun _ => by rw [regX_typed t _ (by cases c <;> rfl), form_extReg_fn]; cases c <;> rfl)
    (fun _ => by simp only [form_hdr, form_ty, form_extReg_fn, FCond.ofCode_code (k := 8) (by decide), form_d, form_a, form_b, skOf_opSK, regS_opF])

theorem readBack_fcvt (h : Hdr) (dst src : ETy) (rm : Rnd) (d a : FReg) : ReadBack (.fcvt h dst src rm d a) := by
  have h7 : (rm.dynBit ||| BitVec.ofNat 8 src.code).getLsbD 7 = (rm == .dyn) := by cases rm <;> cases src <;> rfl
  have hm : (rm.dynBit ||| BitVec.ofNat 8 src.code) &&& ~~~(0x8F : BitVec 8) = 0 := by cases rm <;> cases src <;> rfl
  have hs : (rm.dynBit ||| BitVec.ofNat 8 src.code).extractLsb' 0 4 = BitVec.ofNat 4 src.code := by cases rm <;> cases src <;> rfl
  refine readBack_of_form rfl rfl ok_of_and (operand_opF rfl d) (operand_opF rfl a) (operand_noOp (by decide)) c_noOp (fun _ => ?_) (fun _ => ?_)
  · rw [regX_rounding dst rm _ h7 hm, form_extReg_fn, hs]
    cases src <;> rfl
  · simp [form_rm _ h7, hs]

theorem readBack_fcvti (h : Hdr) (src : ETy) (dst : IDst) (rm : Rnd) (d : SReg) (a : FReg) : ReadBack (.fcvti h src dst rm d a) := by
  have h7 : (rm.dynBit ||| BitVec.ofNat 8 dst.code).getLsbD 7 = (rm == .dyn) := by cases rm <;> cases dst <;> rfl
  have hm : (rm.dynBit ||| BitVec.ofNat 8 dst.code) &&& ~~~(0x87 : BitVec 8) = 0 := by cases rm <;> cases dst <;> rfl
  have hs : (rm.dynBit ||| BitVec.ofNat 8 dst.code).extractLsb' 0 3 = BitVec.ofNat 3 dst.code := by cases rm <;> cases dst <;> rfl
  have hd : IDst.ofCode (BitVec.ofNat 3 dst.code).toNat = dst := by cases dst <;> rfl
  refine readBack_of_form rfl rfl ok_of_and (operand_opS rfl d) (operand_opF rfl a) (operand_noOp (by decide)) c_noOp (fun _ => ?_) (fun _ => ?_)
  · rw [regX_rounding src rm _ h7 hm, form_extReg_fn, hs]
    cases dst <;> rfl
  · simp only [form_hdr, form_ty, form_rm _ h7, form_extReg_fn, hs, hd, form_d, form_a, regS_opS, regS_opF]

theorem readBack_ficvt (h : Hdr) (dst : ETy) (nat : Bool) (rm : Rnd) (d : FReg) (a : SReg) : ReadBack (.ficvt h dst nat rm d a) := by
  have h7 : (rm.dynBit ||| bit8 nat).getLsbD 7 = (rm == .dyn) := by cases rm <;> cases nat <;> rfl
  have hm : (rm.dynBit ||| bit8 nat) &&& ~~~(0x81 : BitVec 8) = 0 := by cases rm <;> cases nat <;> rfl
  have h0 : (rm.dynBit ||| bit8 nat).getLsbD 0 = nat := by cases rm <;> cases nat <;> rfl
  refine readBack_of_form rfl rfl ok_of_and (operand_opF rfl d) (operand_opS rfl a) (operand_noOp (by decide)) c_noOp
    (fun _ => regX_rounding dst rm _ h7 hm) (fun _ => ?_)
  simp only [form_hdr, form_ty, form_rm _ h7, form_extReg_fn, h0, form_d, form_a, regS_opS, regS_opF]

theorem readBack_fliFp32 (h : Hdr) (d : FReg) (imm : BitVec 32) : ReadBack (.fliFp32 h d imm) := by
  have h47 : (0#16 ++ imm).getLsbD 47 = false := by simp (disch := omega) only [getLsbD_append_of_le]; simp
  have hz : (0#16 ++ imm).extractLsb' 32 15 = 0 := by simp (disch := omega) only [BitVec.extractLsb'_append_eq_of_le]; decide
  refine readBack_of_form rfl rfl id (operand_opF rfl d) (operand_noOp (by decide)) (operand_noOp (by decide)) c_none (fun _ => ?_) (fun _ => ?_)
  · rw [form_ext, hz]
    simp [flag]
  · simp only [form_ext, h47, Bool.false_eq_true, if_false, form_hdr, form_d, regS_opF, extractLsb'_append_low]

theorem readBack_fliFp64 (h : Hdr) (d : FReg) (imm : BitVec 47) : ReadBack (.fliFp64 h d imm) := by
  have h47 : (1#1 ++ imm).getLsbD 47 = true := by simp (disch := omega) only [getLsbD_append_of_le]; simp
  refine readBack_of_form rfl rfl id (operand_opF rfl d) (operand_noOp (by decide)) (operand_noOp (by decide)) c_none (fun _ => ?_) (fun _ => ?_)
  · rw [form_ext, h47]
    rfl
  · simp only [form_ext, h47, if_true, form_hdr, form_d, regS_opF, extractLsb'_append_low]

/-! ## Vectors -/

/-- A vector form that does not round is well formed with the default rounding only. -/
theorem rne_of_wf {p : Bool} {x : VMod} {ts : List ETy} (hw : p && x.ok ts false) : x.rm = .rne := by
  simp only [VMod.ok, Bool.false_or, Bool.and_eq_true, beq_iff_eq] at hw
  exact hw.2.2

theorem unsigned_and_not (u : Bool) : (0#3 ++ BitVec.ofBool u) &&& ~~~0x1#4 = 0 := by cases u <;> rfl

theorem readBack_vcmp (h : Hdr) (c : Cond) (x : VMod) (d a : VReg) (b : VS) : ReadBack (.vcmp h c x d a b) :=
  readBack_of_form rfl rfl ok_of_and (operand_opV rfl d) (operand_opV rfl a) (operand_opVS rfl rfl b) (form_vmod_c_noOp _ _)
    (fun hw => by
      rw [show (0x7F : BitVec 8) = 0x7#4 ++ 0xF#4 from rfl, regX_vmod_of_rne _ _ _ BitVec.and_zero (rne_of_wf hw), maskX_vmod, form_vmod_low]
      cases c <;> rfl)
    (fun _ => by simp only [form_hdr, form_vmod, form_vmod_low, Cond.ofCode_code (k := 4) (by decide), form_d, form_a, form_b, regV_opV, vsOf_opVS])

theorem readBack_vfcmp (h : Hdr) (c : FCond) (x : VMod) (d a : VReg) (b : VF) : ReadBack (.vfcmp h c x d a b) :=
  readBack_of_form rfl rfl ok_of_and (operand_opV rfl d) (operand_opV rfl a) (operand_opVF rfl rfl b) (form_vmod_c_noOp _ _)
    (fun hw => by
      rw [show (0x7F : BitVec 8) = 0x7#4 ++ 0xF#4 from rfl, regX_vmod_of_rne _ _ _ BitVec.and_zero (rne_of_wf hw), maskX_vmod, form_vmod_low]
      cases c <;> rfl)
    (fun _ => by simp only [form_hdr, form_vmod, form_vmod_low, FCond.ofCode_code (k := 4) (by decide), form_d, form_a, form_b, regV_opV, vfOf_opVF])

theorem readBack_vcvt (h : Hdr) (src : ETy) (x : VMod) (d a : VReg) (p : Fin 32) : ReadBack (.vcvt h src x d a p) := by
  have hp : (num (opImm p)).toFin = p := by revert p; decide
  refine readBack_of_form rfl rfl ok_of_and (operand_opV rfl d) (operand_opV rfl a) (operand_opImm rfl p) (form_vmod_c_noOp _ _)
    (fun _ => ?_) (fun _ => ?_)
  · rw [show (0xFF : BitVec 8) = 0xF#4 ++ 0xF#4 from rfl, regX_vmod _ _ _ BitVec.and_zero, maskX_vmod, form_vmod_low]
    cases src <;> rfl
  · simp [hp]

theorem readBack_vcvts (h : Hdr) (dst src : ETy) (d a : VReg) : ReadBack (.vcvts h dst src d a) := by
  have hm : BitVec.ofNat 8 src.code &&& ~~~(0x0F : BitVec 8) = 0 := by cases src <;> rfl
  have hl : (BitVec.ofNat 8 src.code).extractLsb' 0 4 = BitVec.ofNat 4 src.code := by cases src <;> rfl
  refine readBack_of_form rfl rfl ok_of_and (operand_opV rfl d) (operand_opV rfl a) (operand_noOp (by decide)) c_noOp (fun _ => ?_) (fun _ => ?_)
  · rw [regX_typed dst _ hm, Raw.low, form_extReg_fn, hl]
    cases src <;> rfl
  · simp [Raw.low, hl]

theorem readBack_vbcastScalar (h : Hdr) (t : ETy) (d : VReg) (a : SF) : ReadBack (.vbcastScalar h t d a) := by
  have hc : cls (opSF a) ≠ 2 := by cases a <;> simp [opSF]
  refine readBack_of_form rfl rfl ok_of_and (operand_opV rfl d) ?_ (operand_noOp (by decide)) c_noOp (fun _ => ?_) (fun _ => ?_)
  · exact operand_opSF rfl rfl a
  · rw [regX_typed t _ rfl, form_b]
    simp [flag]
  · simp only [form_hdr, form_ty, form_d, form_a, if_neg hc, regV_opV, sfOf_opSF]

theorem readBack_vbcastLane (h : Hdr) (t : ETy) (d a : VReg) (n : SI) : ReadBack (.vbcastLane h t d a n) := by
  refine readBack_of_form rfl rfl ok_of_and (operand_opV rfl d) (operand_opV rfl a) (operand_opSI rfl rfl n) c_noOp (fun _ => ?_) (fun _ => ?_)
  · rw [regX_typed t _ rfl, form_a, cls_opV]
    rfl
  · simp

theorem readBack_vmovsLane (h : Hdr) (t : ETy) (sg : Bool) (d : SF) (a : VReg) (n : SI) : ReadBack (.vmovsLane h t sg d a n) := by
  have hm : (0#5 ++ BitVec.ofBool sg ++ 0#2) &&& ~~~(0x07 : BitVec 8) = 0 := by cases sg <;> rfl
  have hp : (0#5 ++ BitVec.ofBool sg ++ 0#2).extractLsb' 0 2 = 0 := by cases sg <;> rfl
  have h2 : (0#5 ++ BitVec.ofBool sg ++ 0#2).getLsbD 2 = sg := by cases sg <;> rfl
  refine readBack_of_form rfl rfl ok_of_and (operand_opSF rfl rfl d) (operand_opV rfl a) (operand_opSI rfl rfl n) c_noOp (fun hw => ?_) (fun _ => ?_)
  · have hs : (sg && decide (cls (opSF d) ≠ 0)) = false := by
      simp only [Instr.wf, Bool.and_eq_true, Bool.or_eq_true, Bool.not_eq_true'] at hw
      obtain ⟨-, -, rfl | hd⟩ := hw
      · rfl
      · cases d with
        | s r => simp [opSF]
        | f r => cases hd
    rw [regX_typed t _ hm, Raw.part, form_extReg_fn, hp, h2, form_d, hs]
    rfl
  · simp only [Raw.part, form_extReg_fn, hp, h2, form_hdr, form_ty, form_d, form_a, form_b, sfOf_opSF, regV_opV, siOf_opSI, if_true]

theorem readBack_vmovsCnt (h : Hdr) (t : ETy) (d : SReg) (a : VReg) : ReadBack (.vmovsCnt h t d a) := by
  refine readBack_of_form rfl rfl ok_of_and (operand_opS rfl d) (operand_opV rfl a) (operand_noOp (by decide)) c_noOp (fun _ => ?_) (fun _ => ?_)
  · rw [regX_typed t _ rfl, Raw.part, form_extReg_fn, form_d, cls_opS, form_b]
    rfl
  · simp only [Raw.part, form_extReg_fn, form_hdr, form_ty, form_d, form_a, regS_opS, regV_opV]
    rfl

theorem readBack_vmovsBits (h : Hdr) (t : ETy) (d : SReg) (a : VReg) : ReadBack (.vmovsBits h t d a) := by
  refine readBack_of_form rfl rfl ok_of_and (operand_opS rfl d) (operand_opV rfl a) (operand_noOp (by decide)) c_noOp (fun _ => ?_) (fun _ => ?_)
  · rw [regX_typed t _ rfl, Raw.part, form_extReg_fn, form_d, cls_opS, form_b]
    rfl
  · simp only [Raw.part, form_extReg_fn, form_hdr, form_ty, form_d, form_a, regS_opS, regV_opV]
    rfl

theorem readBack_vzord (h : Hdr) (x2 hi : Bool) (d a b : VReg) (c : Option VReg) : ReadBack (.vzord h x2 hi d a b c) := by
  have hm : (0#6 ++ BitVec.ofBool x2 ++ BitVec.ofBool hi) &&& ~~~(0x03 : BitVec 8) = 0 := by cases x2 <;> cases hi <;> rfl
  have h1 : (0#6 ++ BitVec.ofBool x2 ++ BitVec.ofBool hi).getLsbD 1 = x2 := by cases x2 <;> cases hi <;> rfl
  have h0 : (0#6 ++ BitVec.ofBool x2 ++ BitVec.ofBool hi).getLsbD 0 = hi := by cases x2 <;> cases hi <;> rfl
  have hc : (Instr.vzord h x2 hi d a b c).wf → x2 = c.isNone := by
    intro hw
    simp only [Instr.wf, Bool.and_eq_true, bne_iff_ne] at hw
    obtain ⟨-, hn⟩ := hw
    cases x2 <;> cases c <;> simp_all
  refine readBack_of_form rfl rfl ok_of_and (operand_opV rfl d) (operand_opV rfl a) (operand_opV rfl b) ?_ (fun hw => ?_) (fun hw => ?_)
  · simp only [Option.mem_def, Option.some.injEq, forall_eq', form_extReg_c]
    exact operand_opOptV rfl (by decide) c
  · rw [show (4 : BitVec 4) = BitVec.ofNat 4 ETy.i32.code from rfl, regX_typed _ _ hm, form_extReg_fn, h1, form_ty, form_extReg_c, hc hw]
    cases c with
    | none => rfl
    | some r => simp [opOptV, flag]
  · simp only [form_hdr, form_extReg_fn, h1, h0, form_d, form_a, form_b, regV_opV, form_extReg_c]
    rw [hc hw]
    cases c with
    | none => rfl
    | some r => simp [opOptV]

end Sys2Proof
end

section
/-! SUPPORT. Memory, tile, copy and matrix instructions with fields of their own, read back. -/

namespace Sys2Proof

/-! ## Memory -/

@[simp] theorem Scope.ofCode_code15 (sc : Scope) : Scope.ofCode (BitVec.ofNat 15 sc.code).toNat = sc := by cases sc <;> rfl

theorem readBack_pref (h : Hdr) (ro : Bool) (a : SReg) (off : BitVec 41) : ReadBack (.pref h ro a off) := by
  have hs : (0#5 ++ BitVec.ofBool ro ++ 0#1 ++ off).extractLsb' 45 3 = 0 := by
    simp (disch := omega) only [BitVec.extractLsb'_append_eq_of_le]
    decide
  have hw : (0#5 ++ BitVec.ofBool ro ++ 0#1 ++ off).extractLsb' 42 3 = 0#2 ++ BitVec.ofBool ro := by
    simp (disch := omega) only [BitVec.extractLsb'_append_eq_of_le]
    cases ro <;> rfl
  have hro : (0#5 ++ BitVec.ofBool ro ++ 0#1 ++ off).getLsbD 42 = ro := by
    simp (disch := omega) only [getLsbD_append_of_le, getLsbD_append_of_lt]
    simp
  have hsg : (0#5 ++ BitVec.ofBool ro ++ 0#1 ++ off).getLsbD 41 = false := by
    simp (disch := omega) only [getLsbD_append_of_le, getLsbD_append_of_lt]
    simp
  refine readBack_of_form rfl rfl id (operand_noOp (by decide)) (operand_opS rfl a) (operand_noOp (by decide)) c_none (fun _ => ?_) (fun _ => ?_)
  · rw [form_ext, hs, hw, hsg]
    cases ro <;> rfl
  · simp only [form_hdr, form_ext, hro, form_a, regS_opS, Raw.off, extractLsb'_append_low]

theorem readBack_fence (h : Hdr) (sc : Scope) : ReadBack (.fence h sc) := by
  have hm : BitVec.ofNat 15 sc.code &&& ~~~(0x7 : BitVec 15) = 0 := by cases sc <;> rfl
  refine readBack_of_form rfl rfl id (operand_noOp (by decide)) (operand_noOp (by decide)) (operand_noOp (by decide)) c_none
    (fun _ => ?_) (fun _ => ?_)
  · rw [sysX_extSys hm rfl, form_extSys_code]
    cases sc <;> rfl
  · simp only [form_hdr, form_extSys_code, Scope.ofCode_code15]

theorem operandValue_eq_nil {cs : List Cls} {x : BitVec 8} (h : operand cs x = []) : operandValue cs x = [] := by rw [operandValue, h]; rfl

theorem operand_any (x : BitVec 8) : operand [] x = [] := by simp [operand]

theorem readBack_ldres (h : Hdr) (d : SFV) (a : SReg) (x : MemArgs) : ReadBack (.ldres h d a x) := by
  have hd : (Instr.ldres h d a x).wf → operand [.s, .v] (opSFV d) = [] := by
    intro hw
    cases d with
    | s r => exact operand_opS rfl r
    | v r => exact operand_opV rfl r
    | f r => simp [Instr.wf, MemArgs.resOk] at hw
  refine readBack_of_form rfl rfl ok_of_and (operand_any _) (operand_opS rfl a) (operand_noOp (by decide)) c_none (fun hw => ?_) (fun _ => ?_)
  · rw [memX_memExt, form_d, operandValue_eq_nil (hd hw)]
    rfl
  · simp only [form_hdr, form_d, form_a, form_mem, sfvOf_opSFV, regS_opS]

theorem readBack_cmstore (h : Hdr) (sc : Scope) (d a b : SReg) (off : BitVec 41) : ReadBack (.cmstore h sc d a b off) := by
  have hs : (BitVec.ofNat 3 sc.code ++ 0#4 ++ off).extractLsb' 45 3 = BitVec.ofNat 3 sc.code := by
    simp (disch := omega) only [BitVec.extractLsb'_append_eq_of_le]
    simp
  have hw : (BitVec.ofNat 3 sc.code ++ 0#4 ++ off).extractLsb' 42 3 = 0 := by
    simp (disch := omega) only [BitVec.extractLsb'_append_eq_of_le, BitVec.extractLsb'_append_eq_of_add_le]
    decide
  have hz : (BitVec.ofNat 3 sc.code ++ 0#4 ++ off).extractLsb' 41 4 = 0 := by
    simp (disch := omega) only [BitVec.extractLsb'_append_eq_of_le, BitVec.extractLsb'_append_eq_of_add_le]
    decide
  refine readBack_of_form rfl rfl ok_of_and (operand_any _) (operand_any _) (operand_any _) c_none (fun _ => ?_) (fun _ => ?_)
  · rw [memX, form_ext, hs, hw, hz, form_d, form_a, form_b, operandValue_eq_nil (operand_opS rfl d), operandValue_eq_nil (operand_opS rfl a),
      operandValue_eq_nil (operand_opS rfl b)]
    cases sc <;> rfl
  · simp only [form_hdr, Raw.scope, form_ext, hs, form_d, form_a, form_b, regS_opS, Raw.off, extractLsb'_append_low]
    simp

@[simp] theorem bareX_offset {h : Hdr} {M : BitVec 8} {m : BitVec 4} {d a b : BitVec 8} (e : Illegal) (off : BitVec 41) :
    bareX e (h.form M m d a b (0#7 ++ off)) = [] := by
  rw [bareX, form_ext, extractLsb'_append_high]
  rfl

@[simp] theorem form_off {h : Hdr} {M : BitVec 8} {m : BitVec 4} {d a b : BitVec 8} (x : BitVec 7) (off : BitVec 41) :
    (h.form M m d a b (x ++ off)).off = off := extractLsb'_append_low x off

theorem readBack_tlbinv (h : Hdr) (all mdl : Bool) (a : SReg) (off : BitVec 41) : ReadBack (.tlbinv h all mdl a off) := by
  have hs : ((if mdl then 4#3 else 1#3) ++ 0#3 ++ BitVec.ofBool all ++ off).extractLsb' 45 3 = if mdl then 4#3 else 1#3 := by
    simp (disch := omega) only [BitVec.extractLsb'_append_eq_of_le]
    simp
  have hw : ((if mdl then 4#3 else 1#3) ++ 0#3 ++ BitVec.ofBool all ++ off).extractLsb' 42 3 = 0 := by
    simp (disch := omega) only [BitVec.extractLsb'_append_eq_of_le, BitVec.extractLsb'_append_eq_of_add_le]
    decide
  have hall : ((if mdl then 4#3 else 1#3) ++ 0#3 ++ BitVec.ofBool all ++ off).getLsbD 41 = all := by
    simp (disch := omega) only [getLsbD_append_of_le, getLsbD_append_of_lt]
    simp
  refine readBack_of_form rfl rfl id (operand_noOp (by decide)) (operand_opS rfl a) (operand_noOp (by decide)) c_none (fun _ => ?_) (fun _ => ?_)
  · rw [memX, Raw.scope, form_ext, hs, hw]
    cases mdl <;> rfl
  · simp only [form_hdr, Raw.scope, form_ext, hs, hall, form_a, regS_opS, Raw.off, extractLsb'_append_low]
    cases mdl <;> rfl

theorem readBack_wback (h : Hdr) (page : Bool) (a : SReg) (off : BitVec 41) : ReadBack (.wback h page a off) := by
  have hz : (0#6 ++ BitVec.ofBool page ++ off).extractLsb' 42 6 = 0 := by
    simp (disch := omega) only [BitVec.extractLsb'_append_eq_of_le]
    simp
  have hp : (0#6 ++ BitVec.ofBool page ++ off).getLsbD 41 = page := by
    simp (disch := omega) only [getLsbD_append_of_le, getLsbD_append_of_lt]
    simp
  refine readBack_of_form rfl rfl id (operand_noOp (by decide)) (operand_opS rfl a) (operand_noOp (by decide)) c_none (fun _ => ?_) (fun _ => ?_)
  · rw [form_ext, hz]
    rfl
  · simp only [form_hdr, form_ext, hp, form_a, regS_opS, Raw.off, extractLsb'_append_low]

/-! ## Tiles -/

theorem readBack_tnew (h : Hdr) (d a : SReg) (t : TileArgs) : ReadBack (.tnew h d a t) := by
  refine readBack_of_form rfl rfl ok_of_and (operand_opS rfl d) (operand_opS rfl a) (operand_opOptS rfl (by decide) t.b) c_none (fun hw => ?_)
    (fun _ => ?_)
  · simp only [Instr.wf, Bool.and_eq_true, beq_iff_eq] at hw
    obtain ⟨-, ⟨⟨hv, -⟩, haddr⟩, -⟩ := hw
    exact tileX_extTile hv (fun _ => haddr) nofun nofun
  · simp only [form_hdr, form_d, form_a, regS_opS, form_tile]

/-- The version of a placed tile. -/
theorem verOk_of_wf {p q : Bool} {t : TileArgs} (hw : p && (t.verOk && q)) : t.b.isNone || t.imm == 0 := by
  simp only [Bool.and_eq_true] at hw
  exact hw.2.1

theorem tileX_tile {h : Hdr} {M : BitVec 8} {m : BitVec 4} {d a : BitVec 8} {t : TileArgs} (hv : t.b.isNone || t.imm == 0) :
    tileX true true true true (h.form M m d a (opOptS t.b) t.ext) = [] :=
  tileX_extTile hv nofun nofun nofun

theorem tileX_noVersion {h : Hdr} {M : BitVec 8} {m : BitVec 4} {d a : BitVec 8} (n : BitVec 8) :
    tileX false false true false (h.form M m d a noOp (extTile 0 0 n 0)) = [] := by
  rw [tileX, form_tCnt, form_tImm, form_ext, extTile_addr, extTile_size]
  rfl

theorem tileX_zero {h : Hdr} {M : BitVec 8} {m : BitVec 4} {d a : BitVec 8} :
    tileX false false false false (h.form M m d a noOp 0) = [] := by
  rw [tileX, show (0 : BitVec 48) = extTile 0 0 0 0 from rfl, form_tCnt, form_tImm, form_ext, extTile_addr, extTile_size]
  rfl

/-! ## The copy unit -/

theorem readBack_cpyf (h : Hdr) (mode : Fin 4) (sync : Bool) (d a b : SReg) : ReadBack (.cpyf h mode sync d a b) := by
  have hm : (0#12 ++ fin2 mode) &&& ~~~(0x3 : BitVec 14) = 0 := by revert mode; decide
  refine readBack_of_form rfl rfl id (operand_opS rfl d) (operand_opS rfl a) (operand_opS rfl b) c_none (fun _ => engX_extEng sync hm)
    (fun _ => ?_)
  simp only [form_hdr, form_extEng_md, extractLsb'_append_low, fin2, form_extEng_sync, form_d, form_a, form_b, regS_opS]

theorem readBack_bload (h : Hdr) (sp : Bool) (t : ETy) (sc sync : Bool) (d a b : SReg) : ReadBack (.bload h sp t sc sync d a b) := by
  have hm : (0#1 ++ BitVec.ofBool sp ++ BitVec.ofNat 4 t.code ++ BitVec.ofBool sc ++ 0#7) &&& ~~~(0x3F80 : BitVec 14) = 0 := by
    cases sp <;> cases sc <;> cases t <;> rfl
  have h13 : (0#1 ++ BitVec.ofBool sp ++ BitVec.ofNat 4 t.code ++ BitVec.ofBool sc ++ 0#7).getLsbD 13 = false := by
    simp (disch := omega) only [getLsbD_append_of_le]
    simp
  have h12 : (0#1 ++ BitVec.ofBool sp ++ BitVec.ofNat 4 t.code ++ BitVec.ofBool sc ++ 0#7).getLsbD 12 = sp := by
    simp (disch := omega) only [getLsbD_append_of_le, getLsbD_append_of_lt]
    simp
  have h7 : (0#1 ++ BitVec.ofBool sp ++ BitVec.ofNat 4 t.code ++ BitVec.ofBool sc ++ 0#7).getLsbD 7 = sc := by
    simp (disch := omega) only [getLsbD_append_of_le, getLsbD_append_of_lt]
    simp
  have ht : (0#1 ++ BitVec.ofBool sp ++ BitVec.ofNat 4 t.code ++ BitVec.ofBool sc ++ 0#7).extractLsb' 8 4 = BitVec.ofNat 4 t.code := by
    simp (disch := omega) only [BitVec.extractLsb'_append_eq_of_le, BitVec.extractLsb'_append_eq_of_add_le]
    simp
  refine readBack_of_form rfl rfl ok_of_and (operand_opS rfl d) (operand_opS rfl a) (operand_opS rfl b) c_none (fun _ => ?_) (fun _ => ?_)
  · rw [engX_extEng sync hm, form_extEng_md, h13, ht]
    cases t <;> rfl
  · simp only [form_hdr, form_extEng_md, h12, h7, ht, form_extEng_sync, form_d, form_a, form_b, regS_opS]
    simp

theorem readBack_sstream (h : Hdr) (v : Fin 4) (wr gl sync : Bool) (d a b : SReg) : ReadBack (.sstream h v wr gl sync d a b) := by
  have hm : (fin2 v ++ BitVec.ofBool wr ++ BitVec.ofBool gl ++ 0#10) &&& ~~~(0x3C00 : BitVec 14) = 0 := by revert v wr gl; decide
  have hv : ((fin2 v ++ BitVec.ofBool wr ++ BitVec.ofBool gl ++ 0#10).extractLsb' 12 2).toFin = v := by revert v wr gl; decide
  have hwr : (fin2 v ++ BitVec.ofBool wr ++ BitVec.ofBool gl ++ 0#10).getLsbD 11 = wr := by revert v wr gl; decide
  have hgl : (fin2 v ++ BitVec.ofBool wr ++ BitVec.ofBool gl ++ 0#10).getLsbD 10 = gl := by revert v wr gl; decide
  refine readBack_of_form rfl rfl id (operand_opS rfl d) (operand_opS rfl a) (operand_opS rfl b) c_none (fun _ => engX_extEng sync hm)
    (fun _ => ?_)
  simp only [form_hdr, form_extEng_md, hv, hwr, hgl, form_extEng_sync, form_d, form_a, form_b, regS_opS]

theorem streamReg_field (v : Fin 4) : decide ((num (opV (streamReg v))).toNat < 12) = false ∧ ((opV (streamReg v)).extractLsb' 0 2).toFin = v := by
  revert v; decide

theorem readBack_sstop (h : Hdr) (v : Fin 4) : ReadBack (.sstop h v) := by
  obtain ⟨hn, hv⟩ := streamReg_field v
  refine readBack_of_form rfl rfl id (operand_opV rfl _) (operand_noOp (by decide)) (operand_noOp (by decide)) c_noOp (fun _ => ?_) (fun _ => ?_)
  · rw [regN_plain _ rfl, form_d, hn]
    rfl
  · simp only [form_hdr, form_d, hv]

theorem readBack_spos (h : Hdr) (d : SReg) (v : Fin 4) : ReadBack (.spos h d v) := by
  obtain ⟨hn, hv⟩ := streamReg_field v
  refine readBack_of_form rfl rfl id (operand_opS rfl d) (operand_opV rfl _) (operand_noOp (by decide)) c_noOp (fun _ => ?_) (fun _ => ?_)
  · rw [regN_plain _ rfl, form_a, hn]
    rfl
  · simp only [form_hdr, form_d, regS_opS, form_a, hv]

/-- A function byte that is a number of two bits. -/
theorem part_field (f : Fin 4) : (0#6 ++ fin2 f) &&& ~~~(0x03 : BitVec 8) = 0 ∧ ((0#6 ++ fin2 f).extractLsb' 0 2).toFin = f := by
  revert f; decide

theorem readBack_tlrd (h : Hdr) (f : Fin 4) (d : SReg) (t : Tl) : ReadBack (.tlrd h f d t) := by
  obtain ⟨hm, hf⟩ := part_field f
  refine readBack_of_form rfl rfl id (operand_opS rfl d) (operand_opTl rfl t) (operand_noOp (by decide)) c_noOp (fun _ => regX_plain _ hm)
    (fun _ => ?_)
  simp only [form_hdr, form_extReg_fn, hf, form_d, form_a, regS_opS, tlOf_opTl]

/-! ## The matrix engine -/

theorem bankZ_field (bank : Fin 4) (z : Bool) : (fin2 bank ++ BitVec.ofBool z ++ 0#11) &&& ~~~(0x3800 : BitVec 14) = 0 ∧
    ((fin2 bank ++ BitVec.ofBool z ++ 0#11).extractLsb' 12 2).toFin = bank ∧ (fin2 bank ++ BitVec.ofBool z ++ 0#11).getLsbD 11 = z := by
  revert bank z; decide

theorem readBack_mjob (h : Hdr) (bank : Fin 4) (z sync : Bool) (d a b : SReg) : ReadBack (.mjob h bank z sync d a b) := by
  obtain ⟨hm, hb, hz⟩ := bankZ_field bank z
  refine readBack_of_form rfl rfl id (operand_opS rfl d) (operand_opS rfl a) (operand_opS rfl b) c_none (fun _ => engX_extEng sync hm)
    (fun _ => ?_)
  simp only [form_hdr, Raw.bank, form_extEng_md, hb, hz, form_extEng_sync, form_d, form_a, form_b, regS_opS]

theorem readBack_mma (h : Hdr) (bank : Fin 4) (z sync : Bool) (d a b : SReg) : ReadBack (.mma h bank z sync d a b) := by
  obtain ⟨hm, hb, hz⟩ := bankZ_field bank z
  refine readBack_of_form rfl rfl id (operand_opS rfl d) (operand_opS rfl a) (operand_opS rfl b) c_none (fun _ => engX_extEng sync hm)
    (fun _ => ?_)
  simp only [form_hdr, Raw.bank, form_extEng_md, hb, hz, form_extEng_sync, form_d, form_a, form_b, regS_opS]

/-- The modifier bits of a drain. -/
def DrainArgs.md (x : DrainArgs) : BitVec 14 :=
  (BitVec.ofFin x.bank : BitVec 2) ++ (BitVec.ofFin x.ty : BitVec 4) ++ BitVec.ofBool x.tr ++ BitVec.ofBool x.clr ++
    (BitVec.ofFin x.tf : BitVec 2) ++ 0#4

theorem DrainArgs.md_and_not (x : DrainArgs) : x.md &&& ~~~(0x3FF0 : BitVec 14) = 0 := by
  rw [DrainArgs.md, show ~~~(0x3FF0 : BitVec 14) = 0#10 ++ 0xF#4 from rfl, BitVec.and_append, BitVec.and_zero]
  rfl

theorem form_drain {h : Hdr} {M : BitVec 8} {m : BitVec 4} {d a b : BitVec 8} (x : DrainArgs) : (h.form M m d a b x.ext).drain = x := by
  have hb : x.md.extractLsb' 12 2 = BitVec.ofFin x.bank := by
    simp (disch := omega) only [DrainArgs.md, BitVec.extractLsb'_append_eq_of_le]
    simp
  have ht : x.md.extractLsb' 8 4 = BitVec.ofFin x.ty := by
    simp (disch := omega) only [DrainArgs.md, BitVec.extractLsb'_append_eq_of_le, BitVec.extractLsb'_append_eq_of_add_le]
    simp
  have hr : x.md.getLsbD 7 = x.tr := by
    simp (disch := omega) only [DrainArgs.md, getLsbD_append_of_le, getLsbD_append_of_lt]
    simp
  have hc : x.md.getLsbD 6 = x.clr := by
    simp (disch := omega) only [DrainArgs.md, getLsbD_append_of_le, getLsbD_append_of_lt]
    simp
  have hf : x.md.extractLsb' 4 2 = BitVec.ofFin x.tf := by
    simp (disch := omega) only [DrainArgs.md, BitVec.extractLsb'_append_eq_of_le, BitVec.extractLsb'_append_eq_of_add_le]
    simp
  rw [show x.ext = extEng x.sync x.md from rfl, Raw.drain, Raw.bank, form_extEng_md, form_extEng_sync, hb, ht, hr, hc, hf]

theorem readBack_mdrain (h : Hdr) (x : DrainArgs) (d a b : SReg) : ReadBack (.mdrain h x d a b) :=
  readBack_of_form rfl rfl ok_of_and (operand_opS rfl d) (operand_opS rfl a) (operand_opS rfl b) c_none
    (fun _ => engX_extEng x.sync x.md_and_not) (fun _ => by simp only [form_hdr, form_drain, form_d, form_a, form_b, regS_opS])

theorem readBack_mcfg (h : Hdr) (sync : Bool) (d a : SReg) : ReadBack (.mcfg h sync d a) :=
  readBack_of_form rfl rfl id (operand_opS rfl d) (operand_opS rfl a) (operand_opS rfl 0) c_none
    (fun _ => by rw [engX_extEng sync rfl]; rfl) (fun _ => by simp only [form_hdr, form_extEng_sync, form_d, form_a, regS_opS])

theorem readBack_mclr (h : Hdr) (bank : Fin 4) (sync : Bool) (d : SReg) : ReadBack (.mclr h bank sync d) := by
  have hm : (fin2 bank ++ 0#12) &&& ~~~(0x3000 : BitVec 14) = 0 := by revert bank; decide
  have hb : ((fin2 bank ++ 0#12).extractLsb' 12 2).toFin = bank := by revert bank; decide
  refine readBack_of_form rfl rfl id (operand_opS rfl d) (operand_opS rfl 0) (operand_opS rfl 0) c_none
    (fun _ => by rw [engX_extEng sync hm]; rfl) (fun _ => ?_)
  simp only [form_hdr, Raw.bank, form_extEng_md, hb, form_extEng_sync, form_d, regS_opS]

theorem readBack_mabort (h : Hdr) (sync : Bool) (d : SReg) : ReadBack (.mabort h sync d) :=
  readBack_of_form rfl rfl id (operand_opS rfl d) (operand_opS rfl 0) (operand_opS rfl 0) c_none
    (fun _ => by rw [engX_extEng sync rfl]; rfl) (fun _ => by simp only [form_hdr, form_extEng_sync, form_d, regS_opS])

end Sys2Proof
end

section
/-! SUPPORT. Remote, branch, task and system instructions with fields of their own, read back. -/

namespace Sys2Proof

/-! ## Remote accesses, barriers and views -/

theorem readBack_ramo (h : Hdr) (op : AmoOp) (d a b : SReg) (x : AmoArgs) : ReadBack (.ramo h op d a b x) :=
  readBack_of_form rfl rfl ok_of_and (operand_opS rfl d) (operand_opS rfl a) (operand_opS rfl b) c_none (fun _ => amoX_amoExt ..)
    (fun _ => by simp)

theorem readBack_eqrd (h : Hdr) (info : Bool) (d : SReg) : ReadBack (.eqrd h info d) := by
  have hm : (0#14 ++ BitVec.ofBool info) &&& ~~~(1 : BitVec 15) = 0 := by cases info <;> rfl
  have h0 : (0#14 ++ BitVec.ofBool info).getLsbD 0 = info := by cases info <;> rfl
  refine readBack_of_form rfl rfl id (operand_opS rfl d) (operand_noOp (by decide)) (operand_noOp (by decide)) c_none
    (fun _ => sysX_extSys hm rfl) (fun _ => ?_)
  simp only [form_hdr, form_extSys_code, h0, form_d, regS_opS]

@[simp] theorem regMb_mh {h : Hdr} {M : BitVec 8} {m : BitVec 4} {d a b : BitVec 8} (mh : Bool) :
    regMb true (h.form M m d a b (extReg mh 0 0 0 noOp)) = [] := by
  rw [regMb, regU_plain _ rfl, form_extReg_mh]
  cases mh <;> rfl

theorem readBack_mbincLocal (h : Hdr) (n : MbIdx) (b : SI) : ReadBack (.mbincLocal h n b) := by
  refine readBack_of_form rfl rfl id (operand_opMb rfl n) (operand_noOp (by decide)) (operand_opSI rfl rfl b) c_noOp (fun _ => ?_) (fun _ => ?_)
  · rw [form_d, cls_opMb, show decide ((5 : BitVec 3) = 5) = true from rfl, regMb_mh, if_neg (opMb_ne_noOp n)]
    rfl
  · simp only [form_d, if_neg (opMb_ne_noOp n), form_hdr, form_extReg_mh, mbOf_opMb, form_b, siOf_opSI]

theorem readBack_mbincRemote (h : Hdr) (a : SReg) (b : SI) : ReadBack (.mbincRemote h a b) := by
  refine readBack_of_form rfl rfl id (operand_noOp (by decide)) (operand_opS rfl a) (operand_opSI rfl rfl b) c_noOp (fun _ => ?_) (fun _ => ?_)
  · rw [regMb, regU_plain _ rfl, form_d, if_pos rfl, form_extReg_mh, form_a, decide_eq_false (opS_ne_noOp a)]
    rfl
  · simp only [form_d, if_pos, form_hdr, form_a, regS_opS, form_b, siOf_opSI]

/-- The checks of a barrier form that takes no count. -/
theorem bar_more {h : Hdr} {M : BitVec 8} {m : BitVec 4} {d a : BitVec 8} {fn : BitVec 8} (hm : fn &&& ~~~(0x03 : BitVec 8) = 0)
    (hp : fn.extractLsb' 0 2 ≠ 2) : (fun r : Raw => regN 0x03 r ++ (if r.part = 2 then flag (decide (r.b = noOp)) .cls
      else flag (decide (r.b ≠ noOp)) .reserved)) (h.form M m d a noOp (extReg false 0 0 fn noOp)) = [] := by
  dsimp only
  rw [regN_plain _ hm, Raw.part, form_extReg_fn, if_neg hp]
  rfl

theorem readBack_barArr (h : Hdr) (d : SReg) (a : SI) : ReadBack (.barArr h d a) :=
  readBack_of_form rfl rfl ok_of_and (operand_opS rfl d) (operand_opSI rfl rfl a) (operand_noOp (by decide)) c_noOp
    (fun _ => bar_more rfl (by decide)) (fun _ => by
      simp only [Raw.part, form_extReg_fn, form_hdr, form_d, form_a, regS_opS, siOf_opSI]
      rfl)

theorem readBack_barSig (h : Hdr) (d : SReg) (a : SI) : ReadBack (.barSig h d a) :=
  readBack_of_form rfl rfl ok_of_and (operand_opS rfl d) (operand_opSI rfl rfl a) (operand_noOp (by decide)) c_noOp
    (fun _ => bar_more rfl (by decide)) (fun _ => by
      simp only [Raw.part, form_extReg_fn, form_hdr, form_d, form_a, regS_opS, siOf_opSI]
      rfl)

theorem readBack_barRd (h : Hdr) (d : SReg) (a : SI) : ReadBack (.barRd h d a) :=
  readBack_of_form rfl rfl ok_of_and (operand_opS rfl d) (operand_opSI rfl rfl a) (operand_noOp (by decide)) c_noOp
    (fun _ => bar_more rfl (by decide)) (fun _ => by
      simp only [Raw.part, form_extReg_fn, form_hdr, form_d, form_a, regS_opS, siOf_opSI]
      rfl)

theorem readBack_barCfg (h : Hdr) (d : SReg) (a : SI) (b : SReg) : ReadBack (.barCfg h d a b) := by
  refine readBack_of_form rfl rfl ok_of_and (operand_opS rfl d) (operand_opSI rfl rfl a) (operand_opS rfl b) c_noOp (fun _ => ?_) (fun _ => ?_)
  · rw [regN_plain _ rfl, Raw.part, form_extReg_fn, if_pos (show BitVec.extractLsb' 0 2 (2 : BitVec 8) = 2 from rfl), form_b, decide_eq_false (opS_ne_noOp b)]
    rfl
  · simp only [Raw.part, form_extReg_fn, form_hdr, form_d, form_a, form_b, regS_opS, siOf_opSI]
    rfl

theorem readBack_repart (h : Hdr) (sync : Bool) (d a : SReg) : ReadBack (.repart h sync d a) :=
  readBack_of_form rfl rfl id (operand_opS rfl d) (operand_opS rfl a) (operand_opS rfl 0) c_none
    (fun _ => by rw [engX_extEng sync rfl]; rfl) (fun _ => by simp only [form_hdr, form_extEng_sync, form_d, form_a, regS_opS])

theorem readBack_viewrd (h : Hdr) (part : Fin 8) (d : SReg) (a : Option SReg) : ReadBack (.viewrd h part d a) := by
  have hm : (0#12 ++ fin3 part) &&& ~~~(0x7 : BitVec 15) = 0 := by revert part; decide
  have hp : ((0#12 ++ fin3 part).extractLsb' 0 3).toFin = part := by revert part; decide
  have hle : part.val < 5 → decide (4 < (0#12 ++ fin3 part).toNat) = false := by revert part; decide
  have h3 : (0#12 ++ fin3 part) = 3 ↔ (part == 3) = true := by revert part; decide
  refine readBack_of_form rfl rfl ok_of_and (operand_opS rfl d) (operand_opOptS rfl (by decide) a) (operand_noOp (by decide)) c_none
    (fun hw => ?_) (fun _ => ?_)
  · simp only [Instr.wf, Bool.and_eq_true, decide_eq_true_eq, beq_iff_eq] at hw
    obtain ⟨-, hlt, ha⟩ := hw
    rw [sysX_extSys hm rfl, form_extSys_code, hle hlt, form_a]
    cases a with
    | none =>
      rw [if_neg (by rw [h3]; simp_all)]
      rfl
    | some r =>
      rw [if_pos (by rw [h3]; simp_all), opOptS, decide_eq_false (opS_ne_noOp r)]
      rfl
  · simp only [form_hdr, form_extSys_code, hp, form_d, form_a, regS_opS, optS_opOptS]

/-! ## Branches -/

@[simp] theorem form_brOff {h : Hdr} {M : BitVec 8} {m : BitVec 4} {d a b : BitVec 8} (x : BitVec 8) (off : BitVec 40) :
    (h.form M m d a b (x ++ off)).brOff = off := extractLsb'_append_low x off

@[simp] theorem form_brFn {h : Hdr} {M : BitVec 8} {m : BitVec 4} {d a b : BitVec 8} (x : BitVec 8) (off : BitVec 40) :
    (h.form M m d a b (x ++ off)).brFn = x := extractLsb'_append_high x off

theorem brnX_append {h : Hdr} {M : BitVec 8} {m : BitVec 4} {d a b : BitVec 8} {mask x : BitVec 8} (off : BitVec 40) (hx : x &&& ~~~mask = 0) :
    brnX mask (h.form M m d a b (x ++ off)) = [] := by
  rw [brnX, form_brFn, hx]
  rfl

/-- A branch form reads its instruction back from its operands, its function byte and its offset. -/
theorem readBack_brn {i : Instr} {h : Hdr} {M : BitVec 8} {m : BitVec 4} {d a b x mask : BitVec 8} {off : BitVec 40} {cd ca cb : List Cls}
    {hints : Hints} {build : Raw → Instr} (hraw : i.raw = some (h.form M m d a b (x ++ off)))
    (hrow : (rowsOf M.toNat)[m.toNat]? = some ⟨cd, ca, cb, none, hints, brnX mask, build⟩)
    (hh : i.wf → h.ok hints.br hints.ev hints.roam hints.rep) (hd : operand cd d = []) (ha : operand ca a = []) (hb : operand cb b = [])
    (hx : x &&& ~~~mask = 0)
    (hi : ∀ r : Raw, r.hdr = h → r.d = d → r.a = a → r.b = b → r.brFn = x → r.brOff = off → build r = i) : ReadBack i :=
  readBack_of_form hraw hrow hh hd ha hb c_none (fun _ => brnX_append off hx)
    (fun _ => hi _ (form_hdr ..) rfl rfl rfl (form_brFn x off) (form_brOff x off))

theorem readBack_bcast (h : Hdr) (a : SReg) (len1 : Fin 8) (off : BitVec 40) : ReadBack (.bcast h a len1 off) := by
  have hm : (0#5 ++ fin3 len1) &&& ~~~(0x07 : BitVec 8) = 0 := by revert len1; decide
  have hl : ((0#5 ++ fin3 len1).extractLsb' 0 3).toFin = len1 := by revert len1; decide
  exact readBack_brn rfl rfl id (operand_noOp (by decide)) (operand_opS rfl a) (operand_noOp (by decide)) hm
    fun r hhdr _ ha _ hfn hoff => by simp only [hhdr, ha, hfn, hoff, hl, regS_opS]

theorem readBack_fetchb (h : Hdr) (q : Fin 2) (len1 : Fin 8) (off : BitVec 40) : ReadBack (.fetchb h q len1 off) := by
  have hm : (0#4 ++ fin1 q ++ fin3 len1) &&& ~~~(0x0F : BitVec 8) = 0 := by revert q len1; decide
  have hq : ((0#4 ++ fin1 q ++ fin3 len1).extractLsb' 3 1).toFin = q := by revert q len1; decide
  have hl : ((0#4 ++ fin1 q ++ fin3 len1).extractLsb' 0 3).toFin = len1 := by revert q len1; decide
  exact readBack_brn rfl rfl id (operand_noOp (by decide)) (operand_noOp (by decide)) (operand_noOp (by decide)) hm
    fun r hhdr _ _ _ hfn hoff => by simp only [hhdr, hfn, hoff, hq, hl]

theorem readBack_slpoll (h : Hdr) (part : Fin 4) (d a : SReg) : ReadBack (.slpoll h part d a) := by
  obtain ⟨hm, hp⟩ := part_field part
  refine readBack_of_form rfl rfl ok_of_and (operand_opS rfl d) (operand_opS rfl a) (operand_noOp (by decide)) c_noOp
    (fun _ => regN_plain _ hm) (fun _ => ?_)
  simp only [form_hdr, Raw.part, form_extReg_fn, hp, form_d, form_a, regS_opS]

/-! ## Tasks -/

theorem readBack_fork (h : Hdr) (prio : Fin 4) (pin : Bool) (d : KReg) (a b : SReg) (off : BitVec 40) :
    ReadBack (.fork h prio pin d a b off) := by
  have hm : (0#5 ++ BitVec.ofBool pin ++ fin2 prio) &&& ~~~(0x07 : BitVec 8) = 0 := by revert prio pin; decide
  have hpin : (0#5 ++ BitVec.ofBool pin ++ fin2 prio).getLsbD 2 = pin := by revert prio pin; decide
  have hp : ((0#5 ++ BitVec.ofBool pin ++ fin2 prio).extractLsb' 0 2).toFin = prio := by revert prio pin; decide
  exact readBack_brn rfl rfl id (operand_opK rfl d) (operand_opS rfl a) (operand_opS rfl b) hm
    fun r hhdr hd ha hb hfn hoff => by simp only [hhdr, hd, ha, hb, hfn, hoff, hpin, hp, regK_opK, regS_opS]

theorem readBack_tqpop (h : Hdr) (nw : Bool) (mask : BitVec 4) (d a : SReg) : ReadBack (.tqpop h nw mask d a) := by
  have hm : (0#3 ++ mask ++ BitVec.ofBool nw) &&& ~~~(0x1F : BitVec 8) = 0 := by revert mask nw; decide
  have h0 : (0#3 ++ mask ++ BitVec.ofBool nw).getLsbD 0 = nw := by revert mask nw; decide
  have hk : (0#3 ++ mask ++ BitVec.ofBool nw).extractLsb' 1 4 = mask := by revert mask nw; decide
  refine readBack_of_form rfl rfl id (operand_opS rfl d) (operand_opS rfl a) (operand_noOp (by decide)) c_noOp
    (fun _ => regT_plain hm) (fun _ => ?_)
  simp only [form_hdr, form_extReg_fn, h0, hk, form_d, form_a, regS_opS]

theorem readBack_tqrd (h : Hdr) (part : Fin 4) (d : SReg) : ReadBack (.tqrd h part d) := by
  obtain ⟨hm, hp⟩ := part_field part
  refine readBack_of_form rfl rfl id (operand_opS rfl d) (operand_noOp (by decide)) (operand_noOp (by decide)) c_noOp
    (fun _ => regT_plain hm) (fun _ => ?_)
  simp only [form_hdr, Raw.part, form_extReg_fn, hp, form_d, regS_opS]

/-! ## Control registers, timers and messages -/

theorem readBack_ctlw (h : Hdr) (c : Fin 18) (a : SReg) : ReadBack (.ctlw h c a) := by
  refine readBack_of_form rfl rfl ok_of_and (operand_opCtl rfl c) (operand_opS rfl a) (operand_noOp (by decide)) c_none
    (fun _ => sysX_zero) (fun hw => ?_)
  have hc : c ≠ 8 := by simpa [Instr.wf] using (Bool.and_eq_true_iff.mp hw).2
  simp only [form_d, form_a, form_hdr, ctlOf_opCtl, if_neg hc, regS_opS]

theorem readBack_ctlx (h : Hdr) (d : SReg) (c : Fin 18) (b : SReg) : ReadBack (.ctlx h d c b) := by
  refine readBack_of_form rfl rfl ok_of_and (operand_opS rfl d) (operand_opCtl rfl c) (operand_opS rfl b) c_none
    (fun _ => sysX_zero) (fun hw => ?_)
  have hc : c ≠ 8 := by simpa [Instr.wf] using (Bool.and_eq_true_iff.mp hw).2
  simp only [form_d, form_a, form_b, form_hdr, ctlOf_opCtl, if_neg hc, regS_opS]

theorem readBack_tmrWrite (h : Hdr) (d : Option SReg) (a : SReg) : ReadBack (.tmrWrite h d a) := by
  cases d with
  | none =>
    exact readBack_of_form rfl rfl id (operand_opCtl rfl 8) (operand_opS rfl a) (operand_noOp (by decide)) c_none (fun _ => sysX_zero)
      (fun _ => by simp only [form_d, form_a, form_hdr, ctlOf_opCtl, if_true, regS_opS])
  | some d =>
    exact readBack_of_form rfl rfl id (operand_opS rfl d) (operand_opCtl rfl 8) (operand_opS rfl a) c_none (fun _ => sysX_zero)
      (fun _ => by simp only [form_d, form_a, form_b, form_hdr, ctlOf_opCtl, if_true, regS_opS])

theorem readBack_smsgMsg (h : Hdr) (a b : SReg) (tag : BitVec 16) : ReadBack (.smsgMsg h a b tag) := by
  have hm : (0#16 ++ tag) &&& ~~~(0xFFFF : BitVec 32) = 0 := by
    rw [show ~~~(0xFFFF : BitVec 32) = 0xFFFF#16 ++ 0#16 from rfl, BitVec.and_append, BitVec.and_zero, BitVec.zero_and]
    rfl
  refine readBack_of_form rfl rfl id (operand_noOp (by decide)) (operand_opS rfl a) (operand_opS rfl b) c_none (fun _ => ?_) (fun _ => ?_)
  · rw [sysX_extSys rfl hm, form_extSys_code]
    rfl
  · simp only [form_extSys_code, if_true, form_hdr, form_a, form_b, regS_opS, form_extSys_imm32, extractLsb'_append_low]

theorem readBack_smsgRes (h : Hdr) (a b : SReg) : ReadBack (.smsgRes h a b) := by
  refine readBack_of_form rfl rfl id (operand_noOp (by decide)) (operand_opS rfl a) (operand_opS rfl b) c_none (fun _ => ?_) (fun _ => ?_)
  · rw [sysX_extSys rfl rfl, form_extSys_code, form_extSys_imm32]
    rfl
  · simp only [form_extSys_code, form_hdr, form_a, form_b, regS_opS]
    rfl

theorem readBack_smsgTrp (h : Hdr) (a b : SReg) : ReadBack (.smsgTrp h a b) := by
  refine readBack_of_form rfl rfl id (operand_noOp (by decide)) (operand_opS rfl a) (operand_opS rfl b) c_none (fun _ => ?_) (fun _ => ?_)
  · rw [sysX_extSys rfl rfl, form_extSys_code, form_extSys_imm32]
    rfl
  · simp only [form_extSys_code, form_hdr, form_a, form_b, regS_opS]
    rfl

theorem and_not_allOnes (n : BitVec 32) : n &&& ~~~(0xFFFFFFFF : BitVec 32) = 0 := BitVec.and_zero

theorem readBack_tmrset (h : Hdr) (d : SReg) (a : Option SReg) (n : BitVec 32) : ReadBack (.tmrset h d a n) := by
  refine readBack_of_form rfl rfl ok_of_and (operand_opS rfl d) (operand_opOptS rfl (by decide) a) (operand_noOp (by decide)) c_none
    (fun hw => ?_) (fun _ => ?_)
  · rw [sysX_extSys rfl (and_not_allOnes n), form_a, form_extSys_imm32]
    cases a with
    | none => rfl
    | some r =>
      have hn : n = 0 := by simpa [Instr.wf] using (Bool.and_eq_true_iff.mp hw).2
      rw [hn]
      simp [flag]
  · simp only [form_hdr, form_d, form_a, regS_opS, optS_opOptS, form_extSys_imm32]

theorem readBack_sleep (h : Hdr) (d : SReg) (mask : BitVec 4) : ReadBack (.sleep h d mask) := by
  have hm : (0#28 ++ mask) &&& ~~~(0xF : BitVec 32) = 0 := by
    rw [show ~~~(0xF : BitVec 32) = 0xFFFFFFF#28 ++ 0#4 from rfl, BitVec.and_append, BitVec.and_zero, BitVec.zero_and]
    rfl
  refine readBack_of_form rfl rfl id (operand_opS rfl d) (operand_noOp (by decide)) (operand_noOp (by decide)) c_none
    (fun _ => sysX_extSys rfl hm) (fun _ => ?_)
  simp only [form_hdr, form_d, regS_opS, form_extSys_imm32, extractLsb'_append_low]

end Sys2Proof
end

section
/-! SUPPORT. Every instruction is read back from its word. -/

namespace Sys2Proof

section
variable {h : Hdr} {M : BitVec 8} {m : BitVec 4} {d a b c : BitVec 8} {x : VMod}

/-- The checks of a vector form that rounds. -/
theorem more_vmod : (fun r : Raw => regX true true 0xF0 r ++ maskX r) (h.form M m d a b (x.ext 0 c)) = [] := by
  dsimp only
  rw [show (0xF0 : BitVec 8) = 0xF#4 ++ 0#4 from rfl, regX_vmod _ _ _ rfl, maskX_vmod]
  rfl

/-- The checks of a vector form that does not round. -/
theorem more_vmod_of_rne (hrm : x.rm = .rne) : (fun r : Raw => regX false true 0x70 r ++ maskX r) (h.form M m d a b (x.ext 0 c)) = [] := by
  dsimp only
  rw [show (0x70 : BitVec 8) = 0x7#4 ++ 0#4 from rfl, regX_vmod_of_rne _ _ _ rfl hrm, maskX_vmod]
  rfl

/-- The checks of a vector form with an unsigned bit. -/
theorem more_vmod_unsigned {u : Bool} (hrm : x.rm = .rne) :
    (fun r : Raw => regX false true 0x71 r ++ maskX r) (h.form M m d a b (x.ext (0#3 ++ BitVec.ofBool u) c)) = [] := by
  dsimp only
  rw [show (0x71 : BitVec 8) = 0x7#4 ++ 1#4 from rfl, regX_vmod_of_rne _ _ _ (unsigned_and_not u) hrm, maskX_vmod]
  rfl

theorem form_unsigned {u : Bool} : (h.form M m d a b (x.ext (0#3 ++ BitVec.ofBool u) c)).fn.getLsbD 0 = u := by
  rw [form_vmod_bit]
  cases u <;> rfl
end

theorem readBack (i : Instr) : ReadBack i := by
  cases i
  case add | sub | mul | mulh | umulh | div | udiv | rem | urem | min | max | umin | umax | and | or | xor | andn | orn | shl | shr | sra | rol | ror =>
    exact readBack_of_form rfl rfl id (operand_opS rfl _) (operand_opS rfl _) (operand_opS rfl _) c_noOp
      (fun _ => regX_plain _ rfl) (fun _ => by simp)
  case madd | msub | sel =>
    exact readBack_of_form rfl rfl id (operand_opS rfl _) (operand_opS rfl _) (operand_opS rfl _) (by simp (disch := decide))
      (fun _ => regX_plain _ rfl) (fun _ => by simp)
  case clz | ctz | popc | bswap | fflg | fenw =>
    exact readBack_of_form rfl rfl id (operand_opS rfl _) (operand_opS rfl _) (operand_noOp (by decide)) c_noOp
      (fun _ => regX_plain _ rfl) (fun _ => by simp)
  case addi | andi | ori | xori =>
    exact readBack_of_form rfl rfl id (operand_opS rfl _) (operand_opS rfl _) (operand_noOp (by decide)) c_none
      (fun _ => rfl) (fun _ => by simp)
  case shli | shri | srai =>
    exact readBack_shift rfl rfl id
  case li =>
    exact readBack_of_form rfl rfl id (operand_opS rfl _) (operand_noOp (by decide)) (operand_noOp (by decide)) c_none
      (fun _ => rfl) (fun _ => by simp)
  case pand | por | pxor | pandn =>
    exact readBack_of_form rfl rfl id (operand_opK rfl _) (operand_opK rfl _) (operand_opK rfl _) c_noOp
      (fun _ => regX_plain _ rfl) (fun _ => by simp)
  case psetbAll => apply readBack_psetbAll
  case pgetbAll => apply readBack_pgetbAll
  case fadd | fsub | fmul | fdiv =>
    exact readBack_of_form rfl rfl ok_of_and (operand_opF rfl _) (operand_opF rfl _) (operand_opF rfl _) c_noOp
      (fun _ => regX_rounding _ _ _ (Rnd.dynBit_getLsbD _) (dynBit_and_not _)) (fun _ => by simp)
  case fsqrt =>
    exact readBack_of_form rfl rfl ok_of_and (operand_opF rfl _) (operand_opF rfl _) (operand_noOp (by decide)) c_noOp
      (fun _ => regX_rounding _ _ _ (Rnd.dynBit_getLsbD _) (dynBit_and_not _)) (fun _ => by simp)
  case fmin | fmax =>
    exact readBack_of_form rfl rfl ok_of_and (operand_opF rfl _) (operand_opF rfl _) (operand_opF rfl _) c_noOp
      (fun _ => regX_typed _ _ rfl) (fun _ => by simp)
  case ffma | ffms | fnma =>
    exact readBack_of_form rfl rfl ok_of_and (operand_opF rfl _) (operand_opF rfl _) (operand_opF rfl _) (by simp (disch := decide))
      (fun _ => regX_rounding _ _ _ (Rnd.dynBit_getLsbD _) (dynBit_and_not _)) (fun _ => by simp)
  case fabs | fneg =>
    exact readBack_of_form rfl rfl ok_of_and (operand_opF rfl _) (operand_opF rfl _) (operand_noOp (by decide)) c_noOp
      (fun _ => regX_typed _ _ rfl) (fun _ => by simp)
  case fclass =>
    exact readBack_of_form rfl rfl ok_of_and (operand_opS rfl _) (operand_opF rfl _) (operand_noOp (by decide)) c_noOp
      (fun _ => regX_typed _ _ rfl) (fun _ => by simp)
  case fsel =>
    exact readBack_of_form rfl rfl id (operand_opF rfl _) (operand_opF rfl _) (operand_opF rfl _) (by simp (disch := decide))
      (fun _ => regX_plain _ rfl) (fun _ => by simp)
  case fmvs =>
    exact readBack_of_form rfl rfl id (operand_opS rfl _) (operand_opF rfl _) (operand_noOp (by decide)) c_noOp
      (fun _ => regX_plain _ rfl) (fun _ => by simp)
  case fmvf =>
    exact readBack_of_form rfl rfl id (operand_opF rfl _) (operand_opS rfl _) (operand_noOp (by decide)) c_noOp
      (fun _ => regX_plain _ rfl) (fun _ => by simp)
  case ldl | ldg =>
    exact readBack_of_form rfl rfl ok_of_and (operand_opSF rfl rfl _) (operand_opS rfl _) (operand_noOp (by decide)) c_none
      (fun _ => memX_memExt ..) (fun _ => by simp)
  case stl | stg =>
    exact readBack_of_form rfl rfl ok_of_and (operand_noOp (by decide)) (operand_opS rfl _) (operand_opSF rfl rfl _) c_none
      (fun _ => memX_memExt ..) (fun _ => by simp)
  case ldlv | ldgv =>
    exact readBack_of_form rfl rfl ok_of_and (operand_opV rfl _) (operand_opS rfl _) (operand_noOp (by decide)) c_none
      (fun _ => memX_memExt ..) (fun _ => by simp)
  case stlv | stgv =>
    exact readBack_of_form rfl rfl ok_of_and (operand_noOp (by decide)) (operand_opS rfl _) (operand_opV rfl _) c_none
      (fun _ => memX_memExt ..) (fun _ => by simp)
  case ldlp | tagrd =>
    exact readBack_of_form rfl rfl ok_of_and (operand_opS rfl _) (operand_opS rfl _) (operand_noOp (by decide)) c_none
      (fun _ => memX_memExt ..) (fun _ => by simp)
  case ldf | ldfe | rld =>
    exact readBack_of_form rfl rfl ok_of_and (operand_opSFV rfl rfl rfl _) (operand_opS rfl _) (operand_noOp (by decide)) c_none
      (fun _ => memX_memExt ..) (fun _ => by simp)
  case stwe | rst =>
    exact readBack_of_form rfl rfl ok_of_and (operand_noOp (by decide)) (operand_opS rfl _) (operand_opSFV rfl rfl rfl _) c_none
      (fun _ => memX_memExt ..) (fun _ => by simp)
  case sete | setf =>
    exact readBack_of_form rfl rfl ok_of_and (operand_noOp (by decide)) (operand_opS rfl _) (operand_noOp (by decide)) c_none
      (fun _ => memX_memExt ..) (fun _ => by simp)
  case lamo | amo =>
    exact readBack_of_form rfl rfl ok_of_and (operand_opS rfl _) (operand_opS rfl _) (operand_opS rfl _) c_none
      (fun _ => amoX_amoExt ..) (fun _ => by simp)
  case lamox | amox | ramoPosted =>
    exact readBack_of_form rfl rfl ok_of_and (operand_noOp (by decide)) (operand_opS rfl _) (operand_opS rfl _) c_none
      (fun _ => amoX_amoExt ..) (fun _ => by simp)
  case lamocas | amocas | ramocas =>
    exact readBack_of_form rfl rfl ok_of_and (operand_opS rfl _) (operand_opS rfl _) (operand_opS rfl _) c_none
      (fun _ => casX_amoExt ..) (fun _ => by simp)
  case commit =>
    exact readBack_of_form rfl rfl id (operand_opS rfl _) (operand_opS rfl _) (operand_opS rfl _) c_none
      (fun _ => bareX_offset ..) (fun _ => by simp)
  case decommit | xlat =>
    exact readBack_of_form rfl rfl id (operand_opS rfl _) (operand_opS rfl _) (operand_noOp (by decide)) c_none
      (fun _ => bareX_offset ..) (fun _ => by simp)
  case palloc | pfree | mwait | slhalt | slwait =>
    exact readBack_of_form rfl rfl id (operand_opS rfl _) (operand_opS rfl _) (operand_noOp (by decide)) c_noOp
      (fun _ => regN_plain _ rfl) (fun _ => by simp)
  case tstore =>
    exact readBack_of_form rfl rfl ok_of_and (operand_noOp (by decide)) (operand_opS rfl _) (operand_opOptS rfl (by decide) _) c_none
      (fun hw => tileX_tile (verOk_of_wf hw)) (fun _ => by simp)
  case tload | tloadt =>
    exact readBack_of_form rfl rfl ok_of_and (operand_opS rfl _) (operand_opS rfl _) (operand_opOptS rfl (by decide) _) c_none
      (fun hw => tileX_tile (verOk_of_wf hw)) (fun _ => by simp)
  case tpoll | tfloor =>
    exact readBack_of_form rfl rfl ok_of_and (operand_opS rfl _) (operand_opS rfl _) (operand_opOptS rfl (by decide) _) c_none
      (fun hw => tileX_extTile (Bool.and_eq_true_iff.mp hw).2 (fun _ => rfl) (fun _ => rfl) (fun _ => rfl)) (fun _ => by simp)
  case tdrop =>
    exact readBack_of_form rfl rfl ok_of_and (operand_opS rfl _) (operand_opS rfl _) (operand_opOptS rfl (by decide) _) c_none
      (fun hw => tileX_extTile (Bool.and_eq_true_iff.mp hw).2 (fun _ => rfl) (fun _ => rfl) nofun) (fun _ => by simp)
  case tref =>
    exact readBack_of_form rfl rfl ok_of_and (operand_opS rfl _) (operand_opS rfl _) (operand_opOptS rfl (by decide) _) c_none
      (fun hw => tileX_extTile (ok_of_and (Bool.and_eq_true_iff.mp hw).2) (fun _ => rfl) (fun _ => rfl) nofun) (fun _ => by simp)
  case tinfo | tdel =>
    exact readBack_of_form rfl rfl id (operand_opS rfl _) (operand_opS rfl _) (operand_noOp (by decide)) c_none
      (fun _ => tileX_zero) (fun _ => by simp)
  case tlimit =>
    exact readBack_of_form rfl rfl ok_of_and (operand_opS rfl _) (operand_opS rfl _) (operand_noOp (by decide)) c_none
      (fun _ => tileX_noVersion _) (fun _ => by simp)
  case cpy | cpyt | qdual | coll | spawn | spawndPage | spawndTile | tqpush =>
    exact readBack_of_form rfl rfl id (operand_opS rfl _) (operand_opS rfl _) (operand_opS rfl _) c_none
      (fun _ => engX_extEng _ rfl) (fun _ => by simp)
  case bfmt =>
    exact readBack_of_form rfl rfl ok_of_and (operand_opS rfl _) (operand_opSI rfl rfl _) (operand_opS rfl _) c_noOp
      (fun _ => regN_plain _ rfl) (fun _ => by simp)
  case bfmtr =>
    exact readBack_of_form rfl rfl ok_of_and (operand_opS rfl _) (operand_opSI rfl rfl _) (operand_noOp (by decide)) c_noOp
      (fun _ => regN_plain _ rfl) (fun _ => by simp)
  case tlwait | tlwaitAbort =>
    exact readBack_of_form rfl rfl id (operand_noOp (by decide)) (operand_opTl rfl _) (operand_opS rfl _) c_noOp
      (fun _ => regX_plain _ rfl) (fun _ => by simp)
  case vfadd | vfsub | vfmul | vfdiv =>
    exact readBack_of_form rfl rfl ok_of_and (operand_opV rfl _) (operand_opV rfl _) (operand_opVF rfl rfl _) (form_vmod_c_noOp _ _)
      (fun _ => more_vmod) (fun _ => by simp)
  case vfma | vfms | vfnma =>
    exact readBack_of_form rfl rfl ok_of_and (operand_opV rfl _) (operand_opV rfl _) (operand_opVF rfl rfl _) (by simp (disch := decide))
      (fun _ => more_vmod) (fun _ => by simp)
  case vfmin | vfmax =>
    exact readBack_of_form rfl rfl ok_of_and (operand_opV rfl _) (operand_opV rfl _) (operand_opVF rfl rfl _) (form_vmod_c_noOp _ _)
      (fun hw => more_vmod_of_rne (rne_of_wf hw)) (fun _ => by simp)
  case vfabs | vfneg | vabs | vpopc =>
    exact readBack_of_form rfl rfl ok_of_and (operand_opV rfl _) (operand_opV rfl _) (operand_noOp (by decide)) (form_vmod_c_noOp _ _)
      (fun hw => more_vmod_of_rne (rne_of_wf hw)) (fun _ => by simp)
  case vfsqrt | vexp2 | vlog2 | vrcp | vrsq =>
    exact readBack_of_form rfl rfl ok_of_and (operand_opV rfl _) (operand_opV rfl _) (operand_noOp (by decide)) (form_vmod_c_noOp _ _)
      (fun _ => more_vmod) (fun _ => by simp)
  case vadd | vsub | vmul | vand | vor | vxor | vshl | vshr | vsra =>
    exact readBack_of_form rfl rfl ok_of_and (operand_opV rfl _) (operand_opV rfl _) (operand_opVS rfl rfl _) (form_vmod_c_noOp _ _)
      (fun hw => more_vmod_of_rne (rne_of_wf hw)) (fun _ => by simp)
  case vmulh | vmin | vmax | vdiv | vrem =>
    exact readBack_of_form rfl rfl ok_of_and (operand_opV rfl _) (operand_opV rfl _) (operand_opVS rfl rfl _) (form_vmod_c_noOp _ _)
      (fun hw => more_vmod_unsigned (rne_of_wf hw)) (fun _ => by simp only [form_hdr, form_unsigned, form_vmod, form_d, form_a, form_b,
        regV_opV, vsOf_opVS])
  case vsel =>
    exact readBack_of_form rfl rfl ok_of_and (operand_opV rfl _) (operand_opV rfl _) (operand_opV rfl _) (by simp (disch := decide))
      (fun _ => regX_typed _ _ rfl) (fun _ => by simp)
  case vredadd =>
    exact readBack_of_form rfl rfl ok_of_and (operand_opF rfl _) (operand_opV rfl _) (operand_noOp (by decide)) (form_vmod_c_noOp _ _)
      (fun _ => more_vmod) (fun _ => by simp)
  case vredmax | vredmin =>
    exact readBack_of_form rfl rfl ok_of_and (operand_opF rfl _) (operand_opV rfl _) (operand_noOp (by decide)) (form_vmod_c_noOp _ _)
      (fun hw => more_vmod_of_rne (rne_of_wf hw)) (fun _ => by simp)
  case vrediadd =>
    exact readBack_of_form rfl rfl ok_of_and (operand_opS rfl _) (operand_opV rfl _) (operand_noOp (by decide)) (form_vmod_c_noOp _ _)
      (fun hw => more_vmod_of_rne (rne_of_wf hw)) (fun _ => by simp)
  case vcompress | vexpand | vperm =>
    exact readBack_of_form rfl rfl ok_of_and (operand_opV rfl _) (operand_opV rfl _) (operand_opV rfl _) c_noOp
      (fun _ => regX_typed _ _ rfl) (fun _ => by simp)
  case vslideup | vslidedn =>
    exact readBack_of_form rfl rfl ok_of_and (operand_opV rfl _) (operand_opV rfl _) (operand_opSI rfl rfl _) c_noOp
      (fun _ => regX_typed _ _ rfl) (fun _ => by simp)
  case vins =>
    exact readBack_of_form rfl rfl ok_of_and (operand_opV rfl _) (operand_opSF rfl rfl _) (operand_opSI rfl rfl _) c_noOp
      (fun _ => regX_typed _ _ rfl) (fun _ => by simp)
  case vgath | vscat =>
    exact readBack_of_form rfl rfl ok_of_and (operand_opV rfl _) (operand_opS rfl _) (operand_opV rfl _) c_none
      (fun _ => memX_memExt ..) (fun _ => by simp)
  case mcfgr | slpool =>
    exact readBack_of_form rfl rfl id (operand_opS rfl _) (operand_noOp (by decide)) (operand_noOp (by decide)) c_noOp
      (fun _ => regN_plain _ rfl) (fun _ => by simp)
  case roam =>
    exact readBack_of_form rfl rfl id (operand_noOp (by decide)) (operand_opS rfl _) (operand_noOp (by decide)) c_none
      (fun _ => sysX_zero) (fun _ => by simp)
  case home | stop | nop | eret | icinv | rcinv =>
    exact readBack_of_form rfl rfl id (operand_noOp (by decide)) (operand_noOp (by decide)) (operand_noOp (by decide)) c_none
      (fun _ => sysX_zero) (fun _ => by simp)
  case eqpop | tmrclr =>
    exact readBack_of_form rfl rfl id (operand_opS rfl _) (operand_noOp (by decide)) (operand_noOp (by decide)) c_none
      (fun _ => sysX_zero) (fun _ => by simp)
  case mbwait =>
    exact readBack_of_form rfl rfl id (operand_opMb rfl _) (operand_noOp (by decide)) (operand_opSI rfl rfl _) c_noOp
      (fun _ => regMb_mh _) (fun _ => by simp)
  case mbrd =>
    exact readBack_of_form rfl rfl id (operand_opS rfl _) (operand_opMb rfl _) (operand_noOp (by decide)) c_noOp
      (fun _ => regMb_mh _) (fun _ => by simp)
  case viewack | spill =>
    exact readBack_of_form rfl rfl id (operand_opS rfl _) (operand_opS rfl _) (operand_noOp (by decide)) c_none
      (fun _ => sysX_zero) (fun _ => by simp)
  case br | jal =>
    exact readBack_of_form rfl rfl id (operand_noOp (by decide)) (operand_noOp (by decide)) (operand_noOp (by decide)) c_none
      (fun _ => brnX_append _ rfl) (fun _ => by simp)
  case jr | jalr =>
    exact readBack_of_form rfl rfl id (operand_noOp (by decide)) (operand_opS rfl _) (operand_noOp (by decide)) c_noOp
      (fun _ => regN_plain _ rfl) (fun _ => by simp)
  case brx =>
    exact readBack_of_form rfl rfl id (operand_noOp (by decide)) (operand_opS rfl _) (operand_opS rfl _) c_noOp
      (fun _ => regN_plain _ rfl) (fun _ => by simp)
  case loop =>
    exact readBack_of_form rfl rfl ok_of_and (operand_opS rfl _) (operand_noOp (by decide)) (operand_noOp (by decide)) c_none
      (fun _ => brnX_append _ rfl) (fun _ => by simp)
  case lkput =>
    exact readBack_of_form rfl rfl id (operand_opY rfl _) (operand_opS rfl _) (operand_noOp (by decide)) c_noOp
      (fun _ => regN_plain _ rfl) (fun _ => by simp)
  case lkget =>
    exact readBack_of_form rfl rfl ok_of_and (operand_opS rfl _) (operand_opSI rfl rfl _) (operand_opY rfl _) c_noOp
      (fun _ => regN_plain _ rfl) (fun _ => by simp)
  case slgo =>
    exact readBack_of_form rfl rfl id (operand_opS rfl _) (operand_opS rfl _) (operand_opS rfl _) c_noOp
      (fun _ => regN_plain _ rfl) (fun _ => by simp)
  case pause =>
    exact readBack_of_form rfl rfl id (operand_noOp (by decide)) (operand_opSI rfl rfl _) (operand_noOp (by decide)) c_noOp
      (fun _ => regN_plain _ rfl) (fun _ => by simp)
  case join =>
    exact readBack_of_form rfl rfl id (operand_opS rfl _) (operand_opS rfl _) (operand_opOptS rfl (by decide) _) c_none
      (fun _ => bareX_offset ..) (fun _ => by simp)
  case tqctl =>
    exact readBack_of_form rfl rfl id (operand_opS rfl _) (operand_opS rfl _) (operand_noOp (by decide)) c_noOp
      (fun _ => regT_plain rfl) (fun _ => by simp)
  case trap | brk =>
    exact readBack_of_form rfl rfl id (operand_noOp (by decide)) (operand_noOp (by decide)) (operand_noOp (by decide)) c_none
      (fun _ => sysX_extSys rfl (and_not_allOnes _)) (fun _ => by simp)
  case ctlr =>
    exact readBack_of_form rfl rfl id (operand_opS rfl _) (operand_opCtl rfl _) (operand_noOp (by decide)) c_none
      (fun _ => sysX_zero) (fun _ => by simp)
  case tmrWrite =>
    apply readBack_tmrWrite
  case unspill =>
    exact readBack_of_form rfl rfl id (operand_opS rfl _) (operand_opS rfl _) (operand_opOptS rfl (by decide) _) c_none
      (fun _ => sysX_zero) (fun _ => by simp)
  case cmp => apply readBack_cmp
  case lih => apply readBack_lih
  case lea => apply readBack_lea
  case cmpi => apply readBack_cmpi
  case ext => apply readBack_ext
  case ins => apply readBack_ins
  case psetb => apply readBack_psetb
  case pgetb => apply readBack_pgetb
  case fsgnj => apply readBack_fsgnj
  case fcmp => apply readBack_fcmp
  case fcvt => apply readBack_fcvt
  case fcvti => apply readBack_fcvti
  case ficvt => apply readBack_ficvt
  case fliFp32 => apply readBack_fliFp32
  case fliFp64 => apply readBack_fliFp64
  case pref => apply readBack_pref
  case fence => apply readBack_fence
  case ldres => apply readBack_ldres
  case cmstore => apply readBack_cmstore
  case tlbinv => apply readBack_tlbinv
  case wback => apply readBack_wback
  case tnew => apply readBack_tnew
  case cpyf => apply readBack_cpyf
  case bload => apply readBack_bload
  case sstream => apply readBack_sstream
  case sstop => apply readBack_sstop
  case spos => apply readBack_spos
  case tlrd => apply readBack_tlrd
  case vcmp => apply readBack_vcmp
  case vfcmp => apply readBack_vfcmp
  case vcvt => apply readBack_vcvt
  case vcvts => apply readBack_vcvts
  case vbcastScalar => apply readBack_vbcastScalar
  case vbcastLane => apply readBack_vbcastLane
  case vmovsLane => apply readBack_vmovsLane
  case vmovsCnt => apply readBack_vmovsCnt
  case vmovsBits => apply readBack_vmovsBits
  case vzord => apply readBack_vzord
  case mjob => apply readBack_mjob
  case mma => apply readBack_mma
  case mdrain => apply readBack_mdrain
  case mcfg => apply readBack_mcfg
  case mclr => apply readBack_mclr
  case mabort => apply readBack_mabort
  case ramo => apply readBack_ramo
  case eqrd => apply readBack_eqrd
  case mbincLocal => apply readBack_mbincLocal
  case mbincRemote => apply readBack_mbincRemote
  case barArr => apply readBack_barArr
  case barSig => apply readBack_barSig
  case barCfg => apply readBack_barCfg
  case barRd => apply readBack_barRd
  case repart => apply readBack_repart
  case viewrd => apply readBack_viewrd
  case bcast => apply readBack_bcast
  case fetchb => apply readBack_fetchb
  case slpoll => apply readBack_slpoll
  case fork => apply readBack_fork
  case tqpop => apply readBack_tqpop
  case tqrd => apply readBack_tqrd
  case ctlw => apply readBack_ctlw
  case ctlx => apply readBack_ctlx
  case smsgMsg => apply readBack_smsgMsg
  case smsgRes => apply readBack_smsgRes
  case smsgTrp => apply readBack_smsgTrp
  case tmrset => apply readBack_tmrset
  case sleep => apply readBack_sleep
  all_goals exact readBack_of_raw_eq_none rfl

/-- Settles O56, constructor by constructor: the row at each instruction's opcode passes its word and builds it again. -/
theorem decodeOfEncode : Obligations.DecodeOfEncode := fun i w hwf he => readBack i hwf w he

end Sys2Proof
end

section
/-! SUPPORT. Packets put in flight on a whole module, and what that leaves alone (06 R128, R137, R139). -/

namespace Sys2Proof.Machine

/-- The two states differ at most in what the network holds: packets in flight, pinned flows, the flows' numbers, and the choices drawn. -/
def State.ButNet (s t : State) : Prop := t = { s with net := t.net, pins := t.pins, flowSeq := t.flowSeq, fresh := t.fresh }

section
variable {s t u : State}

theorem State.ButNet.refl (s : State) : s.ButNet s := rfl

theorem State.ButNet.trans (h : s.ButNet t) (h' : t.ButNet u) : s.ButNet u := by
  unfold State.ButNet at *
  rw [h] at h'
  exact h'

theorem State.ButNet.cores (h : s.ButNet t) : t.cores = s.cores := by
  unfold State.ButNet at h
  rw [h]
theorem State.ButNet.mem (h : s.ButNet t) : t.mem = s.mem := by
  unfold State.ButNet at h
  rw [h]
theorem State.ButNet.cur (h : s.ButNet t) : t.cur = s.cur := by
  unfold State.ButNet at h
  rw [h]
theorem State.ButNet.core (h : s.ButNet t) (c : CoreId) : t.core c = s.core c := by rw [State.core, State.core, h.cores]
theorem State.ButNet.slot (h : s.ButNet t) (w : Who) : t.slot w = s.slot w := State.slot_congr h.cores w
end

theorem State.pick_butNet (s : State) (n : Nat) : s.ButNet (s.pick n).2 := by
  unfold State.pick
  split <;> rfl

theorem State.routeFor_butNet (s : State) (p : Packet) : s.ButNet (s.routeFor p).2 := by
  unfold State.routeFor
  cases s.net.find? fun f => f.pkt.sameFlow p with
  | some f => rfl
  | none =>
    dsimp only
    cases srcRouter s.modId p.src with
    | some r =>
      dsimp only
      split
      · rfl
      · exact s.pick_butNet 2
    | none =>
      dsimp only
      split
      · exact s.pick_butNet 8
      · exact (s.pick_butNet 8).trans ((s.pick 8).2.pick_butNet 2)

theorem State.launchPacket_butNet (s : State) (p : Packet) (h : Option Hold) (r : List Hop) : s.ButNet (s.launchPacket p h r) := rfl

/-! ## A whole module takes every packet -/

/-- On a whole module no way is closed and no link is lost, so that a packet is put in flight. -/
theorem State.route_whole {s : State} (hw : s.Whole) (p : Packet) (h : Option Hold) :
    s.route p h = (s.routeFor p).2.launchPacket p h (s.routeFor p).1 := by
  have hno (d : DieId) : (s.dies[d] != .up) = false := by rw [hw.1 d]; rfl
  have hshut : s.shut p = false := by
    simp only [State.shut, State.closed, hno]
    cases (dstRouter p.dst).map (·.1) <;> simp
  have hlink (l : LinkId) : ((s.link l).st == .lost) = false := by
    cases l with
    | nb i => rw [show s.link (.nb i) = s.ucieNb[i] from rfl, (hw.2 i).1]; rfl
    | io i => rw [show s.link (.io i) = s.ucieIo[i] from rfl, (hw.2 i).2]; rfl
  have hlost (r : List Hop) : s.routeLost r = false := by
    refine List.any_eq_false.mpr fun x _ => ?_
    cases x with
    | link l m => simpa using hlink l
    | router => exact Bool.false_ne_true
  unfold State.route
  dsimp only
  rw [hshut, hlost]
  rfl

theorem State.route_butNet {s : State} (hw : s.Whole) (p : Packet) (h : Option Hold) : s.ButNet (s.route p h) := by
  rw [State.route_whole hw]
  exact (s.routeFor_butNet p).trans (State.launchPacket_butNet ..)

/-- Stamping the heads of the buffers changes no packet and none of what holds it back. -/
theorem map_stampHeads (n : Nat) (seen : List (BufId × Bool)) (l : List Flight) :
    (stampHeads n seen l).map (fun f => (f.pkt, f.hold)) = l.map (fun f => (f.pkt, f.hold)) := by
  induction l generalizing seen with
  | nil => rfl
  | cons f l ih =>
    rw [stampHeads]
    split
    · rw [List.map_cons, List.map_cons, ih]
    · split <;> rw [List.map_cons, List.map_cons, ih]

/-- A packet put in flight is in the network. -/
theorem State.exists_flight_launchPacket (s : State) (p : Packet) (h : Option Hold) (r : List Hop) :
    ∃ f ∈ (s.launchPacket p h r).net, f.pkt = p ∧ f.hold = h := by
  have hm : (p, h) ∈ (s.launchPacket p h r).net.map (fun f => (f.pkt, f.hold)) := by
    show (p, h) ∈ (stampHeads _ _ (s.net ++ [_])).map _
    rw [map_stampHeads, List.map_append]
    exact List.mem_append_right _ List.mem_cons_self
  obtain ⟨f, hf, he⟩ := List.mem_map.mp hm
  obtain ⟨hp, hh⟩ := Prod.mk.inj he
  exact ⟨f, hf, hp, hh⟩

theorem State.exists_flight_route {s : State} (hw : s.Whole) (p : Packet) (h : Option Hold) :
    ∃ f ∈ (s.route p h).net, f.pkt = p ∧ f.hold = h := by
  rw [State.route_whole hw]
  exact State.exists_flight_launchPacket ..

/-! ## Only the sleepers of its core note that a slot has gone to pool -/

theorem State.core_wakeSleepers_ne (s : State) {c d : CoreId} (b : Fin 4) (n : d ≠ c) : (s.wakeSleepers c b).core d = s.core d :=
  s.core_modCore_ne c d _ n

theorem State.slot_wakeSleepers_of_core_ne (s : State) {c : CoreId} (b : Fin 4) {w : Who} (n : w.core ≠ c) :
    (s.wakeSleepers c b).slot w = s.slot w := by
  unfold State.slot
  rw [s.core_wakeSleepers_ne b n]

theorem sawEvent_awake (n : Nat) (b : Fin 4) (sl : Slot) (h : ∀ m e r, sl.wait ≠ .sleep m e r) : sawEvent n b sl = sl := by
  unfold sawEvent
  split
  next m e r hw => exact absurd hw (h m e r)
  next => rfl

theorem State.slot_wakeSleepers_awake (s : State) (c : CoreId) (b : Fin 4) (w : Who) (h : ∀ m e r, (s.slot w).wait ≠ .sleep m e r) :
    (s.wakeSleepers c b).slot w = s.slot w := by
  by_cases e : w.core = c
  · rw [← e, s.slot_wakeSleepers, sawEvent_awake _ _ _ h]
  · exact s.slot_wakeSleepers_of_core_ne b e

theorem State.slot_poolEvent_other (s : State) (v w : Who) (h : w.core ≠ v.core ∨ ∀ m e r, (s.slot w).wait ≠ .sleep m e r) :
    (s.poolEvent v).slot w = s.slot w := by
  unfold State.poolEvent
  split
  · rcases h with h | h
    · exact s.slot_wakeSleepers_of_core_ne 2 h
    · exact s.slot_wakeSleepers_awake _ 2 w h
  · rfl

@[simp] theorem State.poolEvent_net (s : State) (w : Who) : (s.poolEvent w).net = s.net := by
  unfold State.poolEvent
  split <;> rfl

@[simp] theorem State.poolEvent_mem (s : State) (w : Who) : (s.poolEvent w).mem = s.mem := by
  unfold State.poolEvent
  split <;> rfl

/-! ## A thread goes home -/

/-- What `sendHome` does to a slot that hosts a thread of another core. -/
theorem State.sendHome_hosting {s : State} {w : Who} {g : Hosting} (hg : (s.slot w).hosting = some g) (why : HomeWhy) (pc : Word) (ro : Bool) :
    s.sendHome w why pc ro = (((s.modSlot w fun sl => { (sl.unpack g.own).toPool false with hosting := none, tbm := 0 }).injectHeld
      ⟨.slot (s.agent w), agentDst s.modId g.home, .notice, .home ((s.slot w).pack g.home g.job pc ro) why⟩ (s.holdOf w)).poolEvent w) := by
  unfold State.sendHome
  dsimp only
  rw [hg]
  rfl

/-- Its slot is in pool with its own registers, its packet is in flight, and no other slot but the core's sleepers sees it. -/
theorem State.sendHome_whole {s : State} {w : Who} {g : Hosting} (hw : s.Whole) (hg : (s.slot w).hosting = some g) (why : HomeWhy) (pc : Word)
    (ro : Bool) :
    let t := s.sendHome w why pc ro
    t.slot w = { ((s.slot w).unpack g.own).toPool false with hosting := none, tbm := 0 } ∧
      (∃ f ∈ t.net, f.pkt.body = .home ((s.slot w).pack g.home g.job pc ro) why) ∧
      (∀ v : Who, v ≠ w → v.core ≠ w.core ∨ (∀ m e r, (s.slot v).wait ≠ .sleep m e r) → t.slot v = s.slot v) ∧ t.mem = s.mem := by
  dsimp only
  rw [State.sendHome_hosting hg]
  generalize hu : (s.modSlot w fun sl => { (sl.unpack g.own).toPool false with hosting := none, tbm := 0 }) = u
  generalize hp : (⟨.slot (s.agent w), agentDst s.modId g.home, .notice, .home ((s.slot w).pack g.home g.job pc ro) why⟩ : Packet) = p
  have huw : u.Whole := hu ▸ hw
  have hb : u.ButNet (u.injectHeld p (s.holdOf w)) := State.route_butNet huw p _
  obtain ⟨f, hf, hpkt, -⟩ := State.exists_flight_route huw p (some (s.holdOf w))
  have hself : u.slot w = { ((s.slot w).unpack g.own).toPool false with hosting := none, tbm := 0 } := by rw [← hu, State.slot_modSlot_self]
  refine ⟨?_, ⟨f, ?_, ?_⟩, fun v hv hs => ?_, ?_⟩
  · rw [State.slot_poolEvent, hb.slot, hself]
    rw [hb.slot, hself]
    exact fun _ => rfl
  · rwa [State.poolEvent_net]
  · rw [hpkt, ← hp]
  · have hother : u.slot v = s.slot v := by rw [← hu]; exact State.slot_modSlot_ne _ _ _ _ hv
    rw [State.slot_poolEvent_other, hb.slot, hother]
    rwa [hb.slot, hother]
  · rw [State.poolEvent_mem, hb.mem, ← hu]
    rfl

/-- An instruction that only a slot on its own core may issue sends a guest home with a trap. -/
theorem trap_guest {s : State} {g : Hosting} (hg : s.me.hosting = some g) (cls sub : Nat) (v : Word) :
    trap s cls sub v = .next (s.sendHome s.cur (.trap cls sub v) s.me.pc) := by
  have : (s.slot s.cur).hosting.isSome = true := by rw [show (s.slot s.cur).hosting = _ from hg]; rfl
  unfold trap State.trapAt
  dsimp only
  rw [if_pos this]

/-- Settles O52: each of these forms is guarded against guests, and the trap sends the thread home. -/
theorem guestTraps : Obligations.GuestTraps := by
  intro h d a b n m x all mdl pg off g s r hg hw
  have guest (k : Out) : homeOnly h s k = .next (s.sendHome s.cur (.trap 9 4 0) s.me.pc) :=
    (homeOnly_guest h s k 9 4 r (by rw [hg]; rfl)).trans (trap_guest hg 9 4 0)
  obtain ⟨hself, hpkt, hothers, hmem⟩ := State.sendHome_whole hw hg (.trap 9 4 0) s.me.pc false
  have goes {i : Instr} {k : Out} (e : exec i s = homeOnly h s k) : ∃ t, exec i s = .next t ∧ (t.slot s.cur).state = .pool ∧
      (t.slot s.cur).hosting = none ∧ (t.slot s.cur).s = g.own.s ∧ (t.slot s.cur).k = g.own.k ∧
      (∃ f ∈ t.net, f.pkt.body = .home (s.me.pack g.home g.job s.me.pc) (.trap 9 4 0)) ∧
      (∀ w : Who, w ≠ s.cur → w.core ≠ s.cur.core ∨ (∀ m e r, (s.slot w).wait ≠ .sleep m e r) → t.slot w = s.slot w) ∧ t.mem = s.mem := by
    refine ⟨_, e.trans (guest k), ?_, ?_, ?_, ?_, hpkt, hothers, hmem⟩
    all_goals rw [hself]
    all_goals rfl
  simp only [List.forall_mem_cons, List.not_mem_nil, false_imp_iff, implies_true, and_true]
  exact ⟨goes rfl, goes rfl, goes rfl, goes rfl, goes rfl, goes rfl, goes rfl, goes rfl, goes rfl, goes rfl, goes rfl, goes rfl, goes rfl,
    goes rfl, goes rfl, goes rfl, goes rfl, goes rfl, goes rfl⟩

end Sys2Proof.Machine
end

section
/-! SUPPORT. Stops, pauses, broadcast blocks, the steward's commands and fetch (15 R314, R320-R330). -/

namespace Sys2Proof.Machine

/-- The slot changed, by any name of it. -/
theorem State.slot_mod_at (s : State) (f : Slot → Slot) {w : Who} (e : s.cur = w) : (s.mod f).slot w = f (s.slot w) :=
  e ▸ s.slot_mod_cur f

/-! ## Several slots of a core changed at once -/

/-- The slots of a list changed, one after the other. -/
def State.modSlots (s : State) (c : CoreId) (l : List (Fin 16)) (f : Slot → Slot) : State := l.foldl (fun s i => s.modSlot ⟨c, i⟩ f) s

@[simp] theorem State.modSlots_cur (s : State) (c : CoreId) (l : List (Fin 16)) (f : Slot → Slot) : (s.modSlots c l f).cur = s.cur := by
  induction l generalizing s with
  | nil => rfl
  | cons i l ih => exact ih (s.modSlot ⟨c, i⟩ f)

/-- The change of the current core's slots, as the steward's instructions write it. -/
theorem State.foldl_modSlot_cur (s : State) (l : List (Fin 16)) (f : Slot → Slot) :
    l.foldl (fun s i => s.modSlot ⟨s.cur.core, i⟩ f) s = s.modSlots s.cur.core l f := by
  induction l generalizing s with
  | nil => rfl
  | cons i l ih => exact ih (s.modSlot ⟨s.cur.core, i⟩ f)

theorem State.slot_modSlots_not_mem (s : State) {c : CoreId} {l : List (Fin 16)} (f : Slot → Slot) {i : Fin 16} (n : i ∉ l) :
    (s.modSlots c l f).slot ⟨c, i⟩ = s.slot ⟨c, i⟩ := by
  induction l generalizing s with
  | nil => rfl
  | cons j l ih =>
    have hj : i ≠ j := fun e => n (e ▸ List.mem_cons_self)
    have hl : i ∉ l := fun h => n (List.mem_cons_of_mem j h)
    exact (ih (s.modSlot ⟨c, j⟩ f) hl).trans (s.slot_modSlot_ne _ _ _ fun e => hj (congrArg Who.slot e))

theorem State.slot_modSlots_mem (s : State) {c : CoreId} {l : List (Fin 16)} (f : Slot → Slot) {i : Fin 16} (d : l.Nodup) (n : i ∈ l) :
    (s.modSlots c l f).slot ⟨c, i⟩ = f (s.slot ⟨c, i⟩) := by
  induction l generalizing s with
  | nil => exact absurd n List.not_mem_nil
  | cons j l ih =>
    obtain ⟨hj, hd⟩ := List.nodup_cons.mp d
    rcases List.mem_cons.mp n with rfl | hi
    · exact ((s.modSlot ⟨c, i⟩ f).slot_modSlots_not_mem f hj).trans (s.slot_modSlot_self _ _)
    · have hne : (⟨c, i⟩ : Who) ≠ ⟨c, j⟩ := fun e => hj ((show i = j from congrArg Who.slot e) ▸ hi)
      exact (ih (s.modSlot ⟨c, j⟩ f) hd hi).trans (congrArg f (s.slot_modSlot_ne _ _ _ hne))

theorem mem_maskSlots {m : BitVec 16} {i : Fin 16} : i ∈ maskSlots m ↔ i ≠ 0 ∧ m.getLsbD i.val = true := by
  simp [maskSlots, List.mem_finRange]

theorem nodup_maskSlots (m : BitVec 16) : (maskSlots m).Nodup := (List.nodup_finRange 16).filter _

/-- What a slot of the core holds once the slots of a mask have been changed. -/
theorem State.slot_modSlots_mask (s : State) (c : CoreId) (m : BitVec 16) (f : Slot → Slot) {i : Fin 16} (z : i ≠ 0) :
    (s.modSlots c (maskSlots m) f).slot ⟨c, i⟩ = if m.getLsbD i.val = true then f (s.slot ⟨c, i⟩) else s.slot ⟨c, i⟩ := by
  split
  next hm => exact s.slot_modSlots_mem f (nodup_maskSlots m) (mem_maskSlots.mpr ⟨z, hm⟩)
  next hm => exact s.slot_modSlots_not_mem f fun h => hm (mem_maskSlots.mp h).2

/-- No mask names the steward. -/
theorem State.slot_modSlots_steward (s : State) (c : CoreId) (m : BitVec 16) (f : Slot → Slot) :
    (s.modSlots c (maskSlots m) f).slot ⟨c, 0⟩ = s.slot ⟨c, 0⟩ :=
  s.slot_modSlots_not_mem f fun h => (mem_maskSlots.mp h).1 rfl

/-! ## Stops and pauses -/

theorem stopsAndPauses : Claims.StopsAndPauses := by
  intro h a w n s
  refine ⟨fun r => ⟨?_, ?_, ?_⟩, fun hq hp hh hw => ?_, fun hw hn => ?_⟩
  · refine ⟨_, homeOnly_runs h s _ _ _ r, ?_⟩
    have e : ((s.mod fun sl => { sl with pc := sl.pc + 1 }).stopSlot s.cur).slot s.cur =
        ({ s.me with pc := s.me.pc + 1 } : Slot).toPool (s.cur.slot == 0) := by
      unfold State.stopSlot
      rw [State.slot_poolEvent]
      · simp [State.slot_modSlot_self, State.slot_mod_cur]
      · simp [Slot.toPool]
    rw [e]
    simp [Slot.toPool, Slot.endStreams]
  · intro z
    exact (homeOnly_runs h s _ _ _ r).trans (if_pos z)
  · intro z
    exact (homeOnly_runs h s _ _ _ r).trans (if_neg z)
  · refine ⟨_, (if_neg (by simp [hq, hp])).trans (if_neg (by simp [hh])), ?_⟩
    have e : (s.stopSlot w).slot w = (s.slot w).toPool false := by
      have hz : (w.slot == 0) = false := by simpa using hw
      unfold State.stopSlot
      rw [hz, State.slot_poolEvent _ _ (by simp [Slot.toPool]), State.slot_modSlot_self]
    simp only [State.slot_modSlot_self, e]
    exact ⟨rfl, rfl, rfl, rfl⟩
  · change execPauseExpiry w s = _
    simp only [execPauseExpiry, hw, if_pos hn]

/-! ## Broadcast blocks -/

theorem Core.blockReady_buf {c : Core} {m : BitVec 16} {b : Word} {len : Nat} (h : c.blockReady m b len = true) :
    ∃ q, c.bufOf b len = some q := by
  simp only [Core.blockReady, Bool.and_eq_true] at h
  exact Option.isSome_iff_exists.mp h.2

/-- A block whose buffer holds it starts on the slots of the mask. -/
theorem State.startBlock_eq (s : State) {w : Who} {m : BitVec 16} {b : Word} {len : Nat} (late : Bool) {q : Fin 2}
    (h : (s.core w.core).bufOf b len = some q) :
    s.startBlock w m b len late = s.modSlots w.core (maskSlots m)
      (·.startBlock q b ((((s.core w.core).blockBuf[q]).map (·.words)).getD []) (s.release w) late) := by
  unfold State.startBlock State.modSlots
  simp only [h]

theorem execBcast_ready {h : Hdr} {a : SReg} {n : Fin 8} {off : BitVec 40} {s : State} (r : AsSteward h s)
    (z : (s.me.rs a).setWidth 16 &&& 0xFFFE ≠ 0)
    (hb : s.myCore.blockReady ((s.me.rs a).setWidth 16) (s.me.pc + off.signExtend 64) (n.val + 1) = true) :
    exec (.bcast h a n off) s =
      retire (s.startBlock s.cur ((s.me.rs a).setWidth 16) (s.me.pc + off.signExtend 64) (n.val + 1) true) id := by
  obtain ⟨q, hq⟩ := Core.blockReady_buf hb
  refine (stewardOnly_runs h s _ r).trans ((if_neg z).trans ?_)
  simp only [target, hq, Option.isSome_some, if_true, if_pos hb]

theorem execBcast_waits {h : Hdr} {a : SReg} {n : Fin 8} {off : BitVec 40} {s : State} (r : AsSteward h s)
    (z : (s.me.rs a).setWidth 16 &&& 0xFFFE ≠ 0) (hq : (s.myCore.bufOf (s.me.pc + off.signExtend 64) (n.val + 1)).isSome = true)
    (hb : s.myCore.blockReady ((s.me.rs a).setWidth 16) (s.me.pc + off.signExtend 64) (n.val + 1) = false) :
    exec (.bcast h a n off) s = .next (((s.modSlots s.cur.core (maskSlots ((s.me.rs a).setWidth 16)) fun sl =>
        if sl.state = .pool then { sl with reserved := true } else sl).park .slotPool
          (.bcast ((s.me.rs a).setWidth 16) (s.me.pc + off.signExtend 64) (n.val + 1))).mod fun sl =>
            { sl with object := ((s.me.rs a).setWidth 16).setWidth 64 }) := by
  refine (stewardOnly_runs h s _ r).trans ((if_neg z).trans ?_)
  rw [← State.foldl_modSlot_cur]
  simp only [target, hq, if_true, hb, Bool.false_eq_true, if_false]

theorem Who.eq_steward {w : Who} (z : w.slot = 0) : w = ⟨w.core, 0⟩ := by
  cases w
  exact congrArg _ z

theorem blocks : Claims.Blocks := by
  intro h a q n off ws c s
  refine ⟨fun r => ⟨fun hw hq => ?_, fun hw => ?_, fun z => ?_, fun z hb => ?_, fun z hq hb => ?_⟩, fun m b len hw hb => ?_⟩
  · refine (stewardOnly_runs h s _ r).trans ?_
    simp only [target, hw, hq, Bool.false_eq_true, if_false]
    rfl
  · refine (stewardOnly_runs h s _ r).trans ?_
    simp only [target, hw]
    rfl
  · exact (stewardOnly_runs h s _ r).trans (if_pos z)
  · obtain ⟨p, hp⟩ := Core.blockReady_buf hb
    refine ⟨_, execBcast_ready r z hb, ?_⟩
    rw [s.startBlock_eq (w := s.cur) true hp]
    have hc := Who.eq_steward r.2
    generalize hf : (fun sl : Slot => sl.startBlock p _ _ _ _) = f
    have hmask : ∀ i : Fin 16, i ≠ 0 → ((s.modSlots s.cur.core (maskSlots ((s.me.rs a).setWidth 16)) f).mod fun sl =>
        (id sl).next).slot ⟨s.cur.core, i⟩ = (s.modSlots s.cur.core (maskSlots ((s.me.rs a).setWidth 16)) f).slot ⟨s.cur.core, i⟩ := by
      intro i hi
      refine State.slot_mod_ne _ _ _ fun e => hi ?_
      rw [State.modSlots_cur] at e
      exact (congrArg Who.slot e).trans r.2
    refine ⟨fun i hi hm => ?_, fun i hi hm => ?_, ?_⟩
    · rw [hmask i hi, State.slot_modSlots_mask _ _ _ _ hi, if_pos hm, ← hf]
      exact ⟨rfl, rfl⟩
    · rw [hmask i hi, State.slot_modSlots_mask _ _ _ _ hi, if_neg (hm ▸ Bool.false_ne_true)]
    · have hm := State.slot_mod_cur (s.modSlots s.cur.core (maskSlots ((s.me.rs a).setWidth 16)) f) fun sl => (id sl).next
      rw [State.modSlots_cur] at hm
      rw [hm, id, Slot.next_pc, State.me, State.modSlots_cur]
      conv => lhs; rw [hc]
      rw [State.slot_modSlots_steward, ← hc]
      rfl
  · refine ⟨_, execBcast_waits r z hq hb, ?_⟩
    have hm := State.slot_mod_cur ((s.modSlots s.cur.core (maskSlots ((s.me.rs a).setWidth 16)) fun sl =>
        if sl.state = .pool then { sl with reserved := true } else sl).park .slotPool
          (.bcast ((s.me.rs a).setWidth 16) (s.me.pc + off.signExtend 64) (n.val + 1))) fun sl =>
            { sl with object := ((s.me.rs a).setWidth 16).setWidth 64 }
    rw [show ∀ (t : State) r w, (t.park r w).cur = t.cur from fun _ _ _ => rfl, State.modSlots_cur] at hm
    rw [hm, State.park, State.me_mod]
    exact ⟨rfl, rfl⟩
  · obtain ⟨p, hp⟩ := Core.blockReady_buf hb
    refine ⟨(s.modSlots c (maskSlots m) fun sl => sl.startBlock p b ((((s.core c).blockBuf[p]).map (·.words)).getD [])
      (s.release ⟨c, 0⟩) false).modSlot ⟨c, 0⟩ fun sl => sl.unpark.next, ?_, fun i hi hm => ?_, ?_⟩
    · change execBlockStart c s = _
      simp only [execBlockStart, hw, hp, Option.isSome_some, if_true, if_pos hb]
      rw [State.startBlock_eq s (w := ⟨c, 0⟩) false hp]
    · rw [State.slot_modSlot_ne _ _ _ _ fun e => hi (congrArg Who.slot e), State.slot_modSlots_mask _ _ _ _ hi, if_pos hm]
      exact ⟨rfl, rfl⟩
    · simp [Slot.unpark]

/-! ## The steward's commands -/

theorem stewardCommand_traps {i : Instr} {h : Hdr} {k : Out} {s : State} (e : exec i s = stewardOnly h s k) (z : s.cur.slot ≠ 0)
    (g : s.me.hosting = none) (n : s.me.state ≠ .handler) : exec i s = .next (s.mod fun sl => sl.takeTrap 1 8 0 sl.pc) :=
  e.trans ((stewardOnly_other h s k z).trans (trap_enters s 1 8 0 g n))

theorem slhalt_runs {h : Hdr} {d a : SReg} {s : State} (r : AsSteward h s) : exec (.slhalt h d a) s =
    retire (s.modSlots s.cur.core (maskSlots ((s.me.rs a).setWidth 16)) fun sl =>
      if sl.state = .pool then sl else { sl with haltReq := true, haltNow := sl.haltNow || decide (sl.state ≠ .handler) })
      fun sl => sl.ws d (s.myCore.busyMask ((s.me.rs a).setWidth 16)) := by
  refine (stewardOnly_runs h s _ r).trans ?_
  rw [← State.foldl_modSlot_cur]

theorem steward : Claims.Steward := by
  intro h d a b p q n off s
  refine ⟨fun r => ⟨fun z => ?_, fun z hb => ?_, fun z hp hr => ?_, ?_, fun z => ?_, fun z => ?_, ?_, ?_⟩, fun z g hn => ?_⟩
  · exact (stewardOnly_runs h s _ r).trans (if_pos z)
  · refine (stewardOnly_runs h s _ r).trans ((if_neg z).trans (if_pos ?_))
    exact hb
  · refine ⟨_, (stewardOnly_runs h s _ r).trans ((if_neg z).trans (if_neg ?_)), ?_⟩
    · exact not_or.mpr ⟨Classical.not_not.mpr hp, hr ▸ Bool.false_ne_true⟩
    · have hne : (⟨s.cur.core, Fin.ofNat 16 (s.me.rs a).toNat⟩ : Who) ≠ s.cur := fun e => z ((congrArg Who.slot e).trans r.2)
      generalize (⟨s.cur.core, Fin.ofNat 16 (s.me.rs a).toNat⟩ : Who) = w at hne ⊢
      rw [State.slot_mod_ne (State.modSlot _ _ _) _ w hne, State.slot_modSlot_self, State.slot_mod_at (State.modSlot _ _ _) _ (w := s.cur) rfl,
        State.slot_modSlot_ne _ _ _ _ hne.symm]
      refine ⟨rfl, rfl, rfl, fun hd => ?_, ?_⟩
      · rw [Slot.rs_next, Slot.rs_ws _ _ _ hd]
      · rw [Slot.next_pc, Slot.ws_pc]
        rfl
  · refine ⟨_, slhalt_runs r, ?_⟩
    generalize hf : (fun sl : Slot => if sl.state = .pool then sl else _) = f
    have hc := Who.eq_steward r.2
    have hm := State.slot_mod_cur (s.modSlots s.cur.core (maskSlots ((s.me.rs a).setWidth 16)) f) fun sl =>
      (sl.ws d (s.myCore.busyMask ((s.me.rs a).setWidth 16))).next
    have hme : (s.modSlots s.cur.core (maskSlots ((s.me.rs a).setWidth 16)) f).me = s.me := by
      rw [State.me, State.modSlots_cur]
      conv => lhs; rw [hc]
      rw [State.slot_modSlots_steward, ← hc]
      rfl
    rw [State.modSlots_cur, hme] at hm
    rw [hm, Slot.rs_next, Slot.next_pc, Slot.ws_pc]
    refine ⟨fun hd => Slot.rs_ws _ _ _ hd, rfl, fun i hi => ?_⟩
    rw [State.slot_mod_ne _ _ _ (by
      rw [State.modSlots_cur]
      exact fun e => hi ((congrArg Who.slot e).trans r.2)), State.slot_modSlots_mask _ _ _ _ hi, ← hf]
    generalize ((s.me.rs a).setWidth 16).getLsbD i.val = named
    cases named
    case false => simp
    case true => by_cases hs : (s.slot ⟨s.cur.core, i⟩).state = .pool <;> simp [hs]
  · exact (stewardOnly_runs h s _ r).trans (if_pos z)
  · exact (stewardOnly_runs h s _ r).trans (if_neg z)
  · exact stewardOnly_runs h s _ r
  · exact stewardOnly_runs h s _ r
  · simp only [List.forall_mem_cons, List.not_mem_nil, false_imp_iff, implies_true, and_true]
    exact ⟨stewardCommand_traps (h := h) rfl z g hn, stewardCommand_traps (h := h) rfl z g hn, stewardCommand_traps (h := h) rfl z g hn,
      stewardCommand_traps (h := h) rfl z g hn, stewardCommand_traps (h := h) rfl z g hn, stewardCommand_traps (h := h) rfl z g hn,
      stewardCommand_traps (h := h) rfl z g hn⟩

/-! ## Fetch -/

/-- A slot that waits for words has no translation on its way to it. -/
theorem Slot.missing_of_fetchPcs {sl : Slot} {pc : Word} (h : pc ∈ fetchPcs sl) : sl.missing = [] := by
  unfold fetchPcs at h
  unfold Slot.missing
  split
  next va n k c hw =>
    rw [hw] at h
    exact absurd h List.not_mem_nil
  next => rfl

/-- Translations that arrive change the cores alone, and neither the launch of a core nor a slot that waits for none. -/
def State.SameBut (s t : State) (w : Who) : Prop :=
  t = { s with cores := t.cores } ∧ t.slot w = s.slot w ∧ (t.core w.core).launch = (s.core w.core).launch

theorem State.takeWalks_sameBut (s : State) {v w : Who} (rs : List (Nat × Walk)) (n : w ≠ v) : s.SameBut (s.takeWalks v rs) w := by
  refine ⟨rfl, ?_, ?_⟩
  · exact (State.slot_modSlot_ne _ _ _ _ n).trans (State.slot_modCore rfl w)
  · by_cases hc : w.core = v.core
    · rw [State.takeWalks, hc, State.core_modSlot_self, State.core_modCore_self]
      rfl
    · rw [State.takeWalks, State.core_modSlot_ne _ _ _ _ hc, State.core_modCore_ne _ _ _ _ hc]

theorem State.SameBut.trans {s t u : State} {w : Who} (h : s.SameBut t w) (h' : t.SameBut u w) : s.SameBut u w := by
  obtain ⟨ht, hs, hl⟩ := h
  obtain ⟨hu, hs', hl'⟩ := h'
  refine ⟨?_, hs'.trans hs, hl'.trans hl⟩
  rw [ht] at hu
  exact hu

theorem State.shareWalks_sameBut (s : State) (st : Fin 6) (root : Word) (rs : List (Nat × Walk)) {w : Who}
    (m : (s.slot w).missing = []) : s.SameBut (s.shareWalks st root rs) w := by
  unfold State.shareWalks
  generalize s.allSlots.filter _ = l
  induction l generalizing s with
  | nil => exact ⟨rfl, rfl, rfl⟩
  | cons v l ih =>
    rw [List.foldl_cons]
    dsimp only
    split
    next => exact ih s m
    next hps =>
      have n : w ≠ v := by
        rintro rfl
        simp [m] at hps
      have hv := s.takeWalks_sameBut (rs.filter fun r => decide (r.1 ∈ (s.slot v).missing.filter fun p => rs.any (·.1 == p))) n
      exact hv.trans (ih _ (hv.2.1 ▸ m))

theorem State.SameBut.fetchWord {s t : State} {w : Who} (h : s.SameBut t w) (pc : Word) : t.fetchWord w pc = s.fetchWord w pc := by
  obtain ⟨ht, hs, hl⟩ := h
  have hr : t.rootOf w = s.rootOf w := by
    unfold State.rootOf State.launchOf State.jobLaunches
    rw [hs, hl, ht]
  unfold State.fetchWord
  rw [hr, ht]
  rfl

theorem Core.mem_cacheWord (c : Core) (pc : Word) (x : IWord) : (pc, x) ∈ (c.cacheWord pc x).icache := by
  unfold Core.cacheWord
  generalize c.icache.filter _ = l
  rw [List.mem_drop_iff_getElem]
  refine ⟨min l.length 1364, ?_, ?_⟩
  · simp
    omega
  · rw [List.getElem_append_right (by simp)]
    simp

theorem fetchEvents : Claims.FetchEvents := by
  intro w pc x sub va s
  refine ⟨fun hp hx => ?_, fun g n => ⟨?_, trap_enters s 1 sub.val 0 g n⟩⟩
  · have hs := s.shareWalks_sameBut w.core.stack (s.rootOf w) (s.walks (s.rootOf w) (pagesOf (pc * 12).toNat 12))
      (Slot.missing_of_fetchPcs hp)
    refine ⟨(s.shareWalks w.core.stack (s.rootOf w) (s.walks (s.rootOf w) (pagesOf (pc * 12).toNat 12))).modCore w.core
      (·.cacheWord pc x), ?_, ?_, ?_⟩
    · change execFetchFill w pc s = _
      unfold execFetchFill
      simp only [if_pos hp, hx, hs.fetchWord]
    · rw [State.core_modCore_self]
      exact Core.mem_cacheWord _ _ _
    · exact (State.slot_modCore (f := (·.cacheWord pc x)) (by rw [Core.cacheWord]) w).trans hs.2.1
  · change Host.Outcome.next _ = _
    rw [State.trapAt_enters _ _ _ _ _ _ (by rw [State.slot_mod_cur]; exact g) (by rw [State.slot_mod_cur]; exact n)]
    exact congrArg Host.Outcome.next ((State.mod_mod s _ _).trans (State.mod_congr _ _ _ rfl))

end Sys2Proof.Machine

namespace Sys2Proof.Machine

/-- Settles O40: from the behaviour of each operation, the slots of a mask changed by one lemma. -/
theorem stewardInstructions : Obligations.StewardInstructions := ⟨stopsAndPauses, blocks, steward, fetchEvents⟩

end Sys2Proof.Machine
end

section
/-! SUPPORT. What memory writes and arriving packets leave alone (04 R80, 06 R128). -/

namespace Sys2Proof.Machine

/-! ## Memory -/

theorem Memory.get_eq_getElem_read (m : Memory) (a n i : Nat) (h : i < n) :
    (m.read a n)[i]'(by rw [Memory.read_length]; exact h) = m.get (a + i) := by
  induction n generalizing a i with
  | zero => exact absurd h (Nat.not_lt_zero i)
  | succ n ih =>
    cases i with
    | zero => rfl
    | succ i =>
      simp only [Memory.read, List.getElem_cons_succ]
      rw [ih (a + 1) i (by omega)]
      congr 1
      omega

/-- Bytes written are read back. -/
theorem Memory.read_write_self (m : Memory) (a : Nat) (bs : List Byte) (h : m.wf = true) : (m.write a bs).read a bs.length = bs := by
  refine List.ext_getElem (Memory.read_length _ _ _) fun i h1 h2 => ?_
  rw [Memory.get_eq_getElem_read _ _ _ _ h2, Memory.get_write _ _ _ _ h, dif_pos ⟨Nat.le_add_right a i, by omega⟩]
  simp

theorem leBytes_length (n x : Nat) : (leBytes n x).length = n := by
  induction n generalizing x with
  | zero => rfl
  | succ n ih => simp [leBytes, ih]

@[simp] theorem State.raise_cores (s : State) (k : EventKind) (die : DieId) (l : List Nat) : (s.raise k die l).cores = s.cores := by
  unfold State.raise State.queueEvents
  dsimp only
  split <;> rfl

@[simp] theorem State.writeWord_cores (s : State) (pa : Nat) (bs : List Byte) (through : Bool) :
    (s.writeWord pa bs through).cores = s.cores := by
  unfold State.writeWord
  dsimp only
  split
  · exact State.raise_cores _ _ _ _
  · rfl

/-- A fold of steps that keep the cores keeps them. -/
theorem foldl_cores {α : Type} {f : State → α → State} (h : ∀ s a, (f s a).cores = s.cores) (l : List α) (s : State) :
    (l.foldl f s).cores = s.cores := by
  induction l generalizing s with
  | nil => rfl
  | cons a l ih => exact (ih (f s a)).trans (h s a)

@[simp] theorem State.gwrite_cores (s : State) (pa : Nat) (bs : List Byte) (through : Bool) : (s.gwrite pa bs through).cores = s.cores := by
  unfold State.gwrite
  dsimp only
  rw [foldl_cores (fun s l => by rfl), foldl_cores fun s p => State.writeWord_cores s _ _ _]

theorem State.core_congr {s t : State} (e : s.cores = t.cores) (c : CoreId) : s.core c = t.core c := by rw [State.core, State.core, e]

/-! ## Arrivals -/

/-- The two states differ at most in the packets in flight, the pinned flows and the die links. -/
def State.ButFlight (s t : State) : Prop := t = { s with net := t.net, pins := t.pins, ucieNb := t.ucieNb, ucieIo := t.ucieIo }

section
variable {s t : State}

theorem State.ButFlight.cores (h : s.ButFlight t) : t.cores = s.cores := by
  unfold State.ButFlight at h
  rw [h]
theorem State.ButFlight.cycle (h : s.ButFlight t) : t.cycle = s.cycle := by
  unfold State.ButFlight at h
  rw [h]

theorem State.linkWorks_butFlight (s : State) (l : LinkId) : s.ButFlight (s.linkWorks l) := by
  unfold State.linkWorks State.setLink
  dsimp only
  split
  · rfl
  · cases l <;> rfl

theorem State.ButFlight.trans {u : State} (h : s.ButFlight t) (h' : t.ButFlight u) : s.ButFlight u := by
  unfold State.ButFlight at *
  rw [h] at h'
  exact h'

theorem foldl_butFlight {α : Type} {f : State → α → State} (h : ∀ (s : State) a, s.ButFlight (f s a)) (l : List α) (s : State) :
    s.ButFlight (l.foldl f s) := by
  induction l generalizing s with
  | nil => rfl
  | cons a l ih => exact (h s a).trans (ih (f s a))

theorem State.ready_of_arrives {k : Nat} {p : Packet} (h : s.Arrives k p) : s.ready k = true := by
  obtain ⟨f, hf, hp, hh, hl, ho⟩ := h
  have ho' : s.routeOpen f.route = true := by
    refine List.all_eq_true.mpr fun x hx => ?_
    cases x with
    | router => rfl
    | link l m => exact beq_iff_eq.mpr (ho l m hx)
  have hl' : (s.net.take k).any (fun g => g.pkt.sameFlow f.pkt && !(ownStart s.modId f.pkt && !g.hold.all s.released)) = false := by
    refine List.any_eq_false.mpr fun g hg => ?_
    rw [hp, hl g hg]
    exact Bool.false_ne_true
  unfold State.ready
  simp only [hf, hl', ho', hh]
  rfl

/-- The links of a route have worked: their replays are forgotten (06 R139). -/
def State.worked (s : State) (r : List Hop) : State :=
  r.foldl (fun (s : State) (h : Hop) => match h with | .link l _ => s.linkWorks l | _ => s) s

theorem State.worked_butFlight (s : State) (r : List Hop) : s.ButFlight (s.worked r) := by
  refine foldl_butFlight (fun s h => ?_) r s
  cases h with
  | router => rfl
  | link l m => exact s.linkWorks_butFlight l

/-- A packet whose arrival is possible is taken off the network. -/
theorem State.take_of_arrives {k : Nat} {p : Packet} (h : s.Arrives k p) : ∃ t, s.take k = some (p, t) ∧ s.ButFlight t := by
  have hr := State.ready_of_arrives h
  obtain ⟨f, hf, hp, -⟩ := h
  refine ⟨(s.worked f.route).setNet ((s.worked f.route).net.eraseIdx k), ?_, (s.worked_butFlight f.route).trans rfl⟩
  unfold State.take
  simp only [hf, hr, if_true, hp]
  rfl

end

end Sys2Proof.Machine
end

section
/-! SUPPORT. Timers, messages, asynchronous traps and the spill engine (17 R363-R380). -/

namespace Sys2Proof.Machine

/-! ## Timers, caches, sleep (17 R368-R370) -/

theorem timersAndCaches : Claims.TimersAndCaches := by
  intro h d a e b n m s r
  refine ⟨homeOnly_runs h s _ _ _ r, ?_, homeOnly_runs h s _ _ _ r, homeOnly_runs h s _ _ _ r, homeOnly_runs h s _ _ _ r,
    homeOnly_runs h s _ _ _ r, fun hm => (homeOnly_runs h s _ _ _ r).trans (if_neg hm)⟩
  refine (homeOnly_runs h s _ _ _ r).trans ?_
  cases b with
  | none => rfl
  | some q => exact next_mod_congr rfl

/-! ## Short messages (17 R371-R374) -/

@[simp] theorem State.core_wakeSleepers_mb (s : State) (c : CoreId) (b : Fin 4) : ((s.wakeSleepers c b).core c).mb = (s.core c).mb := by
  rw [State.wakeSleepers, State.core_modCore_self]
@[simp] theorem State.core_wakeSleepers_sp (s : State) (c : CoreId) (b : Fin 4) : ((s.wakeSleepers c b).core c).sp = (s.core c).sp := by
  rw [State.wakeSleepers, State.core_modCore_self]
@[simp] theorem State.core_wakeSleepers_msgIn (s : State) (c : CoreId) (b : Fin 4) :
    ((s.wakeSleepers c b).core c).msgIn = (s.core c).msgIn := by rw [State.wakeSleepers, State.core_modCore_self]

theorem Core.ringPut_mb (c : Core) (m : Msg) : (c.ringPut m).mb[(62 : MbIdx)] = c.mb[(62 : MbIdx)] + 1 := by
  simp [Core.ringPut, Core.mbAdd, Core.setTags, Core.spWrite]

@[simp] theorem Core.ringPut_msgIn (c : Core) (m : Msg) : (c.ringPut m).msgIn = c.msgIn := by
  simp [Core.ringPut, Core.mbAdd, Core.setTags, Core.spWrite]

theorem msgBytes_length (m : Msg) : (msgBytes m).length = 16 := by simp [msgBytes, leBytes_length]

theorem Core.ringPut_read (c : Core) (m : Msg) (w : c.sp.wf = true) :
    (c.ringPut m).sp.read (0x2F800 + 16 * (c.mb[(62 : MbIdx)].toNat % 64)) 16 = msgBytes m := by
  have h := Memory.read_write_self c.sp (0x2F800 + 16 * (c.mb[(62 : MbIdx)].toNat % 64)) (msgBytes m) w
  rw [msgBytes_length] at h
  exact h

theorem State.answerFp_waiting {s : State} {w : Who} {en : BitVec 5} {pc : Word} (hw : (s.slot w).wait = .fpEx en pc)
    (hr : (s.slot w).reply = none) (trp : Bool) :
    s.answerFp w trp = some (s.modSlot w fun sl => { sl with reply := some (.fp trp) }) := by
  unfold State.answerFp
  rw [hw, hr]

theorem smsgAnswer_runs {h : Hdr} {a : SReg} {s : State} {t : Who} {en : BitVec 5} {pc : Word} (trp : Bool) (r : AtHome h s)
    (ht : s.smsgTarget (s.me.rs a) = some t) (hw : (s.slot t).wait = .fpEx en pc) (hr : (s.slot t).reply = none) :
    smsgAnswer h a trp s = .next ((s.modSlot t fun sl => { sl with reply := some (.fp trp) }).mod Slot.next) := by
  refine (homeOnly_runs h s _ _ _ r).trans ?_
  simp only [ht, State.answerFp_waiting hw hr]
  rfl

theorem smsgAnswer_traps {h : Hdr} {a : SReg} {s : State} (trp : Bool) (r : AtHome h s) (ht : s.smsgTarget (s.me.rs a) = none) :
    smsgAnswer h a trp s = trap s 3 3 (s.me.rs a) := by
  refine (homeOnly_runs h s _ _ _ r).trans ?_
  simp only [ht]

theorem trap_enters_own {s : State} {c e : Nat} (v : Slot → Word) (g : s.me.hosting = none) (n : s.me.state ≠ .handler) :
    trap s c e (v s.me) = .next (s.mod fun sl => sl.takeTrap c e (v sl) sl.pc) :=
  (trap_enters s c e (v s.me) g n).trans (congrArg Host.Outcome.next (State.mod_congr _ _ _ rfl))

/-- A message that enters the ring stands in it, and is counted in mailbox 62. -/
theorem State.ring_entered {s t : State} {c : CoreId} {m : Msg} (w : (s.core c).sp.wf = true) (hm : (t.core c).mb = ((s.core c).ringPut m).mb)
    (hp : (t.core c).sp = ((s.core c).ringPut m).sp) :
    (t.core c).mb[(62 : MbIdx)] = (s.core c).mb[(62 : MbIdx)] + 1 ∧
      (t.core c).sp.read (0x2F800 + 16 * ((s.core c).mb[(62 : MbIdx)].toNat % 64)) 16 = msgBytes m := by
  rw [hm, hp]
  exact ⟨Core.ringPut_mb _ _, Core.ringPut_read _ _ w⟩

theorem execMessageArrival_entered {s : State} {k : Nat} {p : Packet} {c c' : CoreId} {m : Msg} (ha : s.Arrives k p) (hd : p.dst = .core c)
    (hb : p.body = .msg c' m) (ho : s.noticeOpen c = true) (he : (s.core c).msgIn = []) (hr : (s.core c).ringOpen = true) :
    ∃ u, s.ButFlight u ∧ exec (.messageArrival k) s = .next (((u.modCore c (·.ringPut m)).wakeSleepers c 0).wakeSleepers c 3) := by
  obtain ⟨u, hu, hf⟩ := State.take_of_arrives ha
  obtain ⟨f, hn, hp, -⟩ := ha
  refine ⟨u, hf, ?_⟩
  change execMessageArrival k s = _
  have hc := State.core_congr hf.cores c
  unfold execMessageArrival
  simp only [hn, hp, hd, hb, ho, hu, hc, he, hr, Bool.not_true, Bool.false_eq_true, if_false, List.isEmpty_nil, Bool.and_self, if_true]

theorem messages : Claims.Messages := by
  intro h a b tag t w trp en pc k p c c' m ms s
  refine ⟨fun r => ⟨fun ht => ⟨?_, fun hw hr => ?_⟩, fun ht n => ?_⟩, fun hw hr => ?_, fun w hr => ⟨fun ha hd hb ho he => ?_, fun hm => ?_⟩⟩
  · refine (homeOnly_runs h s _ _ _ r).trans ?_
    simp only [ht]
    rfl
  · exact ⟨smsgAnswer_runs false r ht hw hr, smsgAnswer_runs true r ht hw hr⟩
  · simp only [List.forall_mem_cons, List.not_mem_nil, false_imp_iff, implies_true, and_true]
    have ht' := trap_enters_own (c := 3) (e := 3) (fun sl => sl.rs a) r.2 n
    refine ⟨?_, (smsgAnswer_traps false r ht).trans ht', (smsgAnswer_traps true r ht).trans ht'⟩
    refine (homeOnly_runs h s _ _ _ r).trans ?_
    simp only [ht]
    exact ht'
  · change execAnswerAnException w trp s = _
    rw [execAnswerAnException, State.answerFp_waiting hw hr]
    rfl
  · obtain ⟨u, hu, he'⟩ := execMessageArrival_entered ha hd hb ho he hr
    have hc := State.core_congr hu.cores c
    refine ⟨_, he', State.ring_entered w ?_ ?_, ?_⟩
    · rw [State.core_wakeSleepers_mb, State.core_wakeSleepers_mb, State.core_modCore_self, hc]
    · rw [State.core_wakeSleepers_sp, State.core_wakeSleepers_sp, State.core_modCore_self, hc]
    · rw [State.core_wakeSleepers_msgIn, State.core_wakeSleepers_msgIn, State.core_modCore_self, Core.ringPut_msgIn, hc, he]
  · refine ⟨(s.modCore c fun k => { k.ringPut m with msgIn := ms }).wakeSleepers c 3, ?_, State.ring_entered w ?_ ?_, ?_⟩
    · change execMessageBufferAccept c s = _
      unfold execMessageBufferAccept
      simp only [hm, hr, if_true]
    · rw [State.core_wakeSleepers_mb, State.core_modCore_self]
    · rw [State.core_wakeSleepers_sp, State.core_modCore_self]
    · rw [State.core_wakeSleepers_msgIn, State.core_modCore_self]

end Sys2Proof.Machine

namespace Sys2Proof.Machine

/-- Settles O46: each instruction and event by its guards; the ring's entry is read back from the scratchpad. -/
theorem timersCachesMessages : Obligations.TimersCachesMessages := ⟨timersAndCaches, messages⟩

/-! ## Asynchronous traps (17 R363, R368, R375) -/

/-- What a slot holds after a trap that is no double trap. -/
def Slot.Trapped (sl sl' : Slot) (cause : BitVec 16) (tval epc : Word) : Prop :=
  sl'.tcause = cause ∧ sl'.tval = tval ∧ sl'.epc = epc ∧ sl'.pc = sl.tvec ∧ sl'.state = .handler ∧ sl'.s = sl.s

/-- A wait that is no `bcast` is dropped in its slot alone. -/
theorem State.dropWait_eq {s : State} {w : Who} (hb : ∀ m b l, (s.slot w).wait ≠ .bcast m b l) (pc : Word) :
    s.dropWait w pc = s.modSlot w fun sl => { sl.unpark with pc := pc, walks := [], atHome := false } := by
  unfold State.dropWait
  split
  next m b l hw => exact absurd hw (hb m b l)
  next => rfl

theorem State.trapAt_modSlot {s : State} {w : Who} (f : Slot → Slot) (cls sub : Nat) (tval epc : Word) (g : (f (s.slot w)).hosting = none)
    (n : (f (s.slot w)).state ≠ .handler) :
    ((s.modSlot w f).trapAt w cls sub tval epc).slot w = (f (s.slot w)).takeTrap cls sub tval epc := by
  rw [State.trapAt_enters _ _ _ _ _ _ (by rw [State.slot_modSlot_self]; exact g) (by rw [State.slot_modSlot_self]; exact n),
    State.slot_modSlot_self, State.slot_modSlot_self]

/-- A pending trap is taken by a slot in rotation that waits for nothing. -/
theorem State.slot_takeAsync {s : State} {w : Who} (g : (s.slot w).hosting = none) (hs : (s.slot w).state = .running)
    (hw : (s.slot w).wait = .none) (cls sub : Nat) (tval : Word) (clear : Slot → Slot)
    (hc : ∀ sl, (clear sl).hosting = sl.hosting ∧ (clear sl).state = sl.state ∧ (clear sl).tvec = sl.tvec ∧ (clear sl).s = sl.s) (sync : Bool) :
    (s.slot w).Trapped ((s.takeAsync w cls sub tval clear sync).slot w) (BitVec.ofNat 16 (cls * 256 + sub)) tval (s.slot w).pc := by
  have hst : (s.slot w).stand = .now (s.slot w).pc false := by
    unfold Slot.stand
    rw [hw]
  unfold State.takeAsync
  rw [if_neg (by rw [hs]; exact nofun), hst]
  simp only [Bool.false_and, Bool.false_eq_true, if_false]
  rw [State.dropWait_eq (by rw [hw]; exact nofun), State.trapAt_modSlot]
  · obtain ⟨-, -, hv, hr⟩ := hc (({ (s.slot w).unpark with pc := (s.slot w).pc, walks := [], atHome := false } : Slot))
    rw [State.slot_modSlot_self]
    exact ⟨rfl, rfl, rfl, hv, rfl, hr⟩
  · rw [State.slot_modSlot_self, (hc _).1]
    exact g
  · rw [State.slot_modSlot_self, (hc _).2.1]
    simp [Slot.unpark, hs]

theorem trapped_of_takeAsync {i : Instr} {s : State} {w : Who} {cls sub : Nat} {tval : Word} {clear : Slot → Slot} {sync : Bool}
    (e : exec i s = .next (s.takeAsync w cls sub tval clear sync)) (g : (s.slot w).hosting = none) (hs : (s.slot w).state = .running)
    (hw : (s.slot w).wait = .none)
    (hc : ∀ sl, (clear sl).hosting = sl.hosting ∧ (clear sl).state = sl.state ∧ (clear sl).tvec = sl.tvec ∧ (clear sl).s = sl.s) :
    ∃ t, exec i s = .next t ∧ (s.slot w).Trapped (t.slot w) (BitVec.ofNat 16 (cls * 256 + sub)) tval (s.slot w).pc :=
  ⟨_, e, State.slot_takeAsync g hs hw cls sub tval clear hc sync⟩

theorem execCopyFaultTrap_pending {s : State} {w : Who} {x : Word} (h : (s.slot w).pendCopy = some x) :
    execCopyFaultTrap w s = .next (s.takeAsync w 6 4 x (fun sl => { sl with
      pendCopy := none
      cctx := { sl.cctx with ops := sl.cctx.ops.map fun o => if o.st = .faulted then { o with trapped := true } else o } })
      ((s.slot w).syncOn .c)) := by
  unfold execCopyFaultTrap
  rw [h]

theorem execMembershipChangeTrap_pending {s : State} {w : Who} {x : Word} (h : (s.slot w).pendMember = some x) :
    execMembershipChangeTrap w s =
      .next (s.takeAsync w 0xA 2 x (fun sl => { sl with pendMember := none }) ((s.slot w).syncOn .x)) := by
  unfold execMembershipChangeTrap
  rw [h]

theorem execSpawnFailureTrap_pending {s : State} {w : Who} {x : Word} (h : (s.slot w).pendSpawn = some x) :
    execSpawnFailureTrap w s = .next (s.takeAsync w 0xB 5 x (fun sl => { sl with pendSpawn := none }) ((s.slot w).syncOn .t)) := by
  unfold execSpawnFailureTrap
  rw [h]

theorem Slot.watched_not_bcast {sl : Slot} {x : Word × Word} (h : sl.watched = some x) : ∀ m b l, sl.wait ≠ .bcast m b l := by
  intro m b l e
  rw [Slot.watched, e] at h
  exact absurd h (Option.some_ne_none x).symm

/-- Settles O47: the slot stands where its trap may be taken, and the trap is entered. -/
theorem asynchronousTraps : Obligations.AsynchronousTraps := by
  intro w x obj epc pc keep s
  refine ⟨fun hc ht => ?_, fun g hs hw => ⟨fun hp => ?_, fun hp => ?_, fun hp => ?_, fun hp => ?_⟩, fun g hs hw ho hst => ?_⟩
  · refine if_pos ?_
    simp [hc, ht]
  · exact trapped_of_takeAsync (i := .timerTrap w) (if_pos hp) g hs hw fun _ => ⟨rfl, rfl, rfl, rfl⟩
  · exact trapped_of_takeAsync (i := .copyFaultTrap w) (execCopyFaultTrap_pending hp) g hs hw fun _ => ⟨rfl, rfl, rfl, rfl⟩
  · exact trapped_of_takeAsync (i := .membershipChangeTrap w) (execMembershipChangeTrap_pending hp) g hs hw fun _ => ⟨rfl, rfl, rfl, rfl⟩
  · exact trapped_of_takeAsync (i := .spawnFailureTrap w) (execSpawnFailureTrap_pending hp) g hs hw fun _ => ⟨rfl, rfl, rfl, rfl⟩
  · refine ⟨(s.dropWait w epc).trapAt w 0xC (s.slot w).reason.code obj epc, ?_, ?_⟩
    · change execWatchdog w s = _
      unfold execWatchdog
      simp only [hw, ho, hst, hs, Bool.not_true, Bool.false_eq_true, if_false, reduceCtorEq]
    · rw [State.dropWait_eq (Slot.watched_not_bcast hw), State.trapAt_modSlot]
      · exact ⟨rfl, rfl, rfl, rfl, rfl, rfl⟩
      · exact g
      · simp [Slot.unpark, hs]

end Sys2Proof.Machine
end

section
/-! SUPPORT. Pre-emption and the spill engine (17 R376-R380). -/

namespace Sys2Proof.Machine

/-- A sleeper's note of an event changes its wait and its deadline alone. -/
theorem sawEvent_eq (n : Nat) (b : Fin 4) (sl : Slot) : ∃ x d, sawEvent n b sl = { sl with wait := x, deadline := d } := by
  unfold sawEvent
  split
  · split
    · exact ⟨_, _, rfl⟩
    · exact ⟨sl.wait, sl.deadline, rfl⟩
  · exact ⟨sl.wait, sl.deadline, rfl⟩

theorem State.slot_wakeSleepers_eq (s : State) (c : CoreId) (b : Fin 4) (w : Who) :
    ∃ x d, (s.wakeSleepers c b).slot w = { s.slot w with wait := x, deadline := d } := by
  by_cases hc : w.core = c
  · subst hc
    rw [State.slot_wakeSleepers]
    exact sawEvent_eq _ _ _
  · rw [State.slot_wakeSleepers_of_core_ne _ _ hc]
    exact ⟨_, _, rfl⟩

/-- The end of a request changes a slot only where it sleeps and the notification wakes it. -/
theorem State.slot_endRequest (s : State) (c : CoreId) (w : Who) :
    ∃ x d, (s.endRequest c).slot w = { s.slot w with wait := x, deadline := d } := by
  unfold State.endRequest
  split
  · exact ⟨_, _, rfl⟩
  · dsimp only
    split
    · obtain ⟨x, d, e⟩ := State.slot_wakeSleepers_eq ((s.modCore c fun k => { k with spillQ := _ }).modCore c (·.mbAdd _ 1)) c 3 w
      refine ⟨x, d, ?_⟩
      rw [State.mbAdd, if_neg (by decide), e, State.slot_modCore rfl, State.slot_modCore rfl]
    · rw [State.slot_modCore rfl]
      exact ⟨_, _, rfl⟩

theorem State.endRequest_spillQ {s : State} {c : CoreId} {r : SpillReq} {rs : List SpillReq} (h : (s.core c).spillQ = r :: rs) :
    ((s.endRequest c).core c).spillQ = rs := by
  unfold State.endRequest
  rw [h]
  dsimp only
  split
  · rw [State.mbAdd, if_neg (by decide), State.wakeSleepers, State.core_modCore_self, State.core_modCore_self, State.core_modCore_self]
    rfl
  · rw [State.core_modCore_self]

/-- The segments of a save area depend on the table, not on the slots. -/
theorem State.areaSegs_congr {s t : State} {w : Who} (ht : t = { s with cores := t.cores }) (hh : (t.slot w).hosting = (s.slot w).hosting)
    (hl : (t.core w.core).launch = (s.core w.core).launch) (va : Word) (k : AccKind) : t.areaSegs w va k = s.areaSegs w va k := by
  have hr : t.rootOf w = s.rootOf w := by
    unfold State.rootOf State.launchOf State.jobLaunches
    rw [hh, hl, ht]
  unfold State.areaSegs
  rw [hr, ht]
  rfl

theorem State.clean_of_quiet {s : State} {w : Who} (q : (s.slot w).Quiet) : s.clean w = true := by
  obtain ⟨hs, ho, hi, hc⟩ := q
  simp [State.clean, State.released, State.holdNear, State.storesDone, State.release, Slot.idsDone, hs, ho, hi, hc]

/-- A resume from a well-formed area. -/
theorem State.resume_ok {s : State} {asker w : Who} {area : Option Word} {segs : List Seg} (hs : (s.slot w).state = .spilled)
    (ha : s.areaSegs asker (area.getD (s.slot w).tsave) .load = some segs)
    (ho : areaOk (Memory.write [] 0 (segs.map fun g => s.gread g.pa g.len).flatten) = true) (rot : Nat) :
    s.resume asker w area rot = (0, s.modSlot w fun sl =>
      { sl.restore (Memory.write [] 0 (segs.map fun g => s.gread g.pa g.len).flatten) with parkedAt := rot }) := by
  unfold State.resume
  simp only [hs, ne_eq, not_true_eq_false, if_false, ha, ho, if_true]

/-- A slot of another core or another number keeps what it holds where the current slot is changed. -/
theorem State.core_mod_spillQ (s : State) (f : Slot → Slot) (c : CoreId) : ((s.mod f).core c).spillQ = (s.core c).spillQ := by
  by_cases hc : c = s.cur.core
  · subst hc
    rw [State.mod, State.core_modSlot_self]
  · rw [State.mod, State.core_modSlot_ne _ _ _ _ hc]

theorem State.core_mod_launch (s : State) (f : Slot → Slot) (c : CoreId) : ((s.mod f).core c).launch = (s.core c).launch := by
  by_cases hc : c = s.cur.core
  · subst hc
    rw [State.mod, State.core_modSlot_self]
  · rw [State.mod, State.core_modSlot_ne _ _ _ _ hc]

/-- A resume request in the core's queue, and its asker parked for it. -/
def State.askUnspill (s : State) (d : SReg) (x : Word) (area : Option Word) : State :=
  ((s.modMyCore fun c => { c with spillQ := c.spillQ ++ [⟨Fin.ofNat 16 x.toNat, true, area, notifyOf x, some s.cur⟩] }).park .fence
    (.sys (.unspill d x area))).mod fun sl => { sl with object := x }

section
variable {s : State} {d : SReg} {x : Word} {area : Option Word}

theorem State.slot_askUnspill_cur : (s.askUnspill d x area).slot s.cur =
    { s.me.park .fence (.sys (.unspill d x area)) s.rot with object := x } := by
  refine Eq.trans (State.slot_mod_at _ _ rfl) ?_
  rw [State.park]
  rw [State.slot_mod_at _ _ (w := s.cur) (State.modMyCore_cur s _), State.modMyCore, State.slot_modCore rfl]
  rfl

theorem State.slot_askUnspill_ne {w : Who} (n : w ≠ s.cur) : (s.askUnspill d x area).slot w = s.slot w := by
  refine Eq.trans (State.slot_mod_ne _ _ w n) ?_
  refine Eq.trans (State.slot_mod_ne _ _ w n) ?_
  exact State.slot_modCore rfl w

theorem State.askUnspill_spillQ : ((s.askUnspill d x area).core s.cur.core).spillQ =
    s.myCore.spillQ ++ [⟨Fin.ofNat 16 x.toNat, true, area, notifyOf x, some s.cur⟩] := by
  rw [State.askUnspill, State.core_mod_spillQ, State.park, State.core_mod_spillQ, State.modMyCore, State.core_modCore_self]
  rfl

theorem State.askUnspill_launch : ((s.askUnspill d x area).core s.cur.core).launch = (s.core s.cur.core).launch := by
  rw [State.askUnspill, State.core_mod_launch, State.park, State.core_mod_launch, State.modMyCore, State.core_modCore_self]

end

/-- The asker's turn has come: the slot is put back, and the asker goes on with code 0. -/
theorem State.unparked_unspill {s : State} {w : Who} {d : SReg} {x : Word} {area : Option Word} {segs : List Seg} {m : Memory}
    {r : SpillReq} (hw : (s.slot w).wait = .sys (.unspill d x area)) (hr : (s.slot w).reply = none) (hn : (s.slot w).state ≠ .spilled)
    (q : (s.slot w).Quiet) (hq : (s.core w.core).spillQ = [r]) (hres : r.resume = true) (hask : r.asker = some w)
    (hs : (s.slot ⟨w.core, Fin.ofNat 16 x.toNat⟩).state = .spilled)
    (ha : s.areaSegs w (area.getD (s.slot ⟨w.core, Fin.ofNat 16 x.toNat⟩).tsave) .load = some segs)
    (hm : Memory.write [] 0 (segs.map fun g => s.gread g.pa g.len).flatten = m) (ho : areaOk m = true) :
    exec (.parkReasonMet w) s = .next (((s.modSlot ⟨w.core, Fin.ofNat 16 x.toNat⟩ fun sl =>
      { sl.restore m with parkedAt := s.rot }).endRequest w.core).finish w fun sl => sl.ws d 0) := by
  subst hm
  have hready : s.sysReady w (.unspill d x area) = true := by
    simp [State.sysReady, State.clean_of_quiet q, State.resumeFirst, hq, hres, hask]
  have hun : s.unparked w = some (s.sysPerform w (.unspill d x area)) := by
    unfold State.unparked
    simp only [hn, if_false, hw, hr, hready, if_true]
  change execParkReasonMet w s = _
  rw [execParkReasonMet, hun, Option.getD_some]
  unfold State.sysPerform
  simp only [State.resume_ok hs ha ho]
  rfl

theorem State.slot_finish_self (s : State) (w : Who) (f : Slot → Slot) : (s.finish w f).slot w = (f (s.slot w).unpark).next :=
  s.slot_modSlot_self _ _

theorem State.slot_finish_ne (s : State) {w v : Who} (f : Slot → Slot) (n : v ≠ w) : (s.finish w f).slot v = s.slot v :=
  s.slot_modSlot_ne _ _ _ n

theorem Slot.fields_of_woken {sl r : Slot} {n : Nat} {y : Wait} {z : Option Nat}
    (e : sl = { r with parkedAt := n, wait := y, deadline := z }) : sl.s = r.s ∧ sl.pc = r.pc ∧ sl.state = r.state := by
  rw [e]
  exact ⟨rfl, rfl, rfl⟩

/-- The asker parks for its request, its turn comes, and the slot is put back from a well-formed area. -/
theorem leads_askUnspill {i : Instr} {s : State} {d : SReg} {x : Word} {area : Option Word} {segs : List Seg}
    (e : exec i s = .next (s.askUnspill d x area)) (hq : s.myCore.spillQ = []) (hi : Fin.ofNat 16 x.toNat ≠ s.cur.slot)
    (hs : (s.slot ⟨s.cur.core, Fin.ofNat 16 x.toNat⟩).state = .spilled) (hn : s.me.state ≠ .spilled) (hquiet : s.me.Quiet)
    (ha : s.areaSegs s.cur (area.getD (s.slot ⟨s.cur.core, Fin.ofNat 16 x.toNat⟩).tsave) .load = some segs)
    {m : Memory} (hm : Memory.write [] 0 (segs.map fun g => s.gread g.pa g.len).flatten = m) (hok : areaOk m = true) :
    ∃ t, Leads [i, .parkReasonMet s.cur] s t ∧ (d ≠ 0 → (t.slot s.cur).rs d = 0) ∧
      (t.slot s.cur).pc = s.me.pc + 1 ∧ (t.core s.cur.core).spillQ = [] ∧
      ∃ n y z, t.slot ⟨s.cur.core, Fin.ofNat 16 x.toNat⟩ = { (s.slot ⟨s.cur.core, Fin.ofNat 16 x.toNat⟩).restore m with parkedAt := n, wait := y, deadline := z } := by
  have hne : (⟨s.cur.core, Fin.ofNat 16 x.toNat⟩ : Who) ≠ s.cur := fun e => hi (congrArg Who.slot e)
  have hcur := State.slot_askUnspill_cur (s := s) (d := d) (x := x) (area := area)
  have hoth : (s.askUnspill d x area).slot ⟨s.cur.core, Fin.ofNat 16 x.toNat⟩ = s.slot ⟨s.cur.core, Fin.ofNat 16 x.toNat⟩ :=
    State.slot_askUnspill_ne hne
  have hQ := State.askUnspill_spillQ (s := s) (d := d) (x := x) (area := area)
  rw [hq, List.nil_append] at hQ
  have hu2 := State.unparked_unspill (s := s.askUnspill d x area) (w := s.cur) (segs := segs) (by rw [hcur]; rfl) (by rw [hcur]; rfl)
    (by
      rw [hcur]
      simp only [Slot.park]
      split <;> exact nofun) (by rw [hcur]; exact hquiet) hQ rfl rfl (by rw [hoth]; exact hs)
    (by
      rw [hoth, State.areaSegs_congr rfl (by rw [hcur]; rfl) State.askUnspill_launch]
      exact ha) hm hok
  refine ⟨_, ⟨_, e, _, hu2, rfl⟩, ?_⟩
  generalize hv : ((s.askUnspill d x area).modSlot _ _) = v
  have hvc : v.slot s.cur = (s.askUnspill d x area).slot s.cur := by
    rw [← hv, State.slot_modSlot_ne _ _ _ _ hne.symm]
  have hvQ : (v.core s.cur.core).spillQ = [⟨Fin.ofNat 16 x.toNat, true, area, notifyOf x, some s.cur⟩] := by
    rw [← hv, State.core_modSlot_self]
    exact hQ
  have hvi : ∃ n, v.slot ⟨s.cur.core, Fin.ofNat 16 x.toNat⟩ = { (s.slot ⟨s.cur.core, Fin.ofNat 16 x.toNat⟩).restore m with parkedAt := n } := by
    refine ⟨s.rot, ?_⟩
    rw [← hv, State.slot_modSlot_self, hoth]
    rfl
  obtain ⟨n, hvi⟩ := hvi
  generalize Slot.restore _ m = restored at hvi ⊢
  obtain ⟨y, z, hcur'⟩ := State.slot_endRequest v s.cur.core s.cur
  obtain ⟨y', z', hi'⟩ := State.slot_endRequest v s.cur.core ⟨s.cur.core, Fin.ofNat 16 x.toNat⟩
  rw [State.slot_finish_self, State.slot_finish_ne _ _ hne, hcur', hi', hvc, hcur, hvi]
  refine ⟨fun hd => ?_, ?_, ?_, n, y', z', rfl⟩
  · rw [Slot.rs_next, Slot.rs_ws _ _ _ hd]
  · rw [Slot.next_pc, Slot.ws_pc]
    rfl
  · rw [State.finish, State.core_modSlot_self]
    exact State.endRequest_spillQ hvQ

/-- A save area written through its segments. -/
def State.writeArea (s : State) (segs : List Seg) (bs : List Byte) : State :=
  segs.foldl (fun s (g : Seg) => s.gwrite g.pa ((bs.drop g.off).take g.len) g.through) s

@[simp] theorem State.writeArea_cores (s : State) (segs : List Seg) (bs : List Byte) : (s.writeArea segs bs).cores = s.cores :=
  foldl_cores (fun _ _ => State.gwrite_cores _ _ _ _) _ _

/-- A pre-emption saves a slot in rotation that waits for nothing. -/
theorem execPreemption_saves {s : State} {w : Who} {r : SpillReq} {rs : List SpillReq} {segs : List Seg}
    (hq : (s.core w.core).spillQ = r :: rs) (hr : r.slot = w.slot) (hn : r.resume = false) (hh : (s.slot w).hosting = none)
    (hs : (s.slot w).state = .running) (hw : (s.slot w).wait = .none) (hd : (s.slot w).draining? = false)
    (ha : s.areaSegs w (s.slot w).tsave .store = some segs) :
    ∃ u : State, u.cores = s.cores ∧
      exec (.preemption w) s = .next ((u.modSlot w fun _ => (s.slot w).spill (s.slot w).pc false).endRequest w.core) := by
  have hst : (s.slot w).stand = .now (s.slot w).pc false := by
    unfold Slot.stand
    rw [hw]
  refine ⟨s.writeArea segs (Slot.areaBytes { (s.slot w).spill (s.slot w).pc false with cctx := (s.slot w).cctx }),
    State.writeArea_cores _ _ _, ?_⟩
  change execPreemption w s = _
  unfold execPreemption
  simp only [hq, hr, hn, hh, hs, hst, ha, hd, hw, ne_eq, not_true_eq_false, Bool.false_eq_true, or_self, if_false, Option.isSome_none,
    reduceCtorEq]
  rfl

theorem State.modCore_congr {s : State} {c : CoreId} {f g : Core → Core} (e : f (s.core c) = g (s.core c)) :
    s.modCore c f = s.modCore c g := by
  unfold State.modCore
  rw [e]

/-- A spill at the head of the queue is left to the slot it names. -/
theorem State.hostResumes_spill {s : State} {c : CoreId} {r : SpillReq} {rs : List SpillReq} (n : Nat)
    (h : (s.core c).spillQ = r :: rs) (hr : r.resume = false) : State.hostResumes n s c = s := by
  cases n with
  | zero => rfl
  | succ n =>
    unfold State.hostResumes
    rw [h]
    split
    next e =>
      rw [(List.cons.inj e).1] at hr
      exact absurd hr.symm Bool.false_ne_true
    next => rfl

/-- Settles O48: each answer by its guards; the resumed slot from the state in which its asker's turn comes. -/
theorem spills : Obligations.Spills := by
  intro h d a b w r rs segs s
  refine ⟨fun hr => ⟨fun hi => ?_, fun hi hc => ?_, fun hi hc hq hl => ?_, fun hi hc hq hl => ?_, fun hl => ?_, fun hl => ?_,
    fun hq hi hs hn hquiet ha hok => ?_⟩, fun hq hs hn hh => ⟨fun hi => ?_, fun hs' hw hd ha => ?_⟩, fun hq hi => ?_⟩
  · exact (homeOnly_runs h s _ _ _ hr).trans (if_pos hi)
  · refine (homeOnly_runs h s _ _ _ hr).trans ((if_neg hi).trans (if_pos ?_))
    simpa only [or_assoc] using hc
  · refine (homeOnly_runs h s _ _ _ hr).trans ((if_neg hi).trans ((if_neg ?_).trans (if_pos hl)))
    simpa only [hq, Bool.false_eq_true, or_false] using hc
  · refine (homeOnly_runs h s _ _ _ hr).trans ((if_neg hi).trans ((if_neg ?_).trans (if_neg (Nat.not_le.mpr hl))))
    simpa only [hq, Bool.false_eq_true, or_false] using hc
  · exact (homeOnly_runs h s _ _ _ hr).trans (if_pos hl)
  · exact (homeOnly_runs h s _ _ _ hr).trans (if_neg (Nat.not_le.mpr hl))
  · have he : exec (.unspill h d a b) s = .next (s.askUnspill d (s.me.rs a) (b.map s.me.rs)) := by
      refine (homeOnly_runs h s _ _ _ hr).trans ((if_neg ?_).trans rfl)
      rw [hq]
      decide
    obtain ⟨t, hl, hd, hpc, hQ, n, y, z, hf⟩ := leads_askUnspill he hq hi hs hn hquiet ha rfl hok
    refine ⟨t, hl, hd, hpc, hQ, ?_⟩
    exact Slot.fields_of_woken hf
  · change execPreemption w s = _
    unfold execPreemption
    simp only [hq, hs, hn, hh, ne_eq, not_true_eq_false, Bool.false_eq_true, or_self, if_false, Option.isSome_none]
    exact if_pos hi
  · obtain ⟨u, hu, he⟩ := execPreemption_saves hq hs hn hh hs' hw hd ha
    refine ⟨_, he, ?_⟩
    obtain ⟨y, e, hcur'⟩ := State.slot_endRequest (u.modSlot w fun _ => (s.slot w).spill (s.slot w).pc false) w.core w
    rw [hcur', State.slot_modSlot_self]
    refine ⟨rfl, hs', rfl, rfl, State.endRequest_spillQ (r := r) ?_⟩
    rw [State.core_modSlot_self, State.core_congr hu]
    exact hq
  · change execSpillOrResumeASlot w false s = _
    have hreq : (s.core w.core).requested w.slot = false := by rw [Core.requested, hq]; rfl
    have hno : ¬ (16 ≤ (s.core w.core).spillQ.length ∨ (¬ (false : Bool) = true ∧ ((s.core w.core).requested w.slot = true ∨
        (s.core w.core).slots[w.slot].state = .pool ∨ (s.core w.core).slots[w.slot].state = .exit ∨
        (s.core w.core).slots[w.slot].state = .spilled))) := by
      rw [hq, hreq]
      rintro (hl | ⟨-, hf | hidle⟩)
      · exact absurd hl (by decide)
      · exact Bool.false_ne_true hf
      · exact hi hidle
    unfold execSpillOrResumeASlot
    refine (if_neg hno).trans ?_
    have hput : (s.modCore w.core fun c => { c with spillQ := c.spillQ ++ [⟨w.slot, false, none, none, none⟩] }) =
        s.modCore w.core fun c => { c with spillQ := [⟨w.slot, false, none, none, none⟩] } := by
      refine State.modCore_congr ?_
      rw [hq]
      rfl
    dsimp only
    rw [hput]
    exact congrArg Host.Outcome.next (State.hostResumes_spill 16 (r := ⟨w.slot, false, none, none, none⟩) (rs := [])
      (by rw [State.core_modCore_self]) rfl)

end Sys2Proof.Machine
end

section
/-! SUPPORT. Mailbox counters (08 R176, 12 R260). -/

namespace Sys2Proof.Machine

theorem State.not_carried {s : State} {sl : Slot} (h : sl.carry = []) : s.carried sl = false := by rw [State.carried, h]; rfl

theorem withPlace_free {s : State} (k : State → Out) (g : s.me.hosting = none) (hf : s.remoteFull s.cur = false) : withPlace s k = k s := by
  have he : (s.errHome s.cur).isSome = true := by
    unfold State.errHome
    rw [show (s.slot s.cur).hosting = none from g]
    rfl
  unfold withPlace
  simp only [he, if_true, hf, Bool.false_eq_true, if_false]

theorem mailboxes : Claims.Mailboxes := by
  intro h d a b n c j s r
  refine ⟨fun q => ?_, fun hf hn => ?_, fun q => ⟨?_, fun hv => ?_, fun hv => ?_⟩⟩
  · obtain ⟨hs, ho, hi, hc⟩ := q
    refine (homeOnly_runs h s _ _ _ r).trans (if_pos ?_)
    rw [Slot.postedIds, hs, ho, hi, State.not_carried hc]
    rfl
  · refine (guarded_runs h s _ r.1).trans ?_
    simp only [hn, withPlace_free _ r.2 hf, retire, Bool.not_eq_true]
  · exact (homeOnly_runs h s _ _ _ r).trans (afterRelease_go _ q)
  · refine (homeOnly_runs h s _ _ _ r).trans ((afterRelease_go _ q).trans (if_pos ?_))
    exact decide_eq_true hv
  · refine (homeOnly_runs h s _ _ _ r).trans ((afterRelease_go _ q).trans (if_neg ?_))
    simpa [mbReached] using hv

theorem State.mbAdd_zero (s : State) (c : CoreId) (i : MbIdx) : s.mbAdd c i 0 = s := if_pos rfl

/-- An increment adds to its counter, and changes of the cores no other counter and no scratchpad. -/
theorem State.mbAdd_effect (s : State) (c : CoreId) (i : MbIdx) (v : BitVec 32) :
    ((s.mbAdd c i v).core c).mb[i] = (s.core c).mb[i] + v ∧
    (∀ j : MbIdx, j ≠ i → ((s.mbAdd c i v).core c).mb[j] = (s.core c).mb[j]) ∧
    (∀ c', ((s.mbAdd c i v).core c').sp = (s.core c').sp) ∧ (s.mbAdd c i v).mem = s.mem := by
  by_cases hv : v = 0
  · subst hv
    rw [State.mbAdd_zero]
    exact ⟨(BitVec.add_zero _).symm, fun _ _ => rfl, fun _ => rfl, rfl⟩
  · rw [State.mbAdd, if_neg hv]
    refine ⟨?_, fun j hj => ?_, fun c' => ?_, rfl⟩
    · rw [State.core_wakeSleepers_mb, State.core_modCore_self]
      simp [Core.mbAdd]
    · rw [State.core_wakeSleepers_mb, State.core_modCore_self]
      have hn : i.val ≠ j.val := fun e => hj (Fin.ext e.symm)
      simp [Core.mbAdd, Vector.getElem_set_ne, hn]
    · by_cases hc : c' = c
      · subst hc
        rw [State.core_wakeSleepers_sp, State.core_modCore_self]
        rfl
      · rw [State.core_wakeSleepers_ne _ _ hc, State.core_modCore_ne _ _ _ _ hc]

/-- A change of a slot changes no counter and no scratchpad. -/
theorem State.core_modSlot_mb (s : State) (w : Who) (f : Slot → Slot) (c : CoreId) : ((s.modSlot w f).core c).mb = (s.core c).mb := by
  by_cases hc : c = w.core
  · subst hc
    rw [State.core_modSlot_self]
  · rw [State.core_modSlot_ne _ _ _ _ hc]

theorem State.core_modSlot_sp (s : State) (w : Who) (f : Slot → Slot) (c : CoreId) : ((s.modSlot w f).core c).sp = (s.core c).sp := by
  by_cases hc : c = w.core
  · subst hc
    rw [State.core_modSlot_self]
  · rw [State.core_modSlot_ne _ _ _ _ hc]

theorem State.ButFlight.mem {s t : State} (h : s.ButFlight t) : t.mem = s.mem := by
  unfold State.ButFlight at h
  rw [h]

theorem State.ButFlight.modId {s t : State} (h : s.ButFlight t) : t.modId = s.modId := by
  unfold State.ButFlight at h
  rw [h]

theorem execMailboxIncrement_taken {k : Nat} {p : Packet} {c c' : CoreId} {i : MbIdx} {v : BitVec 32}
    {e : Option (Agent × Nat × BitVec 32)} {s : State} (ha : s.Arrives k p) (hd : p.dst = .core c) (hb : p.body = .mbInc c' i v e)
    (ho : s.noticeOpen c = true) (he : e = none ∨ ∃ a n q, e = some (a, n, q) ∧ a.mod = s.modId ∧ n ∈ (s.slot a.who).incs) :
    ∃ u, s.ButFlight u ∧ exec (.mailboxIncrement k) s = .next (match e with
      | none => u.mbAdd c i v
      | some (a, n, _) => (u.mbAdd c i v).modSlot a.who fun sl => { sl with incs := sl.incs.filter (· ≠ n) }) := by
  obtain ⟨u, hu, hf⟩ := State.take_of_arrives ha
  obtain ⟨f, hn, hp, -⟩ := ha
  refine ⟨u, hf, ?_⟩
  change execMailboxIncrement k s = _
  unfold execMailboxIncrement
  rcases he with rfl | ⟨a, n, q, rfl, hm, hi⟩
  · simp only [hn, hp, hd, hb, ho, hu, Bool.not_true, Bool.false_eq_true, if_false]
  · have hc : a.mod = u.modId ∧ n ∈ (u.slot a.who).incs := by
      rw [hf.modId, State.slot_congr hf.cores]
      exact ⟨hm, hi⟩
    simp only [hn, hp, hd, hb, ho, hu, Bool.not_true, Bool.false_eq_true, if_false, if_pos hc]

theorem mailboxIncrement : Claims.MailboxIncrement := by
  intro k p c c' i v e s ha hd hb ho he
  obtain ⟨u, hf, hx⟩ := execMailboxIncrement_taken ha hd hb ho he
  obtain ⟨h1, h2, h3, h4⟩ := u.mbAdd_effect c i v
  have hcore := fun c => State.core_congr hf.cores c
  simp only [hcore, hf.mem] at h1 h2 h3 h4
  refine ⟨_, hx, ?_⟩
  cases e with
  | none => exact ⟨h1, h2, h3, h4, nofun⟩
  | some x =>
    obtain ⟨a, n, q⟩ := x
    refine ⟨?_, fun j hj => ?_, fun c'' => ?_, h4, ?_⟩
    · rw [State.core_modSlot_mb]
      exact h1
    · rw [State.core_modSlot_mb]
      exact h2 j hj
    · rw [State.core_modSlot_sp]
      exact h3 c''
    · rintro _ _ _ ⟨⟩
      rw [State.slot_modSlot_self]
      simp

/-- Settles O34: each instruction by its guards; the increment's effect on its counter, and on nothing else. -/
theorem mailboxCounters : Obligations.MailboxCounters := ⟨mailboxes, mailboxIncrement⟩

end Sys2Proof.Machine
end

section
/-! SUPPORT. Vector instructions on lanes (10 R205-R208). -/

namespace Sys2Proof.Machine

/-! ## Lanes put into a register -/

/-- The number whose digits at base `2 ^ n` are the low parts of a list. -/
def packed (n : Nat) : List Nat → Nat
  | [] => 0
  | x :: r => x % 2 ^ n + 2 ^ n * packed n r

theorem foldl_zipIdx_eq_packed (n : Nat) (l : List Nat) (k a : Nat) :
    (l.zipIdx k).foldl (fun acc x => acc + x.1 % 2 ^ n * 2 ^ (n * x.2)) a = a + 2 ^ (n * k) * packed n l := by
  induction l generalizing k a with
  | nil => rfl
  | cons x r ih =>
    rw [List.zipIdx_cons, List.foldl_cons, ih, packed, Nat.mul_add n, Nat.mul_one, Nat.pow_add, Nat.mul_add, Nat.mul_comm (x % 2 ^ n), Nat.mul_assoc,
      Nat.add_assoc]

theorem packed_lt (n : Nat) (l : List Nat) : packed n l < 2 ^ (n * l.length) := by
  induction l with
  | nil => simp [packed]
  | cons x r ih =>
    have hx : x % 2 ^ n < 2 ^ n := Nat.mod_lt _ (Nat.two_pow_pos n)
    rw [packed, List.length_cons, Nat.mul_add, Nat.mul_one, Nat.pow_add, Nat.mul_comm (2 ^ (n * r.length))]
    calc x % 2 ^ n + 2 ^ n * packed n r < 2 ^ n + 2 ^ n * packed n r := Nat.add_lt_add_right hx _
      _ = 2 ^ n * (packed n r + 1) := by rw [Nat.mul_add, Nat.mul_one, Nat.add_comm]
      _ ≤ 2 ^ n * 2 ^ (n * r.length) := Nat.mul_le_mul_left _ ih

theorem packed_digit (n : Nat) (l : List Nat) (j : Nat) (h : j < l.length) : packed n l / 2 ^ (n * j) % 2 ^ n = l[j] % 2 ^ n := by
  induction l generalizing j with
  | nil => exact absurd h (Nat.not_lt_zero j)
  | cons x r ih =>
    cases j with
    | zero => simp [packed]
    | succ j =>
      have hd : packed n (x :: r) / 2 ^ n = packed n r := by
        rw [packed, Nat.add_mul_div_left _ _ (Nat.two_pow_pos n), Nat.div_eq_of_lt (Nat.mod_lt _ (Nat.two_pow_pos n)), Nat.zero_add]
      rw [Nat.mul_add, Nat.mul_one, Nat.add_comm, Nat.pow_add, ← Nat.div_div_eq_div_mul, hd]
      exact ih j (Nat.lt_of_succ_lt_succ h)

theorem laneBits_mul (t : ETy) : laneBits t * (512 / laneBits t) = 512 := by cases t <;> rfl

/-- Lane `j` of a register made of lanes. -/
theorem laneAt_ofLanes {n : Nat} {l : List Nat} (hl : n * l.length = 512) {j : Nat} (h : j < l.length) :
    laneAt n (ofLanes n l) j = l[j] % 2 ^ n := by
  unfold laneAt ofLanes
  have hp := packed_lt n l
  rw [hl] at hp
  rw [foldl_zipIdx_eq_packed, BitVec.toNat_ofNat, Nat.zero_add, Nat.mul_zero, Nat.pow_zero, Nat.one_mul, Nat.mod_eq_of_lt hp,
    packed_digit n l j h]

/-! ## The lanes that are switched on -/

theorem zipIdx_map_range {α : Type} (f : Nat → α) (n : Nat) : ((List.range n).map f).zipIdx = (List.range n).map fun j => (f j, j) := by
  refine List.ext_getElem (by simp) fun i h1 h2 => ?_
  simp

/-- All 64 bytes valid, the active lanes are those the mask switches on. -/
theorem Slot.actives_eq (s : State) (t : ETy) (mask : Option (Fin 4)) :
    s.me.actives (laneBits t) mask 64 = (List.range (512 / laneBits t)).map (laneOn s (laneBits t) mask) := by
  have hv : ∀ j < 512 / laneBits t, decide ((j + 1) * (laneBits t / 8) ≤ 64) = true := by
    intro j hj
    refine decide_eq_true ?_
    calc (j + 1) * (laneBits t / 8) ≤ 512 / laneBits t * (laneBits t / 8) := Nat.mul_le_mul_right _ hj
      _ ≤ 64 := by cases t <;> decide
  unfold Slot.actives
  cases mask with
  | none =>
    dsimp only
    rw [zipIdx_map_range, List.map_map]
    refine List.map_congr_left fun j hj => ?_
    simp only [Function.comp, hv j (List.mem_range.mp hj), Bool.and_true]
    rfl
  | some i =>
    dsimp only
    rw [bit0s, lanesOf, List.map_map, zipIdx_map_range, List.map_map]
    refine List.map_congr_left fun j hj => ?_
    simp only [Function.comp, hv j (List.mem_range.mp hj), Bool.and_true]
    rfl

/-! ## The result of a lane-wise operation -/

/-- A register whose active lanes are new. -/
def newLanes (s : State) (d : VReg) (t : ETy) (mask : Option (Fin 4)) (f : Nat → Lane) : VWord :=
  ofLanes (laneBits t) ((List.range (512 / laneBits t)).map fun j =>
    if laneOn s (laneBits t) mask j then (f j).1 else laneAt (laneBits t) (s.me.rv d) j)

theorem laneAt_lt (n : Nat) (x : VWord) (j : Nat) : laneAt n x j < 2 ^ n := Nat.mod_lt _ (Nat.two_pow_pos n)

theorem laneAt_newLanes (s : State) (d : VReg) (t : ETy) (mask : Option (Fin 4)) (f : Nat → Lane) {j : Nat} (h : j < 512 / laneBits t) :
    laneAt (laneBits t) (newLanes s d t mask f) j =
      if laneOn s (laneBits t) mask j then (f j).1 % 2 ^ laneBits t else laneAt (laneBits t) (s.me.rv d) j := by
  rw [newLanes, laneAt_ofLanes (by simpa using laneBits_mul t) (by simpa using h), List.getElem_map, List.getElem_range]
  split
  · rfl
  · exact Nat.mod_eq_of_lt (laneAt_lt _ _ _)

/-- The flags of the active lanes. -/
def laneFlags (s : State) (t : ETy) (mask : Option (Fin 4)) (f : Nat → Lane) : FFlags :=
  ((List.range (512 / laneBits t)).filter (laneOn s (laneBits t) mask)).foldl (fun (y : FFlags) j => y ||| (f j).2) 0

theorem lanewise_eq (s : State) (d : VReg) (t : ETy) (mask : Option (Fin 4)) (f : Nat → Lane) :
    ∃ m, lanewise s.me d (laneBits t) (s.me.actives (laneBits t) mask 64) ((List.range (512 / laneBits t)).map f) =
      .v d (newLanes s d t mask f) m (laneFlags s t mask f) := by
  unfold lanewise
  dsimp only
  rw [Slot.actives_eq, lanesOf]
  refine ⟨byteMask (laneBits t) ((List.range (512 / laneBits t)).map (laneOn s (laneBits t) mask)), ?_⟩
  simp only [List.zip_map', List.map_map, List.foldl_map]
  rw [newLanes, laneFlags, List.foldl_filter]
  rfl

/-! ## A plain vector instruction -/

theorem vform_plain {h : Hdr} {o : VOp} {s : State} (p : PlainVector h s) : vform h o s = vexecute s o 64 false Slot.next := by
  obtain ⟨r, hr, hs, -⟩ := p
  refine (homeOnly_runs h s _ _ _ r).trans ?_
  rw [hr]
  exact streamGate_go s _ _ _ (gates_none _ _ _ hs)

theorem Slot.wvM_none (sl : Slot) (r : VReg) (x : VWord) (m : BitVec 64) (z : sl.streams = #v[none, none, none, none]) :
    sl.wvM r x m = sl.wv r x := by
  unfold Slot.wvM
  rw [Slot.stream_none sl r z]

/-- The effect of a plain instruction that has no local access: nothing is popped, and nothing is trapped. -/
theorem vfinish_plain {s u : State} {fl : FFlags} {f : Slot → Slot} (hf : u = s.mod f)
    (hk : (f s.me).fen = s.me.fen ∧ (f s.me).flags = s.me.flags) (z : s.me.fen = 0) :
    vfinish u fl Slot.next = .next (s.mod fun sl => { (f sl).next with flags := sl.flags ||| fl }) := by
  obtain ⟨he, hfl⟩ := hk
  unfold vfinish
  dsimp only
  rw [hf, State.mod_mod, State.fpPark_off]
  · refine congrArg Host.Outcome.next (State.mod_congr _ _ _ ?_)
    rw [hfl]
  · rw [State.me_mod]
    show fl &&& (f s.me).next.fen = 0
    rw [Slot.next_fen, he, z]
    exact BitVec.and_zero

theorem vexecute_v {s : State} {o : VOp} {d : VReg} {x : VWord} {m : BitVec 64} {fl : FFlags} (hl : vopLocal o = false)
    (hs : NoStreams s) (z : s.me.fen = 0) (e : vresult s.myCore s.me o 64 false = .v d x m fl) :
    vexecute s o 64 false Slot.next = .next (s.mod fun sl => { (sl.wv d x).next with flags := sl.flags ||| fl }) := by
  unfold vexecute
  simp only [hl, Bool.false_and, Bool.false_eq_true, if_false, e, applyVRes]
  refine vfinish_plain (f := fun sl => sl.wv d x) ?_ ⟨rfl, rfl⟩ z
  rw [State.mod_mod]
  refine State.mod_congr _ _ _ ?_
  rw [Slot.pops_none _ _ hs, Slot.wvM_none _ _ _ _ hs]

/-- A plain instruction whose result is one lane for each lane of its destination. -/
theorem laneWise_of_vresult {i : Instr} {h : Hdr} {o : VOp} {s : State} {d : VReg} {t : ETy} {mask : Option (Fin 4)} {f : Nat → Lane}
    {r : List Lane} (hx : exec i s = vform h o s) (p : PlainVector h s) (hl : vopLocal o = false)
    (e : vresult s.myCore s.me o 64 false = lanewise s.me d (laneBits t) (s.me.actives (laneBits t) mask 64) r)
    (hr : r = (List.range (512 / laneBits t)).map f) : LaneWise i s d t mask f := by
  obtain ⟨m, hm⟩ := lanewise_eq s d t mask f
  refine ⟨newLanes s d t mask f, ?_, fun j hj => laneAt_newLanes s d t mask f hj⟩
  exact hx.trans ((vform_plain p).trans (vexecute_v hl p.2.2.1 p.2.2.2 (e.trans (hr ▸ hm))))

/-! ## Sources by lane -/

theorem Slot.rvS_none (sl : Slot) (r : VReg) (z : sl.streams = #v[none, none, none, none]) : sl.rvS r = sl.rv r := by
  unfold Slot.rvS
  rw [Slot.stream_none sl r z]

section
variable {s : State} (z : NoStreams s)
include z

theorem vLanes_eq (t : ETy) (a : VReg) : s.me.vLanes t a = (List.range (512 / laneBits t)).map (laneAt (laneBits t) (s.me.rv a)) := by
  rw [Slot.vLanes, Slot.rvS_none _ _ z]
  rfl

theorem vfLanes_eq (t : ETy) (b : VF) : s.me.vfLanes t b = (List.range (512 / laneBits t)).map (vfAt s t b) := by
  cases b with
  | v r => exact vLanes_eq z t r
  | f r => rfl

theorem vsLanes_eq (t : ETy) (b : VS) : s.me.vsLanes t b = (List.range (512 / laneBits t)).map (vsAt s t b) := by
  cases b with
  | v r => exact vLanes_eq z t r
  | s r => rfl

end

theorem zipWith_map_range {α β γ : Type} (f : α → β → γ) (g : Nat → α) (k : Nat → β) (n : Nat) :
    List.zipWith f ((List.range n).map g) ((List.range n).map k) = (List.range n).map fun j => f (g j) (k j) := by
  rw [List.zipWith_map, List.zipWith_self]

/-! ## Arithmetic and comparison (10 R212-R216) -/

section
variable {i : Instr} {h : Hdr} {m : VMod} {d a : VReg} {s : State} (p : PlainVector h s)
include p

theorem fbin_laneWise {o : VFBin} {b : VF} (hx : exec i s = vform h (.fbin o m d a b) s) : LaneWise i s d m.t m.mask fun j =>
    fbinLane o m.t (rndDir m.rm s.me.rmode) (laneAt (laneBits m.t) (s.me.rv a) j) (vfAt s m.t b j) := by
  refine laneWise_of_vresult hx p rfl rfl ?_
  rw [vLanes_eq p.2.2.1, vfLanes_eq p.2.2.1]
  exact zipWith_map_range _ _ _ _

theorem fma_laneWise {o : VFma} {b c : VF} (hx : exec i s = vform h (.fma o m d a b c) s) : LaneWise i s d m.t m.mask fun j =>
    fmaLane o m.t (rndDir m.rm s.me.rmode) (laneAt (laneBits m.t) (s.me.rv a) j) (vfAt s m.t b j) (vfAt s m.t c j) := by
  refine laneWise_of_vresult hx p rfl rfl ?_
  rw [vLanes_eq p.2.2.1, vfLanes_eq p.2.2.1, vfLanes_eq p.2.2.1, List.zip_map', List.zip_map', List.map_map]
  rfl

theorem fun1_laneWise {o : VFUn} (hx : exec i s = vform h (.fun1 o m d a) s) : LaneWise i s d m.t m.mask fun j =>
    fun1Lane o m.t (rndDir m.rm s.me.rmode) (laneAt (laneBits m.t) (s.me.rv a) j) := by
  refine laneWise_of_vresult hx p rfl rfl ?_
  rw [vLanes_eq p.2.2.1, List.map_map]
  rfl

theorem ibin_laneWise {o : VIBin} {u : Bool} {b : VS} (hx : exec i s = vform h (.ibin o u m d a b) s) : LaneWise i s d m.t m.mask fun j =>
    (ibinLane o u (laneBits m.t) (laneAt (laneBits m.t) (s.me.rv a) j) (vsAt s m.t b j), 0) := by
  refine laneWise_of_vresult hx p rfl rfl ?_
  rw [vLanes_eq p.2.2.1, vsLanes_eq p.2.2.1]
  exact zipWith_map_range _ _ _ _

/-- An operation on the lanes of one source that raises nothing. -/
theorem unary_laneWise {o : VOp} (g : Nat → Nat) (hx : exec i s = vform h o s) (hl : vopLocal o = false)
    (e : vresult s.myCore s.me o 64 false = lanewise s.me d (laneBits m.t) (s.me.actives (laneBits m.t) m.mask 64)
      ((s.me.vLanes m.t a).map fun x => (g x, 0))) :
    LaneWise i s d m.t m.mask fun j => (g (laneAt (laneBits m.t) (s.me.rv a) j), 0) := by
  refine laneWise_of_vresult hx p hl e ?_
  rw [vLanes_eq p.2.2.1, List.map_map]
  rfl

theorem cmp_laneWise {c : Cond} {b : VS} (hx : exec i s = vform h (.cmp c m d a b) s) : LaneWise i s d m.t m.mask fun j =>
    (allOnesIf (laneBits m.t) (condW c (BitVec.ofNat (laneBits m.t) (laneAt (laneBits m.t) (s.me.rv a) j))
      (BitVec.ofNat (laneBits m.t) (vsAt s m.t b j))), 0) := by
  refine laneWise_of_vresult hx p rfl rfl ?_
  rw [vLanes_eq p.2.2.1, vsLanes_eq p.2.2.1]
  exact zipWith_map_range _ _ _ _

theorem fcmp_laneWise {c : FCond} {b : VF} (hx : exec i s = vform h (.fcmp c m d a b) s) : LaneWise i s d m.t m.mask fun j =>
    (allOnesIf (laneBits m.t) (fCmp c (tyDecode m.t (laneAt (laneBits m.t) (s.me.rv a) j)) (tyDecode m.t (vfAt s m.t b j))).1,
      (fCmp c (tyDecode m.t (laneAt (laneBits m.t) (s.me.rv a) j)) (tyDecode m.t (vfAt s m.t b j))).2) := by
  refine laneWise_of_vresult hx p rfl rfl ?_
  rw [vLanes_eq p.2.2.1, vfLanes_eq p.2.2.1]
  exact zipWith_map_range _ _ _ _

end

theorem vectorFloat : Claims.VectorFloat := by
  intro h m d a b c s p
  refine ⟨?_, ?_, ?_, ?_, ?_, ?_, ?_, ?_, ?_, ?_, ?_, ?_, ?_, ?_, ?_, ?_⟩
  · exact fbin_laneWise (o := .add) (b := b) p rfl
  · exact fbin_laneWise (o := .sub) (b := b) p rfl
  · exact fbin_laneWise (o := .mul) (b := b) p rfl
  · exact fbin_laneWise (o := .div) (b := b) p rfl
  · exact fma_laneWise (o := .ma) (b := b) (c := c) p rfl
  · exact fma_laneWise (o := .ms) (b := b) (c := c) p rfl
  · exact fma_laneWise (o := .nma) (b := b) (c := c) p rfl
  · exact fbin_laneWise (o := .min) (b := b) p rfl
  · exact fbin_laneWise (o := .max) (b := b) p rfl
  · exact fun1_laneWise (o := .abs) p rfl
  · exact fun1_laneWise (o := .neg) p rfl
  · exact fun1_laneWise (o := .sqrt) p rfl
  · exact fun1_laneWise (o := .exp2) p rfl
  · exact fun1_laneWise (o := .log2) p rfl
  · exact fun1_laneWise (o := .rcp) p rfl
  · exact fun1_laneWise (o := .rsq) p rfl

theorem foldl_eq_of_mem {α β : Type} {f g : β → α → β} {l : List α} {b : β} (h : ∀ b, ∀ a ∈ l, f b a = g b a) : l.foldl f b = l.foldl g b := by
  induction l generalizing b with
  | nil => rfl
  | cons a l ih =>
    rw [List.foldl_cons, List.foldl_cons, h b a List.mem_cons_self]
    exact ih fun b x hx => h b x (List.mem_cons_of_mem a hx)

theorem LaneWise.congr {i : Instr} {s : State} {d : VReg} {t : ETy} {mask : Option (Fin 4)} {f g : Nat → Lane}
    (hf : LaneWise i s d t mask f) (e : ∀ j < 512 / laneBits t, f j = g j) : LaneWise i s d t mask g := by
  obtain ⟨x, hx, hl⟩ := hf
  have hfl : laneFlags s t mask f = laneFlags s t mask g :=
    foldl_eq_of_mem fun y j hj => by rw [e j (List.mem_range.mp (List.mem_filter.mp hj).1)]
  unfold laneFlags at hfl
  refine ⟨x, by rw [← hfl]; exact hx, fun j hj => ?_⟩
  rw [← e j hj]
  exact hl j hj

theorem allOnesIf_eq (n : Nat) (b : Bool) : allOnesIf n b = (if b then BitVec.allOnes n else 0 : BitVec n).toNat := by
  cases b <;> simp [allOnesIf]

/-- The absolute value of a lane. -/
theorem vabsLane_eq (n : Nat) (hn : 0 < n) (x : Nat) (h : x < 2 ^ n) :
    (if 2 ^ (n - 1) ≤ x then (2 ^ n - x) % 2 ^ n else x) =
      (if (BitVec.ofNat n x).toInt < 0 then -BitVec.ofNat n x else BitVec.ofNat n x).toNat := by
  have hp : 2 ^ n = 2 * 2 ^ (n - 1) := by rw [← Nat.pow_succ', Nat.succ_eq_add_one, Nat.sub_add_cancel hn]
  have hs : (BitVec.ofNat n x).toInt < 0 ↔ 2 ^ (n - 1) ≤ x := by
    rw [BitVec.toInt_neg_iff, BitVec.toNat_ofNat, Nat.mod_eq_of_lt h]
    omega
  by_cases hx : 2 ^ (n - 1) ≤ x
  · rw [if_pos hx, if_pos (hs.mpr hx), BitVec.toNat_neg, BitVec.toNat_ofNat, Nat.mod_eq_of_lt h]
  · rw [if_neg hx, if_neg (fun n => hx (hs.mp n)), BitVec.toNat_ofNat, Nat.mod_eq_of_lt h]

theorem vectorInteger : Claims.VectorInteger := by
  intro h u m d a b e c q s p
  refine ⟨?_, ?_, ?_, ?_, ?_, ?_, ?_, ?_, ?_, ?_, ?_, ?_, ?_, ?_, ?_, ?_, ?_, ?_⟩
  · exact ibin_laneWise (o := .add) (u := false) (b := b) p rfl
  · exact ibin_laneWise (o := .sub) (u := false) (b := b) p rfl
  · exact ibin_laneWise (o := .mul) (u := false) (b := b) p rfl
  · exact ibin_laneWise (o := .mulh) (u := u) (b := b) p rfl
  · refine LaneWise.congr (ibin_laneWise (o := .min) (u := u) (b := b) p rfl) fun j _ => ?_
    cases u <;> simp [ibinLane, uminW, sminW, BitVec.slt]
  · refine LaneWise.congr (ibin_laneWise (o := .max) (u := u) (b := b) p rfl) fun j _ => ?_
    cases u <;> simp [ibinLane, umaxW, smaxW, BitVec.slt]
  · exact ibin_laneWise (o := .and) (u := false) (b := b) p rfl
  · exact ibin_laneWise (o := .or) (u := false) (b := b) p rfl
  · exact ibin_laneWise (o := .xor) (u := false) (b := b) p rfl
  · exact ibin_laneWise (o := .shl) (u := false) (b := b) p rfl
  · exact ibin_laneWise (o := .shr) (u := false) (b := b) p rfl
  · exact ibin_laneWise (o := .sra) (u := false) (b := b) p rfl
  · refine LaneWise.congr (unary_laneWise (m := m) p (fun x => if 2 ^ (laneBits m.t - 1) ≤ x then (2 ^ laneBits m.t - x) % 2 ^ laneBits m.t else x)
      rfl rfl rfl) fun j _ => ?_
    rw [vabsLane_eq _ (by cases m.t <;> decide) _ (laneAt_lt _ _ _)]
  · refine LaneWise.congr (ibin_laneWise (o := .div) (u := u) (b := b) p rfl) fun j _ => ?_
    cases u <;> simp [ibinLane, udivW, sdivW]
  · refine LaneWise.congr (ibin_laneWise (o := .rem) (u := u) (b := b) p rfl) fun j _ => ?_
    cases u <;> simp [ibinLane, uremW, sremW]
  · refine LaneWise.congr (unary_laneWise (m := m) p (fun x => popcW (BitVec.ofNat (laneBits m.t) x)) rfl rfl rfl) fun j _ => ?_
    rw [BitVec.toNat_ofNat, Nat.mod_eq_of_lt]
    · rfl
    · exact Nat.lt_of_le_of_lt (List.length_filter_le _ _) (by rw [List.length_range]; exact Nat.lt_two_pow_self)
  · exact LaneWise.congr (cmp_laneWise (b := b) p rfl) fun j _ => by rw [allOnesIf_eq]
  · exact fcmp_laneWise (b := e) p rfl

/-- Settles O26: each instruction's lanes are its operation on its sources' lanes, by one lemma for each shape. -/
theorem vectorArithmetic : Obligations.VectorArithmetic := ⟨vectorFloat, vectorInteger⟩

end Sys2Proof.Machine
end

section
/-! SUPPORT. Vector moves, reductions and conversions on lanes (10 R217-R222). -/

namespace Sys2Proof.Machine

/-! ## Lists of lanes -/

theorem getD_of_lt {α : Type} {l : List α} {i : Nat} (d : α) (h : i < l.length) : l.getD i d = l[i] := by
  rw [List.getD_eq_getElem?_getD, List.getElem?_eq_getElem h, Option.getD_some]

theorem getD_of_ge {α : Type} {l : List α} {i : Nat} (d : α) (h : l.length ≤ i) : l.getD i d = d := by
  rw [List.getD_eq_getElem?_getD, List.getElem?_eq_none h, Option.getD_none]

theorem getD_append_of_lt {α : Type} {l l' : List α} {i : Nat} (d : α) (h : i < l.length) : (l ++ l').getD i d = l.getD i d := by
  rw [List.getD_eq_getElem?_getD, List.getD_eq_getElem?_getD, List.getElem?_append_left h]

theorem getD_append_of_ge {α : Type} {l l' : List α} {i : Nat} (d : α) (h : l.length ≤ i) :
    (l ++ l').getD i d = l'.getD (i - l.length) d := by
  rw [List.getD_eq_getElem?_getD, List.getD_eq_getElem?_getD, List.getElem?_append_right h]

theorem getD_map_range (f : Nat → Nat) (n i : Nat) : ((List.range n).map f).getD i 0 = if i < n then f i else 0 := by
  by_cases h : i < n
  · rw [if_pos h, getD_of_lt _ (by simpa using h), List.getElem_map, List.getElem_range]
  · rw [if_neg h, getD_of_ge _ (by simpa using h)]

theorem append_replicate_eq_map_getD (l : List Nat) {n : Nat} (h : l.length ≤ n) :
    l ++ List.replicate (n - l.length) 0 = (List.range n).map fun j => l.getD j 0 := by
  refine List.ext_getElem (by simp; omega) fun i h1 h2 => ?_
  rw [List.getElem_map, List.getElem_range]
  by_cases hi : i < l.length
  · rw [List.getElem_append_left hi, getD_of_lt _ hi]
  · rw [List.getElem_append_right (Nat.le_of_not_lt hi), List.getElem_replicate, getD_of_ge _ (Nat.le_of_not_lt hi)]

theorem filterMap_zip_map_range (on : Nat → Bool) (x : Nat → Nat) (l : List Nat) :
    (List.zip (l.map on) (l.map x)).filterMap (fun y => if y.1 then some y.2 else none) = (l.filter on).map x := by
  rw [List.zip_map']
  induction l with
  | nil => rfl
  | cons j l ih =>
    rw [List.map_cons, List.filterMap_cons]
    cases h : on j <;> simp [h, ih]

/-- The number of lanes switched on below one. -/
def onBelow (on : Nat → Bool) (j : Nat) : Nat := ((List.range j).filter on).length

theorem onBelow_succ (on : Nat → Bool) (j : Nat) : onBelow on (j + 1) = onBelow on j + if on j then 1 else 0 := by
  rw [onBelow, List.range_succ, List.filter_append, List.length_append, onBelow]
  cases h : on j <;> simp [h]

theorem expandLanes_range' (on : Nat → Bool) (x old : Nat → Nat) (n k m : Nat) (h : n ≤ m) :
    expandLanes ((List.range' k n).map on) ((List.range' (onBelow on k) m).map x) ((List.range' k n).map old) =
      (List.range' k n).map fun j => if on j then x (onBelow on j) else old j := by
  induction n generalizing k m with
  | zero => rfl
  | succ n ih =>
    obtain ⟨m, rfl⟩ : ∃ m', m = m' + 1 := ⟨m - 1, by omega⟩
    have hs := onBelow_succ on k
    rw [List.range'_succ, List.map_cons, List.map_cons, List.map_cons]
    cases ho : on k with
    | true =>
      rw [ho, if_pos rfl] at hs
      rw [List.range'_succ, List.map_cons, expandLanes, ← hs, ih (k + 1) m (by omega)]
      rfl
    | false =>
      simp only [ho, Bool.false_eq_true, if_false, Nat.add_zero] at hs
      have ih' := ih (k + 1) (m + 1) (by omega)
      rw [hs] at ih'
      rw [expandLanes, ih']
      rfl

theorem expandLanes_range (on : Nat → Bool) (x old : Nat → Nat) (n : Nat) :
    expandLanes ((List.range n).map on) ((List.range n).map x) ((List.range n).map old) =
      (List.range n).map fun j => if on j then x (onBelow on j) else old j := by
  rw [List.range_eq_range']
  exact expandLanes_range' on x old n 0 n (Nat.le_refl n)

theorem set_map_range (f : Nat → Nat) (n i y : Nat) :
    ((List.range n).map f).set i y = (List.range n).map fun j => if j = i then y else f j := by
  refine List.ext_getElem (by simp) fun j h1 h2 => ?_
  simp [List.getElem_set, eq_comm]

theorem flatten_pairs (u v : Nat → Nat) (n : Nat) : ((List.range n).map fun j => [u j, v j]).flatten =
    (List.range (2 * n)).map fun j => if j % 2 = 0 then u (j / 2) else v (j / 2) := by
  induction n with
  | zero => rfl
  | succ n ih =>
    have h0 : 2 * n % 2 = 0 := by omega
    have h1 : (2 * n + 1) % 2 ≠ 0 := by omega
    have hd : (2 * n + 1) / 2 = n := by omega
    rw [List.range_succ, List.map_append, List.flatten_append, ih, show 2 * (n + 1) = 2 * n + 1 + 1 from by omega, List.range_succ,
      List.range_succ]
    simp [h0, h1, hd]

theorem replicate_eq_map_range (n y : Nat) : List.replicate n y = (List.range n).map fun _ => y := by
  rw [List.map_const', List.length_range]

/-! ## Moves between lanes -/

theorem LaneWise.congr_low {i : Instr} {s : State} {d : VReg} {t : ETy} {mask : Option (Fin 4)} {f g : Nat → Lane}
    (hf : LaneWise i s d t mask f)
    (e : ∀ j < 512 / laneBits t, (f j).1 % 2 ^ laneBits t = (g j).1 % 2 ^ laneBits t ∧ (f j).2 = (g j).2) : LaneWise i s d t mask g := by
  obtain ⟨x, hx, hl⟩ := hf
  have hfl : laneFlags s t mask f = laneFlags s t mask g :=
    foldl_eq_of_mem fun y j hj => by rw [(e j (List.mem_range.mp (List.mem_filter.mp hj).1)).2]
  unfold laneFlags at hfl
  refine ⟨x, by rw [← hfl]; exact hx, fun j hj => ?_⟩
  rw [← (e j hj).1]
  exact hl j hj

theorem bit0s_eq (n : Nat) (x : VWord) : bit0s n x = (List.range (512 / n)).map fun j => decide (laneAt n x j % 2 = 1) :=
  List.map_map ..

section
variable {i : Instr} {h : Hdr} {t : ETy} {d : VReg} {s : State} (p : PlainVector h s)
include p

theorem moved_laneWise {o : VOp} {r : List Nat} {f : Nat → Nat} (hx : exec i s = vform h o s) (hl : vopLocal o = false)
    (e : vresult s.myCore s.me o 64 false = moved s.me d (laneBits t) 64 r) (hr : r = (List.range (512 / laneBits t)).map f) :
    LaneWise i s d t none fun j => (f j, 0) := by
  refine laneWise_of_vresult hx p hl e ?_
  rw [hr, List.map_map]
  rfl

end

/-- The Morton key of the lanes numbered `j`, of the low or the high half (10 R222). -/
def zordKey (s : State) (hi : Bool) (a b : VReg) (c : Option VReg) (j : Nat) : Nat :=
  zkey (laneAt 32 (s.me.rv a) (j + if hi then 8 else 0)) (laneAt 32 (s.me.rv b) (j + if hi then 8 else 0))
    (c.map fun r => laneAt 32 (s.me.rv r) (j + if hi then 8 else 0))

theorem vectorMoves : Claims.VectorMoves := by
  intro h t d a b c oc e k x2 hi s p
  have z := p.2.2.1
  have hlen (r : VReg) : (s.me.vLanes t r).length = 512 / laneBits t := by rw [vLanes_eq z]; simp
  have hget (r : VReg) (j : Nat) : (s.me.vLanes t r).getD j 0 = if j < 512 / laneBits t then laneAt (laneBits t) (s.me.rv r) j else 0 := by
    rw [vLanes_eq z, getD_map_range]
  refine ⟨?_, ?_, ?_, ?_, ?_, ?_, ?_, ?_, ?_, ?_⟩
  · refine moved_laneWise p (o := .sel t d a b c) rfl rfl rfl ?_
    rw [vLanes_eq z, vLanes_eq z, vLanes_eq z, List.zip_map', List.zip_map', List.map_map]
    refine List.map_congr_left fun j _ => ?_
    simp
  · refine moved_laneWise p (o := .compress t d a b) rfl rfl rfl ?_
    rw [Slot.rvS_none _ _ z, bit0s_eq, vLanes_eq z, filterMap_zip_map_range, append_replicate_eq_map_getD]
    rw [List.length_map]
    exact Nat.le_trans (List.length_filter_le _ _) (Nat.le_of_eq List.length_range)
  · refine moved_laneWise p (o := .expand t d a b) rfl rfl rfl ?_
    rw [Slot.rvS_none _ _ z, bit0s_eq, vLanes_eq z]
    exact expandLanes_range _ _ _ _
  · refine moved_laneWise p (o := .slideup t d a k) rfl rfl rfl ?_
    rw [hlen]
    refine List.map_congr_left fun j hj => ?_
    rw [hget, if_pos (Nat.lt_of_le_of_lt (Nat.sub_le _ _) (List.mem_range.mp hj))]
  · refine moved_laneWise p (o := .slidedn t d a k) rfl rfl rfl ?_
    rw [hlen]
    exact List.map_congr_left fun j _ => hget _ _
  · refine moved_laneWise p (o := .perm t d a b) rfl rfl rfl ?_
    rw [vLanes_eq z t b, List.map_map]
    exact List.map_congr_left fun j _ => hget _ _
  · refine moved_laneWise p (o := .bcastS t d e) rfl rfl rfl ?_
    rw [replicate_eq_map_range]
    cases e <;> rfl
  · refine moved_laneWise p (o := .bcastL t d a k) rfl rfl rfl ?_
    rw [replicate_eq_map_range, hget]
  · refine moved_laneWise p (o := .ins t d e k) rfl rfl rfl ?_
    refine (set_map_range _ _ _ _).trans ?_
    cases e <;> rfl
  · have hz : ∀ r j, j < 8 → (lanesOf 32 (s.me.rvS r)).getD (j + if hi then 8 else 0) 0 = laneAt 32 (s.me.rv r) (j + if hi then 8 else 0) := by
      intro r j hj
      rw [Slot.rvS_none _ _ z, lanesOf, getD_map_range, if_pos (by cases hi <;> simp <;> omega)]
      rfl
    refine LaneWise.congr_low (moved_laneWise (t := .i32) p (o := .zord x2 hi d a b oc)
      (f := fun j => if j % 2 = 0 then zordKey s hi a b oc (j / 2) % 2 ^ 32 else zordKey s hi a b oc (j / 2) / 2 ^ 32) rfl rfl rfl ?_)
      fun j _ => ⟨?_, rfl⟩
    · unfold zordLanes
      refine Eq.trans ?_ (flatten_pairs (fun j => zordKey s hi a b oc j % 2 ^ 32) (fun j => zordKey s hi a b oc j / 2 ^ 32) 8)
      refine congrArg List.flatten (List.map_congr_left fun j hj => ?_)
      have hj' := List.mem_range.mp hj
      have hc : (oc.map fun r => (lanesOf 32 (s.me.rvS r)).getD (j + if hi then 8 else 0) 0) =
          oc.map fun r => laneAt 32 (s.me.rv r) (j + if hi then 8 else 0) := by
        cases oc with
        | none => rfl
        | some r => exact congrArg some (hz r j hj')
      dsimp only
      rw [hz a j hj', hz b j hj', hc]
      rfl
    · rcases Nat.mod_two_eq_zero_or_one j with h | h <;> simp [h, laneBits, zordKey]

/-! ## Moves into a scalar register, and reductions -/

section
variable {i : Instr} {h : Hdr} {s : State} (p : PlainVector h s)
include p

theorem completesFp_of_f {o : VOp} {d : FReg} {x : Word} {fl : FFlags} (hx : exec i s = vform h o s) (hl : vopLocal o = false)
    (e : vresult s.myCore s.me o 64 false = .f d x fl) : CompletesFp i s fl fun sl => sl.wf d x := by
  refine hx.trans ((vform_plain p).trans ?_)
  unfold vexecute
  simp only [hl, Bool.false_and, Bool.false_eq_true, if_false, e, applyVRes]
  refine vfinish_plain (f := fun sl => sl.wf d x) ?_ ⟨rfl, rfl⟩ p.2.2.2
  rw [State.mod_mod]
  refine State.mod_congr _ _ _ ?_
  rw [Slot.pops_none _ _ p.2.2.1]

theorem completes_of_s {o : VOp} {d : SReg} {x : Word} (hx : exec i s = vform h o s) (hl : vopLocal o = false)
    (e : vresult s.myCore s.me o 64 false = .s d x) : Completes i s fun sl => sl.ws d x := by
  refine hx.trans ((vform_plain p).trans ?_)
  unfold vexecute
  simp only [hl, Bool.false_and, Bool.false_eq_true, if_false, e, applyVRes]
  rw [vfinish_plain (s := s) (f := fun sl => sl.ws d x) ?_ ⟨Slot.ws_fen _ _ _, Slot.ws_flags _ _ _⟩ p.2.2.2]
  · refine congrArg Host.Outcome.next (State.mod_congr _ _ _ ?_)
    rw [show s.me.flags ||| (0 : FFlags) = (s.me.ws d x).next.flags by rw [Slot.next_flags, Slot.ws_flags]; exact BitVec.or_zero]
  · rw [State.mod_mod]
    refine State.mod_congr _ _ _ ?_
    rw [Slot.pops_none _ _ p.2.2.1]

/-- No exception raised, none added. -/
theorem completes_of_f {o : VOp} {d : FReg} {x : Word} (hx : exec i s = vform h o s) (hl : vopLocal o = false)
    (e : vresult s.myCore s.me o 64 false = .f d x 0) : Completes i s fun sl => sl.wf d x := by
  refine Eq.trans (completesFp_of_f p hx hl e) (congrArg Host.Outcome.next (State.mod_congr _ _ _ ?_))
  rw [show s.me.flags ||| (0 : FFlags) = (s.me.wf d x).next.flags by rw [Slot.next_flags, Slot.wf_flags]; exact BitVec.or_zero]

end

/-- The lanes of a reduction: those switched off give the identity. -/
theorem zip_actives (s : State) (t : ETy) (mask : Option (Fin 4)) (a : VReg) (z : NoStreams s) (y : Nat) :
    (List.zip (s.me.actives (laneBits t) mask 64) (s.me.vLanes t a)).map (fun x => if x.1 then x.2 else y) =
      (List.range (512 / laneBits t)).map fun j =>
        if laneOn s (laneBits t) mask j then laneAt (laneBits t) (s.me.rv a) j else y := by
  rw [Slot.actives_eq, vLanes_eq z, List.zip_map', List.map_map]
  rfl

theorem redFloat_eq (s : State) (o : VRed) (m : VMod) (f : FReg) (a : VReg) (z : NoStreams s) :
    vresult s.myCore s.me (.red o m f a) 64 false =
      .f f (BitVec.ofNat 64 (tree (redStep o m.t (rndDir m.rm s.me.rmode)) 6 ((List.range (512 / laneBits m.t)).map fun j =>
          (if laneOn s (laneBits m.t) m.mask j then laneAt (laneBits m.t) (s.me.rv a) j else redIdentity o (fmtOf m.t), 0))).1)
        (tree (redStep o m.t (rndDir m.rm s.me.rmode)) 6 ((List.range (512 / laneBits m.t)).map fun j =>
          (if laneOn s (laneBits m.t) m.mask j then laneAt (laneBits m.t) (s.me.rv a) j else redIdentity o (fmtOf m.t), 0))).2 := by
  have hz := zip_actives s m.t m.mask a z (redIdentity o (fmtOf m.t))
  show redFloat s.me o m.t (rndDir m.rm s.me.rmode) f a (s.me.actives (laneBits m.t) m.mask 64) false = _
  unfold redFloat
  dsimp only
  rw [hz, List.map_map]
  rfl

theorem ofNat_mod_two_pow (n x : Nat) : BitVec.ofNat n (x % 2 ^ n) = BitVec.ofNat n x := by
  refine BitVec.eq_of_toNat_eq ?_
  rw [BitVec.toNat_ofNat, BitVec.toNat_ofNat, Nat.mod_mod]

theorem vectorToScalar : Claims.VectorToScalar := by
  intro h t sg m d f a k s p
  have z := p.2.2.1
  have hget : (s.me.vLanes t a).getD (s.me.rsi k).toNat 0 =
      if (s.me.rsi k).toNat < 512 / laneBits t then laneAt (laneBits t) (s.me.rv a) (s.me.rsi k).toNat else 0 := by
    rw [vLanes_eq z, getD_map_range]
  have hred (o : VRed) {i : Instr} (hx : exec i s = vform h (.red o m f a) s) := completesFp_of_f p hx rfl (redFloat_eq s o m f a z)
  refine ⟨?_, ?_, ?_, ?_, hred .add rfl, hred .max rfl, hred .min rfl, ?_⟩
  · refine completes_of_s (o := .movLane t sg (.s d) a k) p rfl rfl ?_
    rw [← hget]
    rfl
  · refine completes_of_f (o := .movLane t sg (.f f) a k) p rfl rfl ?_
    rw [← hget]
    rfl
  · refine completes_of_s (o := .movCnt t d a) p rfl rfl ?_
    show VRes.s d (BitVec.ofNat 64 ((bit0s (laneBits t) (s.me.rvS a)).filter id).length) = _
    rw [Slot.rvS_none _ _ z, bit0s_eq, List.filter_map, List.length_map]
    rfl
  · refine completes_of_s (o := .movBits t d a) p rfl rfl ?_
    show VRes.s d (BitVec.ofNat 64 (((bit0s (laneBits t) (s.me.rvS a)).zipIdx).foldl _ 0)) = _
    rw [Slot.rvS_none _ _ z, bit0s_eq, zipIdx_map_range, List.foldl_map]
  · refine completes_of_s (o := .redi m d a) p rfl rfl ?_
    show redInt s.me m.t d a (s.me.actives (laneBits m.t) m.mask 64) false = _
    unfold redInt sext
    dsimp only
    rw [zip_actives s m.t m.mask a z 0, ofNat_mod_two_pow, if_neg Bool.false_ne_true, ← List.sum_eq_foldl]

/-! ## Conversions -/

/-- Beyond its last lane a register reads as zero. -/
theorem laneAt_of_ge (t : ETy) (x : VWord) {j : Nat} (h : 512 / laneBits t ≤ j) : laneAt (laneBits t) x j = 0 := by
  have hx : x.toNat < 2 ^ (laneBits t * j) :=
    Nat.lt_of_lt_of_le x.isLt (Nat.pow_le_pow_right (by decide) (by
      calc 512 = laneBits t * (512 / laneBits t) := (laneBits_mul t).symm
        _ ≤ laneBits t * j := Nat.mul_le_mul_left _ h))
  rw [laneAt, Nat.div_eq_of_lt hx, Nat.zero_mod]

theorem lanesOf_getD (t : ETy) (x : VWord) (j : Nat) : (lanesOf (laneBits t) x).getD j 0 = laneAt (laneBits t) x j := by
  refine (getD_map_range (laneAt (laneBits t) x) _ j).trans ?_
  split
  · rfl
  next h => exact (laneAt_of_ge t x (Nat.le_of_not_lt h)).symm

theorem quantBlock_length (t : ETy) (vs : List Fv) : (quantBlock t vs).2.length = vs.length := by
  unfold quantBlock
  dsimp only
  split
  · exact List.length_map _
  · split <;> exact List.length_map _

/-- The lanes a block conversion writes: the codes, the scale, and zeros (10 R219). -/
def blockLanes (dst : ETy) (vs : List Fv) : List Lane :=
  (quantBlock dst vs).2 ++ ((quantBlock dst vs).1, 0) :: List.replicate 31 (0, 0)

theorem blockLanes_eq_map (dst : ETy) {vs : List Fv} (h : vs.length = 32) :
    blockLanes dst vs = (List.range 64).map fun j => (blockLanes dst vs).getD j (0, 0) := by
  have hl : (blockLanes dst vs).length = 64 := by simp [blockLanes, quantBlock_length, h]
  refine List.ext_getElem (by simp [hl]) fun i h1 h2 => ?_
  rw [List.getElem_map, List.getElem_range, getD_of_lt _ h1]

theorem blockLanes_scale (dst : ETy) {vs : List Fv} (h : vs.length = 32) : (blockLanes dst vs).getD 32 (0, 0) = ((quantBlock dst vs).1, 0) := by
  have hq := (quantBlock_length dst vs).trans h
  rw [blockLanes, getD_append_of_ge _ (by omega), hq]
  rfl

theorem blockLanes_code (dst : ETy) {vs : List Fv} (h : vs.length = 32) {j : Nat} (hj : j < 32) :
    ((blockLanes dst vs).getD j (0, 0)).1 = ((quantise dst vs).2.1).getD j 0 := by
  have hq := (quantBlock_length dst vs).trans h
  rw [blockLanes, getD_append_of_lt _ (by omega)]
  show _ = ((quantBlock dst vs).2.map (·.1)).getD j 0
  rw [getD_of_lt _ (by omega), getD_of_lt _ (by rw [List.length_map]; omega), List.getElem_map]

/-- A plain instruction that writes two registers. -/
theorem vexecute_pair {s : State} {o : VOp} {d : VReg} {x y : VWord} {m : BitVec 64} {fl : FFlags} (hl : vopLocal o = false)
    (hs : NoStreams s) (z : s.me.fen = 0) (e : vresult s.myCore s.me o 64 false = .pair d x y m fl) :
    vexecute s o 64 false Slot.next =
      .next (s.mod fun sl => { ((sl.wv d x).wv (d + 1) y).next with flags := sl.flags ||| fl }) := by
  unfold vexecute
  simp only [hl, Bool.false_and, Bool.false_eq_true, if_false, e, applyVRes]
  refine vfinish_plain (f := fun sl => (sl.wv d x).wv (d + 1) y) ?_ ⟨rfl, rfl⟩ z
  rw [State.mod_mod]
  refine State.mod_congr _ _ _ ?_
  rw [Slot.pops_none _ _ hs, Slot.wvM_none s.me _ _ _ hs, Slot.wvM_none (s.me.wv d x) _ _ _ hs]

/-- A block conversion writes one register or two. -/
theorem vresult_cvts (s : State) (dst src : ETy) (d a : VReg) :
    (∃ x m fl, vresult s.myCore s.me (.cvts dst src d a) 64 false = .v d x m fl) ∨
      ∃ x y m fl, vresult s.myCore s.me (.cvts dst src d a) 64 false = .pair d x y m fl := by
  unfold vresult
  dsimp only
  split
  · exact .inl ⟨_, _, _, rfl⟩
  · unfold cvtsUp
    dsimp only
    split
    · exact .inr ⟨_, _, _, _, rfl⟩
    · exact .inl ⟨_, _, _, rfl⟩

theorem vectorConversions : Claims.VectorConversions := by
  intro h src dst m d a q s p
  have z := p.2.2.1
  refine ⟨?_, ?_, fun ht => ?_⟩
  · refine laneWise_of_vresult (o := .cvt src m d a q) rfl p rfl rfl ?_
    rw [List.map_map]
    refine List.map_congr_left fun j hj => ?_
    simp only [Function.comp, Slot.rvS_none _ _ z, lanesOf_getD]
    split
    · rfl
    · split <;> rfl
  · rcases vresult_cvts s dst src d a with ⟨x, y, fl, e⟩ | ⟨x, y, w, fl, e⟩
    · refine ⟨_, (vform_plain p).trans (vexecute_v rfl z p.2.2.2 e), ?_, rfl⟩
      rw [State.slot_mod_cur]
      exact (Slot.next_pc _)
    · refine ⟨_, (vform_plain p).trans (vexecute_pair rfl z p.2.2.2 e), ?_, rfl⟩
      rw [State.slot_mod_cur]
      exact (Slot.next_pc _)
  · have hvs : ((List.range 32).map fun j => tyDecode .bf16 (laneAt 16 (s.me.rv a) j)).length = 32 := by simp
    have e : vresult s.myCore s.me (.cvts dst .bf16 d a) 64 false =
        lanewise s.me d 8 (s.me.actives 8 none 64) (blockLanes dst ((List.range 32).map fun j => tyDecode .bf16 (laneAt 16 (s.me.rv a) j))) := by
      refine (if_pos ht).trans ?_
      unfold cvtsDown blockLanes
      rw [if_neg (by decide), Slot.rvS_none _ _ z, lanesOf]
      dsimp only
      rw [List.map_map]
      rfl
    rw [blockLanes_eq_map dst hvs] at e
    obtain ⟨mk, hm⟩ := lanewise_eq s d .t8 none fun j =>
      (blockLanes dst ((List.range 32).map fun j => tyDecode .bf16 (laneAt 16 (s.me.rv a) j))).getD j (0, 0)
    refine ⟨_, (vform_plain p).trans (vexecute_v rfl z p.2.2.2 (e.trans hm)), ?_⟩
    rw [State.slot_mod_cur]
    have hrv : ∀ (x : VWord) (fl : FFlags), ({ (s.me.wv d x).next with flags := fl } : Slot).rv d = x := by
      intro x fl
      show (s.me.wv d x).next.v[d] = x
      rw [Slot.next_v]
      simp [Slot.wv]
    rw [hrv]
    refine ⟨?_, fun j hj => ?_⟩
    · refine (laneAt_newLanes s d .t8 none _ (j := 32) (by decide)).trans ?_
      rw [blockLanes_scale dst hvs]
      rfl
    · refine (laneAt_newLanes s d .t8 none _ (j := j) (Nat.lt_trans hj (by decide))).trans ?_
      rw [blockLanes_code dst hvs hj]
      rfl

/-- Settles O27: each move, reduction and conversion as a map over the lanes of its sources. -/
theorem vectorLanes : Obligations.VectorLanes := ⟨vectorMoves, vectorToScalar, vectorConversions⟩

end Sys2Proof.Machine
end

section
/-! SUPPORT. A gather behind a release that is still queued (10 R223, 14 R293). -/

namespace Sys2Proof.Machine

/-- A reset core whose running slot holds an address beyond the scratchpad in s1, and in its store queue a release. -/
def gatherBehindRelease : State := State.reset.modSlot whoReset fun sl =>
  { sl.ws 1 0x40000 with storeQ := [{ (default : StoreEntry) with rel := true }] }

/-- Four-byte elements at the address in a scalar register. -/
def words : MemArgs := ⟨.slot, .w, false, 0⟩

/-- The gather does not reach its local checks: it parks until the release is performed. -/
theorem state_exec_vgath_behindRelease :
    ((stateOf State.reset (exec (.vgath plainHdr words 0 1 0) gatherBehindRelease)).slot whoReset).state = .parked := by decide +kernel

/-- Refutes O28: a gather waits for its slot's releases before its local checks, so that one behind a queued release parks where the statement
says that it traps. -/
theorem not_vectorMemory : ¬ Obligations.VectorMemory := by
  rintro ⟨gather, -⟩
  have hp : PlainVector plainHdr gatherBehindRelease := by decide +kernel
  obtain ⟨-, fault⟩ := gather plainHdr words .fp32 0 0 1 gatherBehindRelease hp (by decide)
  have he := fault (by decide +kernel) (by decide +kernel) (by decide +kernel)
  have hs := state_exec_vgath_behindRelease
  rw [he] at hs
  exact absurd hs (by decide +kernel)

end Sys2Proof.Machine
end

section
/-! SUPPORT. Task instructions and the events of the task units (16 R342-R355). -/

namespace Sys2Proof.Machine

/-! ## The release a slot carries -/

theorem State.storeQ_mod {s : State} {f : Slot → Slot} (h : (f s.me).storeQ = s.me.storeQ) (w : Who) :
    ((s.mod f).slot w).storeQ = (s.slot w).storeQ := by
  by_cases hw : w = s.cur
  · subst hw
    rw [State.slot_mod_cur]
    exact h
  · rw [State.slot_mod_ne _ _ _ hw]

theorem State.storesDone_mod {s : State} {f : Slot → Slot} (h : (f s.me).storeQ = s.me.storeQ) (l : List (Who × Nat)) :
    (s.mod f).storesDone l = s.storesDone l := by
  unfold State.storesDone
  simp only [State.storeQ_mod h]

/-- A change of the running slot that keeps its stores keeps its release. -/
theorem State.release_mod {s : State} {f : Slot → Slot} (hq : (f s.me).storeQ = s.me.storeQ) (hn : (f s.me).nextStore = s.me.nextStore)
    (hc : (f s.me).carry = s.me.carry) : (s.mod f).release s.cur = s.release s.cur := by
  unfold State.release
  simp only [State.storesDone_mod hq, State.slot_mod_cur, hn, hc]
  rfl

theorem State.jobOf_mod {s : State} {f : Slot → Slot} (hh : (f s.me).hosting = s.me.hosting) : (s.mod f).jobOf s.cur = s.jobOf s.cur := by
  have hj : ((s.mod f).core s.cur.core).job = (s.core s.cur.core).job := by rw [State.mod, State.core_modSlot_self]
  unfold State.jobOf
  rw [State.slot_mod_cur, hh, hj]
  rfl

/-! ## Spawns (16 R347-R351) -/

theorem withTask_ok {s : State} {a : SReg} {t : Task} (k : Task → Out) (q : NoRelease s) (e : s.myCore.readTask (s.me.rs a) = .inr t) :
    withTask s a k = k t := by
  unfold withTask
  rw [afterRelease_go _ q, e]

theorem withTask_bad {s : State} {a : SReg} {x : Nat} (k : Task → Out) (q : NoRelease s) (e : s.myCore.readTask (s.me.rs a) = .inl x) :
    withTask s a k = trap s 0xB 1 (BitVec.ofNat 64 x) := by
  unfold withTask
  rw [afterRelease_go _ q, e]

theorem spawnIssue_open {s : State} {d : SReg} {m : Fin 4096} {n : Nat} {sync : Bool} {k : Word → State → State}
    (h : s.me.tctx.outstanding < 8) : spawnIssue s d m n sync k =
      .next (if sync = true ∧ (k (s.me.tctx.last + 1) (spawned s d m n)).me.tctx.acc.ult (s.me.tctx.last + 1) = true then
        (k (s.me.tctx.last + 1) (spawned s d m n)).park .timeline (.timeline .t (s.me.tctx.last + 1) .sync)
        else (k (s.me.tctx.last + 1) (spawned s d m n)).mod Slot.next) := by
  refine (if_neg (Nat.not_le.mpr h)).trans ?_
  dsimp only
  split
  · rw [if_pos ‹_›]
    rfl
  · rw [if_neg ‹_›]
    rfl

theorem spawned_release (s : State) (d : SReg) (m : Fin 4096) (n : Nat) : (spawned s d m n).release s.cur = s.release s.cur :=
  State.release_mod (Slot.ws_storeQ ..) (Slot.ws_nextStore ..) (Slot.ws_carry ..)

theorem spawned_jobOf (s : State) (d : SReg) (m : Fin 4096) (n : Nat) : (spawned s d m n).jobOf s.cur = s.jobOf s.cur :=
  State.jobOf_mod (Slot.ws_hosting ..)

/-- The packet of a `spawnd` leaves its module, or goes to its own module's router (16 R349). -/
def sendSpawnd (x : Word) (page : Bool) (t : Task) (num : Word) (s : State) : State :=
  let rel := s.release s.cur
  let m := tileMod x
  let here := m == s.modId
  let p : Packet := ⟨.slot (s.agent s.cur), if here then .io else .mdl m, .notice,
    .spawnd (s.agent s.cur) num (s.jobOf s.cur) page x { t with pinned := true } (if here then rel else [])⟩
  if here then s.send p else s.post p ⟨s.cur, rel, []⟩

theorem spawnd_issues {h : Hdr} {page sync : Bool} {d a b : SReg} {t : Task} {s : State} (r : AtHome h s) (q : NoRelease s)
    (e : s.myCore.readTask (s.me.rs a) = .inr t) (hp : page = true → (s.me.rs b).toNat / 2 ^ 48 % 16 = 0)
    (hv : s.inView s.cur (tileMod (s.me.rs b)) = true) :
    spawnd h page sync d a b s = spawnIssue s d (tileMod (s.me.rs b)) 1 sync (sendSpawnd (s.me.rs b) page t) := by
  refine (homeOnly_runs h s _ _ _ r).trans ((withTask_ok _ q e).trans (if_neg ?_))
  rintro (⟨h1, h2⟩ | h1)
  · exact h2 (hp h1)
  · rw [hv] at h1
    exact absurd h1 (by decide)

theorem sendSpawnd_spawned (s : State) (d : SReg) (x : Word) (page : Bool) (t : Task) (num : Word) (n : Nat) :
    sendSpawnd x page t num (spawned s d (tileMod x) n) =
      if tileMod x = s.modId then (spawned s d (tileMod x) n).send ⟨.slot (s.agent s.cur), if tileMod x = s.modId then .io else .mdl (tileMod x),
        .notice, .spawnd (s.agent s.cur) num (s.jobOf s.cur) page x { t with pinned := true }
          (if tileMod x = s.modId then s.release s.cur else [])⟩
      else (spawned s d (tileMod x) n).post ⟨.slot (s.agent s.cur), if tileMod x = s.modId then .io else .mdl (tileMod x), .notice,
        .spawnd (s.agent s.cur) num (s.jobOf s.cur) page x { t with pinned := true }
          (if tileMod x = s.modId then s.release s.cur else [])⟩ ⟨s.cur, s.release s.cur, []⟩ := by
  unfold sendSpawnd
  dsimp only
  rw [show (spawned s d (tileMod x) n).cur = s.cur from rfl, spawned_release, spawned_jobOf, show (spawned s d (tileMod x) n).modId = s.modId from rfl]
  by_cases hm : tileMod x = s.modId
  · simp only [beq_iff_eq, if_pos hm]
    rfl
  · simp only [beq_iff_eq, if_neg hm]
    rfl

theorem spawns : Claims.Spawns := by
  intro h d a b k p pin sy off t m cs s r
  refine ⟨fun e ho q => ⟨fun hx hz ht => ?_, fun hv => ⟨fun hp => ?_, ?_⟩, fun hx hg hr => ?_⟩, fun hq => ?_, fun hq => ?_, fun x n q e => ?_⟩
  · refine (homeOnly_runs h s _ _ _ r).trans ((withTask_ok _ q e).trans ((if_neg ?_).trans ?_))
    · rw [hx, hz]
      decide
    · simp only [ht]
      exact spawnIssue_open ho
  · refine (spawnd_issues (page := true) r q e (fun _ => hp) hv).trans ((spawnIssue_open ho).trans ?_)
    rw [sendSpawnd_spawned]
  · refine (spawnd_issues (page := false) r q e (fun n => absurd n Bool.false_ne_true) hv).trans ((spawnIssue_open ho).trans ?_)
    rw [sendSpawnd_spawned]
  · refine (homeOnly_runs h s _ _ _ r).trans ((withTask_ok _ q e).trans ((if_neg ?_).trans ?_))
    · rw [hx]
      decide
    · have hroom : s.myCore.taskRoom ⟨t, false, false, false, s.release s.cur⟩ = true := by
        simp [Core.taskRoom, hg, hr]
      have hk : ∀ u : State, u.takeTask s.cur.core ⟨t, false, false, false, s.release s.cur⟩ =
          u.enqueue s.cur.core ⟨t, false, false, false, s.release s.cur⟩ := fun u => if_neg (by simp [hg])
      refine (if_neg (by rw [hroom]; decide)).trans ((spawnIssue_open ho).trans ?_)
      have hb : (s.me.rs b).getLsbD 0 = false := by
        rw [hx]
        rfl
      simp only [hb, Bool.false_and, Bool.false_eq_true, if_false, hk]
  · exact (homeOnly_runs h s _ _ _ r).trans (if_pos hq)
  · exact (homeOnly_runs h s _ _ _ r).trans (if_neg (by rw [hq]; decide))
  · have ht := trap_enters s 0xB 1 (BitVec.ofNat 64 x) r.2 n
    simp only [List.forall_mem_cons, List.not_mem_nil, false_imp_iff, implies_true, and_true]
    exact ⟨(homeOnly_runs h s _ _ _ r).trans ((withTask_bad _ q e).trans ht), (homeOnly_runs h s _ _ _ r).trans ((withTask_bad _ q e).trans ht),
      (homeOnly_runs h s _ _ _ r).trans ((withTask_bad _ q e).trans ht), (homeOnly_runs h s _ _ _ r).trans ((withTask_bad _ q e).trans ht)⟩

/-! ## The task queue's instructions (16 R352-R355) -/

section
variable {h : Hdr} {d a : SReg} {off : BitVec 41} {s : State}

theorem execJoin_local (r : AtHome h s) (hx : (s.me.rs a + off.signExtend 64).toNat % 32 = 0)
    (hle : (s.me.rs a + off.signExtend 64).toNat + 32 ≤ 0x30000) (hc : s.clean s.cur = true) :
    exec (.join h d a none off) s = localJoin s d (s.me.rs a + off.signExtend 64).toNat := by
  refine (homeOnly_runs h s _ _ _ r).trans ((if_neg ?_).trans ((if_pos ⟨rfl, rfl⟩).trans (if_pos hc)))
  rintro (h1 | h1)
  · exact h1 hx
  · exact Nat.not_lt.mpr hle h1

variable {c : CoreId} {x : Nat}

theorem State.joinStep_zero (hf : (s.core c).sp.num (x + 4) 4 < 8) (hn : (s.core c).sp.num x 4 = 0) :
    s.joinStep c x = some (2, s) := (if_neg (Nat.not_le.mpr hf)).trans (if_pos hn)

theorem State.joinStep_many (hf : (s.core c).sp.num (x + 4) 4 < 8) (hn : 1 < (s.core c).sp.num x 4) :
    s.joinStep c x = some (0, s.modCore c (·.spWrite x (leBytes 4 ((s.core c).sp.num x 4 - 1)))) :=
  (if_neg (Nat.not_le.mpr hf)).trans ((if_neg (by omega)).trans (if_pos (by omega)))

/-- The continuation of a join record (16 R352). -/
def Memory.joinTask (m : Memory) (x : Nat) : Task :=
  ⟨m.word (x + 8), m.word (x + 16), m.word (x + 24), Fin.ofNat 4 (m.num (x + 4) 4), m.num (x + 4) 4 / 4 % 2 == 1, false, 0, 0⟩

theorem State.joinStep_one (hf : (s.core c).sp.num (x + 4) 4 < 8) (hn : (s.core c).sp.num x 4 = 1)
    (hr : (s.core c).queueRoom ((s.core c).sp.joinTask x).prio = true) :
    s.joinStep c x = some (1, (s.modCore c (·.spWrite x (leBytes 4 0))).enqueue c ⟨(s.core c).sp.joinTask x, false, false, false, []⟩) := by
  refine (if_neg (Nat.not_le.mpr hf)).trans ((if_neg (by omega)).trans ((if_neg (Classical.not_not.mpr hn)).trans ((if_pos hr).trans ?_)))
  dsimp only
  rw [hn]
  rfl

end

theorem taskInstructions : Claims.TaskInstructions := by
  intro h nw mask p d a off pq q s r
  refine ⟨fun hl hq => ⟨fun hb => ?_, fun hb => ⟨?_, ?_⟩⟩, homeOnly_runs h s _ _ _ r, ?_, fun hx hle hc hf => ⟨fun hn => ?_, fun hn hr => ?_,
    fun hn => ?_⟩, fun hn hx => ?_⟩
  · refine (homeOnly_runs h s _ _ _ r).trans ((afterRelease_go _ hq).trans ((withLocal_ok _ _ _ _ _ hl).trans ?_))
    simp only [hb]
    rfl
  · refine (homeOnly_runs h s _ _ _ r).trans ((afterRelease_go _ hq).trans ((withLocal_ok _ _ _ _ _ hl).trans ?_))
    simp only [hb]
    rfl
  · refine (homeOnly_runs h s _ _ _ r).trans ((afterRelease_go _ hq).trans ((withLocal_ok _ _ _ _ _ hl).trans ?_))
    simp only [hb]
    rfl
  · refine (homeOnly_runs h s _ _ _ r).trans (next_mod_congr ?_)
    obtain rfl | rfl | rfl | rfl : p = 0 ∨ p = 1 ∨ p = 2 ∨ p = 3 := by omega
    all_goals rfl
  · refine (execJoin_local r hx hle hc).trans ?_
    rw [localJoin, State.joinStep_zero hf hn]
    rfl
  · refine (execJoin_local r hx hle hc).trans ?_
    rw [localJoin, State.joinStep_one hf hn hr]
    rfl
  · refine (execJoin_local r hx hle hc).trans ?_
    rw [localJoin, State.joinStep_many hf hn]
    rfl
  · refine (homeOnly_runs h s _ _ _ r).trans ((if_pos hx).trans (trap_enters s 0xB 3 _ r.2 hn))

/-- Settles O41: each form by its checks; a spawn's number and its packets from the state its slot leaves. -/
theorem taskForms : Obligations.TaskForms := ⟨spawns, taskInstructions⟩

end Sys2Proof.Machine
end

section
/-! SUPPORT. The events of the task units, and cluster barriers (16 R342-R345, R356, R357). -/

namespace Sys2Proof.Machine

/-! ## Packets of the task units -/

theorem State.take_taken {s : State} {k : Nat} {p : Packet} (h : s.Arrives k p) : s.take k = some (p, s.taken k) ∧ s.ButFlight (s.taken k) := by
  obtain ⟨t, ht, hf⟩ := State.take_of_arrives h
  have he : s.taken k = t := by
    rw [State.taken, ht]
    rfl
  rw [he]
  exact ⟨ht, hf⟩

theorem State.jobLaunchOf_taken {s : State} {k : Nat} {p : Packet} (h : s.Arrives k p) (job : BitVec 32) (c : CoreId) :
    (s.taken k).jobLaunchOf job c = s.jobLaunchOf job c := by
  have hf := (State.take_taken h).2
  unfold State.ButFlight at hf
  rw [hf]
  rfl

section
variable {s t : State} {k : Nat} {p : Packet} {c c' : CoreId} {src : Agent} {num : Word} {job : BitVec 32} {q : QEntry} {g : GateEntry}
  {gid id a code : Nat} {posted : Bool}

theorem execTaskAccept_stray (h : s.Arrives k p) (hd : p.dst = .core c) (hb : p.body = .task src num job c' q)
    (hl : s.jobLaunchOf job c = none) : exec (.taskAccept k) s = .next ((s.taken k).taskAck src num false) := by
  have ht := (State.take_taken h).1
  obtain ⟨f, hn, hp, -⟩ := h
  change execTaskAccept k s = _
  unfold execTaskAccept
  simp only [hn, hp, hd, hb, hl, Option.isNone_none, if_true, ht]

theorem execTaskAccept_taken (h : s.Arrives k p) (hd : p.dst = .core c) (hb : p.body = .task src num job c' q)
    (hl : (s.jobLaunchOf job c).isSome = true) (ho : s.noticeOpen c = true) (hr : (s.core c).taskRoom q = true) :
    exec (.taskAccept k) s = .next (((s.taken k).takeTask c q).acceptTask c src num) := by
  obtain ⟨ht, hf⟩ := State.take_taken h
  obtain ⟨f, hn, hp, -⟩ := h
  have hc : ((s.taken k).core c).taskRoom q = true := by rw [State.core_congr hf.cores]; exact hr
  change execTaskAccept k s = _
  unfold execTaskAccept
  simp only [hn, hp, hd, hb, Option.isNone_iff_eq_none, Option.isSome_iff_ne_none.mp hl, if_false, hr, ho, Bool.not_true, Bool.false_eq_true,
    and_false, or_self, ht, State.arriveTask, hc, if_true]

theorem execGateNotice_taken (h : s.Arrives k p) (hb : p.body = .gate c gid false) (ho : s.noticeOpen c = true)
    (hg : (s.core c).gates.find? (·.gid == gid) = some g) (hr : (s.core c).queueRoom g.q.task.prio = true) :
    exec (.gateNotice k) s = .next ((((s.taken k).modCore c fun y => { y with gates := y.gates.filter fun z => z.gid != gid }).enqueue c
      { g.q with wasGated := true }).serveInbound c) := by
  have ht := (State.take_taken h).1
  obtain ⟨f, hn, hp, -⟩ := h
  change execGateNotice k s = _
  unfold execGateNotice
  simp only [hn, hp, hb, ho, hg, hr, Bool.not_true, Bool.false_eq_true, if_false, ht]

theorem execJoinStep_taken (h : s.Arrives k p) (hd : p.dst = .core c) (hb : p.body = .join src id job c' a posted)
    (ho : s.noticeOpen c = true) (hl : (s.jobLaunchOf job c).isSome = true) (hj : (s.taken k).joinStep c a = some (code, t)) :
    exec (.joinStep k) s = .next (t.joinReply src id posted code) := by
  have ht := (State.take_taken h).1
  have hl' : ((s.taken k).jobLaunchOf job c).isNone = false := by
    rw [State.jobLaunchOf_taken h, Option.isNone_eq_false_iff]
    exact hl
  obtain ⟨f, hn, hp, -⟩ := h
  change execJoinStep k s = _
  unfold execJoinStep
  simp only [hn, hp, hd, hb, ho, Bool.not_true, Bool.false_eq_true, if_false, ht, hl', hj]

end

/-! ## Starts and thefts -/

theorem Slot.startTask_state (sl : Slot) (q : QEntry) : (sl.startTask q).state = .running := by simp [Slot.startTask, Slot.start]
theorem Slot.startTask_pc (sl : Slot) (q : QEntry) : (sl.startTask q).pc = q.task.entry := by simp [Slot.startTask, Slot.start]
theorem Slot.startTask_arg0 (sl : Slot) (q : QEntry) : (sl.startTask q).rs 1 = q.task.arg0 := by
  unfold Slot.startTask
  rw [Slot.rs_ws_ne _ _ _ _ (by decide), Slot.rs_ws_ne _ _ _ _ (by decide), Slot.rs_ws _ _ _ (by decide)]
theorem Slot.startTask_arg1 (sl : Slot) (q : QEntry) : (sl.startTask q).rs 2 = q.task.arg1 := by
  unfold Slot.startTask
  rw [Slot.rs_ws_ne _ _ _ _ (by decide), Slot.rs_ws _ _ _ (by decide)]

theorem Core.unshed_inbound (c : Core) (p : Fin 4) : (c.unshed p).inbound = c.inbound := by
  unfold Core.unshed
  split <;> rfl

theorem Core.dropBottom_inbound (c : Core) (p : Fin 4) : (c.dropBottom p).inbound = c.inbound := by
  unfold Core.dropBottom
  rw [Core.unshed_inbound]
  show (if _ then _ else _ : Core).inbound = _
  split
  · exact Core.unshed_inbound c p
  · rfl

/-- With nothing waiting at the unit, serving it changes no slot. -/
theorem State.slot_serveInbound_nil {s : State} {c : CoreId} (h : (s.core c).inbound = []) (w : Who) :
    (s.serveInbound c).slot w = s.slot w := by
  unfold State.serveInbound
  rw [h, State.drainInbound]
  exact State.slot_modCore rfl w

/-- The only free slot takes the bottom task. -/
theorem execTaskStart_one {s : State} {c : CoreId} {i : Fin 16} {pq : Fin 4} {q : QEntry} (hd : (s.core c).dispatches = true)
    (hf : (s.core c).freeSlots s.cycle = [i]) (hb : (s.core c).bottom (s.core c).enabledQueue = some (pq, q)) :
    exec (.taskStart c) s = .next ((((s.modCore c fun k => { k.dropBottom pq with startedAt := s.cycle + 1 }).modSlot ⟨c, i⟩
      (·.startTask q))).serveInbound c) := by
  change execTaskStart c s = _
  unfold execTaskStart
  simp only [hd, if_true, hf]
  rw [State.startTasks]
  simp only [hb, State.startTasks]

theorem State.slot_modEngine (s : State) (c : ClusterId) (f : Engine → Engine) (w : Who) : (s.modEngine c f).slot w = s.slot w := rfl

/-- What a thief's slot holds once it has been served. -/
theorem State.slot_steal {s : State} {cl : ClusterId} {j n : Nat} {c : CoreId} {pq : Fin 4} {q : QEntry} {i : Fin 16} {is : List (Fin 16)}
    (ht : s.thief ((coresOf cl).getD j ⟨cl.stack, 0, 0⟩) = true) (hv : s.victim cl j = some (c, pq, n, q))
    (hf : (s.core ((coresOf cl).getD j ⟨cl.stack, 0, 0⟩)).freeSlots s.cycle = i :: is) :
    ∃ sl : Slot, (s.steal cl j).slot ⟨(coresOf cl).getD j ⟨cl.stack, 0, 0⟩, i⟩ = sl.startTask { q with stolen := true, pusher := [] } := by
  unfold State.steal
  simp only [ht, if_true, hv, hf]
  rw [State.slot_modEngine, State.slot_modSlot_self]
  exact ⟨_, rfl⟩

theorem taskEvents : Claims.TaskEvents := by
  intro k p c c' src num job q g i is pq cl j n gid id a code posted s t
  refine ⟨fun h => ⟨fun hd hb => ⟨execTaskAccept_stray h hd hb, fun hl ho hr => execTaskAccept_taken h hd hb hl ho hr⟩,
    fun hb ho hg hr => execGateNotice_taken h hb ho hg hr, fun hd hb ho hl hj => execJoinStep_taken h hd hb ho hl hj⟩,
    fun hd hf hi hn hb => ?_, rfl, fun ht hv hf => ?_⟩
  · subst hi
    refine ⟨_, execTaskStart_one hd hf hb, ?_⟩
    rw [State.slot_serveInbound_nil, State.slot_modSlot_self]
    · exact ⟨Slot.startTask_state _ _, Slot.startTask_pc _ _, Slot.startTask_arg0 _ _, Slot.startTask_arg1 _ _⟩
    · rw [State.core_modSlot_self, State.core_modCore_self]
      exact (Core.dropBottom_inbound _ _).trans hn
  · obtain ⟨sl, hs⟩ := State.slot_steal ht hv hf
    rw [hs]
    exact ⟨Slot.startTask_pc _ _, Slot.startTask_state _ _, Slot.startTask_arg0 _ _⟩

/-! ## Barriers (16 R356, R357) -/

theorem State.engine_modEngine_self (s : State) (c : ClusterId) (f : Engine → Engine) : (s.modEngine c f).engine c = f (s.engine c) :=
  assocD_set_self ..

theorem State.barrier_setBarrier (s : State) (w : Who) (i : Fin 16) (b : Barrier) : (s.setBarrier w i b).barrier w i = b := by
  rw [State.barrier, State.setBarrier, State.engine_modEngine_self]
  simp

theorem barForm_runs {h : Hdr} {s : State} {a : SI} (k : Fin 16 → Barrier → Out) (r : AtHome h s)
    (ho : (s.barrier s.cur (Fin.ofNat 16 (s.me.rsi a).toNat)).owner = none ∨
      (s.barrier s.cur (Fin.ofNat 16 (s.me.rsi a).toNat)).owner = s.myCore.launch) :
    barForm h s a k = k (Fin.ofNat 16 (s.me.rsi a).toNat) (s.barrier s.cur (Fin.ofNat 16 (s.me.rsi a).toNat)) := by
  refine (homeOnly_runs h s _ _ _ r).trans (if_neg ?_)
  rintro ⟨h1, h2⟩
  rcases ho with ho | ho
  · rw [barIdx, ho] at h1
    exact absurd h1 (by decide)
  · exact h2 ho

theorem barForm_traps {h : Hdr} {s : State} {a : SI} (k : Fin 16 → Barrier → Out) (r : AtHome h s) (n : s.me.state ≠ .handler)
    (hn : (s.barrier s.cur (Fin.ofNat 16 (s.me.rsi a).toNat)).owner ≠ none)
    (ho : (s.barrier s.cur (Fin.ofNat 16 (s.me.rsi a).toNat)).owner ≠ s.myCore.launch) :
    barForm h s a k = .next (s.mod fun sl => sl.takeTrap 0xB 4 (BitVec.ofNat 64 (Fin.ofNat 16 (s.me.rsi a).toNat : Fin 16).val) sl.pc) :=
  (homeOnly_runs h s _ _ _ r).trans ((if_pos ⟨Option.isSome_iff_ne_none.mpr hn, ho⟩).trans (trap_enters s 0xB 4 _ r.2 n))

theorem Barrier.arrive_last {b : Barrier} (h : b.arrived + 1 = b.count) : b.arrive = { b with gen := b.gen + 1, arrived := 0 } := if_pos h
theorem Barrier.arrive_more {b : Barrier} (h : b.arrived + 1 ≠ b.count) : b.arrive = { b with arrived := b.arrived + 1 } := if_neg h

/-- An arrival that is performed: the barrier, and the slot before it waits or goes on. -/
def State.arrived (s : State) (d : SReg) (i : Fin 16) (b : Barrier) : State :=
  (s.setBarrier s.cur i b.arrive).mod fun sl => ((sl.unpark).ws d (b.gen.setWidth 64)).next

theorem State.me_arrived (s : State) (d : SReg) (i : Fin 16) (b : Barrier) :
    (s.arrived d i b).me = ((s.me.unpark).ws d (b.gen.setWidth 64)).next := State.me_mod _ _

theorem barSync_runs {h : Hdr} {arr : Bool} {d : SReg} {a : SI} {s : State} (r : AtHome h s)
    (ho : (s.barrier s.cur (Fin.ofNat 16 (s.me.rsi a).toNat)).owner = none ∨
      (s.barrier s.cur (Fin.ofNat 16 (s.me.rsi a).toNat)).owner = s.myCore.launch)
    (hc : (s.barrier s.cur (Fin.ofNat 16 (s.me.rsi a).toNat)).count ≠ 0) (hq : s.clean s.cur = true) :
    barSync h arr d a s = .next (s.barArrive s.cur arr d (Fin.ofNat 16 (s.me.rsi a).toNat)) :=
  (barForm_runs _ r ho).trans ((if_neg hc).trans (if_pos hq))

theorem State.barArrive_sig (s : State) (d : SReg) (i : Fin 16) :
    s.barArrive s.cur false d i = s.arrived d i (s.barrier s.cur i) := rfl

theorem State.barArrive_more {s : State} {i : Fin 16} (d : SReg) (h : (s.barrier s.cur i).arrived + 1 ≠ (s.barrier s.cur i).count) :
    s.barArrive s.cur true d i = (s.arrived d i (s.barrier s.cur i)).mod fun sl =>
      { sl.park .barrier (.barrier i (s.barrier s.cur i).gen) s.rot with object := BitVec.ofNat 64 i.val } := by
  unfold State.barArrive
  simp only [Bool.not_true, Bool.false_eq_true, if_false]
  rw [if_pos (by rw [Barrier.arrive_more h])]
  rfl

theorem State.barArrive_last {s : State} {i : Fin 16} (d : SReg) (h : (s.barrier s.cur i).arrived + 1 = (s.barrier s.cur i).count) :
    s.barArrive s.cur true d i = (s.arrived d i (s.barrier s.cur i)).acquire s.cur.core .cluster := by
  unfold State.barArrive
  simp only [Bool.not_true, Bool.false_eq_true, if_false]
  refine if_neg ?_
  rw [Barrier.arrive_last h]
  intro e
  have : (1 : BitVec 32) = 0 := by
    calc (1 : BitVec 32) = (s.barrier s.cur i).gen + 1 - (s.barrier s.cur i).gen := by rw [BitVec.add_comm, BitVec.add_sub_cancel]
      _ = 0 := by rw [show (s.barrier s.cur i).gen + 1 = (s.barrier s.cur i).gen from e]; exact BitVec.sub_self _
  exact absurd this (by decide)

theorem State.barrier_arrived (s : State) (d : SReg) (i : Fin 16) (b : Barrier) : (s.arrived d i b).barrier s.cur i = b.arrive :=
  State.barrier_setBarrier s s.cur i b.arrive

theorem State.slot_acquire (s : State) (c : CoreId) (sc : Scope) (w : Who) : (s.acquire c sc).slot w = s.slot w := by
  unfold State.acquire
  split
  · exact State.slot_modCore rfl w
  · rfl

theorem State.barrier_acquire (s : State) (c : CoreId) (sc : Scope) (w : Who) (i : Fin 16) : (s.acquire c sc).barrier w i = s.barrier w i := by
  unfold State.acquire
  split <;> rfl

theorem barriers : Claims.Barriers := by
  intro h d b a s r
  refine ⟨fun ho => ⟨fun hn => ?_, fun hz => ?_, ?_, fun hc hq => ⟨fun hm => ⟨?_, ?_⟩, fun hl => ⟨?_, ?_⟩⟩⟩, fun hn ho q => ?_⟩
  · change execBarCfg h d a b s = _
    unfold execBarCfg
    exact (barForm_runs _ r ho).trans (if_pos hn)
  · change execBarCfg h d a b s = _
    unfold execBarCfg
    exact (barForm_runs _ r ho).trans (if_neg (Classical.not_not.mpr hz))
  · change execBarRd h d a s = _
    unfold execBarRd
    exact barForm_runs _ r ho
  · refine (barSync_runs (arr := false) r ho hc hq).trans ?_
    rw [State.barArrive_sig, State.arrived, Barrier.arrive_more hm]
    rfl
  · refine ⟨_, (barSync_runs (arr := true) r ho hc hq).trans (congrArg _ (State.barArrive_more d hm)), ?_, ?_, fun hd => ?_⟩
    · exact (State.barrier_arrived s d _ _).trans (Barrier.arrive_more hm)
    · rw [State.slot_mod_at (State.arrived _ _ _ _) _ (w := s.cur) rfl]
      rfl
    · rw [State.slot_mod_at (State.arrived _ _ _ _) _ (w := s.cur) rfl, State.arrived, State.slot_mod_at (State.setBarrier _ _ _ _) _ (w := s.cur) rfl]
      exact (Slot.rs_next _ _).trans (Slot.rs_ws _ _ _ hd)
  · refine ⟨_, (barSync_runs (arr := true) r ho hc hq).trans (congrArg _ (State.barArrive_last d hl)), ?_, ?_, ?_, fun hd => ?_⟩
    · rw [State.barrier_acquire]
      exact (State.barrier_arrived _ _ _ _).trans (Barrier.arrive_last hl)
    all_goals rw [State.slot_acquire, State.arrived, State.slot_mod_at (State.setBarrier _ _ _ _) _ (w := s.cur) rfl]
    · rw [Slot.next_pc, Slot.ws_pc]
      rfl
    · rw [Slot.next_wait, Slot.ws_wait]
      rfl
    · exact (Slot.rs_next _ _).trans (Slot.rs_ws _ _ _ hd)
  · refine (barSync_runs (arr := false) r ho hc hq).trans ?_
    rw [State.barArrive_sig, State.arrived, Barrier.arrive_last hl]
    rfl
  · simp only [List.forall_mem_cons, List.not_mem_nil, false_imp_iff, implies_true, and_true]
    refine ⟨?_, ?_, ?_, ?_⟩
    · change execBarCfg h d a b s = _
      unfold execBarCfg
      exact barForm_traps _ r q hn ho
    · change execBarRd h d a s = _
      unfold execBarRd
      exact barForm_traps _ r q hn ho
    · exact (show barSync h true d a s = _ from barForm_traps _ r q hn ho)
    · exact (show barSync h false d a s = _ from barForm_traps _ r q hn ho)

/-- Settles O42: each packet taken off the network and handed to its unit; a barrier's arrival as one change of its record. -/
theorem tasksAndBarriers : Obligations.TasksAndBarriers := ⟨taskEvents, barriers⟩

end Sys2Proof.Machine
end

section
/-! SUPPORT. Stream registers and waits on timelines (07 R164-R169). -/

namespace Sys2Proof.Machine

/-! ## The copy context at rest -/

theorem takeWhile_over_nil {l : List CopyOp} (h : ∀ o ∈ l, o.over = false) : l.takeWhile CopyOp.over = [] := by
  cases l with
  | nil => rfl
  | cons o l => rw [List.takeWhile_cons_of_neg (by rw [h o List.mem_cons_self]; exact Bool.false_ne_true)]

theorem CopyCtx.settle_open {c : CopyCtx} (h : ∀ o ∈ c.ops, o.over = false) : c.settle = c := by
  unfold CopyCtx.settle
  rw [takeWhile_over_nil h]
  rfl

/-- With no operation over at the head of the context, settling it changes nothing. -/
theorem State.settleCopy_open {s : State} {f : Slot → Slot} (h : ∀ o ∈ (f s.me).cctx.ops, o.over = false) :
    (s.mod f).settleCopy s.cur = s.mod f := by
  unfold State.settleCopy
  rw [State.slot_mod_cur, takeWhile_over_nil h]
  refine (State.mod_mod s f _).trans (State.mod_congr _ _ _ ?_)
  rw [CopyCtx.settle_open h]

theorem CopyCtx.settle_one {c : CopyCtx} {o : CopyOp} (h : c.ops = [o]) (ho : o.over = true) : c.settle = { c with tl := o.num, ops := [] } := by
  unfold CopyCtx.settle
  rw [h, List.takeWhile_cons_of_pos ho]
  rfl

theorem State.modSlot_congr {s : State} {w : Who} {f g : Slot → Slot} (e : f (s.slot w) = g (s.slot w)) :
    s.modSlot w f = s.modSlot w g := by
  unfold State.modSlot State.modCore
  show State.mk .. = State.mk ..
  unfold State.slot at e
  simp only [e]

/-- An increment changes a slot only where it sleeps. -/
theorem State.slot_mbAdd (s : State) (c : CoreId) (i : MbIdx) (n : BitVec 32) (w : Who) :
    ∃ x d, (s.mbAdd c i n).slot w = { s.slot w with wait := x, deadline := d } := by
  unfold State.mbAdd
  split
  · exact ⟨_, _, rfl⟩
  · obtain ⟨x, d, e⟩ := (s.modCore c (·.mbAdd i n)).slot_wakeSleepers_eq c 3 w
    refine ⟨x, d, ?_⟩
    rw [e, State.slot_modCore rfl]

/-- The only operation of the context is over: the timeline takes its number, and its mailbox its increment. -/
theorem State.slot_settleCopy_one {s : State} {w : Who} {o : CopyOp} (h : (s.slot w).cctx.ops = [o]) (ho : o.over = true) :
    ∃ x d, (s.settleCopy w).slot w =
      { s.slot w with cctx := { (s.slot w).cctx with tl := o.num, ops := [] }, wait := x, deadline := d } := by
  unfold State.settleCopy
  rw [h, List.takeWhile_cons_of_pos ho, List.takeWhile_nil, List.foldl_cons, List.foldl_nil]
  have hm : (s.modSlot w fun sl => { sl with cctx := sl.cctx.settle }).slot w =
      { s.slot w with cctx := { (s.slot w).cctx with tl := o.num, ops := [] } } := by
    rw [State.slot_modSlot_self, CopyCtx.settle_one h ho]
  dsimp only
  split
  · obtain ⟨x, d, e⟩ := State.slot_mbAdd (s.modSlot w fun sl => { sl with cctx := sl.cctx.settle }) w.core _ _ w
    exact ⟨x, d, by rw [e, hm]⟩
  · exact ⟨_, _, hm⟩

/-! ## Streams (07 R164-R168) -/

theorem Slot.stopStream_none {sl : Slot} {v : Fin 4} (h : sl.streams[v] = none) : sl.stopStream v = sl := by
  unfold Slot.stopStream
  rw [h]

theorem Slot.stopStream_write {sl : Slot} {v : Fin 4} {st : Stream} (h : sl.streams[v] = some st) (hw : st.wr = true) :
    sl.stopStream v = { sl with streams := sl.streams.set v none, draining := sl.draining ++ [st] } := by
  unfold Slot.stopStream
  rw [h]
  exact if_pos hw

theorem Slot.stopStream_read {sl : Slot} {v : Fin 4} {st : Stream} (h : sl.streams[v] = some st) (hw : st.wr = false) :
    sl.stopStream v = { sl with
      streams := sl.streams.set v none
      cctx := { sl.cctx with ops := sl.cctx.ops.map fun o => if o.num = st.num then { o with st := .done } else o } } := by
  unfold Slot.stopStream
  rw [h]
  exact if_neg (hw ▸ Bool.false_ne_true)

theorem streamSteps : Claims.StreamSteps := by
  intro h d v w st s
  refine ⟨fun r => ⟨homeOnly_runs h s _ _ _ r, fun hv ho => ?_, fun hv hw o ho hn => ?_, fun hv hw ho => ?_⟩, fun hv hs hw ht => ?_,
    fun hd hb hv hs hm => ?_⟩
  · refine (homeOnly_runs h s _ _ _ r).trans (congrArg _ ?_)
    rw [State.settleCopy_open (by rw [Slot.stopStream_none hv, Slot.next_cctx, ho]; exact nofun)]
    exact State.mod_congr _ _ _ (by rw [Slot.stopStream_none hv]; rfl)
  · refine ⟨_, homeOnly_runs h s _ _ _ r, ?_⟩
    have hops : (((s.mod fun sl => (sl.stopStream v).next).slot s.cur)).cctx.ops = [{ o with st := .done }] := by
      rw [State.slot_mod_cur, Slot.stopStream_read hv hw, Slot.next_cctx]
      show s.me.cctx.ops.map _ = _
      rw [ho, List.map_cons, if_pos hn]
      rfl
    obtain ⟨x, y, e⟩ := State.slot_settleCopy_one hops rfl
    rw [e, State.slot_mod_cur, Slot.stopStream_read hv hw]
    refine ⟨?_, hn, Slot.next_pc _⟩
    exact Slot.next_streams _
  · refine (homeOnly_runs h s _ _ _ r).trans (congrArg _ ?_)
    rw [State.settleCopy_open (by rw [Slot.stopStream_write hv hw, Slot.next_cctx]; exact ho)]
    exact State.mod_congr _ _ _ (by rw [Slot.stopStream_write hv hw])
  · change execStreamRefill w v s = _
    unfold execStreamRefill
    simp only [hv, hw, hs, Bool.false_eq_true, or_self, if_false, ht, if_true]
  · have hts : ((s.slot w).drainTargets v).filter (s.drainOpen w) = [(some 0, st)] := by
      simp [Slot.drainTargets, hd, hv, State.drainOpen, hb]
    have hset : (s.modSlot w (·.setDrain (some 0) v st)) = s.modSlot w fun sl => { sl with draining := [] } := by
      refine State.modSlot_congr ?_
      simp [Slot.setDrain, hb, hd]
    change execStreamDrain w v s = _
    unfold execStreamDrain
    simp only [hts, hs, if_false, List.length_singleton]
    simp only [State.pick, Nat.le_refl, if_true, List.getElem?_cons_zero, hm, Bool.false_eq_true, if_false, hb, hset]

/-! ## Timelines (07 R169) -/

theorem timelines : Claims.Timelines := by
  intro h t b d w n s
  refine ⟨fun r => ⟨fun hx q => ?_, fun hx hv => ?_, fun hx hv => ?_, homeOnly_runs h s _ _ _ r, fun hf => ?_, homeOnly_runs h s _ _ _ r,
    homeOnly_runs h s _ _ _ r⟩, fun hw hs hn => ?_, fun hw hs hn => ?_⟩
  · refine (homeOnly_runs h s _ _ _ r).trans ((if_pos ((ult_iff _ _).mpr hx)).trans (trap_enters s 6 3 _ r.2 q))
  · exact (homeOnly_runs h s _ _ _ r).trans ((if_neg fun n => Nat.not_lt.mpr hx ((ult_iff _ _).mp n)).trans (if_pos ((ult_iff _ _).mpr hv)))
  · refine (homeOnly_runs h s _ _ _ r).trans ((if_neg fun n => Nat.not_lt.mpr hx ((ult_iff _ _).mp n)).trans
      ((if_neg fun n => Nat.not_lt.mpr hv ((ult_iff _ _).mp n)).trans ?_))
    cases t <;> rfl
  · refine (homeOnly_runs h s _ _ _ r).trans ?_
    cases t with
    | c =>
      refine congrArg (retire · id) ?_
      have hf' : (s.slot s.cur).cctx.faulted = none := hf
      rw [State.abortCopy, hf']
    | m => rfl
    | x => rfl
  · have hu : (s.slot w).cctx.tl.ult n = false := by
      rw [Bool.eq_false_iff]
      exact fun h => Nat.not_lt.mpr hn ((ult_iff _ _).mp h)
    change execParkReasonMet w s = _
    rw [execParkReasonMet]
    unfold State.unparked
    simp only [hs, if_false, hw, State.timelineMet, Slot.tlVal, hu, Bool.false_eq_true]
    rfl
  · change execParkReasonMet w s = _
    rw [execParkReasonMet]
    unfold State.unparked
    simp only [hs, if_false, hw, State.timelineMet, Slot.tlVal, (ult_iff _ _).mpr hn, if_true]
    rfl

/-- Settles O25: a stream's end as one change of its slot and of its context; a wait on a timeline by comparing the numbers. -/
theorem streamsAndTimelines : Obligations.StreamsAndTimelines := ⟨streamSteps, timelines⟩

end Sys2Proof.Machine
end

section
/-! SUPPORT. Bank formats and the issue of the copy unit's operations (07 R145-R163, R169). -/

namespace Sys2Proof.Machine

/-! ## Bank formats (07 R145, R147) -/

theorem withBank_runs {h : Hdr} {s : State} {a : SI} {i : Fin 12} (k : Fin 12 → Out) (r : AtHome h s)
    (e : (s.me.rsi a).toNat = i.val) : withBank h s a k = k i := by
  refine (homeOnly_runs h s _ _ _ r).trans ((dif_pos (by rw [e]; exact i.isLt)).trans (congrArg k (Fin.ext e)))

theorem bankFormats : Claims.BankFormats := by
  intro h d b a i s r e
  refine ⟨fun hl => ?_, ?_, fun hl q => ?_⟩
  · change execBfmt h d a b s = _
    exact (withBank_runs _ r e).trans (if_pos hl)
  · change execBfmtr h d a s = _
    exact withBank_runs _ r e
  · change execBfmt h d a b s = _
    refine (withBank_runs _ r e).trans ?_
    exact (if_neg (by rw [hl]; exact Bool.false_ne_true)).trans (trap_enters s 6 6 _ r.2 q)

/-! ## Issue (02 R33, 07 R148) -/

/-- With fewer than eight operations open, an operation of the copy context is issued. -/
theorem copyIssue_open {s : State} {i : Instr} {d : SReg} {k : CopyKind} {w0 w1 : Word} {desc : List Byte} {sync : Bool}
    (f : Word → Slot → Slot) (ho : s.me.cctx.outstanding < 8)
    (e : exec i s = copyIssue s d sync (newCopy s k w0 w1 desc) f) :
    IssuesCopy i s d k w0 w1 desc sync (f (s.me.cctx.last + 1)) := by
  refine e.trans ((if_neg (Nat.not_le.mpr ho)).trans ?_)
  cases sync with
  | true => rfl
  | false => exact congrArg Host.Outcome.next (State.mod_mod s _ _)

/-- A descriptor-driven copy whose checks pass is issued. -/
theorem copyForm_legal {h : Hdr} {s : State} {k : CopyKind} {size : Nat} {sync : Bool} {d a b : SReg} {desc : List Byte} (r : AtHome h s)
    (hd : s.myCore.descriptor (s.me.rs a) size = .inr desc) (hc : copyDetail k desc (s.me.rs b) s.myCore.fmt = none) :
    copyForm h k size sync d a b s = copyIssue s d sync (newCopy s k (s.me.rs a) (s.me.rs b) desc) fun _ sl => sl := by
  refine (homeOnly_runs h s _ _ _ r).trans ?_
  simp only [hd, hc]

theorem copyIssues : Claims.CopyIssue := by
  intro h d a b m v t sp sc wr gl sy d64 d128 s r ho
  refine ⟨fun hd => ⟨fun hc => ?_, fun hc => ?_, fun hc => ?_⟩, fun hd hc => ?_, fun hc => ?_, fun hc => ?_⟩
  · exact copyIssue_open (fun _ => id) ho (copyForm_legal r hd hc)
  · exact copyIssue_open (fun _ => id) ho (copyForm_legal r hd hc)
  · refine copyIssue_open (fun num sl => { sl.stopStream v with
        streams := (sl.stopStream v).streams.set v (some (streamOf num wr gl d64 (s.me.rs b))) }) ho
      ((homeOnly_runs h s _ _ _ r).trans ?_)
    simp only [hd, hc]
  · exact copyIssue_open (fun _ => id) ho (copyForm_legal r hd hc)
  · refine copyIssue_open (fun _ => id) ho ((homeOnly_runs h s _ _ _ r).trans ?_)
    simp only [hc]
    rfl
  · refine copyIssue_open (fun _ => id) ho ((homeOnly_runs h s _ _ _ r).trans ?_)
    simp only [hc]
    rfl

theorem copyIssueOtherwise : Claims.CopyIssueOtherwise := by
  intro h d a b desc sy s r q hd
  refine ⟨fun x hc => ?_, fun hc ho => ?_⟩
  · refine (homeOnly_runs h s _ _ _ r).trans ?_
    simp only [hd, hc]
    exact trap_enters s 6 5 _ r.2 q
  · exact (copyForm_legal r hd hc).trans (if_pos ho)

/-- Settles O23: a bank's format and an operation's descriptor are checked first; what passes takes the context's next number. -/
theorem copyInstructions : Obligations.CopyInstructions := ⟨bankFormats, copyIssues, copyIssueOtherwise⟩

end Sys2Proof.Machine
end

section
/-! SUPPORT. The collective and view instructions (13 R280-R284). -/

namespace Sys2Proof.Machine

/-! ## Issue (13 R280, R281, R284) -/

theorem JobView.inside_iff {v : JobView} : v.inside = true ↔ v.standing = .member ∨ v.standing = .changing := by
  simp only [JobView.inside, Bool.or_eq_true, decide_eq_true_eq]

section
variable {s : State} {i : Instr} {d : SReg} {sync : Bool} {o : CollOp}

/-- Past the checks, of a member whose context is not stale. -/
theorem collIssue_member (k : s.me.xctx.stale = false) (v : (s.viewOf (s.ownJob s.cur)).inside = true) :
    collIssue s d sync none o = if 8 ≤ s.me.xctx.outstanding then parkAgain s .engineQueue (.engine .x)
      else
        let s := s.mod fun sl => { sl.ws d o.num with
          xctx := { sl.xctx with last := o.num, report := none, ops := sl.xctx.ops ++ [o] } }
        if sync then .next (s.park .timeline (.timeline .x o.num .sync)) else retire s id := by
  unfold collIssue
  simp only [k, Bool.false_eq_true, if_false, if_neg (not_not_intro (JobView.inside_iff.mp v))]

theorem collIssue_open (k : s.me.xctx.stale = false) (v : (s.viewOf (s.ownJob s.cur)).inside = true)
    (n : s.me.xctx.outstanding < 8) (e : exec i s = collIssue s d false none o) : IssuesColl i s d o := by
  refine e.trans ((collIssue_member k v).trans ((if_neg (Nat.not_le.mpr n)).trans ?_))
  exact congrArg Host.Outcome.next (State.mod_mod s _ _)

theorem collIssue_sync (k : s.me.xctx.stale = false) (v : (s.viewOf (s.ownJob s.cur)).inside = true)
    (n : s.me.xctx.outstanding < 8) : collIssue s d true none o = .next ((s.mod fun sl => { sl.ws d o.num with
      xctx := { sl.xctx with last := o.num, report := none, ops := sl.xctx.ops ++ [o] } }).park .timeline (.timeline .x o.num .sync)) :=
  (collIssue_member k v).trans (if_neg (Nat.not_le.mpr n))

theorem collIssue_full (k : s.me.xctx.stale = false) (v : (s.viewOf (s.ownJob s.cur)).inside = true)
    (n : 8 ≤ s.me.xctx.outstanding) : collIssue s d sync none o = parkAgain s .engineQueue (.engine .x) :=
  (collIssue_member k v).trans (if_pos n)

end

section
variable {h : Hdr} {s : State} {d a b : SReg} {desc : List Byte} {sync : Bool}

theorem execColl_read (r : AtHome h s) (hd : s.myCore.descriptor (s.me.rs a) 64 = .inr desc) :
    let o := collFields desc (s.me.rs b) (s.me.xctx.last + 1) (s.release s.cur)
    exec (.coll h sync d a b) s = collIssue s d sync (collDetail desc o (s.viewOf (s.ownJob s.cur)).view) o := by
  refine (homeOnly_runs h s _ _ _ r).trans ?_
  simp only [hd]

theorem execRepart_read (r : AtHome h s) (hd : s.myCore.descriptor (s.me.rs a) 64 = .inr desc) :
    let o := repartFields desc (s.me.xctx.last + 1) (s.release s.cur)
    exec (.repart h sync d a) s = collIssue s d sync (repartDetail desc o) o := by
  refine (homeOnly_runs h s _ _ _ r).trans ?_
  simp only [hd]

end

theorem collectiveIssue : Claims.CollectiveIssue := by
  intro h d a b desc s r hd v n o p traps
  have ec : ∀ {sync : Bool} {x : Option Nat}, collDetail desc o v.view = x →
      exec (.coll h sync d a b) s = collIssue s d sync x o := fun hx => hx ▸ execColl_read r hd
  have er : ∀ {sync : Bool} {x : Option Nat}, repartDetail desc p = x →
      exec (.repart h sync d a) s = collIssue s d sync x p := fun hx => hx ▸ execRepart_read r hd
  refine ⟨fun hc k m ho => collIssue_open k m ho (ec hc), fun hc k m ho => collIssue_open k m ho (er hc),
    fun hc k m ho => (ec hc).trans (collIssue_sync k m ho), fun hc k m ho => (er hc).trans (collIssue_sync k m ho),
    fun hc k m ho => (ec hc).trans (collIssue_full k m ho), fun q => ⟨fun x hx => ?_, fun x hx => ?_, fun hc k => ?_, fun hc k m => ?_⟩⟩
  · exact (ec hx).trans (trap_enters s 0xA 1 _ r.2 q)
  · exact (er hx).trans (trap_enters s 0xA 1 _ r.2 q)
  · exact (ec hc).trans ((if_pos k).trans (trap_enters s 0xA 3 _ r.2 q))
  · refine (ec hc).trans ((if_neg (by rw [k]; exact Bool.false_ne_true)).trans ((if_pos fun hs => ?_).trans (trap_enters s 0xA 4 _ r.2 q)))
    exact Bool.false_ne_true (m.symm.trans (JobView.inside_iff.mpr hs))

/-! ## Views (13 R282, R283) -/

/-- What a part of the view reads as depends on the views and the module's own number. -/
theorem State.viewPart_congr {s t : State} (hv : t.views = s.views) (hm : t.modId = s.modId) (j : BitVec 32) (p : Fin 8) (i : Nat) :
    t.viewPart j p i = s.viewPart j p i := by
  unfold State.viewPart State.viewOf
  rw [hv, hm]

/-- A slot parked for the view reads its part. -/
theorem execParkReasonMet_view {s : State} {w : Who} {p : Fin 8} {d : SReg} {i : Nat} (hs : (s.slot w).state ≠ .spilled)
    (hw : (s.slot w).wait = .view p d i) :
    exec (.parkReasonMet w) s = .next (s.finish w fun sl => sl.ws d (s.viewPart (s.jobOf w) p i)) := by
  change execParkReasonMet w s = _
  rw [execParkReasonMet]
  unfold State.unparked
  simp only [hs, if_false, hw]
  rfl

theorem viewInstructions : Claims.ViewInstructions := by
  intro h p d a q s r num i
  have hp : Parks (.viewrd h p d q) s .view (.view p d i) := homeOnly_runs h s _ _ _ r
  refine ⟨hp, fun hs => ?_, fun w i hs hw => execParkReasonMet_view hs hw, fun k => ?_, fun k e => ?_, fun k e => ?_⟩
  · have hme : (s.park .view (.view p d i)).slot s.cur = s.me.park .view (.view p d i) s.rot := State.slot_mod_cur s _
    refine ⟨_, ⟨_, hp, _, execParkReasonMet_view ?_ (by rw [hme]; rfl), rfl⟩, ?_, fun hd => ?_, rfl⟩
    · rw [hme]
      simp only [Slot.park]
      split <;> simp
    · rw [State.slot_finish_self, Slot.next_pc, Slot.ws_pc, Slot.unpark_pc, hme]
      rfl
    · rw [State.slot_finish_self, Slot.rs_next, Slot.rs_ws _ _ _ hd]
      exact (State.viewPart_congr rfl rfl _ p i).trans (congrArg (s.viewPart · p i) (State.jobOf_mod rfl))
  · exact (homeOnly_runs h s _ _ _ r).trans (if_pos (by rw [k]; rfl))
  · exact (homeOnly_runs h s _ _ _ r).trans ((if_neg (by rw [k]; exact Bool.false_ne_true)).trans (if_pos e))
  · exact (homeOnly_runs h s _ _ _ r).trans ((if_neg (by rw [k]; exact Bool.false_ne_true)).trans (if_neg e))

/-- Settles O36: the descriptor is checked first, then the context, then the view; `viewrd` reads what its part holds. -/
theorem collectiveInstructions : Obligations.CollectiveInstructions := ⟨collectiveIssue, viewInstructions⟩

end Sys2Proof.Machine
end

section
/-! SUPPORT. The issue of the matrix instructions (11 R226, R238-R243). -/

namespace Sys2Proof.Machine

/-! ## Issue -/

section
variable {s : State} {i : Instr} {d : SReg} {sync : Bool}

/-- With fewer than eight operations open, an operation of the matrix context is issued. -/
theorem matIssue_open {k : MatKind} (n : s.me.mctx.outstanding < 8) (e : exec i s = matIssue s d sync k) : IssuesMat i s d k sync := by
  refine e.trans ((if_neg (Nat.not_le.mpr n)).trans ?_)
  cases sync with
  | true => rfl
  | false => exact congrArg Host.Outcome.next (State.mod_mod s _ _)

theorem jobIssue_legal {f : JobF} (hd : f.detail s.myCore.fmt = none) : jobIssue s d sync f = matIssue s d sync (.job f) := by
  rw [jobIssue, hd]

theorem jobIssue_bad {f : JobF} {x : Nat} (hd : f.detail s.myCore.fmt = some x) : jobIssue s d sync f = matTrap s x := by
  rw [jobIssue, hd]

theorem matTrap_enters (x : Nat) (g : s.me.hosting = none) (n : s.me.state ≠ .handler) :
    matTrap s x = .next (s.mod fun sl => sl.takeTrap 8 1 (BitVec.ofNat 64 x) sl.pc) := trap_enters s 8 1 _ g n

end

section
variable {h : Hdr} {s : State} {d a b : SReg} {k : Fin 4} {z sync : Bool} {desc : List Byte}

/-- A job whose descriptor has been read and has no reserved bit set. -/
theorem execMjob_read (r : AtHome h s) (h1 : (s.me.rs b).extractLsb' 18 46 = 0) (hd : s.myCore.descriptor (s.me.rs a) 64 = .inr desc)
    (hr : mjobReserved desc = false) : exec (.mjob h k z sync d a b) s = jobIssue s d sync (mjobOf k z desc (s.me.rs b)) := by
  refine (homeOnly_runs h s _ _ _ r).trans ?_
  simp only [h1, hd, hr, ne_eq, not_true_eq_false, if_false, Bool.false_eq_true]

/-- A job from registers, with no reserved bit set. -/
theorem execMma_read (r : AtHome h s) (h0 : (s.me.rs a).extractLsb' 55 9 = 0) (h1 : (s.me.rs b).extractLsb' 53 11 = 0) :
    exec (.mma h k z sync d a b) s = jobIssue s d sync (mmaOf k z (s.me.rs a) (s.me.rs b)) := by
  refine (homeOnly_runs h s _ _ _ r).trans ?_
  simp only [h0, h1, ne_eq, not_true_eq_false, or_self, if_false]

end

theorem matrixIssues : Claims.MatrixIssues := by
  intro h d a b k z sy m desc f s r w0 w1 e
  refine ⟨fun ho => ⟨fun h1 hd hr hc => ?_, fun h0 h1 hc => ?_, fun hc => ?_, fun h0 => ?_, ?_, ?_⟩, fun h0 hv hl => ?_, fun hv hl => ?_,
    fun hl q => ?_, homeOnly_runs h s _ _ _ r⟩
  · exact matIssue_open ho ((execMjob_read r h1 hd hr).trans (jobIssue_legal hc))
  · exact matIssue_open ho ((execMma_read r h0 h1).trans (jobIssue_legal hc))
  · refine matIssue_open ho ((homeOnly_runs h s _ _ _ r).trans ?_)
    simp only [show s.drainCheck m (s.me.rs a) (s.me.rs b) = _ from hc]
  · exact matIssue_open ho ((homeOnly_runs h s _ _ _ r).trans (if_neg (not_not_intro h0)))
  · exact matIssue_open ho (homeOnly_runs h s _ _ _ r)
  · exact matIssue_open ho (homeOnly_runs h s _ _ _ r)
  · refine (homeOnly_runs h s _ _ _ r).trans ((if_neg fun n => ?_).trans ((if_neg fun n => ?_).trans (if_neg fun n => ?_)))
    · exact Nat.not_lt.mpr (Nat.le_trans hv hl) ((ult_iff _ _).mp n)
    · exact Nat.lt_irrefl 0 (lt_of_lt_of_eq h0 (congrArg BitVec.toNat n))
    · exact Nat.not_lt.mpr hv ((ult_iff _ _).mp n)
  · refine (homeOnly_runs h s _ _ _ r).trans ((if_neg fun n => ?_).trans ((if_neg fun n => ?_).trans (if_pos ((ult_iff _ _).mpr hv))))
    · exact Nat.not_lt.mpr hl ((ult_iff _ _).mp n)
    · exact Nat.not_lt_zero _ (lt_of_lt_of_eq hv (congrArg BitVec.toNat n))
  · exact (homeOnly_runs h s _ _ _ r).trans ((if_pos ((ult_iff _ _).mpr hl)).trans (trap_enters s 8 2 _ r.2 q))

/-! ## Traps (11 R238, R226) -/

/-- The checks of a job, each as its statement (11 R238). -/
theorem JobF.detail_eq (f : JobF) (fmts : Vector Word 12) :
    let legal (t : Nat) : Prop := t = 1 ∨ t = 2 ∨ t = 3
    let types : Prop := (f.a0 < 0x30000 → legal (fmtType (f.fmtA fmts))) ∧ legal f.bty ∧ (f.scaled = true → f.bty ≠ 1)
    let sizes : Prop := 16 ≤ f.m ∧ f.m ≤ 64 ∧ 16 ≤ f.n ∧ f.n ≤ 64 ∧ f.k % 16 = 0 ∧ 16 ≤ f.k ∧ f.k ≤ 4096
    let panel : Prop := f.boff + spanBytes f.bty f.k ≤ 0x1F00 ∧ (f.scaled = true → f.soff + ceilDiv f.k 32 ≤ 0x100) ∧
      f.boff % (if f.bty = 3 then 3 else codeBytes f.bty) = 0
    ∃ t n p, f.detail fmts = firstOf [(t, 2), (n, 3), (f.badA fmts, 4), (p, 5)] ∧ (t = false ↔ types) ∧ (n = false ↔ sizes) ∧
      (p = false ↔ panel) := by
  refine ⟨_, _, _, rfl, ?_, ?_, ?_⟩
  · simp [Bool.or_eq_false_iff, Classical.or_iff_not_imp_left, and_assoc]
  · simp [and_assoc]
  · simp [Bool.or_eq_false_iff, and_assoc]

/-- Of four checks the first that fails gives the detail. -/
theorem firstOf_details {t n b p : Bool} {types sizes panel : Prop} (ht : t = false ↔ types) (hn : n = false ↔ sizes) (hp : p = false ↔ panel) :
    let x := firstOf [(t, 2), (n, 3), (b, 4), (p, 5)]
    (¬ types → x = some 2) ∧ (types → ¬ sizes → x = some 3) ∧ (types → sizes → b = true → x = some 4) ∧
    (types → sizes → b = false → ¬ panel → x = some 5) ∧ (types → sizes → b = false → panel → x = none) := by
  rw [← ht, ← hn, ← hp]
  refine ⟨fun a => ?_, fun a b => ?_, fun a b c => ?_, fun a b c d => ?_, fun a b c d => ?_⟩ <;>
    simp_all [firstOf]

theorem JobF.details (f : JobF) (fmts : Vector Word 12) :
    let legal (t : Nat) : Prop := t = 1 ∨ t = 2 ∨ t = 3
    let types : Prop := (f.a0 < 0x30000 → legal (fmtType (f.fmtA fmts))) ∧ legal f.bty ∧ (f.scaled = true → f.bty ≠ 1)
    let sizes : Prop := 16 ≤ f.m ∧ f.m ≤ 64 ∧ 16 ≤ f.n ∧ f.n ≤ 64 ∧ f.k % 16 = 0 ∧ 16 ≤ f.k ∧ f.k ≤ 4096
    let panel : Prop := f.boff + spanBytes f.bty f.k ≤ 0x1F00 ∧ (f.scaled = true → f.soff + ceilDiv f.k 32 ≤ 0x100) ∧
      f.boff % (if f.bty = 3 then 3 else codeBytes f.bty) = 0
    (¬ types → f.detail fmts = some 2) ∧
    (types → ¬ sizes → f.detail fmts = some 3) ∧
    (types → sizes → f.badA fmts = true → f.detail fmts = some 4) ∧
    (types → sizes → f.badA fmts = false → ¬ panel → f.detail fmts = some 5) ∧
    (types → sizes → f.badA fmts = false → panel → f.detail fmts = none) := by
  obtain ⟨t, n, p, e, ht, hn, hp⟩ := f.detail_eq fmts
  rw [e]
  exact firstOf_details ht hn hp

theorem matrixFails {h : Hdr} {d a b : SReg} {k : Fin 4} {z sy : Bool} {m : DrainArgs} {desc : List Byte} {s : State} (r : AtHome h s)
    (q : s.me.state ≠ .handler) :
    let w0 := s.me.rs a
    let w1 := s.me.rs b
    let fails (i : Instr) (x : Nat) : Prop := exec i s = .next (s.mod fun sl => sl.takeTrap 8 1 (BitVec.ofNat 64 x) sl.pc)
    (w1.extractLsb' 18 46 ≠ 0 → fails (.mjob h k z sy d a b) 1) ∧
    (∀ x, w1.extractLsb' 18 46 = 0 → s.myCore.descriptor w0 64 = .inl x → fails (.mjob h k z sy d a b) 8) ∧
    (w1.extractLsb' 18 46 = 0 → s.myCore.descriptor w0 64 = .inr desc →
      (mjobReserved desc = true → fails (.mjob h k z sy d a b) 1) ∧
      (mjobReserved desc = false → ∀ x, (mjobOf k z desc w1).detail s.myCore.fmt = some x → fails (.mjob h k z sy d a b) x)) ∧
    (w0.extractLsb' 55 9 ≠ 0 ∨ w1.extractLsb' 53 11 ≠ 0 → fails (.mma h k z sy d a b) 1) ∧
    (w0.extractLsb' 55 9 = 0 → w1.extractLsb' 53 11 = 0 → ∀ x, (mmaOf k z w0 w1).detail s.myCore.fmt = some x →
      fails (.mma h k z sy d a b) x) ∧
    (∀ x, s.drainCheck m w0 w1 = .inl x → fails (.mdrain h m d a b) x) ∧
    (w0.extractLsb' 4 60 ≠ 0 → fails (.mcfg h sy d a) 1) := by
  intro w0 w1 fails
  have ht (x : Nat) := matTrap_enters x r.2 q
  refine ⟨fun h1 => ?_, fun x h1 hd => ?_, fun h1 hd => ⟨fun hr => ?_, fun hr x hx => ?_⟩, fun h1 => ?_, fun h0 h1 x hx => ?_, fun x hx => ?_,
    fun h0 => ?_⟩
  · exact (homeOnly_runs h s _ _ _ r).trans ((if_pos h1).trans (ht 1))
  · refine (homeOnly_runs h s _ _ _ r).trans ((if_neg (not_not_intro h1)).trans ?_)
    simp only [show s.myCore.descriptor (s.me.rs a) 64 = _ from hd]
    exact ht 8
  · refine (homeOnly_runs h s _ _ _ r).trans ((if_neg (not_not_intro h1)).trans ?_)
    simp only [show s.myCore.descriptor (s.me.rs a) 64 = _ from hd, hr, if_true]
    exact ht 1
  · exact (execMjob_read r h1 hd hr).trans ((jobIssue_bad hx).trans (ht x))
  · exact (homeOnly_runs h s _ _ _ r).trans ((if_pos h1).trans (ht 1))
  · exact (execMma_read r h0 h1).trans ((jobIssue_bad hx).trans (ht x))
  · refine (homeOnly_runs h s _ _ _ r).trans ?_
    simp only [show s.drainCheck m (s.me.rs a) (s.me.rs b) = _ from hx]
    exact ht x
  · exact (homeOnly_runs h s _ _ _ r).trans ((if_pos h0).trans (ht 1))

theorem matrixTraps : Claims.MatrixTraps := by
  refine ⟨fun h d a b k z sy m desc s r => ⟨fun q => matrixFails r q, fun ho => ?_⟩, JobF.details, fun h d a b k z sy m s r hg => ?_⟩
  · simp only [List.forall_mem_cons, List.not_mem_nil, false_imp_iff, implies_true, and_true]
    exact ⟨(homeOnly_runs h s _ _ _ r).trans (if_pos ho), (homeOnly_runs h s _ _ _ r).trans (if_pos ho)⟩
  · obtain ⟨g, e⟩ := Option.isSome_iff_exists.mp hg
    have guest (x : Out) : homeOnly h s x 8 3 = .next (s.sendHome s.cur (.trap 8 3 0) s.me.pc) :=
      (homeOnly_guest h s x 8 3 r hg).trans (trap_guest e 8 3 0)
    simp only [List.forall_mem_cons, List.not_mem_nil, false_imp_iff, implies_true, and_true]
    exact ⟨guest _, guest _, guest _, guest _, guest _, guest _, guest _, guest _⟩

/-- Settles O29: each check in its order, then the operation issued or the slot parked. -/
theorem matrixIssue : Obligations.MatrixIssue := ⟨matrixIssues, matrixTraps⟩

end Sys2Proof.Machine
end

section
/-! SUPPORT. The steps of the matrix engine and its drain (11 R231-R236). -/

namespace Sys2Proof.Machine

/-! ## What leaves the engines alone -/

theorem State.engine_modSlot (s : State) (w : Who) (f : Slot → Slot) (c : ClusterId) : (s.modSlot w f).engine c = s.engine c := rfl

theorem State.engine_modMat (s : State) (x : Who × Word) (f : MatOp → MatOp) (c : ClusterId) : (s.modMat x f).engine c = s.engine c := rfl

theorem State.engine_failItems (s : State) (k : CoreId) (n : Nat) (c : ClusterId) : (s.failItems k n).engine c = s.engine c := by
  unfold State.failItems
  split <;> rfl

theorem State.engine_endMat (s : State) (x : Who × Word) (n : MatSt) (st : MatStatus) (c : ClusterId) :
    (s.endMat x n st).engine c = s.engine c :=
  State.engine_failItems ..

theorem State.engine_finishMat (s : State) (x : Who × Word) (st : MatStatus) (c : ClusterId) : (s.finishMat x st).engine c = s.engine c :=
  State.engine_endMat ..

/-! ## The operand fetch (11 R234) -/

/-- Elements that stand as they were read are not chosen between. -/
theorem State.oldOrNew_self {α : Type} [DecidableEq α] (s : State) (l : List α) : s.oldOrNew l l = (l, s) := by
  induction l with
  | nil => rfl
  | cons x l ih =>
    unfold State.oldOrNew
    simp only [if_true, ih]

/-- An operation found in its context, after a change that keeps its number. -/
theorem State.matOp_modMat {s : State} {x : Who × Word} {f : MatOp → MatOp} {o : MatOp} (hf : ∀ o, (f o).num = o.num)
    (h : s.matOp x = some o) : (s.modMat x f).matOp x = some (f o) := by
  unfold State.matOp at h ⊢
  have hn : o.num = x.2 := by simpa using List.find?_some h
  rw [State.modMat, State.slot_modSlot_self, List.find?_map]
  have hp : ((fun o : MatOp => decide (o.num = x.2)) ∘ fun o => if o.num = x.2 then f o else o) = fun o => decide (o.num = x.2) := by
    funext o
    dsimp only [Function.comp]
    split
    · rw [hf]
    · rfl
  rw [hp, h, Option.map_some, if_pos hn]

/-- Reading operands that stand as they were read notes them again. -/
theorem State.fetchJob_same {s : State} {x : Who × Word} {o : MatOp} {f : JobF} (h : s.matOp x = some o) (hk : o.kind = .job f)
    (ho : o.over = false) (hd : s.storesDone o.rel = true) (hr : o.read = some (f.now s x.1.core o.fmts)) :
    s.fetchJob x = s.modMat x fun o' => { o' with read := some (f.now s x.1.core o.fmts) } := by
  unfold State.fetchJob
  simp only [h, hk, ho, hd, hr, Bool.false_eq_true, not_true_eq_false, or_self, if_false, State.oldOrNew_self]

/-! ## The units -/

section
variable {s : State} {c : ClusterId} {b : Fin 4}

/-- The clear of a bank nobody has claimed enters the queue. -/
theorem matrixAccept_clr {i : Nat} {o : MatOp} (hq : (s.engine c).queue.length < 32) (h : s.matNext c = some (i, o)) (hk : o.kind = .clr b)
    (hc : (s.engine c).claims[b] = none) :
    exec (.matrixAccept c) s = .next (((s.modEngine c fun e => { e with rr := i }).modMat (ctxWho c i, o.num)
      fun x => { x with st := .accepted }).modEngine c fun e => { e with queue := e.queue ++ [(ctxWho c i, o.num)] }) := by
  change execMatrixAccept c s = _
  unfold execMatrixAccept
  simp only [if_neg (Nat.not_le.mpr hq), h, hk, MatKind.bank, Option.any_some, hc, Option.any_none, Bool.false_eq_true, if_false]

theorem matrixJobStart_clr {x : Who × Word} {o : MatOp} (h : s.matReady c false = some (x, o)) (hk : o.kind = .clr b) :
    exec (.matrixJobStart c false) s = .next (((s.fetchJob x).modMat x fun o => { o with st := .running }).modEngine c fun e =>
      { e with queue := e.queue.filter (· ≠ x), job := some ⟨x.1, x.2⟩ }) := by
  change execMatrixJobStart c false s = _
  unfold execMatrixJobStart
  simp only [h, hk]

theorem matrixJobComplete_clr {j : RunJob} {o : MatOp} (hj : (s.engine c).job = some j) (ho : s.matOp (j.who, j.num) = some o)
    (hk : o.kind = .clr b) : exec (.matrixJobComplete c) s = .next (((s.modEngine c fun e => { e with job := none }).modEngine c fun e =>
      { e with banks := e.banks.set b [] }).finishMat (j.who, j.num) .clean) := by
  change execMatrixJobComplete c s = _
  unfold execMatrixJobComplete
  simp only [hj, ho, hk]

theorem matrixJobComplete_job {j : RunJob} {o : MatOp} {f : JobF} (hj : (s.engine c).job = some j) (ho : s.matOp (j.who, j.num) = some o)
    (hk : o.kind = .job f) : exec (.matrixJobComplete c) s = .next (s.sumJob c (j.who, j.num) f) := by
  change execMatrixJobComplete c s = _
  unfold execMatrixJobComplete
  simp only [hj, ho, hk]

/-- The engine after a job's sums stand in its bank, the operands as the engine has read them. -/
theorem State.engine_sumJob {x : Who × Word} {o : MatOp} {f : JobF} (ho : s.matOp x = some o) (hk : o.kind = .job f) (hv : o.over = false)
    (hd : s.storesDone o.rel = true) (hr : o.read = some (f.now s x.1.core o.fmts)) :
    ((s.sumJob c x f).engine c).job = none ∧ ((s.sumJob c x f).engine c).banks[f.bank] =
      f.accumulate (f.now s x.1.core o.fmts).1.toArray (f.now s x.1.core o.fmts).2.toArray (s.engine c).banks[f.bank] := by
  have hf := State.fetchJob_same ho hk hv hd hr
  have hm : (s.fetchJob x).matOp x = some { o with read := some (f.now s x.1.core o.fmts) } := by
    rw [hf]
    exact State.matOp_modMat (fun _ => rfl) ho
  have he : (s.fetchJob x).engine c = s.engine c := by rw [hf, State.engine_modMat]
  unfold State.sumJob
  simp only [hm, he, Option.bind_some, Option.getD_some, State.engine_finishMat, State.engine_modEngine_self]
  exact ⟨trivial, Vector.getElem_set_self _⟩

theorem drainComplete_whole {r : RunDrain} (h : (s.engine c).drain = some r) (hf : s.drainFlying c = false) (hp : r.performed = r.sent) :
    exec (.drainComplete c) s = .next (s.endDrain c r (((s.matOp (r.who, r.num)).map (·.status)).getD .clean)) := by
  change execDrainComplete c s = _
  unfold execDrainComplete
  simp only [h, hf, hp, Bool.false_eq_true, not_false_eq_true, and_self, if_true]

theorem drainFail_short {r : RunDrain} (h : (s.engine c).drain = some r) (hf : s.drainFlying c = false) (hp : r.performed < r.sent) :
    exec (.drainFail c) s = .next (s.endDrain c r
      { ((s.matOp (r.who, r.num)).map (·.status)).getD .clean with error := true, cause := 2 }) := by
  change execDrainFail c s = _
  unfold execDrainFail
  simp only [h, hf, hp, Bool.false_eq_true, not_false_eq_true, and_self, if_true]

end

/-- Settles O30: the engine's steps change the queue, the running job and one bank; operands that stand as they were read are read the same. -/
theorem matrixUnits : Obligations.MatrixUnits := by
  intro c i o b w num j f r s hq
  refine ⟨fun h hk hc => ⟨_, matrixAccept_clr hq h hk hc, ?_, ?_⟩, fun h hk => ⟨_, matrixJobStart_clr h hk, ?_, ?_⟩, fun hj ho => ⟨fun hk =>
      ⟨_, matrixJobComplete_clr hj ho hk, ?_, ?_⟩, fun hk hv hd _ hr => ⟨_, matrixJobComplete_job hj ho hk, State.engine_sumJob ho hk hv hd hr⟩⟩,
    fun hd hf => ⟨drainComplete_whole hd hf, fun hp => ⟨_, _, drainFail_short hd hf hp, rfl, rfl, rfl, ?_⟩⟩⟩
  · simp only [State.engine_modEngine_self, State.engine_modMat]
  · simp only [State.engine_modEngine_self, State.engine_modMat]
  · rw [State.engine_modEngine_self]
  · rw [State.engine_modEngine_self]
    simp
  · simp only [State.engine_finishMat, State.engine_modEngine_self]
    exact Vector.getElem_set_self _
  · simp only [State.engine_finishMat, State.engine_modEngine_self]
  · rw [State.endDrain, State.engine_endMat, State.engine_modEngine_self]

end Sys2Proof.Machine
end

section
/-! SUPPORT. Prefetches and fences (04 R89, R90). -/

namespace Sys2Proof.Machine

/-! ## Runs of events -/

theorem Leads.trans {l r : List Instr} {s t u : State} (h : Leads l s t) (h' : Leads r t u) : Leads (l ++ r) s u := by
  induction l generalizing s with
  | nil => exact (show s = t from h) ▸ h'
  | cons i l ih =>
    obtain ⟨v, hv, hl⟩ := h
    exact ⟨v, hv, ih hl⟩

theorem Leads.one {i : Instr} {s t : State} (h : exec i s = .next t) : Leads [i] s t := ⟨t, h, rfl⟩

/-- Two changes of one slot are one. -/
theorem State.modSlot_modSlot (s : State) (w : Who) (f g : Slot → Slot) : (s.modSlot w f).modSlot w g = s.modSlot w fun sl => g (f sl) := by
  unfold State.modSlot State.modCore
  simp only [State.core, assocD_set_self]
  congr 1
  exact (assocSet_set ..).trans (by simp)

/-! ## Prefetches and the issue of a fence -/

theorem fences : Claims.Fences := by
  intro h sc ro a off s r
  refine ⟨?_, fun ht => ?_, ?_, fun hsc => ?_⟩
  · refine (guarded_runs h s _ r).trans ?_
    simp only [Bool.false_eq_true, false_and, if_false]
    rfl
  · refine (guarded_runs h s _ r).trans ?_
    simp only [ht, tlbFind, List.find?_nil, ite_self]
    rfl
  · exact (guarded_runs h s _ r).trans (if_pos rfl)
  · exact (guarded_runs h s _ r).trans (if_neg hsc)

/-! ## Probes and echoes -/

section
variable {s : State} {w : Who} {sc : Scope} {un pr : List (Fin 48)}

theorem fenceProbe_open {g : Fin 48} (hw : (s.slot w).wait = .fence sc un pr) (hg : g ∈ un) : exec (.fenceProbe w g) s =
    .next (s.modSlot w fun sl => { sl with wait := .fence sc (un.filter (· ≠ g)) (pr ++ [g]) }) := by
  refine congrArg Host.Outcome.next (State.modSlot_congr ?_)
  simp only [hw, hg, if_true]

theorem fenceEcho_clean {g : Fin 48} (hw : (s.slot w).wait = .fence sc un pr) (hg : g ∈ pr) (hc : s.groupClean w g = true) :
    exec (.fenceEcho w g) s = .next (s.modSlot w fun sl => { sl with wait := .fence sc un (pr.filter (· ≠ g)) }) := by
  change execFenceEcho w g s = _
  unfold execFenceEcho
  simp only [hw, hg, hc, decide_true, Bool.and_true, if_true]

/-- With all echoes back, a fence ends as its scope lets it. -/
theorem fence_unparked (hw : (s.slot w).wait = .fence sc [] []) (hs : (s.slot w).state ≠ .spilled) :
    exec (.parkReasonMet w) s = .next ((s.fenceMet w sc).getD s) := by
  change execParkReasonMet w s = _
  rw [execParkReasonMet]
  unfold State.unparked
  simp only [hs, if_false, hw]
  rfl

theorem State.fenceMet_near (hi : (s.slot w).incs = []) (hc : (s.slot w).carry = []) (hsc : sc ≠ .fabric) : s.fenceMet w sc =
    some ((s.acquire w.core sc).finish w fun sl => { sl with tbm := sl.tbm &&& (1#49 <<< 48) }) := by
  unfold State.fenceMet
  simp only [hi, List.isEmpty_nil, Bool.not_true, State.not_carried hc, Bool.or_self, Bool.false_eq_true, if_false, ne_eq, hsc,
    not_false_eq_true, if_true]

theorem State.fenceMet_fabric (hi : (s.slot w).incs = []) (hc : (s.slot w).carry = []) (ho : (s.slot w).outst = [])
    (hg : (s.slot w).hosting = none) (he : (s.slot w).errq = []) : s.fenceMet w .fabric =
      some ((s.acquire w.core .fabric).finish w fun sl => { sl with tbm := 0 }) := by
  unfold State.fenceMet State.errClear State.errHome
  simp only [hi, List.isEmpty_nil, Bool.not_true, State.not_carried hc, Bool.or_self, Bool.false_eq_true, if_false, ne_eq,
    not_true_eq_false, ho, hg, he, if_true]

theorem State.ro_acquire_finish (f : Slot → Slot) :
    (((s.acquire w.core sc).finish w f).core w.core).ro = if sc.wide then [] else (s.core w.core).ro := by
  rw [State.finish, State.core_modSlot_self]
  unfold State.acquire
  split
  · rw [State.core_modCore_self]
  · rfl

theorem State.mem_acquire_finish (f : Slot → Slot) : ((s.acquire w.core sc).finish w f).mem = s.mem := by
  unfold State.acquire
  split <;> rfl

end

theorem fenceSteps : Claims.FenceSteps := by
  intro w sc un pr g s hw
  refine ⟨fenceProbe_open hw, fenceEcho_clean hw, fun hu hp hsc hs hi hc => ?_⟩
  subst hu hp hsc
  refine ⟨_, (fence_unparked hw hs).trans (by rw [State.fenceMet_near hi hc Scope.noConfusion, Option.getD_some]), ?_,
    State.ro_acquire_finish _, ?_⟩
  · rw [State.slot_finish_self, State.slot_acquire, Slot.next_tbm, Slot.unpark_tbm]
  · rw [State.slot_finish_self, State.slot_acquire, Slot.next_pc, Slot.unpark_pc]

/-! ## A fence from its issue to its end -/

/-- The slot's fence with its groups to probe and those probed. -/
def State.fencing (s : State) (w : Who) (sc : Scope) (un pr : List (Fin 48)) : State :=
  s.modSlot w fun sl => { sl with wait := .fence sc un pr }

section
variable {s : State} {w : Who} {sc : Scope}

theorem State.fencing_slot (un pr : List (Fin 48)) : (s.fencing w sc un pr).slot w = { s.slot w with wait := .fence sc un pr } :=
  State.slot_modSlot_self ..

theorem State.fencing_fencing (un pr un' pr' : List (Fin 48)) : (s.fencing w sc un pr).fencing w sc un' pr' = s.fencing w sc un' pr' :=
  State.modSlot_modSlot ..

theorem leads_fenceProbes {un : List (Fin 48)} (hn : un.Nodup) (pr : List (Fin 48)) :
    Leads (un.map (.fenceProbe w ·)) (s.fencing w sc un pr) (s.fencing w sc [] (pr ++ un)) := by
  induction un generalizing pr with
  | nil => rw [List.append_nil]; rfl
  | cons g un ih =>
    have hf : (g :: un).filter (· ≠ g) = un := by
      rw [List.filter_cons_of_neg (by simp)]
      refine List.filter_eq_self.mpr fun x hx => ?_
      exact decide_eq_true fun e => (List.nodup_cons.mp hn).1 (e ▸ hx)
    refine ⟨s.fencing w sc un (pr ++ [g]), ?_, ?_⟩
    · refine (fenceProbe_open (by rw [State.fencing_slot]) List.mem_cons_self).trans (congrArg Host.Outcome.next ?_)
      rw [hf]
      exact State.fencing_fencing ..
    · rw [show pr ++ g :: un = pr ++ [g] ++ un by simp]
      exact ih (List.nodup_cons.mp hn).2 _

theorem leads_fenceEchoes {pr : List (Fin 48)} (hn : pr.Nodup) (hq : (s.slot w).storeQ = []) (hnet : s.net = []) :
    Leads (pr.map (.fenceEcho w ·)) (s.fencing w sc [] pr) (s.fencing w sc [] []) := by
  induction pr with
  | nil => rfl
  | cons g pr ih =>
    have hf : (g :: pr).filter (· ≠ g) = pr := by
      rw [List.filter_cons_of_neg (by simp)]
      refine List.filter_eq_self.mpr fun x hx => ?_
      exact decide_eq_true fun e => (List.nodup_cons.mp hn).1 (e ▸ hx)
    refine ⟨s.fencing w sc [] pr, ?_, ih (List.nodup_cons.mp hn).2⟩
    have hc : (s.fencing w sc [] (g :: pr)).groupClean w g = true := by
      unfold State.groupClean
      rw [State.fencing_slot, show (s.fencing w sc [] (g :: pr)).net = [] from hnet, hq]
      rfl
    refine (fenceEcho_clean (by rw [State.fencing_slot]) List.mem_cons_self hc).trans (congrArg Host.Outcome.next ?_)
    rw [hf]
    exact State.fencing_fencing ..

end

/-- The state after the issue of a fence. -/
def State.fenceAsked (s : State) (sc : Scope) : State :=
  s.mod fun sl => { sl.park .fence (.fence sc (groupsOf s.me.tbm) []) s.rot with object := s.me.tbm.setWidth 64 }

theorem State.fenceAsked_slot (s : State) (sc : Scope) : (s.fenceAsked sc).slot s.cur =
    { s.me.park .fence (.fence sc (groupsOf s.me.tbm) []) s.rot with object := s.me.tbm.setWidth 64 } := by
  rw [State.fenceAsked, State.slot_mod_cur]

theorem State.fenceAsked_eq (s : State) (sc : Scope) : s.fenceAsked sc = (s.fenceAsked sc).fencing s.cur sc (groupsOf s.me.tbm) [] := by
  exact (State.modSlot_modSlot s s.cur (fun sl => { sl.park .fence (.fence sc (groupsOf s.me.tbm) []) s.rot with object := s.me.tbm.setWidth 64 })
    fun sl => { sl with wait := .fence sc (groupsOf s.me.tbm) [] }).symm

theorem State.ro_fenced (s : State) (sc : Scope) : (((s.fenceAsked sc).fencing s.cur sc [] []).core s.cur.core).ro = s.myCore.ro := by
  rw [State.fencing, State.core_modSlot_self, State.fenceAsked, State.mod, State.core_modSlot_self]
  rfl

theorem Slot.park_not_spilled (sl : Slot) (r : Reason) (x : Wait) (n : Nat) : (sl.park r x n).state ≠ .spilled := by
  simp only [Slot.park]
  split <;> simp

theorem fenceCompletes : Claims.FenceCompletes := by
  intro h sc s r q he hnet hs hsc w gs
  obtain ⟨hq, ho, hi, hc⟩ := q
  have hgs : gs.Nodup := (List.nodup_finRange 48).filter _
  have e : exec (.fence h sc) s = .next ((s.fenceAsked sc).fencing w sc gs []) := (guarded_runs h s _ r.1).trans
    ((if_neg hsc).trans (congrArg Host.Outcome.next ((State.mod_mod s _ _).trans (s.fenceAsked_eq sc))))
  have hslot (un pr : List (Fin 48)) : ((s.fenceAsked sc).fencing w sc un pr).slot w = { (s.fenceAsked sc).slot w with wait := .fence sc un pr } :=
    State.fencing_slot un pr
  have hw := hslot [] []
  rw [State.fenceAsked_slot] at hw
  have hst : (((s.fenceAsked sc).fencing w sc [] []).slot w).state ≠ .spilled := by
    rw [hw]
    exact Slot.park_not_spilled s.me .fence (.fence sc (groupsOf s.me.tbm) []) s.rot
  have hl : Leads (.fence h sc :: gs.map (.fenceProbe w ·) ++ gs.map (.fenceEcho w ·)) s ((s.fenceAsked sc).fencing w sc [] []) := by
    refine Leads.trans ⟨_, e, ?_⟩ (leads_fenceEchoes hgs (by rw [State.fenceAsked_slot]; exact hq) hnet)
    exact leads_fenceProbes hgs []
  by_cases hf : sc = .fabric
  · subst hf
    refine ⟨_, hl.trans (Leads.one ((fence_unparked (by rw [hw]) hst).trans (by
      rw [State.fenceMet_fabric (by rw [hw]; exact hi) (by rw [hw]; exact hc) (by rw [hw]; exact ho) (by rw [hw]; exact r.2)
        (by rw [hw]; exact he), Option.getD_some]))), ?_, ?_, ?_, ?_, ?_⟩
    · rw [State.slot_finish_self, State.slot_acquire, Slot.next_pc, Slot.unpark_pc, hw]
      rfl
    · rw [State.slot_finish_self, Slot.next_tbm, if_pos rfl]
      rfl
    · rw [State.slot_finish_self, State.slot_acquire, Slot.next_s, Slot.unpark_s, hw]
      rfl
    · rw [State.ro_acquire_finish]
      rfl
    · rw [State.mem_acquire_finish]
      rfl
  · refine ⟨_, hl.trans (Leads.one ((fence_unparked (by rw [hw]) hst).trans (by
      rw [State.fenceMet_near (by rw [hw]; exact hi) (by rw [hw]; exact hc) hf, Option.getD_some]))), ?_, ?_, ?_, ?_, ?_⟩
    · rw [State.slot_finish_self, State.slot_acquire, Slot.next_pc, Slot.unpark_pc, hw]
      rfl
    · rw [State.slot_finish_self, State.slot_acquire, Slot.next_tbm, Slot.unpark_tbm, hw, if_neg hf]
      rfl
    · rw [State.slot_finish_self, State.slot_acquire, Slot.next_s, Slot.unpark_s, hw]
      rfl
    · rw [State.ro_acquire_finish]
      cases sc with
      | slot => exact absurd rfl hsc
      | fabric => exact absurd rfl hf
      | core => exact State.ro_fenced s .core
      | cluster => rfl
      | stack => rfl
      | mdl => rfl
    · rw [State.mem_acquire_finish]
      rfl

/-- Settles O16: probes and echoes take each touched group off the fence's list, and with none left it ends. -/
theorem fenceForms : Obligations.FenceForms := ⟨fences, fenceSteps, fenceCompletes⟩

end Sys2Proof.Machine
end

section
/-! SUPPORT. Bytes written at the home slices, and accesses performed there (04 R72, R80, R86, R88). -/

namespace Sys2Proof.Machine

/-! ## Memory: equal where every byte is, and word by word -/

theorem Memory.wfFrom_cons {lo a : Nat} {x : Byte} {m : Memory} :
    Memory.wfFrom lo ((a, x) :: m) = true ↔ (lo ≤ a ∧ x ≠ 0) ∧ m.wfFrom (a + 1) = true := by
  simp only [Memory.wfFrom, Bool.and_eq_true, decide_eq_true_eq]

theorem Memory.ext_from {m m' : Memory} {lo : Nat} (h : m.wfFrom lo = true) (h' : m'.wfFrom lo = true) (e : ∀ a, m.get a = m'.get a) :
    m = m' := by
  induction m generalizing m' lo with
  | nil =>
    cases m' with
    | nil => rfl
    | cons p r =>
      obtain ⟨k, b⟩ := p
      have := e k
      rw [Memory.get, Memory.get, if_pos rfl] at this
      exact absurd this.symm (Memory.wfFrom_cons.mp h').1.2
  | cons p r ih =>
    obtain ⟨k, b⟩ := p
    obtain ⟨⟨hk, hb⟩, hr⟩ := Memory.wfFrom_cons.mp h
    cases m' with
    | nil =>
      have := e k
      rw [Memory.get, Memory.get, if_pos rfl] at this
      exact absurd this hb
    | cons p' r' =>
      obtain ⟨k', b'⟩ := p'
      obtain ⟨⟨hk', hb'⟩, hr'⟩ := Memory.wfFrom_cons.mp h'
      have below {m : Memory} {lo a : Nat} (h : m.wfFrom lo = true) (l : a < lo) : m.get a = 0 := Memory.get_below m lo a h l
      have hkk : k = k' := by
        rcases Nat.lt_trichotomy k k' with l | l | l
        · have := e k
          rw [Memory.get, if_pos rfl, Memory.get, if_neg (by omega), below hr' (by omega)] at this
          exact absurd this hb
        · exact l
        · have := e k'
          rw [Memory.get, if_neg (by omega), Memory.get, if_pos rfl, below hr (by omega)] at this
          exact absurd this.symm hb'
      subst hkk
      have hbb : b = b' := by
        have := e k
        rwa [Memory.get, if_pos rfl, Memory.get, if_pos rfl] at this
      subst hbb
      refine congrArg _ (ih hr hr' fun a => ?_)
      have := e a
      rw [Memory.get, Memory.get] at this
      by_cases ha : k = a
      · subst ha
        rw [below hr (by omega), below hr' (by omega)]
      · rwa [if_neg ha, if_neg ha] at this

/-- Memories in canonical form that hold the same bytes are the same data. -/
theorem Memory.ext_get {m m' : Memory} (h : m.wf = true) (h' : m'.wf = true) (e : ∀ a, m.get a = m'.get a) : m = m' := Memory.ext_from h h' e

theorem Memory.write_append (m : Memory) (a : Nat) (xs ys : List Byte) : m.write a (xs ++ ys) = (m.write a xs).write (a + xs.length) ys := by
  induction xs generalizing m a with
  | nil => rfl
  | cons x xs ih =>
    rw [List.cons_append, Memory.write, ih, Memory.write, List.length_cons]
    congr 1
    omega

/-- Bytes written where they stand already change nothing. -/
theorem Memory.write_read (m : Memory) (a n : Nat) (h : m.wf = true) : m.write a (m.read a n) = m := by
  refine Memory.ext_get (Memory.write_wf _ _ _ h) h fun c => ?_
  rw [Memory.get_write _ _ _ _ h]
  split
  next hc =>
    rw [Memory.read_length] at hc
    rw [Memory.get_eq_getElem_read m a n (c - a) (by omega)]
    congr 1
    omega
  next => rfl

/-- The 8-byte parts of a write, written one after another, are the write. -/
theorem foldl_write_wordParts (m : Memory) (pa : Nat) (bs : List Byte) :
    (wordParts pa bs).foldl (fun (m : Memory) p => m.write p.1 p.2) m = m.write pa bs := by
  have key (i : Nat) (hi : i ≤ (pa + bs.length + 7) / 8 - pa / 8) :
      (((List.range i).map (pa / 8 + ·)).map fun w =>
        (max pa (w * 8), (bs.drop (max pa (w * 8) - pa)).take (min (pa + bs.length) (w * 8 + 8) - max pa (w * 8)))).foldl
          (fun (m : Memory) p => m.write p.1 p.2) m = m.write pa (bs.take ((pa / 8 + i) * 8 - pa)) := by
    induction i with
    | zero =>
      rw [show (pa / 8 + 0) * 8 - pa = 0 by omega]
      rfl
    | succ i ih =>
      rw [List.range_succ, List.map_append, List.map_append, List.foldl_append, ih (by omega)]
      simp only [List.map_cons, List.map_nil, List.foldl_cons, List.foldl_nil]
      have hl : pa + (bs.take ((pa / 8 + i) * 8 - pa)).length = max pa ((pa / 8 + i) * 8) := by
        rw [List.length_take]
        omega
      rw [← hl, ← Memory.write_append]
      congr 1
      have hd : pa + (bs.take ((pa / 8 + i) * 8 - pa)).length - pa = (pa / 8 + i) * 8 - pa := by omega
      rw [hd]
      have ht : (bs.drop ((pa / 8 + i) * 8 - pa)).take (min (pa + bs.length) ((pa / 8 + i) * 8 + 8) -
          (pa + (bs.take ((pa / 8 + i) * 8 - pa)).length)) =
          (bs.drop ((pa / 8 + i) * 8 - pa)).take ((pa / 8 + (i + 1)) * 8 - pa - ((pa / 8 + i) * 8 - pa)) := by
        rw [List.take_eq_take_iff, List.length_drop, hl]
        omega
      rw [ht]
      have := List.take_add (l := bs) (i := (pa / 8 + i) * 8 - pa) (j := (pa / 8 + (i + 1)) * 8 - pa - ((pa / 8 + i) * 8 - pa))
      rw [← this]
      congr 1
      omega
  refine (key _ (Nat.le_refl _)).trans ?_
  congr 1
  exact List.take_of_length_le (by omega)

/-! ## Writes at the home slices, where no word is poisoned -/

/-- The two states differ at most in memory, what is kept beside it at the home slices, and the cores' read-only caches. -/
def State.ButData (s t : State) : Prop := t = { s with mem := t.mem, poison := t.poison, stale := t.stale, resTabs := t.resTabs }

section
variable {s t u : State}

theorem State.ButData.refl (s : State) : s.ButData s := rfl

theorem State.ButData.trans (h : s.ButData t) (h' : t.ButData u) : s.ButData u := by
  unfold State.ButData at *
  rw [h] at h'
  exact h'

theorem State.ButData.cores (h : s.ButData t) : t.cores = s.cores := by
  unfold State.ButData at h
  rw [h]

end

theorem State.writeWord_healthy {s : State} (hp : s.poison = []) (pa : Nat) (bs : List Byte) (thr : Bool) :
    s.ButData (s.writeWord pa bs thr) ∧ (s.writeWord pa bs thr).mem = s.mem.write pa bs ∧ (s.writeWord pa bs thr).poison = [] := by
  unfold State.writeWord
  simp only [hp, List.not_mem_nil, decide_false, Bool.false_and, Bool.false_eq_true, if_false]
  exact ⟨rfl, trivial, rfl⟩

theorem State.foldl_writeWord {s : State} (hp : s.poison = []) (thr : Bool) (l : List (Nat × List Byte)) :
    let t := l.foldl (fun s p => s.writeWord p.1 p.2 thr) s
    s.ButData t ∧ t.mem = l.foldl (fun (m : Memory) p => m.write p.1 p.2) s.mem ∧ t.poison = [] := by
  induction l generalizing s with
  | nil => exact ⟨rfl, rfl, hp⟩
  | cons p l ih =>
    obtain ⟨hb, hm, hq⟩ := State.writeWord_healthy hp p.1 p.2 thr
    obtain ⟨hb', hm', hq'⟩ := ih hq
    refine ⟨hb.trans hb', ?_, hq'⟩
    rw [List.foldl_cons, hm', hm, List.foldl_cons]

theorem State.foldl_bumpLine (s : State) (l : List Nat) :
    let t := l.foldl (fun (s : State) l => s.bumpLine (l * 128)) s
    s.ButData t ∧ t.mem = s.mem ∧ t.poison = s.poison := by
  induction l generalizing s with
  | nil => exact ⟨rfl, rfl, rfl⟩
  | cons x l ih =>
    obtain ⟨hb, hm, hq⟩ := ih (s.bumpLine (x * 128))
    exact ⟨State.ButData.trans (t := s.bumpLine (x * 128)) rfl hb, hm, hq⟩

/-- Where no word is poisoned, bytes written at the home slices stand in memory. -/
theorem State.gwrite_healthy {s : State} (hp : s.poison = []) (pa : Nat) (bs : List Byte) (thr : Bool) :
    s.ButData (s.gwrite pa bs thr) ∧ (s.gwrite pa bs thr).mem = s.mem.write pa bs ∧ (s.gwrite pa bs thr).poison = [] := by
  obtain ⟨hb, hm, hq⟩ := State.foldl_writeWord hp thr (wordParts pa bs)
  obtain ⟨hb', hm', hq'⟩ := State.foldl_bumpLine ((wordParts pa bs).foldl (fun s p => s.writeWord p.1 p.2 thr) s)
    ((((wordParts pa bs).filter fun p => !s.refuses p).map fun p => p.1 / 128).eraseDups)
  exact ⟨hb.trans hb', hm'.trans (hm.trans (foldl_write_wordParts ..)), hq'.trans hq⟩

/-- The core's slots are not touched by what its read-only cache takes. -/
theorem Core.slots_foldl_roUpdate (c : Core) (l : List (Nat × List Byte)) : l.foldl (fun k p => k.roUpdate p.1 p.2) c =
    { c with ro := (l.foldl (fun k p => k.roUpdate p.1 p.2) c).ro } := by
  induction l generalizing c with
  | nil => rfl
  | cons p l ih =>
    rw [List.foldl_cons]
    exact ih (c.roUpdate p.1 p.2)

theorem State.writeAt_slice {s : State} {pa : Nat} (hw : inWindow pa = false) (c : CoreId) (bs : List Byte) (thr : Bool) :
    ∃ l : List (Nat × List Byte), s.writeAt c pa bs thr = (s.gwrite pa bs thr).modCore c fun k => l.foldl (fun k p => k.roUpdate p.1 p.2) k := by
  unfold State.writeAt
  rw [hw]
  exact ⟨_, rfl⟩

section
variable {s : State} {pa : Nat} (hw : inWindow pa = false) (c : CoreId) (bs : List Byte) (thr : Bool)
include hw

theorem State.slot_writeAt (w : Who) : (s.writeAt c pa bs thr).slot w = s.slot w := by
  obtain ⟨l, e⟩ := State.writeAt_slice hw c bs thr (s := s)
  rw [e, State.slot_modCore (by rw [Core.slots_foldl_roUpdate])]
  exact State.slot_congr (State.gwrite_cores ..) w

theorem State.writeAt_mem (hp : s.poison = []) : (s.writeAt c pa bs thr).mem = s.mem.write pa bs := by
  obtain ⟨l, e⟩ := State.writeAt_slice hw c bs thr (s := s)
  rw [e]
  exact (State.gwrite_healthy hp pa bs thr).2.1

theorem State.writeAt_poison (hp : s.poison = []) : (s.writeAt c pa bs thr).poison = [] := by
  obtain ⟨l, e⟩ := State.writeAt_slice hw c bs thr (s := s)
  rw [e]
  exact (State.gwrite_healthy hp pa bs thr).2.2

/-- A write at a home slice changes nothing beside what is kept there and the cores. -/
theorem State.writeAt_frame (hp : s.poison = []) : let t := s.writeAt c pa bs thr
    t = { s with mem := t.mem, poison := t.poison, stale := t.stale, resTabs := t.resTabs, cores := t.cores } := by
  obtain ⟨l, e⟩ := State.writeAt_slice hw c bs thr (s := s)
  have hb := (State.gwrite_healthy hp pa bs thr).1
  rw [e]
  unfold State.ButData at hb
  generalize s.gwrite pa bs thr = g at hb
  rw [hb]
  rfl

end

/-! ## The way to a slice -/

theorem State.crossed_butFlight (s : State) (st : Option (Fin 6)) (pa : Nat) : s.ButFlight (s.crossed st pa) :=
  foldl_butFlight (fun s l => s.linkWorks_butFlight l) _ s

theorem State.ButFlight.poison {s t : State} (h : s.ButFlight t) : t.poison = s.poison := by
  unfold State.ButFlight at h
  rw [h]

theorem State.ButFlight.slot {s t : State} (h : s.ButFlight t) (w : Who) : t.slot w = s.slot w := State.slot_congr h.cores w

theorem State.readAt_slice {s : State} {pa : Nat} (hw : inWindow pa = false) (n : Nat) : s.readAt pa n = s.mem.read pa n := by
  unfold State.readAt
  rw [hw]
  rfl

theorem State.poisoned_of_nil {s : State} (hp : s.poison = []) (pa n : Nat) : s.poisoned pa n = false := by
  unfold State.poisoned
  simp [hp]

/-! ## Queued stores and parked accesses performed -/

section
variable {s : State} {w : Who}

/-- A part of a queued store, with an open way to its home slice in HBM4. -/
theorem State.performStore_clear {k part : Nat} {e : StoreEntry} {p : StorePart} (hk : (s.slot w).storeQ[k]? = some e)
    (hp : e.parts[part]? = some p) (ho : e.op = none) (hc : s.way (some w.core.stack) p.pa = .clear) :
    s.performStore w k part = ((s.crossed (some w.core.stack) p.pa).writeAt w.core p.pa p.data p.through).modSlot w fun sl =>
      { sl with storeQ := if (e.parts.eraseIdx part).isEmpty then sl.storeQ.eraseIdx k else
          sl.storeQ.set k { e with parts := e.parts.eraseIdx part } } := by
  unfold State.performStore
  simp only [hk, hp, hc, reduceCtorEq, if_false, ho]

theorem storePerformed : Claims.StorePerformed := by
  intro w e p rest s hwf hpo hq ho hp hwin hr hc
  have hk : (s.slot w).storeQ[0]? = some e := by rw [hq]; rfl
  have hpt : e.parts[0]? = some p := by rw [hp]; rfl
  have hx := State.crossed_butFlight s (some w.core.stack) p.pa
  refine ⟨_, (if_pos hr).trans (congrArg Host.Outcome.next (State.performStore_clear hk hpt ho hc)), ?_, fun a => ?_⟩
  · rw [State.slot_modSlot_self, State.slot_writeAt hwin, hx.slot, hp, hq]
    rfl
  · rw [show (State.modSlot _ _ _).mem = _ from State.writeAt_mem hwin _ _ _ (hx.poison.trans hpo), hx.mem]
    exact Memory.get_write _ _ _ _ hwf

/-- A parked access's request after one more of its parts. -/
def GReq.next (r : GReq) (part off : Nat) (bs : List Byte) : GReq :=
  { r with parts := r.parts.eraseIdx part, got := r.got ++ [(off, bs)] }

/-- A part of a parked load that neither reserves nor fills the read-only cache. -/
theorem State.performLoad_ld {part : Nat} {r : GReq} {off pa n : Nat} {thr : Bool} {d : SFV} {wd : Width} {sg : Bool} {sc : Scope}
    (hw : (s.slot w).wait = .glob r) (hpt : r.parts[part]? = some (off, pa, n, thr)) (ho : r.op = .ld d wd sg sc false) (hro : r.ro = false)
    (hwin : inWindow pa = false) (hp : s.poison = []) (hc : s.way (some w.core.stack) pa = .clear) :
    s.performLoad w part = (s.crossed (some w.core.stack) pa).modSlot w fun sl =>
      { sl with wait := .glob (r.next part off (s.mem.read pa n)), reply := (r.next part off (s.mem.read pa n)).answer } := by
  have hb : (s.crossed (some w.core.stack) pa).readAt pa n = s.mem.read pa n := by
    rw [State.readAt_slice hwin, (State.crossed_butFlight s _ pa).mem]
  unfold State.performLoad
  simp only [hw, hpt, hc, reduceCtorEq, if_false, State.poisoned_of_nil hp, Bool.and_false, Bool.false_eq_true, ho, hro, hb, GReq.next]

/-- A part of a parked atomic. -/
theorem State.performLoad_amo {part : Nat} {r : GReq} {off pa n : Nat} {thr : Bool} {op : AmoOp} {d : SReg} {wd : Width} {x : Word} {sc : Scope}
    (hw : (s.slot w).wait = .glob r) (hpt : r.parts[part]? = some (off, pa, n, thr)) (ho : r.op = .amo op d wd x sc)
    (hwin : inWindow pa = false) (hp : s.poison = []) (hc : s.way (some w.core.stack) pa = .clear) :
    s.performLoad w part = (((s.crossed (some w.core.stack) pa).writeAt w.core pa
        (leBytes n (amoNew op wd (s.mem.num pa n) x.toNat)) thr).acquire w.core sc).modSlot w fun sl =>
      { sl with wait := .glob (r.next part off (s.mem.read pa n)), reply := (r.next part off (s.mem.read pa n)).answer } := by
  have hb : (s.crossed (some w.core.stack) pa).readAt pa n = s.mem.read pa n := by
    rw [State.readAt_slice hwin, (State.crossed_butFlight s _ pa).mem]
  unfold State.performLoad
  simp only [hw, hpt, hc, reduceCtorEq, if_false, State.poisoned_of_nil hp, Bool.and_false, Bool.false_eq_true, ho, hb, GReq.next, Memory.num]

theorem GReq.answer_last {r : GReq} {off pa n : Nat} {thr : Bool} (hp : r.parts = [(off, pa, n, thr)]) (hg : r.got = []) (hb : r.bad = none)
    (bs : List Byte) : (r.next 0 off bs).answer = some (.data bs) := by
  have e : r.next 0 off bs = { r with parts := [], got := [(off, bs)] } := by rw [GReq.next, hp, hg]; rfl
  rw [e]
  simp [GReq.answer, hb, sortBy, insertBy]

theorem loadPerformed : Claims.LoadPerformed := by
  intro w r off pa n thr s hw hp hg hb hwin hpo hr hc
  have hpt : r.parts[0]? = some (off, pa, n, thr) := by rw [hp]; rfl
  have hx := State.crossed_butFlight s (some w.core.stack) pa
  refine ⟨fun d wd sg sc ho hro => ⟨_, (if_pos hr).trans (congrArg Host.Outcome.next (State.performLoad_ld hw hpt ho hro hwin hpo hc)), hx.mem, ?_⟩,
    fun op d wd x ho => ⟨_, (if_pos hr).trans (congrArg Host.Outcome.next (State.performLoad_amo hw hpt ho hwin hpo hc)), ?_, ?_⟩⟩
  · rw [State.slot_modSlot_self]
    exact GReq.answer_last hp hg hb _
  · exact (State.writeAt_mem hwin _ _ _ (hx.poison.trans hpo)).trans (by rw [hx.mem, (State.gwrite_healthy hpo ..).2.1])
  · rw [State.slot_modSlot_self]
    exact GReq.answer_last hp hg hb _

/-- A slot parked for a global access takes its bytes. -/
theorem execParkReasonMet_glob {r : GReq} {bs : List Byte} (hw : (s.slot w).wait = .glob r) (hr : (s.slot w).reply = some (.data bs))
    (hs : (s.slot w).state ≠ .spilled) : exec (.parkReasonMet w) s = .next (s.finish w fun sl => sl.takeData r.op bs) := by
  change execParkReasonMet w s = _
  rw [execParkReasonMet]
  unfold State.unparked
  simp only [hs, if_false, hw, State.dataMet, hr, Bool.false_and, Bool.false_eq_true]
  rfl

theorem loadAnswered : Claims.LoadAnswered := by
  intro w r bs s hw hr hs
  refine ⟨fun d wd sg sc res ho => ?_, fun op d wd x sc ho => ?_⟩
  · refine (execParkReasonMet_glob hw hr hs).trans ?_
    rw [ho]
    rfl
  · refine (execParkReasonMet_glob hw hr hs).trans ?_
    rw [ho]
    rfl

end

/-- Settles O15: a part performed at its home slice in HBM4 writes or reads memory word by word, which is the whole access. -/
theorem globalEvents : Obligations.GlobalEvents := ⟨storePerformed, loadPerformed, loadAnswered⟩

end Sys2Proof.Machine
end

section
/-! SUPPORT. The checks of a global access (04 R81-R83) and the parts of one whose pages are mapped (14 R302). -/

namespace Sys2Proof.Machine

/-! ## The order of the checks (04 R81, R82) -/

theorem State.check_high {s : State} {w : Who} {va : Word} {n align : Nat} {k : AccKind} {win : Bool} (h : 2 ^ 48 ≤ va.toNat) :
    s.check w va n k align win = (s, .trap 1 va) := if_pos h

theorem State.check_beyond {s : State} {w : Who} {va : Word} {n align : Nat} {k : AccKind} {win : Bool} (h : va.toNat < 2 ^ 48)
    (hn : 2 ^ 48 < va.toNat + n) : s.check w va n k align win = (s, .trap 1 (BitVec.ofNat 64 (2 ^ 48))) :=
  (if_neg (Nat.not_le.mpr h)).trans (if_pos hn)

/-- Where each page has one outcome, whichever way it is looked up, the check answers by those outcomes. -/
theorem State.check_known {s : State} {w : Who} {va : Word} {n align : Nat} {k : AccKind} {win : Bool} (f : Nat → Walk)
    (h : va.toNat < 2 ^ 48) (hn : va.toNat + n ≤ 2 ^ 48)
    (hf : ∀ p ∈ pagesOf va.toNat n, (s.slot w).walks.find? (fun r => r.1 == p) = some (p, f p) ∨
      ((s.slot w).walks.find? (fun r => r.1 == p) = none ∧ ∃ t, tlbFind (s.core w.core).tlb (s.rootOf w) p = some t ∧
        f p = .leaf t.leaf t.size ∧ (s.walk (s.rootOf w) (p * 32768)).1 = f p)) :
    s.check w va n k align win = (s, checkWith va.toNat n k align win ((pagesOf va.toNat n).map fun p => (p, f p))) := by
  let look (new : Bool) (p : Nat) : Option Walk := match (s.slot w).walks.find? fun r => r.1 == p with
    | some r => some r.2
    | none => match tlbFind (s.core w.core).tlb (s.rootOf w) p with
      | some t => if new then some (s.walk (s.rootOf w) (p * 32768)).1 else some (.leaf t.leaf t.size)
      | none => none
  have hl (new : Bool) (p : Nat) (hp : p ∈ pagesOf va.toNat n) : look new p = some (f p) := by
    rcases hf p hp with e | ⟨e, t, et, el, ew⟩
    · simp only [look, e]
    · simp only [look, e, et, ew, el, ite_self]
  have hd : (pagesOf va.toNat n).any (fun p => look false p != look true p) = false := by
    refine List.any_eq_false.mpr fun p hp => ?_
    rw [hl _ _ hp, hl _ _ hp]
    simp
  have hm (new : Bool) : (pagesOf va.toNat n).map (fun p => (p, look new p)) = (pagesOf va.toNat n).map fun p => (p, some (f p)) :=
    List.map_congr_left fun p hp => by rw [hl _ _ hp]
  have hq : (((pagesOf va.toNat n).map fun p => (p, some (f p))).any fun r => r.2.isNone) = false := by simp
  refine (if_neg (Nat.not_le.mpr h)).trans ((if_neg (Nat.not_lt.mpr hn)).trans ?_)
  change (let d := (pagesOf va.toNat n).any (fun p => look false p != look true p)
    let (c, s) := if d then s.pick 2 else (0, s)
    let rs := (pagesOf va.toNat n).map fun p => (p, look (c == 1) p)
    if rs.any fun (r : Nat × Option Walk) => r.2.isNone then (s, Chk.miss)
    else (s, checkWith va.toNat n k align win (rs.filterMap fun (r : Nat × Option Walk) => r.2.map fun x => (r.1, x)))) = _
  simp only [hd, Bool.false_eq_true, if_false, hm, hq]
  congr 2
  rw [List.filterMap_map]
  exact congrFun (List.filterMap_eq_map (f := fun p => (p, f p))) _

/-! ## The conditions over the walks -/

/-- The first element a test finds, where a list is cut at it. -/
theorem find?_cut {α : Type} {p : α → Bool} {l m : List α} {r : α} (hr : p r = true) (hl : ∀ x ∈ l, p x = false) :
    (l ++ r :: m).find? p = some r := by
  rw [List.find?_append, List.find?_eq_none.mpr fun x hx => by rw [hl x hx]; exact Bool.false_ne_true, List.find?_cons_of_pos hr]
  rfl

/-- A page's leaf does not let the access write it. -/
def Walk.readOnly : Walk → Bool
  | .leaf e _ => !e.getLsbD 59
  | .sparse e => !e.getLsbD 59
  | _ => false

/-- A page's leaf places the access's lowest byte in it where there is nothing for it. -/
def misplacedAt (a : Nat) (win : Bool) (r : Nat × Walk) : Bool :=
  match r.2 with
  | .leaf e size => badPa win (paOf e size (max a (r.1 * 32768)))
  | _ => false

def Walk.isSparse : Walk → Bool
  | .sparse _ => true
  | _ => false

section
variable {a n align : Nat} {k : AccKind} {win : Bool} {rs : List (Nat × Walk)}

/-- The access writes. -/
abbrev writes (k : AccKind) : Bool := decide (k = .store) || decide (k = .atomic)

/-- What the checks answer, condition after condition. -/
theorem checkWith_eq : checkWith a n k align win rs =
    (let at_ (r : Nat × Walk) : Word := BitVec.ofNat 64 (max a (r.1 * 32768))
    match rs.find? fun r => decide (r.2 = .fault 2), (if writes k then rs.find? fun r => r.2.readOnly else none),
      rs.find? fun r => decide (r.2 = .fault 5), rs.find? fun r => decide (r.2 = .fault 6), rs.find? (misplacedAt a win) with
    | some r, _, _, _, _ => .trap 2 (at_ r)
    | none, some r, _, _, _ => .trap 3 (at_ r)
    | none, none, f5, f6, f9 =>
      if a % align ≠ 0 then .trap 4 (BitVec.ofNat 64 a)
      else match f5, f6, f9 with
      | some r, _, _ => .trap 5 (at_ r)
      | none, some r, _ => .trap 6 (at_ r)
      | none, none, some r => .trap 9 (at_ r)
      | none, none, none =>
        let un := (rs.filter fun r => r.2.isSparse).map (·.1)
        if !un.isEmpty then .sparse un
        else .ok ((pieces a n).filterMap fun (o, l) =>
          match assocD rs ((a + o) / 32768) (.fault 2) with
          | .leaf e size => some ⟨o, paOf e size (a + o), l, e, size⟩
          | _ => none)) := by
  let at_ (r : Nat × Walk) : Word := BitVec.ofNat 64 (max a (r.1 * 32768))
  have e3 : (if writes k then (rs.find? fun r => r.2.readOnly).map at_ else none) =
      (if writes k then rs.find? fun r => r.2.readOnly else none).map at_ := by split <;> rfl
  refine Eq.trans (b := match (rs.find? fun r => decide (r.2 = .fault 2)).map at_,
      (if writes k then (rs.find? fun r => r.2.readOnly).map at_ else none), (rs.find? fun r => decide (r.2 = .fault 5)).map at_,
      (rs.find? fun r => decide (r.2 = .fault 6)).map at_, rs.find? (misplacedAt a win) with
    | some v, _, _, _, _ => .trap 2 v
    | none, some v, _, _, _ => .trap 3 v
    | none, none, f5, f6, f9 =>
      if a % align ≠ 0 then .trap 4 (BitVec.ofNat 64 a)
      else match f5, f6, f9 with
      | some v, _, _ => .trap 5 v
      | none, some v, _ => .trap 6 v
      | none, none, some (p, _) => .trap 9 (BitVec.ofNat 64 (max a (p * 32768)))
      | none, none, none =>
        let un := (rs.filter fun r => r.2.isSparse).map (·.1)
        if !un.isEmpty then .sparse un
        else .ok ((pieces a n).filterMap fun (o, l) =>
          match assocD rs ((a + o) / 32768) (.fault 2) with
          | .leaf e size => some ⟨o, paOf e size (a + o), l, e, size⟩
          | _ => none)) rfl ?_
  rw [e3]
  cases rs.find? fun r => decide (r.2 = .fault 2) with
  | some r => rfl
  | none =>
    cases (if writes k then rs.find? fun r => r.2.readOnly else none) with
    | some r => rfl
    | none =>
      cases rs.find? fun r => decide (r.2 = .fault 5) with
      | some r => rfl
      | none =>
        cases rs.find? fun r => decide (r.2 = .fault 6) with
        | some r => rfl
        | none => cases rs.find? (misplacedAt a win) <;> rfl

/-- No page meets a condition. -/
theorem find?_none_of {p : Nat × Walk → Bool} {f : Nat × Walk → Prop} (hp : ∀ r, p r = true → f r) (h : ∀ r ∈ rs, ¬ f r) :
    rs.find? p = none := List.find?_eq_none.mpr fun r hr hc => h r hr (hp r hc)

/-- The first page that meets a condition. -/
theorem find?_first_of {p : Nat × Walk → Bool} {f : Nat × Walk → Prop} (hp : ∀ r, p r = true ↔ f r) {l m : List (Nat × Walk)}
    {r : Nat × Walk} (e : rs = l ++ r :: m) (hr : f r) (hl : ∀ x ∈ l, ¬ f x) : rs.find? p = some r := by
  rw [e]
  exact find?_cut ((hp r).mpr hr) fun x hx => Bool.eq_false_iff.mpr fun hc => hl x hx ((hp x).mp hc)

theorem Walk.readOnly_iff (r : Walk) : r.readOnly = true ↔ ∃ e, e.getLsbD 59 = false ∧ (r = .sparse e ∨ ∃ z, r = .leaf e z) := by
  cases r <;> simp [Walk.readOnly]

theorem misplacedAt_iff (r : Nat × Walk) : misplacedAt a win r = true ↔
    ∃ e z, r.2 = .leaf e z ∧ badPa win (paOf e z (max a (r.1 * 32768))) = true := by
  obtain ⟨p, r⟩ := r
  cases r with
  | leaf e z => exact ⟨fun h => ⟨e, z, rfl, h⟩, fun ⟨_, _, h, hb⟩ => by cases h; exact hb⟩
  | sparse e => simp [misplacedAt]
  | fault c => simp [misplacedAt]

theorem Walk.isSparse_iff (r : Walk) : r.isSparse = true ↔ ∃ e, r = .sparse e := by
  cases r <;> simp [Walk.isSparse]

theorem writes_iff : writes k = true ↔ k = .store ∨ k = .atomic := by simp [writes]

end

theorem checkOrder : Claims.CheckOrder := by
  refine ⟨fun w va n align k win s => ⟨State.check_high, State.check_beyond, fun f hn h hf => State.check_known f h hn fun p hp => .inl (hf p hp)⟩,
    fun a n align k win rs => ?_⟩
  intro byte none_ first invalid fixed malformed poisoned misplaced
  have i2 (r : Nat × Walk) : decide (r.2 = .fault 2) = true ↔ invalid r := decide_eq_true_iff
  have i5 (r : Nat × Walk) : decide (r.2 = .fault 5) = true ↔ malformed r := decide_eq_true_iff
  have i6 (r : Nat × Walk) : decide (r.2 = .fault 6) = true ↔ poisoned r := decide_eq_true_iff
  have i9 (r : Nat × Walk) : misplacedAt a win r = true ↔ misplaced r := misplacedAt_iff r
  have n2 (h : none_ invalid) : (rs.find? fun r => decide (r.2 = .fault 2)) = none := find?_none_of (fun r => (i2 r).mp) h
  have n3 (h : none_ fixed) : (if writes k then rs.find? fun r => r.2.readOnly else none) = none := by
    split
    next hw => exact find?_none_of (f := fixed) (fun r hr => ⟨writes_iff.mp hw, (Walk.readOnly_iff _).mp hr⟩) h
    next => rfl
  have n5 (h : none_ malformed) : (rs.find? fun r => decide (r.2 = .fault 5)) = none := find?_none_of (fun r => (i5 r).mp) h
  have n6 (h : none_ poisoned) : (rs.find? fun r => decide (r.2 = .fault 6)) = none := find?_none_of (fun r => (i6 r).mp) h
  have n9 (h : none_ misplaced) : rs.find? (misplacedAt a win) = none := find?_none_of (fun r => (i9 r).mp) h
  refine ⟨fun l r m e hr hl => ?_, fun h2 l r m e hr hl => ?_, fun h2 h3 ha => ?_, fun h2 h3 ha l r m e hr hl => ?_,
    fun h2 h3 ha h5 l r m e hr hl => ?_, fun h2 h3 ha h5 h6 l r m e hr hl => ?_, fun h2 h3 ha h5 h6 h9 => ⟨fun ⟨r, hr, e, he⟩ => ?_, fun hs => ?_⟩⟩
  · rw [checkWith_eq, find?_first_of i2 e hr hl]
  · have hk := hr.1
    have h3 : (if writes k then rs.find? fun r => r.2.readOnly else none) = some r := by
      rw [if_pos (writes_iff.mpr hk)]
      exact find?_first_of (f := fixed) (fun r => ⟨fun h => ⟨hk, (Walk.readOnly_iff _).mp h⟩, fun h => (Walk.readOnly_iff _).mpr h.2⟩) e hr hl
    rw [checkWith_eq, n2 h2, h3]
  · rw [checkWith_eq, n2 h2, n3 h3]
    exact if_pos ha
  · rw [checkWith_eq, n2 h2, n3 h3, find?_first_of i5 e hr hl]
    exact if_neg (not_not_intro ha)
  · rw [checkWith_eq, n2 h2, n3 h3, n5 h5, find?_first_of i6 e hr hl]
    exact if_neg (not_not_intro ha)
  · rw [checkWith_eq, n2 h2, n3 h3, n5 h5, n6 h6, find?_first_of i9 e hr hl]
    exact if_neg (not_not_intro ha)
  · rw [checkWith_eq, n2 h2, n3 h3, n5 h5, n6 h6, n9 h9]
    refine ⟨_, (if_neg (not_not_intro ha)).trans (if_pos ?_)⟩
    have : r ∈ rs.filter fun r => r.2.isSparse := List.mem_filter.mpr ⟨hr, (Walk.isSparse_iff _).mpr ⟨e, he⟩⟩
    rw [Bool.not_eq_true', List.isEmpty_eq_false_iff]
    exact List.ne_nil_of_mem (List.mem_map_of_mem this)
  · rw [checkWith_eq, n2 h2, n3 h3, n5 h5, n6 h6, n9 h9]
    have : (rs.filter fun r => r.2.isSparse) = [] :=
      List.filter_eq_nil_iff.mpr fun r hr hc => by
        obtain ⟨e, he⟩ := (Walk.isSparse_iff _).mp hc
        exact hs r hr e he
    refine ⟨_, (if_neg (not_not_intro ha)).trans (if_neg ?_)⟩
    rw [this]
    exact Bool.false_ne_true

/-! ## Accesses whose pages are mapped -/

theorem mem_pagesOf {a n p : Nat} : p ∈ pagesOf a n ↔ a / 32768 ≤ p ∧ p ≤ (a + n - 1) / 32768 ∨ p = a / 32768 := by
  unfold pagesOf
  simp only [List.mem_map, List.mem_range]
  constructor
  · rintro ⟨i, hi, rfl⟩
    omega
  · rintro h
    exact ⟨p - a / 32768, by omega, by omega⟩

/-- Each piece is not empty, lies within the access and begins where the pieces before it end. -/
theorem mem_pieces {a n : Nat} (hn : 0 < n) {x : Nat × Nat} (hx : x ∈ pieces a n) : 0 < x.2 ∧ x.1 + x.2 ≤ n := by
  unfold pieces at hx
  simp only [List.mem_map, List.mem_range] at hx
  obtain ⟨i, hi, rfl⟩ := hx
  dsimp only
  omega

theorem pieces_ne_nil (a n : Nat) : pieces a n ≠ [] := by
  unfold pieces
  simp

theorem pieces_sorted (a n : Nat) : (pieces a n).Pairwise fun x y => x.1 ≤ y.1 := by
  unfold pieces
  refine List.pairwise_map.mpr (List.pairwise_lt_range.imp fun {i j} hij => ?_)
  dsimp only
  have : (a / 256 + i) * 256 ≤ (a / 256 + j) * 256 := Nat.mul_le_mul_right _ (by omega)
  omega

/-- An access of one piece is that piece. -/
theorem pieces_single {a n : Nat} (hn : 0 < n) (h : (pieces a n).length = 1) : pieces a n = [(0, n)] := by
  unfold pieces at h ⊢
  rw [List.length_map, List.length_range] at h
  rw [h]
  simp only [List.range_one, List.map_cons, List.map_nil, List.cons.injEq, and_true, Prod.mk.injEq]
  omega

theorem assocD_map_self {β : Type} {l : List Nat} {p : Nat} (f : Nat → β) (d : β) (h : p ∈ l) : assocD (l.map fun p => (p, f p)) p d = f p := by
  induction l with
  | nil => exact absurd h List.not_mem_nil
  | cons q l ih =>
    rw [List.map_cons, assocD]
    split
    next e => rw [e]
    next e => exact ih ((List.mem_cons.mp h).resolve_left fun h => e h.symm)

/-- What a walk's leaf passes. -/
theorem filterMap_eq_of_mem {α β : Type} {f g : α → Option β} {l : List α} (h : ∀ x ∈ l, f x = g x) : l.filterMap f = l.filterMap g := by
  induction l with
  | nil => rfl
  | cons a l ih =>
    rw [List.filterMap_cons, List.filterMap_cons, h a List.mem_cons_self, ih fun x hx => h x (List.mem_cons_of_mem a hx)]

/-- What a leaf that passes its checks says. -/
theorem State.leafCheck_leaf {s : State} {n z : Nat} {e e' : Word} (h : s.leafCheck n e' = .leaf e z) :
    n = z ∧ e' = e ∧ n ≠ 0 ∧ frameOf e' % (n * 32768) = 0 := by
  unfold State.leafCheck at h
  dsimp only at h
  split at h
  · cases h
  next pages =>
  split at h
  · cases h
  split at h
  · cases h
  split at h
  · cases h
  next aligned =>
  split at h
  · cases h
  split at h
  · cases h
  cases h
  exact ⟨rfl, rfl, fun h0 => pages (.inl h0), Classical.not_not.mp aligned⟩

theorem State.leaf_of_walkFrom {s : State} {va : Nat} {ls : List Level} {b : Nat} {e : Word} {z : Nat}
    (h : (s.walkFrom va ls b).1 = .leaf e z) : ∃ l ∈ ls, l.pages = z ∧ s.leafCheck z e = .leaf e z := by
  induction ls generalizing b with
  | nil => simp [State.walkFrom] at h
  | cons l ls ih =>
    rw [State.walkFrom] at h
    split at h
    · cases h
    split at h
    · cases h
    split at h
    · cases h
    split at h
    · obtain ⟨hp, he, -⟩ := State.leafCheck_leaf h
      exact ⟨l, List.mem_cons_self, hp, by rw [← hp, ← he]; rw [← hp, ← he] at h; exact h⟩
    split at h
    · cases h
    · obtain ⟨l', hl', hz⟩ := ih h
      exact ⟨l', List.mem_cons_of_mem _ hl', hz⟩

/-- A leaf names an aligned page of 32 KiB, 2 MiB or 64 MiB. -/
theorem State.leaf_of_walk {s : State} {root : Word} {va : Nat} {e : Word} {z : Nat} (h : (s.walk root va).1 = .leaf e z) :
    (z = 1 ∨ z = 64 ∨ z = 2048) ∧ frameOf e % (z * 32768) = 0 := by
  obtain ⟨l, hl, hp, hc⟩ := State.leaf_of_walkFrom h
  obtain ⟨-, -, h1, h4⟩ := State.leafCheck_leaf hc
  simp only [levels, List.mem_cons, List.not_mem_nil, or_false] at hl
  refine ⟨?_, h4⟩
  rcases hl with rfl | rfl | rfl | rfl
  · exact absurd hp.symm h1
  · exact .inr (.inr hp.symm)
  · exact .inr (.inl hp.symm)
  · exact .inl hp.symm

theorem inHbm_iff {pa : Nat} : inHbm pa = true ↔ pa < 0x9000000000 := decide_eq_true_iff

theorem inWindow_of_inHbm {pa : Nat} (h : inHbm pa = true) : inWindow pa = false := by
  have := inHbm_iff.mp h
  unfold inWindow
  rw [decide_eq_false (by unfold mbBase; omega)]
  rfl

/-- HBM4 ends between pages of any size. -/
theorem inWindow_of_page {e : Word} {z va va' : Nat} (hz : z = 1 ∨ z = 64 ∨ z = 2048) (hf : frameOf e % (z * 32768) = 0)
    (h : inHbm (paOf e z va) = true) : inWindow (paOf e z va') = false ∧ inHbm (paOf e z va') = true := by
  suffices hi : inHbm (paOf e z va') = true from ⟨inWindow_of_inHbm hi, hi⟩
  rw [inHbm_iff] at h ⊢
  unfold paOf at h ⊢
  generalize frameOf e = f at hf h ⊢
  rcases hz with rfl | rfl | rfl
  all_goals omega

section
variable {s : State} {va : Word} {n align : Nat} {wr : Bool}

/-- The outcome of a mapped access's page: the leaf the core's translation cache holds. -/
def State.mapped (s : State) (p : Nat) : Walk :=
  match tlbFind s.myCore.tlb (s.rootOf s.cur) p with
  | some t => .leaf t.leaf t.size
  | none => .fault 2

theorem State.mapped_of {p : Nat} {t : TlbEntry} (h : tlbFind s.myCore.tlb (s.rootOf s.cur) p = some t) : s.mapped p = .leaf t.leaf t.size := by
  rw [State.mapped, h]

theorem page_of_piece (hn : 0 < n) {x : Nat × Nat} (hx : x ∈ pieces va.toNat n) : (va.toNat + x.1) / 32768 ∈ pagesOf va.toNat n := by
  obtain ⟨h1, h2⟩ := mem_pieces hn hx
  exact mem_pagesOf.mpr (.inl ⟨Nat.div_le_div_right (by omega), Nat.div_le_div_right (by omega)⟩)

theorem State.check_mapped {k : AccKind} {win : Bool} (h : s.Maps va n align wr) (hk : writes k = true → wr = true) :
    s.check s.cur va n k align win = (s, .ok (s.placed va n)) := by
  obtain ⟨hn, htop, hal, hw, hp⟩ := h
  have hlook : ∀ p ∈ pagesOf va.toNat n, (s.slot s.cur).walks.find? (fun r => r.1 == p) = some (p, s.mapped p) ∨
      ((s.slot s.cur).walks.find? (fun r => r.1 == p) = none ∧ ∃ t, tlbFind (s.core s.cur.core).tlb (s.rootOf s.cur) p = some t ∧
        s.mapped p = .leaf t.leaf t.size ∧ (s.walk (s.rootOf s.cur) (p * 32768)).1 = s.mapped p) := fun p hp' => by
    obtain ⟨t, ht, hwk, -⟩ := hp p hp'
    refine .inr ⟨by rw [show (s.slot s.cur).walks = [] from hw]; rfl, t, ht, State.mapped_of ht, ?_⟩
    rw [hwk, State.mapped_of ht]
  rw [State.check_known s.mapped (by omega) htop hlook]
  refine congrArg _ ?_
  have page {r : Nat × Walk} (hr : r ∈ (pagesOf va.toNat n).map fun p => (p, s.mapped p)) : ∃ t : TlbEntry, r.2 = .leaf t.leaf t.size ∧
      (wr = true → t.leaf.getLsbD 59 = true) ∧ inHbm (paOf t.leaf t.size (max va.toNat (r.1 * 32768))) = true := by
    obtain ⟨p, hp', rfl⟩ := List.mem_map.mp hr
    obtain ⟨t, ht, -, hwr, hin⟩ := hp p hp'
    exact ⟨t, State.mapped_of ht, hwr, hin⟩
  have hfault (c : Nat) : ((pagesOf va.toNat n).map fun p => (p, s.mapped p)).find? (fun r => decide (r.2 = .fault c)) = none :=
    List.find?_eq_none.mpr fun r hr => by
      obtain ⟨t, e, -⟩ := page hr
      simp [e]
  have h9 : ((pagesOf va.toNat n).map fun p => (p, s.mapped p)).find? (misplacedAt va.toNat win) = none :=
    List.find?_eq_none.mpr fun r hr => by
      obtain ⟨t, e, -, hin⟩ := page hr
      simp [misplacedAt, e, badPa, hin, inWindow_of_inHbm hin]
  have hro : (if writes k then ((pagesOf va.toNat n).map fun p => (p, s.mapped p)).find? fun r => r.2.readOnly else none) = none := by
    split
    next hk' =>
      refine List.find?_eq_none.mpr fun r hr => ?_
      obtain ⟨t, e, hwr, -⟩ := page hr
      rw [e, Walk.readOnly, hwr (hk hk')]
      exact Bool.false_ne_true
    next => rfl
  have hsp : (((pagesOf va.toNat n).map fun p => (p, s.mapped p)).filter fun r => r.2.isSparse) = [] :=
    List.filter_eq_nil_iff.mpr fun r hr => by
      obtain ⟨t, e, -⟩ := page hr
      simp [e, Walk.isSparse]
  rw [checkWith_eq, hfault 2, hfault 5, hfault 6, h9, hro]
  refine (if_neg (not_not_intro hal)).trans ?_
  simp only [hsp, List.map_nil, List.isEmpty_nil, Bool.not_true, Bool.false_eq_true, if_false]
  refine congrArg Chk.ok ((filterMap_eq_of_mem fun x hx => ?_))
  rw [assocD_map_self s.mapped _ (page_of_piece hn hx)]
  unfold State.mapped
  cases tlbFind s.myCore.tlb (s.rootOf s.cur) ((va.toNat + x.1) / 32768) <;> rfl

/-- The parts of a mapped access are its pieces, each in a page that the core's translation cache holds. -/
theorem State.mem_placed (h : s.Maps va n align wr) {g : Seg} (hg : g ∈ s.placed va n) :
    inWindow g.pa = false ∧ inHbm g.pa = true ∧ 0 < g.len := by
  obtain ⟨hn, htop, hal, hw, hp⟩ := h
  obtain ⟨x, hx, he⟩ := List.mem_filterMap.mp hg
  obtain ⟨t, ht, hwk, -, hin⟩ := hp _ (page_of_piece hn hx)
  rw [ht] at he
  obtain rfl := Option.some.inj he
  obtain ⟨hz, hf⟩ := State.leaf_of_walk hwk
  obtain ⟨h1, h2⟩ := inWindow_of_page (va' := va.toNat + x.1) hz hf hin
  exact ⟨h1, h2, (mem_pieces hn hx).1⟩

theorem State.placed_map (h : s.Maps va n align wr) : (s.placed va n).map (fun g => (g.off, g.len)) = pieces va.toNat n := by
  obtain ⟨hn, htop, hal, hw, hp⟩ := h
  unfold State.placed
  rw [List.map_filterMap]
  refine (filterMap_eq_of_mem (g := some) fun x hx => ?_).trans List.filterMap_some
  obtain ⟨t, ht, -⟩ := hp _ (page_of_piece hn hx)
  rw [ht]
  rfl

theorem State.placed_ne_nil (h : s.Maps va n align wr) : s.placed va n ≠ [] := fun e =>
  pieces_ne_nil va.toNat n (by rw [← State.placed_map h, e]; rfl)

theorem State.placed_sorted (h : s.Maps va n align wr) : (s.placed va n).Pairwise fun x y => x.off ≤ y.off := by
  have := pieces_sorted va.toNat n
  rw [← State.placed_map h] at this
  exact (List.pairwise_map (f := fun g : Seg => (g.off, g.len)) (R := fun x y => x.1 ≤ y.1)).mp this

/-- A mapped access of one part is that part. -/
theorem State.placed_single (h : s.Maps va n align wr) {g : Seg} (hg : s.placed va n = [g]) : g.off = 0 ∧ g.len = n := by
  have hm := State.placed_map h
  rw [hg] at hm
  have := pieces_single h.1 (by rw [← hm]; rfl)
  rw [← hm] at this
  simpa using this

end

end Sys2Proof.Machine
end

section
/-! SUPPORT. Global loads, stores and atomics at the slot (04 R81, R86, R88). -/

namespace Sys2Proof.Machine

/-! ## What comes before an access -/

theorem guarded_plain (s : State) (k : Out) : guarded Hdr.plain s k = k := guarded_runs Hdr.plain s k rfl

theorem guestF_home {s : State} (g : s.me.hosting = none) (b : Bool) (k : Out) (x : Word) : guestF s b k x = k := by
  unfold guestF
  rw [g]
  exact if_neg (by simp)

section
variable {s : State} {va : Word} {n align : Nat} {kind : AccKind} {win : Bool} (k : State → List Seg → Out)

/-- The check of an access that meets no uncommitted page is all that comes before it. -/
theorem State.access_eq {w : Who} {c : Chk} (h : s.check w va n kind align win = (s, c)) (hc : ∀ ps, c ≠ .sparse ps) :
    s.access w va n kind align win = (s, c) := by
  unfold State.access
  rw [h]
  cases c with
  | sparse ps => exact absurd rfl (hc ps)
  | ok _ => rfl
  | trap _ _ => rfl
  | miss => rfl

theorem withCheck_ok {segs : List Seg} (h : s.check s.cur va n kind align win = (s, .ok segs)) (hc : s.carried s.me = false) :
    withCheck s va n kind align win k = k s segs := by
  unfold withCheck
  rw [State.access_eq h (by simp)]
  simp only [hc, Bool.false_eq_true, if_false]

theorem withCheck_trap {sub : Nat} {x : Word} (h : s.check s.cur va n kind align win = (s, .trap sub x)) :
    withCheck s va n kind align win k = trap s 4 sub x := by
  unfold withCheck
  rw [State.access_eq h (by simp)]

theorem withCheck_miss (h : s.check s.cur va n kind align win = (s, .miss)) :
    withCheck s va n kind align win k = parkAgain s .translate (.walk va n kind align) := by
  unfold withCheck
  rw [State.access_eq h (by simp)]

end

/-! ## Loads -/

section
variable {h : Hdr} {s : State} {a : SReg} {m : MemArgs} {segs : List Seg}

theorem execLdg_checked {d : SF} (r : AtHome h s) : exec (.ldg h d a m) s = withCheck s (memAddr s.me a m) m.width.bytes .load m.width.align
    (m.width = .w) fun t segs => globalLoad t d.toSFV m.width m.sg m.scope (memAddr s.me a m) segs := by
  refine (guarded_runs h s _ r.1).trans ((guestF_home r.2 _ _ _).trans ((guarded_plain _ _).trans ?_))
  exact streamGate_go s _ _ _ (by cases d <;> rfl)

theorem execStg_checked {d : SF} (r : AtHome h s) : exec (.stg h d a m) s = withCheck s (memAddr s.me a m) m.width.bytes .store m.width.align
    (m.width = .w) fun s segs => postStore s segs (s.me.rStore d.toSFV m.width) none false false (d.toSFV.vs m.width) := by
  refine (guarded_runs h s _ r.1).trans ((guestF_home r.2 _ _ _).trans ((guarded_plain _ _).trans ?_))
  exact streamGate_go s _ _ _ (by cases d <;> rfl)

theorem execLdgv_checked {v : VReg} (r : AtHome h s) (z : NoStreams s) : exec (.ldgv h v a m) s = withCheck s (memAddr s.me a m)
    m.width.bytes .load m.width.align (m.width = .w) fun t segs => globalLoad t (.v v) m.width m.sg m.scope (memAddr s.me a m) segs :=
  (guarded_runs h s _ r.1).trans ((guestF_home r.2 _ _ _).trans ((guarded_plain _ _).trans (streamGate_go s _ _ _ (gates_none _ _ _ z))))

theorem execStgv_checked {v : VReg} (r : AtHome h s) (z : NoStreams s) : exec (.stgv h v a m) s = withCheck s (memAddr s.me a m)
    m.width.bytes .store m.width.align (m.width = .w) fun s segs =>
      postStore s segs (s.me.rStore (.v v) m.width) none false false (SFV.vs (.v v) m.width) :=
  (guarded_runs h s _ r.1).trans ((guestF_home r.2 _ _ _).trans ((guarded_plain _ _).trans (streamGate_go s _ _ _ (gates_none _ _ _ z))))

theorem globalLoad_forward {d : SFV} {w : Width} {sg : Bool} {sc : Scope} {va : Word} {bs : List Byte} (hf : s.me.forward segs = some bs) :
    globalLoad s d w sg sc va segs = retire s fun sl => sl.wLoad d sg bs := by
  unfold globalLoad
  simp only [hf]

/-- The read-only cache may serve the load: its scope and leaves let it, and it has waited for no queued store. -/
def Slot.mayRo (sl : Slot) (sc : Scope) (segs : List Seg) : Bool :=
  decide ((sc = .slot ∨ sc = .core) ∧ (∀ g ∈ segs, cacheLevel g.leaf = 0) ∧ ¬ sl.atHome = true)

theorem wordsOf_ne_nil {pa n : Nat} (h : 0 < n) : wordsOf pa n ≠ [] := by
  unfold wordsOf
  simp only [ne_eq, List.map_eq_nil_iff, List.range_eq_nil]
  omega

theorem globalLoad_parks {d : SFV} {w : Width} {sg : Bool} {sc : Scope} {va : Word} (hf : s.me.forward segs = none)
    (ho : s.me.overlapping segs = []) (hro : s.myCore.ro = []) (hl : ∃ g ∈ segs, 0 < g.len) : globalLoad s d w sg sc va segs =
      .next (s.park .globalLoad (.glob ⟨.ld d w sg sc false, va, s.me.mayRo sc segs, reqParts segs, [], none⟩)) := by
  have hmiss : ((segs.map fun g => wordsOf g.pa g.len).flatten.all fun w => (s.myCore.ro).any (·.1 == w)) = false := by
    obtain ⟨g, hg, hn⟩ := hl
    obtain ⟨x, hx⟩ := List.exists_mem_of_ne_nil _ (wordsOf_ne_nil (pa := g.pa) hn)
    refine List.all_eq_false.mpr ⟨x, List.mem_flatten.mpr ⟨_, List.mem_map_of_mem hg, hx⟩, ?_⟩
    rw [hro]
    exact Bool.false_ne_true
  unfold globalLoad
  simp only [hf, ho, List.isEmpty_nil, Bool.not_true, Bool.false_eq_true, if_false, hmiss, Bool.and_false]
  rfl

theorem globalLoads : Claims.GlobalLoads := by
  intro h a d v m s segs r z hc va hk
  refine ⟨fun bs hf => ⟨?_, ?_⟩, fun hf ho hro hl => ⟨s.me.mayRo m.scope segs, ?_, ?_⟩⟩
  · exact (execLdg_checked r).trans ((withCheck_ok _ hk hc).trans (globalLoad_forward hf))
  · exact (execLdgv_checked r z).trans ((withCheck_ok _ hk hc).trans (globalLoad_forward hf))
  · exact (execLdg_checked r).trans ((withCheck_ok _ hk hc).trans (globalLoad_parks hf ho hro hl))
  · exact (execLdgv_checked r z).trans ((withCheck_ok _ hk hc).trans (globalLoad_parks hf ho hro hl))

/-! ## Stores -/

/-- A plain store's entry at the end of the slot's store queue. -/
def Slot.queueStore (sl : Slot) (segs : List Seg) (bs : List Byte) (m : BitVec 49) : Slot :=
  { sl with
    storeQ := sl.storeQ ++ [⟨sl.nextStore, none, segs.map fun g => ⟨g.pa, (bs.drop g.off).take g.len, g.through⟩, false, sl.relIds⟩]
    nextStore := sl.nextStore + 1
    tbm := sl.tbm ||| m }

theorem postStore_room {bs : List Byte} {vs : List VReg} (z : vs = [] ∨ NoStreams s) (hq : s.me.storeQ.length < 16) :
    postStore s segs bs none false false vs = retire s fun sl => sl.queueStore segs bs (s.tbmOf segs) := by
  have hp : s.me.pops vs = s.me := by
    rcases z with z | z
    · rw [z]; rfl
    · exact Slot.pops_none _ _ z
  refine (if_neg (Nat.not_le.mpr hq)).trans (congrArg Host.Outcome.next (State.mod_congr _ _ _ ?_))
  simp only [hp, Bool.false_eq_true, if_false]
  rfl

theorem globalStores : Claims.GlobalStores := by
  intro h a d v m s segs r z hc va hk post
  refine ⟨fun hq => ⟨?_, ?_⟩, fun hq => ⟨?_, ?_⟩⟩
  · exact (execStg_checked r).trans ((withCheck_ok _ hk hc).trans (postStore_room (.inl (by cases d <;> rfl)) hq))
  · exact (execStgv_checked r z).trans ((withCheck_ok _ hk hc).trans (postStore_room (.inr z) hq))
  · exact (execStg_checked r).trans ((withCheck_ok _ hk hc).trans (if_pos hq))
  · exact (execStgv_checked r z).trans ((withCheck_ok _ hk hc).trans (if_pos hq))

end

/-! ## Atomics -/

section
variable {s : State} {va : Word} {segs : List Seg}

theorem doAmo_parks {g : GOp} {op : Option AmoOp} {a : SReg} {m : AmoArgs} (ho : s.me.overlapping segs = [])
    (hk : s.check s.cur (amoAddr s.me a m) m.width.bytes .atomic m.width.bytes (winAmo op m.width false) = (s, .ok segs))
    (hc : s.carried s.me = false) :
    doAmo s g op a m = .next (s.park .globalLoad (.glob ⟨g, amoAddr s.me a m, false, reqParts segs, [], none⟩)) := by
  refine (withCheck_ok _ hk hc).trans ?_
  simp only [ho, List.isEmpty_nil, Bool.not_true, Bool.false_eq_true, if_false]
  rfl

/-- A posted atomic's entry at the end of the slot's store queue. -/
def Slot.queueAmo (sl : Slot) (op : AmoOp) (b : SReg) (m : AmoArgs) (segs : List Seg) (t : BitVec 49) : Slot :=
  { sl with
    storeQ := sl.storeQ ++ [⟨sl.nextStore, some (op, sl.rs b),
      segs.map fun g => ⟨g.pa, ((leBytes m.width.bytes (sl.rs b).toNat).drop g.off).take g.len, g.through⟩, m.scope != .slot,
      if m.scope == .fabric then sl.postedIds else sl.relIds⟩]
    nextStore := sl.nextStore + 1
    tbm := sl.tbm ||| t }

theorem execAmox_posts {h : Hdr} {op : AmoOp} {a b : SReg} {m : AmoArgs} (r : Runs h s) (ho : s.me.overlapping segs = [])
    (hk : s.check s.cur (amoAddr s.me a m) m.width.bytes .atomic m.width.bytes (winAmo (some op) m.width true) = (s, .ok segs))
    (hc : s.carried s.me = false) (hq : s.me.storeQ.length < 16) :
    Completes (.amox h op a b m) s fun sl => sl.queueAmo op b m segs (s.tbmOf segs) := by
  refine (guarded_runs h s _ r).trans ((withCheck_ok _ hk hc).trans ?_)
  simp only [ho, List.isEmpty_nil, Bool.not_true, Bool.false_eq_true, if_false]
  exact (if_neg (Nat.not_le.mpr hq)).trans (congrArg Host.Outcome.next (State.mod_congr _ _ _ rfl))

end

theorem globalAtomics : Claims.GlobalAtomics := by
  intro h op d a b m s segs r hc va n ho
  exact ⟨fun hk => (guarded_runs h s _ r).trans (doAmo_parks ho hk hc), fun hk => (guarded_runs h s _ r).trans (doAmo_parks ho hk hc),
    fun hk hq => execAmox_posts r ho hk hc hq⟩

/-! ## Faults -/

theorem globalFaults : Claims.GlobalFaults := by
  intro h a d m s r q va
  have ht (sub : Nat) (x : Word) := trap_enters s 4 sub x r.2 q
  refine ⟨fun hv => ?_, fun sub x hk => ?_, fun sub x hk => ?_, fun hk => ?_⟩
  · simp only [List.forall_mem_cons, List.not_mem_nil, false_imp_iff, implies_true, and_true]
    exact ⟨(execLdg_checked r).trans ((withCheck_trap _ (State.check_high hv)).trans (ht 1 va)),
      (execStg_checked r).trans ((withCheck_trap _ (State.check_high hv)).trans (ht 1 va))⟩
  · exact (execLdg_checked r).trans ((withCheck_trap _ hk).trans (ht sub x))
  · exact (execStg_checked r).trans ((withCheck_trap _ hk).trans (ht sub x))
  · exact (execLdg_checked r).trans (withCheck_miss _ hk)

end Sys2Proof.Machine
end

section
/-! SUPPORT. Global accesses from their issue to their end (04 R86, R88, 06 R142). -/

namespace Sys2Proof.Machine

/-! ## Ways -/

theorem State.linksBetween_congr {s t : State} (h : ∀ l, (t.link l).st = (s.link l).st) (a b : Option (Fin 6)) :
    t.linksBetween a b = s.linksBetween a b := by
  have hn (i : Fin 6) : t.ucieNb[i].st = s.ucieNb[i].st := h (.nb i)
  unfold State.linksBetween
  cases a <;> cases b <;> simp only [hn]

/-- A way depends on the states of the links and dies, and on where memory is interleaved. -/
theorem State.way_congr {s t : State} (hl : ∀ l, (t.link l).st = (s.link l).st) (hd : t.dies = s.dies) (hs : t.settings = s.settings)
    (st : Option (Fin 6)) (pa : Nat) : t.way st pa = s.way st pa := by
  have hh : t.homeStack pa = s.homeStack pa := by
    unfold State.homeStack State.stackOf State.ilvTop
    rw [hs]
  unfold State.way
  simp only [hh, State.linksBetween_congr hl, hl, hd]

theorem State.linkWorks_st (s : State) (l l' : LinkId) : ((s.linkWorks l).link l').st = (s.link l').st := by
  unfold State.linkWorks
  dsimp only
  split
  · rfl
  · cases l with
    | nb i =>
      cases l' with
      | nb j =>
        simp only [State.setLink, State.link, Fin.getElem_fin, Vector.getElem_set]
        split
        next e => rw [Fin.ext e]
        next => rfl
      | io j => rfl
    | io i =>
      cases l' with
      | nb j => rfl
      | io j =>
        simp only [State.setLink, State.link, Fin.getElem_fin, Vector.getElem_set]
        split
        next e => rw [Fin.ext e]
        next => rfl

theorem State.foldl_linkWorks_st (s : State) (ls : List LinkId) (l : LinkId) : ((ls.foldl State.linkWorks s).link l).st = (s.link l).st := by
  induction ls generalizing s with
  | nil => rfl
  | cons x ls ih => exact (ih (s.linkWorks x)).trans (s.linkWorks_st x l)

theorem State.ButFlight.dies {s t : State} (h : s.ButFlight t) : t.dies = s.dies := by
  unfold State.ButFlight at h
  rw [h]

theorem State.ButFlight.settings {s t : State} (h : s.ButFlight t) : t.settings = s.settings := by
  unfold State.ButFlight at h
  rw [h]

/-- A flit on its way closes no way. -/
theorem State.way_crossed (s : State) (st st' : Option (Fin 6)) (pa pa' : Nat) : (s.crossed st pa).way st' pa' = s.way st' pa' :=
  State.way_congr (s.foldl_linkWorks_st _) (s.crossed_butFlight st pa).dies (s.crossed_butFlight st pa).settings st' pa'

theorem State.way_writeAt {s : State} {pa : Nat} (hw : inWindow pa = false) (hp : s.poison = []) (c : CoreId) (bs : List Byte) (thr : Bool)
    (st : Option (Fin 6)) (pa' : Nat) : (s.writeAt c pa bs thr).way st pa' = s.way st pa' := by
  have hf := State.writeAt_frame hw c bs thr hp
  dsimp only at hf
  rw [hf]
  exact State.way_congr (fun l => by cases l <;> rfl) rfl rfl st pa'

theorem State.way_modSlot (s : State) (w : Who) (f : Slot → Slot) (st : Option (Fin 6)) (pa : Nat) : (s.modSlot w f).way st pa = s.way st pa :=
  State.way_congr (fun l => by cases l <;> rfl) rfl rfl st pa

theorem State.way_modCore (s : State) (c : CoreId) (f : Core → Core) (st : Option (Fin 6)) (pa : Nat) : (s.modCore c f).way st pa = s.way st pa :=
  State.way_congr (fun l => by cases l <;> rfl) rfl rfl st pa

/-! ## Answers in the order of their offsets -/

theorem insertBy_last {α : Type} {f : α → Nat} {x : α} {l : List α} (h : ∀ y ∈ l, f y ≤ f x) : insertBy f x l = l ++ [x] := by
  induction l with
  | nil => rfl
  | cons y l ih =>
    rw [insertBy, if_pos (h y List.mem_cons_self), ih fun z hz => h z (List.mem_cons_of_mem _ hz), List.cons_append]

theorem sortBy_sorted {α : Type} {f : α → Nat} {l : List α} (h : l.Pairwise fun x y => f x ≤ f y) : sortBy f l = l := by
  have key (p q : List α) (h : (p ++ q).Pairwise fun x y => f x ≤ f y) : q.foldl (fun r x => insertBy f x r) p = p ++ q := by
    induction q generalizing p with
    | nil => exact (List.append_nil p).symm
    | cons x q ih =>
      have hx : ∀ y ∈ p, f y ≤ f x := fun y hy => (List.pairwise_append.mp h).2.2 y hy x List.mem_cons_self
      rw [List.foldl_cons, insertBy_last hx, ih _ (by rwa [List.append_assoc]), List.append_assoc]
      rfl
  exact key [] l h

/-! ## A parked load, part by part -/

/-- What a part of a load notes beside its bytes: the line's reservation, or the words the read-only cache takes. -/
def State.noteLoad (s : State) (w : Who) (pa n : Nat) (res ro : Bool) : State :=
  if res then s.reserve w pa
  else if ro then s.modCore w.core (·.roKeep ((wordsOf pa n).map fun x => (x, s.mem.word (x * 8)))) else s

section
variable {s t : State} {w : Who}

theorem State.performLoad_any {part : Nat} {r : GReq} {off pa n : Nat} {thr : Bool} {d : SFV} {wd : Width} {sg : Bool} {sc : Scope} {res : Bool}
    (hw : (s.slot w).wait = .glob r) (hpt : r.parts[part]? = some (off, pa, n, thr)) (ho : r.op = .ld d wd sg sc res)
    (hwin : inWindow pa = false) (hp : s.poison = []) (hc : s.way (some w.core.stack) pa = .clear) :
    s.performLoad w part = ((s.crossed (some w.core.stack) pa).noteLoad w pa n res r.ro).modSlot w fun sl =>
      { sl with wait := .glob (r.next part off (s.mem.read pa n)), reply := (r.next part off (s.mem.read pa n)).answer } := by
  have hb : (s.crossed (some w.core.stack) pa).readAt pa n = s.mem.read pa n := by
    rw [State.readAt_slice hwin, (State.crossed_butFlight s _ pa).mem]
  unfold State.performLoad
  simp only [hw, hpt, hc, reduceCtorEq, if_false, State.poisoned_of_nil hp, Bool.and_false, Bool.false_eq_true, ho, hb, GReq.next]
  rfl

theorem State.noteLoad_frame (s : State) (w : Who) (pa n : Nat) (res ro : Bool) : let t := s.noteLoad w pa n res ro
    t = { s with resTabs := t.resTabs, cores := t.cores } := by
  unfold State.noteLoad State.reserve
  cases res with
  | true =>
    dsimp only
    split
    · split <;> rfl
    · split <;> rfl
  | false => cases ro <;> rfl

/-- The slot notes a reservation, in the place of its earlier one of the line. -/
def Slot.noteResv (sl : Slot) (r : Resv) : Slot :=
  if sl.resv.any (·.line == r.line) then { sl with resv := sl.resv.map fun x => if x.line = r.line then r else x }
  else { sl with resv := sl.resv.drop (sl.resv.length - 3) ++ [r] }

theorem Slot.noteResv_eq (sl : Slot) (r : Resv) : ∃ rv, sl.noteResv r = { sl with resv := rv } ∧ r ∈ rv := by
  unfold Slot.noteResv
  split
  next he =>
    obtain ⟨x, hx, hl⟩ := List.any_eq_true.mp he
    exact ⟨_, rfl, List.mem_map.mpr ⟨x, hx, if_pos (beq_iff_eq.mp hl)⟩⟩
  next => exact ⟨_, rfl, List.mem_append_right _ List.mem_cons_self⟩

theorem State.slot_reserve (s : State) (w : Who) {pa : Nat} (hwin : inWindow pa = false) :
    ∃ r : Resv, r.line = pa / 128 * 128 ∧ (s.reserve w pa).slot w = (s.slot w).noteResv r := by
  unfold State.reserve
  rw [hwin, if_neg Bool.false_ne_true]
  dsimp only
  exact ⟨⟨pa / 128 * 128, _, _⟩, rfl, (State.slot_modSlot_self _ _ _).trans rfl⟩

/-- A reserving load leaves its line in the slot's reservation set (06 R140). -/
theorem State.slot_noteLoad (s : State) (w : Who) {pa : Nat} (hwin : inWindow pa = false) (n : Nat) (res ro : Bool) :
    ∃ rv, (s.noteLoad w pa n res ro).slot w = { s.slot w with resv := rv } ∧ (res = true → ∃ x ∈ rv, x.line = pa / 128 * 128) := by
  cases res with
  | true =>
    obtain ⟨r, hr, e⟩ := s.slot_reserve w hwin
    obtain ⟨rv, hv, hm⟩ := (s.slot w).noteResv_eq r
    exact ⟨rv, e.trans hv, fun _ => ⟨r, hm, hr⟩⟩
  | false =>
    refine ⟨(s.slot w).resv, ?_, fun h => absurd h Bool.false_ne_true⟩
    cases ro with
    | false => rfl
    | true =>
      exact State.slot_modCore (f := (·.roKeep ((wordsOf pa n).map fun x => (x, s.mem.word (x * 8))))) (by rw [Core.roKeep]) w

/-- The slot is parked with request `r`, the memory and the ways as in `s`, and nothing of the slot `b` has changed but the request, its
answer and the reservations. -/
structure State.Serving (s t : State) (w : Who) (b : Slot) (r : GReq) : Prop where
  mem : t.mem = s.mem
  healthy : t.poison = []
  ways : ∀ pa, t.way (some w.core.stack) pa = s.way (some w.core.stack) pa
  slot : ∃ rv, t.slot w = { b with wait := .glob r, reply := r.answer, resv := rv }

theorem GReq.answer_open {r : GReq} (h : r.parts ≠ []) : r.answer = none := by
  unfold GReq.answer
  cases hp : r.parts with
  | nil => exact absurd hp h
  | cons _ _ => rfl

theorem Slot.not_releasing {b : Slot} (q : b.Quiet) : b.releasing = false := by
  obtain ⟨hs, ho, hi, -⟩ := q
  simp [Slot.releasing, Slot.relIds, hs, ho, hi]

/-- One part of a parked load is performed. -/
theorem State.Serving.step {b : Slot} {r : GReq} {off pa n : Nat} {thr : Bool} {rest : List (Nat × Nat × Nat × Bool)} {d : SFV} {wd : Width}
    {sg : Bool} {sc : Scope} {res : Bool} (h : s.Serving t w b r) (hpt : r.parts = (off, pa, n, thr) :: rest) (ho : r.op = .ld d wd sg sc res)
    (q : b.Quiet) (hwin : inWindow pa = false) (hc : s.way (some w.core.stack) pa = .clear) :
    ∃ u, exec (.globalAccessAtSlice (.load w 0)) t = .next u ∧ s.Serving u w b (r.next 0 off (s.mem.read pa n)) ∧
      (res = true → ∃ x ∈ (u.slot w).resv, x.line = pa / 128 * 128) := by
  obtain ⟨rv, hs⟩ := h.slot
  have hw : (t.slot w).wait = .glob r := by rw [hs]
  have hp0 : r.parts[0]? = some (off, pa, n, thr) := by rw [hpt]; rfl
  have hc' : t.way (some w.core.stack) pa = .clear := (h.ways pa).trans hc
  have hr : t.loadReady w 0 = true := by
    have hrel : (t.slot w).releasing = false := by
      rw [hs]
      exact Slot.not_releasing (b := { b with wait := .glob r, reply := r.answer, resv := rv }) q
    have hn : (t.slot w).reply.isNone = true := by
      rw [hs]
      exact Option.isNone_iff_eq_none.mpr (GReq.answer_open (by rw [hpt]; exact List.cons_ne_nil _ _))
    unfold State.loadReady
    simp only [hw, hp0, hn, hrel, hc', ho]
    rfl
  have hx := State.crossed_butFlight t (some w.core.stack) pa
  obtain ⟨rv', hs', hres⟩ := (t.crossed (some w.core.stack) pa).slot_noteLoad w hwin n res r.ro
  have hf := (t.crossed (some w.core.stack) pa).noteLoad_frame w pa n res r.ro
  dsimp only at hf
  refine ⟨_, (if_pos hr).trans (congrArg Host.Outcome.next (State.performLoad_any hw hp0 ho hwin h.healthy hc')), ⟨?_, ?_, fun pa' => ?_, rv', ?_⟩,
    fun hr => ?_⟩
  · refine Eq.trans (b := ((t.crossed (some w.core.stack) pa).noteLoad w pa n res r.ro).mem) rfl ?_
    rw [hf]
    exact hx.mem.trans h.mem
  · refine Eq.trans (b := ((t.crossed (some w.core.stack) pa).noteLoad w pa n res r.ro).poison) rfl ?_
    rw [hf]
    exact hx.poison.trans h.healthy
  · rw [State.way_modSlot, hf]
    refine Eq.trans (State.way_congr (s := t.crossed (some w.core.stack) pa) (fun l => by cases l <;> rfl) rfl rfl (some w.core.stack) pa') ?_
    rw [State.way_crossed]
    exact h.ways pa'
  · rw [State.slot_modSlot_self, hs', hx.slot, hs, h.mem]
  · rw [State.slot_modSlot_self, hs']
    exact hres hr

/-- All parts of a parked load are performed one after another. -/
theorem State.Serving.leads {b : Slot} {r : GReq} {d : SFV} {wd : Width} {sg : Bool} {sc : Scope} {res : Bool} (h : s.Serving t w b r)
    (ho : r.op = .ld d wd sg sc res) (q : b.Quiet)
    (hg : ∀ x ∈ r.parts, inWindow x.2.1 = false ∧ s.way (some w.core.stack) x.2.1 = .clear) :
    ∃ u, Leads (List.replicate r.parts.length (.globalAccessAtSlice (.load w 0))) t u ∧
      s.Serving u w b { r with parts := [], got := r.got ++ r.parts.map fun x => (x.1, s.mem.read x.2.1 x.2.2.1) } ∧
      (res = true → ∀ x, r.parts = [x] → ∃ y ∈ (u.slot w).resv, y.line = x.2.1 / 128 * 128) := by
  obtain ⟨op, va, ro, parts, got, bad⟩ := r
  induction parts generalizing t got with
  | nil => exact ⟨t, rfl, by simpa using h, fun _ x hx => by simp at hx⟩
  | cons x rest ih =>
    obtain ⟨off, pa, n, thr⟩ := x
    obtain ⟨hwin, hc⟩ := hg _ List.mem_cons_self
    obtain ⟨u, he, hu, hv⟩ := h.step rfl ho q hwin hc
    obtain ⟨z, hl, hz, -⟩ := ih _ hu ho fun x hx => hg x (List.mem_cons_of_mem _ hx)
    refine ⟨z, ⟨u, he, hl⟩, ?_, fun hr x hx => ?_⟩
    · have e : got ++ [(off, s.mem.read pa n)] ++ rest.map (fun x => (x.1, s.mem.read x.2.1 x.2.2.1)) =
          got ++ ((off, pa, n, thr) :: rest).map fun x => (x.1, s.mem.read x.2.1 x.2.2.1) := by simp
      rw [← e]
      exact hz
    · obtain ⟨hx', hrest⟩ := List.cons.inj hx
      subst hrest
      obtain rfl : u = z := hl
      have e : x.2.1 = pa := congrArg (·.2.1) hx'.symm
      rw [e]
      exact hv hr

end

end Sys2Proof.Machine
end

section
/-! SUPPORT. Completions of global accesses (04 R86, R88, 06 R142). -/

namespace Sys2Proof.Machine

/-! ## Registers a load writes -/

/-- A load writes the same registers in slots that hold the same, with no stream. -/
theorem Slot.wLoad_like {a b : Slot} (d : SFV) (sg : Bool) (bs : List Byte) (za : a.streams = #v[none, none, none, none])
    (zb : b.streams = #v[none, none, none, none]) (hs : a.s = b.s) (hf : a.f = b.f) (hv : a.v = b.v) :
    (a.wLoad d sg bs).s = (b.wLoad d sg bs).s ∧ (a.wLoad d sg bs).f = (b.wLoad d sg bs).f ∧ (a.wLoad d sg bs).v = (b.wLoad d sg bs).v := by
  have wv {a b : Slot} (hv : a.v = b.v) (r : VReg) (x : VWord) : (a.wv r x).v = (b.wv r x).v := by
    rw [Slot.wv, Slot.wv, hv]
  cases d with
  | s r => exact ⟨(a.ws_s r _).trans (by rw [hs, ← Slot.ws_s]; rfl), (a.ws_f r _).trans (hf.trans (b.ws_f r _).symm),
      (a.ws_v r _).trans (hv.trans (b.ws_v r _).symm)⟩
  | f r =>
    refine ⟨hs, ?_, hv⟩
    change (a.wf r _).f = (b.wf r _).f
    rw [Slot.wf, Slot.wf, hf]
  | v r =>
    rw [Slot.wLoad_v, Slot.wLoad_v]
    split
    · rw [Slot.wvS_none _ r _ za, Slot.wvS_none _ r _ zb]
      exact ⟨hs, hf, wv hv r _⟩
    · rw [Slot.wvS_none _ r _ za, Slot.wvS_none _ r _ zb, Slot.wvS_none (a.wv r _) _ _ za, Slot.wvS_none (b.wv r _) _ _ zb]
      exact ⟨hs, hf, wv (wv hv r _) (r + 1) _⟩

/-! ## Loads from their issue to their end -/

section
variable {s t : State} {w : Who}

theorem GReq.answer_whole {r : GReq} (hp : r.parts = []) (hb : r.bad = none) (hg : r.got.Pairwise fun x y => x.1 ≤ y.1) :
    r.answer = some (.data (r.got.map (·.2)).flatten) := by
  unfold GReq.answer
  simp only [hp, List.isEmpty_nil, Bool.not_true, Bool.false_eq_true, if_false, hb, sortBy_sorted hg]

/-- The parts of an access as its request carries them, and the bytes they have. -/
theorem State.reqParts_bytes (s : State) (ls : List Seg) :
    (((reqParts ls).map fun x => (x.1, s.mem.read x.2.1 x.2.2.1)).map (·.2)).flatten = s.bytesAt ls := by
  unfold reqParts State.bytesAt
  simp only [List.map_map]
  rfl

theorem Slot.wLoad_resv (b : Slot) (d : SFV) (sg : Bool) (bs : List Byte) (z : b.streams = #v[none, none, none, none]) :
    (b.wLoad d sg bs).resv = b.resv := by
  cases d with
  | s r => exact b.ws_resv r _
  | f r => rfl
  | v r =>
    rw [Slot.wLoad_v]
    split
    · rw [Slot.wvS_none _ r _ z, Slot.wv_resv]
    · rw [Slot.wvS_none _ r _ z, Slot.wvS_none (b.wv r _) _ _ z, Slot.wv_resv, Slot.wv_resv]

theorem State.served_load {b : Slot} {d : SFV} {wd : Width} {sg : Bool} {sc : Scope} {res ro : Bool} {va : Word} {ls : List Seg}
    (h : s.Serving t w b ⟨.ld d wd sg sc res, va, ro, reqParts ls, [], none⟩) (q : b.Quiet) (z : b.streams = #v[none, none, none, none]) (hst : b.state ≠ .spilled)
    (hg : ∀ g ∈ ls, inWindow g.pa = false ∧ s.way (some w.core.stack) g.pa = .clear) (hsort : ls.Pairwise fun x y => x.off ≤ y.off) :
    ∃ u rv, Served w ls.length t u ∧
      u.slot w = (({ b with resv := rv } : Slot).unpark.wLoad d sg (s.bytesAt ls)).next ∧ u.mem = s.mem ∧
      (res = true → ∀ g, ls = [g] → ∃ x ∈ (u.slot w).resv, x.line = g.pa / 128 * 128) := by
  have hparts : ∀ x ∈ reqParts ls, inWindow x.2.1 = false ∧ s.way (some w.core.stack) x.2.1 = .clear := fun x hx => by
    obtain ⟨g, hm, rfl⟩ := List.mem_map.mp hx
    exact hg g hm
  obtain ⟨u, hl, hu, hres⟩ := h.leads rfl q hparts
  obtain ⟨rv, hs⟩ := hu.slot
  have hgot : ((reqParts ls).map fun x => (x.1, s.mem.read x.2.1 x.2.2.1)).Pairwise fun x y => x.1 ≤ y.1 := by
    rw [List.pairwise_map, reqParts, List.pairwise_map]
    exact hsort
  rw [GReq.answer_whole rfl rfl hgot, List.nil_append, State.reqParts_bytes] at hs
  have he := execParkReasonMet_glob (s := u) (w := w) (by rw [hs]) (by rw [hs]) (by rw [hs]; exact hst)
  have hn : (reqParts ls).length = ls.length := List.length_map _
  have hserved : Served w ls.length t (u.finish w fun sl => sl.wLoad d sg (s.bytesAt ls)) := by
    unfold Served
    rw [← hn]
    exact hl.trans (Leads.one he)
  refine ⟨_, rv, hserved, ?_, hu.mem, fun hr g hls => ?_⟩
  · rw [State.slot_finish_self, hs]
    rfl
  · obtain ⟨x, hx, hxl⟩ := hres hr (g.off, g.pa, g.len, g.through) (by rw [hls]; rfl)
    rw [hs] at hx
    refine ⟨x, ?_, hxl⟩
    rw [State.slot_finish_self, hs, Slot.next_resv]
    exact (Slot.wLoad_resv ({ b with resv := rv } : Slot).unpark d sg (s.bytesAt ls) z) ▸ hx

/-- A slot parked with a request all of whose parts are to be performed. -/
theorem State.serving_parked (s : State) {r : GReq} (hp : s.poison = []) (hr : r.parts ≠ []) :
    s.Serving (s.park .globalLoad (.glob r)) s.cur (s.me.park .globalLoad (.glob r) s.rot) r where
  mem := rfl
  healthy := hp
  ways := State.way_modSlot s _ _ _
  slot := ⟨s.me.resv, by
    rw [State.park, State.slot_mod_cur, GReq.answer_open hr]
    rfl⟩

theorem State.Maps.parts {s : State} {va : Word} {n align : Nat} {wr : Bool} (h : s.Maps va n align wr) (ho : s.Open (s.placed va n)) :
    ∀ g ∈ s.placed va n, inWindow g.pa = false ∧ s.way (some s.cur.core.stack) g.pa = .clear :=
  fun g hg => ⟨(State.mem_placed h hg).1, ho g hg⟩

/-- A load parked with the parts of a mapped access completes with the bytes memory holds. -/
theorem State.load_completes {s : State} {va : Word} {n align : Nat} {i : Instr} {d : SFV} {wd : Width} {sg : Bool} {sc : Scope} {res ro : Bool}
    (h : s.Maps va n align false) (ho : s.Open (s.placed va n)) (q : s.me.Quiet) (z : NoStreams s) (hp : s.poison = [])
    (e : Parks i s .globalLoad (.glob ⟨.ld d wd sg sc res, va, ro, reqParts (s.placed va n), [], none⟩)) :
    ∃ t u, (exec i s = .next t ∧ Served s.cur (s.placed va n).length t u ∧
      (u.slot s.cur).s = (s.me.wLoad d sg (s.bytesAt (s.placed va n))).s ∧ (u.slot s.cur).f = (s.me.wLoad d sg (s.bytesAt (s.placed va n))).f ∧
      (u.slot s.cur).v = (s.me.wLoad d sg (s.bytesAt (s.placed va n))).v ∧ (u.slot s.cur).pc = s.me.pc + 1 ∧ u.mem = s.mem) ∧
      (res = true → ∀ g, s.placed va n = [g] → ∃ x ∈ (u.slot s.cur).resv, x.line = g.pa / 128 * 128) := by
  have hne : reqParts (s.placed va n) ≠ [] := fun e => State.placed_ne_nil h (List.map_eq_nil_iff.mp e)
  obtain ⟨u, rv, hl, hs, hm, hres⟩ := State.served_load (s.serving_parked hp hne) q z (Slot.park_not_spilled _ _ _ _) (h.parts ho)
    (State.placed_sorted h)
  obtain ⟨h1, h2, h3⟩ := Slot.wLoad_like (a := ({ s.me.park .globalLoad (.glob ⟨.ld d wd sg sc res, va, ro, reqParts (s.placed va n), [], none⟩) s.rot
    with resv := rv } : Slot).unpark) (b := s.me) d sg (s.bytesAt (s.placed va n)) z z rfl rfl rfl
  refine ⟨_, u, ⟨e, hl, ?_, ?_, ?_, ?_, hm⟩, fun hr g hg => ?_⟩
  · rw [hs, Slot.next_s]
    exact h1
  · rw [hs, Slot.next_f]
    exact h2
  · rw [hs, Slot.next_v]
    exact h3
  · rw [hs, Slot.next_pc, Slot.wLoad_pc]
    rfl
  · exact hres hr g hg

end

/-! ## Stores from their issue to their end -/

section
variable {s t : State} {w : Who}

/-- The slot's one queued entry has the parts `ps` left; the ways are as in `s`, and nothing else of the slot `b` has changed. -/
structure State.Storing (s t : State) (w : Who) (b : Slot) (e : StoreEntry) (ps : List StorePart) : Prop where
  wf : t.mem.wf = true
  healthy : t.poison = []
  ways : ∀ pa, t.way (some w.core.stack) pa = s.way (some w.core.stack) pa
  slot : t.slot w = { b with storeQ := if ps.isEmpty then [] else [{ e with parts := ps }] }

/-- The bytes a part of an entry leaves in memory. -/
def StorePart.bytes (p : StorePart) (op : Option (AmoOp × Word)) (m : Memory) : List Byte :=
  match op with
  | none => p.data
  | some (op, x) => leBytes p.data.length (amoNew op (if p.data.length = 4 then .w else .d) (m.num p.pa p.data.length) x.toNat)

theorem State.performStore_any {k part : Nat} {e : StoreEntry} {p : StorePart} (hk : (s.slot w).storeQ[k]? = some e)
    (hp : e.parts[part]? = some p) (hwin : inWindow p.pa = false) (hpo : s.poison = []) (hc : s.way (some w.core.stack) p.pa = .clear) :
    s.performStore w k part = ((s.crossed (some w.core.stack) p.pa).writeAt w.core p.pa (p.bytes e.op s.mem) p.through).modSlot w fun sl =>
      { sl with storeQ := if (e.parts.eraseIdx part).isEmpty then sl.storeQ.eraseIdx k else
          sl.storeQ.set k { e with parts := e.parts.eraseIdx part } } := by
  have hx := s.crossed_butFlight (some w.core.stack) p.pa
  cases ho : e.op with
  | none => exact (State.performStore_clear hk hp ho hc).trans (by rw [StorePart.bytes, ho])
  | some y =>
    obtain ⟨op, x⟩ := y
    unfold State.performStore
    simp only [hk, hp, hc, reduceCtorEq, if_false, ho, State.poisoned_of_nil (hx.poison.trans hpo), Bool.and_false, Bool.false_eq_true,
      State.readAt_slice hwin, hx.mem, StorePart.bytes, Memory.num]

theorem State.Storing.step {b : Slot} {e : StoreEntry} {p : StorePart} {ps : List StorePart} (h : s.Storing t w b e (p :: ps))
    (hq : ∀ e' : StoreEntry, e'.acks = e.acks → ({ b with storeQ := [e'] } : Slot).idsDone e.acks = true) (hwin : inWindow p.pa = false)
    (hc : s.way (some w.core.stack) p.pa = .clear) :
    ∃ u, exec (.globalAccessAtSlice (.store w 0 0)) t = .next u ∧ s.Storing u w b e ps ∧ u.mem = t.mem.write p.pa (p.bytes e.op t.mem) := by
  have hs := h.slot
  rw [List.isEmpty_cons, if_neg Bool.false_ne_true] at hs
  have hk : (t.slot w).storeQ[0]? = some { e with parts := p :: ps } := by rw [hs]; rfl
  have hc' : t.way (some w.core.stack) p.pa = .clear := (h.ways p.pa).trans hc
  have hr : t.storeReady w 0 0 = true := by
    have hi : (t.slot w).idsDone e.acks = true := by
      rw [hs]
      exact hq _ rfl
    unfold State.storeReady
    simp only [hk, List.getElem?_cons_zero, List.take_zero, List.all_nil, Bool.true_and, hi, List.isEmpty_nil, Bool.or_true, hc']
    rfl
  have hx := t.crossed_butFlight (some w.core.stack) p.pa
  have hpo := hx.poison.trans h.healthy
  have hm : ((t.crossed (some w.core.stack) p.pa).writeAt w.core p.pa (p.bytes e.op t.mem) p.through).mem = t.mem.write p.pa (p.bytes e.op t.mem) :=
    (State.writeAt_mem hwin _ _ _ hpo).trans (by rw [hx.mem])
  refine ⟨_, (if_pos hr).trans (congrArg Host.Outcome.next (State.performStore_any (e := { e with parts := p :: ps }) hk rfl hwin h.healthy hc')),
    ⟨?_, State.writeAt_poison hwin _ _ _ hpo, fun pa => ?_, ?_⟩, hm⟩
  · refine Eq.trans (congrArg Memory.wf hm) (Memory.write_wf _ _ _ h.wf)
  · rw [State.way_modSlot, State.way_writeAt hwin hpo, State.way_crossed]
    exact h.ways pa
  · rw [State.slot_modSlot_self, State.slot_writeAt hwin, hx.slot, hs]
    rfl

theorem State.Storing.leads {b : Slot} {e : StoreEntry} {ps : List StorePart} (h : s.Storing t w b e ps) (ho : e.op = none)
    (hq : ∀ e' : StoreEntry, e'.acks = e.acks → ({ b with storeQ := [e'] } : Slot).idsDone e.acks = true)
    (hg : ∀ p ∈ ps, inWindow p.pa = false ∧ s.way (some w.core.stack) p.pa = .clear) :
    ∃ u, Leads (List.replicate ps.length (.globalAccessAtSlice (.store w 0 0))) t u ∧ s.Storing u w b e [] ∧
      u.mem = ps.foldl (fun (m : Memory) p => m.write p.pa p.data) t.mem := by
  induction ps generalizing t with
  | nil => exact ⟨t, rfl, h, rfl⟩
  | cons p ps ih =>
    obtain ⟨hwin, hc⟩ := hg p List.mem_cons_self
    obtain ⟨u, he, hu, hm⟩ := h.step hq hwin hc
    obtain ⟨z, hl, hz, hm'⟩ := ih hu fun p hp => hg p (List.mem_cons_of_mem _ hp)
    refine ⟨z, ⟨u, he, hl⟩, hz, ?_⟩
    rw [hm', hm, ho, List.foldl_cons]
    rfl

end

end Sys2Proof.Machine
end

section
/-! SUPPORT. Global loads, stores and atomics from their issue to their end (04 R86, R88, 06 R142). -/

namespace Sys2Proof.Machine

/-! ## Numbers as bytes -/

theorem leBytes_leNat (bs : List Byte) : leBytes bs.length (leNat bs) = bs := by
  induction bs with
  | nil => rfl
  | cons b bs ih =>
    rw [List.length_cons, leBytes, leNat]
    have hb := b.isLt
    have h1 : (b.toNat + 256 * leNat bs) / 256 = leNat bs := by omega
    have h2 : BitVec.ofNat 8 (b.toNat + 256 * leNat bs) = b := by
      apply BitVec.eq_of_toNat_eq
      rw [BitVec.toNat_ofNat]
      omega
    rw [h1, h2, ih]

theorem Memory.write_num (m : Memory) (a n : Nat) (h : m.wf = true) : m.write a (leBytes n (m.num a n)) = m := by
  have : leBytes n (m.num a n) = m.read a n := by
    have := leBytes_leNat (m.read a n)
    rwa [Memory.read_length] at this
  rw [this, Memory.write_read _ _ _ h]

/-! ## A quiet slot's store queue answers nothing -/

section
variable {sl : Slot} {segs : List Seg}

theorem Slot.overlapping_quiet (q : sl.Quiet) : sl.overlapping segs = [] := by
  rw [Slot.overlapping, q.1]
  rfl

theorem Slot.forward_quiet (q : sl.Quiet) (hl : ∃ g ∈ segs, 0 < g.len) : sl.forward segs = none := by
  obtain ⟨g, hg, hn⟩ := hl
  refine if_neg fun h => ?_
  have hm : sl.queued g.pa ∈ (segs.map fun g => (List.range g.len).map fun i => sl.queued (g.pa + i)).flatten :=
    List.mem_flatten.mpr ⟨_, List.mem_map_of_mem hg, List.mem_map.mpr ⟨0, List.mem_range.mpr hn, rfl⟩⟩
  have := List.all_eq_true.mp h _ hm
  rw [Slot.queued, q.1] at this
  exact Bool.false_ne_true this

end

/-! ## Loads and stores -/

section
variable {h : Hdr} {s : State} {a : SReg} {m : MemArgs}

theorem State.Maps.nonempty {va : Word} {n align : Nat} {wr : Bool} (h : s.Maps va n align wr) : ∃ g ∈ s.placed va n, 0 < g.len := by
  obtain ⟨g, hg⟩ := List.exists_mem_of_ne_nil _ (State.placed_ne_nil h)
  exact ⟨g, hg, (State.mem_placed h hg).2.2⟩

/-- A load of a mapped access parks with its parts. -/
theorem globalLoad_mapped {va : Word} {d : SFV} {n align : Nat} (hm : s.Maps va n align false) (q : s.me.Quiet) (hro : s.myCore.ro = []) :
    globalLoad s d m.width m.sg m.scope va (s.placed va n) = .next (s.park .globalLoad
      (.glob ⟨.ld d m.width m.sg m.scope false, va, s.me.mayRo m.scope (s.placed va n), reqParts (s.placed va n), [], none⟩)) :=
  globalLoad_parks (Slot.forward_quiet q hm.nonempty) (Slot.overlapping_quiet q) hro hm.nonempty

theorem Slot.Quiet.not_carried {s : State} {sl : Slot} (q : sl.Quiet) : s.carried sl = false := State.not_carried q.2.2.2

theorem execLdres_parks {d : SFV} {segs : List Seg} (r : Runs h s) (hg : (∃ x, d = .s x) ∨ AtHome h s ∧ NoStreams s)
    (hk : s.check s.cur (memAddr s.me a m) m.width.bytes .load m.width.bytes (m.width = .w) = (s, .ok segs)) (hc : s.carried s.me = false)
    (ho : s.me.overlapping segs = []) : Parks (.ldres h d a m) s .globalLoad
      (.glob ⟨.ld d m.width m.sg m.scope true, memAddr s.me a m, false, reqParts segs, [], none⟩) := by
  refine (guarded_runs h s _ r).trans ?_
  have hout : (withCheck s (memAddr s.me a m) m.width.bytes .load m.width.bytes (m.width = .w) fun t segs =>
      if !(t.me.overlapping segs).isEmpty then parkAgain t .storeQueue (.stores (t.me.overlapping segs))
      else .next (t.park .globalLoad (.glob ⟨.ld d m.width m.sg m.scope true, memAddr s.me a m, false, reqParts segs, [], none⟩))) =
        .next (s.park .globalLoad (.glob ⟨.ld d m.width m.sg m.scope true, memAddr s.me a m, false, reqParts segs, [], none⟩)) := by
    refine (withCheck_ok _ hk hc).trans ?_
    simp only [ho, List.isEmpty_nil, Bool.not_true, Bool.false_eq_true, if_false]
  rcases hg with ⟨x, rfl⟩ | ⟨hg, hz⟩
  · exact (streamGate_go s [] (SFV.vs (.s x) m.width) _ rfl).trans hout
  · exact (guestF_home hg.2 _ _ _).trans ((streamGate_go s _ _ _ (gates_none _ _ _ hz)).trans hout)

/-- A queued store in the slot that has just issued it. -/
theorem State.storing_issued {s : State} (hwf : s.mem.wf = true) (hp : s.poison = []) (f : Slot → Slot) {e : StoreEntry} (he : (f s.me).storeQ = [e])
    (hne : e.parts ≠ []) : s.Storing (s.mod fun sl => (f sl).next) s.cur (f s.me).next e e.parts where
  wf := hwf
  healthy := hp
  ways := State.way_modSlot s _ _ _
  slot := by
    have hq : (f s.me).next.storeQ = [e] := by rw [Slot.next_storeQ, he]
    rw [State.slot_mod_cur, if_neg (by simpa using hne)]
    exact (congrArg (fun q => ({ (f s.me).next with storeQ := q } : Slot)) hq :)

theorem State.store_completes {va : Word} {n align : Nat} {i : Instr} {bs : List Byte} (hm : s.Maps va n align true)
    (ho : s.Open (s.placed va n)) (q : s.me.Quiet) (hwf : s.mem.wf = true) (hp : s.poison = [])
    (e : Completes i s fun sl => sl.queueStore (s.placed va n) bs (s.tbmOf (s.placed va n))) :
    ∃ t u, exec i s = .next t ∧ Leads (List.replicate (s.placed va n).length (.globalAccessAtSlice (.store s.cur 0 0))) t u ∧
      (t.slot s.cur).pc = s.me.pc + 1 ∧ (u.slot s.cur).storeQ = [] ∧
      u.mem = (s.placed va n).foldl (fun (x : Memory) (g : Seg) => x.write g.pa ((bs.drop g.off).take g.len)) s.mem := by
  obtain ⟨hq, ho', hi, hc⟩ := q
  have hsq : (s.me.queueStore (s.placed va n) bs (s.tbmOf (s.placed va n))).storeQ = [⟨s.me.nextStore, none,
      (s.placed va n).map fun g => ⟨g.pa, (bs.drop g.off).take g.len, g.through⟩, false, s.me.relIds⟩] := by
    rw [Slot.queueStore, hq]
    rfl
  have hst := State.storing_issued hwf hp (fun sl => sl.queueStore (s.placed va n) bs (s.tbmOf (s.placed va n))) hsq fun e => State.placed_ne_nil hm (by simpa using e)
  have hrel : s.me.relIds = [] := by simp [Slot.relIds, ho', hi]
  obtain ⟨u, hl, hu, hmem⟩ := hst.leads rfl (fun e' _ => by rw [hrel]; rfl) fun p hp => by
    obtain ⟨g, hg, rfl⟩ := List.mem_map.mp hp
    exact hm.parts ho g hg
  refine ⟨_, u, e, ?_, ?_, ?_, ?_⟩
  · rwa [List.length_map] at hl
  · rw [State.slot_mod_cur, Slot.next_pc]
    rfl
  · rw [hu.slot]
    rfl
  · rw [hmem, List.foldl_map]
    rfl

end

/-! ## Atomics -/

/-- The register an atomic answers in. -/
def GOp.atomicDst : GOp → Option SReg
  | .ld _ _ _ _ _ => none
  | .amo _ d _ _ _ => some d
  | .cas d _ _ _ _ => some d

/-- What an atomic on `n` bytes leaves in memory (04 R88). -/
def GOp.after (op : GOp) (m : Memory) (pa n : Nat) : Memory :=
  match op with
  | .ld _ _ _ _ _ => m
  | .amo o _ wd x _ => m.write pa (leBytes n (amoNew o wd (m.num pa n) x.toNat))
  | .cas _ _ cmp new _ => if m.num pa n = cmp.toNat % 2 ^ (8 * n) then m.write pa (leBytes n new.toNat) else m

section
variable {s : State} {w : Who} {op : GOp} {d : SReg}

theorem Slot.takeData_atomic (ho : op.atomicDst = some d) (sl : Slot) (bs : List Byte) :
    sl.takeData op bs = sl.ws d (BitVec.ofNat 64 (leNat bs)) := by
  cases op with
  | ld => exact absurd ho (Option.some_ne_none d).symm
  | amo => obtain rfl := Option.some.inj ho; rfl
  | cas => obtain rfl := Option.some.inj ho; rfl

/-- The one part of a parked atomic is performed: the operation's result stands in memory, the old bytes are the answer. -/
theorem State.performLoad_atomic {part : Nat} {r : GReq} {off pa n : Nat} {thr : Bool} (hw : (s.slot w).wait = .glob r)
    (hpt : r.parts[part]? = some (off, pa, n, thr)) (ho : r.op.atomicDst = some d)
    (hwin : inWindow pa = false) (hp : s.poison = []) (hc : s.way (some w.core.stack) pa = .clear) : ∃ u : State,
      u.mem = r.op.after s.mem pa n ∧ u.slot w = s.slot w ∧ s.performLoad w part = u.modSlot w fun sl =>
        { sl with wait := .glob (r.next part off (s.mem.read pa n)), reply := (r.next part off (s.mem.read pa n)).answer } := by
  have hx := s.crossed_butFlight (some w.core.stack) pa
  have hb : (s.crossed (some w.core.stack) pa).readAt pa n = s.mem.read pa n := by rw [State.readAt_slice hwin, hx.mem]
  have hpo := hx.poison.trans hp
  cases hop : r.op with
  | ld =>
    rw [hop] at ho
    exact absurd ho (Option.some_ne_none d).symm
  | amo o d' wd x sc =>
    refine ⟨_, ?_, ?_, State.performLoad_amo hw hpt hop hwin hp hc⟩
    · refine Eq.trans (b := ((s.crossed (some w.core.stack) pa).writeAt w.core pa (leBytes n (amoNew o wd (s.mem.num pa n) x.toNat)) thr).mem) ?_ ?_
      · unfold State.acquire
        split <;> rfl
      · rw [State.writeAt_mem hwin _ _ _ hpo, hx.mem]
        rfl
    · rw [State.slot_acquire, State.slot_writeAt hwin, hx.slot]
  | cas d' wd cmp new sc =>
    refine ⟨(if leNat (s.mem.read pa n) = cmp.toNat % 2 ^ (8 * n) then
      (s.crossed (some w.core.stack) pa).writeAt w.core pa (leBytes n new.toNat) thr else s.crossed (some w.core.stack) pa).acquire w.core sc,
      ?_, ?_, ?_⟩
    · rw [show GOp.after (.cas d' wd cmp new sc) s.mem pa n = if leNat (s.mem.read pa n) = cmp.toNat % 2 ^ (8 * n) then
        s.mem.write pa (leBytes n new.toNat) else s.mem from rfl]
      split
      · refine Eq.trans (b := ((s.crossed (some w.core.stack) pa).writeAt w.core pa (leBytes n new.toNat) thr).mem) ?_
          ((State.writeAt_mem hwin _ _ _ hpo).trans (by rw [hx.mem]))
        unfold State.acquire
        split <;> rfl
      · refine Eq.trans (b := (s.crossed (some w.core.stack) pa).mem) ?_ hx.mem
        unfold State.acquire
        split <;> rfl
    · rw [State.slot_acquire]
      split
      · rw [State.slot_writeAt hwin, hx.slot]
      · exact hx.slot w
    · unfold State.performLoad
      simp only [hw, hpt, hc, reduceCtorEq, if_false, State.poisoned_of_nil hp, Bool.and_false, Bool.false_eq_true, hop, hb, GReq.next]

theorem Slot.Quiet.loadReady {t : State} {r : GReq} {x : Nat × Nat × Nat × Bool} (q : (t.slot w).Quiet) (hw : (t.slot w).wait = .glob r)
    (hr : (t.slot w).reply = none) (hp : r.parts[0]? = some x) (hc : t.way (some w.core.stack) x.2.1 = .clear) : t.loadReady w 0 = true := by
  have hrel := Slot.not_releasing q
  obtain ⟨hq, ho, -⟩ := q
  obtain ⟨off, pa, n, thr⟩ := x
  unfold State.loadReady
  simp only [hw, hp, hr, hrel, hq, ho, hc]
  cases r.op <;> simp

/-- An atomic performed at its home slice and answered, its slot gone on. -/
theorem State.atomic_completes {va : Word} {n align : Nat} {wr : Bool} {g : Seg} {i : Instr} (hm : s.Maps va n align wr) (hg : s.placed va n = [g])
    (q : s.me.Quiet) (hp : s.poison = []) (hopen : s.Open [g]) (ho : op.atomicDst = some d)
    (e : Parks i s .globalLoad (.glob ⟨op, va, false, reqParts [g], [], none⟩)) :
    ∃ t u, exec i s = .next t ∧ Served s.cur 1 t u ∧ (u.slot s.cur).pc = s.me.pc + 1 ∧ u.mem = op.after s.mem g.pa g.len ∧
      (d ≠ 0 → (u.slot s.cur).rs d = BitVec.ofNat 64 (s.mem.num g.pa g.len)) := by
  have hgm : g ∈ s.placed va n := by rw [hg]; exact List.mem_cons_self
  have hwin := (State.mem_placed hm hgm).1
  have hs : (s.park .globalLoad (.glob ⟨op, va, false, reqParts [g], [], none⟩)).slot s.cur =
      s.me.park .globalLoad (.glob ⟨op, va, false, reqParts [g], [], none⟩) s.rot := State.slot_mod_cur s _
  have hw : ((s.park .globalLoad (.glob ⟨op, va, false, reqParts [g], [], none⟩)).slot s.cur).wait =
      .glob ⟨op, va, false, reqParts [g], [], none⟩ := by rw [hs]; rfl
  have hc : (s.park .globalLoad (.glob ⟨op, va, false, reqParts [g], [], none⟩)).way (some s.cur.core.stack) g.pa = .clear :=
    (State.way_modSlot s _ _ _ _).trans (hopen g List.mem_cons_self)
  have hr := Slot.Quiet.loadReady (r := ⟨op, va, false, reqParts [g], [], none⟩) (x := (g.off, g.pa, g.len, g.through))
    (by rw [hs]; exact q) hw (by rw [hs]; rfl) rfl hc
  obtain ⟨u, hum, hus, he⟩ := State.performLoad_atomic (part := 0) hw rfl ho hwin hp hc
  have hv : (u.modSlot s.cur fun sl => { sl with
      wait := .glob (GReq.next ⟨op, va, false, reqParts [g], [], none⟩ 0 g.off (s.mem.read g.pa g.len))
      reply := some (.data (s.mem.read g.pa g.len)) }).slot s.cur = { s.me.park .globalLoad (.glob ⟨op, va, false, reqParts [g], [], none⟩) s.rot with
        wait := .glob (GReq.next ⟨op, va, false, reqParts [g], [], none⟩ 0 g.off (s.mem.read g.pa g.len))
        reply := some (.data (s.mem.read g.pa g.len)) } := by
    rw [State.slot_modSlot_self, hus, hs]
  have hans : (GReq.next ⟨op, va, false, reqParts [g], [], none⟩ 0 g.off (s.mem.read g.pa g.len)).answer = some (.data (s.mem.read g.pa g.len)) :=
    GReq.answer_last rfl rfl rfl _
  have hmem : (s.park .globalLoad (.glob ⟨op, va, false, reqParts [g], [], none⟩)).mem = s.mem := rfl
  rw [hmem, hans] at he
  have hend := execParkReasonMet_glob (s := u.modSlot s.cur _) (w := s.cur) (by rw [hv]) (by rw [hv]) 
    (by rw [hv]; exact Slot.park_not_spilled s.me .globalLoad (.glob ⟨op, va, false, reqParts [g], [], none⟩) s.rot)
  refine ⟨_, _, e, ⟨_, (if_pos hr).trans (congrArg Host.Outcome.next he), Leads.one hend⟩, ?_, hum, fun hd => ?_⟩
  · rw [State.slot_finish_self, hv, Slot.next_pc, Slot.takeData_atomic (by exact ho), Slot.ws_pc]
    rfl
  · rw [State.slot_finish_self, hv, Slot.rs_next, Slot.takeData_atomic (by exact ho), Slot.rs_ws _ _ _ hd]
    rfl

end

theorem execAmox_completes {h : Hdr} {s : State} {oa : AmoOp} {a b : SReg} {q : AmoArgs} {g : Seg} (r : Runs h s) (hq : s.me.Quiet)
    (hwf : s.mem.wf = true) (hp : s.poison = []) (hw : q.width = .w ∨ q.width = .d)
    (hm : s.Maps (amoAddr s.me a q) q.width.bytes q.width.bytes true) (hg : s.placed (amoAddr s.me a q) q.width.bytes = [g]) (ho : s.Open [g]) :
    ∃ t u, exec (.amox h oa a b q) s = .next t ∧ Leads [.globalAccessAtSlice (.store s.cur 0 0)] t u ∧ (u.slot s.cur).pc = s.me.pc + 1 ∧
      u.mem = s.mem.write g.pa (leBytes q.width.bytes (amoNew oa q.width (s.mem.num g.pa q.width.bytes) (s.me.rs b).toNat)) := by
  obtain ⟨hoff, hlen⟩ := State.placed_single hm hg
  have hgm : g ∈ s.placed (amoAddr s.me a q) q.width.bytes := by rw [hg]; exact List.mem_cons_self
  have e := execAmox_posts (op := oa) (b := b) r (Slot.overlapping_quiet hq) (State.check_mapped hm fun _ => rfl) hq.not_carried (by rw [hq.1]; decide)
  obtain ⟨hsq, hou, hin, -⟩ := hq
  rw [hg] at e
  have hd : ((leBytes q.width.bytes (s.me.rs b).toNat).drop g.off).take g.len = leBytes q.width.bytes (s.me.rs b).toNat := by
    rw [hoff, hlen, List.drop_zero, List.take_of_length_le (Nat.le_of_eq (leBytes_length ..))]
  have hs1 : (s.me.queueAmo oa b q [g] (s.tbmOf [g])).storeQ = [⟨s.me.nextStore, some (oa, s.me.rs b),
      [⟨g.pa, leBytes q.width.bytes (s.me.rs b).toNat, g.through⟩], q.scope != .slot, []⟩] := by
    have hrel : s.me.relIds = [] := by simp [Slot.relIds, hou, hin]
    have hpost : s.me.postedIds = [] := by simp [Slot.postedIds, hou, hin]
    rw [Slot.queueAmo, hsq, hrel, hpost]
    simp only [List.nil_append, List.map_cons, List.map_nil, hd, ite_self]
  have hst := State.storing_issued hwf hp (fun sl => sl.queueAmo oa b q [g] (s.tbmOf [g])) hs1 (List.cons_ne_nil _ _)
  obtain ⟨u, he, hu, hmem⟩ := hst.step (fun e' _ => rfl) (State.mem_placed hm hgm).1 (ho g List.mem_cons_self)
  refine ⟨_, u, e, Leads.one he, ?_, ?_⟩
  · rw [hu.slot]
    exact Slot.next_pc _
  · rw [hmem]
    change s.mem.write g.pa (leBytes (leBytes _ _).length (amoNew oa (if (leBytes _ _).length = 4 then .w else .d) (s.mem.num g.pa _) _)) = _
    rw [leBytes_length]
    rcases hw with hw | hw <;> rw [hw] <;> rfl

theorem globalCompletions : Claims.GlobalCompletions := by
  intro h op a b d e c v m q s r z hq hwf hp hro va n y k ls w loads stores atomic
  have hc := hq.not_carried (s := s)
  refine ⟨fun hm ho => ⟨?_, ?_⟩, fun hm ho => ⟨?_, ?_⟩, fun hm ho hl => ?_, fun g hw hm hg ho => ⟨?_, ?_, ?_⟩⟩
  · obtain ⟨t, u, hu, -⟩ := State.load_completes hm ho hq z hp ((execLdg_checked r).trans ((withCheck_ok _ (State.check_mapped hm (by simp)) hc).trans
      (globalLoad_mapped hm hq hro)))
    exact ⟨t, u, hu⟩
  · obtain ⟨t, u, hu, -⟩ := State.load_completes hm ho hq z hp ((execLdgv_checked r z).trans ((withCheck_ok _ (State.check_mapped hm (by simp)) hc).trans
      (globalLoad_mapped hm hq hro)))
    exact ⟨t, u, hu⟩
  · exact State.store_completes hm ho hq hwf hp ((execStg_checked r).trans ((withCheck_ok _ (State.check_mapped hm fun _ => rfl) hc).trans
      (postStore_room (.inl (by cases e <;> rfl)) (by rw [hq.1]; decide))))
  · exact State.store_completes hm ho hq hwf hp ((execStgv_checked r z).trans ((withCheck_ok _ (State.check_mapped hm fun _ => rfl) hc).trans
      (postStore_room (.inr z) (by rw [hq.1]; decide))))
  · obtain ⟨t, u, hu, hres⟩ := State.load_completes hm ho hq z hp (execLdres_parks r.1 (.inr ⟨r, z⟩) (State.check_mapped hm (by simp)) hc
      (Slot.overlapping_quiet hq))
    refine ⟨t, u, hu, fun g hg => ?_⟩
    obtain ⟨g', hg'⟩ := List.length_eq_one_iff.mp hl
    have : g = g' := List.mem_singleton.mp (hg' ▸ hg)
    exact hres rfl g (this ▸ hg')
  · have hk := State.check_mapped (k := .atomic) (win := winAmo (some op) q.width false) hm fun _ => rfl
    rw [hg] at hk
    have hpk : Parks (.amo h op d a b q) s .globalLoad
        (.glob ⟨.amo op d q.width (s.me.rs b) q.scope, y, false, reqParts [g], [], none⟩) :=
      (guarded_runs h s _ r.1).trans (doAmo_parks (Slot.overlapping_quiet hq) hk hc)
    obtain ⟨t, u, he, hs, hpc, hmem, hd⟩ := State.atomic_completes (d := d) hm hg hq hp ho rfl hpk
    obtain ⟨-, hlen⟩ := State.placed_single hm hg
    rw [hlen] at hmem hd
    exact ⟨t, u, ⟨he, hs, hpc, hmem⟩, hd⟩
  · have hk := State.check_mapped (k := .atomic) (win := winAmo none q.width false) hm fun _ => rfl
    rw [hg] at hk
    have hpk : Parks (.amocas h d a b q) s .globalLoad
        (.glob ⟨.cas d q.width (s.me.rs d) (s.me.rs b) q.scope, y, false, reqParts [g], [], none⟩) :=
      (guarded_runs h s _ r.1).trans (doAmo_parks (Slot.overlapping_quiet hq) hk hc)
    obtain ⟨t, u, he, hs, hpc, hmem, hd⟩ := State.atomic_completes (d := d) hm hg hq hp ho rfl hpk
    obtain ⟨-, hlen⟩ := State.placed_single hm hg
    rw [hlen] at hmem hd
    refine ⟨t, u, ⟨he, hs, hpc, hmem.trans ?_⟩, hd⟩
    change (if s.mem.num g.pa k = (s.me.rs d).toNat % 2 ^ (8 * k) then s.mem.write g.pa (leBytes k (s.me.rs b).toNat) else s.mem) =
      s.mem.write g.pa (leBytes k (if s.mem.num g.pa k = (s.me.rs d).toNat % 2 ^ (8 * k) then (s.me.rs b).toNat else s.mem.num g.pa k))
    by_cases hcmp : s.mem.num g.pa k = (s.me.rs d).toNat % 2 ^ (8 * k)
    · rw [if_pos hcmp, if_pos hcmp]
    · rw [if_neg hcmp, if_neg hcmp, Memory.write_num _ _ _ hwf]
  · exact execAmox_completes r.1 hq hwf hp hw hm hg ho

/-- Settles O14: the checks in their order, then the access at the slot, then its parts at their home slices, one after another. -/
theorem globalAccesses : Obligations.GlobalAccesses := ⟨globalLoads, globalStores, globalAtomics, checkOrder, globalFaults, globalCompletions⟩

end Sys2Proof.Machine
end

section
/-! SUPPORT. Requests to the page tables and frame pools, and what performs them (04 R91-R97). -/

namespace Sys2Proof.Machine

/-! ## Walks and tables in states that agree on them -/

theorem State.walkFrom_congr {s t : State} (hm : t.mem = s.mem) (hp : t.poison = s.poison) (hs : t.settings = s.settings) (va : Nat)
    (ls : List Level) (b : Nat) : t.walkFrom va ls b = s.walkFrom va ls b := by
  have hc (n : Nat) (e : Word) : t.leafCheck n e = s.leafCheck n e := by
    unfold State.leafCheck State.ilvTop
    rw [hs]
  have hq (a n : Nat) : t.poisoned a n = s.poisoned a n := by
    unfold State.poisoned
    rw [hp]
  induction ls generalizing b with
  | nil => rfl
  | cons l ls ih =>
    rw [State.walkFrom, State.walkFrom]
    simp only [hm, hc, hq, ih]

theorem State.walk_congr {s t : State} (hm : t.mem = s.mem) (hp : t.poison = s.poison) (hs : t.settings = s.settings) (root : Word) (va : Nat) :
    t.walk root va = s.walk root va := State.walkFrom_congr hm hp hs va levels root.toNat

theorem State.leafCheck_cases (s : State) (n : Nat) (e : Word) :
    s.leafCheck n e = .fault 5 ∨ s.leafCheck n e = .sparse e ∨ s.leafCheck n e = .leaf e n := by
  unfold State.leafCheck
  dsimp only
  split
  · exact .inl rfl
  split
  · exact .inl rfl
  split
  · exact .inr (.inl rfl)
  split
  · exact .inl rfl
  split
  · exact .inl rfl
  split
  · exact .inl rfl
  · exact .inr (.inr rfl)

/-- A walk that ends in an uncommitted or committed page reads its entry there. -/
theorem State.walkFrom_entry {s : State} {va : Nat} {ls : List Level} {b : Nat} {e : Word} {ea : Nat} {r : Walk}
    (h : s.walkFrom va ls b = (r, ea)) (hr : r = .sparse e ∨ ∃ z, r = .leaf e z) : s.mem.word ea = e := by
  have notFault {c x : Nat} (hf : (Walk.fault c, x) = (r, ea)) : False := by
    obtain rfl := (Prod.mk.inj hf).1
    rcases hr with hr | ⟨z, hr⟩ <;> cases hr
  induction ls generalizing b with
  | nil => exact (notFault h).elim
  | cons l ls ih =>
    rw [State.walkFrom] at h
    split at h
    · exact (notFault h).elim
    split at h
    · exact (notFault h).elim
    split at h
    · exact (notFault h).elim
    split at h
    · obtain ⟨hc, rfl⟩ := Prod.mk.inj h
      rcases s.leafCheck_cases l.pages (s.mem.word (b + va / 2 ^ l.shift % l.entries * 8)) with e1 | e1 | e1
      · exact (notFault (e1 ▸ h)).elim
      · rw [e1] at hc
        rcases hr with hr | ⟨z, hr⟩
        · exact Walk.sparse.inj (hc.trans hr)
        · cases hc.trans hr
      · rw [e1] at hc
        rcases hr with hr | ⟨z, hr⟩
        · cases hc.trans hr
        · exact (Walk.leaf.inj (hc.trans hr)).1
    split at h
    · exact (notFault h).elim
    · exact ih h

theorem State.rootOf_mod {s : State} {f : Slot → Slot} (hh : (f s.me).hosting = s.me.hosting) : (s.mod f).rootOf s.cur = s.rootOf s.cur := by
  unfold State.rootOf State.launchOf
  rw [State.slot_mod_cur, hh, State.core_mod_launch]
  rfl

theorem State.rootOf_park (s : State) (r : Reason) (w : Wait) : (s.park r w).rootOf s.cur = s.rootOf s.cur := State.rootOf_mod rfl

/-! ## Requests performed -/

section
variable {s : State} {w : Who}

/-- A slot with nothing posted has nothing to wait for before a release. -/
theorem Slot.Quiet.released (q : (s.slot w).Quiet) : s.released (s.holdOf w) = true ∧ s.clean w = true := by
  obtain ⟨hs, ho, hi, hc⟩ := q
  have hd : s.storesDone (s.release w) = true := by
    unfold State.release State.storesDone
    rw [hc, List.filter_nil, List.all_cons, hs]
    rfl
  have ha (l : List Nat) (hl : l = []) : (s.slot w).idsDone l = true := by rw [hl]; rfl
  constructor
  · unfold State.released State.holdOf
    rw [hd, ha _ (by simp [Slot.postedIds, ho, hi])]
    rfl
  · unfold State.clean State.released State.holdNear
    rw [hd, ha _ (by simp [Slot.nearIds, ho, hi])]
    rfl

/-- A parked request that may be performed is performed, and its slot goes on. -/
theorem execParkReasonMet_sys {op : SysOp} (hw : (s.slot w).wait = .sys op) (hs : (s.slot w).state ≠ .spilled) (hr : (s.slot w).reply = none)
    (ho : s.sysReady w op = true) : exec (.parkReasonMet w) s = .next (s.sysPerform w op) := by
  change execParkReasonMet w s = _
  rw [execParkReasonMet]
  unfold State.unparked
  simp only [hs, if_false, hw, hr, ho, if_true]
  rfl

theorem State.takeFrame_nil {p : Fin 7} (h : s.pools[p] = []) : s.takeFrame p = none := by
  unfold State.takeFrame
  simp only [h, List.isEmpty_nil, if_true]

theorem State.takeFrame_one {p : Fin 7} {f : Nat} (h : s.pools[p] = [f]) : s.takeFrame p = some (f, { s with pools := s.pools.set p [] }) := by
  unfold State.takeFrame
  simp only [h]
  rfl

theorem State.freeFrame_new {f : Word} (ha : f.toNat % 32768 = 0) (hh : inHbm f.toNat = true) (hz : f ≠ 0) (hn : f.toNat ∉ s.pools[s.poolOf f.toNat]) :
    s.freeFrame f = (0, { s with pools := s.pools.set (s.poolOf f.toNat) (s.pools[s.poolOf f.toNat] ++ [f.toNat]) }) := by
  have hz' : f.toNat ≠ 0 := fun e => hz (BitVec.eq_of_toNat_eq e)
  unfold State.freeFrame State.addFrame
  simp only [ha, hh, hn, if_false, bne_self_eq_false, Bool.not_true, Bool.or_self, Bool.false_or, beq_eq_false_iff_ne.mpr hz', Bool.false_eq_true]

theorem State.freeFrame_bad {f : Word} (h : f.toNat % 32768 ≠ 0 ∨ inHbm f.toNat = false) : s.freeFrame f = (2, s) := by
  unfold State.freeFrame
  rcases h with h | h <;> simp [h]

theorem State.commitPage_high {root va x : Word} {st : Fin 6} (h : 2 ^ 48 ≤ va.toNat) : s.commitPage root va x st = (2, s) := if_pos h

theorem State.sysPerform_palloc {d : SReg} {p : Fin 7} : s.sysPerform w (.palloc d (Fin.castSucc p)) =
    (match s.takeFrame p with | some (f, s) => s.finish w fun sl => sl.ws d (BitVec.ofNat 64 f) | none => s.finish w fun sl => sl.ws d 0) := by
  have hp : (if h : (Fin.castSucc p).val < 7 then (⟨(Fin.castSucc p).val, h⟩ : Fin 7) else Fin.castLE (by omega) w.core.stack) = p :=
    dif_pos p.isLt
  unfold State.sysPerform State.allocFrame
  simp only [hp]
  cases s.takeFrame p with
  | none => rfl
  | some x => rfl

end

theorem pagePerformed : Claims.PagePerformed := by
  intro w d s hs hr hq done
  have hclean := hq.released.2
  have run {op : SysOp} (hw : (s.slot w).wait = .sys op) (ho : s.sysReady w op = true) := execParkReasonMet_sys hw hs hr ho
  refine ⟨fun p hw => ⟨fun hp => ?_, fun f hp => ?_⟩, fun f hw => ⟨fun hf => ?_, fun ha hh hz hn => ?_⟩, fun va x hv hw => ?_⟩
  · refine (run hw rfl).trans ?_
    rw [State.sysPerform_palloc, State.takeFrame_nil hp]
    rfl
  · refine (run hw rfl).trans ?_
    rw [State.sysPerform_palloc, State.takeFrame_one hp]
    rfl
  · refine (run hw hclean).trans ?_
    change Host.Outcome.next ((s.freeFrame f).2.finish w fun sl => sl.ws d (BitVec.ofNat 64 (s.freeFrame f).1)) = _
    rw [State.freeFrame_bad hf]
    rfl
  · refine (run hw hclean).trans ?_
    change Host.Outcome.next ((s.freeFrame f).2.finish w fun sl => sl.ws d (BitVec.ofNat 64 (s.freeFrame f).1)) = _
    rw [State.freeFrame_new ha hh hz hn]
    rfl
  · refine (run hw hclean).trans ?_
    unfold State.sysPerform
    simp only [State.commitPage_high hv]
    rfl

/-! ## Translations dropped -/

theorem foldl_keeps {α β : Type} {f : State → α → State} (p : State → β) (h : ∀ s a, p (f s a) = p s) (l : List α) (s : State) :
    p (l.foldl f s) = p s := by
  induction l generalizing s with
  | nil => rfl
  | cons a l ih => exact (ih (f s a)).trans (h s a)

/-- A table whose entries are changed one by one, each by what its key says. -/
theorem assocD_map {κ ν β : Type} [DecidableEq κ] (f : κ → ν → ν) (p : ν → β) (g : κ → β → β) (d : ν) (hp : ∀ k x, p (f k x) = g k (p x))
    (hd : ∀ k, g k (p d) = p d) (l : List (κ × ν)) (a : κ) : p (assocD (l.map fun x => (x.1, f x.1 x.2)) a d) = g a (p (assocD l a d)) := by
  induction l with
  | nil => exact (hd a).symm
  | cons x l ih =>
    obtain ⟨k, v⟩ := x
    rw [List.map_cons, assocD, assocD]
    split
    next e => rw [hp, e]
    next => exact ih

/-- What of a translation cache a drop keeps. -/
def tlbKeeps (root : Word) (page : Option Nat) (t : TlbEntry) : Bool :=
  !(decide (t.root = root) && (match page with
    | none => true
    | some p => decide (t.page ≤ p) && decide (p < t.page + t.size)))

/-- The core is one of those whose translations are dropped. -/
def hits (only : Option CoreId) (c : CoreId) : Bool := only.isNone || decide (only = some c)

/-- The first part of a drop: the cores' translation caches. -/
def State.dropCores (s : State) (only : Option CoreId) (root : Word) (page : Option Nat) : State :=
  { s with cores := s.cores.map fun (x : CoreId × Core) =>
      if hits only x.1 then (x.1, { x.2 with tlb := x.2.tlb.filter (tlbKeeps root page) }) else x }

/-- The second part: what walks have found for the slots. -/
def State.dropSlots (s : State) (only : Option CoreId) (root : Word) (page : Option Nat) : State :=
  s.allSlots.foldl (fun (s : State) (w : Who) =>
    if hits only w.core && decide (s.rootOf w = root) then s.modSlot w (·.dropWalks page) else s) s

section
variable (s : State) (only : Option CoreId) (root : Word) (page : Option Nat)

theorem State.dropTlb_eq : ∃ eng, s.dropTlb only root page = { (s.dropCores only root page).dropSlots only root page with engines := eng } := by
  cases only with
  | some c => exact ⟨((s.dropCores (some c) root page).dropSlots (some c) root page).engines, rfl⟩
  | none => exact ⟨_, rfl⟩

/-- A drop changes of a core its translation cache. -/
theorem State.core_dropCores (c : CoreId) : (s.dropCores only root page).core c =
    { s.core c with tlb := if hits only c then (s.core c).tlb.filter (tlbKeeps root page) else (s.core c).tlb } := by
  have hm : (s.dropCores only root page).cores = s.cores.map fun x =>
      (x.1, if hits only x.1 then { x.2 with tlb := x.2.tlb.filter (tlbKeeps root page) } else x.2) :=
    List.map_congr_left fun x _ => by split <;> rfl
  have := assocD_map (fun (c : CoreId) (k : Core) => if hits only c then { k with tlb := k.tlb.filter (tlbKeeps root page) } else k) id
    (fun c k => if hits only c then { k with tlb := k.tlb.filter (tlbKeeps root page) } else k) .reset (fun _ _ => rfl) (fun k => by
      dsimp only [id]
      split
      · rfl
      · rfl) s.cores c
  unfold State.core
  rw [hm]
  refine this.trans ?_
  dsimp only [id]
  split <;> rfl

theorem State.slot_dropCores (w : Who) : (s.dropCores only root page).slot w = s.slot w := by
  unfold State.slot
  rw [State.core_dropCores]

theorem State.foldl_dropWalks (l : List Who) (s : State) : let t := l.foldl (fun (s : State) (w : Who) =>
      if hits only w.core && decide (s.rootOf w = root) then s.modSlot w (·.dropWalks page) else s) s
    t = { s with cores := t.cores } ∧ (∀ c, (t.core c).tlb = (s.core c).tlb) ∧ ∀ w, ∃ ws, t.slot w = { s.slot w with walks := ws } := by
  induction l generalizing s with
  | nil => exact ⟨rfl, fun _ => rfl, fun w => ⟨(s.slot w).walks, rfl⟩⟩
  | cons v l ih =>
    have step : let t := if hits only v.core && decide (s.rootOf v = root) then s.modSlot v (·.dropWalks page) else s
        t = { s with cores := t.cores } ∧ (∀ c, (t.core c).tlb = (s.core c).tlb) ∧ ∀ w, ∃ ws, t.slot w = { s.slot w with walks := ws } := by
      dsimp only
      split
      · refine ⟨rfl, fun c => ?_, fun w => ?_⟩
        · by_cases hc : c = v.core
          · subst hc
            rw [State.core_modSlot_self]
          · rw [State.core_modSlot_ne _ _ _ _ hc]
        · by_cases hw : w = v
          · subst hw
            exact ⟨_, (s.slot_modSlot_self w _).trans rfl⟩
          · exact ⟨(s.slot w).walks, s.slot_modSlot_ne _ _ _ hw⟩
      · exact ⟨rfl, fun _ => rfl, fun w => ⟨(s.slot w).walks, rfl⟩⟩
    obtain ⟨h1, h2, h3⟩ := step
    obtain ⟨i1, i2, i3⟩ := ih (if hits only v.core && decide (s.rootOf v = root) then s.modSlot v (·.dropWalks page) else s)
    refine ⟨?_, fun c => (i2 c).trans (h2 c), fun w => ?_⟩
    · rw [List.foldl_cons]
      generalize (if hits only v.core && decide (s.rootOf v = root) then s.modSlot v (·.dropWalks page) else s) = u at h1 i1 ⊢
      generalize l.foldl _ u = z at i1 ⊢
      rw [i1, h1]
    · obtain ⟨x, hx⟩ := h3 w
      obtain ⟨y, hy⟩ := i3 w
      exact ⟨y, hy.trans (by rw [hx])⟩

/-- A drop changes nothing but translation caches and what walks have found. -/
theorem State.dropTlb_frame : let t := s.dropTlb only root page
    t = { s with cores := t.cores, engines := t.engines } ∧
    (∀ c, (t.core c).tlb = if hits only c then (s.core c).tlb.filter (tlbKeeps root page) else (s.core c).tlb) ∧
    ∀ w, ∃ ws, t.slot w = { s.slot w with walks := ws } := by
  obtain ⟨eng, e⟩ := s.dropTlb_eq only root page
  obtain ⟨h1, h2, h3⟩ := State.foldl_dropWalks only root page (s.dropCores only root page).allSlots (s.dropCores only root page)
  change (s.dropCores only root page).dropSlots only root page = _ at h1
  intro t
  refine ⟨?_, fun c => ?_, fun w => ?_⟩
  · rw [show t = _ from e, h1]
    rfl
  · rw [show t = _ from e]
    refine (h2 c).trans ?_
    rw [State.core_dropCores]
  · rw [show t = _ from e]
    obtain ⟨ws, hw⟩ := h3 w
    exact ⟨ws, hw.trans (by rw [State.slot_dropCores])⟩

end

end Sys2Proof.Machine
end

section
/-! SUPPORT. Commit, decommit, pools and translation control from their issue to their end (04 R91-R97). -/

namespace Sys2Proof.Machine

/-! ## What is kept by writes at the home slices, poisoned or not -/

/-- What a write at the home slices never touches: the running slot, the cores, the network. -/
def State.frontEnd (s : State) : Who × List (CoreId × Core) × List Flight := (s.cur, s.cores, s.net)

theorem State.raise_frontEnd (s : State) (k : EventKind) (die : DieId) (l : List Nat) : (s.raise k die l).frontEnd = s.frontEnd := by
  unfold State.raise State.queueEvents
  dsimp only
  split <;> rfl

theorem State.writeWord_frontEnd (s : State) (pa : Nat) (bs : List Byte) (thr : Bool) : (s.writeWord pa bs thr).frontEnd = s.frontEnd := by
  unfold State.writeWord
  dsimp only
  split
  · exact State.raise_frontEnd ..
  · rfl

theorem State.gwrite_frontEnd (s : State) (pa : Nat) (bs : List Byte) (thr : Bool) : (s.gwrite pa bs thr).frontEnd = s.frontEnd := by
  unfold State.gwrite
  dsimp only
  rw [foldl_keeps State.frontEnd (fun s l => by rfl), foldl_keeps State.frontEnd fun s p => State.writeWord_frontEnd s _ _ _]

theorem State.frontEnd_eq {s t : State} (h : t.frontEnd = s.frontEnd) : t.cur = s.cur ∧ t.cores = s.cores ∧ t.net = s.net := by
  obtain ⟨h1, h2⟩ := Prod.mk.inj h
  exact ⟨h1, Prod.mk.inj h2⟩

theorem leNat_leBytes (n x : Nat) : leNat (leBytes n x) = x % 256 ^ n := by
  induction n generalizing x with
  | zero => rw [Nat.pow_zero, Nat.mod_one]; rfl
  | succ n ih =>
    rw [leBytes, leNat, ih, BitVec.toNat_ofNat]
    exact (Nat.mod_mul (x := x) (a := 256) (b := 256 ^ n)).symm.trans (by rw [Nat.pow_succ'])

/-- A word written is the word read. -/
theorem Memory.word_write (m : Memory) (a : Nat) (x : Word) (h : m.wf = true) : (m.write a (leBytes 8 x.toNat)).word a = x := by
  have hr := Memory.read_write_self m a (leBytes 8 x.toNat) h
  rw [leBytes_length] at hr
  rw [Memory.word, Memory.num, hr, leNat_leBytes]
  exact BitVec.eq_of_toNat_eq (by rw [BitVec.toNat_ofNat]; omega)

/-! ## Accesses in flight (04 R78) -/

/-- Nothing is in flight but what the slots have queued. -/
def InFlight.onlyStores (f : InFlight) : Prop := f.loads = [] ∧ f.remote = [] ∧ f.copies = []

theorem State.Still.of_slots {s t : State} (h : s.Still) (hn : t.net = s.net) (hs : ∀ w, ∃ ws, t.slot w = { s.slot w with walks := ws }) : t.Still := by
  refine ⟨hn.trans h.1, fun w => ?_⟩
  obtain ⟨ws, hw⟩ := hs w
  rw [hw]
  exact h.2 w

theorem State.Still.inFlight {s : State} (h : s.Still) : s.inFlight.onlyStores := by
  refine ⟨?_, ?_, ?_⟩
  · change List.map _ (s.allSlots.filter _) = []
    rw [List.filter_eq_nil_iff.mpr fun w _ => by simp [(h.2 w).2.1], List.map_nil]
  · change s.net.filterMap _ = []
    rw [h.1, List.filterMap_nil]
  · change (s.allSlots.map _).flatten = []
    refine List.flatten_eq_nil_iff.mpr fun l hl => ?_
    obtain ⟨w, -, rfl⟩ := List.mem_map.mp hl
    rw [List.filter_eq_nil_iff.mpr fun o ho => by simp [(h.2 w).2.2 o ho], List.map_nil]

theorem State.landed_of_empty {t : State} {f : InFlight} (hf : f.onlyStores) (hq : ∀ w, (t.slot w).storeQ = []) : t.landed f = true := by
  obtain ⟨hl, hr, hc⟩ := hf
  unfold State.landed
  simp only [hl, hr, hc, List.all_nil, Bool.and_true, List.all_eq_true]
  intro x _ e he
  rw [hq] at he
  exact absurd he List.not_mem_nil

theorem State.storeQ_park {s : State} {r : Reason} {x : Wait} (h : ∀ w, (s.slot w).storeQ = []) (w : Who) : ((s.park r x).slot w).storeQ = [] := by
  by_cases hw : w = s.cur
  · subst hw
    rw [State.slot_park]
    exact h s.cur
  · exact (congrArg Slot.storeQ (State.slot_mod_ne s (fun sl => sl.park r x s.rot) w hw)).trans (h w)

theorem State.slot_park_like {s u : State} {r : Reason} {x : Wait} (h : u.cur = s.cur) : (u.park r x).slot s.cur = (u.slot s.cur).park r x u.rot := by
  rw [← h]
  exact State.slot_park u r x

/-! ## Decommit (04 R92) -/

/-- The entry a `decommit` clears: that of a committed page. -/
def State.committedAt (s : State) (root : Word) (va : Nat) : Option (Word × Nat) :=
  if 2 ^ 48 ≤ va then none else
    match s.walk root va with
    | (.leaf e 1, ea) => if e.getLsbD 61 then some (e, ea) else none
    | _ => none

/-- The module after `decommit` has cleared an entry and dropped the page's translations. -/
def State.uncommit (s : State) (e : Word) (ea va : Nat) : State :=
  ((s.gwrite ea (leBytes 8 (e &&& 0xEFFFFFFFFFFFFFFF#64).toNat) false).roFresh s.cur.core s.mem).dropTlb none (s.rootOf s.cur) (some (va / 32768))

section
variable {h : Hdr} {s : State} {d a : SReg} {off : BitVec 41}

theorem State.uncommit_frame (s : State) (e : Word) (ea va : Nat) : (s.uncommit e ea va).cur = s.cur ∧ (s.uncommit e ea va).net = s.net ∧
    ∀ w, ∃ ws, (s.uncommit e ea va).slot w = { s.slot w with walks := ws } := by
  have hg := State.frontEnd_eq (s.gwrite_frontEnd ea (leBytes 8 (e &&& 0xEFFFFFFFFFFFFFFF#64).toNat) false)
  rw [State.uncommit]
  generalize s.gwrite ea (leBytes 8 (e &&& 0xEFFFFFFFFFFFFFFF#64).toNat) false = u at hg
  obtain ⟨hc, hk, hn⟩ := hg
  have hd := State.dropTlb_frame (u.roFresh s.cur.core s.mem) none (s.rootOf s.cur) (some (va / 32768))
  generalize (u.roFresh s.cur.core s.mem).dropTlb none (s.rootOf s.cur) (some (va / 32768)) = t at hd
  obtain ⟨ht, -, hw⟩ := hd
  refine ⟨by rw [ht]; exact hc, by rw [ht]; exact hn, fun w => ?_⟩
  obtain ⟨ws, e⟩ := hw w
  exact ⟨ws, e.trans (by rw [State.roFresh, State.slot_modCore rfl w, State.slot_congr hk])⟩

theorem State.uncommit_mem {s : State} (hp : s.poison = []) (hwf : s.mem.wf = true) (e : Word) (ea va : Nat) :
    (s.uncommit e ea va).mem.word ea = e &&& 0xEFFFFFFFFFFFFFFF#64 := by
  have hd := (State.dropTlb_frame ((s.gwrite ea (leBytes 8 (e &&& 0xEFFFFFFFFFFFFFFF#64).toNat) false).roFresh s.cur.core s.mem)
    none (s.rootOf s.cur) (some (va / 32768))).1
  rw [State.uncommit, hd]
  refine Eq.trans (congrArg (fun m : Memory => m.word ea) (State.gwrite_healthy hp _ _ _).2.1) (Memory.word_write _ _ _ hwf)

theorem State.committedAt_some {root e : Word} {va ea : Nat} (hv : va < 2 ^ 48) (hw : s.walk root va = (.leaf e 1, ea)) (he : e.getLsbD 61 = true) :
    s.committedAt root va = some (e, ea) := by
  unfold State.committedAt
  simp only [Nat.not_le.mpr hv, if_false, hw, he, if_true]

theorem execDecommit_eq (r : AtHome h s) : exec (.decommit h d a off) s =
    (match s.committedAt (s.rootOf s.cur) (s.me.rs a + off.signExtend 64).toNat with
    | none => .next (s.park .fence (.sys (.decommit d 0 ⟨[], [], [], []⟩)))
    | some (e, ea) => .next ((s.uncommit e ea (s.me.rs a + off.signExtend 64).toNat).park .fence
        (.sys (.decommit d (frameOf e) (s.uncommit e ea (s.me.rs a + off.signExtend 64).toNat).inFlight)))) :=
  (homeOnly_runs h s _ _ _ r).trans rfl

end

theorem pageRequests : Claims.PageRequests := by
  intro h d a b off s r
  refine ⟨homeOnly_runs h s _ _ _ r, homeOnly_runs h s _ _ _ r, homeOnly_runs h s _ _ _ r, fun hv => ?_, fun e ea hv he hw => ?_⟩
  · refine (execDecommit_eq r).trans ?_
    rw [State.committedAt, if_pos hv]
  · obtain ⟨hc, -, hs⟩ := s.uncommit_frame e ea (s.me.rs a + off.signExtend 64).toNat
    obtain ⟨ws, hm⟩ := hs s.cur
    refine ⟨_, (s.uncommit e ea (s.me.rs a + off.signExtend 64).toNat).inFlight, (execDecommit_eq r).trans (by rw [State.committedAt_some hv hw he]), ?_, ?_⟩
    · rw [State.slot_park_like hc]
      rfl
    · rw [State.slot_park_like hc, hm]
      rfl

/-- The module after `tlbinv` has dropped its translations. -/
def State.invalidated (s : State) (mdl : Bool) (page : Option Nat) : State :=
  s.dropTlb (if mdl then none else some s.cur.core) (s.rootOf s.cur) page

theorem State.invalidated_frame (s : State) (mdl : Bool) (page : Option Nat) : (s.invalidated mdl page).cur = s.cur ∧
    (s.invalidated mdl page).net = s.net ∧ ((s.invalidated mdl page).core s.cur.core).tlb = s.myCore.tlb.filter (tlbKeeps (s.rootOf s.cur) page) ∧
    ∀ w, ∃ ws, (s.invalidated mdl page).slot w = { s.slot w with walks := ws } := by
  obtain ⟨ht, hk, hw⟩ := s.dropTlb_frame (if mdl then none else some s.cur.core) (s.rootOf s.cur) page
  rw [State.invalidated]
  generalize s.dropTlb (if mdl then none else some s.cur.core) (s.rootOf s.cur) page = t at ht hk hw ⊢
  refine ⟨by rw [ht], by rw [ht], (hk s.cur.core).trans (if_pos ?_), hw⟩
  cases mdl with
  | false => simp [hits]
  | true => rfl

theorem execTlbinv_eq {h : Hdr} {s : State} {a : SReg} {off : BitVec 41} (r : AtHome h s) (all mdl : Bool) : ∃ u, u = s.invalidated mdl
    (if all then none else some ((s.me.rs a + off.signExtend 64).toNat / 32768)) ∧ ∃ fl,
      exec (.tlbinv h all mdl a off) s = .next (u.park .fence (.sys (.tlbinv fl))) ∧ (s.Still → fl.onlyStores) := by
  refine ⟨_, rfl, _, homeOnly_runs h s _ _ _ r, fun hst => ?_⟩
  obtain ⟨-, hn, -, hw⟩ := s.invalidated_frame mdl (if all then none else some ((s.me.rs a + off.signExtend 64).toNat / 32768))
  obtain ⟨hl, hr, hc⟩ := (hst.of_slots hn hw).inFlight
  refine ⟨?_, ?_, ?_⟩
  · exact (congrArg (List.filter _) hl).trans rfl
  · exact (congrArg (fun l => if mdl then l else []) hr).trans (ite_self _)
  · exact (congrArg (List.filter _) hc).trans rfl

theorem State.tlb_park (s : State) (r : Reason) (x : Wait) (c : CoreId) : ((s.park r x).core c).tlb = (s.core c).tlb := by
  by_cases hc : c = s.cur.core
  · rw [hc]
    exact (congrArg Core.tlb (State.core_modSlot_self s s.cur fun sl => sl.park r x s.rot)).trans rfl
  · exact congrArg Core.tlb (State.core_modSlot_ne _ _ _ _ hc)

theorem tlbKeeps_all {root : Word} {t : TlbEntry} : tlbKeeps root none t = true ↔ t.root ≠ root := by simp [tlbKeeps]

theorem execWback_parks {h : Hdr} {s : State} {a : SReg} {off : BitVec 41} {pg : Bool} {g : Seg} {gs : List Seg} (r : AtHome h s)
    (hc : s.check s.cur (s.me.rs a + off.signExtend 64) 1 .load 1 false = (s, .ok (g :: gs))) :
    let n := if pg then g.size * 32768 else 128
    Parks (.wback h pg a off) s .fence (.sys (.wback (g.pa / n * n) n)) := by
  intro n
  refine (homeOnly_runs h s _ _ _ r).trans ?_
  simp only [hc]
  rfl

theorem translationControl : Claims.TranslationControl := by
  intro h d a off pg mdl s r
  refine ⟨guarded_runs h s _ r, fun g => ⟨?_, ?_, fun x xs hc => ?_, fun ps hc => ?_⟩⟩
  · obtain ⟨u, rfl, fl, he, -⟩ := execTlbinv_eq (a := a) (off := off) ⟨r, g⟩ true mdl
    obtain ⟨hu, -, hk, -⟩ := s.invalidated_frame mdl none
    refine ⟨_, fl, he, congrArg Slot.wait (State.slot_park_like hu), fun e hm => ?_⟩
    rw [State.tlb_park] at hm
    exact tlbKeeps_all.mp (List.mem_filter.mp (hk ▸ hm)).2
  · obtain ⟨u, rfl, fl, he, -⟩ := execTlbinv_eq (a := a) (off := off) ⟨r, g⟩ false mdl
    obtain ⟨hu, -, hk, -⟩ := s.invalidated_frame mdl (some ((s.me.rs a + off.signExtend 64).toNat / 32768))
    refine ⟨_, fl, he, congrArg Slot.wait (State.slot_park_like hu), fun e => ?_⟩
    rw [State.tlb_park]
    refine (iff_of_eq (congrArg (e ∈ ·) hk)).trans (List.mem_filter.trans (and_congr_right fun _ => ?_))
    simp only [tlbKeeps, Bool.not_eq_true', Bool.and_eq_false_iff, decide_eq_false_iff_not, Classical.not_and_iff_not_or_not]
  · exact execWback_parks ⟨r, g⟩ hc
  · refine (homeOnly_runs h s _ _ _ ⟨r, g⟩).trans ?_
    simp only [hc]
    rfl

end Sys2Proof.Machine
end

section
/-! SUPPORT. Commit, decommit, pools and translation control complete (04 R91-R97). -/

namespace Sys2Proof.Machine

/-! ## A request performed once its slot has parked -/

theorem State.finish_pc {s : State} {w : Who} {f : Slot → Slot} (hf : ∀ sl, (f sl).pc = sl.pc) : ((s.finish w f).slot w).pc = (s.slot w).pc + 1 := by
  rw [State.finish, State.slot_modSlot_self, Slot.next_pc, hf, Slot.unpark_pc]

theorem State.finish_rs {s : State} {w : Who} {d : SReg} {x : Word} (hd : d ≠ 0) : ((s.finish w fun sl => sl.ws d x).slot w).rs d = x := by
  rw [State.finish, State.slot_modSlot_self, Slot.rs_next, Slot.rs_ws _ _ _ hd]

theorem State.park_pc (s : State) (r : Reason) (x : Wait) : ((s.park r x).slot s.cur).pc = s.me.pc := by
  rw [State.slot_park, Slot.park_pc]

theorem sys_completes {s u X : State} {i : Instr} {r : Reason} {op : SysOp} {f : Slot → Slot} (he : exec i s = .next (u.park r (.sys op)))
    (hu : u.cur = s.cur) (ho : (u.park r (.sys op)).sysReady s.cur op = true)
    (hx : (u.park r (.sys op)).sysPerform s.cur op = X.finish s.cur f) (hf : ∀ sl, (f sl).pc = sl.pc) (hp : (X.slot s.cur).pc = s.me.pc) :
    exec i s = .next (u.park r (.sys op)) ∧ exec (.parkReasonMet s.cur) (u.park r (.sys op)) = .next (X.finish s.cur f) ∧
      ((X.finish s.cur f).slot s.cur).pc = s.me.pc + 1 := by
  have hs := State.slot_park_like (r := r) (x := .sys op) hu
  refine ⟨he, (execParkReasonMet_sys (by rw [hs]; rfl) ?_ (by rw [hs]; rfl) ho).trans (congrArg _ hx), (State.finish_pc hf).trans (by rw [hp])⟩
  rw [hs]
  exact Slot.park_not_spilled _ _ _ _

/-- A slot with nothing posted is clean when it parks. -/
theorem State.clean_park {s : State} (q : s.me.Quiet) (r : Reason) (x : Wait) : (s.park r x).clean s.cur = true :=
  (Slot.Quiet.released (w := s.cur) (by rw [State.slot_park]; exact q)).2

/-! ## Commit -/

section
variable {s : State} {root va x e : Word} {st : Fin 6} {ea : Nat}

theorem State.commitPage_frame (hv : va.toNat < 2 ^ 48) (hw : s.walk root va.toNat = (.sparse e, ea)) (hx : x ≠ 0) (hn : x ≠ 0xFFFFFFFFFFFFFFFF)
    (ha : x.toNat % 32768 = 0) (hh : inHbm x.toNat = true) (hi : e.getLsbD 52 = decide (x.toNat < s.ilvTop)) :
    s.commitPage root va x st = (0, (s.setCommit ea x.toNat).dropPend root (va.toNat / 32768)) := by
  unfold State.commitPage
  simp only [Nat.not_le.mpr hv, if_false, hw, hx, hn, ha, hh, hi, bne_self_eq_false, Bool.not_true, Bool.or_self, Bool.false_eq_true]

theorem State.commitPage_pool (hv : va.toNat < 2 ^ 48) (hw : s.walk root va.toNat = (.sparse e, ea)) :
    s.commitPage root va 0 st = (match s.takeFrame (poolFor e st) with
      | none => (3, s)
      | some (f, s) => (0, ((s.zeroFrame f).setCommit ea f).dropPend root (va.toNat / 32768))) := by
  unfold State.commitPage
  simp only [Nat.not_le.mpr hv, if_false, hw]
  rfl

theorem State.commitPage_committed (hv : va.toNat < 2 ^ 48) (hw : s.walk root va.toNat = (.leaf e 1, ea)) (he : e.getLsbD 61 = true) :
    s.commitPage root va x st = (1, s) := by
  unfold State.commitPage
  simp only [Nat.not_le.mpr hv, if_false, hw, he, if_true]

theorem State.setCommit_frame (hp : s.poison = []) (f : Nat) : s.ButData (s.setCommit ea f) := (State.gwrite_healthy hp _ _ _).1

theorem State.setCommit_word (hp : s.poison = []) (hwf : s.mem.wf = true) (f : Nat) : (s.setCommit ea f).mem.word ea =
    (s.mem.word ea &&& 0xEFFFFFF000000000#64) ||| 0x1000000000000000#64 ||| BitVec.ofNat 64 (f / 256) := by
  rw [State.setCommit, (State.gwrite_healthy hp _ _ _).2.1, Memory.word_write _ _ _ hwf]

theorem State.slot_roFresh (s : State) (c : CoreId) (m : Memory) (w : Who) : (s.roFresh c m).slot w = s.slot w := State.slot_modCore rfl w

/-- A commit performed answers its code; where the code is 0, the core's read-only cache has dropped the entry. -/
theorem State.sysPerform_commit {t : State} {w : Who} {d : SReg} {n : Nat} (h : s.commitPage (s.rootOf w) va x w.core.stack = (n, t)) :
    s.sysPerform w (.commit d va x) = (if n = 0 then t.roFresh w.core s.mem else t).finish w fun sl => sl.ws d (BitVec.ofNat 64 n) := by
  unfold State.sysPerform
  simp only [h]

end

section
variable {h : Hdr} {s : State} {d a b : SReg} {off : BitVec 41}

/-- The module once the slot has parked with its request to commit. -/
def State.committing (s : State) (d a b : SReg) (off : BitVec 41) : State :=
  s.park .globalLoad (.sys (.commit d (s.me.rs a + off.signExtend 64) (s.me.rs b)))

theorem State.committing_pc (s : State) (d a b : SReg) (off : BitVec 41) : ((s.committing d a b off).slot s.cur).pc = s.me.pc := by
  rw [State.committing, State.slot_park, Slot.park_pc]

theorem State.walk_committing {s : State} {d a b : SReg} {off : BitVec 41} {root : Word} {va : Nat} {r : Walk × Nat} (h : s.walk root va = r) :
    (s.committing d a b off).walk root va = r := (State.walk_congr rfl rfl rfl _ _).trans h

/-- A commit at its slot, from what performing it does. -/
theorem commit_completes (r : AtHome h s) (q : s.me.Quiet) {n : Nat} {X : State}
    (hc : (s.committing d a b off).commitPage (s.rootOf s.cur)
      (s.me.rs a + off.signExtend 64) (s.me.rs b) s.cur.core.stack = (n, X)) (hp : (X.slot s.cur).pc = s.me.pc) :
    ∃ t u, (exec (.commit h d a b off) s = .next t ∧ exec (.parkReasonMet s.cur) t = .next u ∧ (u.slot s.cur).pc = s.me.pc + 1) ∧
      (d ≠ 0 → (u.slot s.cur).rs d = BitVec.ofNat 64 n) ∧ u.mem = X.mem ∧ u.pools = X.pools := by
  rw [← s.rootOf_park .globalLoad (.sys (.commit d (s.me.rs a + off.signExtend 64) (s.me.rs b)))] at hc
  refine ⟨_, _, sys_completes (homeOnly_runs h s _ _ _ r) rfl (State.clean_park q ..) (State.sysPerform_commit hc) (fun sl => Slot.ws_pc sl _ _) ?_,
    State.finish_rs, ?_, ?_⟩
  · split
    · rwa [State.slot_roFresh]
    · exact hp
  · split <;> rfl
  · split <;> rfl

theorem commit_placed (r : AtHome h s) (q : s.me.Quiet) (hwf : s.mem.wf = true) (hp : s.poison = []) {e : Word} {ea : Nat}
    (hv : (s.me.rs a + off.signExtend 64).toNat < 2 ^ 48) (hw : s.walk (s.rootOf s.cur) (s.me.rs a + off.signExtend 64).toNat = (.sparse e, ea))
    (hx : s.me.rs b ≠ 0) (hn : s.me.rs b ≠ 0xFFFFFFFFFFFFFFFF) (ha : (s.me.rs b).toNat % 32768 = 0) (hh : inHbm (s.me.rs b).toNat = true)
    (hi : e.getLsbD 52 = decide ((s.me.rs b).toNat < s.ilvTop)) :
    ∃ t u, (exec (.commit h d a b off) s = .next t ∧ exec (.parkReasonMet s.cur) t = .next u ∧ (u.slot s.cur).pc = s.me.pc + 1) ∧
      (d ≠ 0 → (u.slot s.cur).rs d = 0) ∧
      u.mem.word ea = (e &&& 0xEFFFFFF000000000#64) ||| 0x1000000000000000#64 ||| BitVec.ofNat 64 ((s.me.rs b).toNat / 256) := by
  obtain ⟨t, u, he, hd, hm, -⟩ := commit_completes (d := d) (off := off) r q (State.commitPage_frame hv
    (State.walk_committing hw) hx hn ha hh hi)
    ((congrArg Slot.pc (State.slot_congr (State.setCommit_frame (s := s.committing d a b off) hp (s.me.rs b).toNat).cores s.cur)).trans
      (s.committing_pc d a b off))
  refine ⟨t, u, he, hd, ?_⟩
  rw [hm]
  refine (State.setCommit_word (s := s.committing d a b off) hp hwf _).trans ?_
  rw [State.walkFrom_entry (State.walk_committing hw) (.inl rfl)]

theorem commit_pooled (r : AtHome h s) (q : s.me.Quiet) (hp : s.poison = []) {e : Word} {ea f : Nat}
    (hv : (s.me.rs a + off.signExtend 64).toNat < 2 ^ 48) (hw : s.walk (s.rootOf s.cur) (s.me.rs a + off.signExtend 64).toNat = (.sparse e, ea))
    (hx : s.me.rs b = 0) (hf : s.pools[poolFor e s.cur.core.stack] = [f]) :
    ∃ t u, (exec (.commit h d a b off) s = .next t ∧ exec (.parkReasonMet s.cur) t = .next u ∧ (u.slot s.cur).pc = s.me.pc + 1) ∧
      (d ≠ 0 → (u.slot s.cur).rs d = 0) ∧ u.pools[poolFor e s.cur.core.stack] = [] := by
  have hb := State.setCommit_frame (s := ({ s.committing d a b off with pools := s.pools.set (poolFor e s.cur.core.stack) [] } : State).zeroFrame f)
    (ea := ea) ((congrArg (List.filter _) hp).trans rfl) f
  have hc : (s.committing d a b off).commitPage (s.rootOf s.cur) (s.me.rs a + off.signExtend 64) (s.me.rs b) s.cur.core.stack =
      (0, ((({ s.committing d a b off with pools := s.pools.set (poolFor e s.cur.core.stack) [] } : State).zeroFrame f).setCommit ea f).dropPend
        (s.rootOf s.cur) ((s.me.rs a + off.signExtend 64).toNat / 32768)) := by
    rw [hx, State.commitPage_pool hv (State.walk_committing hw), State.takeFrame_one (s := s.committing d a b off) hf]
    rfl
  obtain ⟨t, u, he, hd, -, hl⟩ := commit_completes r q hc ((congrArg Slot.pc (State.slot_congr hb.cores s.cur)).trans (s.committing_pc d a b off))
  refine ⟨t, u, he, hd, ?_⟩
  have hpl := congrArg State.pools hb
  rw [hl]
  exact (congrArg (·[poolFor e s.cur.core.stack]) hpl).trans (Vector.getElem_set_self ..)

theorem commit_starved (r : AtHome h s) (q : s.me.Quiet) {e : Word} {ea : Nat}
    (hv : (s.me.rs a + off.signExtend 64).toNat < 2 ^ 48) (hw : s.walk (s.rootOf s.cur) (s.me.rs a + off.signExtend 64).toNat = (.sparse e, ea))
    (hx : s.me.rs b = 0) (hf : s.pools[poolFor e s.cur.core.stack] = []) :
    ∃ t u, (exec (.commit h d a b off) s = .next t ∧ exec (.parkReasonMet s.cur) t = .next u ∧ (u.slot s.cur).pc = s.me.pc + 1) ∧
      (d ≠ 0 → (u.slot s.cur).rs d = 3) ∧ u.mem = s.mem := by
  obtain ⟨t, u, he, hd, hm, -⟩ := commit_completes (a := a) (d := d) (off := off) r q (n := 3) (X := s.committing d a b off)
    (by rw [hx, State.commitPage_pool hv (State.walk_committing hw), State.takeFrame_nil (s := s.committing d a b off) hf]) (s.committing_pc d a b off)
  exact ⟨t, u, he, hd, hm⟩

theorem commit_again (r : AtHome h s) (q : s.me.Quiet) {e : Word} {ea : Nat}
    (hv : (s.me.rs a + off.signExtend 64).toNat < 2 ^ 48) (hw : s.walk (s.rootOf s.cur) (s.me.rs a + off.signExtend 64).toNat = (.leaf e 1, ea))
    (he : e.getLsbD 61 = true) :
    ∃ t u, (exec (.commit h d a b off) s = .next t ∧ exec (.parkReasonMet s.cur) t = .next u ∧ (u.slot s.cur).pc = s.me.pc + 1) ∧
      (d ≠ 0 → (u.slot s.cur).rs d = 1) ∧ u.mem = s.mem := by
  obtain ⟨t, u, he, hd, hm, -⟩ := commit_completes (a := a) (b := b) (d := d) (off := off) r q
    (State.commitPage_committed hv (State.walk_committing hw) he) (s.committing_pc d a b off)
  exact ⟨t, u, he, hd, hm⟩

theorem State.sysPerform_decommit (s : State) (w : Who) (d : SReg) (f : Nat) (fl : InFlight) : s.sysPerform w (.decommit d f fl) =
    (if f = 0 then s else (s.dropFrame f).roFresh w.core s.mem).finish w fun sl => sl.ws d (BitVec.ofNat 64 f) := rfl

/-- A decommit completes at once where nothing is in flight. -/
theorem decommit_completes (r : AtHome h s) (hst : s.Still) (hwf : s.mem.wf = true) (hp : s.poison = []) {e : Word} {ea : Nat}
    (hv : (s.me.rs a + off.signExtend 64).toNat < 2 ^ 48) (hw : s.walk (s.rootOf s.cur) (s.me.rs a + off.signExtend 64).toNat = (.leaf e 1, ea))
    (he : e.getLsbD 61 = true) :
    ∃ t u, (exec (.decommit h d a off) s = .next t ∧ exec (.parkReasonMet s.cur) t = .next u ∧ (u.slot s.cur).pc = s.me.pc + 1) ∧
      (d ≠ 0 → (u.slot s.cur).rs d = BitVec.ofNat 64 (frameOf e)) ∧ t.mem.word ea = e &&& 0xEFFFFFFFFFFFFFFF#64 := by
  have hex : exec (.decommit h d a off) s = .next ((s.uncommit e ea (s.me.rs a + off.signExtend 64).toNat).park .fence
      (.sys (.decommit d (frameOf e) (s.uncommit e ea (s.me.rs a + off.signExtend 64).toNat).inFlight))) :=
    (execDecommit_eq r).trans (by rw [State.committedAt_some hv hw he])
  obtain ⟨hc, hn, hs⟩ := s.uncommit_frame e ea (s.me.rs a + off.signExtend 64).toNat
  have hm := State.uncommit_mem hp hwf e ea (s.me.rs a + off.signExtend 64).toNat
  generalize s.uncommit e ea (s.me.rs a + off.signExtend 64).toNat = t at hex hc hn hs hm
  have hts := hst.of_slots hn hs
  obtain ⟨ws, hsl⟩ := hs s.cur
  have hpc : ((t.park .fence (.sys (.decommit d (frameOf e) t.inFlight))).slot s.cur).pc = s.me.pc := by
    rw [State.slot_park_like hc, hsl]
    rfl
  have ho := State.landed_of_empty hts.inFlight (State.storeQ_park (r := .fence) (x := .sys (.decommit d (frameOf e) t.inFlight)) fun w => (hts.2 w).1)
  refine ⟨_, _, sys_completes hex hc ho (State.sysPerform_decommit ..) (fun sl => Slot.ws_pc sl _ _) ?_, State.finish_rs, hm⟩
  generalize t.park .fence (.sys (.decommit d (frameOf e) t.inFlight)) = p at hpc ⊢
  show (State.slot (if frameOf e = 0 then p else (p.dropFrame (frameOf e)).roFresh s.cur.core p.mem) s.cur).pc = _
  split
  · exact hpc
  · exact (congrArg Slot.pc (State.slot_roFresh ..)).trans hpc

theorem palloc_completes (r : AtHome h s) {p : Fin 7} (hp : (s.me.rs a).toNat % 8 = p.val) :
    (∀ f, s.pools[p] = [f] → ∃ t u, (exec (.palloc h d a) s = .next t ∧ exec (.parkReasonMet s.cur) t = .next u ∧
      (u.slot s.cur).pc = s.me.pc + 1) ∧ (d ≠ 0 → (u.slot s.cur).rs d = BitVec.ofNat 64 f) ∧ u.pools[p] = []) ∧
    (s.pools[p] = [] → ∃ t u, (exec (.palloc h d a) s = .next t ∧ exec (.parkReasonMet s.cur) t = .next u ∧
      (u.slot s.cur).pc = s.me.pc + 1) ∧ (d ≠ 0 → (u.slot s.cur).rs d = 0)) := by
  have hsel : Fin.ofNat 8 (s.me.rs a).toNat = Fin.castSucc p := Fin.ext hp
  have hex : Parks (.palloc h d a) s .globalLoad (.sys (.palloc d (Fin.castSucc p))) := by
    rw [← hsel]
    exact homeOnly_runs h s _ _ _ r
  refine ⟨fun f hf => ⟨_, _, sys_completes (X := { s.park .globalLoad (.sys (.palloc d (Fin.castSucc p))) with pools := s.pools.set p [] }) hex rfl rfl ?_
    (fun sl => Slot.ws_pc sl _ _) (s.park_pc ..), State.finish_rs, ?_⟩, fun hf => ⟨_, _, sys_completes (X := s.park .globalLoad (.sys (.palloc d (Fin.castSucc p)))) hex rfl rfl ?_
    (fun sl => Slot.ws_pc sl _ _) (s.park_pc ..), State.finish_rs⟩⟩
  · rw [State.sysPerform_palloc, State.takeFrame_one (s := s.park .globalLoad (.sys (.palloc d (Fin.castSucc p)))) hf]
    rfl
  · exact Vector.getElem_set_self ..
  · rw [State.sysPerform_palloc, State.takeFrame_nil (s := s.park .globalLoad (.sys (.palloc d (Fin.castSucc p)))) hf]

theorem pfree_completes (r : AtHome h s) (q : s.me.Quiet) (ha : (s.me.rs a).toNat % 32768 = 0) (hh : inHbm (s.me.rs a).toNat = true)
    (hz : (s.me.rs a).toNat ≠ 0) (hn : (s.me.rs a).toNat ∉ s.pools[s.poolOf (s.me.rs a).toNat]) :
    ∃ t u, (exec (.pfree h d a) s = .next t ∧ exec (.parkReasonMet s.cur) t = .next u ∧ (u.slot s.cur).pc = s.me.pc + 1) ∧
      (d ≠ 0 → (u.slot s.cur).rs d = 0) ∧
      u.pools[s.poolOf (s.me.rs a).toNat] = s.pools[s.poolOf (s.me.rs a).toNat] ++ [(s.me.rs a).toNat] := by
  have hz' : s.me.rs a ≠ 0 := fun e => hz (by rw [e]; rfl)
  refine ⟨_, _, sys_completes (X := { s.park .globalLoad (.sys (.pfree d (s.me.rs a))) with
    pools := s.pools.set (s.poolOf (s.me.rs a).toNat) (s.pools[s.poolOf (s.me.rs a).toNat] ++ [(s.me.rs a).toNat]) }) (homeOnly_runs h s _ _ _ r) rfl
    (State.clean_park q ..) ?_ (fun sl => Slot.ws_pc sl d 0) (s.park_pc ..), State.finish_rs, Vector.getElem_set_self ..⟩
  exact (congrArg (fun x : Nat × State => x.2.finish s.cur fun sl => sl.ws d (BitVec.ofNat 64 x.1))
    (State.freeFrame_new (s := s.park .globalLoad (.sys (.pfree d (s.me.rs a)))) ha hh hz' hn)).trans rfl

theorem tlbinv_completes (r : AtHome h s) (hst : s.Still) (mdl : Bool) : ∃ t u, (exec (.tlbinv h true mdl a off) s = .next t ∧
    exec (.parkReasonMet s.cur) t = .next u ∧ (u.slot s.cur).pc = s.me.pc + 1) ∧ ∀ e ∈ (u.core s.cur.core).tlb, e.root ≠ s.rootOf s.cur := by
  obtain ⟨t, rfl, fl, he, hfl⟩ := execTlbinv_eq (a := a) (off := off) r true mdl
  obtain ⟨hc, hn, hk, hs⟩ := s.invalidated_frame mdl none
  have hts := hst.of_slots hn hs
  obtain ⟨ws, hsl⟩ := hs s.cur
  replace he : exec (.tlbinv h true mdl a off) s = .next ((s.invalidated mdl none).park .fence (.sys (.tlbinv fl))) := he
  refine ⟨_, _, sys_completes he hc (State.landed_of_empty (hfl hst) (State.storeQ_park fun w => (hts.2 w).1)) rfl (fun sl => rfl) ?_, fun e hm => ?_⟩
  · rw [State.slot_park_like hc, hsl]
    rfl
  · rw [State.finish, State.core_modSlot_self, State.tlb_park] at hm
    exact tlbKeeps_all.mp (List.mem_filter.mp (hk ▸ hm)).2

theorem pieces_byte (a : Nat) : pieces a 1 = [(0, 1)] :=
  pieces_single Nat.one_pos (by simp [pieces])

theorem wback_completes (r : AtHome h s) (q : s.me.Quiet) (pg : Bool) (hm : s.Maps (s.me.rs a + off.signExtend 64) 1 1 false) :
    ∃ t u, (exec (.wback h pg a off) s = .next t ∧ exec (.parkReasonMet s.cur) t = .next u ∧ (u.slot s.cur).pc = s.me.pc + 1) ∧
      ∀ g ∈ s.placed (s.me.rs a + off.signExtend 64) 1, let n := if pg then g.size * 32768 else 128
        ∀ y ∈ u.stale, y.1 * 8 < g.pa / n * n ∨ g.pa / n * n + n ≤ y.1 * 8 := by
  have hl : (s.placed (s.me.rs a + off.signExtend 64) 1).length = 1 := by
    rw [← List.length_map (f := fun g : Seg => (g.off, g.len)), State.placed_map hm, pieces_byte]
    rfl
  obtain ⟨g, hg⟩ := List.length_eq_one_iff.mp hl
  have hck := State.check_mapped (k := .load) (win := false) hm (by simp)
  rw [hg] at hck ⊢
  refine ⟨_, _, sys_completes (execWback_parks r hck) rfl (State.clean_park q ..) rfl (fun sl => rfl) (s.park_pc ..), ?_⟩
  rintro x hx n y hy
  obtain rfl := List.mem_singleton.mp hx
  have hy' := (List.mem_filter.mp hy).2
  simp only [Bool.not_eq_true', Bool.and_eq_false_iff, decide_eq_false_iff_not, Nat.not_le, Nat.not_lt] at hy'
  exact hy'

end

theorem pageCompletions : Claims.PageCompletions := by
  intro h d a b off pg s r q hst hwf hp va x root ends
  refine ⟨fun e ea hv hw => ⟨?_, ?_, ?_⟩, fun e ea hv hw he => ⟨?_, ?_⟩, fun p hsel => palloc_completes r hsel, fun ha hh hz hn => ?_, fun mdl => ?_, ?_⟩
  · exact fun hx hn ha hh hi => commit_placed r q hwf hp hv hw hx hn ha hh hi
  · exact fun hx f hf => commit_pooled r q hp hv hw hx hf
  · exact fun hx hf => commit_starved r q hv hw hx hf
  · exact commit_again r q hv hw he
  · exact decommit_completes r hst hwf hp hv hw he
  · exact pfree_completes r q ha hh hz hn
  · exact tlbinv_completes r hst mdl
  · exact wback_completes r q pg

/-- Settles O18: each form from its issue to its park, what performing its request does, and the two together where nothing is in flight. -/
theorem pages : Obligations.Pages := ⟨pageRequests, pagePerformed, translationControl, pageCompletions⟩

end Sys2Proof.Machine
end

section
/-! SUPPORT. Line reservations and the conditional multi-line store (06 R140-R143). -/

namespace Sys2Proof.Machine

/-! ## The step of `cmstore` at its slice -/

/-- The selected words of a line put into memory, those below `k`. -/
def State.putWords (s : State) (l : CmLine) (k : Nat) : State :=
  (List.range k).foldl (fun s i =>
    if l.mask.getLsbD i then s.writeWord (l.line + 8 * i) ((l.data.drop (8 * i)).take 8) l.through else s) s

/-- The core once its read-only cache has taken the selected words. -/
def Core.putWords (c : Core) (l : CmLine) : Core :=
  (List.range 16).foldl (fun c i => if l.mask.getLsbD i then c.roUpdate (l.line + 8 * i) ((l.data.drop (8 * i)).take 8) else c) c

theorem Core.putWords_slots (c : Core) (l : CmLine) : (c.putWords l).slots = c.slots := by
  unfold Core.putWords
  induction (List.range 16) generalizing c with
  | nil => rfl
  | cons i r ih =>
    rw [List.foldl_cons, ih]
    split <;> rfl

/-- The byte at `a` once the words of `l` below `k` are in memory. -/
def CmLine.byte (l : CmLine) (k : Nat) (m : Memory) (a : Nat) : Byte :=
  if l.line ≤ a ∧ a < l.line + 8 * k ∧ l.mask.getLsbD ((a - l.line) / 8) = true then l.data.getD (a - l.line) 0 else m.get a

section
variable {s : State} {l : CmLine}

theorem State.putWords_healthy (hp : s.poison = []) (k : Nat) : s.ButData (s.putWords l k) ∧ (s.putWords l k).poison = [] ∧
    (s.mem.wf = true → (s.putWords l k).mem.wf = true) := by
  unfold State.putWords
  induction k with
  | zero => exact ⟨rfl, hp, id⟩
  | succ k ih =>
    rw [List.range_succ, List.foldl_append, List.foldl_cons, List.foldl_nil]
    generalize (List.range k).foldl _ s = t at ih ⊢
    obtain ⟨hb, hq, hw⟩ := ih
    split
    · obtain ⟨hb', hm, hq'⟩ := State.writeWord_healthy hq (l.line + 8 * k) ((l.data.drop (8 * k)).take 8) l.through
      exact ⟨hb.trans hb', hq', fun h => hm ▸ Memory.write_wf _ _ _ (hw h)⟩
    · exact ⟨hb, hq, hw⟩

theorem State.putWords_get (hp : s.poison = []) (hwf : s.mem.wf = true) (hd : l.data.length = 128) (a : Nat) {k : Nat} (hk : k ≤ 16) :
    (s.putWords l k).mem.get a = l.byte k s.mem a := by
  induction k with
  | zero => exact (if_neg (by omega)).symm
  | succ k ih =>
    obtain ⟨-, hq, hw⟩ := State.putWords_healthy (l := l) hp k
    replace ih := ih (by omega)
    have hstep : s.putWords l (k + 1) = if l.mask.getLsbD k then
        (s.putWords l k).writeWord (l.line + 8 * k) ((l.data.drop (8 * k)).take 8) l.through else s.putWords l k := by
      unfold State.putWords
      rw [List.range_succ, List.foldl_append, List.foldl_cons, List.foldl_nil]
    have hlen : ((l.data.drop (8 * k)).take 8).length = 8 := by rw [List.length_take, List.length_drop, hd]; omega
    rw [hstep]
    by_cases hin : l.line + 8 * k ≤ a ∧ a < l.line + 8 * k + 8
    · have hdiv : (a - l.line) / 8 = k := by omega
      by_cases hm : l.mask.getLsbD k = true
      · rw [if_pos hm, (State.writeWord_healthy hq _ _ _).2.1, Memory.get_write _ _ _ _ (hw hwf), dif_pos (by rw [hlen]; exact hin)]
        rw [CmLine.byte, if_pos ⟨by omega, by omega, by rw [hdiv]; exact hm⟩, List.getElem_take, List.getElem_drop,
          getD_of_lt _ (by omega)]
        congr 1
        omega
      · rw [if_neg hm, ih, CmLine.byte, CmLine.byte, if_neg (by omega), if_neg (by rw [hdiv]; exact fun h => hm h.2.2)]
    · have hiff : l.byte (k + 1) s.mem a = l.byte k s.mem a := ite_congr
        (propext ⟨fun ⟨h1, h2, h3⟩ => ⟨h1, by omega, h3⟩, fun ⟨h1, h2, h3⟩ => ⟨h1, by omega, h3⟩⟩) (fun _ => rfl) fun _ => rfl
      rw [hiff, ← ih]
      split
      · rw [(State.writeWord_healthy hq _ _ _).2.1, Memory.get_write _ _ _ _ (hw hwf), dif_neg (by rw [hlen]; exact hin)]
      · rfl

end

section
variable {s : State} {w : Who} {d : SReg} {l : CmLine} {sc : Scope}

/-- With its slot at rest and its way open, a `cmstore` is performed. -/
theorem State.cmstore_ready (q : (s.slot w).Quiet) (hc : s.way (some w.core.stack) l.line = .clear) : s.sysReady w (.cmstore d [l] sc) = true := by
  obtain ⟨hrel, hcl⟩ := q.released
  unfold State.sysReady
  simp only [hrel, hcl, q.1, Slot.not_releasing q, hc, List.all_nil, List.all_cons, ite_self, Bool.not_false, Bool.and_true, Bool.true_and]
  rfl

theorem State.finishCm_open (hc : s.way (some w.core.stack) l.line = .clear) : s.finishCm w d [l] =
    (s.cmPerform w [l]).2.finish w fun sl => { sl with resv := [], tbm := if (s.cmPerform w [l]).1 = 0 then
      sl.tbm ||| 1#49 <<< (State.group (s.cmPerform w [l]).2 l.line).val else sl.tbm }.ws d (BitVec.ofNat 64 (s.cmPerform w [l]).1) := by
  unfold State.finishCm
  simp only [List.any_cons, hc, List.any_nil, Bool.or_false]
  rfl

theorem State.cmPerform_missing (hr : ((s.slot w).resv.find? fun r => r.line == l.line) = none) : s.cmPerform w [l] = (2, s) := by
  unfold State.cmPerform
  simp only [List.any_cons, hr, Option.map_none, Option.isNone_none, Bool.true_or, if_true]

theorem State.cmPerform_live {r : Resv} (hr : ((s.slot w).resv.find? fun r => r.line == l.line) = some r)
    (he : ∃ e ∈ s.resTabs[s.resIdx l.line].lines, e.line = l.line ∧ e.serial = r.serial ∧ e.stamp = r.stamp) :
    ∃ ls : List Nat, s.cmPerform w [l] = (0, (ls.foldl State.bumpLine (s.putWords l 16)).modCore w.core fun _ =>
      ((ls.foldl State.bumpLine (s.putWords l 16)).core w.core).putWords l) := by
  have hlive : (s.resTabs[s.resIdx l.line].lines.any fun e => e.line == l.line && e.serial == r.serial && decide (e.stamp = r.stamp)) = true := by
    obtain ⟨e, hm, h1, h2, h3⟩ := he
    exact List.any_eq_true.mpr ⟨e, hm, by simp [h1, h2, h3]⟩
  refine ⟨((([l].filter fun l => l.mask ≠ 0).map (·.line)).eraseDups), ?_⟩
  unfold State.cmPerform
  simp only [List.any_cons, hr, Option.map_some, Option.isNone_some, hlive, List.any_nil, Bool.or_self, Bool.false_eq_true, if_false, bne_self_eq_false]
  rfl

theorem State.foldl_bump (s : State) (ls : List Nat) : s.ButData (ls.foldl State.bumpLine s) ∧ (ls.foldl State.bumpLine s).mem = s.mem := by
  induction ls generalizing s with
  | nil => exact ⟨rfl, rfl⟩
  | cons a ls ih => exact ⟨State.ButData.trans (t := s.bumpLine a) rfl (ih _).1, (ih _).2⟩

/-- One reserved and untouched line: its selected words are in memory, its slot has its answer, and the set is empty. -/
theorem cmstore_performed {r : Resv} (hw : (s.slot w).wait = .sys (.cmstore d [l] sc)) (hrep : (s.slot w).reply = none)
    (hst : (s.slot w).state ≠ .spilled) (q : (s.slot w).Quiet) (hc : s.way (some w.core.stack) l.line = .clear)
    (hr : ((s.slot w).resv.find? fun r => r.line == l.line) = some r)
    (he : ∃ e ∈ s.resTabs[s.resIdx l.line].lines, e.line = l.line ∧ e.serial = r.serial ∧ e.stamp = r.stamp)
    (hwf : s.mem.wf = true) (hp : s.poison = []) (hd : l.data.length = 128) :
    ∃ t, exec (.parkReasonMet w) s = .next t ∧ (t.slot w).pc = (s.slot w).pc + 1 ∧ (d ≠ 0 → (t.slot w).rs d = 0) ∧ (t.slot w).resv = [] ∧
      ∀ a, t.mem.get a = l.byte 16 s.mem a := by
  obtain ⟨ls, hcm⟩ := State.cmPerform_live hr he
  have hf := State.finishCm_open (d := d) hc
  rw [hcm] at hf
  obtain ⟨hb, hm⟩ := State.foldl_bump (s.putWords l 16) ls
  have hcores := ((State.putWords_healthy (l := l) hp 16).1.trans hb).cores
  generalize ls.foldl State.bumpLine (s.putWords l 16) = u at hf hm hcores
  have hsl : (u.modCore w.core fun _ => (u.core w.core).putWords l).slot w = s.slot w := by
    rw [State.slot, State.core_modCore_self, Core.putWords_slots]
    exact State.slot_congr hcores w
  refine ⟨_, (execParkReasonMet_sys hw hst hrep (State.cmstore_ready q hc)).trans (congrArg _ hf), ?_, fun hz => ?_, ?_, fun a => ?_⟩
  · rw [State.finish, State.slot_modSlot_self, Slot.next_pc, Slot.ws_pc, hsl]
    rfl
  · rw [State.finish, State.slot_modSlot_self, Slot.rs_next, Slot.rs_ws _ _ _ hz]
    rfl
  · rw [State.finish, State.slot_modSlot_self, Slot.next_resv, Slot.ws_resv]
  · exact (congrArg (fun m : Memory => m.get a) hm).trans (State.putWords_get hp hwf hd a (Nat.le_refl _))

end

theorem cmstorePerformed : Claims.CmstorePerformed := by
  intro w d l sc s hw hrep hst q hc
  refine ⟨fun hr => ?_, fun r hr he hwf hp hd hz => ?_⟩
  · refine (execParkReasonMet_sys hw hst hrep (State.cmstore_ready q hc)).trans ((congrArg _ (State.finishCm_open hc)).trans ?_)
    rw [State.cmPerform_missing hr]
    rfl
  · obtain ⟨t, ht, -, hrs, hres, hm⟩ := cmstore_performed hw hrep hst q hc hr he hwf hp hd
    exact ⟨t, ht, hrs hz, hres, hm⟩

/-! ## Its issue -/

theorem reservations : Claims.Reservations := by
  intro h d a b m sc off s segs r hc va x n
  refine ⟨fun hk ho => execLdres_parks r (.inl ⟨d, rfl⟩) hk hc ho, fun hn hbad => ?_⟩
  refine (guarded_runs h s _ r).trans ((afterRelease_go _ hn).trans ?_)
  exact (if_pos hbad).trans rfl

section
variable {s : State} {va : Word} {mask : BitVec 16} {bs : List Byte} {g : Seg}

theorem cmKind_writes {mask : BitVec 16} (h : writes (cmKind mask) = true) : decide (mask ≠ 0) = true := by
  unfold cmKind at h
  split at h
  · cases h
  · exact decide_eq_true ‹_›

/-- One entry whose page is mapped passes its checks, and names its line. -/
theorem cmChecks_single (hm : s.Maps va 128 1 (decide (mask ≠ 0))) (hg : s.placed va 128 = [g]) (hc : s.carried s.me = false)
    (k : State → List CmLine → Out) : cmChecks s [(va, mask, 0, bs)] k = k s [⟨g.pa, mask, bs, g.through⟩] := by
  have hk : s.check s.cur va 128 (cmKind mask) 1 false = (s, .ok [g]) := (State.check_mapped hm cmKind_writes).trans (by rw [hg])
  have hs : s.cmScan [(va, mask, 0, bs)] = (s, [(va, cmKind mask, .ok [g])]) := by
    unfold State.cmScan
    rw [List.foldl_cons, List.foldl_nil]
    simp only [hk, List.nil_append]
  unfold cmChecks
  simp only [hs, List.find?_cons, List.find?_nil, reduceCtorEq, decide_false, firstFault, cmSparse, List.map_cons, List.map_nil, hc,
    List.flatten_cons, List.flatten_nil, List.append_nil, List.eraseDups_nil, List.isEmpty_nil, if_true, Bool.false_eq_true, if_false]
  rfl

end

theorem cmEntries_one {c : Core} {x : Nat} (h : c.sp.num (x + 10) 6 = 0) :
    cmEntries c x 1 = [(c.sp.word x, BitVec.ofNat 16 (c.sp.num (x + 8) 2), 0, c.sp.read (x + 16) 128)] := by
  rw [← h]
  rfl

theorem execCmstore_parks {h : Hdr} {s : State} {sc : Scope} {d a b : SReg} {off : BitVec 41} {va : Word} {mask : BitVec 16} {bs : List Byte} {l : CmLine}
    (r : Runs h s) (q : NoRelease s) (hn : (s.me.rs b).toNat = 1) (hal : (s.me.rs a + off.signExtend 64).toNat % 16 = 0)
    (hx : (s.me.rs a + off.signExtend 64).toNat + 144 ≤ 0x30000)
    (hes : cmEntries s.myCore (s.me.rs a + off.signExtend 64).toNat 1 = [(va, mask, 0, bs)]) (hva : va &&& 0x7F = 0)
    (hck : ∀ k, cmChecks s [(va, mask, 0, bs)] k = k s [l]) :
    Parks (.cmstore h sc d a b off) s .globalLoad (.sys (.cmstore d [l] sc)) := by
  refine (guarded_runs h s _ r).trans ((afterRelease_go _ q).trans ?_)
  dsimp only
  rw [hn, if_neg (by omega), hes]
  simp only [List.any_cons, List.any_nil, hva, ne_eq, not_true_eq_false, decide_false, Bool.or_self, Bool.false_eq_true, if_false, hck]

theorem cmstoreCompletes : Claims.CmstoreCompletes := by
  intro h sc d a b off g r s hr q hwf hp x sp va mask hn hal hx hres hva hm hg ho hrv he
  have hpk : Parks (.cmstore h sc d a b off) s .globalLoad (.sys (.cmstore d [⟨g.pa, mask, sp.read (x + 16) 128, g.through⟩] sc)) :=
    execCmstore_parks hr.1 (Slot.not_releasing q) hn hal hx (cmEntries_one hres) hva fun k => cmChecks_single hm hg (Slot.Quiet.not_carried q) k
  have hs := s.slot_park .globalLoad (.sys (.cmstore d [⟨g.pa, mask, sp.read (x + 16) 128, g.through⟩] sc))
  obtain ⟨u, hu, hpc, hrs, hres, hmem⟩ := cmstore_performed (d := d) (sc := sc) (l := ⟨g.pa, mask, sp.read (x + 16) 128, g.through⟩) (r := r)
    (s := s.park .globalLoad (.sys (.cmstore d [⟨g.pa, mask, sp.read (x + 16) 128, g.through⟩] sc))) (w := s.cur)
    (by rw [hs]; rfl) (by rw [hs]; rfl) (by rw [hs]; exact Slot.park_not_spilled _ _ _ _) (by rw [hs]; exact q)
    ((State.way_modSlot ..).trans (ho g (List.mem_singleton.mpr rfl))) (by rw [hs]; exact hrv) he hwf hp (Memory.read_length ..)
  exact ⟨_, u, hpk, hu, hpc.trans (by rw [hs]; rfl), hrs, hres, hmem⟩

/-- Settles O17: the forms at their slot, the indivisible step at the slice word by word, and the two together. -/
theorem reservedStores : Obligations.ReservedStores := ⟨reservations, cmstorePerformed, cmstoreCompletes⟩

end Sys2Proof.Machine
end

section
/-! SUPPORT. A remote store of a vector register by a width of one byte (12 R257). -/

namespace Sys2Proof.Machine

/-- The operands of a one-byte access at the address in a scalar register. -/
def oneByte : MemArgs := ⟨.fabric, .b, false, 0⟩

/-- The store sends, and counts as outstanding, the 64 bytes of its vector register. -/
theorem outst_exec_rst_vector :
    ((stateOf State.reset (exec (.rst plainHdr (.v 0) 0 oneByte) State.reset)).slot whoReset).outst.map (·.len) = [64] := by decide +kernel

/-- Refutes O31: the statement ranges over every width of a store of a vector register, and counts as outstanding as many bytes as the width
names; the model counts those the register gives, 64 where the width is one byte. -/
theorem not_remoteAccesses : ¬ Obligations.RemoteAccesses := by
  rintro ⟨-, -, writes, -⟩
  obtain ⟨sends, -⟩ := writes plainHdr 0 0 (.v 0) .add oneByte ⟨.fabric, .b, 0⟩ State.reset (by decide +kernel) (by decide +kernel)
  obtain ⟨sent, -⟩ := sends (by decide +kernel) (fun _ h => absurd h (by decide)) (by decide +kernel)
  have he := sent (by decide +kernel)
  have ho := outst_exec_rst_vector
  rw [he] at ho
  exact absurd ho (by decide +kernel)

end Sys2Proof.Machine
end

section
/-! SUPPORT. What sending a packet leaves alone, on a module whole or not (06 R128, R139, 12 R251). -/

namespace Sys2Proof.Machine

/-- The two states differ at most in the packets under way on the module and at its ports, the events to come, the choices drawn, and the launches'
counts of tasks. -/
def State.ButTraffic (s t : State) : Prop := t = { s with
  net := t.net, pins := t.pins, flowSeq := t.flowSeq, fresh := t.fresh, todo := t.todo, ports := t.ports, launches := t.launches }

section
variable {s t u : State}

theorem State.ButTraffic.refl (s : State) : s.ButTraffic s := rfl

theorem State.ButTraffic.trans (h : s.ButTraffic t) (h' : t.ButTraffic u) : s.ButTraffic u := by
  unfold State.ButTraffic at *
  rw [h] at h'
  exact h'

theorem State.ButNet.traffic (h : s.ButNet t) : s.ButTraffic t := by
  unfold State.ButNet at h
  unfold State.ButTraffic
  rw [h]

theorem State.ButTraffic.cores (h : s.ButTraffic t) : t.cores = s.cores := by
  unfold State.ButTraffic at h
  rw [h]

theorem State.ButTraffic.mem (h : s.ButTraffic t) : t.mem = s.mem := by
  unfold State.ButTraffic at h
  rw [h]

theorem State.ButTraffic.cur (h : s.ButTraffic t) : t.cur = s.cur := by
  unfold State.ButTraffic at h
  rw [h]

theorem State.ButTraffic.names (h : s.ButTraffic t) : t.names = s.names := by
  unfold State.ButTraffic at h
  rw [h]

theorem State.ButTraffic.views (h : s.ButTraffic t) : t.views = s.views := by
  unfold State.ButTraffic at h
  rw [h]

theorem State.ButTraffic.modId (h : s.ButTraffic t) : t.modId = s.modId := by
  unfold State.ButTraffic at h
  rw [h]

theorem State.ButTraffic.core (h : s.ButTraffic t) (c : CoreId) : t.core c = s.core c := State.core_congr h.cores c
theorem State.ButTraffic.slot (h : s.ButTraffic t) (w : Who) : t.slot w = s.slot w := State.slot_congr h.cores w

end

theorem foldl_butTraffic {α : Type} {f : State → α → State} (h : ∀ (s : State) a, s.ButTraffic (f s a)) (l : List α) (s : State) :
    s.ButTraffic (l.foldl f s) := by
  induction l generalizing s with
  | nil => rfl
  | cons a l ih => exact (h s a).trans (ih (f s a))

section
variable (s : State)

theorem State.soon_butTraffic (t : Todo) : s.ButTraffic (s.soon t) := rfl

theorem State.replace_butTraffic (p : Packet) : s.ButTraffic (s.replace p) := (s.launchPacket_butNet p none []).traffic

theorem State.reroute_butTraffic (p : Packet) : s.ButTraffic (s.reroute p) :=
  ((s.routeFor_butNet p).trans (State.launchPacket_butNet ..)).traffic

theorem State.tell_butTraffic (a : Agent) (b : Body) : s.ButTraffic (s.tell a b) := by
  unfold State.tell
  split
  · cases b with
    | rrep | rack | eqEntry | trep => exact s.replace_butTraffic _
    | _ => exact s.soon_butTraffic _
  · split <;> rfl

theorem State.again_butTraffic (p : Packet) : s.ButTraffic (s.again p) := by
  unfold State.again
  split
  · split
    · exact s.reroute_butTraffic p
    · split <;> rfl
  · rfl
  · exact s.reroute_butTraffic p

theorem State.loseGrant_butTraffic (a : Agent) (name : Word) (id : Nat) : s.ButTraffic (s.loseGrant a name id) := by
  unfold State.loseGrant
  split
  · split <;> rfl
  · split
    · exact s.again_butTraffic _
    · rfl

theorem State.dropGuest_butTraffic (a : Agent) : s.ButTraffic (s.dropGuest a) := by
  unfold State.dropGuest
  split
  · rfl
  · exact s.tell_butTraffic a _

theorem State.uncountTask_butTraffic (c : CoreId) (a : Agent) : s.ButTraffic (s.uncountTask c a) := by
  unfold State.uncountTask
  split <;> rfl

/-- Those who are told of a failure are told by packets and events. -/
theorem State.failPacket_butTraffic (cause sub : Nat) (p : Packet) : s.ButTraffic (s.failPacket cause sub p) := by
  have failed (a : Agent) (id : Nat) (posted : Bool) (l : List (Fin 4096)) : s.ButTraffic (if posted then
      l.foldl (fun (s : State) m => s.tell a (.rack a id (some ⟨cause, m, 1⟩))) s else s.tell a (.rrep a id (.fail sub cause))) := by
    split
    · exact foldl_butTraffic (fun s m => s.tell_butTraffic a _) l s
    · exact s.tell_butTraffic a _
  unfold State.failPacket
  dsimp only
  cases p.body with
  | rreq src id _ _ _ posted => exact failed src id posted _
  | mbInc c i v e =>
    cases e with
    | none => rfl
    | some x => exact failed x.1 x.2.1 true _
  | join src id _ _ _ posted => exact failed src id posted _
  | treq r =>
    dsimp only
    split
    · split
      · exact s.replace_butTraffic _
      · exact s.tell_butTraffic _ _
    · exact s.tell_butTraffic _ _
  | trep d n id r =>
    dsimp only
    refine State.ButTraffic.trans ?_ (State.tell_butTraffic _ _ _)
    split
    · exact s.loseGrant_butTraffic d n id
    · rfl
  | tfill name v id off data =>
    have told : s.ButTraffic (match p.src with | .slot a => s.tell a (.trep a name id (.trap 5)) | _ => s) := by
      split
      · exact s.tell_butTraffic _ _
      · rfl
    dsimp only
    refine told.trans ?_
    by_cases mine : tileMod name = s.modId
    · simp only [if_pos mine]
      rfl
    · simp only [if_neg mine]
      exact State.again_butTraffic _ _
  | notice d did home val name id =>
    have told : s.ButTraffic (if home = s.modId then s.soon (.deliveryFail did) else s.again ⟨.mdl s.modId, .mdl home, .notice, .tack did false⟩) := by
      split
      · rfl
      · exact s.again_butTraffic _
    dsimp only
    refine told.trans ?_
    by_cases mine : home = s.modId ∧ d.mod = s.modId
    · simp only [if_pos mine]
      rfl
    · simp only [if_neg mine]
      exact State.tell_butTraffic _ _ _
  | task src num _ c _ =>
    dsimp only
    refine State.ButTraffic.trans ?_ (State.tell_butTraffic _ _ _)
    split
    · exact s.uncountTask_butTraffic c src
    · rfl
  | roam c g => exact s.dropGuest_butTraffic _
  | roamTo a g => exact s.dropGuest_butTraffic _
  | home g why => exact s.dropGuest_butTraffic _
  | tdata | dline | dinc => rfl
  | rrep | rack | eqEntry | spawnd | tacc => exact s.tell_butTraffic _ _
  | fillLost | tack | gate | lostGuest | guestAt | msg | coll | view => exact s.again_butTraffic _

theorem State.route_butTraffic (p : Packet) (h : Option Hold) : s.ButTraffic (s.route p h) := by
  unfold State.route
  dsimp only
  split
  · exact s.failPacket_butTraffic _ _ p
  · split
    · exact s.failPacket_butTraffic _ _ p
    · exact ((s.routeFor_butNet p).trans (State.launchPacket_butNet ..)).traffic

theorem State.ergSend_butTraffic (p : Packet) : s.ButTraffic (s.ergSend p) := by
  unfold State.ergSend
  dsimp only
  split
  · exact s.failPacket_butTraffic _ _ p
  · rfl

theorem State.send_butTraffic (p : Packet) : s.ButTraffic (s.send p) := by
  unfold State.send
  split
  · exact s.ergSend_butTraffic p
  · exact s.route_butTraffic p none

theorem State.post_butTraffic (p : Packet) (h : Hold) : s.ButTraffic (s.post p h) := by
  unfold State.post
  split
  · exact s.send_butTraffic p
  · exact s.route_butTraffic p (some h)

theorem State.sendAll_butTraffic (ps : List Packet) : s.ButTraffic (s.sendAll ps) := foldl_butTraffic (fun s p => s.send_butTraffic p) ps s

end

end Sys2Proof.Machine
end

section
/-! SUPPORT. Roaming threads (12 R261-R263). -/

namespace Sys2Proof.Machine

/-! ## A thread leaves its home slot -/

/-- With nothing posted and no error, a slot's thread may leave at once. -/
theorem leave_clear {s : State} {k : State → Out} (hh : s.me.hosting = none) (hq : s.me.Quiet) (he : s.me.errq = []) : leave s k = k s := by
  obtain ⟨hst, hout, hinc, hcar⟩ := hq
  have carried : s.carried s.me = false := by rw [State.carried, hcar]; rfl
  have home : s.errHome s.cur = some s.cur := by rw [State.errHome, show (s.slot s.cur).hosting = none from hh]
  have clear : s.errClear s.cur = (true, s) := by
    rw [State.errClear, home]
    dsimp only
    rw [show (s.slot s.cur).errq = [] from he]
    rfl
  unfold leave
  simp [hst, hout, hinc, carried, clear]

/-- The thread that a slot sends away. -/
abbrev State.thread (s : State) (pc : Word) (hint : Bool) : Guest := s.me.pack (s.agent s.cur) (s.jobOf s.cur) pc hint

theorem migrate_parks {s : State} (hh : s.me.hosting = none) (hq : s.me.Quiet) (he : s.me.errq = []) (x pc : Word) (hint : Bool) :
    ∃ t, migrate s x pc hint = .next t ∧ (t.slot s.cur).wait = .roam ∧ (t.slot s.cur).reason = .roam ∧
      (t.slot s.cur).away = some (s.thread pc hint) := by
  unfold migrate
  rw [leave_clear hh hq he]
  simp only [hh]
  refine ⟨_, rfl, ?_⟩
  have at_ (f : Slot → Slot) : ((s.park .roam .roam).mod f).slot s.cur = f (s.me.park .roam .roam s.rot) := by
    rw [← State.slot_park]
    exact State.slot_mod_cur _ f
  rw [(State.send_butTraffic _ _).slot, at_]
  exact ⟨rfl, rfl, rfl⟩

section
variable {h : Hdr} {s : State} {x : Word}

theorem roamed_migrates {l r : Out} (hr : h.roam = true) (hg : x.getLsbD 51 = false) (hm : tileMod x ≠ s.modId) (hh : s.me.hosting = none) :
    roamed h s x l r = migrate s x s.me.pc true := by
  unfold roamed
  rw [hr, hg, if_neg (by decide), if_neg hm, hh]

/-- An address that passes the checks of a form that goes to one module names one module. -/
theorem State.single_of_checked (hf : s.remoteFault x false = none) : x.getLsbD 51 = false := by
  unfold State.remoteFault at hf
  split at hf
  · cases hf
  · split at hf
    · simp at hf
    · exact Bool.eq_false_iff.mpr ‹_›

end

theorem execRld_roams {h : Hdr} {s : State} {d a : SReg} {m : MemArgs} (r : AtHome h s) (hr : h.roam = true)
    (hf : s.remoteFault (memAddr s.me a m) false = none) (hm : tileMod (memAddr s.me a m) ≠ s.modId) :
    exec (.rld h (.s d) a m) s = migrate s (memAddr s.me a m) s.me.pc true := by
  refine (guarded_runs h s _ r.1).trans ((guestF_home r.2 _ _ _).trans ((streamGate_go s [] _ _ rfl).trans ?_))
  unfold remoteValue
  simp only [hf]
  exact roamed_migrates hr (State.single_of_checked hf) hm r.2

theorem roaming : Claims.Roaming := by
  intro h a d m s r
  refine ⟨?_, fun hf hm => ?_, fun hq he => ⟨fun hf hm => ?_, fun hf hm hr => ?_⟩⟩
  · exact (guarded_runs h s _ r.1).trans (if_pos (by rw [r.2]; rfl))
  · refine (guarded_runs h s _ r.1).trans ?_
    simp only [hf]
    exact if_pos hm
  · have runs : exec (.roam h a) s = migrate s (s.me.rs a) (s.me.pc + 1) false := by
      refine (guarded_runs h s _ r.1).trans ?_
      simp only [hf]
      exact if_neg hm
    dsimp only
    rw [runs]
    exact migrate_parks r.2 hq he _ _ _
  · dsimp only
    rw [execRld_roams r hr hf hm]
    exact migrate_parks r.2 hq he _ _ _

/-! ## Threads at their host, and back at home -/

theorem State.queueGuests_quiet {s : State} (hn : s.net = []) (n : Nat) (c : CoreId) : s.queueGuests n c = s := by
  cases n with
  | zero => rfl
  | succ n =>
    unfold State.queueGuests
    rw [hn]
    simp

theorem State.assignGuests_none {s : State} {c : CoreId} (h : (s.core c).arrivals = []) (is : List (Fin 16)) : State.assignGuests is s c = s := by
  cases is with
  | nil => rfl
  | cons i is => simp only [State.assignGuests, h]

/-- The state in which the only thread that has arrived at a core runs in slot `i` there. -/
def State.hosted (s : State) (c : CoreId) (i : Fin 16) (g : Guest) : State :=
  (s.modCore c fun k => { k with arrivals := [], ro := [] }).modSlot ⟨c, i⟩ (·.host g)

section
variable {s : State} {c : CoreId} {i : Fin 16} {g : Guest}

theorem State.slot_hosted : (s.hosted c i g).slot ⟨c, i⟩ = (s.slot ⟨c, i⟩).host g := by
  rw [State.hosted, State.slot_modSlot_self, State.slot_modCore rfl]

theorem State.arrivals_hosted : ((s.hosted c i g).core c).arrivals = [] := by
  rw [State.hosted, State.core_modSlot_self _ ⟨c, i⟩, State.core_modCore_self]

theorem execRoamArrival_one {is : List (Fin 16)} (hn : s.net = []) (ha : (s.core c).arrivals = [g]) (hp : (s.core c).poolSlots s.cycle = i :: is) :
    exec (.roamArrival c) s = .next (s.hosted c i g) := by
  change execRoamArrival c s = _
  unfold execRoamArrival
  dsimp only
  rw [s.queueGuests_quiet hn, hp, State.assignGuests, ha]
  exact congrArg _ (State.assignGuests_none State.arrivals_hosted is)

end

theorem State.slot_sendHome {s : State} {w : Who} {g : Hosting} (hg : (s.slot w).hosting = some g) (why : HomeWhy) (pc : Word) (ro : Bool) :
    (s.sendHome w why pc ro).slot w = { ((s.slot w).unpack g.own).toPool false with hosting := none, tbm := 0 } := by
  rw [State.sendHome_hosting hg]
  unfold State.injectHeld
  have hs := (State.route_butTraffic (s.modSlot w fun sl => { (sl.unpack g.own).toPool false with hosting := none, tbm := 0 })
    ⟨.slot (s.agent w), agentDst s.modId g.home, .notice, .home ((s.slot w).pack g.home g.job pc ro) why⟩ (some (s.holdOf w))).slot w
  rw [State.slot_modSlot_self] at hs
  rw [State.slot_poolEvent, hs]
  rw [hs]
  exact fun _ => rfl

/-- A guest with nothing posted goes home from a slot of its own module's domain. -/
theorem execHome_guest {h : Hdr} {s : State} {x : Hosting} (r : Runs h s) (hx : s.me.hosting = some x) (hq : s.me.Quiet)
    (hm : x.home.mod = s.modId) (he : (s.slot x.home.who).errq = []) :
    exec (.home h) s = .next (s.sendHome s.cur .plain (s.me.pc + 1)) := by
  obtain ⟨hst, hout, hinc, hcar⟩ := hq
  have carried : s.carried s.me = false := by rw [State.carried, hcar]; rfl
  have home : s.errHome s.cur = some x.home.who := by
    rw [State.errHome, show (s.slot s.cur).hosting = some x from hx]
    exact if_pos hm
  have clear : s.errClear s.cur = (true, s) := by
    rw [State.errClear, home]
    dsimp only
    rw [he]
    rfl
  refine (guarded_runs h s _ r).trans ?_
  unfold leave
  simp [hx, hst, hout, hinc, carried, clear]

/-- The slot whose thread has come home. -/
def Slot.returned (sl : Slot) (g : Guest) : Slot := { (sl.unpack g).unpark with away := none, walks := [], resv := [] }

theorem execGuestReturn_plain {s : State} {k : Nat} {p : Packet} {c : CoreId} {g : Guest} (h : s.Arrives k p) (hd : p.dst = .core c)
    (hb : p.body = .home g .plain) (hm : g.home.mod = s.modId) (ho : s.noticeOpen g.home.who.core = true)
    (hw : (s.slot g.home.who).wait = .roam) :
    exec (.guestReturn k) s = .next (((s.taken k).acquire g.home.who.core .fabric).modSlot g.home.who (·.returned g)) := by
  obtain ⟨ht, hf⟩ := State.take_taken h
  obtain ⟨f, hn, hp, -⟩ := h
  have hw' : ((s.taken k).slot g.home.who).wait = .roam := by rw [State.slot_congr hf.cores, hw]
  change execGuestReturn k s = _
  unfold execGuestReturn
  simp only [hn, hp, hd, hb, hm, ho, ht, hw']
  simp
  rfl

theorem execGuestLost_traps {s : State} {w : Who} (hw : (s.slot w).wait = .roam) (hh : (s.slot w).hosting = none)
    (hs : (s.slot w).state ≠ .handler) : exec (.guestLost w) s = .next ((s.modSlot w fun sl => { sl.unpark with away := none }).modSlot w
      (·.takeTrap 9 5 (s.slot w).object (s.slot w).pc)) := by
  have at_ : (s.modSlot w fun sl => { sl.unpark with away := none }).slot w = { (s.slot w).unpark with away := none } := s.slot_modSlot_self w _
  change execGuestLost w s = _
  unfold execGuestLost State.trapAt
  simp only [hw, if_true, at_]
  have running : (s.slot w).unpark.state ≠ .handler := by
    unfold Slot.unpark
    dsimp only
    split
    · decide
    · exact hs
  rw [if_neg (by simp [hh]), if_neg running]

theorem guests : Claims.Guests := by
  intro c c' g i is k p w h x s
  refine ⟨fun hn ha hp => ⟨_, execRoamArrival_one hn ha hp, ?_⟩, fun r hx hq hm he _ => ⟨_, execHome_guest r hx hq hm he, ?_⟩,
    fun h hd hb hm ho hw => ⟨_, execGuestReturn_plain h hd hb hm ho hw, ?_⟩, fun hw hh hs => ⟨_, execGuestLost_traps hw hh hs, ?_⟩⟩
  · rw [State.slot_hosted]
    exact ⟨rfl, rfl, rfl, rfl, rfl, State.arrivals_hosted⟩
  · rw [State.slot_sendHome hx]
    exact ⟨rfl, rfl, rfl⟩
  · rw [State.slot_modSlot_self]
    exact ⟨rfl, rfl, rfl, rfl⟩
  · rw [State.slot_modSlot_self, State.slot_modSlot_self]
    exact ⟨rfl, rfl, rfl, rfl, rfl⟩

/-- Settles O32: a thread with nothing posted leaves, arrives, goes home and returns by a packet for each move. -/
theorem roamingThreads : Obligations.RoamingThreads := ⟨roaming, guests⟩

end Sys2Proof.Machine
end

section
/-! SUPPORT. Remote requests at their target, and their answers (12 R254, R256-R258). -/

namespace Sys2Proof.Machine

/-! ## A request of one part -/

section
variable {s u : State} {k : Nat} {p : Packet}

theorem State.foldl_linkWorks_net (s : State) (ls : List LinkId) : (ls.foldl State.linkWorks s).net = s.net := by
  induction ls generalizing s with
  | nil => rfl
  | cons l ls ih =>
    refine (ih (s.linkWorks l)).trans ?_
    unfold State.linkWorks State.setLink
    dsimp only
    split
    · rfl
    · cases l <;> rfl

/-- An arrival depends on the packets in flight and the states of the links. -/
theorem State.Arrives.congr (h : s.Arrives k p) (hn : u.net = s.net) (hl : ∀ l, (u.link l).st = (s.link l).st) : u.Arrives k p := by
  obtain ⟨f, hf, hp, hh, hs, ho⟩ := h
  exact ⟨f, by rw [hn, hf], hp, hh, by rwa [hn], fun l m hm => (hl l).trans (ho l m hm)⟩

theorem State.Arrives.crossed (h : s.Arrives k p) (st : Option (Fin 6)) (pa : Nat) : (s.crossed st pa).Arrives k p :=
  h.congr (s.foldl_linkWorks_net _) (s.foldl_linkWorks_st _)

theorem State.link_congr {t : State} (hn : t.ucieNb = s.ucieNb) (hi : t.ucieIo = s.ucieIo) (l : LinkId) : t.link l = s.link l := by
  cases l with
  | nb i => rw [State.link, State.link, hn]
  | io i => rw [State.link, State.link, hi]

variable {src : Agent} {id off pa len : Nat} {thr posted : Bool} {op : ROp} {bs : List Byte}

/-- A request whose only part can be performed is answered with what the part gives. -/
theorem State.remoteStep_one (h : s.Arrives k p) (hw : s.way none pa = .clear)
    (hr : (s.crossed none pa).remotePart src op off pa len thr = (u, some bs)) (hu : u.Arrives k p) :
    s.remoteStep k ⟨[(off, pa, len, thr)], [], false⟩ src id op posted = (u.taken k).answerRemote src id posted (.inl bs) := by
  have ht := (State.take_taken hu).1
  obtain ⟨f, hn, -⟩ := h
  unfold State.remoteStep
  simp [hn, State.pick, hw, hr, ht, Work.answer, sortBy, insertBy]

theorem State.answerRemote_mem (a : Agent) (n : Nat) (b : Bool) (r : Sum (List Byte) (Nat × Nat)) : (s.answerRemote a n b r).mem = s.mem :=
  (s.send_butTraffic _).mem

/-- The bytes of a store's part are written at their home slice. -/
theorem State.remotePart_st (hw : inWindow pa = false) (hp : s.poison = []) (w : Width) (x : List Byte) :
    ∃ u, s.remotePart src (.st w x) off pa len thr = (u, some []) ∧ u.mem = s.mem.write pa ((x.drop off).take len) ∧
      u.net = s.net ∧ ∀ l, u.link l = s.link l := by
  refine ⟨_, rfl, ?_⟩
  dsimp only
  split
  · have hf := State.writeAt_frame hw src.who.core ((x.drop off).take len) thr hp
    refine ⟨State.writeAt_mem hw _ _ _ hp, ?_, State.link_congr ?_ ?_⟩ <;> rw [hf]
  · rw [State.writeIo, hw, if_neg Bool.false_ne_true]
    obtain ⟨hf, hm, -⟩ := State.gwrite_healthy hp pa ((x.drop off).take len) thr
    unfold State.ButData at hf
    refine ⟨hm, ?_, State.link_congr ?_ ?_⟩ <;> rw [hf]

theorem State.remotePart_ld (hw : inWindow pa = false) (hp : s.poison = []) (w : Width) :
    s.remotePart src (.ld w) off pa len thr = (s, some (s.mem.read pa len)) := by
  unfold State.remotePart
  simp [State.poisoned_of_nil hp, State.readAt_slice hw]

end

section
variable {s : State} {k : Nat} {p : Packet} {src : Agent} {id : Nat} {job : BitVec 32} {va : Word} {op : ROp} {posted : Bool}

theorem execRemoteRequest_strange (h : s.Arrives k p) (hk : (s.net[k]?.bind (·.work)) = none) (hd : p.dst = .mdl s.modId)
    (hb : p.body = .rreq src id job va op posted) (hl : s.jobLaunches job = []) :
    exec (.remoteRequestAtTarget k) s = .next ((s.taken k).answerRemote src id posted (.inr (0x20, 3))) := by
  have ht := (State.take_taken h).1
  obtain ⟨f, hn, hp, -⟩ := h
  have hk : f.work = none := by rwa [hn] at hk
  change execRemoteRequestAtTarget k s = _
  unfold execRemoteRequestAtTarget
  simp [hn, hp, hb, hd, ht, hk, hl]

/-- A request that is no load of another module's, and whose pages are there, is performed part by part. -/
theorem execRemoteRequest_performs {l : Launch} {ls : List Launch} {segs : List Seg} (h : s.Arrives k p)
    (hk : (s.net[k]?.bind (·.work)) = none) (hd : p.dst = .mdl s.modId) (hb : p.body = .rreq src id job va op posted)
    (hl : s.jobLaunches job = l :: ls) (hc : s.remoteCheck l.root va op = .ok segs) (ho : (∀ w, op ≠ .ld w) ∨ src.mod = s.modId) :
    exec (.remoteRequestAtTarget k) s =
      .next (s.remoteStep k ⟨segs.map fun g => (g.off, g.pa, g.len, g.through), [], false⟩ src id op posted) := by
  have ht := (State.take_taken h).1
  obtain ⟨f, hn, hp, -⟩ := h
  have hk : f.work = none := by rwa [hn] at hk
  change execRemoteRequestAtTarget k s = _
  unfold execRemoteRequestAtTarget
  simp only [hn, hp, hb, hd, ht, hk, hl, beq_self_eq_true, Bool.not_true, Bool.false_eq_true, if_false, hc]
  cases op with
  | ld w =>
    have mine : src.mod = s.modId := ho.resolve_left fun hw => hw w rfl
    simp only [if_pos mine]
    rfl
  | st | amo | cas => rfl

theorem requestAtTarget : Claims.RequestAtTarget := by
  intro k p src id job va w x g l ls s h hk hd
  refine ⟨fun op hb hl => ?_, fun hl _ hp hwin hway => ⟨fun hb hc => ?_, fun hb hsrc hc => ?_⟩⟩
  · rw [execRemoteRequest_strange h hk hd hb hl, State.answerRemote, (State.take_taken h).2.modId]
  all_goals
    have hx := s.crossed_butFlight none g.pa
    have hxp : (s.crossed none g.pa).poison = [] := hx.poison.trans hp
    have hxa := h.crossed none g.pa
  · obtain ⟨u, hu, hm, hn, hlk⟩ := State.remotePart_st (src := src) (off := g.off) (len := g.len) (thr := g.through) hwin hxp w x
    have hua : u.Arrives k p := hxa.congr hn fun l => by rw [hlk]
    refine ⟨_, u.taken k, execRemoteRequest_performs h hk hd hb hl hc (.inl fun _ => nofun), ?_, State.remoteStep_one h hway hu hua⟩
    rw [List.map_singleton, State.remoteStep_one h hway hu hua, State.answerRemote_mem, (State.take_taken hua).2.mem, hm, hx.mem]
  · have hr := State.remotePart_ld (src := src) (off := g.off) (len := g.len) (thr := g.through) hwin hxp w
    rw [hx.mem] at hr
    refine ⟨_, (s.crossed none g.pa).taken k, execRemoteRequest_performs h hk hd hb hl hc (.inr hsrc), ?_, State.remoteStep_one h hway hr hxa⟩
    rw [List.map_singleton, State.remoteStep_one h hway hr hxa, State.answerRemote_mem, (State.take_taken hxa).2.mem, hx.mem]

end

/-! ## The answers at the slot that asked -/

theorem execRemoteReply_data {s : State} {k : Nat} {p : Packet} {src : Agent} {id : Nat} {x : List Byte} {op : GOp} (h : s.Arrives k p)
    (hm : src.mod = s.modId) (hb : p.body = .rrep src id (.ok x)) (hw : (s.slot src.who).wait = .remote id op) :
    exec (.remoteReply k) s = .next ((s.taken k).modSlot src.who fun sl => { sl with reply := some (.data x) }) := by
  obtain ⟨ht, hf⟩ := State.take_taken h
  have hw' : ((s.taken k).slot src.who).wait = .remote id op := by rw [State.slot_congr hf.cores, hw]
  obtain ⟨f, hn, hp, -⟩ := h
  change execRemoteReply k s = _
  unfold execRemoteReply
  simp only [hn, hp, hb, hm, ht]
  rw [if_neg fun e => e rfl]
  refine congrArg Host.Outcome.next (State.modSlot_congr ?_)
  simp [hw']

section
variable {s : State} {a : Agent} {id : Nat} {o : Outst} {m : Fin 4096}

theorem State.closeWrite_last (ho : (s.slot a.who).outst.find? (·.id == id) = some o) (hf : o.fails = []) (hl : o.left = [m]) :
    s.closeWrite a id m none = s.modSlot a.who fun sl => { sl with outst := sl.outst.filter fun y => y.id != id } := by
  unfold State.closeWrite
  simp [ho, hl, hf, Outst.entry, lowestFail]

theorem State.closeWrite_counts (ho : (s.slot a.who).outst.find? (·.id == id) = some o) (hf : o.fails = []) (hm : m ∈ o.left)
    (hr : ∃ m' ∈ o.left, m' ≠ m) : s.closeWrite a id m none = s.modSlot a.who fun sl => { sl with
      outst := sl.outst.map fun y => if y.id = id then { o with left := o.left.filter (· ≠ m) } else y } := by
  obtain ⟨m', hm', hne⟩ := hr
  have rest : (o.left.filter (· ≠ m)).isEmpty = false := by
    rw [List.isEmpty_eq_false_iff_exists_mem]
    exact ⟨m', List.mem_filter.mpr ⟨hm', decide_eq_true hne⟩⟩
  unfold State.closeWrite
  simp only [ho]
  rw [if_neg fun h => h.1 hm, rest]
  simp [hf]

theorem State.closeWrite_strange (ho : (s.slot a.who).outst.find? (·.id == id) = some o) (hm : m ∉ o.left) (hl : o.left ≠ [])
    (c : Option Nat) : s.closeWrite a id m c = s := by
  unfold State.closeWrite
  simp only [ho]
  exact if_pos ⟨hm, by simpa using hl⟩

theorem State.closeWrite_fails {c : Nat} (ho : (s.slot a.who).outst.find? (·.id == id) = some o) (hf : o.fails = []) (hl : o.left = [m])
    (hh : o.home = none) : s.closeWrite a id m (some c) =
      (s.modSlot a.who fun sl => { sl with outst := sl.outst.filter fun y => y.id != id }).pushErr a.who
        ⟨o.addr, errInfo ⟨c, m, 1⟩ o.kind, s.cycle⟩ := by
  unfold State.closeWrite
  simp [ho, hl, hf, hh, Outst.entry, lowestFail]

end

theorem State.saveErr_cores (s : State) (w : Who) (k : Nat) (e : ErrEntry) : (s.saveErr w k e).cores = s.cores := by
  unfold State.saveErr State.saveBytes
  dsimp only
  split
  · rfl
  · split
    · rfl
    · split
      · rfl
      · refine foldl_cores (fun s g => ?_) _ s
        split
        · exact s.gwrite_cores ..
        · rfl

theorem State.failItems_cores (s : State) (c : CoreId) (n : Nat) : (s.failItems c n).cores = s.cores := by
  unfold State.failItems
  split <;> rfl

/-- An entry is put behind those of the slot's error queue, and nothing else of the slot changes. -/
theorem State.slot_pushErr (s : State) (w : Who) (e : ErrEntry) :
    (s.pushErr w e).slot w = { s.slot w with errq := (s.slot w).errq ++ [e] } := by
  have pushed : (((s.saveErr w (s.slot w).errq.length e).modSlot w fun sl => { sl with errq := sl.errq ++ [e] }).failItems w.core 1).slot w =
      { s.slot w with errq := (s.slot w).errq ++ [e] } := by
    rw [State.slot_congr (State.failItems_cores ..), State.slot_modSlot_self, State.slot_congr (State.saveErr_cores ..)]
  unfold State.pushErr
  dsimp only
  split
  · rw [State.slot_congr (State.raise_cores ..), pushed]
  · exact pushed

theorem State.ackArrives_eq {s : State} {k : Nat} {p : Packet} {src : Agent} {id : Nat} {r : Option WFail} (h : s.Arrives k p)
    (hm : src.mod = s.modId) (hb : p.body = .rack src id r) :
    s.ackArrives k = (s.taken k).closeWrite src id ((r.map (·.peer)).getD ((srcMod p.src).getD s.modId)) (r.map (·.cause)) := by
  obtain ⟨ht, hf⟩ := State.take_taken h
  obtain ⟨f, hn, hp, -⟩ := h
  unfold State.ackArrives
  simp only [hn, hp, hb, hm, ht, hf.modId]
  simp

theorem answersArrive : Claims.Answers := by
  intro k p src id x m s h hm u
  have hu := (State.take_taken h).2
  have hslot : u.slot src.who = s.slot src.who := hu.slot src.who
  refine ⟨fun op hb hw => execRemoteReply_data h hm hb hw, fun o ho hf => ?_⟩
  have ho : (u.slot src.who).outst.find? (·.id == id) = some o := by rw [hslot, ho]
  have acks {r : Option WFail} (hb : p.body = .rack src id r) := State.ackArrives_eq h hm hb
  refine ⟨fun hl hs hb => ?_, fun hm hr hs hb => ?_, fun hl hm hs hb => ?_, fun e hl hb he hh => ?_⟩
  · refine congrArg Host.Outcome.next ((acks hb).trans ?_)
    rw [show ((none : Option WFail).map (·.peer)).getD ((srcMod p.src).getD s.modId) = m from hs]
    exact State.closeWrite_last ho hf hl
  · refine congrArg Host.Outcome.next ((acks hb).trans ?_)
    rw [hs]
    exact State.closeWrite_counts ho hf hm hr
  · refine congrArg Host.Outcome.next ((acks hb).trans ?_)
    rw [hs]
    exact State.closeWrite_strange ho hm hl _
  · have closed : s.ackArrives k = (u.modSlot src.who fun sl => { sl with outst := sl.outst.filter fun y => y.id != id }).pushErr src.who
        ⟨o.addr, errInfo ⟨e.cause, m, 1⟩ o.kind, u.cycle⟩ := by
      refine (acks hb).trans ?_
      rw [show ((some e).map (·.peer)).getD ((srcMod p.src).getD s.modId) = m from he]
      exact State.closeWrite_fails ho hf hl hh
    refine ⟨_, congrArg Host.Outcome.next closed, ?_⟩
    rw [State.slot_pushErr, State.slot_modSlot_self, hslot, show u.cycle = s.cycle from hu.cycle]
    exact ⟨rfl, rfl⟩

/-- Settles O33: a request is performed part by part at its target, and its answer closes what the slot waits for. -/
theorem remoteEvents : Obligations.RemoteEvents := ⟨requestAtTarget, answersArrive⟩

end Sys2Proof.Machine
end

section
/-! SUPPORT. The on-chip routers, the die links and the Erg ports (06 R134, R135, R139, 12 R248-R251). -/

namespace Sys2Proof.Machine

/-! ## Stamps: only the cycle at which a packet came to the head of its channel changes -/

/-- The flight but for that cycle. -/
def Flight.unstamped (f : Flight) : Flight := { f with headAt := none }
/-- The packet at its switch but for that cycle. -/
def SwPacket.unstamped (x : SwPacket) : SwPacket := { x with headAt := none }

theorem stampHeads_unstamped (n : Nat) (seen : List (BufId × Bool)) (l : List Flight) :
    (stampHeads n seen l).map (·.unstamped) = l.map (·.unstamped) := by
  induction l generalizing seen with
  | nil => rfl
  | cons f l ih =>
    rw [stampHeads]
    split
    · rw [List.map_cons, List.map_cons, ih]
    · split <;> rw [List.map_cons, List.map_cons, ih] <;> rfl

theorem stampSwitch_unstamped (n : Nat) (seen : List (Nat × TClass × Bool)) (l : List SwPacket) :
    (stampSwitch n seen l).map (·.unstamped) = l.map (·.unstamped) := by
  induction l generalizing seen with
  | nil => rfl
  | cons x l ih =>
    rw [stampSwitch]
    split <;> rw [List.map_cons, List.map_cons, ih]
    rfl

theorem stampHeads_getElem? {l : List Flight} {k : Nat} {f : Flight} (n : Nat) (h : l[k]? = some f) :
    ∃ g, (stampHeads n [] l)[k]? = some g ∧ g.unstamped = f.unstamped := by
  have he := congrArg (·[k]?) (stampHeads_unstamped n [] l)
  simp only [List.getElem?_map, h] at he
  exact Option.map_eq_some_iff.mp he

theorem stampSwitch_getElem? {l : List SwPacket} {k : Nat} {x : SwPacket} (n : Nat) (h : l[k]? = some x) :
    ∃ y, (stampSwitch n [] l)[k]? = some y ∧ y.unstamped = x.unstamped := by
  have he := congrArg (·[k]?) (stampSwitch_unstamped n [] l)
  simp only [List.getElem?_map, h] at he
  exact Option.map_eq_some_iff.mp he

theorem stampSwitch_pkts (n : Nat) (l : List SwPacket) : (stampSwitch n [] l).map (·.pkt) = l.map (·.pkt) := by
  have he := congrArg (List.map (·.pkt)) (stampSwitch_unstamped n [] l)
  rwa [List.map_map, List.map_map] at he

theorem Flight.unstamped_inj {f g : Flight} (h : g.unstamped = f.unstamped) : g.pkt = f.pkt ∧ g.esc = f.esc :=
   ⟨(congrArg Flight.pkt h :), (congrArg Flight.esc h :)⟩

theorem SwPacket.unstamped_inj {x y : SwPacket} (h : y.unstamped = x.unstamped) :
    y.pkt = x.pkt ∧ y.promoted = x.promoted ∧ y.reserved = x.reserved ∧ y.input = x.input :=
  ⟨(congrArg SwPacket.pkt h :), (congrArg SwPacket.promoted h :), (congrArg SwPacket.reserved h :), (congrArg SwPacket.input h :)⟩

theorem State.switch_setSwitch (s : State) (n : Nat) (sw : Switch) :
    (s.setSwitch n sw).switch n = { sw with queue := stampSwitch s.cycle [] sw.queue } := assocD_set_self _ _ _ _

/-! ## Routers and links -/

/-- The packets of a flow that stands still go by the escape channel, each from where it is (06 R135). -/
def State.escapes (s : State) (f : Flight) : State := (s.pin (flowOf f.pkt)).setNet (s.net.map fun (g : Flight) =>
  if g.buf = f.buf ∧ flowOf g.pkt = flowOf f.pkt then { g with esc := true, headAt := none, route := s.escapeWay g.pkt g.route } else g)

section
variable {s : State} {f : Flight} {k : Nat}

theorem State.net_escapes (h : s.net[k]? = some f) : ∃ g, (s.escapes f).net[k]? = some g ∧ g.pkt = f.pkt ∧ g.esc = true := by
  obtain ⟨g, hg, he⟩ := stampHeads_getElem? (f := { f with esc := true, headAt := none, route := s.escapeWay f.pkt f.route }) s.cycle (k := k)
    (l := s.net.map fun (g : Flight) => if g.buf = f.buf ∧ flowOf g.pkt = flowOf f.pkt then
      { g with esc := true, headAt := none, route := s.escapeWay g.pkt g.route } else g) (by rw [List.getElem?_map, h]; simp)
  exact ⟨g, hg, Flight.unstamped_inj he⟩

theorem State.pins_escapes (h : s.net[k]? = some f) : flowOf f.pkt ∈ (s.escapes f).pins := by
  obtain ⟨g, hg, hp, he⟩ := State.net_escapes h
  have pinned : flowOf f.pkt ∈ (s.pin (flowOf f.pkt)).pins := by
    unfold State.pin
    dsimp only
    split
    · assumption
    · exact List.mem_append_right _ List.mem_cons_self
  refine List.mem_filter.mpr ⟨pinned, Bool.or_eq_true_iff.mpr (.inl (List.any_eq_true.mpr ⟨g, List.mem_of_getElem? hg, ?_⟩))⟩
  rw [he, hp]
  simp

end

/-- Where no access is in flight, the loss of a link fails none. -/
theorem State.loseLink_still {s : State} (h : s.Still) (hp : s.pins = []) (l : LinkId) : s.loseLink l = s.setLink l ⟨.lost, 0⟩ := by
  obtain ⟨hn, hw⟩ := h
  have none_across (w : Who) : s.acrossLink w l = false := by
    have ht := (hw w).2.1
    unfold State.acrossLink
    generalize s.slot w = sl at ht
    cases hwait : sl.wait with
    | glob r => rw [hwait] at ht; cases ht
    | sys r =>
      cases r with
      | cmstore c ls d => rw [hwait] at ht; cases ht
      | _ => simp [hwait]
    | _ => simp [hwait]
  have stores (w : Who) : s.failStores w l = s := by
    unfold State.failStores
    rw [(hw w).1]
    rfl
  have kept (ws : List Who) : ws.foldl (fun (s : State) (w : Who) => s.failStores w l) s = s := by
    induction ws with
    | nil => rfl
    | cons w ws ih => rw [List.foldl_cons, stores, ih]
  have flights : (s.setLink l ⟨.lost, 0⟩).failFlights (·.crosses l) 0x21 = s.setLink l ⟨.lost, 0⟩ := by
    unfold State.failFlights State.setNet State.livePins
    cases l <;> simp [State.setLink, hn, hp, stampHeads]
  unfold State.loseLink
  have lost_none (ws : List Who) : ws.filter (fun _ => false) = [] := List.filter_eq_nil_iff.mpr fun _ _ => Bool.false_ne_true
  simp only [none_across, kept, flights, lost_none, List.foldl_nil]

theorem network : Claims.Network := by
  intro b k n input c0 cls f x l s
  refine ⟨fun hb hk he h0 => ⟨fun hc => ?_, fun hc => ?_⟩, fun hh hq h0 hc => ?_, fun hb hk h0 hc => ?_, fun hu => ⟨fun hr => ?_, fun hr => ?_⟩,
    fun hu => ⟨fun hc => ?_, fun hc hs hp => ?_⟩⟩
  · change execPacketPromotion (.router b) s = _
    simp [execPacketPromotion, hb, hk, he, Flight.stood, h0, hc]
  · change execPacketPromotion (.router b) s = _
    simp [execPacketPromotion, hb, hk, he, Flight.stood, h0, Nat.not_le.mpr hc]
  · obtain ⟨y, hy, he⟩ := stampSwitch_getElem? (x := { x with promoted := true }) s.cycle (k := k)
      (l := (s.switch n).queue.set k { x with promoted := true }) (by simp [(List.getElem?_eq_some_iff.mp hq).1])
    obtain ⟨hp, hpr, -⟩ := SwPacket.unstamped_inj he
    refine ⟨s.setSwitch n { s.switch n with queue := (s.switch n).queue.set k { x with promoted := true } }, y, ?_, ?_, hp, hpr⟩
    · change execPacketPromotion (.switch n input cls) s = _
      simp [execPacketPromotion, hh, hq, SwPacket.stood, h0, hc]
    · rw [State.switch_setSwitch]
      exact hy
  · refine ⟨s.escapes f, ?_, State.pins_escapes hk, State.net_escapes hk⟩
    change execDeadlockEscape (.router b) s = _
    simp only [execDeadlockEscape, hb, hk, Flight.stood, h0, Option.any_some, hc, decide_true, if_true]
    rfl
  · exact if_pos ⟨hu, hr⟩ |>.trans (by rw [hu])
  · exact if_pos ⟨hu, hr⟩
  · change execUcieLinkRestored l s = _
    simp only [execUcieLinkRestored, hu, if_pos hc]
    rfl
  · change execUcieLinkLost l s = _
    simp only [execUcieLinkLost, hu, if_pos hc, State.loseLink_still hs hp]

/-! ## Erg ports -/

/-- A port that expects an empty flit and holds nothing takes it, and expects the next one. -/
theorem Port.data_next {p : Port} {f : Flit} (cycle : Nat) (hs : f.seq = p.expect) (hb : f.payload = []) (hh : p.held = []) (hg : p.gaps = []) :
    (p.data cycle f).2 = [] ∧ (p.data cycle f).1.expect = p.expect + 1 ∧ (p.data cycle f).1.held = [] := by
  have near : (f.seq - p.expect).val = 0 := by rw [hs, Fin.sub_self]; rfl
  unfold Port.data
  simp [near, hh, hg, hb, seqRange, Port.release, hs]

theorem Port.acked_quiet {p : Port} (n : Fin 4096) (hu : p.unacked = []) : (p.acked n).2 = [] ∧ (p.acked n).1.expect = p.expect ∧
    (p.acked n).1.held = p.held ∧ (p.acked n).1.gaps = p.gaps := by
  unfold Port.acked
  simp [hu]

/-- The port that has looked whether it has to ask for a missing flit again (12 R250). -/
def Port.asked (p : Port) (q : Fin 4096) (cycle clock : Nat) : Port :=
  let due (g : Fin 4096 × Nat × Nat) : Bool := decide (g.1 = q) && decide (2048 * clock ≤ 1000 * (cycle - g.2.1))
  { p with
    toNak := if p.gaps.any due ∧ q ∉ p.toNak then p.toNak ++ [q] else p.toNak
    gaps := p.gaps.map fun (g : Fin 4096 × Nat × Nat) => if due g then (g.1, cycle, g.2.2 + 1) else g }

theorem Port.asked_due {p : Port} {q : Fin 4096} {c m cycle clock : Nat} (hg : p.gaps = [(q, c, m)]) (hc : 2048 * clock ≤ 1000 * (cycle - c)) :
    p.asked q cycle clock = { p with toNak := if q ∈ p.toNak then p.toNak else p.toNak ++ [q], gaps := [(q, cycle, m + 1)] } := by
  unfold Port.asked
  by_cases hm : q ∈ p.toNak <;> simp [hg, hc, hm]

theorem Port.asked_early {p : Port} {q : Fin 4096} {c m cycle clock : Nat} (hg : p.gaps = [(q, c, m)]) (hc : 1000 * (cycle - c) < 2048 * clock) :
    p.asked q cycle clock = p := by
  have early : ¬ 2048 * clock ≤ 1000 * (cycle - c) := Nat.not_le.mpr hc
  cases p
  dsimp only at hg
  subst hg
  simp [Port.asked, early]

theorem foldl_still {α β : Type} {f : β → α → β} {l : List α} {b : β} (h : ∀ x ∈ l, f b x = b) : l.foldl f b = b := by
  induction l with
  | nil => rfl
  | cons a l ih =>
    rw [List.foldl_cons, h a List.mem_cons_self]
    exact ih fun x hx => h x (List.mem_cons_of_mem _ hx)

section
variable {s : State} {i : Fin 16}

theorem execErgFlitReceive_data {f : Flit} (hu : s.ports[i].st = .up) (ht : f.ty = 0) (hb : f.payload = []) (hk : f.nak = none)
    (hs : f.seq = s.ports[i].expect) (hh : s.ports[i].held = []) (hg : s.ports[i].gaps = []) (ha : s.ports[i].unacked = []) :
    exec (.ergFlitReceive i f true) s =
      .next { s with ports := s.ports.set i (((s.ports[i].acked f.ack).1.data s.cycle f).1) } := by
  obtain ⟨hgone, hexp, hheld, hgaps⟩ := Port.acked_quiet f.ack ha
  have hps := (Port.data_next (p := (s.ports[i].acked f.ack).1) s.cycle (hs.trans hexp.symm) hb (hheld.trans hh) (hgaps.trans hg)).1
  change execErgFlitReceive i f true s = _
  unfold execErgFlitReceive
  simp only [hu, ht, hk]
  generalize s.ports[i].acked f.ack = a at *
  obtain ⟨p, gone⟩ := a
  dsimp only at *
  generalize p.data s.cycle f = d at *
  obtain ⟨q, ps⟩ := d
  dsimp only at *
  subst hgone hps
  rfl

theorem State.failPlane_quiet {n : Nat} (h : ∀ x ∈ s.planeSwitches n, x.2.queue = [] ∧ x.2.wait = [] ∧ x.2.replies = []) :
    (s.failPlane n).ports = s.ports := by
  unfold State.failPlane
  refine (congrArg State.ports (foldl_still fun x hx => ?_)).trans rfl
  obtain ⟨hq, hw, hr⟩ := h x hx
  dsimp only
  rw [hq, hw, hr]
  rfl

theorem State.raise_ports (s : State) (k : EventKind) (die : DieId) (l : List Nat) : (s.raise k die l).ports = s.ports := by
  unfold State.raise State.queueEvents
  dsimp only
  split <;> rfl

/-- The state in which the port is lost, with what it held gone. -/
def State.portGone (s : State) (i : Fin 16) : State :=
  { s with ports := s.ports.set i { Port.reset with st := .lost, discarded := s.ports[i].discarded } }

/-- The loss of a port and a plane that hold nothing, where another port is left, fails no packet and loses no module. -/
theorem execErgPortLost_quiet {n : Nat} (hr : s.ports[i].st = .retrain n) (hc : n + 200000 ≤ s.cycle) (hw : s.ports[i].waiting = [])
    (ha : s.ports[i].unacked = []) (hq : ∀ x ∈ s.planeSwitches i.val, x.2.queue = [] ∧ x.2.wait = [] ∧ x.2.replies = [])
    (hj : ∃ j, j ≠ i ∧ s.ports[j].st ≠ .lost) :
    exec (.ergPortLost i) s = .next (((s.portGone i).failPlane i.val).raise .portLost 6 [i.val]) := by
  have left : ((s.portGone i).failPlane i.val).planes.isEmpty = false := by
    obtain ⟨j, hne, hl⟩ := hj
    refine List.isEmpty_eq_false_iff_exists_mem.mpr ⟨j, List.mem_filter.mpr ⟨List.mem_finRange j, ?_⟩⟩
    rw [State.failPlane_quiet (s := s.portGone i) hq]
    have other : i.val ≠ j.val := fun e => hne (Fin.ext e).symm
    simpa [State.portGone, Vector.getElem_set, other] using hl
  change execErgPortLost i s = _
  unfold execErgPortLost
  simp only [hr, if_pos hc, hw, ha, List.map_nil, List.flatten_nil, List.nil_append, List.foldl_nil]
  exact congrArg (fun b => Host.Outcome.next (State.raise (if b = true then _ else (s.portGone i).failPlane i.val) .portLost 6 [i.val])) left

end

theorem ergPorts : Claims.ErgPorts := by
  intro i f q n c m s p put
  refine ⟨fun hu => ⟨?_, fun ht hb hk hs hh hg ha => ⟨_, execErgFlitReceive_data hu ht hb hk hs hh hg ha, ?_⟩, if_pos hu, fun he => if_pos ⟨hu, he⟩⟩,
    fun hg => ⟨fun hc => ?_, fun hc => ?_⟩, fun hr => ⟨fun hc => ?_, fun hc hw ha hq hj => ?_⟩⟩
  · change execErgFlitReceive i f false s = _
    unfold execErgFlitReceive
    rw [if_neg fun h => h hu, if_pos (.inl rfl)]
  · obtain ⟨-, hexp, hheld, hgaps⟩ := Port.acked_quiet f.ack ha
    obtain ⟨-, he, hd⟩ := Port.data_next (p := (s.ports[i].acked f.ack).1) s.cycle (hs.trans hexp.symm) hb (hheld.trans hh) (hgaps.trans hg)
    simp only [Fin.getElem_fin, Vector.getElem_set_self]
    exact ⟨he.trans (congrArg (· + 1) hexp), hd⟩
  · exact congrArg (fun x => Host.Outcome.next (put x)) (Port.asked_due hg hc)
  · exact congrArg (fun x => Host.Outcome.next (put x)) (Port.asked_early hg hc)
  · change execErgPortRestored i s = _
    unfold execErgPortRestored
    simp only [show s.ports[i].st = _ from hr, if_pos hc]
    rfl
  · exact ⟨_, execErgPortLost_quiet hr hc hw ha hq hj, by rw [State.raise_ports, State.failPlane_quiet (s := s.portGone i) hq]; simp [State.portGone]⟩

end Sys2Proof.Machine
end

section
/-! SUPPORT. The switches (12 R247, R252, R253). -/

namespace Sys2Proof.Machine

section
variable {s : State} {n : Nat}

theorem State.pkts_setSwitch (s : State) (n : Nat) (sw : Switch) :
    ((s.setSwitch n sw).switch n).queue.map (·.pkt) = sw.queue.map (·.pkt) := by
  rw [State.switch_setSwitch]
  exact stampSwitch_pkts _ _

/-! ## Combined requests -/

theorem execSwitchCombine_adds {i j : Nat} {x y : SwPacket} {sa sb : Agent} {ia ib : Nat} {job : BitVec 32} {va : Word} {w : Width} {xa xb : Word}
    (hij : i < j) (hi : (s.switch n).queue[i]? = some x) (hj : (s.switch n).queue[j]? = some y)
    (hx : x.pkt.body = .rreq sa ia job va (.amo .add w xa) false) (hy : y.pkt.body = .rreq sb ib job va (.amo .add w xb) false)
    (hd : x.pkt.dst = y.pkt.dst) (ho : x.out = y.out) (hrx : x.reserved = []) (hry : y.reserved = [])
    (hl : s.oneLaunch x.pkt.body y.pkt.body = true) (hw : (s.switch n).wait.length < 512)
    (hf : ((s.switch n).queue.take j).any (fun z => y.pkt.sameFlow z.pkt) = false) :
    exec (.switchCombine n i j) s = .next (s.setSwitch n { s.switch n with
      queue := ((s.switch n).queue.set i { x with pkt := { x.pkt with body := .rreq sa ia job va (.amo .add w (xa + xb)) false } }).eraseIdx j
      wait := (s.switch n).wait ++ [⟨x.pkt, y.pkt, xa⟩] }) := by
  have hl' := hl
  rw [hx, hy] at hl'
  change execSwitchCombine n i j s = _
  unfold execSwitchCombine addend
  simp only [hi, hj, hx, hy]
  rw [if_pos ⟨hij, trivial, trivial, trivial, hd, ho, hrx, hry, hl', hw, by rw [hf]; rfl⟩]
  rfl

theorem execCombinedReply_splits {k : Nat} {p a b : Packet} {sa sb : Agent} {ia ib : Nat} {job : BitVec 32} {va : Word} {w : Width}
    {xa xb : Word} {bs : List Byte} (hk : (s.switch n).replies[k]? = some p) (hp : p.body = .rrep sa ia (.ok bs))
    (hw : (s.switch n).wait = [⟨a, b, xa⟩]) (ha : a.body = .rreq sa ia job va (.amo .add w xa) false)
    (hb : b.body = .rreq sb ib job va (.amo .add w xb) false) :
    exec (.combinedReply n k) s = .next (s.setSwitch n { s.switch n with
      replies := (s.switch n).replies.eraseIdx k ++ [{ p with body := .rrep sa ia (.ok (leBytes w.bytes (leNat bs))) },
        { p with body := .rrep sb ib (.ok (leBytes w.bytes (leNat bs + xa.toNat))) }], wait := [] }) := by
  have found : ((List.range 1).reverse.find? fun x => ([⟨a, b, xa⟩] : List Combined)[x]?.any fun c => answers p.body c.a.body) = some 0 := by
    simp [answers, hp, ha]
  change execCombinedReply n k s = _
  unfold execCombinedReply
  simp only [hk, hw, List.length_singleton, found]
  simp [hp, ha, hb, splitReply]

theorem execCombinedReply_passes {k : Nat} {p : Packet} (hk : (s.switch n).replies[k]? = some p) (hw : (s.switch n).wait = []) :
    exec (.combinedReply n k) s = .next ((s.setSwitch n { s.switch n with replies := (s.switch n).replies.eraseIdx k }).arriveAt (n / 96)
      ((srcMod p.src).getD s.modId) p) := by
  change execCombinedReply n k s = _
  unfold execCombinedReply
  simp only [hk, hw, List.length_nil, List.range_zero, List.reverse_nil, List.find?_nil]

/-! ## Packets that move on -/

theorem execMulticastForward_reserves {k o : Nat} {os : List Nat} {x : SwPacket} (hk : (s.switch n).queue[k]? = some x)
    (hh : (s.switch n).isHead k = true) (hr : x.reserved = []) (ht : s.oldTag x.pkt = false) (hn : s.needs n x = o :: os)
    (hf : ∀ y ∈ (s.switch n).queue, ∀ u ∈ o :: os, u ∉ y.reserved) :
    exec (.multicastForward n k) s =
      .next (s.setSwitch n { s.switch n with queue := (s.switch n).queue.set k { x with reserved := o :: os } }) := by
  have free : (s.switch n).queue.any (fun y => (o :: os).any fun o => decide (o ∈ y.reserved)) = false := by
    simpa using hf
  change execMulticastForward n k s = _
  unfold execMulticastForward
  simp only [hk, hh, hr, ht, hn, free]
  simp

theorem execMulticastForward_passes {k o : Nat} {x : SwPacket} (hk : (s.switch n).queue[k]? = some x) (hh : (s.switch n).isHead k = true)
    (hr : x.reserved = [o]) : exec (.multicastForward n k) s =
      .next ((s.setSwitch n { s.switch n with queue := (s.switch n).queue.eraseIdx k }).passOut n o x).livePins := by
  change execMulticastForward n k s = _
  unfold execMulticastForward
  simp only [hk, hh, hr]
  simp

/-- A packet that leaves the last stage of a plane for another module is put on the line to it. -/
theorem State.passOut_leaves {o : Nat} {x : SwPacket} (hn : n / 32 % 3 = 2) (hm : Fin.ofNat 4096 (n % 32 * 128 + o) ≠ s.modId) :
    s.passOut n o x = s.setSwitch n { s.switch n with out := (s.switch n).out ++ [((Fin.ofNat 4096 (n % 32 * 128 + o)).val, x.pkt)] } := by
  unfold State.passOut
  rw [if_neg (by omega)]
  exact if_neg hm

/-- One that goes to the next stage joins the queue of its switch there. -/
theorem State.passOut_enters {o : Nat} {x : SwPacket} (hn : n / 32 % 3 < 2) :
    ∃ z ∈ ((s.passOut n o x).switch (nextSwitch n o).1).queue, z.pkt = x.pkt ∧ z.input = (nextSwitch n o).2 := by
  unfold State.passOut
  rw [if_pos hn]
  unfold State.enterSwitch
  rw [State.switch_setSwitch]
  dsimp only
  generalize hz : (⟨_, _, _, _, _, _, _, _, _⟩ : SwPacket) = z
  obtain ⟨y, hy, he⟩ := stampSwitch_getElem? (l := (s.switch (nextSwitch n o).1).queue ++ [z]) (x := z) s.cycle
    List.getElem?_concat_length
  obtain ⟨hp, -, -, hi⟩ := SwPacket.unstamped_inj he
  exact ⟨y, List.mem_of_getElem? hy, hp.trans (by rw [← hz]), hi.trans (by rw [← hz])⟩

end

theorem eraseIdx_map_eq {α β : Type} (f : α → β) (l : List α) (k : Nat) : (l.map f).eraseIdx k = (l.eraseIdx k).map f := by
  induction l generalizing k with
  | nil => rfl
  | cons a l ih =>
    cases k with
    | zero => rfl
    | succ k => rw [List.map_cons, List.eraseIdx_cons_succ, ih, List.eraseIdx_cons_succ, List.map_cons]

theorem switches : Claims.Switches := by
  intro n i j k o os x y a b p sa sb ia ib job va w xa xb bs s sw
  refine ⟨fun hij hi hj hx hy hd ho hrx hry hl hw hf => ⟨_, execSwitchCombine_adds hij hi hj hx hy hd ho hrx hry hl hw hf, ?_, ?_⟩,
    fun hk => ⟨fun hp hw ha hb => ⟨_, execCombinedReply_splits hk hp hw ha hb, ?_⟩, execCombinedReply_passes hk⟩,
    fun hk hh => ⟨fun hr ht hn hf => ?_, fun hr hn hm => ⟨_, execMulticastForward_passes hk hh hr, ?_⟩, fun hr hn => ?_⟩⟩
  · rw [State.switch_setSwitch]
  · rw [State.pkts_setSwitch, ← eraseIdx_map_eq, List.map_set]
  · rw [State.switch_setSwitch]
    exact ⟨rfl, rfl⟩
  · obtain ⟨z, hz, he⟩ := stampSwitch_getElem? (x := { x with reserved := o :: os }) s.cycle (k := k)
      (l := (s.switch n).queue.set k { x with reserved := o :: os }) (List.getElem?_set_self (List.getElem?_eq_some_iff.mp hk).1)
    obtain ⟨hp, -, hres, -⟩ := SwPacket.unstamped_inj he
    refine ⟨_, z, execMulticastForward_reserves hk hh hr ht hn hf, ?_, hp, hres⟩
    rw [State.switch_setSwitch]
    exact hz
  · rw [State.passOut_leaves (s := s.setSwitch n { s.switch n with queue := (s.switch n).queue.eraseIdx k }) hn hm]
    refine ⟨?_, (State.pkts_setSwitch _ _ _).trans ?_⟩
    · refine (congrArg Switch.out (State.switch_setSwitch _ _ _)).trans ?_
      rw [State.switch_setSwitch]
    · exact State.pkts_setSwitch _ _ _
  · obtain ⟨z, hz, hp, hi⟩ := State.passOut_enters (s := s.setSwitch n { s.switch n with queue := (s.switch n).queue.eraseIdx k }) (o := o)
      (x := x) hn
    exact ⟨_, z, execMulticastForward_passes hk hh hr, hz, hp, hi⟩

/-- Settles O35: the routers, links, ports and switches, each by the equation of its event. -/
theorem networkEvents : Obligations.NetworkEvents := ⟨network, ergPorts, switches⟩

end Sys2Proof.Machine
end

section
/-! SUPPORT. The steps of collectives and repartitions (13 R265, R272, R276, R284-R288). -/

namespace Sys2Proof.Machine

/-! ## A job's mail, and the operations of a slot -/

section
variable {s : State}

theorem State.modView_cores (s : State) (job : BitVec 32) (f : JobView → JobView) : (s.modView job f).cores = s.cores := by
  unfold State.modView
  split <;> rfl

theorem State.collSend_cores (s : State) (t : CollTag) (m : Fin 4096) (b : CollBody) : (s.collSend t m b).cores = s.cores := by
  unfold State.collSend
  split
  · exact s.modView_cores ..
  · exact (s.send_butTraffic _).cores

theorem State.collSendAll_cores (s : State) (t : CollTag) (ms : List (Fin 4096)) (b : CollBody) : (s.collSendAll t ms b).cores = s.cores :=
  foldl_cores (fun s m => s.collSend_cores t m b) ms s

theorem State.unmail_cores (s : State) (t : CollTag) (f : CollBody → Bool) : (s.unmail t f).cores = s.cores := s.modView_cores ..

theorem State.collOp_congr {u : State} (h : u.cores = s.cores) (w : Who) (num : Word) : u.collOp w num = s.collOp w num := by
  rw [State.collOp, State.collOp, State.slot_congr h]

/-- An operation found under its number has that number. -/
theorem State.collOp_num {w : Who} {num : Word} {o : CollOp} (h : s.collOp w num = some o) : o.num = num := by
  simpa using List.find?_some h

theorem find?_map_same {l : List CollOp} {num : Word} {f : CollOp → CollOp} (hf : ∀ x, x.num = num → (f x).num = num) :
    (l.map fun o => if o.num = num then f o else o).find? (fun o => decide (o.num = num)) =
      (l.find? fun o => decide (o.num = num)).map f := by
  induction l with
  | nil => rfl
  | cons x l ih =>
    rw [List.map_cons]
    by_cases hx : x.num = num
    · rw [if_pos hx, List.find?_cons_of_pos (by simpa using hf x hx), List.find?_cons_of_pos (by simpa using hx)]
      rfl
    · rw [if_neg hx, List.find?_cons_of_neg (by simpa using hx), List.find?_cons_of_neg (by simpa using hx), ih]

theorem State.collOp_modColl {w : Who} {num : Word} {o : CollOp} {f : CollOp → CollOp} (h : s.collOp w num = some o)
    (hf : ∀ x, x.num = num → (f x).num = num) : (s.modColl w num f).collOp w num = some (f o) := by
  unfold State.collOp State.modColl at *
  rw [State.slot_modSlot_self]
  exact (find?_map_same hf).trans (by rw [h]; rfl)

/-- What a job's view is after a change of it. -/
theorem State.viewOf_modView {job : BitVec 32} {f : JobView → JobView} (hf : ∀ v, (f v).job = v.job) :
    (s.modView job f).viewOf job = f (s.viewOf job) := by
  have key : (fun v : JobView => (if v.job == job then f v else v).job == job) = fun v => v.job == job := by
    funext v
    split
    · rw [hf]
    · rfl
  unfold State.modView State.viewOf
  split
  next h =>
    obtain ⟨v, hv⟩ := Option.isSome_iff_exists.mp (List.find?_isSome.mpr (List.any_eq_true.mp h))
    have hj : (v.job == job) = true := List.find?_some (p := fun v : JobView => v.job == job) hv
    have found : (s.views.map fun v => if v.job == job then f v else v).find? (·.job == job) = some (f v) := by
      rw [List.find?_map, show ((fun v : JobView => v.job == job) ∘ fun v => if v.job == job then f v else v) = _ from key, hv]
      exact congrArg some (if_pos hj)
    rw [hv]
    exact congrArg (fun o : Option JobView => o.getD (.fresh job)) found
  next h =>
    have absent : s.views.find? (·.job == job) = none := by
      rw [List.find?_eq_none]
      exact fun v hv he => h (List.any_eq_true.mpr ⟨v, hv, he⟩)
    have fresh : ((f (.fresh job)).job == job) = true := by rw [hf]; exact beq_self_eq_true job
    have last : (s.views ++ [f (.fresh job)]).find? (·.job == job) = some (f (.fresh job)) := by
      rw [List.find?_append, absent]
      exact List.find?_cons_of_pos (p := fun v : JobView => v.job == job) fresh
    rw [absent]
    exact congrArg (fun o : Option JobView => o.getD (.fresh job)) last

theorem State.hostSplits_unmail {t : CollTag} (f : CollBody → Bool) : (s.unmail t f).hostSplits t.job = s.hostSplits t.job := by
  have hv : ((s.unmail t f).viewOf t.job).modes = (s.viewOf t.job).modes :=
    (congrArg JobView.modes (State.viewOf_modView (s := s) (job := t.job)
      (f := fun v => { v with inbox := v.inbox.filter fun x => !(decide (x.1 = t) && f x.2) }) fun _ => rfl) :)
  unfold State.hostSplits
  rw [hv]
  split
  · rfl
  · unfold State.unmail State.modView
    split <;> rfl

theorem State.splitReqs_unmail (t : CollTag) (f : CollBody → Bool) : (s.unmail t f).splitReqs = s.splitReqs := by
  unfold State.unmail State.modView
  split <;> rfl

theorem State.raise_splitReqs (s : State) (k : EventKind) (die : DieId) (l : List Nat) : (s.raise k die l).splitReqs = s.splitReqs := by
  unfold State.raise State.queueEvents
  dsimp only
  split <;> rfl

end

/-! ## The steps of a collective -/

section
variable {s : State} {w : Who} {num : Word} {o : CollOp}

/-- The operation with its sequence number, as its job's view gives it. -/
def JobView.started (v : JobView) (me : Fin 4096) (o : CollOp) : CollOp := { o with
  st := .matching, seq := v.chans[o.chan], issueView := v.view.num, view := v.view.num, members := v.view.count, rank := v.view.rank me }

theorem State.collOp_takeSeq (h : s.collOp w num = some o) (hm : (s.viewOf (s.ownJob w)).standing = .member)
    (hh : (s.slot w).xctx.ops.head? = some o) (hd : s.storesDone o.rel = true)
    (hr : s.stagingUsed + ({ o with st := CollSt.matching }).staged ≤ s.settings.staging * 2 ^ 20) :
    (s.takeSeq w o).collOp w num = some ((s.viewOf (s.ownJob w)).started s.modId o) := by
  obtain rfl : o.num = num := State.collOp_num h
  have first : (s.slot w).xctx.ops.takeWhile (fun x => decide (x.num ≠ o.num)) = [] := by
    cases hops : (s.slot w).xctx.ops with
    | nil => rfl
    | cons x l =>
      rw [hops] at hh
      rw [Option.some.inj hh]
      simp
  unfold State.takeSeq
  dsimp only
  rw [first, if_neg (by simp [hm, hd]; omega)]
  refine (State.collOp_congr (State.collSendAll_cores ..) _ _).trans ((State.collOp_congr (State.modView_cores ..) _ _).trans ?_)
  exact State.collOp_modColl h fun _ _ => rfl

theorem execCollMatch_queued (h : s.collOp w num = some o) (hq : o.st = .queued) :
    exec (.collMatch w num) s = .next (s.takeSeq w o) := by
  change execCollMatch w num s = _
  unfold execCollMatch
  simp only [h]
  exact if_pos hq

theorem execCollFinal_arrived {x : List (BitVec 32)} (h : s.collOp w num = some o) (hr : o.st = .running)
    (hx : finalOf (s.mail (o.tag (s.ownJob w))) = some x) : exec (.collFinal w num) s = .next (s.takeFinal w o) := by
  change execCollFinal w num s = _
  unfold execCollFinal
  simp [h, hr, hx]

theorem State.collOp_takeFinal {x : List (BitVec 32)} (h : s.collOp w num = some o)
    (hx : finalOf (s.mail (o.tag (s.ownJob w))) = some x) (hv : o.view = (s.viewOf (s.ownJob w)).view.num)
    (hm : (s.viewOf (s.ownJob w)).standing = .member) :
    (s.takeFinal w o).collOp w num = some { o with st := .final, result := x } := by
  obtain rfl : o.num = num := State.collOp_num h
  unfold State.takeFinal
  dsimp only
  rw [if_neg fun e => e hv]
  simp only [hx]
  rw [if_neg fun e => e hv, if_neg fun e => e hm]
  refine (State.collOp_congr (State.collSend_cores ..) _ _).trans ?_
  exact State.collOp_modColl ((State.collOp_congr (State.unmail_cores ..) _ _).trans h) fun _ e => e

theorem execCollRelease_told (h : s.collOp w num = some o) (hf : o.st = .final) (hl : s.collLeader w ≠ s.modId)
    (hr : .release ∈ s.mail (o.tag (s.ownJob w))) :
    exec (.collRelease w num) s = .next (s.modColl w num fun y => { y with st := .writing }) := by
  have told : (s.mail (o.tag (s.ownJob w))).any (fun b => decide (b = .release)) = true := List.any_eq_true.mpr ⟨_, hr, by simp⟩
  change execCollRelease w num s = _
  unfold execCollRelease
  simp only [h, hf, told]
  simp [hl]

/-- A collective that writes nothing has nothing to write before its number is taken. -/
theorem execCollWriteDone_barrier (h : s.collOp w num = some o) (hw : o.st = .writing) (hp : o.p.repart = false) (hk : o.p.kind = 3)
    (hr : o.record = 0) (hs : o.status = 0) :
    exec (.collWriteDone w num) s = .next ((((s.modSlot w fun sl => sl).modColl w num fun x => { x with st := .done }).settleColl w).failItems
      w.core 0) := by
  have pieces : s.collPieces o = ([], s) := by
    unfold State.collPieces State.outputOf
    simp [hp, hk, hr]
  change execCollWriteDone w num s = _
  unfold execCollWriteDone
  simp only [h, hw, pieces, State.pagesReady, List.foldl_nil, hs]
  rfl

theorem State.slot_settleColl_one (ho : (s.slot w).xctx.ops = [o]) (hd : o.st = .done) (hn : o.notify = none) :
    (s.settleColl w).slot w = { s.slot w with xctx := { (s.slot w).xctx with tl := o.num, ops := [] } } := by
  unfold State.settleColl
  simp [ho, hd, hn]

theorem collectiveSteps : Claims.CollectiveSteps := by
  intro w num o x s h hn v
  refine ⟨fun hq hm hh hd hr => ⟨_, execCollMatch_queued h hq, State.collOp_takeSeq h hm hh hd hr⟩,
    fun hr hx hv hm => ⟨_, execCollFinal_arrived h hr hx, State.collOp_takeFinal h hx hv hm⟩,
    fun hf hl hr => execCollRelease_told h hf hl hr, fun hw hp hk hr hno hs ho => ⟨_, execCollWriteDone_barrier h hw hp hk hr hs, ?_⟩⟩
  rw [State.slot_congr (State.failItems_cores ..)]
  have done : (((s.modSlot w fun sl => sl).modColl w num fun x => { x with st := .done }).slot w).xctx.ops = [{ o with st := .done }] := by
    rw [State.modColl, State.slot_modSlot_self, State.slot_modSlot_self, ho]
    simp [hn]
  rw [State.slot_settleColl_one done rfl hno]
  exact ⟨hn, rfl⟩

end

theorem collectiveCombine : Claims.CollectiveCombine := by
  intro t i j lo hi hi' x y w o s hf hv hi' hj hs
  change execCollCombine t i j s = _
  unfold execCollCombine
  simp only [hf, hi', hj]
  exact if_pos ⟨trivial, trivial, hv, hs⟩

/-! ## The steps of a repartition -/

section
variable {s : State} {w : Who} {num : Word} {o : CollOp}

theorem execSplitterCompute_asks {g : List Word} (h : s.collOp w num = some o) (hr : o.st = .running) (hp : o.p.repart = true)
    (hv : o.view = (s.viewOf (s.ownJob w)).view.num) (hm : (s.viewOf (s.ownJob w)).standing = .member) (hl : s.collLeader w = s.modId)
    (hg : histSum (s.mail (o.tag (s.ownJob w))) o.members o.p.h = some g) (hh : s.hostSplits (s.ownJob w) = true) :
    ∃ t, exec (.splitterCompute w num) s = .next t ∧
      t.splitReqs = s.splitReqs ++ [⟨s.ownJob w, o.chan, o.seq, g, BitVec.ofNat 64 (g.map (·.toNat)).sum⟩] := by
  have asks (f : CollBody → Bool) : (s.unmail (o.tag (s.ownJob w)) f).hostSplits (s.ownJob w) = true :=
    (State.hostSplits_unmail (t := o.tag (s.ownJob w)) f).trans hh
  change ∃ t, execSplitterCompute w num s = _ ∧ _
  unfold execSplitterCompute
  simp only [h]
  rw [if_neg (by simp [hr, hp, hv, hm, hl])]
  simp only [hg, asks, if_true]
  refine ⟨_, rfl, ?_⟩
  rw [State.raise_splitReqs]
  exact congrArg (· ++ _) (State.splitReqs_unmail _ _)

theorem execRepartCounts_split {ks : List Word} (h : s.collOp w num = some o) (hr : o.st = .running) (hp : o.p.repart = true)
    (hv : o.view = (s.viewOf (s.ownJob w)).view.num) (hm : (s.viewOf (s.ownJob w)).standing = .member) (hs : o.split = [])
    (hk : (s.mail (o.tag (s.ownJob w))).head? = some (.splits ks)) :
    exec (.repartCounts w num) s = .next (s.countRecords w o ks) := by
  change execRepartCounts w num s = _
  unfold execRepartCounts
  simp only [h]
  rw [if_neg (by simp [hr, hp, hv, hm]), if_pos (by rw [hs]; rfl)]
  cases hmail : s.mail (o.tag (s.ownJob w)) with
  | nil => rw [hmail] at hk; cases hk
  | cons b l =>
    rw [hmail] at hk
    rw [Option.some.inj hk]
    rfl

theorem State.collOp_countRecords (h : s.collOp w num = some o) (ks : List Word) : (s.countRecords w o ks).collOp w num =
    some { o with split := 0 :: ks.dropLast ++ [BitVec.ofNat 64 (2 ^ 63)], weight := ks.getLastD 0 } := by
  obtain rfl : o.num = num := State.collOp_num h
  unfold State.countRecords
  dsimp only
  refine (State.collOp_congr (foldl_cores (fun s x => s.collSend_cores _ _ _) _ _) _ _).trans
    ((State.collOp_congr (State.unmail_cores ..) _ _).trans ?_)
  exact State.collOp_modColl h fun _ e => e

/-- The records that have come for an operation, by rank. -/
abbrev State.recsFor (s : State) (t : CollTag) : List (Nat × List (List Byte)) :=
  (s.mail t).filterMap fun b => match b with | .recs q x => some (q, x) | _ => none

theorem execRepartRecords_all (h : s.collOp w num = some o) (hr : o.st = .running) (hp : o.p.repart = true)
    (hv : o.view = (s.viewOf (s.ownJob w)).view.num) (hm : (s.viewOf (s.ownJob w)).standing = .member) (hg : o.grants = o.members)
    (hl : o.members ≤ (s.recsFor (o.tag (s.ownJob w))).length) : ∃ t, exec (.repartRecords w num) s = .next t ∧
      t.collOp w num = some { o with recsIn := s.recsFor (o.tag (s.ownJob w)) } := by
  change ∃ t, execRepartRecords w num s = _ ∧ _
  unfold execRepartRecords
  simp only [h]
  rw [if_neg (by simp [hr, hp, hv, hm, hg]; exact hl)]
  refine ⟨_, rfl, (State.collOp_congr (State.collSend_cores ..) _ _).trans ?_⟩
  exact State.collOp_modColl ((State.collOp_congr (State.unmail_cores ..) _ _).trans h) fun _ e => e

theorem repartitionSteps : Claims.RepartitionSteps := by
  intro w num o g ks job chan seq host len r s
  refine ⟨fun h _ hr hp hv hm => ⟨fun hl hg hh => execSplitterCompute_asks h hr hp hv hm hl hg hh, fun hs hk =>
    ⟨_, _, execRepartCounts_split h hr hp hv hm hs hk, State.collOp_countRecords h ks, rfl, rfl⟩,
    fun hg hl => execRepartRecords_all h hr hp hv hm hg hl⟩, fun h hk => ?_, fun h => ?_⟩
  · change execSupplySplitters job chan seq ks s = _
    unfold execSupplySplitters
    simp only [h, hk]
    rfl
  · change execReadCollectiveStaging job chan seq host len s = _
    unfold execReadCollectiveStaging
    simp only [h]

end

/-- Settles O37: each step changes the operation it is for, and else only mail, messages and staged requests. -/
theorem collectiveUnit : Obligations.CollectiveUnit := ⟨collectiveSteps, collectiveCombine, repartitionSteps⟩

end Sys2Proof.Machine
end

section
/-! SUPPORT. The steps of the copy unit (07 R149, R154-R158). -/

namespace Sys2Proof.Machine

/-! ## One operation in the context -/

section
variable {s : State} {w : Who} {o : CopyOp}

theorem State.slot_modCopy_one (h : (s.slot w).cctx.ops = [o]) (f : CopyOp → CopyOp) :
    (s.modCopy w o.num f).slot w = { s.slot w with cctx := { (s.slot w).cctx with ops := [f o] } } := by
  rw [State.modCopy, State.slot_modSlot_self, h]
  simp

theorem State.ops_modCopy_one (h : (s.slot w).cctx.ops = [o]) (f : CopyOp → CopyOp) : ((s.modCopy w o.num f).slot w).cctx.ops = [f o] := by
  rw [State.slot_modCopy_one h]

theorem State.copyOp_one (h : (s.slot w).cctx.ops = [o]) : s.copyOp w o.num = some o := by
  rw [State.copyOp, h]
  simp

theorem execCopySector_starts (h : (s.slot w).cctx.ops = [o]) (hs : (s.slot w).state ≠ .spilled) (ho : o.out = []) (hq : o.st = .queued)
    (hd : s.storesDone o.rel = true) :
    exec (.copySector w o.num none) s = .next (s.modCopy w o.num fun x => { x with st := .running }) := by
  have may : s.mayStart w o.num = true := by simp [State.mayStart, h, hq, hd]
  change execCopySector w o.num none s = _
  unfold execCopySector
  simp [State.copyOp_one h, hs, CopyOp.over, hq, ho, may]

/-- In its context's turn, a started operation whose source is there is served. -/
theorem execCopySector_serves (h : (s.slot w).cctx.ops = [o]) (hs : (s.slot w).state ≠ .spilled) (ho : o.out = []) (hr : o.st = .running)
    (hv : s.servable w o = true) (ht : s.copyTurn w = true) : exec (.copySector w o.num none) s = .next (match o.kind with
      | .stream _ => s
      | .qdual => s.doQdual w o
      | _ => s.doSector w o) := by
  have sound : (s.slot w).cctx.faulted = none := by simp [CopyCtx.faulted, h, hr]
  change execCopySector w o.num none s = _
  unfold execCopySector
  simp only [State.copyOp_one h, hs, CopyOp.over, hr, ho, sound, hv, ht]
  cases o.kind <;> rfl

theorem execCopySector_over (h : (s.slot w).cctx.ops = [o]) (hs : (s.slot w).state ≠ .spilled) (hv : o.over = true) :
    exec (.copySector w o.num none) s = .next (s.settleCopy w) := by
  change execCopySector w o.num none s = _
  unfold execCopySector
  simp [State.copyOp_one h, hs, hv]

theorem execDenialFault_faults {va : Word} (h : (s.slot w).cctx.ops = [o]) (hs : (s.slot w).state ≠ .spilled) (hc : o.st = .commitWait)
    (hd : o.denied = some va) : exec (.denialFault w) s = .next (s.copyFault w o.num va.toNat 7) := by
  change execDenialFault w s = _
  unfold execDenialFault
  simp [CopyCtx.faulted, h, hs, hc, hd]

theorem copySteps : Claims.CopySteps := by
  intro w o s h hs ho
  refine ⟨execCopySector_starts h hs ho, fun hr hk ht => ?_, fun hr hk hv ht => ?_, fun hc => ?_, fun va hc hd => ?_⟩
  · have may : s.servable w o = true := by simp [State.servable, hk, ho, hr]
    refine (execCopySector_serves h hs ho hr may ht).trans ?_
    simp only [hk]
  · refine (execCopySector_serves h hs ho hr hv ht).trans ?_
    simp only [hk]
  · have hv : o.over = true := by simp [CopyOp.over, hc]
    obtain ⟨x, d, e⟩ := State.slot_settleCopy_one h hv
    exact ⟨_, execCopySector_over h hs hv, by rw [e], by rw [e]⟩
  · have at_ : (s.copyFault w o.num va.toNat 7).slot w = { s.slot w with
        cctx := { (s.slot w).cctx with ops := [{ o with
          st := .faulted, fault := some (va, 7), trapped := false, waits := [], denied := none, ahead := [] }] }
        pendCopy := some va } := by
      rw [State.copyFault, State.slot_modSlot_self, State.slot_modCopy_one h]
      simp
    refine ⟨_, execDenialFault_faults h hs hc hd, by rw [at_], ?_⟩
    rw [State.copyOp, at_]
    simp

end

/-! ## A fill of one element -/

/-- The descriptor of a fill of one element at the scratchpad's first byte. -/
def fillDesc : List Byte := List.replicate 16 0 ++ [1, 0, 1, 0, 1, 0, 1, 0] ++ List.replicate 40 0
/-- The formats of a scratchpad whose banks are raw. -/
def rawBanks : Vector Word 12 := Vector.replicate 12 fmtRaw

theorem fillDesc_fields (w1 : Word) : CDesc.of (.cpyf 0) fillDesc w1 rawBanks = ⟨0, 0, 0, 0, 8, [1, 1, 1, 1], [0, 0, 0, 0], [0, 0, 0, 0]⟩ := by
  rfl

theorem fill_move (w1 : Word) : (copyPlan (.cpyf 0) fillDesc w1 rawBanks).move 0 = ⟨.inr (w1.toNat % 2 ^ 32), some ⟨.sp, 0, 0, 4⟩⟩ := by
  unfold copyPlan
  rw [fillDesc_fields]
  simp [CDesc.layL, layout, codeBytes, CDesc.locL, sideLoc, indices, dot]

theorem fill_total (w1 : Word) : (copyPlan (.cpyf 0) fillDesc w1 rawBanks).total = 1 := by
  unfold copyPlan
  rw [fillDesc_fields]
  rfl

theorem fill_extra (w1 : Word) : (copyPlan (.cpyf 0) fillDesc w1 rawBanks).extra = 0 := rfl

theorem fill_per (w1 : Word) : (copyPlan (.cpyf 0) fillDesc w1 rawBanks).per = 128 := by
  unfold copyPlan
  rw [fillDesc_fields]
  rfl

theorem fill_tags (w1 : Word) : let p := copyPlan (.cpyf 0) fillDesc w1 rawBanks; p.stag = 0 ∧ p.dtag = 0 ∧ p.write = true := by
  unfold copyPlan
  rw [fillDesc_fields]
  exact ⟨rfl, rfl, rfl⟩

theorem fill_sector (w1 : Word) : (copyPlan (.cpyf 0) fillDesc w1 rawBanks).sector 0 = [⟨.inr (w1.toNat % 2 ^ 32), some ⟨.sp, 0, 0, 4⟩⟩] := by
  unfold Plan.sector
  rw [fill_total, fill_per]
  exact congrArg (fun m => [m]) (fill_move w1)

theorem fill_sectors (w1 : Word) : (copyPlan (.cpyf 0) fillDesc w1 rawBanks).sectors = 1 := by
  unfold Plan.sectors
  rw [fill_total, fill_per, fill_extra]
  rfl

/-! ## Its sector -/

section
variable {s : State} {w : Who}

theorem State.copyWalks_nil : s.copyWalks w [] = (s, []) := by
  have kept (st : Fin 6) (root : Word) : s.shareWalks st root [] = s := by
    refine foldl_still fun v _ => ?_
    simp
  unfold State.copyWalks
  simp [kept]

/-- A sector that touches no byte of global memory passes its checks. -/
theorem State.checkSector_nil : s.checkSector w [] = (s, [], .ok) := by
  unfold State.checkSector
  simp [pagesOfBytes, State.copyWalks_nil, State.sectorCheck]

/-- The bytes of one element in the scratchpad's first word. -/
def firstBytes (x : Nat) : List OutByte := (leBytes 4 x).zipIdx.map fun b => ⟨.sp, b.2, b.1, false⟩

theorem State.outBytes_first (x : Nat) : s.outBytes w [] [(⟨.sp, 0, 0, 4⟩, x)] = firstBytes x := by
  simp [State.outBytes, locBytes, Loc.put, Loc.base, leBytes, bytePut, firstBytes, List.zipIdx]

theorem State.putBytes_first (x : Nat) :
    s.putBytes w (firstBytes x) = s.modCore w.core fun c => { c with sp := c.sp.write 0 (leBytes 4 x) } := by
  unfold State.putBytes
  simp [firstBytes, leBytes, List.zipIdx, wordRuns, Memory.write]

theorem State.putSome_first (x : Nat) : s.putSome w (firstBytes x) =
    ([], s.modCore w.core fun c => { c with sp := c.sp.write 0 (leBytes 4 x) }) := by
  have words : ((firstBytes x).map OutByte.word).eraseDups = [(.sp, 0)] := by
    simp [firstBytes, leBytes, List.zipIdx, OutByte.word, List.eraseDups_cons]
  unfold State.putSome
  rw [words, ← State.putBytes_first]
  rfl

end

/-- A fill of one element of four bytes in raw banks, at its only sector. -/
structure CopyOp.IsFill (o : CopyOp) : Prop where
  kind : o.kind = .cpyf 0
  desc : o.desc = fillDesc
  fmts : o.fmts = rawBanks
  sector : o.sector = 0
  ahead : o.ahead = []

section
variable {s : State} {w : Who} {o : CopyOp}

theorem CopyOp.IsFill.plan (h : o.IsFill) : o.plan = copyPlan (.cpyf 0) fillDesc o.w1 rawBanks := by
  rw [CopyOp.plan, h.kind, h.desc, h.fmts]

/-- Its descriptor names no mailbox. -/
theorem CopyOp.post_fillDesc (h : o.desc = fillDesc) : o.post = none := by
  have quiet : numAt fillDesc 15 1 = 0 := rfl
  unfold CopyOp.post
  simp [h, quiet]

/-- The state in which the fill is about to be written. -/
def State.filling (s : State) (w : Who) (o : CopyOp) : State :=
  ((s.modCopy w o.num fun x => { x with st := .running, fault := none, waits := [] }).modCopy w o.num fun x =>
    { x with ahead := x.ahead.filter fun a => a.1 != 0 }).served w

theorem State.doSector_fill (h : o.IsFill) : s.doSector w o = (s.filling w o).writeOut w o (firstBytes (o.w1.toNat % 2 ^ 32)) := by
  obtain ⟨hs, -, hwr⟩ := fill_tags o.w1
  have unread : o.read? 0 = none := by rw [CopyOp.read?, h.ahead]; rfl
  have bytes : globBytes [⟨.inr (o.w1.toNat % 2 ^ 32), some ⟨.sp, 0, 0, 4⟩⟩] = [] := rfl
  unfold State.doSector
  simp only [h.plan, h.sector, fill_sector, bytes, State.checkSector_nil, hs, hwr, unread]
  rw [← State.outBytes_first (s := s.filling w o) (w := w)]
  rfl

theorem State.writeOut_fill (h : o.IsFill) (x : Nat) : s.writeOut w o (firstBytes x) =
    ((s.modCore w.core fun c => { c with sp := c.sp.write 0 (leBytes 4 x) }).modCopy w o.num fun y =>
      { y with sector := y.sector + 1, out := [] }).finishCopy w o.num := by
  obtain ⟨hs, hd, -⟩ := fill_tags o.w1
  have way : s.outWay w (firstBytes x) = .clear := by
    unfold State.outWay
    simp [firstBytes, leBytes, List.zipIdx, worstWay]
  unfold State.writeOut State.outStep
  simp only [way, State.putSome_first, List.isEmpty_nil, if_true]
  unfold State.sectorDone
  simp only [h.kind, h.plan, hd, hs, fill_sectors, h.sector]
  rfl

/-- An operation that posts nothing leaves its context with the timeline at its number. -/
theorem State.finishCopy_one (h : (s.slot w).cctx.ops = [o]) (hp : ({ o with st := .done } : CopyOp).post = none) :
    ((s.finishCopy w o.num).slot w).cctx.tl = o.num ∧ ((s.finishCopy w o.num).core w.core).sp = (s.core w.core).sp := by
  have done := State.ops_modCopy_one h fun o => { o with st := .done }
  have kept : s.finishCopy w o.num = (s.modCopy w o.num fun o => { o with st := .done }).modSlot w fun sl => { sl with cctx := sl.cctx.settle } := by
    unfold State.finishCopy State.settleCopy
    rw [done]
    simp [CopyOp.over, hp]
  rw [kept, State.slot_modSlot_self, CopyCtx.settle_one done rfl]
  refine ⟨rfl, ?_⟩
  rw [State.modCopy, State.core_modSlot_self, State.core_modSlot_self]

end

theorem fillSector : Claims.FillSector := by
  intro w o s h hs hr hk ho ht hf hd hsec ha
  have fill : o.IsFill := ⟨hk, hd, hf, hsec, ha⟩
  obtain ⟨htag, -, -⟩ := fill_tags o.w1
  have may : s.servable w o = true := by simp [State.servable, hk, ho, hr, fill.plan, htag]
  have runs : exec (.copySector w o.num none) s = .next (s.doSector w o) := by
    refine (execCopySector_serves h hs ho hr may ht).trans ?_
    simp only [hk]
  refine ⟨_, runs, ?_⟩
  rw [State.doSector_fill fill, State.writeOut_fill fill]
  have ops : ((s.filling w o).slot w).cctx.ops = [{ o with
      st := .running, fault := none, waits := [], ahead := o.ahead.filter fun a => a.1 != 0 }] :=
    State.ops_modCopy_one (o := { o with st := .running, fault := none, waits := [] }) (State.ops_modCopy_one h _) _
  have sp : ((s.filling w o).core w.core).sp = (s.core w.core).sp := by
    change (((s.modCopy w o.num _).modCopy w o.num _).core w.core).sp = _
    rw [State.modCopy, State.core_modSlot_self, State.modCopy, State.core_modSlot_self]
  generalize s.filling w o = u at ops sp
  have written : ((u.modCore w.core fun c => { c with sp := c.sp.write 0 (leBytes 4 (o.w1.toNat % 2 ^ 32)) }).slot w).cctx.ops = _ :=
    (congrArg (fun sl : Slot => sl.cctx.ops) (State.slot_modCore rfl w)).trans ops
  have next := State.ops_modCopy_one written fun y => { y with sector := y.sector + 1, out := [] }
  obtain ⟨htl, hsp⟩ := State.finishCopy_one next (CopyOp.post_fillDesc hd)
  refine ⟨hsp.trans ?_, htl⟩
  rw [State.modCopy, State.core_modSlot_self, State.core_modCore_self, sp]

/-- Settles O24: the steps by their equations; the fill is worked out from its descriptor. -/
theorem copyUnit : Obligations.CopyUnit := ⟨copySteps, fillSector⟩

end Sys2Proof.Machine
end

section
/-! SUPPORT. Packets sent and taken on a whole module, and the table of one name (05 R100-R109, 06 R128, R129). -/

namespace Sys2Proof.Machine

/-! ## Packets in flight, in order -/

/-- The packets in flight in the order they were sent, each with what holds it back. -/
def State.traffic (s : State) : List (Packet × Option Hold) := s.net.map fun f => (f.pkt, f.hold)

section
variable {s t : State}

theorem State.traffic_setNet (s : State) (l : List Flight) : (s.setNet l).traffic = l.map fun f => (f.pkt, f.hold) := map_stampHeads _ _ _

theorem State.traffic_nil : s.traffic = [] ↔ s.net = [] := List.map_eq_nil_iff

theorem State.Whole.link (hw : s.Whole) (l : LinkId) : (s.link l).st = .up := by
  cases l with
  | nb i => exact (hw.2 i).1
  | io i => exact (hw.2 i).2

/-- A module stays whole while its dies and its links' states stay as they are. -/
theorem State.Whole.congr (hw : s.Whole) (hd : t.dies = s.dies) (hl : ∀ l, (t.link l).st = (s.link l).st) : t.Whole :=
  ⟨fun d => by rw [hd]; exact hw.1 d, fun i => ⟨(hl (.nb i)).trans (hw.2 i).1, (hl (.io i)).trans (hw.2 i).2⟩⟩

theorem State.Whole.butNet (hw : s.Whole) (h : s.ButNet t) : t.Whole := by
  unfold State.ButNet at h
  rw [h]
  exact hw

/-- A packet that stays on the module is put in flight behind those that are. -/
theorem State.send_whole (hw : s.Whole) {p : Packet} (ho : s.outbound p = false) :
    s.ButNet (s.send p) ∧ (s.send p).traffic = s.traffic ++ [(p, none)] := by
  have sent : s.send p = s.route p none := if_neg (by rw [ho]; exact Bool.false_ne_true)
  rw [sent]
  refine ⟨State.route_butNet hw p none, ?_⟩
  have same : (s.routeFor p).2.net = s.net := by
    unfold State.routeFor
    split
    · rfl
    · dsimp only
      split <;> split <;> rfl
  rw [State.route_whole hw, State.launchPacket]
  refine (State.traffic_setNet _ _).trans ?_
  dsimp only
  rw [same, List.map_append]
  rfl

theorem State.worked_st (s : State) (r : List Hop) (l : LinkId) : ((s.worked r).link l).st = (s.link l).st := by
  induction r generalizing s with
  | nil => rfl
  | cons x r ih =>
    refine (ih _).trans ?_
    cases x with
    | router => rfl
    | link l' m => exact s.linkWorks_st l' l

theorem State.worked_net (s : State) (r : List Hop) : (s.worked r).net = s.net := by
  induction r generalizing s with
  | nil => rfl
  | cons x r ih =>
    refine (ih _).trans ?_
    cases x with
    | router => rfl
    | link l' m => exact s.foldl_linkWorks_net [l']

/-- On a whole module the first packet can be taken, unless something it was sent behind holds it back. -/
theorem State.take_first (hw : s.Whole) {p : Packet} {l : List (Packet × Option Hold)} (h : s.traffic = (p, none) :: l) :
    ∃ t, s.take 0 = some (p, t) ∧ s.ButFlight t ∧ t.Whole ∧ t.traffic = l := by
  obtain ⟨f, fs, hn, hf, hfs⟩ := List.map_eq_cons_iff.mp h
  obtain ⟨hp, hh⟩ := Prod.mk.inj hf
  have at_ : s.net[0]? = some f := by rw [hn]; rfl
  have opened : s.routeOpen f.route = true := List.all_eq_true.mpr fun x _ => by
    cases x with
    | router => rfl
    | link l m => exact beq_iff_eq.mpr (hw.link l)
  have ready : s.ready 0 = true := by
    unfold State.ready
    simp [at_, opened, hh]
  have hb := s.worked_butFlight f.route
  refine ⟨(s.worked f.route).setNet (s.net.eraseIdx 0), ?_, hb.trans rfl, ?_, ?_⟩
  · unfold State.take
    simp only [at_, ready, if_true, hp]
    rw [← s.worked_net f.route]
    rfl
  · exact hw.congr hb.dies (s.worked_st _)
  · rw [State.traffic_setNet, hn, ← hfs]
    rfl

end

/-! ## The slice's answers -/

section
variable {s t : State}

theorem State.outbound_congr (h : t.modId = s.modId) (p : Packet) : t.outbound p = s.outbound p := by
  unfold State.outbound
  rw [h]

theorem State.tileReply_whole (hw : s.Whole) {a : Agent} (ha : a.mod = s.modId) (name : Word) (id : Nat) (r : TRes) :
    s.ButNet (s.tileReply a name id r) ∧
      (s.tileReply a name id r).traffic = s.traffic ++ [(⟨tileSrc name, .core a.who.core, .reply, .trep a name id r⟩, none)] := by
  have dst : agentDst s.modId a = .core a.who.core := if_pos ha
  unfold State.tileReply
  rw [dst]
  exact State.send_whole hw rfl

theorem State.tileReply_butTraffic (a : Agent) (name : Word) (id : Nat) (r : TRes) : s.ButTraffic (s.tileReply a name id r) := s.send_butTraffic _

/-! ## A table of one name -/

variable {r : NameRec}

theorem State.rec?_one (h : s.names = [r]) : s.rec? r.name = some r := by
  unfold State.rec?
  rw [h]
  simp

theorem State.rec?_none (h : s.names = []) (n : Word) : s.rec? n = none := by
  unfold State.rec?
  rw [h]
  rfl

theorem State.setRec_one (h : s.names = [r]) {r' : NameRec} (hr : r'.name = r.name) : s.setRec r' = { s with names := [r'] } := by
  unfold State.setRec
  rw [h, List.map_singleton, if_pos hr.symm]

theorem State.setRec_vers (h : s.names = [r]) (l : List VerEntry) : s.setRec { r with vers := l } = { s with names := [{ r with vers := l }] } :=
  State.setRec_one h rfl

theorem NameRec.setVer_name (r : NameRec) (e : VerEntry) : (r.setVer e).name = r.name := by
  unfold NameRec.setVer
  split <;> rfl

/-- Nothing waits at the module's slices. -/
structure State.NoneWait (s : State) : Prop where
  held : s.tileHeld = []
  parked : ∀ r ∈ s.names, r.parked = []

theorem State.NoneWait.of_one (hh : s.tileHeld = []) (hn : s.names = [r]) (hp : r.parked = []) : s.NoneWait :=
  ⟨hh, fun x hx => by rw [hn, List.mem_singleton] at hx; rw [hx, hp]⟩

theorem State.NoneWait.starving (h : s.NoneWait) (key : Nat) : s.starving key = [] := by
  have none_lacks : ∀ r ∈ s.keyNames key, (r.parked.filter fun c => c.lacks == 9).map (·.arr) = [] := fun r hr => by
    rw [h.parked r (List.mem_filter.mp hr).1]
    rfl
  unfold State.starving
  rw [h.held, List.map_congr_left none_lacks]
  simp

theorem State.NoneWait.waiters (h : s.NoneWait) (key : Nat) : s.waitersAt key = [] := by
  have heads : (s.keyNames key).filterMap (fun r => r.parked.head?.map fun c => (c.arr, TileAt.parked r.name)) = [] :=
    List.filterMap_eq_nil_iff.mpr fun r hr => by
      rw [h.parked r (List.mem_filter.mp hr).1]
      rfl
  unfold State.waitersAt
  rw [heads, h.held]
  rfl

/-- Where nothing waits, nothing is looked at again. -/
theorem State.NoneWait.retryAll (h : s.NoneWait) (key : Nat) : s.retryAll key = s := by
  unfold State.retryAll State.retryTiles
  rw [h.waiters]
  rfl

/-- Where nothing waits, a request is handled at once. -/
theorem State.NoneWait.tryTile (h : s.NoneWait) (q : TileReq) (arr : Nat) : s.tryTile q arr = s.handleTile q arr := by
  unfold State.tryTile State.behindStarving
  rw [h.held, h.starving]
  simp

theorem State.makeRoom_few {key : Nat} (h : s.entriesUsed key < 32768) : s.makeRoom key = some s := if_pos h

/-- A record without versions uses one entry, if it is of the slice. -/
theorem State.entriesUsed_one (hn : s.names = [r]) (hv : r.vers = []) (key : Nat) : s.entriesUsed key < 32768 := by
  unfold State.entriesUsed State.keyNames
  rw [hn]
  by_cases hk : tileKey r.name = key <;> simp [hk, hv]

theorem NameRec.ver?_one {e : VerEntry} (h : r.vers = [e]) : r.ver? e.v = some e := by
  unfold NameRec.ver?
  rw [h]
  simp

theorem NameRec.ver?_nil (h : r.vers = []) (v : BitVec 32) : r.ver? v = none := by
  unfold NameRec.ver?
  rw [h]
  rfl

theorem NameRec.setVer_one {e e' : VerEntry} (h : r.vers = [e]) (hv : e'.v = e.v) : r.setVer e' = { r with vers := [e'] } := by
  unfold NameRec.setVer
  rw [hv, NameRec.ver?_one h, h]
  simp

theorem NameRec.setVer_nil {e : VerEntry} (h : r.vers = []) : r.setVer e = { r with vers := [e] } := by
  unfold NameRec.setVer
  rw [NameRec.ver?_nil h, h]
  simp

/-- The version is one requests may ask for. -/
theorem NameRec.not_below (he : r.exhausted = false) (hp : r.pend = []) {v : BitVec 32} (hf : r.floor.toNat ≤ v.toNat) : r.below v = false := by
  unfold NameRec.below NameRec.bar
  rw [hp]
  rw [he, Bool.false_or, List.foldl_nil, decide_eq_false_iff_not]
  omega

theorem NameRec.advance_live (h : ∀ e ∈ r.vers, e.st ≠ .dead) (n : Nat) : r.advance n = r := by
  cases n with
  | zero => rfl
  | succ n =>
    unfold NameRec.advance
    split
    next e he => exact if_neg (h e (List.mem_of_find?_eq_some he))
    next => rfl

/-- With no version dead and no `tfloor` or `tdel` waiting, a name is settled. -/
theorem State.settleTile_still (hn : s.names = [r]) (h : ∀ e ∈ r.vers, e.st ≠ .dead) (hp : r.pend = []) : s.settleTile r.name = s := by
  have kept : s.setRec r = s := by rw [State.setRec_one hn rfl, ← hn]
  unfold State.settleTile
  simp [State.rec?_one hn, r.advance_live h, kept, hp]

end

end Sys2Proof.Machine
end

section
/-! SUPPORT. Claims, loads, fills and deliveries of versions at the home slice (05 R102, R110-R117). -/

namespace Sys2Proof.Machine

/-! ## A request that arrives where nothing waits -/

section
variable {s t u : State} {q : TileReq}

theorem State.traffic_of_arrives {p : Packet} (h : s.Arrives 0 p) (hl : s.net.length = 1) : s.traffic = [(p, none)] := by
  obtain ⟨f, hf, hp, hh, -⟩ := h
  obtain ⟨g, hg⟩ := List.length_eq_one_iff.mp hl
  rw [hg] at hf
  rw [State.traffic, hg, Option.some.inj hf, List.map_singleton, hp, hh]

/-- The two states differ at most in the packets under way, the die links, the choices drawn, the names and what waits at the slices. -/
def State.ButTiles (s t : State) : Prop := t = { s with
  net := t.net, pins := t.pins, flowSeq := t.flowSeq, fresh := t.fresh, ucieNb := t.ucieNb, ucieIo := t.ucieIo, names := t.names
  tileHeld := t.tileHeld, tileSeq := t.tileSeq, deliveries := t.deliveries, nextDid := t.nextDid }

theorem State.ButTiles.refl (s : State) : s.ButTiles s := rfl

theorem State.ButTiles.trans (h : s.ButTiles t) (h' : t.ButTiles u) : s.ButTiles u := by
  unfold State.ButTiles at *
  rw [h] at h'
  exact h'

theorem State.ButNet.tiles (h : s.ButNet t) : s.ButTiles t := by
  unfold State.ButNet at h
  unfold State.ButTiles
  rw [h]

theorem State.ButFlight.tiles (h : s.ButFlight t) : s.ButTiles t := by
  unfold State.ButFlight at h
  unfold State.ButTiles
  rw [h]

theorem State.ButTiles.cores (h : s.ButTiles t) : t.cores = s.cores := by
  unfold State.ButTiles at h
  rw [h]

theorem State.ButTiles.slot (h : s.ButTiles t) (w : Who) : t.slot w = s.slot w := State.slot_congr h.cores w
theorem State.ButTiles.core (h : s.ButTiles t) (c : CoreId) : t.core c = s.core c := State.core_congr h.cores c

theorem State.ButTiles.mem (h : s.ButTiles t) : t.mem = s.mem := by
  unfold State.ButTiles at h
  rw [h]

theorem State.ButTiles.modId (h : s.ButTiles t) : t.modId = s.modId := by
  unfold State.ButTiles at h
  rw [h]

theorem State.ButFlight.names (h : s.ButFlight t) : t.names = s.names := by
  unfold State.ButFlight at h
  rw [h]

theorem State.ButFlight.tileHeld (h : s.ButFlight t) : t.tileHeld = s.tileHeld := by
  unfold State.ButFlight at h
  rw [h]

theorem State.ButFlight.tileSeq (h : s.ButFlight t) : t.tileSeq = s.tileSeq := by
  unfold State.ButFlight at h
  rw [h]

theorem State.ButFlight.deliveries (h : s.ButFlight t) : t.deliveries = s.deliveries ∧ t.nextDid = s.nextDid := by
  unfold State.ButFlight at h
  rw [h]
  exact ⟨rfl, rfl⟩

theorem State.ButNet.names (h : s.ButNet t) : t.names = s.names := by
  unfold State.ButNet at h
  rw [h]

theorem State.ButNet.deliveries (h : s.ButNet t) : t.deliveries = s.deliveries := by
  unfold State.ButNet at h
  rw [h]

theorem State.ButTraffic.tileHeld (h : s.ButTraffic t) : t.tileHeld = s.tileHeld := by
  unfold State.ButTraffic at h
  rw [h]

theorem State.NoneWait.butFlight (h : s.NoneWait) (hf : s.ButFlight t) : t.NoneWait :=
  ⟨hf.tileHeld.trans h.held, by rw [hf.names]; exact h.parked⟩

theorem State.NoneWait.butTraffic (h : s.NoneWait) (hf : s.ButTraffic t) : t.NoneWait :=
  ⟨hf.tileHeld.trans h.held, by rw [hf.names]; exact h.parked⟩

theorem State.arriveTile_done (ht : t.NoneWait) (h : t.handleTile q t.tileSeq = .done u) (hu : u.NoneWait) :
    t.arriveTile q = { u with tileSeq := u.tileSeq + 1 } := by
  have after : State.NoneWait { u with tileSeq := u.tileSeq + 1 } := ⟨hu.held, hu.parked⟩
  unfold State.arriveTile
  simp only [ht.retryAll, ht.tryTile, h, after.retryAll]

/-- The one packet under way is a request at its home slice on this module. -/
def State.Requests (s : State) (q : TileReq) : Prop := ∃ p, s.traffic = [(p, none)] ∧ p.body = .treq q ∧ s.outbound p = false

theorem State.requests_of_one (h : OneRequest s q) : s.Requests q := by
  obtain ⟨p, ha, hl, hb, ho⟩ := h
  exact ⟨p, State.traffic_of_arrives ha hl, hb, ho⟩

/-- The packet with the slice's answer to a request. -/
abbrev answerOf (q : TileReq) (x : TRes) : Packet := ⟨tileSrc q.name, .core q.src.who.core, .reply, .trep q.src q.name q.id x⟩

/-- The request is taken off the network and handled at its home slice. -/
theorem State.performTile_request (hw : s.Whole) (h : s.Requests q) :
    ∃ t, s.performTile (.net 0) = t.arriveTile q ∧ s.ButFlight t ∧ t.Whole ∧ t.traffic = [] := by
  obtain ⟨p, htr, hb, ho⟩ := h
  obtain ⟨t, ht, hf, hwt, htr⟩ := State.take_first hw htr
  refine ⟨t, ?_, hf, hwt, htr⟩
  unfold State.performTile
  simp only [ht, State.outbound_congr hf.modId, ho, hb]
  rfl

/-- A request that its slice answers at once leaves only the answer under way. -/
theorem State.performTile_answers {l : List NameRec} {x : TRes} (hw : s.Whole) (hwait : s.NoneWait) (h : s.Requests q)
    (hq : q.src.mod = s.modId) (hl : ∀ r ∈ l, r.parked = []) (hd : ∀ t, s.ButFlight t →
      t.handleTile q t.tileSeq = .done (State.tileReply { t with names := l } q.src q.name q.id x)) :
    ∃ z, s.performTile (.net 0) = z ∧ z.names = l ∧ s.ButTiles z ∧ z.Whole ∧ z.NoneWait ∧ z.deliveries = s.deliveries ∧
      z.traffic = [(answerOf q x, none)] := by
  obtain ⟨t, ht, hf, hwt, htr⟩ := State.performTile_request hw h
  have waitl : State.NoneWait { t with names := l } := ⟨hf.tileHeld.trans hwait.held, hl⟩
  have hwl : State.Whole { t with names := l } := hwt
  obtain ⟨hb, htraf⟩ := State.tileReply_whole hwl (hq.trans hf.modId.symm) q.name q.id x
  have waitu := waitl.butTraffic hb.traffic
  refine ⟨_, ht.trans (State.arriveTile_done (hwait.butFlight hf) (hd t hf) waitu), hb.names, ?_, State.Whole.congr (s := State.tileReply _ _ _ _ _) (hwl.butNet hb) rfl fun _ => rfl, ⟨waitu.held, waitu.parked⟩,
    hb.deliveries.trans hf.deliveries.1, ?_⟩
  · exact (hf.tiles.trans (State.ButTiles.trans (t := { t with names := l }) rfl hb.tiles)).trans rfl
  · exact htraf.trans (by rw [show State.traffic { t with names := l } = t.traffic from rfl, htr]; rfl)

/-- An entry that is not spilled needs not be brought back. -/
theorem State.bringBack_there {r : NameRec} {v : BitVec 32} (hn : s.names = [r]) (h : ∀ e, r.ver? v = some e → e.spilled = false) :
    s.bringBack r.name v = some s := by
  unfold State.bringBack
  rw [State.rec?_one hn, Option.bind_some]
  split
  next => rfl
  next e he => rw [h e he]; rfl

/-! ## Claims and loads of a version nobody has named -/

variable {r : NameRec} {cl : Claim}

/-- The entry of a granted claim. -/
def Claim.entry (c : Claim) (cycle : Nat) : VerEntry := { VerEntry.fresh c.v cycle with
  st := .filling, storage := .pool, ev := c.ev, data := [], producer := c.src, pjob := c.job, pid := c.id, addr := c.addr
  refs := c.refs, spilled := false, touched := cycle, loaded := cycle }

/-- Where no version of the slice is present, none is moved out of the pool. -/
theorem State.relievePool_filling {e : VerEntry} (hn : s.names = [r]) (hv : r.vers = [e]) (he : e.st = .filling) (n : Word) (c : Nat) :
    s.relievePool n c = s := by
  have cand : ((s.keyNames (tileKey n)).map fun r => (r.vers.filter fun e => e.storage == .pool && e.st == .present).map fun e => (r, e)).flatten
      = [] := by
    unfold State.keyNames
    rw [hn]
    by_cases hk : tileKey r.name = tileKey n <;> simp [hk, hv, he]
  unfold State.relievePool
  dsimp only
  rw [cand]
  exact ite_self s

/-- The claim of a version nobody has named is granted where tile storage has room. -/
theorem State.handleClaim_new (hn : s.names = [r]) (hv : r.vers = []) (hp : r.pend = []) (he : r.exhausted = false)
    (hf : r.floor.toNat ≤ cl.v.toNat) (hl : 0 < r.limit) (hs : tileBytes r.c ≤ s.settings.tilePool * 524288) :
    s.handleClaim r r.c cl =
      .done (State.tileReply { s with names := [{ r with vers := [cl.entry s.cycle] }] } cl.src r.name cl.id .granted) := by
  have unnamed := NameRec.ver?_nil hv cl.v
  have room := State.makeRoom_few (s.entriesUsed_one hn hv (tileKey r.name))
  have storage : s.storageFor r.name r.c = some .pool := by
    have empty : s.tileUsed (s.keyNames (tileKey r.name)) .pool = 0 := by
      unfold State.tileUsed State.keyNames
      simp [hn, hv]
    unfold State.storageFor
    rw [empty, Nat.zero_add, if_pos hs]
  have live : r.live = 0 := by unfold NameRec.live; rw [hv]; rfl
  unfold State.handleClaim NameRec.stOf
  simp only [NameRec.not_below he hp hf, unnamed, live]
  rw [if_neg fun e => e rfl, if_neg Bool.false_ne_true, if_neg (by omega)]
  unfold State.tryGrant
  simp only [unnamed, room, State.rec?_one hn, storage]
  unfold State.grant
  dsimp only
  rw [NameRec.setVer_nil hv, State.setRec_vers hn, State.relievePool_filling rfl rfl rfl]
  rfl

/-- The record of a name without versions once somebody waits for one. -/
def NameRec.awaited (r : NameRec) (v : BitVec 32) (cycle : Nat) (w : Waiter) : NameRec :=
  { r with vers := [{ VerEntry.fresh v cycle with waiters := [w] }] }

/-- A load of a version nobody has named waits at an absent entry. -/
theorem State.handleLoad_new {v : BitVec 32} {j addr : Nat} (hn : s.names = [r]) (hv : r.vers = []) (hp : r.pend = [])
    (he : r.exhausted = false) (hf : r.floor.toNat ≤ v.toNat) :
    s.handleLoad r q v r.c j addr false = .done { s with names := [r.awaited v s.cycle (.load q.src q.job q.id addr j)] } := by
  have unnamed := NameRec.ver?_nil hv v
  have room := State.makeRoom_few (s.entriesUsed_one hn hv (tileKey r.name))
  unfold State.handleLoad
  simp only [NameRec.not_below he hp hf, unnamed]
  rw [if_neg fun e => e rfl, if_neg Bool.false_ne_true, if_neg Bool.false_ne_true]
  unfold State.register
  simp only [unnamed, room, State.rec?_one hn]
  rw [if_pos (by rfl), NameRec.setVer_nil hv, State.setRec_vers hn]
  rfl

end

theorem State.oneAnswer {z : State} {q : TileReq} {x : TRes} (h : z.traffic = [(answerOf q x, none)]) : OneAnswer z q.src q.name q.id x := by
  have := congrArg (List.map fun y => y.1.body) h
  rwa [State.traffic, List.map_map] at this

/-- The only version of the only name. -/
theorem State.version_one {z : State} {r : NameRec} {e : VerEntry} (hn : z.names = [r]) (hv : r.vers = [e]) :
    (z.rec? r.name).bind (·.ver? e.v) = some e := by
  rw [State.rec?_one hn, Option.bind_some, NameRec.ver?_one hv]

/-- A claim looks up its version's entry before it is handled. -/
theorem State.handleTile_there {r : NameRec} {s : State} {q : TileReq} {v : BitVec 32} (hn : s.names = [r]) (hq : q.name = r.name)
    (hv : lookedUp q.op = some v) (h : ∀ e, r.ver? v = some e → e.spilled = false) (arr : Nat) : s.handleTile q arr = s.handleAt q arr := by
  unfold State.handleTile
  simp only [hv, Option.map_some, hq, State.bringBack_there hn h]

theorem claimsAndLoads : Claims.ClaimsAndLoads := by
  intro r src job v id c j addr refs ev s hn hv hw hpk hp he hc hf hsrc hm hh hs
  subst hc
  have wait : s.NoneWait := .of_one hh hn hpk
  have absent (e : VerEntry) (h : r.ver? v = some e) : e.spilled = false := by rw [NameRec.ver?_nil hv] at h; cases h
  refine ⟨fun hl hq => ?_, fun hq => ?_⟩
  · have handled (t : State) (hb : s.ButFlight t) :
        t.handleTile ⟨src, job, r.name, id, .claim v r.c refs ev addr⟩ t.tileSeq = .done (State.tileReply { t with names := [{ r with
          vers := [Claim.entry ⟨src, job, id, s.tileSeq, 7, v, r.c, refs, ev, addr⟩ s.cycle] }] } src r.name id .granted) := by
      have hnt := hb.names.trans hn
      rw [State.handleTile_there hnt rfl rfl absent]
      unfold State.handleAt
      simp only [State.rec?_one hnt]
      rw [← hb.cycle, ← hb.tileSeq]
      exact State.handleClaim_new hnt hv hp he hf hl (by rw [hb.settings]; exact hs)
    obtain ⟨z, hz, hnz, -, -, -, -, htr⟩ := State.performTile_answers hw wait (State.requests_of_one hq) hsrc (by simpa using hpk) handled
    have entry := State.version_one hnz rfl
    exact ⟨z, _, congrArg Host.Outcome.next hz, entry, rfl, rfl, rfl, rfl, rfl, rfl, State.oneAnswer htr⟩
  · obtain ⟨t, ht, hf', hwt, htr⟩ := State.performTile_request hw (State.requests_of_one hq)
    have hnt := hf'.names.trans hn
    have handled : t.handleTile ⟨src, job, r.name, id, .load v r.c j addr false⟩ t.tileSeq = .done { t with
        names := [r.awaited v t.cycle (.load src job id addr j)] } := by
      rw [State.handleTile_there hnt rfl rfl absent]
      unfold State.handleAt
      simp only [State.rec?_one hnt]
      exact State.handleLoad_new (q := ⟨src, job, r.name, id, .load v r.c j addr false⟩) hnt hv hp he hf
    have after := State.arriveTile_done (wait.butFlight hf') handled ⟨hf'.tileHeld.trans hh, by simpa [NameRec.awaited] using hpk⟩
    have entry := State.version_one (r := r.awaited v t.cycle (.load src job id addr j))
      (z := { t with names := [r.awaited v t.cycle (.load src job id addr j)], tileSeq := t.tileSeq + 1 }) rfl rfl
    exact ⟨_, _, congrArg Host.Outcome.next (ht.trans after), entry, rfl, rfl, State.traffic_nil.mp htr⟩

/-! ## Loads of a present version -/

section
variable {s : State} {r : NameRec} {e : VerEntry}

theorem State.sendAll_whole (hw : s.Whole) {ps : List Packet} (ho : ∀ p ∈ ps, s.outbound p = false) :
    s.ButNet (s.sendAll ps) ∧ (s.sendAll ps).traffic = s.traffic ++ ps.map fun p => (p, none) := by
  induction ps generalizing s with
  | nil => exact ⟨rfl, (List.append_nil _).symm⟩
  | cons p ps ih =>
    obtain ⟨hb, ht⟩ := State.send_whole hw (ho p List.mem_cons_self)
    have ho' (x : Packet) (hx : x ∈ ps) : (s.send p).outbound x = false :=
      (State.outbound_congr hb.traffic.modId x).trans (ho x (List.mem_cons_of_mem _ hx))
    obtain ⟨hb', ht'⟩ := ih (hw.butNet hb) ho'
    refine ⟨hb.trans hb', ht'.trans ?_⟩
    rw [ht, List.append_assoc]
    rfl

/-- The lines of a tile on their way to a slot. -/
def linePackets (name : Word) (src : Agent) (c addr : Nat) (data : List Byte) : List Packet :=
  (tileLines (2 ^ c) addr data).map fun x => ⟨tileSrc name, .core src.who.core, .notice, .tdata src x.1 x.2⟩

theorem length_tileLines (n a : Nat) (bs : List Byte) : (tileLines n a bs).length = n := by
  induction n generalizing a bs with
  | zero => rfl
  | succ n ih => rw [tileLines, List.length_cons, ih]

/-- The entry of a version once a load of it is served. -/
def VerEntry.served (e : VerEntry) (j cycle : Nat) : VerEntry := { e with
  count := if e.persistent then e.count else e.count - min j e.count, outst := e.outst + 1, touched := cycle, loaded := cycle }

/-- What the notice of a delivery tells: the references left. -/
def VerEntry.left (e : VerEntry) (j : Nat) : Word := if e.persistent then 0x10000 else BitVec.ofNat 64 (e.count - min j e.count)

/-- The packet with a delivery's notice. -/
def noticePacket (name : Word) (src : Agent) (did : Nat) (me : Fin 4096) (val : Word) (id : Nat) : Packet :=
  ⟨tileSrc name, .core src.who.core, .notice, .notice src did me val name id⟩

/-- The table once a load is served, with its delivery open. -/
def State.taking (s : State) (r : NameRec) (e : VerEntry) (j : Nat) (d : Delivery) : State :=
  { s with names := [{ r with vers := [e.served j s.cycle] }], nextDid := s.nextDid + 1, deliveries := s.deliveries ++ [d] }

/-- A load served takes its references; its lines and their notice are under way behind what is. -/
theorem State.deliver_whole (hw : s.Whole) (hn : s.names = [r]) (hv : r.vers = [e]) {src : Agent} (hs : src.mod = s.modId) (job : BitVec 32)
    (id addr j : Nat) : let u := s.deliver r e src job id addr j
    s.ButTiles u ∧ u.Whole ∧ u.names = [{ r with vers := [e.served j s.cycle] }] ∧ u.tileHeld = s.tileHeld ∧
      u.deliveries = s.deliveries ++ [⟨s.nextDid, r.name, e.v, if e.persistent then 0 else min j e.count, src, job, id, false⟩] ∧
      u.traffic = s.traffic ++ ((linePackets r.name src r.c addr e.data).map fun p => (p, none)) ++
        [(noticePacket r.name src s.nextDid s.modId (e.left j) id, none)] := by
  have dst : agentDst s.modId src = .core src.who.core := if_pos hs
  have put : s.setRec (r.setVer (e.served j s.cycle)) = { s with names := [{ r with vers := [e.served j s.cycle] }] } := by
    rw [NameRec.setVer_one (e' := e.served j s.cycle) hv rfl, State.setRec_vers hn]
  have here (x : NameRec) : (s.setRec x).modId = s.modId := rfl
  have eq : s.deliver r e src job id addr j = ((s.taking r e j ⟨s.nextDid, r.name, e.v, if e.persistent then 0 else min j e.count, src, job,
      id, false⟩).sendAll (linePackets r.name src r.c addr e.data)).send (noticePacket r.name src s.nextDid s.modId (e.left j) id) := by
    unfold State.deliver
    change State.send (State.sendAll { s.setRec (r.setVer (e.served j s.cycle)) with nextDid := _, deliveries := _ } _) _ = _
    rw [put]
    simp only [here, dst]
    rfl
  dsimp only
  rw [eq]
  generalize hu : s.taking r e j _ = u
  have hb : s.ButTiles u := by rw [← hu]; rfl
  have hwu : u.Whole := by rw [← hu]; exact hw
  obtain ⟨hl, htl⟩ := State.sendAll_whole hwu (ps := linePackets r.name src r.c addr e.data) fun p hp => by
    obtain ⟨x, -, rfl⟩ := List.mem_map.mp hp
    rfl
  obtain ⟨hm, htm⟩ := State.send_whole (hwu.butNet hl) (p := noticePacket r.name src s.nextDid s.modId (e.left j) id) rfl
  have all := hl.trans hm
  refine ⟨hb.trans all.tiles, hwu.butNet all, ?_, ?_, ?_, ?_⟩
  · rw [all.names, ← hu]; rfl
  · rw [all.traffic.tileHeld, ← hu]; rfl
  · rw [all.deliveries, ← hu]; rfl
  · rw [htm, htl, show u.traffic = s.traffic by rw [← hu]; rfl]

theorem State.handleLoad_present {q : TileReq} {j addr : Nat} (now : Bool) (hv : r.vers = [e]) (hp : r.pend = []) (he : r.exhausted = false)
    (hf : r.floor.toNat ≤ e.v.toNat) (hs : e.st = .present) (hsp : e.spilled = false) (ho : e.outst < 255)
    (hc : e.persistent = true ∨ 0 < e.count) : s.handleLoad r q e.v r.c j addr now = .done (s.deliver r e q.src q.job q.id addr j) := by
  have counted : ¬ (¬ e.persistent = true ∧ e.count = 0) := by
    rintro ⟨h, h0⟩
    exact hc.elim h (by omega)
  unfold State.handleLoad
  simp only [NameRec.not_below he hp hf, NameRec.ver?_one hv, hs, hsp]
  rw [if_neg fun e => e rfl, if_neg Bool.false_ne_true, if_neg counted, if_neg (by omega), if_neg Bool.false_ne_true]

end

theorem loadOfPresent : Claims.LoadOfPresent := by
  intro r e src job id j addr s hn hv hst hper hsp hc ho hpk hp he hf hsrc hh hw hq
  obtain ⟨t, ht, hb, hwt, htr⟩ := State.performTile_request hw (State.requests_of_one hq)
  have hnt := hb.names.trans hn
  have handled : t.handleTile ⟨src, job, r.name, id, .load e.v r.c j addr false⟩ t.tileSeq = .done (t.deliver r e src job id addr j) := by
    rw [State.handleTile_there hnt rfl rfl fun x hx => by rw [NameRec.ver?_one hv] at hx; exact Option.some.inj hx ▸ hsp]
    unfold State.handleAt
    simp only [State.rec?_one hnt]
    exact State.handleLoad_present (q := ⟨src, job, r.name, id, .load e.v r.c j addr false⟩) false hv hp he hf hst hsp (by omega) (.inr hc)
  obtain ⟨-, -, hnu, hhu, hdu, htu⟩ := State.deliver_whole hwt hnt hv (hsrc.trans hb.modId.symm) job id addr j
  have waitu : (t.deliver r e src job id addr j).NoneWait := ⟨hhu.trans (hb.tileHeld.trans hh), by rw [hnu]; simpa using hpk⟩
  have after := State.arriveTile_done ((State.NoneWait.of_one hh hn hpk).butFlight hb) handled waitu
  have entry := State.version_one (e := e.served j t.cycle) hnu rfl
  refine ⟨_, e.served j t.cycle, congrArg Host.Outcome.next (ht.trans after), entry, ?_, ?_, ?_, ?_⟩
  · unfold VerEntry.served
    rw [hper]
    rfl
  · exact congrArg (· + 1) ho
  · have := congrArg List.length htu
    simpa [State.traffic, State.traffic_nil.mp htr, linePackets, length_tileLines] using this
  · refine hdu.trans ?_
    rw [hb.deliveries.1, hb.deliveries.2, hper]
    rfl

/-! ## Fills -/

section
variable {s : State} {r : NameRec} {e : VerEntry}

theorem State.serveAll_nobody (hn : s.names = [r]) (hv : r.vers = [e]) (hw : e.waiters = []) : s.serveAll r.name e.v = s := by
  unfold State.serveAll
  rw [State.rec?_one hn, Option.bind_some, NameRec.ver?_one hv, Option.map_some, hw]
  rfl

/-- Where nobody waits, a change at a name that leaves its version alive has no further effect. -/
theorem State.settled_alone (hn : s.names = [r]) (hv : r.vers = [e]) (hw : e.waiters = []) (hs : e.st ≠ .dead) (hpk : r.parked = [])
    (hp : r.pend = []) (hh : s.tileHeld = []) (key : Nat) : ((s.serveAll r.name e.v).settleTile r.name).retryAll key = s := by
  have live (x : VerEntry) (hx : x ∈ r.vers) : x.st ≠ .dead := by
    rw [hv, List.mem_singleton] at hx
    rwa [hx]
  rw [State.serveAll_nobody hn hv hw, State.settleTile_still hn live hp, (State.NoneWait.of_one hh hn hpk).retryAll]

/-- The entry of a version whose fill is done. -/
def VerEntry.filledWith (e : VerEntry) (data : List Byte) (cycle : Nat) : VerEntry :=
  { e with st := .present, data := data, count := e.refs, persistent := e.refs == 0, touched := cycle }

/-- With nobody waiting for it, a version whose fill is done is present, and its producer is told. -/
theorem State.filled_alone (hn : s.names = [r]) (hv : r.vers = [e]) (hwt : e.waiters = []) (hpk : r.parked = []) (hp : r.pend = [])
    (hh : s.tileHeld = []) (data : List Byte) : s.filled r e data =
      State.tileReply { s with names := [{ r with vers := [e.filledWith data s.cycle] }] } e.producer r.name e.pid (.val 0) := by
  have put : s.setRec (r.setVer (e.filledWith data s.cycle)) = { s with names := [{ r with vers := [e.filledWith data s.cycle] }] } := by
    rw [NameRec.setVer_one (e' := e.filledWith data s.cycle) hv rfl, State.setRec_vers hn]
  have start : s.filled r e data = ((((s.setRec (r.setVer (e.filledWith data s.cycle))).tileReply e.producer r.name e.pid (.val 0)).serveAll
      r.name e.v).settleTile r.name).retryAll (tileKey r.name) := rfl
  have hb := State.tileReply_butTraffic (s := { s with names := [{ r with vers := [e.filledWith data s.cycle] }] }) e.producer r.name e.pid (.val 0)
  rw [start, put]
  exact State.settled_alone (e := e.filledWith data s.cycle) hb.names rfl hwt nofun hpk hp (hb.tileHeld.trans hh) _

theorem execFillComplete_here (hn : s.names = [r]) (hv : r.vers = [e]) (hs : e.st = .filling) (hm : e.producer.mod = s.modId) :
    exec (.fillComplete r.name e.v) s =
      .next (s.filled r e ((s.core e.producer.who.core).sp.read e.addr (tileBytes r.c))) := by
  change execFillComplete r.name e.v s = _
  unfold execFillComplete
  simp [State.rec?_one hn, NameRec.ver?_one hv, Option.filter, hs, hm]

theorem NameRec.delVer_one (hv : r.vers = [e]) : r.delVer e.v = { r with vers := [] } := by
  unfold NameRec.delVer
  rw [hv]
  simp

/-- A fill that fails for nobody leaves no entry. -/
theorem execFillFail_alone (hn : s.names = [r]) (hv : r.vers = [e]) (hs : e.st = .filling) (hwt : e.waiters = []) (hpk : r.parked = [])
    (hp : r.pend = []) (hh : s.tileHeld = []) : exec (.fillFail r.name e.v) s =
      .next (State.tileReply { s with names := [{ r with vers := [] }] } e.producer r.name e.pid (.trap 5)) := by
  have hb := State.tileReply_butTraffic (s := { s with names := [{ r with vers := [] }] }) e.producer r.name e.pid (.trap 5)
  have settled := State.settleTile_still (r := { r with vers := [] }) hb.names nofun hp
  have waits := State.NoneWait.of_one (hb.tileHeld.trans hh) hb.names hpk
  change execFillFail r.name e.v s = _
  unfold execFillFail
  simp only [State.rec?_one hn, NameRec.ver?_one hv, hs, hwt, NameRec.delVer_one hv, State.setRec_vers hn]
  exact congrArg Host.Outcome.next ((congrArg (fun u => State.retryAll u _) settled).trans (waits.retryAll _))

theorem fills : Claims.Fills := by
  intro r e s hn hv hst hwt hpk hp hh hm
  refine ⟨?_, ?_⟩
  · have eq := (execFillComplete_here hn hv hst hm).trans (congrArg Host.Outcome.next (State.filled_alone hn hv hwt hpk hp hh _))
    have hb := State.tileReply_butTraffic (s := { s with names := [{ r with
      vers := [e.filledWith ((s.core e.producer.who.core).sp.read e.addr (tileBytes r.c)) s.cycle] }] }) e.producer r.name e.pid (.val 0)
    have entry := State.version_one (e := e.filledWith ((s.core e.producer.who.core).sp.read e.addr (tileBytes r.c)) s.cycle) hb.names rfl
    exact ⟨_, _, eq, entry, rfl, rfl, rfl, rfl⟩
  · have hb := State.tileReply_butTraffic (s := { s with names := [{ r with vers := [] }] }) e.producer r.name e.pid (.trap 5)
    have gone : (({ s with names := [{ r with vers := [] }] } : State).tileReply e.producer r.name e.pid (.trap 5)).rec? r.name =
      some { r with vers := [] } := State.rec?_one hb.names
    refine ⟨_, execFillFail_alone hn hv hst hwt hpk hp hh, ?_⟩
    rw [gone]
    rfl

end

end Sys2Proof.Machine
end

section
/-! SUPPORT. Deliveries of tiles (05 R110, R111, 08 R172). -/

namespace Sys2Proof.Machine

theorem eraseNat_eq_erase (l : List Nat) (a : Nat) : eraseNat l a = l.erase a := by
  induction l with
  | nil => rfl
  | cons k l ih =>
    by_cases h : k = a
    · simp [eraseNat, h]
    · simp [eraseNat, List.erase_cons, h, Ne.symm h, ih]

/-- A number taken out of a list without doubles, or not in it, is not in what is left. -/
theorem not_mem_foldl_eraseNat {x : Nat} (ws l : List Nat) (h : l.Nodup) (hx : x ∈ ws ∨ x ∉ l) :
    x ∉ ws.foldl (fun e w => eraseNat e w) l := by
  induction ws generalizing l with
  | nil => exact hx.resolve_left List.not_mem_nil
  | cons w ws ih =>
    rw [List.foldl_cons, eraseNat_eq_erase]
    refine ih _ (h.erase w) ?_
    by_cases hw : x = w
    · exact .inr fun m => (h.mem_erase_iff.mp m).1 hw
    · exact hx.imp (fun m => (List.mem_cons.mp m).resolve_left hw) fun n m => n (List.mem_of_mem_erase m)

/-- Words marked full are no longer among the empty ones. -/
theorem Core.not_mem_setTags_full {c : Core} (h : c.empties.Nodup) {ws : List Nat} {x : Nat} (hx : x ∈ ws) :
    x ∉ (c.setTags true ws).empties := not_mem_foldl_eraseNat ws c.empties h (.inl hx)

section
variable {s : State} {p : Packet} {dst : Agent}

/-- A tile's line lands in its slot's scratchpad. -/
theorem execSharedPortWrite_line {addr : Nat} {data : List Byte} (hw : s.Whole) {l : List (Packet × Option Hold)} (h : s.traffic = (p, none) :: l)
    (hb : p.body = .tdata dst addr data) (hm : dst.mod = s.modId) (ho : s.noticeOpen dst.who.core = true) :
    ∃ t, exec (.sharedPortWrite 0) s = .next (t.modCore dst.who.core fun c => (c.spWrite addr data).setTags true (wordsOf addr data.length)) ∧
      s.ButFlight t ∧ t.Whole ∧ t.traffic = l := by
  obtain ⟨t, ht, hf, hwt, htr⟩ := State.take_first hw h
  obtain ⟨f, fs, hn, hfp, -⟩ := List.map_eq_cons_iff.mp h
  have hp : f.pkt = p := (Prod.mk.inj hfp).1
  refine ⟨t, ?_, hf, hwt, htr⟩
  change execSharedPortWrite 0 s = _
  unfold execSharedPortWrite
  simp [hn, hp, hb, hm, ho, ht]

theorem State.tileDst_here {name : Word} (h : tileMod name = s.modId) (q : Src) (c : TClass) (b : Body) :
    s.outbound ⟨q, s.tileDst name, c, b⟩ = false := by
  unfold State.tileDst
  rw [if_pos h]
  by_cases hs : tileStack name < 6
  · rw [dif_pos hs]; rfl
  · rw [dif_neg hs]; rfl

/-- The slot that waits for an answer of that number to a request for the name takes it. -/
theorem State.tileAnswer_val {w : Who} {k : TileWait} {name : Word} {id : Nat} (hk : (s.slot w).wait = .tile k name)
    (hi : (s.slot w).tileId = id) (hr : (s.slot w).reply = none) (x : Word) :
    s.tileAnswer w name id (.val x) = s.modSlot w fun sl => { sl with reply := some (.val x) } := by
  unfold State.tileAnswer
  simp only [hk, hi, beq_self_eq_true, Bool.and_self, Bool.not_true, Bool.false_eq_true, if_false]
  refine State.modSlot_congr ?_
  simp [Slot.tileAnswer, hk, hr]

theorem State.tileAnswer_trap {w : Who} {k : TileWait} {name : Word} {id : Nat} (hk : (s.slot w).wait = .tile k name)
    (hi : (s.slot w).tileId = id) (hr : (s.slot w).reply = none) (sub : Nat) : s.tileAnswer w name id (.trap sub) =
      (s.modSlot w fun sl => { sl with reply := some (.trap 5 sub name) }).failItems w.core (if sub = 5 then 1 else 0) := by
  unfold State.tileAnswer
  simp only [hk, hi, beq_self_eq_true, Bool.and_self, Bool.not_true, Bool.false_eq_true, if_false]
  refine congrArg (fun s : State => s.failItems w.core (if sub = 5 then 1 else 0)) (State.modSlot_congr ?_)
  simp [Slot.tileAnswer, hk, hr]

/-- The slot that waits for a delivery learns of it by its notice, which its core acknowledges. -/
theorem execArrivalNotice_on {did id : Nat} {home : Fin 4096} {val name : Word} {k : TileWait} (hw : s.Whole)
    (h : s.traffic = [(p, none)]) (hb : p.body = .notice dst did home val name id) (hm : dst.mod = s.modId)
    (ho : s.noticeOpen dst.who.core = true) (hk : (s.slot dst.who).wait = .tile k name) (hi : (s.slot dst.who).tileId = id)
    (hr : (s.slot dst.who).reply = none) (hn : tileMod name = s.modId) : ∃ t, exec (.arrivalNotice 0) s = .next t ∧
      ((t.slot dst.who) = { s.slot dst.who with reply := some (.val val) }) ∧
      (∀ c, (t.core c).sp = (s.core c).sp) ∧ t.traffic = [(⟨.core dst.who.core, s.tileDst name, .notice, .tack did true⟩, none)] := by
  obtain ⟨t, ht, hf, hwt, htr⟩ := State.take_first hw h
  obtain ⟨f, fs, hnet, hfp, -⟩ := List.map_eq_cons_iff.mp h
  have hp : f.pkt = p := (Prod.mk.inj hfp).1
  have slot : t.slot dst.who = s.slot dst.who := hf.slot dst.who
  have answer := State.tileAnswer_val (s := t) (by rw [slot, hk]) (by rw [slot, hi]) (by rw [slot, hr]) val
  obtain ⟨ds, hds⟩ : ∃ ds, exec (.arrivalNotice 0) s = .next (State.send { t.modSlot dst.who fun sl => { sl with reply := some (.val val) } with
      deliveries := ds } ⟨.core dst.who.core, t.tileDst name, .notice, .tack did true⟩) := by
    change ∃ ds, execArrivalNotice 0 s = _
    unfold execArrivalNotice
    have open_ : ¬ (dst.mod ≠ s.modId ∨ (!s.noticeOpen dst.who.core) = true) := by simp [hm, ho]
    simp only [hnet, List.getElem?_cons_zero, hp, hb, ht, answer, if_neg open_]
    simp only [slot, hr, hk, hi, beq_self_eq_true, Option.isNone_none, Bool.and_self]
    exact ⟨_, rfl⟩
  have here : tileMod name = t.modId := hn.trans hf.modId.symm
  have dstEq : t.tileDst name = s.tileDst name := by unfold State.tileDst; rw [hf.modId]
  generalize hv : ({ t.modSlot dst.who fun sl => { sl with reply := some (.val val) } with deliveries := ds } : State) = v at hds
  have hwv : v.Whole := by rw [← hv]; exact hwt
  have vcores : v.cores = (t.modSlot dst.who fun sl => { sl with reply := some (.val val) }).cores := by rw [← hv]
  have vslot : v.slot dst.who = { s.slot dst.who with reply := some (.val val) } := by
    rw [State.slot_congr vcores, State.slot_modSlot_self, slot]
  have vsp (c : CoreId) : (v.core c).sp = (s.core c).sp := by
    rw [State.core_congr vcores, ← State.core_congr hf.cores]
    by_cases hc : c = dst.who.core
    · rw [hc, State.core_modSlot_self]
    · rw [State.core_modSlot_ne _ _ _ c hc]
  have vmod : v.modId = t.modId := by rw [← hv]; rfl
  have vtr : v.traffic = [] := by rw [← htr, ← hv]; rfl
  obtain ⟨hsent, htraf⟩ := State.send_whole hwv (p := ⟨.core dst.who.core, t.tileDst name, .notice, .tack did true⟩) (by
    rw [State.outbound_congr vmod]
    exact State.tileDst_here here _ _ _)
  refine ⟨_, hds, ?_, fun c => ?_, ?_⟩
  · rw [hsent.slot, vslot]
  · rw [hsent.core, vsp]
  · rw [htraf, vtr, dstEq]
    rfl

end

theorem deliveries : Claims.Deliveries := by
  intro p dst addr did id home val name k data d job v c j x td s hm hw
  refine ⟨fun ha hl ho => ⟨fun hb => ?_, fun hb hk hi hr hn => ?_, fun hb hd hn hdl => ?_⟩, fun hn hd hk hi hr => ?_, fun hk hn hr => ?_⟩
  · obtain ⟨t, ht, hf, -, htr⟩ := execSharedPortWrite_line hw (State.traffic_of_arrives ha hl) hb hm ho
    refine ⟨_, ht, State.traffic_nil.mp htr, ?_, fun hnd w hx => ?_⟩
    · rw [State.core_modCore_self, State.core_congr hf.cores]
      rfl
    · rw [State.core_modCore_self, State.core_congr hf.cores]
      exact Core.not_mem_setTags_full (c := (s.core dst.who.core).spWrite addr data) hnd hx
  · obtain ⟨t, ht, hsl, -, htr⟩ := execArrivalNotice_on hw (State.traffic_of_arrives ha hl) hb hm ho hk hi hr hn
    obtain ⟨g, hg, hgp⟩ := List.map_eq_singleton_iff.mp htr
    exact ⟨t, g, ht, by rw [hsl], hg, by rw [(Prod.mk.inj hgp).1]⟩
  · obtain ⟨t, ht, hf, -, htr⟩ := State.take_first hw (State.traffic_of_arrives ha hl)
    obtain ⟨f, hnet, hp, -⟩ := ha
    refine ⟨{ t with deliveries := [] }, ?_, rfl, State.traffic_nil.mp htr⟩
    have closed : t.closeDelivery did false = { t with deliveries := [] } := by
      unfold State.closeDelivery
      simp [hf.deliveries.1, hdl, State.rec?, hf.names, hn]
    change execDeliveryAck 0 s = _
    unfold execDeliveryAck
    simp only [hnet, hp, hb, ht]
    rw [show (!true) = false from rfl, closed]
  · have failed := State.tileAnswer_trap hk hi hr 5
    have slot : ((s.tileAnswer dst.who name id (.trap 5)).slot dst.who).reply = some (.trap 5 5 name) := by
      rw [failed, State.slot_congr (State.failItems_cores ..), State.slot_modSlot_self]
    have kept : (s.tileAnswer dst.who name id (.trap 5)).deliveries = s.deliveries ∧ (s.tileAnswer dst.who name id (.trap 5)).names = s.names := by
      rw [failed, State.failItems]
      split <;> exact ⟨rfl, rfl⟩
    refine ⟨{ s.tileAnswer dst.who name id (.trap 5) with deliveries := [] }, ?_, rfl, slot⟩
    have closed : (s.tileAnswer dst.who name id (.trap 5)).closeDelivery did true =
        { s.tileAnswer dst.who name id (.trap 5) with deliveries := [] } := by
      unfold State.closeDelivery
      simp [kept.1, kept.2, hd, State.rec?, hn]
    change execDeliveryFail (.home did) s = _
    unfold execDeliveryFail
    simp only [hd, List.find?_cons, beq_self_eq_true, hm, if_true, closed]
    rfl
  · refine ⟨s.tileAnswer dst.who name (s.slot dst.who).tileId (.trap 5), ?_, ?_⟩
    · change execDeliveryFail (.requester dst.who) s = _
      unfold execDeliveryFail
      simp only [hk, if_neg hn]
    · rw [State.tileAnswer_trap hk rfl hr, State.slot_congr (State.failItems_cores ..), State.slot_modSlot_self]

/-- Settles O21: each event by what it does to a table of one name and to the packets under way. -/
theorem tileTable : Obligations.TileTable := ⟨claimsAndLoads, loadOfPresent, fills, deliveries⟩

end Sys2Proof.Machine
end

section
/-! SUPPORT. Tile waiters, cancels, overflow and answers (05 R107, R109, R116-R119, R125). -/

namespace Sys2Proof.Machine

section
variable {s : State} {w : Who}

theorem State.net_of_traffic {p : Packet} {h : Option Hold} (ht : s.traffic = [(p, h)]) : ∃ f, s.net = [f] ∧ f.pkt = p ∧ f.hold = h := by
  obtain ⟨f, hf, he⟩ := List.map_eq_singleton_iff.mp ht
  exact ⟨f, hf, (Prod.mk.inj he).1, (Prod.mk.inj he).2⟩

/-- A request of the slot is sent to its home slice on this module. -/
theorem State.sends_request {f : Slot → Slot} (hw : s.Whole) (hn : s.net = []) {name : Word} (hm : tileMod name = s.modId) (q : Src) (b : Body) :
    ∃ g, ((s.modSlot w f).send ⟨q, s.tileDst name, .request, b⟩).net = [g] ∧ g.pkt.body = b ∧
      ((s.modSlot w f).send ⟨q, s.tileDst name, .request, b⟩).slot w = f (s.slot w) := by
  have hwf : (s.modSlot w f).Whole := hw
  obtain ⟨hb, ht⟩ := State.send_whole (s := s.modSlot w f) hwf (State.tileDst_here (s := s) hm q .request b)
  rw [show (s.modSlot w f).traffic = [] from State.traffic_nil.mpr hn] at ht
  obtain ⟨g, hg, hp, -⟩ := State.net_of_traffic ht
  exact ⟨g, hg, by rw [hp], by rw [hb.slot, State.slot_modSlot_self]⟩

/-- A refused waiter of a core without gates asks again once its rotations are over. -/
theorem execWaiterRetry_due {d : SReg} {v : BitVec 32} {c j addr n id : Nat} {td : Bool} {name : Word}
    (hk : (s.slot w).wait = .tile (.load d v c j addr td) name) (hc : (s.slot w).cancel = 0) (hi : (s.slot w).tileId = id)
    (hr : (s.slot w).retryAt = some n) (hle : n ≤ s.rot) (hg : (s.core w.core).gates = []) :
    ∃ f : Core → Core, exec (.waiterRetry w) s = .next (((s.modSlot w fun sl => { sl with retryAt := none }).send ⟨.slot (s.agent w),
      s.tileDst name, .request, .treq ⟨s.agent w, s.jobOf w, name, id, .load v c j addr false⟩⟩).modCore w.core f) ∧
      ∀ k, (f k).slots = k.slots := by
  have gates (p : Packet) : (((s.modSlot w fun sl => { sl with retryAt := none }).send p).core w.core).gates = [] := by
    rw [(State.send_butTraffic _ _).core, State.core_modSlot_self]
    exact hg
  change ∃ f : Core → Core, execWaiterRetry w s = _ ∧ _
  unfold execWaiterRetry
  simp only [hk, hr, hc, hi, hle, decide_true, and_self, if_true, gates, List.filter_nil, List.foldl_nil]
  exact ⟨_, rfl, fun _ => rfl⟩

theorem execTloadtTimeout_asks {d : SReg} {v : BitVec 32} {c j addr n id : Nat} {name : Word}
    (hk : (s.slot w).wait = .tile (.load d v c j addr true) name) (hc : (s.slot w).cancel = 0) (hi : (s.slot w).tileId = id)
    (hrep : (s.slot w).reply = none) (hd : (s.slot w).deadline = some n) (hle : n ≤ s.rot) (hr : (s.slot w).retryAt = none) :
    exec (.tloadtTimeout w) s = .next ((s.modSlot w fun sl => { sl with cancel := 1 }).send ⟨.slot (s.agent w), s.tileDst name, .request,
      .treq ⟨s.agent w, s.jobOf w, name, id, .cancel v id⟩⟩) := by
  change execTloadtTimeout w s = _
  unfold execTloadtTimeout State.askCancel
  simp [hk, hc, hi, hrep, hd, hle, hr]

/-- An answer is taken off the network by the slot that asked. -/
theorem State.performTile_answer {p : Packet} {l : List (Packet × Option Hold)} {a : Agent} {name : Word} {id : Nat} {r : TRes} {c : CoreId}
    (hw : s.Whole) (h : s.traffic = (p, none) :: l) (hb : p.body = .trep a name id r) (hd : p.dst = .core c) :
    ∃ t, s.performTile (.net 0) = t.tileAnswer a.who name id r ∧ s.ButFlight t ∧ t.Whole ∧ t.traffic = l := by
  obtain ⟨t, ht, hf, hwt, htr⟩ := State.take_first hw h
  refine ⟨t, ?_, hf, hwt, htr⟩
  have here : t.outbound p = false := by rw [State.outbound, hd]
  unfold State.performTile
  simp only [ht, here, hb]
  rfl

theorem State.tileAnswer_cancelled {k : TileWait} {name : Word} {id : Nat} (hk : (s.slot w).wait = .tile k name)
    (hi : (s.slot w).tileId = id) (hr : (s.slot w).reply = none) :
    s.tileAnswer w name id .cancelled = s.modSlot w fun sl => { sl with reply := some .ok } := by
  unfold State.tileAnswer
  simp only [hk, hi, beq_self_eq_true, Bool.and_self, Bool.not_true, Bool.false_eq_true, if_false]
  refine State.modSlot_congr ?_
  simp [Slot.tileAnswer, hk, hr]

/-! ## Withdrawal -/

theorem State.withdraw_waiter {r : NameRec} {e : VerEntry} {src : Agent} {job : BitVec 32} {id addr j : Nat} (hh : s.tileHeld = [])
    (hn : s.names = [r]) (hv : r.vers = [e]) (hpk : r.parked = []) (hp : r.pend = []) (hs : e.st = .absent)
    (hw : e.waiters = [.load src job id addr j]) : s.withdraw src id r.name e.v = some { s with names := [{ r with vers := [] }] } := by
  have settled := State.settleTile_still (s := { s with names := [{ r with vers := [] }] }) (r := { r with vers := [] }) rfl nofun hp
  unfold State.withdraw
  simp only [hh, List.any_nil, State.rec?_one hn, hpk, NameRec.ver?_one hv, hw]
  simp [hs, NameRec.delVer_one hv, State.setRec_vers hn, settled]
  exact ⟨hpk, hh⟩

end

theorem waitersAndCancels : Claims.WaitersAndCancels := by
  intro w r e d job v c j addr n id td name s hm hw
  refine ⟨fun hk hc hi hnet => ⟨fun hr hle hg => ?_, fun htd hrep hdl hle hr => ?_⟩, fun hn hrn hv hpk hp hh hst hev hws hq hk hi hr => ?_,
    fun st sl hn hrn hv hpk hh hidle hkey => ?_⟩
  · obtain ⟨f, he, hf⟩ := execWaiterRetry_due hk hc hi hr hle hg
    obtain ⟨g, hg, hb, hsl⟩ := State.sends_request (f := fun sl => { sl with retryAt := none }) (w := w) hw hnet hm (.slot (s.agent w))
      (.treq ⟨s.agent w, s.jobOf w, name, id, .load v c j addr false⟩)
    exact ⟨_, g, he, hg, hb, by rw [State.slot_modCore (hf _), hsl]⟩
  · subst htd
    obtain ⟨g, hg, hb, hsl⟩ := State.sends_request (f := fun sl => { sl with cancel := 1 }) (w := w) hw hnet hm (.slot (s.agent w))
      (.treq ⟨s.agent w, s.jobOf w, name, id, .cancel v id⟩)
    exact ⟨_, g, execTloadtTimeout_asks hk hc hi hrep hdl hle hr, hg, hb, by rw [hsl]⟩
  · subst hrn hev
    obtain ⟨p, ha, hl, hb, ho⟩ := hq
    obtain ⟨t, ht, hf, hwt, htr⟩ := State.take_first hw (State.traffic_of_arrives ha hl)
    obtain ⟨f, hnet, hp', -⟩ := ha
    have gone := State.withdraw_waiter (s := t) (hf.tileHeld.trans hh) (hf.names.trans hn) hv hpk hp hst hws
    have cancelled : exec (.tloadCancel 0) s =
        .next (State.tileReply { t with names := [{ r with vers := [] }] } (s.agent w) r.name id .cancelled) := by
      have hrep := State.tileReply_butTraffic (s := { t with names := [{ r with vers := [] }] }) (s.agent w) r.name id .cancelled
      change execTloadCancel 0 s = _
      unfold execTloadCancel
      simp only [hnet, hp', hb, ht, State.outbound_congr hf.modId, ho, Bool.false_eq_true, if_false, gone]
      exact congrArg Host.Outcome.next (State.NoneWait.retryAll (.of_one (hrep.tileHeld.trans (hf.tileHeld.trans hh)) hrep.names hpk) _)
    have hwn : State.Whole { t with names := [{ r with vers := [] }] } := hwt
    obtain ⟨hbn, htrn⟩ := State.tileReply_whole (a := s.agent w) hwn hf.modId.symm r.name id .cancelled
    generalize State.tileReply { t with names := [{ r with vers := [] }] } (s.agent w) r.name id .cancelled = y at cancelled hbn htrn
    have htry : y.traffic = [(⟨tileSrc r.name, .core w.core, .reply, .trep (s.agent w) r.name id .cancelled⟩, none)] := by
      rw [htrn, show State.traffic { t with names := [{ r with vers := [] }] } = t.traffic from rfl, htr]
      rfl
    have unnamed : (y.rec? r.name).bind (·.ver? e.v) = none := by
      rw [State.rec?_one (r := { r with vers := [] }) hbn.names]
      rfl
    have slot : y.slot w = s.slot w := (hbn.slot w).trans (hf.slot w)
    obtain ⟨u, hu, hfu, -, htru⟩ := State.performTile_answer (hwn.butNet hbn) htry rfl rfl
    have slotu : u.slot w = s.slot w := (hfu.slot w).trans slot
    have taken := State.tileAnswer_cancelled (s := u) (w := w) (by rw [slotu, hk]) (by rw [slotu, hi]) (by rw [slotu, hr])
    exact ⟨y, u.modSlot w fun sl => { sl with reply := some .ok }, cancelled, unnamed,
      State.oneAnswer (q := ⟨s.agent w, job, r.name, id, .cancel e.v id⟩) htry, congrArg Host.Outcome.next (hu.trans taken),
      by rw [State.slot_modSlot_self], State.traffic_nil.mp htru⟩
  · subst hrn
    have moved : s.setRec (r.setVer { e with spilled := true }) = { s with names := [{ r with vers := [{ e with spilled := true }] }] } := by
      rw [NameRec.setVer_one (e' := { e with spilled := true }) hv rfl, State.setRec_vers hn]
    change execMoveOrReclaimVersionEntries st sl [(r.name, e.v)] false s = _
    unfold execMoveOrReclaimVersionEntries
    simp only [List.foldl_cons, List.foldl_nil, hkey, ne_eq, not_true_eq_false, if_false, State.rec?_one hn, NameRec.ver?_one hv, hidle,
      Bool.false_eq_true, if_true, moved]
    have wait : State.NoneWait { s with names := [{ r with vers := [{ e with spilled := true }] }] } :=
      ⟨hh, fun x hx => by rw [List.mem_singleton.mp hx]; exact hpk⟩
    exact congrArg Host.Outcome.next (wait.retryAll _)

/-- A slot parked for an answer goes on by that answer. -/
theorem execParkReasonMet_tile {w : Who} {k : TileWait} {name : Word} {s : State} (hs : (s.slot w).state ≠ .spilled)
    (hw : (s.slot w).wait = .tile k name) : exec (.parkReasonMet w) s = .next ((s.tileMet w k name).getD s) := by
  change execParkReasonMet w s = _
  unfold execParkReasonMet State.unparked
  rw [if_neg hs]
  simp only [hw]

theorem tileAnswers : Claims.TileAnswers := by
  intro w d name x s hr hs k hk hw
  rw [execParkReasonMet_tile hs hw]
  unfold State.tileMet
  simp only [hr, List.mem_cons, List.not_mem_nil, or_false] at hk ⊢
  rcases hk with rfl | rfl | rfl <;> rfl

/-- Settles O22: waiters and cancels on a table of one name, and the answers by the rule that ends a park. -/
theorem tileWaiters : Obligations.TileWaiters := ⟨waitersAndCancels, tileAnswers⟩

end Sys2Proof.Machine
end

section
/-! SUPPORT. The tile instructions: their requests and their traps (05 R99, R114-R123). -/

namespace Sys2Proof.Machine

/-! ## Requests -/

/-- The state in which the running slot has parked with its request for a name. -/
def State.asking (s : State) (name : Word) (r : Reason) (k : TileWait) : State :=
  (s.park r (.tile k name)).mod fun sl => { sl with nextId := s.me.nextId + 1, tileId := s.me.nextId }

section
variable {s : State} {name : Word} {op : TileOp} {r : Reason} {k : TileWait}

theorem State.slot_asking : (s.asking name r k).slot s.cur =
    { s.me.park r (.tile k name) s.rot with nextId := s.me.nextId + 1, tileId := s.me.nextId } := by
  rw [← State.slot_park]
  exact State.slot_mod_cur (s.park r (.tile k name)) _

theorem State.storesDone_asking (l : List (Who × Nat)) : (s.asking name r k).storesDone l = s.storesDone l :=
  (State.storesDone_mod (by rfl) l).trans (State.storesDone_mod (by rfl) l)

/-- The request of the running slot. -/
abbrev State.requestOf (s : State) (name : Word) (op : TileOp) : TileReq := ⟨s.agent s.cur, s.jobOf s.cur, name, s.me.nextId, op⟩

/-- With nothing posted the request of a slot is sent at once, and is alone under way. -/
theorem sendTile_sends (hq : s.me.Quiet) (hw : s.Whole) (hn : s.net = []) (hm : tileMod name = s.modId) (rel : Bool) :
    (s.asking name r k).ButNet (sendTile s name op r k rel) ∧ (sendTile s name op r k rel).traffic =
      [(⟨.slot (s.agent s.cur), s.tileDst name, .request, .treq (s.requestOf name op)⟩, none)] := by
  obtain ⟨hst, hout, hinc, hcar⟩ := hq
  have free : (s.asking name r k).released (if rel then s.holdOf s.cur else s.holdAfter s.cur) = true := by
    unfold State.released
    rw [State.storesDone_asking]
    cases rel
    · simp [State.holdAfter, hst, hout, hinc, Slot.relIds, Slot.idsDone, State.storesDone, show s.slot s.cur = s.me from rfl]
    · simp [State.holdOf, State.release, hst, hout, hinc, hcar, Slot.postedIds, Slot.idsDone, State.storesDone, show s.slot s.cur = s.me from rfl]
  have sent : sendTile s name op r k rel =
      (s.asking name r k).send ⟨.slot (s.agent s.cur), s.tileDst name, .request, .treq (s.requestOf name op)⟩ := by
    unfold sendTile State.post
    exact if_pos free
  have hwa : (s.asking name r k).Whole := hw
  rw [sent]
  obtain ⟨hb, ht⟩ := State.send_whole hwa (State.tileDst_here hm _ _ _)
  refine ⟨hb, ht.trans ?_⟩
  rw [show (s.asking name r k).traffic = [] from State.traffic_nil.mpr hn]
  rfl

end

section
variable {h : Hdr} {s : State} {a : SReg} {v? : Option (BitVec 32)} {v : BitVec 32}

theorem tileForm_asks (r : AtHome h s) (hs : tileStack (s.me.rs a) ≤ 5) (hm : tileMod (s.me.rs a) = s.modId) (hv : v? = some v)
    (k : Word → BitVec 32 → Out) : tileForm h s a v? k = k (s.me.rs a) v := by
  have reach : s.reaches s.cur (tileMod (s.me.rs a)) = true := by simp [State.reaches, hm]
  refine (homeOnly_runs h s _ _ _ r).trans ?_
  rw [if_neg (by omega), hv]
  exact if_pos reach

theorem tileForm_badName (r : AtHome h s) (hs : 5 < tileStack (s.me.rs a)) (n : s.me.state ≠ .handler) (k : Word → BitVec 32 → Out) :
    tileForm h s a v? k = .next (s.mod fun sl => sl.takeTrap 5 4 (s.me.rs a) sl.pc) := by
  refine (homeOnly_runs h s _ _ _ r).trans ((if_pos hs).trans ?_)
  exact trap_enters s _ _ _ r.2 n

theorem tileForm_badVersion (r : AtHome h s) (hs : tileStack (s.me.rs a) ≤ 5) (hv : v? = none) (n : s.me.state ≠ .handler)
    (k : Word → BitVec 32 → Out) : tileForm h s a v? k = .next (s.mod fun sl => sl.takeTrap 5 7 (s.me.rs a) sl.pc) := by
  refine (homeOnly_runs h s _ _ _ r).trans ((if_neg (by omega)).trans ?_)
  rw [hv]
  exact trap_enters s _ _ _ r.2 n

end

/-! ## What each form asks -/

section
variable {h : Hdr} {d a : SReg} {b : Option SReg} {i : BitVec 18} {j n : BitVec 8} {t : TileArgs} {v u : BitVec 32} {s : State}
  (r : AtHome h s) (hs : tileStack (s.me.rs a) ≤ 5) (hm : tileMod (s.me.rs a) = s.modId)
include r hs hm

theorem execTnew_asks (hv : verOperand s.me t.b t.imm = some v) : exec (.tnew h d a t) s =
    .next (sendTile s (s.me.rs a) (.new t.c.val v t.cnt.toNat) .versionStore (.new d) true) := by
  change execTnew h d a t s = _
  exact tileForm_asks r hs hm hv _

theorem execTstore_asks (hv : verOperand s.me t.b t.imm = some v) : exec (.tstore h a t) s =
    .next (sendTile s (s.me.rs a) (.claim v t.c.val t.cnt.toNat h.ev t.addr.toNat) .versionStore (.store v t.addr.toNat t.c.val) true) := by
  change execTstore h a t s = _
  exact tileForm_asks r hs hm hv _

theorem execTload_asks (hv : verOperand s.me t.b t.imm = some v) : exec (.tload h d a t) s =
    .next (sendTile s (s.me.rs a) (.load v t.c.val t.cnt.toNat t.addr.toNat false) .versionWait (.load d v t.c.val t.cnt.toNat t.addr.toNat false) false) := by
  change execTload h d a t s = _
  exact tileForm_asks r hs hm hv _

theorem execTpoll_asks (hu : verOperand s.me b i = some u) : exec (.tpoll h d a b i) s =
    .next (sendTile s (s.me.rs a) (.poll u) .versionWait (.read d) false) := by
  change execTpoll h d a b i s = _
  exact tileForm_asks r hs hm hu _

theorem execTdrop_asks (hu : verOperand s.me b i = some u) : exec (.tdrop h d a b i j) s =
    .next (sendTile s (s.me.rs a) (.drop u j.toNat) .versionWait (.change d) false) := by
  change execTdrop h d a b i j s = _
  exact tileForm_asks r hs hm hu _

theorem execTref_asks (hu : verOperand s.me b i = some u) : exec (.tref h d a b i j) s =
    .next (sendTile s (s.me.rs a) (.ref u j.toNat) .versionWait (.change d) false) := by
  change execTref h d a b i j s = _
  exact tileForm_asks r hs hm hu _

theorem execTinfo_asks : exec (.tinfo h d a) s =
    .next (sendTile s (s.me.rs a) .info .versionWait (.read d) false) := by
  change execTinfo h d a s = _
  exact tileForm_asks r hs hm rfl _

theorem execTfloor_asks (hu : verOperand s.me b i = some u) : exec (.tfloor h d a b i) s =
    .next (sendTile s (s.me.rs a) (.floor u) .versionStore (.change d) false) := by
  change execTfloor h d a b i s = _
  exact tileForm_asks r hs hm hu _

theorem execTlimit_asks : exec (.tlimit h d a n) s =
    .next (sendTile s (s.me.rs a) (.limit n.toNat) .versionWait (.change d) false) := by
  change execTlimit h d a n s = _
  exact tileForm_asks r hs hm rfl _

theorem execTdel_asks : exec (.tdel h d a) s =
    .next (sendTile s (s.me.rs a) .del .versionStore (.change d) false) := by
  change execTdel h d a s = _
  exact tileForm_asks r hs hm rfl _

theorem execTloadt_asks (hv : verOperand s.me t.b t.imm = some v) (hd : (s.me.rs d).toNat < 2 ^ 32) : ∃ x, exec (.tloadt h d a t) s =
    .next ((sendTile s (s.me.rs a) (.load v t.c.val t.cnt.toNat t.addr.toNat (decide ((s.me.rs d).toNat = 0))) .versionWait
      (.load d v t.c.val t.cnt.toNat t.addr.toNat true) false).mod fun sl => { sl with deadline := x }) := by
  change ∃ x, execTloadt h d a t s = _
  have asked : (if (s.me.rs d).toNat < 2 ^ 32 then verOperand s.me t.b t.imm else none) = some v := by rw [if_pos hd, hv]
  exact ⟨_, tileForm_asks r hs hm asked _⟩

end

theorem tileTraps : Claims.TileTraps := by
  intro h d a b t j s r n name
  refine ⟨fun hs i hi => ?_, fun hs hv i hi => ?_⟩
  · simp only [List.mem_cons, List.not_mem_nil, or_false] at hi
    rcases hi with rfl | rfl | rfl | rfl | rfl
    · change execTnew h d a t s = _
      exact tileForm_badName r hs n _
    · change execTstore h a t s = _
      exact tileForm_badName r hs n _
    · change execTload h d a t s = _
      exact tileForm_badName r hs n _
    · change execTinfo h d a s = _
      exact tileForm_badName r hs n _
    · change execTdel h d a s = _
      exact tileForm_badName r hs n _
  · have bad : verOperand s.me (some b) 0 = none := if_neg (by omega)
    simp only [List.mem_cons, List.not_mem_nil, or_false] at hi
    rcases hi with rfl | rfl
    · change execTpoll h d a (some b) 0 s = _
      exact tileForm_badVersion r hs bad n _
    · change execTdrop h d a (some b) 0 j s = _
      exact tileForm_badVersion r hs bad n _

/-- A form that sends its request parks with it. -/
theorem asksTile_of_sends {i : Instr} {s : State} {name : Word} {op : TileOp} {r : Reason} {k : TileWait} {rel : Bool} (hq : s.me.Quiet)
    (hw : s.Whole) (hn : s.net = []) (hm : tileMod name = s.modId) (he : exec i s = .next (sendTile s name op r k rel)) :
    AsksTile i s name op r k := by
  obtain ⟨hb, ht⟩ := sendTile_sends (op := op) (r := r) (k := k) hq hw hn hm rel
  obtain ⟨f, hf, hp, hh⟩ := State.net_of_traffic ht
  have slot := (hb.slot s.cur).trans State.slot_asking
  exact ⟨_, f, he, by rw [slot]; rfl, by rw [slot]; rfl, by rw [slot], hf, hh, hb.mem, hp⟩

theorem tileRequests : Claims.TileRequests := by
  intro h d a b i j n t v u s r hq hw hnet name hs hm hv hu
  have asks {q : Instr} {op : TileOp} {rs : Reason} {k : TileWait} {rel : Bool} (he : exec q s = .next (sendTile s name op rs k rel)) :
      AsksTile q s name op rs k := asksTile_of_sends hq hw hnet hm he
  refine ⟨asks (execTnew_asks r hs hm hv), asks (execTstore_asks r hs hm hv), asks (execTload_asks r hs hm hv), fun hd => ?_,
    asks (execTpoll_asks r hs hm hu), asks (execTdrop_asks r hs hm hu), asks (execTref_asks r hs hm hu), asks (execTinfo_asks r hs hm),
    asks (execTfloor_asks r hs hm hu), asks (execTlimit_asks r hs hm), asks (execTdel_asks r hs hm)⟩
  obtain ⟨x, hx⟩ := execTloadt_asks r hs hm hv hd
  obtain ⟨hb, ht⟩ := sendTile_sends (op := .load v t.c.val t.cnt.toNat t.addr.toNat (decide ((s.me.rs d).toNat = 0))) (r := .versionWait)
    (k := .load d v t.c.val t.cnt.toNat t.addr.toNat true) hq hw hnet hm false
  obtain ⟨f, hf, hp, hh⟩ := State.net_of_traffic ht
  have slot := (hb.slot s.cur).trans State.slot_asking
  have parked (y : State) (hc : y.cur = s.cur) (g : Slot → Slot) : (y.mod g).slot s.cur = g (y.slot s.cur) := by
    rw [← hc]
    exact State.slot_mod_cur y g
  exact ⟨_, f, hx, by rw [parked _ hb.cur, slot]; rfl, by rw [parked _ hb.cur, slot]; rfl, by rw [parked _ hb.cur, slot], hf, hh, hb.mem, hp⟩

end Sys2Proof.Machine
end

section
/-! SUPPORT. The questions a slot asks of a name's record, from their issue to their end (05 R115, R118-R123). -/

namespace Sys2Proof.Machine

/-! ## The slice's answers -/

section
variable {t : State} {r : NameRec} {q : TileReq}

theorem State.with_names {l : List NameRec} (h : t.names = l) : { t with names := l } = t := by rw [← h]

/-- A request that looks up no entry is handled as it is. -/
theorem State.handleTile_plain (hv : lookedUp q.op = none) (arr : Nat) : t.handleTile q arr = t.handleAt q arr := by
  unfold State.handleTile
  rw [hv]
  rfl

theorem State.handleTile_new (hn : t.names = []) {c n : Nat} {f : BitVec 32} (ho : q.op = .new c f n) (arr : Nat) :
    t.handleTile q arr = .done (State.tileReply { t with names := [⟨q.name, c, f, n, false, [], [], []⟩] } q.src q.name q.id (.val 0)) := by
  have room : t.makeRoom (tileKey q.name) = some t := State.makeRoom_few (by
    rw [State.entriesUsed, State.keyNames, hn]
    exact (by decide : 0 < 32768))
  rw [State.handleTile_plain (by rw [ho]; rfl)]
  unfold State.handleAt
  simp only [ho, State.rec?_none hn, room, hn, List.nil_append]

theorem State.handleTile_newAgain (hn : t.names = [r]) (hq : q.name = r.name) {c n : Nat} {f : BitVec 32} (ho : q.op = .new c f n) (arr : Nat) :
    t.handleTile q arr = .done (t.tileReply q.src q.name q.id (.val 1)) := by
  rw [State.handleTile_plain (by rw [ho]; rfl)]
  unfold State.handleAt
  simp only [ho, hq, State.rec?_one hn]

theorem State.handleTile_info {x : Option NameRec} (hn : t.rec? q.name = x) (ho : q.op = .info) (arr : Nat) :
    t.handleTile q arr = .done (t.tileReply q.src q.name q.id (.val (infoWord x))) := by
  rw [State.handleTile_plain (by rw [ho]; rfl)]
  unfold State.handleAt
  simp only [ho, hn]

theorem State.handleTile_poll {x : Option NameRec} {v : BitVec 32} (hn : t.rec? q.name = x) (hb : t.bringBack q.name v = some t)
    (ho : q.op = .poll v) (arr : Nat) : t.handleTile q arr = .done (t.tileReply q.src q.name q.id (.val (pollWord x v))) := by
  unfold State.handleTile
  simp only [ho, lookedUp, Option.map_some, hb]
  unfold State.handleAt
  simp only [ho, hn]

theorem State.handleTile_floorPassed {v : BitVec 32} (hn : t.names = [r]) (hq : q.name = r.name) (hp : r.pend = []) (ho : q.op = .floor v)
    (hf : r.exhausted = true ∨ v.toNat ≤ r.floor.toNat) (arr : Nat) : t.handleTile q arr = .done (t.tileReply q.src q.name q.id (.val 1)) := by
  have passed : (r.exhausted || decide (v.toNat ≤ r.bar)) = true := by
    unfold NameRec.bar
    rw [hp, List.foldl_nil, Bool.or_eq_true, decide_eq_true_iff]
    exact hf
  rw [State.handleTile_plain (by rw [ho]; rfl)]
  unfold State.handleAt
  simp only [ho, hq, State.rec?_one hn, passed, if_true]

theorem State.handleTile_limit {n : Nat} (hn : t.names = [r]) (hq : q.name = r.name) (hv : ∀ e ∈ r.vers, e.st ≠ .dead) (hp : r.pend = [])
    (ho : q.op = .limit n) (arr : Nat) : t.handleTile q arr =
      .done (State.tileReply { t with names := [{ r with limit := n }] } q.src q.name q.id (.val (BitVec.ofNat 64 r.limit))) := by
  have settled := State.settleTile_still (s := { t with names := [{ r with limit := n }] }) (r := { r with limit := n }) rfl hv hp
  have put : t.setRec { r with limit := n } = { t with names := [{ r with limit := n }] } := State.setRec_one hn rfl
  rw [State.handleTile_plain (by rw [ho]; rfl)]
  unfold State.handleAt
  simp only [ho, hq, State.rec?_one hn, put]
  exact congrArg (fun s : State => Handled.done (s.tileReply q.src r.name q.id _)) settled

/-- A `tfloor` of a name without versions is performed at once. -/
theorem State.settleTile_floor {src : Agent} {id : Nat} {f : BitVec 32} (hn : t.names = [{ r with pend := [(src, id, some f)] }])
    (hv : r.vers = []) (hpk : r.parked = []) (he : r.exhausted = false) (hf : r.floor.toNat < f.toNat) :
    t.settleTile r.name = State.tileReply { t with names := [{ r with floor := f, pend := [] }] } src r.name id (.val 0) := by
  have still : ({ r with pend := [(src, id, some f)] } : NameRec).advance (r.vers.length + 1) = { r with pend := [(src, id, some f)] } :=
    NameRec.advance_live (by simp [hv]) _
  have kept : t.setRec { r with pend := [(src, id, some f)] } = t := by rw [State.setRec_one hn rfl, ← hn]
  have found : t.rec? r.name = some { r with pend := [(src, id, some f)] } := State.rec?_one hn
  unfold State.settleTile
  simp only [found, still, kept, Option.map_some, Option.getD_some, List.length_singleton, List.range_one, List.foldl_cons, List.foldl_nil]
  unfold State.pendDone
  simp only [found, hv, hpk, he, List.filter_nil, List.any_nil, List.map_nil, List.flatten_nil]
  rw [if_neg Bool.false_ne_true, if_neg (by simp [Nat.not_le.mpr hf])]
  have live : ({ r with floor := f, pend := [], vers := [], parked := [], exhausted := false } : NameRec).advance 1 =
    { r with floor := f, pend := [], vers := [], parked := [], exhausted := false } :=
    NameRec.advance_live (fun _ h => (List.not_mem_nil h).elim) _
  exact congrArg (fun s : State => State.tileReply s src r.name id (.val 0))
    ((congrArg t.setRec live).trans (State.setRec_one hn (r' := { r with floor := f, pend := [], vers := [], parked := [], exhausted := false }) rfl))

theorem State.dropWaiting_none {s : State} (h : s.tileHeld = []) (name : Word) : s.dropWaiting name = s := by
  unfold State.dropWaiting
  rw [h]
  exact congrArg (fun l => { s with tileHeld := l }) h.symm

/-- A `tdel` of a name without versions is performed at once. -/
theorem State.settleTile_del {src : Agent} {id : Nat} (hn : t.names = [{ r with pend := [(src, id, none)] }])
    (hv : r.vers = []) (hpk : r.parked = []) (hh : t.tileHeld = []) :
    t.settleTile r.name = State.tileReply { t with names := [] } src r.name id (.val 0) := by
  have still : ({ r with pend := [(src, id, none)] } : NameRec).advance (r.vers.length + 1) = { r with pend := [(src, id, none)] } :=
    NameRec.advance_live (by simp [hv]) _
  have kept : t.setRec { r with pend := [(src, id, none)] } = t := by rw [State.setRec_one hn rfl, ← hn]
  have found : t.rec? r.name = some { r with pend := [(src, id, none)] } := State.rec?_one hn
  unfold State.settleTile
  simp only [found, still, kept, Option.map_some, Option.getD_some, List.length_singleton, List.range_one, List.foldl_cons, List.foldl_nil]
  unfold State.pendDone
  simp only [found, hv, hpk, List.any_nil, List.map_nil, List.flatten_nil, List.tail_cons, List.foldl_nil]
  rw [if_neg Bool.false_ne_true]
  have gone : t.names.filter (fun x => decide (x.name ≠ r.name)) = [] := by rw [hn]; simp
  rw [gone]
  exact congrArg (fun s : State => State.tileReply s src r.name id (.val 0)) (State.dropWaiting_none (s := { t with names := [] }) hh r.name)

theorem State.handleTile_floor {v : BitVec 32} (hn : t.names = [r]) (hq : q.name = r.name) (hv : r.vers = []) (hpk : r.parked = [])
    (hp : r.pend = []) (he : r.exhausted = false) (hf : r.floor.toNat < v.toNat) (ho : q.op = .floor v) (arr : Nat) :
    t.handleTile q arr = .done (State.tileReply { t with names := [{ r with floor := v }] } q.src q.name q.id (.val 0)) := by
  have put : t.setRec { r with pend := [(q.src, q.id, some v)] } = { t with names := [{ r with pend := [(q.src, q.id, some v)] }] } :=
    State.setRec_one hn rfl
  have ahead : (r.exhausted || decide (v.toNat ≤ r.bar)) = false := by
    unfold NameRec.bar
    rw [hp, he, List.foldl_nil, Bool.false_or, decide_eq_false_iff_not]
    exact Nat.not_le.mpr hf
  have settled := State.settleTile_floor (t := { t with names := [{ r with pend := [(q.src, q.id, some v)] }] }) rfl hv hpk he hf
  have same : { r with floor := v, pend := [] } = { r with floor := v } := by rw [← hp]
  rw [State.handleTile_plain (by rw [ho]; rfl)]
  unfold State.handleAt
  simp only [ho, hq, State.rec?_one hn, ahead, hp, List.nil_append, put]
  rw [if_neg Bool.false_ne_true, settled, same]

theorem State.handleTile_del (hn : t.names = [r]) (hq : q.name = r.name) (hv : r.vers = []) (hpk : r.parked = []) (hp : r.pend = [])
    (hh : t.tileHeld = []) (ho : q.op = .del) (arr : Nat) :
    t.handleTile q arr = .done (State.tileReply { t with names := [] } q.src q.name q.id (.val 0)) := by
  have put : t.setRec { r with pend := [(q.src, q.id, none)] } = { t with names := [{ r with pend := [(q.src, q.id, none)] }] } :=
    State.setRec_one hn rfl
  have settled := State.settleTile_del (t := { t with names := [{ r with pend := [(q.src, q.id, none)] }] }) rfl hv hpk hh
  rw [State.handleTile_plain (by rw [ho]; rfl)]
  unfold State.handleAt
  simp only [ho, hq, State.rec?_one hn, hp, List.nil_append, put]
  rw [settled]

/-- A `tdrop` or `tref` that leaves its version alive changes its references. -/
theorem State.handleRefs_alive {e e' : VerEntry} {f : VerEntry → Nat × VerEntry} {code : Nat} (hn : t.names = [r]) (hv : r.vers = [e])
    (hp : r.pend = []) (he : r.exhausted = false) (hf : r.floor.toNat ≤ e.v.toNat) (hc : f e = (code, e')) (hev : e'.v = e.v)
    (hs : e'.st = .present) (h0 : e'.count ≠ 0) (src : Agent) (id : Nat) : t.handleRefs r src id e.v f =
      State.tileReply { t with names := [{ r with vers := [{ e' with touched := t.cycle }] }] } src r.name id (.val (BitVec.ofNat 64 code)) := by
  have alive : ({ e' with touched := t.cycle } : VerEntry).settle = { e' with touched := t.cycle } := if_neg fun h => h0 h.2.2.1
  have put : t.setRec (r.setVer { e' with touched := t.cycle }) = { t with names := [{ r with vers := [{ e' with touched := t.cycle }] }] } := by
    rw [NameRec.setVer_one (e' := { e' with touched := t.cycle }) hv hev, State.setRec_vers hn]
  have settled := State.settleTile_still (s := { t with names := [{ r with vers := [{ e' with touched := t.cycle }] }] })
    (r := { r with vers := [{ e' with touched := t.cycle }] }) rfl (by simp [hs]) hp
  unfold State.handleRefs
  rw [NameRec.not_below he hp hf, if_neg Bool.false_ne_true, NameRec.ver?_one hv]
  dsimp only
  rw [hc]
  unfold State.putVer
  rw [alive, put]
  exact congrArg (fun s : State => s.tileReply src r.name id _) settled

end

end Sys2Proof.Machine
end

section
/-! SUPPORT. A question of a slot to a name's record, from its issue to its end (05 R115, R118-R123). -/

namespace Sys2Proof.Machine

/-- The instruction asks, its question is answered at the home slice, and the slot goes on with the answer. -/
def State.Answered (s : State) (d : SReg) (q : Instr) (x : Word) (z : State) : Prop := ∃ y, exec q s = .next y ∧
  Leads [.versionClaim (.net 0), .versionClaim (.net 0), .parkReasonMet s.cur] y z ∧
  (d ≠ 0 → (z.slot s.cur).rs d = x) ∧ (z.slot s.cur).pc = s.me.pc + 1 ∧ z.net = [] ∧ z.mem = s.mem

theorem State.ButNet.cycle {s t : State} (h : s.ButNet t) : t.cycle = s.cycle := by
  unfold State.ButNet at h
  rw [h]

section
variable {s : State} {name : Word} {op : TileOp} {d : SReg} {k : TileWait} {rs : Reason}

/-- A slot that has parked with a request is not spilled. -/
theorem State.asking_state : ((s.asking name rs k).slot s.cur).state ≠ .spilled := by
  rw [State.slot_asking]
  change (if s.me.state = .handler then SlotState.handler else .parked) ≠ _
  split <;> exact nofun

theorem State.asking_wait : ((s.asking name rs k).slot s.cur).wait = .tile k name ∧ ((s.asking name rs k).slot s.cur).reply = none ∧
    ((s.asking name rs k).slot s.cur).tileId = s.me.nextId ∧ ((s.asking name rs k).slot s.cur).pc = s.me.pc := by
  rw [State.slot_asking]
  exact ⟨rfl, rfl, rfl, rfl⟩

/-- An answer under way to the slot that asked ends its park. -/
theorem answer_taken {z : State} {q : TileReq} {x : Word} {w : Who} (hw : z.Whole) (hz : z.traffic = [(answerOf q (.val x), none)])
    (hsrc : q.src.who = w) (hk : k ∈ [TileWait.new d, .read d, .change d]) (hwait : (z.slot w).wait = .tile k q.name)
    (hi : (z.slot w).tileId = q.id) (hr : (z.slot w).reply = none) (hst : (z.slot w).state ≠ .spilled) :
    ∃ t, Leads [.versionClaim (.net 0), .parkReasonMet w] z t ∧ (d ≠ 0 → (t.slot w).rs d = x) ∧ (t.slot w).pc = (z.slot w).pc + 1 ∧
      t.net = [] ∧ t.mem = z.mem ∧ t.names = z.names := by
  obtain ⟨t, ht, hf, -, htr⟩ := State.performTile_answer hw hz rfl rfl
  have slot : t.slot w = z.slot w := hf.slot w
  have taken := State.tileAnswer_val (s := t) (by rw [slot, hwait]) (by rw [slot, hi]) (by rw [slot, hr]) x
  rw [← hsrc] at slot taken ⊢
  have sl : (t.modSlot q.src.who fun sl => { sl with reply := some (.val x) }).slot q.src.who =
      { z.slot q.src.who with reply := some (.val x) } := by rw [State.slot_modSlot_self, slot]
  have ended := tileAnswers q.src.who d q.name x (t.modSlot q.src.who fun sl => { sl with reply := some (.val x) })
    (by rw [sl]) (by rw [sl]; rw [hsrc]; exact hst) k hk (by rw [sl, hsrc]; exact hwait)
  refine ⟨_, ⟨_, congrArg Host.Outcome.next (ht.trans taken), _, ended, rfl⟩, fun h => ?_, ?_, State.traffic_nil.mp htr, ?_, ?_⟩
  · rw [State.slot_modSlot_self, Slot.rs_next, Slot.rs_ws _ _ _ h]
  · rw [State.slot_modSlot_self, Slot.next_pc, Slot.ws_pc, Slot.unpark_pc, sl]
  · exact hf.mem
  · exact hf.names

/-- A question that the home slice answers at once, from its issue to its end. -/
theorem question_answered {i : Instr} {rel : Bool} {l : List NameRec} {x : Word} (hq : s.me.Quiet) (hw : s.Whole) (hn : s.net = [])
    (hh : s.tileHeld = []) (hpk : ∀ r ∈ s.names, r.parked = []) (hm : tileMod name = s.modId) (hk : k ∈ [TileWait.new d, .read d, .change d])
    (he : exec i s = .next (sendTile s name op rs k rel)) (hl : ∀ r ∈ l, r.parked = [])
    (hd : ∀ t : State, t.names = s.names → t.tileHeld = [] → t.cycle = s.cycle → ∀ arr, t.handleTile (s.requestOf name op) arr =
      .done (State.tileReply { t with names := l } (s.agent s.cur) name s.me.nextId (.val x))) :
    ∃ z, s.Answered d i x z ∧ z.names = l := by
  obtain ⟨hb, htr⟩ := sendTile_sends (op := op) (r := rs) (k := k) hq hw hn hm rel
  have hwa : (s.asking name rs k).Whole := hw
  have asks : (sendTile s name op rs k rel).Requests (s.requestOf name op) :=
    ⟨_, htr, rfl, (State.outbound_congr hb.traffic.modId _).trans (State.tileDst_here hm _ _ _)⟩
  have waits : (sendTile s name op rs k rel).NoneWait := ⟨hb.traffic.tileHeld.trans hh, by rw [hb.names]; exact hpk⟩
  obtain ⟨y, hy, hny, hty, hwy, -, -, htry⟩ := State.performTile_answers (hwa.butNet hb) waits asks hb.traffic.modId.symm hl
    fun t hf => hd t (hf.names.trans hb.names) (hf.tileHeld.trans waits.held) (hf.cycle.trans hb.cycle) t.tileSeq
  have slot : y.slot s.cur = (s.asking name rs k).slot s.cur := (hty.slot _).trans (hb.slot _)
  obtain ⟨wait, reply, tid, pc⟩ := s.asking_wait (name := name) (rs := rs) (k := k)
  obtain ⟨z, hz, hval, hpc, hnet, hmem, hnz⟩ := answer_taken hwy htry (w := s.cur) rfl hk (by rw [slot, wait]) (by rw [slot, tid])
    (by rw [slot, reply]) (by rw [slot]; exact State.asking_state)
  refine ⟨z, ⟨_, he, ⟨_, congrArg Host.Outcome.next hy, hz⟩, hval, by rw [hpc, slot, pc], hnet, ?_⟩, hnz.trans hny⟩
  rw [hmem, hty.mem, hb.mem]
  rfl

end

end Sys2Proof.Machine
end

section
/-! SUPPORT. The questions of each tile form to a name's record (05 R115, R118-R123). -/

namespace Sys2Proof.Machine

theorem State.bringBack_unnamed {s : State} (hn : s.names = []) (n : Word) (v : BitVec 32) : s.bringBack n v = some s := by
  unfold State.bringBack
  rw [State.rec?_none hn]
  rfl

theorem dropRefs_some {e : VerEntry} {j : Nat} (hs : e.st = .present) (hp : e.persistent = false) (h0 : 0 < j) (hj : j < e.count) :
    dropRefs e j = (0, { e with count := e.count - j }) := by
  unfold dropRefs
  simp only [hs, hp]
  rw [if_neg (by simp; omega), if_neg (by omega), if_neg Bool.false_ne_true, if_neg (by omega)]

theorem addRefs_few {e : VerEntry} {j : Nat} (hs : e.st = .present) (hp : e.persistent = false) (h0 : 0 < e.count) (hj : e.count + j ≤ 65535) :
    addRefs e j = (0, { e with count := e.count + j }) := by
  unfold addRefs
  simp only [hs, hp]
  rw [if_neg Bool.false_ne_true, if_neg (by omega), if_neg (by omega)]

section
variable {t : State} {r : NameRec} {e : VerEntry} {q : TileReq}

/-- A `tdrop` of some of a version's references leaves the rest. -/
theorem State.handleTile_drop {j : Nat} (hn : t.names = [r]) (hq : q.name = r.name) (hv : r.vers = [e]) (hp : r.pend = [])
    (he : r.exhausted = false) (hf : r.floor.toNat ≤ e.v.toNat) (hs : e.st = .present) (hper : e.persistent = false) (hsp : e.spilled = false)
    (h0 : 0 < j) (hj : j < e.count) (ho : q.op = .drop e.v j) (arr : Nat) : t.handleTile q arr = .done (State.tileReply { t with
      names := [{ r with vers := [{ e with count := e.count - j, touched := t.cycle }] }] } q.src q.name q.id (.val 0)) := by
  rw [State.handleTile_there hn hq (by rw [ho]; rfl) fun x hx => by rw [NameRec.ver?_one hv] at hx; exact Option.some.inj hx ▸ hsp]
  unfold State.handleAt
  simp only [ho, hq, State.rec?_one hn]
  exact congrArg Handled.done (State.handleRefs_alive hn hv hp he hf (f := fun e => dropRefs e j) (dropRefs_some hs hper h0 hj) rfl hs
    (Nat.sub_ne_zero_of_lt hj) q.src q.id)

/-- A `tref` adds references to a version that has some. -/
theorem State.handleTile_ref {j : Nat} (hn : t.names = [r]) (hq : q.name = r.name) (hv : r.vers = [e]) (hp : r.pend = [])
    (he : r.exhausted = false) (hf : r.floor.toNat ≤ e.v.toNat) (hs : e.st = .present) (hper : e.persistent = false) (hsp : e.spilled = false)
    (h0 : 0 < e.count) (hj : e.count + j ≤ 65535) (ho : q.op = .ref e.v j) (arr : Nat) : t.handleTile q arr = .done (State.tileReply { t with
      names := [{ r with vers := [{ e with count := e.count + j, touched := t.cycle }] }] } q.src q.name q.id (.val 0)) := by
  rw [State.handleTile_there hn hq (by rw [ho]; rfl) fun x hx => by rw [NameRec.ver?_one hv] at hx; exact Option.some.inj hx ▸ hsp]
  unfold State.handleAt
  simp only [ho, hq, State.rec?_one hn]
  exact congrArg Handled.done (State.handleRefs_alive hn hv hp he hf (f := fun e => addRefs e j) (addRefs_few hs hper h0 hj) rfl hs
    (show e.count + j ≠ 0 by omega) q.src q.id)

end

theorem tileQuestions : Claims.TileQuestions := by
  intro h d a b i j n t v u r e s ha hq hw hnet hh name w claim hs hm hv hu
  have kn : TileWait.new d ∈ [TileWait.new d, .read d, .change d] := List.mem_cons_self
  have kr : TileWait.read d ∈ [TileWait.new d, .read d, .change d] := .tail _ (.head _)
  have kc : TileWait.change d ∈ [TileWait.new d, .read d, .change d] := .tail _ (.tail _ (.head _))
  refine ⟨fun hn => ?_, fun hn hr hp hpk => ?_⟩
  · have parked : ∀ x ∈ s.names, x.parked = [] := by rw [hn]; exact fun _ h => (List.not_mem_nil h).elim
    refine ⟨?_, ?_, ?_⟩
    · exact question_answered hq hw hnet hh parked hm kn (execTnew_asks ha hs hm hv) (by simp)
        fun t ht _ _ arr => State.handleTile_new (ht.trans hn) rfl arr
    · obtain ⟨z, hz, -⟩ := question_answered hq hw hnet hh parked hm kr (execTpoll_asks ha hs hm hu) (l := []) nofun
        fun t ht _ _ arr => (State.handleTile_poll (State.rec?_none (ht.trans hn) _) (State.bringBack_unnamed (ht.trans hn) _ u) rfl arr).trans (by
          rw [State.with_names (ht.trans hn)])
      exact ⟨z, hz⟩
    · obtain ⟨z, hz, -⟩ := question_answered hq hw hnet hh parked hm kr (execTinfo_asks ha hs hm) (l := []) nofun
        fun t ht _ _ arr => (State.handleTile_info (State.rec?_none (ht.trans hn) _) rfl arr).trans (by rw [State.with_names (ht.trans hn)])
      exact ⟨z, hz⟩
  · have parked : ∀ x ∈ s.names, x.parked = [] := by rw [hn]; simpa using hpk
    have rec_ (t : State) (ht : t.names = s.names) : t.rec? name = some r := hr ▸ State.rec?_one (ht.trans hn)
    -- An answer that leaves the table as it is.
    have told {q : Instr} {op : TileOp} {rs : Reason} {k : TileWait} {rel : Bool} {x : Word} (hk : k ∈ [TileWait.new d, .read d, .change d])
        (he : exec q s = .next (sendTile s name op rs k rel)) (hd : ∀ t : State, t.names = [r] → ∀ arr,
          t.handleTile (s.requestOf name op) arr = .done (t.tileReply (s.agent s.cur) name s.me.nextId (.val x))) :
        ∃ z, s.Answered d q x z ∧ z.names = [r] :=
      question_answered hq hw hnet hh parked hm hk he (by simpa using hpk) fun t ht _ _ arr => by
        rw [hd t (ht.trans hn) arr, State.with_names (ht.trans hn)]
    refine ⟨?_, fun hsp => ?_, ?_, fun hf => ?_, fun hvs => ⟨fun hx hf => ?_, ?_, ?_⟩, fun hvs hev hst hper hsp hx hf => ⟨fun h0 hj => ?_, fun h0 hj => ?_⟩⟩
    · exact told kn (execTnew_asks ha hs hm hv) fun t ht arr => State.handleTile_newAgain ht hr.symm rfl arr
    · obtain ⟨z, hz, -⟩ := told kr (execTpoll_asks ha hs hm hu) fun t ht arr => State.handleTile_poll (rec_ t (ht.trans hn.symm))
        (hr ▸ State.bringBack_there ht fun x hx => hsp x (List.mem_of_find?_eq_some hx)) rfl arr
      exact ⟨z, hz⟩
    · obtain ⟨z, hz, -⟩ := told kr (execTinfo_asks ha hs hm) fun t ht arr => State.handleTile_info (rec_ t (ht.trans hn.symm)) rfl arr
      exact ⟨z, hz⟩
    · obtain ⟨z, hz, -⟩ := told kc (execTfloor_asks ha hs hm hu) fun t ht arr => State.handleTile_floorPassed ht hr.symm hp rfl hf arr
      exact ⟨z, hz⟩
    · exact question_answered hq hw hnet hh parked hm kc (execTfloor_asks ha hs hm hu) (by simpa using hpk)
        fun t ht _ _ arr => State.handleTile_floor (ht.trans hn) hr.symm hvs hpk hp hx hf rfl arr
    · exact question_answered hq hw hnet hh parked hm kc (execTlimit_asks ha hs hm) (by simpa using hpk)
        fun t ht _ _ arr => State.handleTile_limit (ht.trans hn) hr.symm (by simp [hvs]) hp rfl arr
    · exact question_answered hq hw hnet hh parked hm kc (execTdel_asks ha hs hm) (by simp)
        fun t ht hht _ arr => State.handleTile_del (ht.trans hn) hr.symm hvs hpk hp hht rfl arr
    · subst hev
      obtain ⟨z, hz, hnz⟩ := question_answered (l := [{ r with vers := [{ e with count := e.count - j.toNat, touched := s.cycle }] }])
        hq hw hnet hh parked hm kc (execTdrop_asks ha hs hm hu) (by simpa using hpk) fun t ht _ hc arr => by
          rw [← hc]
          exact State.handleTile_drop (ht.trans hn) hr.symm hvs hp hx hf hst hper hsp h0 hj rfl arr
      exact ⟨z, hz, by rw [← hr, State.version_one hnz rfl]; rfl⟩
    · subst hev
      obtain ⟨z, hz, hnz⟩ := question_answered (l := [{ r with vers := [{ e with count := e.count + j.toNat, touched := s.cycle }] }])
        hq hw hnet hh parked hm kc (execTref_asks ha hs hm hu) (by simpa using hpk) fun t ht _ hc arr => by
          rw [← hc]
          exact State.handleTile_ref (ht.trans hn) hr.symm hvs hp hx hf hst hper hsp h0 hj rfl arr
      exact ⟨z, hz, by rw [← hr, State.version_one hnz rfl]; rfl⟩

end Sys2Proof.Machine
end

section
/-! SUPPORT. A tile loaded and a tile stored, from the issue to the end (05 R110, R116, R117). -/

namespace Sys2Proof.Machine

/-! ## The lines of a tile land -/

/-- A packet that brings a core a tile's line or a delivery's notice. -/
def BringsTile (p : Packet) : Prop := (∃ c, p.dst = .core c) ∧
  ((∃ a n l, p.body = .tdata a n l) ∨ ∃ a n m x y i, p.body = .notice a n m x y i)

section
variable {s : State} {c : CoreId}

theorem State.portStuck_tiles (h : ∀ x ∈ s.traffic, BringsTile x.1) : s.portStuck c = false := by
  unfold State.portStuck
  refine List.any_eq_false.mpr fun x hx => ?_
  have mem : x.1 ∈ s.net := List.fst_mem_of_mem_zipIdx hx
  obtain ⟨⟨d, hd⟩, hb⟩ := h _ (List.mem_map_of_mem (f := fun f => (f.pkt, f.hold)) mem)
  dsimp only at hd hb
  rcases hb with ⟨a, n, l, hb⟩ | ⟨a, n, m, y, z, i, hb⟩ <;> simp [hd, hb, State.roamsTo]

/-- A core whose message port holds nothing takes the tile that is under way to it. -/
theorem State.noticeOpen_tiles (hm : (s.core c).msgIn = []) (h : ∀ x ∈ s.traffic, BringsTile x.1) : s.noticeOpen c = true := by
  unfold State.noticeOpen
  rw [hm, State.portStuck_tiles h]
  rfl

/-- The packet with a line of a tile. -/
def linePacket (name : Word) (src : Agent) (x : Nat × List Byte) : Packet := ⟨tileSrc name, .core src.who.core, .notice, .tdata src x.1 x.2⟩

theorem linePacket_brings (name : Word) (src : Agent) (x : Nat × List Byte) : BringsTile (linePacket name src x) :=
  ⟨⟨_, rfl⟩, .inl ⟨_, _, _, rfl⟩⟩

/-- The lines of a tile land in its slot's scratchpad, one after the other. -/
theorem lines_land {name : Word} {src : Agent} {p : Packet} (hp : BringsTile p) (n : Nat) {addr : Nat} {data : List Byte} (hw : s.Whole)
    (hs : src.mod = s.modId) (hm : (s.core src.who.core).msgIn = []) (hd : data.length = 128 * n)
    (ht : s.traffic = ((tileLines n addr data).map (linePacket name src)).map (fun p => (p, none)) ++ [(p, none)]) :
    ∃ t, Leads (List.replicate n (.sharedPortWrite 0)) s t ∧ t.Whole ∧ t.modId = s.modId ∧ t.traffic = [(p, none)] ∧
      (∀ w, t.slot w = s.slot w) ∧ (t.core src.who.core).msgIn = [] ∧
      (t.core src.who.core).sp = (s.core src.who.core).sp.write addr data := by
  induction n generalizing s addr data with
  | zero =>
    rw [List.length_eq_zero_iff.mp hd]
    exact ⟨s, rfl, hw, rfl, ht, fun _ => rfl, hm, rfl⟩
  | succ n ih =>
    have opened : s.noticeOpen src.who.core = true := State.noticeOpen_tiles hm fun x hx => by
      rw [ht, List.mem_append, List.mem_map, List.mem_singleton] at hx
      obtain ⟨q, hq, rfl⟩ | rfl := hx
      · obtain ⟨l, -, rfl⟩ := List.mem_map.mp hq
        exact linePacket_brings name src l
      · exact hp
    obtain ⟨t, he, hf, hwt, htr⟩ := execSharedPortWrite_line hw ht rfl hs opened
    have core : t.core src.who.core = s.core src.who.core := State.core_congr hf.cores _
    generalize hu : (t.modCore src.who.core fun c => (c.spWrite addr (data.take 128)).setTags true (wordsOf addr (data.take 128).length)) = u at he
    have ucore : u.core src.who.core = ((s.core src.who.core).spWrite addr (data.take 128)).setTags true (wordsOf addr (data.take 128).length) := by
      rw [← hu, State.core_modCore_self, core]
    have uslot (w : Who) : u.slot w = s.slot w := by
      rw [← hu, State.slot_modCore (by rfl)]
      exact hf.slot w
    have umod : u.modId = s.modId := by rw [← hu]; exact hf.modId
    have uwhole : u.Whole := by rw [← hu]; exact hwt
    have utr : u.traffic = t.traffic := by rw [← hu]; rfl
    obtain ⟨z, hz, hwz, hmz, htz, hslz, hinz, hspz⟩ := ih (s := u) (addr := addr + 128) (data := data.drop 128) uwhole (hs.trans umod.symm) (by rw [ucore]; exact hm)
      (by rw [List.length_drop]; omega) (utr.trans htr)
    refine ⟨z, ⟨u, he, hz⟩, hwz, hmz.trans umod, htz, fun w => (hslz w).trans (uslot w), hinz, ?_⟩
    have split := Memory.write_append (s.core src.who.core).sp addr (data.take 128) (data.drop 128)
    rw [List.take_append_drop, List.length_take, Nat.min_eq_left (by omega)] at split
    rw [hspz, ucore, split]
    rfl

end

/-! ## A load of a present version -/

/-- A load whose notice has come is over. -/
theorem load_ends {s : State} {w : Who} {d : SReg} {v : BitVec 32} {c j addr : Nat} {td : Bool} {name x : Word}
    (hs : (s.slot w).state ≠ .spilled) (hk : (s.slot w).wait = .tile (.load d v c j addr td) name) (hr : (s.slot w).reply = some (.val x)) :
    ∃ z, exec (.parkReasonMet w) s = .next z ∧ (d ≠ 0 → (z.slot w).rs d = x) ∧ (z.slot w).pc = (s.slot w).pc + 1 ∧
      (z.core w.core).sp = (s.core w.core).sp := by
  obtain ⟨sc, hsc⟩ : ∃ sc, exec (.parkReasonMet w) s = .next ((s.acquire w.core sc).finish w fun sl => sl.ws d x) := by
    rw [execParkReasonMet_tile hs hk, State.tileMet]
    simp only [hr]
    exact ⟨_, rfl⟩
  refine ⟨_, hsc, fun h => ?_, ?_, ?_⟩
  · rw [State.slot_finish_self, Slot.rs_next, Slot.rs_ws _ _ _ h]
  · rw [State.slot_finish_self, Slot.next_pc, Slot.ws_pc, Slot.unpark_pc, State.slot_acquire]
  · unfold State.finish
    rw [State.core_modSlot_self]
    unfold State.acquire
    split
    · rw [State.core_modCore_self]
    · rfl

section
variable {y : State} {r : NameRec} {e : VerEntry} {src : Agent} {job : BitVec 32} {id j addr : Nat} {d : SReg} {v : BitVec 32} {td now : Bool}

/-- The home slice delivers a present version to the slot that asked. -/
theorem delivered (hw : y.Whole) (hh : y.tileHeld = []) (hn : y.names = [r]) (hpk : r.parked = []) (hp : r.pend = [])
    (he : r.exhausted = false) (hf : r.floor.toNat ≤ e.v.toNat) (hv : r.vers = [e]) (hst : e.st = .present) (hsp : e.spilled = false)
    (hc : e.persistent = true ∨ 0 < e.count) (ho : e.outst < 255) (hsrc : src.mod = y.modId)
    (hq : y.Requests ⟨src, job, r.name, id, .load e.v r.c j addr now⟩) :
    ∃ z did, y.performTile (.net 0) = z ∧ y.ButTiles z ∧ z.Whole ∧
      z.traffic = ((tileLines (2 ^ r.c) addr e.data).map (linePacket r.name src)).map (fun p => (p, none)) ++
        [(noticePacket r.name src did y.modId (e.left j) id, none)] := by
  obtain ⟨t, ht, hb, hwt, htr⟩ := State.performTile_request hw hq
  have hnt := hb.names.trans hn
  have handled : t.handleTile ⟨src, job, r.name, id, .load e.v r.c j addr now⟩ t.tileSeq = .done (t.deliver r e src job id addr j) := by
    rw [State.handleTile_there hnt rfl rfl fun x hx => by rw [NameRec.ver?_one hv] at hx; exact Option.some.inj hx ▸ hsp]
    unfold State.handleAt
    simp only [State.rec?_one hnt]
    exact State.handleLoad_present (q := ⟨src, job, r.name, id, .load e.v r.c j addr now⟩) now hv hp he hf hst hsp ho hc
  obtain ⟨hbu, hwu, hnu, hhu, -, htu⟩ := State.deliver_whole hwt hnt hv (hsrc.trans hb.modId.symm) job id addr j
  have waitu : (t.deliver r e src job id addr j).NoneWait := ⟨hhu.trans (hb.tileHeld.trans hh), by rw [hnu]; simpa using hpk⟩
  have after := State.arriveTile_done ((State.NoneWait.of_one hh hn hpk).butFlight hb) handled waitu
  refine ⟨_, t.nextDid, ht.trans after, (hb.tiles.trans hbu).trans rfl, hwu, htu.trans ?_⟩
  rw [htr, hb.modId]
  rfl

/-- A load of a present version, from its request to the end of its slot's park. -/
theorem load_arrives {y : State} (hw : y.Whole) (hh : y.tileHeld = []) (hn : y.names = [r]) (hpk : r.parked = []) (hp : r.pend = [])
    (he : r.exhausted = false) (hf : r.floor.toNat ≤ e.v.toNat) (hv : r.vers = [e]) (hst : e.st = .present) (hsp : e.spilled = false)
    (hc : e.persistent = true ∨ 0 < e.count) (ho : e.outst < 255) (hl : e.data.length = tileBytes r.c) (hsrc : src.mod = y.modId)
    (hm : tileMod r.name = y.modId) (hin : (y.core src.who.core).msgIn = [])
    (hq : y.Requests ⟨src, job, r.name, id, .load e.v r.c j addr now⟩)
    (hk : (y.slot src.who).wait = .tile (.load d v r.c j addr td) r.name) (hi : (y.slot src.who).tileId = id)
    (hr : (y.slot src.who).reply = none) (hs : (y.slot src.who).state ≠ .spilled) :
    ∃ z, Leads ([.versionLoadRequest (.net 0)] ++ List.replicate (2 ^ r.c) (.sharedPortWrite 0) ++ [.arrivalNotice 0, .parkReasonMet src.who]) y z ∧
      (d ≠ 0 → (z.slot src.who).rs d = e.left j) ∧ (z.slot src.who).pc = (y.slot src.who).pc + 1 ∧
      (z.core src.who.core).sp = (y.core src.who.core).sp.write addr e.data := by
  obtain ⟨t, did, ht, hbt, hwt, htr⟩ := delivered hw hh hn hpk hp he hf hv hst hsp hc ho hsrc hq
  have brings : BringsTile (noticePacket r.name src did y.modId (e.left j) id) := ⟨⟨_, rfl⟩, .inr ⟨_, _, _, _, _, _, rfl⟩⟩
  obtain ⟨u, hu, hwu, hmu, htu, hslu, hinu, hspu⟩ := lines_land brings (2 ^ r.c) hwt (hsrc.trans hbt.modId.symm) (by rw [hbt.core]; exact hin) hl htr
  have slot : u.slot src.who = y.slot src.who := (hslu _).trans (hbt.slot _)
  have here : u.modId = y.modId := hmu.trans hbt.modId
  have opened : u.noticeOpen src.who.core = true := State.noticeOpen_tiles hinu fun x hx => by
    rw [htu, List.mem_singleton] at hx
    exact hx ▸ brings
  obtain ⟨x, hx, hslx, hspx, -⟩ := execArrivalNotice_on hwu htu rfl (hsrc.trans here.symm) opened (by rw [slot]; exact hk) (by rw [slot]; exact hi)
    (by rw [slot]; exact hr) (hm.trans here.symm)
  rw [slot] at hslx
  obtain ⟨z, hz, hval, hpc, hsp⟩ := load_ends (by rw [hslx]; exact hs) (by rw [hslx]; exact hk) (by rw [hslx])
  refine ⟨z, (Leads.trans (Leads.one (i := .versionLoadRequest (.net 0)) (congrArg Host.Outcome.next ht)) hu).trans ⟨x, hx, z, hz, rfl⟩, hval, ?_, ?_⟩
  · rw [hpc, hslx]
  · rw [hsp, hspx, hspu, hbt.core]

end

end Sys2Proof.Machine
end

section
/-! SUPPORT. A tile stored, from the issue to the end; the tile instructions (05 R99, R114-R123). -/

namespace Sys2Proof.Machine

section
variable {y : State} {r : NameRec} {src : Agent} {job : BitVec 32} {num refs addr c : Nat} {v : BitVec 32} {ev : Fin 4}

/-- The home slice grants the claim of a version nobody has named. -/
theorem claim_granted (hw : y.Whole) (hh : y.tileHeld = []) (hn : y.names = [r]) (hpk : r.parked = []) (hp : r.pend = [])
    (he : r.exhausted = false) (hf : r.floor.toNat ≤ v.toNat) (hv : r.vers = []) (hl : 0 < r.limit)
    (hs : tileBytes r.c ≤ y.settings.tilePool * 524288) (hsrc : src.mod = y.modId)
    (hq : y.Requests ⟨src, job, r.name, num, .claim v r.c refs ev addr⟩) :
    ∃ z, y.performTile (.net 0) = z ∧ z.names = [{ r with vers := [Claim.entry ⟨src, job, num, y.tileSeq, 7, v, r.c, refs, ev, addr⟩ y.cycle] }] ∧
      y.ButTiles z ∧ z.Whole ∧ z.NoneWait ∧
      z.traffic = [(answerOf ⟨src, job, r.name, num, .claim v r.c refs ev addr⟩ .granted, none)] := by
  have absent (e : VerEntry) (h : r.ver? v = some e) : e.spilled = false := by rw [NameRec.ver?_nil hv] at h; cases h
  obtain ⟨z, hz, hnz, hbz, hwz, hnw, -, htr⟩ := State.performTile_answers (x := .granted) hw (.of_one hh hn hpk) hq hsrc
    (l := [{ r with vers := [Claim.entry ⟨src, job, num, y.tileSeq, 7, v, r.c, refs, ev, addr⟩ y.cycle] }]) (by simpa using hpk) fun t hb => by
      have hnt := hb.names.trans hn
      rw [State.handleTile_there hnt rfl rfl absent]
      unfold State.handleAt
      simp only [State.rec?_one hnt]
      rw [← hb.cycle, ← hb.tileSeq]
      exact State.handleClaim_new hnt hv hp he hf hl (by rw [hb.settings]; exact hs)
  exact ⟨z, hz, hnz, hbz, hwz, hnw, htr⟩

/-- The slot that stores a tile of this module learns of its grant by its reason alone. -/
theorem State.tileAnswer_granted {s : State} {w : Who} {name : Word} (hk : (s.slot w).wait = .tile (.store v addr c) name)
    (hi : (s.slot w).tileId = num) (hm : tileMod name = s.modId) :
    s.tileAnswer w name num .granted = s.modSlot w fun sl => { sl with reason := .versionStore } := by
  unfold State.tileAnswer
  simp only [hk, hi, beq_self_eq_true, Bool.and_self, Bool.not_true, Bool.false_eq_true, if_false]
  exact if_pos hm

/-- A store whose fill is done is over. -/
theorem store_ends {s : State} {w : Who} {name x : Word} (hs : (s.slot w).state ≠ .spilled) (hk : (s.slot w).wait = .tile (.store v addr c) name)
    (hr : (s.slot w).reply = some (.val x)) : exec (.parkReasonMet w) s = .next (s.finish w id) := by
  rw [execParkReasonMet_tile hs hk, State.tileMet]
  simp only [hr]
  rfl

/-- A granted claim is filled from its slot's scratchpad, and the slot is told. -/
theorem claim_filled {u : State} {cl : Claim} {cycle : Nat} (hw : u.Whole) (hh : u.tileHeld = []) (hn : u.names = [{ r with vers := [cl.entry cycle] }])
    (hpk : r.parked = []) (hp : r.pend = []) (hsrc : cl.src.mod = u.modId) (htr : u.traffic = []) :
    ∃ z x, exec (.fillComplete r.name cl.v) u = .next z ∧ u.ButTiles z ∧ z.Whole ∧ z.names = [{ r with vers := [x] }] ∧
      z.traffic = [(answerOf ⟨cl.src, cl.job, r.name, cl.id, .claim cl.v cl.c cl.refs cl.ev cl.addr⟩ (.val 0), none)] ∧
      x.v = cl.v ∧ x.st = .present ∧ x.count = cl.refs ∧ x.data = (u.core cl.src.who.core).sp.read cl.addr (tileBytes r.c) := by
  have filled := (execFillComplete_here hn rfl rfl hsrc).trans (congrArg Host.Outcome.next (State.filled_alone hn rfl rfl hpk hp hh _))
  obtain ⟨x, hx⟩ : ∃ x, x = (cl.entry cycle).filledWith ((u.core cl.src.who.core).sp.read cl.addr (tileBytes r.c)) u.cycle := ⟨_, rfl⟩
  have wholen : State.Whole { u with names := [{ r with vers := [x] }] } := hw
  obtain ⟨hb, ht⟩ := State.tileReply_whole (a := cl.src) wholen hsrc r.name cl.id (.val 0)
  rw [show State.traffic { u with names := [{ r with vers := [x] }] } = u.traffic from rfl, htr] at ht
  have moved : u.ButTiles { u with names := [{ r with vers := [x] }] } := rfl
  rw [hx] at hb ht wholen moved
  exact ⟨_, _, filled, moved.trans hb.tiles, wholen.butNet hb, hb.names, ht, rfl, rfl, rfl, rfl⟩

/-- The store of a version nobody has named, from its request to the end of its slot's park. -/
theorem store_completes (hw : y.Whole) (hh : y.tileHeld = []) (hn : y.names = [r]) (hpk : r.parked = []) (hp : r.pend = [])
    (he : r.exhausted = false) (hf : r.floor.toNat ≤ v.toNat) (hv : r.vers = []) (hl : 0 < r.limit)
    (hs : tileBytes r.c ≤ y.settings.tilePool * 524288) (hsrc : src.mod = y.modId) (hm : tileMod r.name = y.modId)
    (hq : y.Requests ⟨src, job, r.name, num, .claim v r.c refs ev addr⟩)
    (hk : (y.slot src.who).wait = .tile (.store v addr c) r.name) (hi : (y.slot src.who).tileId = num)
    (hr : (y.slot src.who).reply = none) (hst : (y.slot src.who).state ≠ .spilled) :
    ∃ z e', Leads [.versionClaim (.net 0), .versionClaim (.net 0), .fillComplete r.name v, .versionClaim (.net 0), .parkReasonMet src.who] y z ∧
      (z.slot src.who).pc = (y.slot src.who).pc + 1 ∧ (z.rec? r.name).bind (·.ver? v) = some e' ∧ e'.st = .present ∧ e'.count = refs ∧
      e'.data = (y.core src.who.core).sp.read addr (tileBytes r.c) := by
  obtain ⟨a, ha, hna, hba, hwa, hnw, hta⟩ := claim_granted hw hh hn hpk hp he hf hv hl hs hsrc hq
  -- The grant reaches the slot.
  obtain ⟨b, hb, hfb, hwb, htb⟩ := State.performTile_answer hwa hta rfl rfl
  have slotb : b.slot src.who = y.slot src.who := (hfb.slot _).trans (hba.slot _)
  have hereb : b.modId = y.modId := hfb.modId.trans hba.modId
  have granted := State.tileAnswer_granted (s := b) (num := num) (by rw [slotb]; exact hk) (by rw [slotb]; exact hi) (hm.trans hereb.symm)
  generalize hu : (b.modSlot src.who fun sl => { sl with reason := .versionStore }) = u at granted
  have slotu : u.slot src.who = { y.slot src.who with reason := .versionStore } := by rw [← hu, State.slot_modSlot_self, slotb]
  have spu : (u.core src.who.core).sp = (y.core src.who.core).sp := by
    rw [← hu, State.core_modSlot_self, State.core_congr hfb.cores, ← hba.core]
  have nameu : u.names = a.names := by rw [← hu]; exact hfb.names
  have hereu : u.modId = y.modId := by rw [← hu]; exact hereb
  have wholeu : u.Whole := by rw [← hu]; exact hwb
  have heldu : u.tileHeld = [] := by rw [← hu]; exact hfb.tileHeld.trans hnw.held
  -- The fill is done, and the slot is told.
  obtain ⟨z, x, hz, hbz, hwz, hnz, htz, hxv, hxs, hxc, hxd⟩ := claim_filled wholeu heldu (nameu.trans hna) hpk hp (hsrc.trans hereu.symm)
    (by rw [← hu]; exact htb)
  have slotz : z.slot src.who = { y.slot src.who with reason := .versionStore } := (hbz.slot _).trans slotu
  -- The slot takes the answer, and goes on.
  obtain ⟨g, hg, hfg, -, -⟩ := State.performTile_answer hwz htz rfl rfl
  have slotg : g.slot src.who = { y.slot src.who with reason := .versionStore } := (hfg.slot _).trans slotz
  have taken := State.tileAnswer_val (s := g) (w := src.who) (id := num) (by rw [slotg]; exact hk) (by rw [slotg]; exact hi)
    (by rw [slotg]; exact hr) 0
  have slotend : (g.modSlot src.who fun sl => { sl with reply := some (.val 0) }).slot src.who =
      { y.slot src.who with reason := .versionStore, reply := some (.val 0) } := by rw [State.slot_modSlot_self, slotg]
  have ended := store_ends (s := g.modSlot src.who fun sl => { sl with reply := some (.val 0) }) (w := src.who) (by rw [slotend]; exact hst)
    (by rw [slotend]; exact hk) (by rw [slotend])
  have table : ((g.modSlot src.who fun sl => { sl with reply := some (.val 0) }).finish src.who id).names = [{ r with vers := [x] }] :=
    hfg.names.trans hnz
  have entry := State.version_one table rfl
  rw [hxv] at entry
  refine ⟨_, x, ⟨a, congrArg Host.Outcome.next ha, u, congrArg Host.Outcome.next (hb.trans granted), z, hz, _,
    congrArg Host.Outcome.next (hg.trans taken), _, ended, rfl⟩, ?_, entry, hxs, hxc, hxd.trans (by rw [spu])⟩
  rw [State.slot_finish_self, Slot.next_pc, slotend]
  rfl

end

/-! ## The forms that move a tile -/

/-- The running slot has asked, and its request is all that is under way. -/
structure State.Asked (s : State) (name : Word) (op : TileOp) (k : TileWait) (y : State) : Prop where
  cur : y.cur = s.cur
  whole : y.Whole
  requests : y.Requests (s.requestOf name op)
  names : y.names = s.names
  tileHeld : y.tileHeld = s.tileHeld
  modId : y.modId = s.modId
  settings : y.settings = s.settings
  wait : (y.slot s.cur).wait = .tile k name
  reply : (y.slot s.cur).reply = none
  tileId : (y.slot s.cur).tileId = s.me.nextId
  pc : (y.slot s.cur).pc = s.me.pc
  state : (y.slot s.cur).state ≠ .spilled
  sp : (y.core s.cur.core).sp = s.myCore.sp
  msgIn : (y.core s.cur.core).msgIn = s.myCore.msgIn

section
variable {s : State} {name : Word} {op : TileOp} {k : TileWait} {rs : Reason}

theorem State.core_asking : ((s.asking name rs k).core s.cur.core).sp = s.myCore.sp ∧ ((s.asking name rs k).core s.cur.core).msgIn = s.myCore.msgIn := by
  have eq : s.asking name rs k = (s.modSlot s.cur fun sl => sl.park rs (.tile k name) s.rot).modSlot s.cur fun sl =>
      { sl with nextId := s.me.nextId + 1, tileId := s.me.nextId } := rfl
  rw [eq, State.core_modSlot_self, State.core_modSlot_self]
  exact ⟨rfl, rfl⟩

theorem sendTile_asked (hq : s.me.Quiet) (hw : s.Whole) (hn : s.net = []) (hm : tileMod name = s.modId) (rel : Bool) :
    s.Asked name op k (sendTile s name op rs k rel) := by
  obtain ⟨hb, htr⟩ := sendTile_sends (op := op) (r := rs) (k := k) hq hw hn hm rel
  have hwa : (s.asking name rs k).Whole := hw
  obtain ⟨wait, reply, tid, pc⟩ := s.asking_wait (name := name) (rs := rs) (k := k)
  obtain ⟨sp, msgIn⟩ := s.core_asking (name := name) (rs := rs) (k := k)
  exact ⟨hb.cur, hwa.butNet hb, ⟨_, htr, rfl, (State.outbound_congr hb.traffic.modId _).trans (State.tileDst_here hm _ _ _)⟩, hb.names,
    hb.traffic.tileHeld, hb.traffic.modId, (congrArg State.settings hb :), by rw [hb.slot, wait], by rw [hb.slot, reply], by rw [hb.slot, tid],
    by rw [hb.slot, pc], by rw [hb.slot]; exact State.asking_state, by rw [hb.core, sp], by rw [hb.core, msgIn]⟩

/-- The deadline of a timed load changes nothing of its request. -/
theorem State.Asked.deadline {y : State} (h : s.Asked name op k y) (x : Option Nat) : s.Asked name op k (y.mod fun sl => { sl with deadline := x }) := by
  have slot : (y.mod fun sl => { sl with deadline := x }).slot s.cur = { y.slot s.cur with deadline := x } := by
    rw [← h.cur]
    exact State.slot_mod_cur y _
  have core : (y.mod fun sl => { sl with deadline := x }).core s.cur.core = { y.core s.cur.core with
      slots := ((y.mod fun sl => { sl with deadline := x }).core s.cur.core).slots } := by
    rw [← h.cur]
    unfold State.mod
    rw [State.core_modSlot_self]
  exact ⟨h.cur, h.whole, h.requests, h.names, h.tileHeld, h.modId, h.settings, by rw [slot]; exact h.wait, by rw [slot]; exact h.reply,
    by rw [slot]; exact h.tileId, by rw [slot]; exact h.pc, by rw [slot]; exact h.state, by rw [core]; exact h.sp, by rw [core]; exact h.msgIn⟩

end

theorem tileTransfers : Claims.TileTransfers := by
  intro h d a t v r e s ha hq hw hnet hh hin hn name w hs hm hv hr hrc hp hpk he hf arrives
  have hname : s.me.rs a = r.name := hr.symm
  have here : tileMod r.name = s.modId := by rw [← hname]; exact hm
  refine ⟨fun hvs hl hsz => ?_, fun hvs hev hst hsp hc ho hlen => ?_⟩
  · have asks := execTstore_asks (t := t) ha hs hm hv
    rw [← hrc, hname] at asks
    have asked : s.Asked r.name (.claim v r.c t.cnt.toNat h.ev t.addr.toNat) (.store v t.addr.toNat r.c) _ :=
      sendTile_asked (rs := .versionStore) hq hw hnet here true
    obtain ⟨z, e', hz, hpc, hent, hes, hec, hed⟩ := store_completes asked.whole (asked.tileHeld.trans hh) (asked.names.trans hn) hpk hp he hf hvs hl
      (by rw [asked.settings]; exact hsz) asked.modId.symm (here.trans asked.modId.symm) asked.requests asked.wait asked.tileId asked.reply
      asked.state
    exact ⟨_, z, e', asks, hr ▸ hz, hpc.trans (congrArg (· + 1) asked.pc), hr ▸ hent, hes, hec, hed.trans (congrArg (Memory.read · _ _) asked.sp)⟩
  · subst hev
    have through {y : State} {td now : Bool} (asked : s.Asked r.name (.load e.v r.c t.cnt.toNat t.addr.toNat now)
        (.load d e.v r.c t.cnt.toNat t.addr.toNat td) y) {i : Instr} (hi : exec i s = .next y) : arrives i := by
      obtain ⟨z, hz, hval, hpc, hsp⟩ := load_arrives asked.whole (asked.tileHeld.trans hh) (asked.names.trans hn) hpk hp he hf hvs hst hsp hc ho
        hlen asked.modId.symm (here.trans asked.modId.symm) (asked.msgIn.trans hin) asked.requests asked.wait asked.tileId asked.reply asked.state
      exact ⟨y, z, hi, hz, hval, hpc.trans (congrArg (· + 1) asked.pc), hsp.trans (congrArg (Memory.write · _ _) asked.sp)⟩
    refine ⟨?_, fun hd => ?_⟩
    · have asks := execTload_asks (d := d) (t := t) ha hs hm hv
      rw [← hrc, hname] at asks
      exact through (sendTile_asked hq hw hnet here false) asks
    · obtain ⟨x, asks⟩ := execTloadt_asks (t := t) ha hs hm hv hd
      rw [← hrc, hname] at asks
      exact through ((sendTile_asked hq hw hnet here false).deadline x) asks

/-- Settles O20: each form asks; the questions are answered at once, a store's claim is granted and filled, a load's lines and notice arrive. -/
theorem tileInstructions : Obligations.TileInstructions := ⟨tileRequests, tileTraps, tileQuestions, tileTransfers⟩

end Sys2Proof.Machine
end

section
/-! SUPPORT. Launches: their start and their end (16 R332-R339). -/

namespace Sys2Proof.Machine

section
variable {s : State}

/-- A pair of the host's queues after a submission is entered. -/
theorem State.submit_qpairs (s : State) (q : Fin 64) (p : Pending) : (s.submit q p).qpairs[q] =
    { s.qpairs[q] with pending := s.qpairs[q].pending ++ [p] } := by
  unfold State.submit
  simp

theorem State.reject_eq (s : State) (q : Fin 64) (tag : BitVec 32) (reason : Nat) : ∃ x, s.reject q tag reason =
    State.submit { s with fresh := s.fresh + 1 } q ⟨tag, none, s.cycle, 0, some (1, reason, 0, x)⟩ := ⟨_, rfl⟩

theorem State.startLaunch_rejects {q : Fin 64} {tag : BitVec 32} {d : List Byte} {n : Nat}
    (h : s.launchCheck (launchOfDesc s.nextLaunch q tag d) d = .inl n) : s.startLaunch q tag d = s.reject q tag n := by
  unfold State.startLaunch
  simp only [h]

/-! ## The start of the cores -/

/-- The states of a launch's clusters are set. -/
abbrev State.setEngines (s : State) (l : Launch) : State := (l.cores.map clusterOf).eraseDups.foldl State.launchEngine s

/-- The cores of a launch are set. -/
abbrev State.setCores (s : State) (l : Launch) (d img pre : List Byte) : State :=
  l.cores.foldl (fun (s : State) (c : CoreId) => s.modCore c fun k => k.launched l s.modId c d img pre) s

theorem State.startLaunch_starts {q : Fin 64} {tag : BitVec 32} {d img pre : List Byte}
    (h : s.launchCheck (launchOfDesc s.nextLaunch q tag d) d = .inr (img, pre)) : s.startLaunch q tag d =
      let l := launchOfDesc s.nextLaunch q tag d
      let t := (s.setEngines l).setCores l d img pre
      State.submit { t with launches := t.launches ++ [l], nextLaunch := t.nextLaunch + 1 } q ⟨tag, some s.nextLaunch, t.cycle, 0, none⟩ := by
  unfold State.startLaunch
  simp only [h]
  rfl

/-- The state of a launch's clusters is all that setting them changes. -/
theorem State.setEngines_eq (s : State) (l : Launch) : s.setEngines l = { s with engines := (s.setEngines l).engines } := by
  unfold State.setEngines
  generalize (l.cores.map clusterOf).eraseDups = cs
  induction cs generalizing s with
  | nil => rfl
  | cons c cs ih =>
    have one : s.launchEngine c = { s with engines := (s.launchEngine c).engines } := by
      unfold State.launchEngine
      split <;> rfl
    rw [List.foldl_cons, ih (s.launchEngine c), one]

theorem State.setCores_eq (s : State) (l : Launch) (d img pre : List Byte) :
    s.setCores l d img pre = { s with cores := (s.setCores l d img pre).cores } := by
  unfold State.setCores
  generalize l.cores = cs
  induction cs generalizing s with
  | nil => rfl
  | cons c cs ih =>
    rw [List.foldl_cons, ih]
    rfl

/-- Every core of a launch, once the cores are set, is as a launch sets a core. -/
theorem State.core_setCores {l : Launch} {d img pre : List Byte} {c : CoreId} (P Q : Core → Prop) (hPQ : ∀ k, Q k → P k)
    (hQ : ∀ k m, P k → Q (Core.launched k l m c d img pre)) (hp : P (s.core c)) (hc : c ∈ l.cores) : Q ((s.setCores l d img pre).core c) := by
  have general (cs : List CoreId) (s : State) (hp : P (s.core c)) (hc : c ∈ cs ∨ Q (s.core c)) :
      Q ((cs.foldl (fun (s : State) (c : CoreId) => s.modCore c fun k => k.launched l s.modId c d img pre) s).core c) := by
    induction cs generalizing s with
    | nil => exact hc.resolve_left List.not_mem_nil
    | cons a cs ih =>
      rw [List.foldl_cons]
      by_cases ha : c = a
      · subst ha
        have set : Q ((s.modCore c fun k => k.launched l s.modId c d img pre).core c) := by
          rw [State.core_modCore_self]
          exact hQ _ _ hp
        exact ih _ (hPQ _ set) (.inr set)
      · have other := State.core_modCore_ne s a c (fun k => k.launched l s.modId a d img pre) ha
        refine ih _ (by rw [other]; exact hp) ?_
        rw [other]
        exact hc.imp_left fun h => (List.mem_cons.mp h).resolve_left ha
  exact general l.cores s hp (.inl hc)

/-- The steward of a launched core, where no guest stood in its slot. -/
structure Core.Started (k : Core) (l : Launch) (c : CoreId) (d : List Byte) : Prop where
  launch : k.launch = some l.id
  hosting : (k.slots[(0 : Fin 16)]).hosting = none
  state : (k.slots[(0 : Fin 16)]).state = .running
  pc : (k.slots[(0 : Fin 16)]).pc = word64 d 0
  tvec : (k.slots[(0 : Fin 16)]).tvec = word64 d 24
  tsave : (k.slots[(0 : Fin 16)]).tsave = l.saveArea (l.rank c) 0
  preds : (k.slots[(0 : Fin 16)]).k = kReset

theorem Core.launched_started {k : Core} {l : Launch} {m : Fin 4096} {c : CoreId} {d img pre : List Byte}
    (h : (k.slots[(0 : Fin 16)]).hosting = none) : (Core.launched k l m c d img pre).Started l c d := by
  have steward : (Core.launched k l m c d img pre).slots[(0 : Fin 16)] = Slot.launched (k.slots[(0 : Fin 16)]) l (l.rank c) (word64 d 0) (word64 d 24) 0 := by
    unfold Core.launched
    simp
  refine ⟨rfl, ?_, ?_, ?_, ?_, ?_, ?_⟩ <;> rw [steward] <;> unfold Slot.launched <;> simp only [h] <;> rfl

/-- The launches and the queues' heads stay as they are while a launch's cores are set. -/
theorem State.set_frame (s : State) (l : Launch) (d img pre : List Byte) : let t := (s.setEngines l).setCores l d img pre
    t.launches = s.launches ∧ t.qpairs = s.qpairs ∧ t.cycle = s.cycle := by
  dsimp only
  rw [State.setCores_eq, State.setEngines_eq]
  exact ⟨rfl, rfl, rfl⟩

/-- What a launch that passes its checks leaves. -/
theorem State.startLaunch_frame {q : Fin 64} {tag : BitVec 32} {d img pre : List Byte}
    (h : s.launchCheck (launchOfDesc s.nextLaunch q tag d) d = .inr (img, pre)) : let l := launchOfDesc s.nextLaunch q tag d
    (s.startLaunch q tag d).launches = s.launches ++ [l] ∧
    (s.startLaunch q tag d).cores = ((s.setEngines l).setCores l d img pre).cores ∧
    (s.startLaunch q tag d).qpairs[q] = { s.qpairs[q] with pending := s.qpairs[q].pending ++ [⟨tag, some s.nextLaunch, s.cycle, 0, none⟩] } := by
  obtain ⟨hl, hq, hc⟩ := s.set_frame (launchOfDesc s.nextLaunch q tag d) d img pre
  dsimp only
  rw [State.startLaunch_starts h]
  refine ⟨congrArg (· ++ _) hl, rfl, ?_⟩
  dsimp only
  rw [State.submit_qpairs, hc]
  simp only [hq]

theorem State.setEngines_core (s : State) (l : Launch) (c : CoreId) : (s.setEngines l).core c = s.core c :=
  State.core_congr (by rw [State.setEngines_eq]) c

theorem State.startLaunch_launches {q : Fin 64} {tag : BitVec 32} {d img pre : List Byte}
    (h : s.launchCheck (launchOfDesc s.nextLaunch q tag d) d = .inr (img, pre)) {c : CoreId} (hc : c ∈ (launchOfDesc s.nextLaunch q tag d).cores) :
    ((s.startLaunch q tag d).core c).launch = some s.nextLaunch := by
  rw [State.core_congr (State.startLaunch_frame h).2.1]
  exact State.core_setCores (fun _ => True) (fun k => k.launch = some s.nextLaunch) (fun _ _ => trivial) (fun _ _ _ => rfl) trivial hc

theorem State.startLaunch_steward {q : Fin 64} {tag : BitVec 32} {d img pre : List Byte}
    (h : s.launchCheck (launchOfDesc s.nextLaunch q tag d) d = .inr (img, pre)) {c : CoreId} (hc : c ∈ (launchOfDesc s.nextLaunch q tag d).cores)
    (hh : (s.slot ⟨c, 0⟩).hosting = none) : ((s.startLaunch q tag d).core c).Started (launchOfDesc s.nextLaunch q tag d) c d := by
  rw [State.core_congr (State.startLaunch_frame h).2.1]
  refine State.core_setCores (fun k => (k.slots[(0 : Fin 16)]).hosting = none) (fun k => k.Started (launchOfDesc s.nextLaunch q tag d) c d)
    (fun _ h => h.hosting) (fun _ _ => Core.launched_started) ?_ hc
  rw [State.setEngines_core]
  exact hh

/-- A launch at its end leaves the module and its cores. -/
theorem State.completeLaunch_gone (s : State) (l : Launch) (status : Option Nat) :
    ∀ x ∈ (s.completeLaunch l status).cores, x.2.launch ≠ some l.id := by
  intro x hx
  obtain ⟨y, -, rfl⟩ := List.mem_map.mp hx
  dsimp only
  split
  · exact nofun
  next h => exact h

end

theorem launches : Claims.Launches := by
  intro q tag d img pre n id l s k
  refine ⟨fun h => ?_, fun h hg => ?_, fun hf ho => ?_⟩
  · obtain ⟨x, hx⟩ := s.reject_eq q tag n
    refine ⟨_, x, congrArg Host.Outcome.next ((State.startLaunch_rejects h).trans hx), rfl, rfl, ?_⟩
    rw [State.submit_qpairs]
  · refine ⟨_, rfl, (State.startLaunch_frame h).1, fun c hc => ?_⟩
    have started := State.startLaunch_steward h hc (hg c hc)
    exact ⟨started.launch, started.state, started.pc, started.tvec, started.tsave, started.preds⟩
  · refine ⟨s.completeLaunch l none, ?_, rfl, s.completeLaunch_gone l none⟩
    change execLaunchEnd id s = _
    unfold execLaunchEnd
    simp only [hf, ho, if_true]

end Sys2Proof.Machine
end

section
/-! SUPPORT. The host's queues and commands (18 R383-R386, R391). -/

namespace Sys2Proof.Machine

section
variable {s : State} {q : Fin 64}

/-! ## Submissions -/

/-- The pair's head moves past an entry. -/
abbrev State.passEntry (s : State) (q : Fin 64) : State :=
  { s with qpairs := s.qpairs.set q { s.qpairs[q] with head := (s.qpairs[q]).head + 1 } }

/-- The pair's next entry. -/
abbrev State.nextEntry (s : State) (q : Fin 64) : List Byte :=
  s.hostMem.read ((s.qpairs[q]).sub + 64 * ((s.qpairs[q]).head % 2 ^ (s.qpairs[q]).n)) 64

theorem State.acceptRing_stop {k tail : Nat} (h : (s.qpairs[q]).head % 2 ^ (s.qpairs[q]).n = tail % 2 ^ (s.qpairs[q]).n) :
    s.acceptRing k q tail = s := by
  cases k with
  | zero => rfl
  | succ k => exact if_pos h

/-- A doorbell with one new entry takes it. -/
theorem execDoorbell_one {tail : BitVec 16} {t : State} (h : (s.qpairs[q]).head % 2 ^ (s.qpairs[q]).n ≠ tail.toNat % 2 ^ (s.qpairs[q]).n)
    (h1 : ((s.qpairs[q]).head + 1) % 2 ^ (s.qpairs[q]).n = tail.toNat % 2 ^ (s.qpairs[q]).n)
    (ht : (s.passEntry q).accept q (s.nextEntry q) = t) (hn : (t.qpairs[q]).n = (s.qpairs[q]).n)
    (hh : (t.qpairs[q]).head = (s.qpairs[q]).head + 1) : exec (.doorbell q tail) s = .next t := by
  obtain ⟨m, hm⟩ : ∃ m, 2 ^ (s.qpairs[q]).n = m + 1 := Nat.exists_eq_succ_of_ne_zero (Nat.ne_of_gt (Nat.two_pow_pos _))
  change execDoorbell q tail s = _
  unfold execDoorbell
  rw [hm, State.acceptRing]
  refine congrArg Host.Outcome.next ((if_neg h).trans ?_)
  refine (congrArg (State.acceptRing m · q tail.toNat) ht).trans (State.acceptRing_stop ?_)
  rw [hn, hh, h1]

theorem State.reject_qpairs (s : State) (q : Fin 64) (tag : BitVec 32) (reason : Nat) : ∃ x, (s.reject q tag reason).qpairs[q] =
    { s.qpairs[q] with pending := (s.qpairs[q]).pending ++ [⟨tag, none, s.cycle, 0, some (1, reason, 0, x)⟩] } := by
  obtain ⟨x, hx⟩ := s.reject_eq q tag reason
  exact ⟨x, by rw [hx, State.submit_qpairs]⟩

theorem State.passEntry_qpairs (s : State) (q : Fin 64) : (s.passEntry q).qpairs[q] = { s.qpairs[q] with head := (s.qpairs[q]).head + 1 } := by
  simp

theorem State.accept_misaligned {e : List Byte} (h : numAt e 8 8 % 64 ≠ 0) : s.accept q e = s.reject q (BitVec.ofNat 32 (numAt e 4 4)) 1 :=
  if_pos h

theorem State.accept_launch {e : List Byte} (h : numAt e 8 8 % 64 = 0) (h1 : numAt e 0 1 = 1) :
    s.accept q e = s.startLaunch q (BitVec.ofNat 32 (numAt e 4 4)) (s.hostMem.read (numAt e 8 8) 192) :=
  (if_neg (Classical.not_not.mpr h)).trans (if_pos h1)

theorem State.launchCheck_passEntry (s : State) (q : Fin 64) (l : Launch) (d : List Byte) : (s.passEntry q).launchCheck l d = s.launchCheck l d := by
  have rect : (s.passEntry q).badRect d l = s.badRect d l := rfl
  have reads (root va : Word) (n : Nat) : (s.passEntry q).launchRead root va n = s.launchRead root va n := rfl
  have job : (s.passEntry q).jobLaunches l.job = s.jobLaunches l.job := rfl
  unfold State.launchCheck
  rw [rect, reads, reads, job]

/-! ## Events -/

theorem State.queueEvents_frame (es : List Event) (s : State) : (s.queueEvents es).events = s.events ++ es ∧
    (s.queueEvents es).eventRoom = s.eventRoom - es.length ∧ (s.queueEvents es).dieBuf = s.dieBuf := by
  induction es generalizing s with
  | nil => exact ⟨(List.append_nil _).symm, rfl, rfl⟩
  | cons e es ih =>
    obtain ⟨h, h', h''⟩ := ih (State.hostWrite { s with events := s.events ++ [e], eventRoom := s.eventRoom - 1 } (Config.eventAddr s.events.length) e.bytes)
    refine ⟨h.trans (List.append_assoc _ _ _), h'.trans ?_, h''⟩
    change s.eventRoom - 1 - es.length = _
    rw [List.length_cons]
    omega

theorem execEventBufferDrain_room {die : DieId} (h : (s.dieBuf[die]).length ≤ s.eventRoom) (h0 : 0 < s.eventRoom) (hh : s.dieHeld[die] = []) :
    exec (.eventBufferDrain die) s = .next (State.queueEvents { s with dieBuf := s.dieBuf.set die [], dieHeld := s.dieHeld.set die [] } s.dieBuf[die]) := by
  change execEventBufferDrain die s = _
  unfold execEventBufferDrain
  rw [if_neg (Nat.ne_of_gt h0)]
  simp only [hh, Nat.min_eq_right h, List.drop_length, List.take_length, drainHeld]

/-! ## Frames of the host link -/

theorem Jormal.naked_frame (j : Jormal) (n : Fin 4096) : (j.naked n).delivered = j.delivered ∧ (j.naked n).expect = j.expect ∧
    (j.naked n).held = j.held := by
  unfold Jormal.naked
  split <;> exact ⟨rfl, rfl, rfl⟩

/-- A whole frame with data is taken with its acknowledgement and NAK, which leave what has been delivered. -/
theorem execJormalFrame_data {n : Nat} {data : List Byte} {ack : Fin 4096} {nak : Option (Fin 4096)} (h : data.length = 256)
    (hd : Config.jormalHeader data = (ack, nak, false)) : ∃ j : Jormal, exec (.jormalFrame n data true) s =
      .next { s with jormal := j.data s.cycle (Fin.ofNat 4096 n) data } ∧ j.delivered = s.jormal.delivered ∧ j.expect = s.jormal.expect ∧
      j.held = s.jormal.held := by
  have taken : exec (.jormalFrame n data true) s = execJormalFrame n data true s := rfl
  rw [taken, execJormalFrame, if_neg (by simp [h]), hd]
  cases nak with
  | none => exact ⟨s.jormal.acked ack, rfl, rfl, rfl, rfl⟩
  | some m => exact ⟨(s.jormal.acked ack).naked m, rfl, Jormal.naked_frame _ m⟩

/-- The next frame is delivered. -/
theorem Jormal.data_next {j : Jormal} {seq : Fin 4096} (hs : seq = j.expect) (hh : j.held = []) (cycle : Nat) (d : List Byte) :
    (j.data cycle seq d).delivered = j.delivered ++ [d] ∧ (j.data cycle seq d).expect = j.expect + 1 := by
  subst hs
  unfold Jormal.data
  simp [hh, Jormal.release, seqRange]

/-- A frame known already, or too far ahead, is discarded. -/
theorem Jormal.data_far {j : Jormal} {seq : Fin 4096} (h : 1024 ≤ (seq - j.expect).val) (cycle : Nat) (d : List Byte) : j.data cycle seq d = j :=
  if_pos (.inl h)

end

/-! ## The claims -/

section
variable {s : State} {q : Fin 64}

/-- The pair of the host's queues after a doorbell whose entry is refused or accepted. -/
theorem State.accepted_pair {t : State} {p : Pending} (h : t.qpairs[q] = { (s.passEntry q).qpairs[q] with
    pending := ((s.passEntry q).qpairs[q]).pending ++ [p] }) : (t.qpairs[q]).n = (s.qpairs[q]).n ∧
      (t.qpairs[q]).head = (s.qpairs[q]).head + 1 ∧ (t.qpairs[q]).pending = (s.qpairs[q]).pending ++ [p] := by
  rw [h, State.passEntry_qpairs]
  exact ⟨rfl, rfl, rfl⟩

theorem State.hostWrite_qpairs (s : State) (a : Nat) (d : List Byte) : (s.hostWrite a d).qpairs = s.qpairs := rfl

theorem execCompletionRecord_ready {x : Pending} {xs : List Pending} {status reason failed cycles : Nat} (hp : (s.qpairs[q]).pending = x :: xs)
    (hd : x.done = some (status, reason, failed, cycles)) (h0 : 0 < (s.qpairs[q]).cplFree) : exec (.completionRecord q) s = .next {
      s.hostWrite ((s.qpairs[q]).cpl + 32 * ((s.qpairs[q]).cplTail % 2 ^ (s.qpairs[q]).n)) (recordBytes x.tag status reason failed cycles) with
      qpairs := s.qpairs.set q { s.qpairs[q] with cplTail := (s.qpairs[q]).cplTail + 1, cplFree := (s.qpairs[q]).cplFree - 1, pending := xs } } := by
  change execCompletionRecord q s = _
  unfold execCompletionRecord
  simp only [hp, hd]
  rw [if_neg (Nat.ne_of_gt h0), State.hostWrite_qpairs]

end

theorem hostLink : Claims.HostLink := by
  intro q tail x xs status reason failed cycles job page frame st die n data fn on s p e tag d l
  refine ⟨fun h => ?_, fun h h1 ha => ?_, fun h h1 ha hk => ⟨fun k hc => ?_, fun img pre hc => ?_⟩, execCompletionRecord_ready, ⟨fun h => ?_, fun h => ?_⟩,
    fun h h0 hh => ?_, ⟨rfl, fun h => ?_, fun ack nak h hd => ?_⟩, fun h => ?_, fun h => ?_⟩
  · exact congrArg Host.Outcome.next (State.acceptRing_stop h)
  · obtain ⟨y, hy⟩ := (s.passEntry q).reject_qpairs q tag 1
    obtain ⟨hn, hh, hp⟩ := State.accepted_pair hy
    exact ⟨_, y, execDoorbell_one h h1 (State.accept_misaligned ha) hn hh, hh, hp⟩
  · obtain ⟨y, hy⟩ := (s.passEntry q).reject_qpairs q tag k
    obtain ⟨hn, hh, hp⟩ := State.accepted_pair hy
    have took := (State.accept_launch (s := s.passEntry q) (q := q) ha hk).trans
      (State.startLaunch_rejects ((s.launchCheck_passEntry q l d).trans hc))
    exact ⟨_, y, execDoorbell_one h h1 took hn hh, hh, hp, rfl, rfl⟩
  · have check := (s.launchCheck_passEntry q l d).trans hc
    obtain ⟨hl, -, hy⟩ := State.startLaunch_frame (s := s.passEntry q) check
    obtain ⟨hn, hh, hp⟩ := State.accepted_pair hy
    exact ⟨_, execDoorbell_one h h1 (State.accept_launch ha hk) hn hh, hh, hp, hl, fun c hcl => State.startLaunch_launches check hcl⟩
  · change execCommitOrDenyAPage job page frame s = _
    unfold execCommitOrDenyAPage
    simp only [h]
  · change execCommitOrDenyAPage job page frame s = _
    unfold execCommitOrDenyAPage
    simp only [h]
  · obtain ⟨he, hr, hb⟩ := State.queueEvents_frame (s.dieBuf[die]) { s with dieBuf := s.dieBuf.set die [], dieHeld := s.dieHeld.set die [] }
    exact ⟨_, execEventBufferDrain_room h h0 hh, he, by rw [hb]; simp, hr⟩
  · exact if_pos (.inr h)
  · obtain ⟨j, hj, hjd, hje, hjh⟩ := execJormalFrame_data (s := s) (n := n) h hd
    refine ⟨_, hj, fun hn hh => ?_, fun hn => ?_⟩
    · have next := Jormal.data_next (hn.trans hje.symm) (hjh.trans hh) s.cycle data
      rw [hjd, hje] at next
      exact next
    · have kept := Jormal.data_far (j := j) (seq := Fin.ofNat 4096 n) (by rw [hje]; exact hn) s.cycle data
      dsimp only
      rw [kept]
      exact ⟨hjd, hje, hjh⟩
  · change execModeChange fn on s = _
    unfold execModeChange
    rw [h]
    rfl
  · change execModeChange fn on s = _
    unfold execModeChange
    rw [if_neg (by simpa using h)]

end Sys2Proof.Machine
end

section
/-! SUPPORT. Firmware, identity, module reset and the dies (18 R387-R392). -/

namespace Sys2Proof.Machine

/-! ## Settings -/

/-- A field that a mask leaves. -/
theorem field_and {x m : Word} {lo n : Nat} (h : m.extractLsb' lo n = BitVec.allOnes n) :
    (x &&& m).toNat / 2 ^ lo % 2 ^ n = x.toNat / 2 ^ lo % 2 ^ n := by
  have field (y : Word) : y.toNat / 2 ^ lo % 2 ^ n = (y.extractLsb' lo n).toNat := by
    rw [BitVec.extractLsb'_toNat, Nat.shiftRight_eq_div_pow]
  have same : (x &&& m).extractLsb' lo n = x.extractLsb' lo n := by
    rw [BitVec.extractLsb'_and, h, BitVec.and_allOnes]
  rw [field, field, same]

/-- Clearing the reserved field of `noccfg` keeps settings in their ranges. -/
theorem Settings.plain_ok {c : Settings} (h : c.ok = true) : c.plain.ok = true := by
  have lists : c.plain.noccfg.toList = c.noccfg.toList.map (· &&& 0xFFFFFFF0FFFFFFFF#64) := by
    exact Vector.toList_map
  unfold Settings.ok at h ⊢
  dsimp only at h ⊢
  rw [lists, List.all_map]
  simp only [Bool.and_eq_true, List.all_eq_true] at h ⊢
  refine ⟨h.1, fun x hx => ?_⟩
  have same (lo n : Nat) (h : (0xFFFFFFF0FFFFFFFF#64).extractLsb' lo n = BitVec.allOnes n) := field_and (x := x) h
  simpa only [Function.comp_apply, List.all_cons, List.all_nil, same 52 12 (by decide), same 36 16 (by decide), same 0 8 (by decide),
    same 8 8 (by decide), same 16 8 (by decide), same 24 8 (by decide), Bool.and_eq_true, List.forall_mem_cons, List.not_mem_nil,
    false_imp_iff, implies_true, Bool.and_true, and_true] using h.2 x hx

theorem State.fixedSettings_ok (s : State) : s.fixedSettings.ok = true := by
  unfold State.fixedSettings
  split
  · decide
  · split
    next h => exact Settings.plain_ok h
    next => decide

theorem State.pick_lt (s : State) {n : Nat} (h : 0 < n) : (s.pick n).1 < n := by
  unfold State.pick
  split
  · exact h
  · exact Nat.mod_lt _ h

/-- What a report on a nonce says. -/
def State.reportBody (s : State) (nonce : BitVec 256) : List Byte :=
  s.firmware.part ++ s.firmware.serial ++ (s.firmware.images.map fun d => beBytes 48 d.toNat).flatten ++ s.settingBytes ++ leBytes 32 nonce.toNat

theorem firmware : Claims.Firmware := by
  intro body ecdsa lms version nonce s d
  refine ⟨?_, fun hl => ?_, ?_⟩
  · change execFirmwareImage body version ecdsa lms s = _
    unfold execFirmwareImage
    simp only [Bool.and_eq_true, decide_eq_true_eq, and_assoc]
    split <;> rfl
  · have hk := s.pick_lt (n := p384N - 1) (by decide)
    obtain ⟨f₁, h₁⟩ := s.pick_eq (p384N - 1)
    obtain ⟨k, t, hx⟩ : ∃ k t, s.pick (p384N - 1) = (k, t) := ⟨_, _, rfl⟩
    rw [hx] at hk h₁
    obtain ⟨f₂, h₂⟩ := t.pick_eq (2 ^ 256)
    obtain ⟨c, u, hy⟩ : ∃ c u, t.pick (2 ^ 256) = (c, u) := ⟨_, _, rfl⟩
    rw [hy] at h₂
    have hr : exec (.attestationReport nonce) s = .next { u with firmware := { s.firmware with
        report := some (s.reportBody nonce, ecdsaSign Config.deviceEcdsa (k + 1) (sha384 (s.reportBody nonce)),
          deviceLms.sign s.firmware.leaf (beBytes 32 c) (sha384 (s.reportBody nonce)))
        leaf := s.firmware.leaf + 1 } } := by
      change execAttestationReport nonce s = _
      unfold execAttestationReport
      rw [if_neg (by omega), hx]
      dsimp only
      rw [hy]
      rfl
    have mem : u.mem = s.mem := by
      dsimp only at h₁ h₂
      rw [h₂, h₁]
    exact ⟨_, _, _, _, hr, Nat.succ_pos _, by omega, rfl, rfl, rfl, mem⟩
  · refine ⟨_, rfl, rfl, rfl, rfl, rfl, rfl, rfl, rfl, rfl, rfl, rfl, s.fixedSettings_ok, fun h => ?_, fun g r h => ?_, rfl, rfl⟩
    · change s.fixedSettings = _
      unfold State.fixedSettings
      rw [h]
    · change s.fixedSettings = _
      unfold State.fixedSettings
      rw [h]

end Sys2Proof.Machine
end

section
/-! SUPPORT. The dies, their reset and their cooling; launches and the host (18 R390, R392). -/

namespace Sys2Proof.Machine

section
variable {s t : State} {d e : DieId}

theorem State.setNet_butTraffic (s : State) (l : List Flight) : s.ButTraffic (s.setNet l) := rfl

theorem State.failFlights_butTraffic (s : State) (bad : Flight → Bool) (cause : Nat) : s.ButTraffic (s.failFlights bad cause) :=
  (s.setNet_butTraffic _).trans (foldl_butTraffic (fun s (f : Flight) => s.failPacket_butTraffic cause 3 f.pkt) _ _)

/-- With nothing under way nothing fails. -/
theorem State.failFlights_none (hn : s.net = []) (hp : s.pins = []) (bad : Flight → Bool) (cause : Nat) : s.failFlights bad cause = s := by
  have same : s.setNet [] = s := by
    have pins : s.pins.filter (State.escaping { s with net := [] }) = s.pins := by rw [hp]; rfl
    change ({ s with net := [], pins := s.pins.filter (State.escaping { s with net := [] }) } : State) = s
    rw [pins, ← hn]
  unfold State.failFlights
  rw [hn]
  exact same

/-- The states of the dies, and what a reset leaves of the module's cooling, once a die has begun to drain. -/
theorem State.stepReset_up (h : s.dies[d] = .up) : let t := s.stepReset d
    t.dies = s.dies.set d (.draining s.cycle) ∧ t.cycle = s.cycle ∧ t.hot = s.hot ∧ t.powered = s.powered := by
  have eq : s.stepReset d = State.failToDie { s with dies := s.dies.set d (.draining s.cycle) } d := by
    unfold State.stepReset
    rw [h]
  have hb : State.ButTraffic { s with dies := s.dies.set d (.draining s.cycle) } (s.stepReset d) := by
    rw [eq]
    exact State.failFlights_butTraffic _ _ _
  unfold State.ButTraffic at hb
  dsimp only
  rw [hb]
  exact ⟨rfl, rfl, rfl, rfl⟩

/-- A die that is up begins to drain; another is left alone. -/
abbrev State.fenceUp (s : State) (d : DieId) : State := if s.dies[d] = .up then s.stepReset d else s

theorem State.fenceUp_frame (s : State) (d : DieId) : (s.fenceUp d).cycle = s.cycle ∧ (s.fenceUp d).hot = s.hot ∧ (s.fenceUp d).powered = s.powered := by
  unfold State.fenceUp
  split
  next h => exact (State.stepReset_up h).2
  next => exact ⟨rfl, rfl, rfl⟩

theorem State.fenceUp_dies (s : State) (d e : DieId) :
    (s.fenceUp d).dies[e] = if d = e ∧ s.dies[d] = .up then .draining s.cycle else s.dies[e] := by
  unfold State.fenceUp
  by_cases h : s.dies[d] = .up
  · rw [if_pos h, (State.stepReset_up h).1]
    by_cases he : d = e
    · subst he
      simp [h]
    · have ne : d.val ≠ e.val := fun h => he (Fin.ext h)
      simp [he, Vector.getElem_set_ne, ne]
  · rw [if_neg h, if_neg fun x => h x.2]

/-- Every die that is up among those looked at begins to drain. -/
theorem State.foldl_fenceUp (ds : List DieId) (s : State) : let t := ds.foldl State.fenceUp s
    t.cycle = s.cycle ∧ t.hot = s.hot ∧ t.powered = s.powered ∧
      ∀ e : DieId, (s.dies[e] = .up ∧ e ∈ ds) ∨ s.dies[e] = .draining s.cycle → t.dies[e] = .draining s.cycle := by
  induction ds generalizing s with
  | nil => exact ⟨rfl, rfl, rfl, fun e h => h.resolve_left fun x => List.not_mem_nil x.2⟩
  | cons d ds ih =>
    obtain ⟨hc, hh, hp⟩ := s.fenceUp_frame d
    obtain ⟨ic, ih', ip, id⟩ := ih (s.fenceUp d)
    refine ⟨ic.trans hc, ih'.trans hh, ip.trans hp, fun e h => ?_⟩
    rw [← hc]
    refine id e ?_
    rw [State.fenceUp_dies, hc]
    split
    · exact .inr rfl
    next hd => exact h.imp_left fun x => ⟨x.1, (List.mem_cons.mp x.2).resolve_left fun he => hd ⟨he.symm, he ▸ x.1⟩⟩

end

theorem dies : Claims.Dies := by
  intro d n x s
  refine ⟨fun h hn hp => ?_, fun h hc => ?_, fun h hc => ?_, fun h hh => ?_, fun h h' => ?_, fun h => ?_, fun h hh => ?_, fun h => ?_, fun h h' hh => ?_⟩
  · change execResetADie d s = _
    unfold execResetADie State.stepReset
    rw [h]
    exact congrArg Host.Outcome.next (State.failFlights_none (s := { s with dies := s.dies.set d (.draining s.cycle) }) hn hp _ _)
  · refine ⟨(((dieLinks d).filter s.linkStuck).foldl State.loseLink s).finishReset d, ?_, ?_⟩
    · change execDieDrainTimeout d s = _
      unfold execDieDrainTimeout
      rw [h]
      exact if_pos hc
    · unfold State.finishReset
      simp
  · change execDieDrainTimeout d s = _
    unfold execDieDrainTimeout
    rw [h]
    exact if_neg (by omega)
  · change execMarkDieReady d s = _
    exact if_pos ⟨h, by rw [hh]; rfl⟩
  · change execThermalThrottle x s = _
    unfold execThermalThrottle
    rw [if_pos h]
    exact congrArg Host.Outcome.next (if_neg (by omega))
  · change execThermalThrottle x s = _
    unfold execThermalThrottle
    rw [if_neg (by omega)]
    exact congrArg Host.Outcome.next (if_neg (by omega))
  · obtain ⟨hc, hot, hp, hd⟩ := State.foldl_fenceUp (List.finRange 7) { s with celsius := x, clock := max 1200 (s.clock - 100), hot := true }
    refine ⟨_, ?_, hot, hp, fun e he => hd e (.inl ⟨he, List.mem_finRange e⟩)⟩
    change execThermalThrottle x s = _
    unfold execThermalThrottle State.overheat
    rw [if_pos (show 95 < x by omega)]
    dsimp only
    rw [if_pos h, if_neg (by rw [hh]; exact Bool.false_ne_true)]
  · change execThermalShutdown x s = _
    exact if_pos h
  · change execThermalShutdown x s = _
    unfold execThermalShutdown State.overheat
    rw [if_neg (by rw [h]; exact Bool.false_ne_true), if_pos h']
    exact congrArg Host.Outcome.next (if_pos hh)

/-- Settles O49: launches by the fold over their cores, the host's queues by their entries, the dies by the fold that fences them. -/
theorem launchesAndHost : Obligations.LaunchesAndHost := ⟨launches, hostLink, firmware, dies⟩

end Sys2Proof.Machine
end
